-- ==== Sys2Proof/Word.lean ====
section
/-! DEFINITION. The word types of the QP-960 (spec 00_scope R5 to R7, 08_encoding R206, R212). -/

namespace Sys2Proof

/-- One byte of any memory space (R6). -/
abbrev Byte := BitVec 8
/-- One lane of a vector register (R212). -/
abbrev W32 := BitVec 32
/-- A scalar register, an address, an instruction word (R206, R212). -/
abbrev W64 := BitVec 64
/-- One bit per lane of a group; bit L is lane L (R169, R175). -/
abbrev LaneMask := BitVec 64
/-- The 128 bytes of one line, byte i in bits [8i+7:8i] (R6, R89). -/
abbrev LineData := BitVec 1024
/-- One bit per byte of a line. -/
abbrev ByteMask := BitVec 128
/-- A mailbox command block of 64 bytes (R425, R431). -/
abbrev Block := BitVec 512

end Sys2Proof
end

