-- ==== Sys2Proof/Syntax.lean ====
section
/-! DEFINITION. The instruction set as syntax: one constructor of `Instr` per row of the opcode table. An instruction word
keeps the fields of its format at their exact widths (08_encoding R206 to R208, 12_matrix Table 12.1); a row that is not an
instruction word (a unit's step, an arriving event, a mailbox command) carries what it names as operands. -/

namespace Sys2Proof

/-- The guard of an instruction word: predicate PG and its negation PN (R206, R207). -/
structure Guard where
  p : BitVec 4
  neg : Bool
  deriving DecidableEq, Repr

/-- R format (R208). -/
structure RF where
  g : Guard
  ty : BitVec 3
  dst : BitVec 8
  sa : BitVec 8
  sb : BitVec 8
  sc : BitVec 8
  md : BitVec 16
  deriving DecidableEq, Repr

/-- I format (R208). -/
structure IF where
  g : Guard
  ty : BitVec 3
  dst : BitVec 8
  sa : BitVec 8
  imm : BitVec 32
  deriving DecidableEq, Repr

/-- M format (R208, R209): base scalar, index vector, scope, order, colour, offset (or the narrowed upper bits). -/
structure MF where
  g : Guard
  ty : BitVec 3
  dst : BitVec 8
  sa : BitVec 8
  sb : BitVec 8
  scope : BitVec 3
  ord : BitVec 2
  col : BitVec 3
  off : BitVec 16
  deriving DecidableEq, Repr

/-- B format (R208): signed offset in 8-byte words from the current clause header. -/
structure BF where
  g : Guard
  ty : BitVec 3
  dst : BitVec 8
  sa : BitVec 8
  off : BitVec 32
  deriving DecidableEq, Repr

/-- P format, the prefix rep (R208, R293): COUNT - 1, the STEP mask and STRIDE2. -/
structure PF where
  countM1 : BitVec 6
  step : BitVec 4
  stride2 : Bool
  deriving DecidableEq, Repr

/-- oclaim and orel (Table 12.1). -/
structure ClaimF where
  first : BitVec 4
  countM1 : BitVec 4
  deriving DecidableEq, Repr

/-- An accumulator region: base tile and shape codes (R329, R339). -/
structure RegionF where
  acc : BitVec 2
  mc : BitVec 2
  nc : BitVec 2
  deriving DecidableEq, Repr

/-- mmul and mmulz (Table 12.1). -/
structure MmulF where
  reg : RegionF
  aslot : BitVec 4
  bslot : BitVec 4
  ksM1 : BitVec 3
  arow : BitVec 5
  brow : BitVec 5
  cord : Bool
  rgl : BitVec 3
  deriving DecidableEq, Repr

/-- mdrain (Tables 12.1 to 12.3); `hi` is bits [63:48], laid out by the form. -/
structure MdrainF where
  reg : RegionF
  rega : BitVec 8
  regb : BitVec 8
  regc : BitVec 8
  hi : BitVec 16
  deriving DecidableEq, Repr

/-- mbyp (Table 12.1). -/
structure MbypF where
  reg : RegionF
  oslot : BitVec 4
  orow : BitVec 5
  deriving DecidableEq, Repr

/-- mzero (Table 12.1). -/
structure MzeroF where
  reg : RegionF
  int : Bool
  deriving DecidableEq, Repr

/-- mscl (Table 12.1); the COL bit tells MSCL_ROW from MSCL_COL. -/
structure MsclF where
  sa : BitVec 8
  first8 : BitVec 5
  countM1 : BitVec 5
  deriving DecidableEq, Repr

/-- mprog (Table 12.1). -/
structure MprogF where
  dst : BitVec 8
  deriving DecidableEq, Repr

/-- A split of a resident group: the group's handle and the split number (R175). -/
structure SplitRef where
  group : Nat
  split : Nat
  deriving DecidableEq, Repr

/-- Who raises an event at a home slice (Table 3.1). -/
inductive Requester where
  | l1 (core : Nat)
  | engine (core : Nat)
  | control
  | collier
  | host
  | peer (link : Nat)
  deriving DecidableEq, Repr

/-- One event arriving at the home slice of a line (R64): the partition, the line number PA / 128, the view bit, the
requester, and the bytes written with their mask (an event that carries no data has mask 0). -/
structure SliceAccess where
  part : Nat
  line : Nat
  view : Bool
  who : Requester
  data : LineData
  mask : ByteMask
  deriving DecidableEq, Repr

/-- What a probe asks (PKIND of Table 3.5). -/
inductive ProbeKind where
  | invalidate
  | downgrade
  | update
  deriving DecidableEq, Repr

/-- A probe to a SHARERS bit (0-15 a cluster, 16-19 a peer link), or its acknowledgement, which may return the owner's
data (R66, R67). -/
structure ProbeMsg where
  part : Nat
  line : Nat
  view : Bool
  kind : ProbeKind
  target : Nat
  data : Option LineData
  deriving DecidableEq, Repr

/-- The arrays of Table 2.9 and the error log's UNIT codes (Table 15.2). -/
inductive ErrUnit where
  | registerFile
  | scratchpad
  | l1
  | l2
  | mainMemory
  | weightStore
  | operandMemory
  | accumulator
  deriving DecidableEq, Repr

/-- Who needs the data in which an error is found (R390): a split's instruction, an engine command or gather stream of a core,
or a joint operation of a core, in the block after `blocks` completed ones (R343). -/
inductive Consumer where
  | split (r : SplitRef)
  | command (core id : Nat)
  | stream (core g : Nat)
  | operation (core id blocks : Nat)
  deriving DecidableEq, Repr

/-- Where an array error is found: unit, its number, way for a cache, the partition physical line it holds (with the view bit), and
who consumes it, if anybody does (R58, R390). -/
structure ErrorSite where
  unit : ErrUnit
  index : Nat
  set : Nat
  way : Nat
  part : Nat
  line : Nat
  view : Bool
  consumer : Option Consumer
  deriving DecidableEq, Repr

/-- What a patrol scrub finds in a word (R58). -/
inductive ScrubFinding where
  | clean
  | corrected
  | uncorrectable
  deriving DecidableEq, Repr

/-- How the trailing copy's act stands to the leading one (R412): equal, or a difference of a kind of Table 16.2 in a lane,
with the trailing copy's value of the differing field. -/
inductive TrailFault where
  | agree
  | differs (kind : Nat) (lane : Nat) (trail : BitVec 64)
  deriving DecidableEq, Repr

/-- A peer's migration claim for a page (its size in bytes), its release of a claimed page, or its notice that the migration has been
committed and is complete (R109 steps 2 and 7, R111). -/
structure ClaimMsg where
  link : Nat
  release : Bool
  size : Nat
  addr : Nat
  complete : Bool := false
  deriving DecidableEq, Repr

/-- What a peer's home slice answers: GRANT of Table 3.5, and the data of the line; of a message that is no line's, byte 0 holds its outcome
(R64, R109, R392). -/
structure PeerReply where
  grant : Nat
  data : BitVec 1024
  deriving DecidableEq, Repr

/-- One constructor per row of the opcode table. -/
inductive Instr where
  /-- CLAUSE_HEADER: A split issues a clause header: the whole clause is decoded and role-checked, a billet snapshot is taken when BILLET = 1, and the clause's words may then issue (R202). -/
  | clauseHeader (r : SplitRef)
  /-- CLAUSE_WAIT_END: The condition of a clause wait ends, so the waiting header may issue (R201). -/
  | clauseWaitEnd (r : SplitRef)
  /-- PAUSE_EXPIRY: The n cycles of a pause run out, and the split competes at normal standing again (R189). -/
  | pauseExpiry (r : SplitRef)
  /-- YIELD_TIMEOUT: The 64-cycle limit of a yield without a pending request runs out, and the split's next header may issue (R367). -/
  | yieldTimeout (r : SplitRef)
  /-- PRIORITY_LIFT: A split that has been ready for 65,536 cycles without issuing has its effective priority raised by 1 (R192). -/
  | priorityLift (r : SplitRef)
  /-- NOP: Has no effect (R264). -/
  | nop (f : RF)
  /-- SADD: Scalar add (R255). -/
  | sadd (f : RF)
  /-- SSUB: Scalar subtract (R255). -/
  | ssub (f : RF)
  /-- SMUL: Low half of a scalar product (R255). -/
  | smul (f : RF)
  /-- SMULH: High half of a scalar product (R255). -/
  | smulh (f : RF)
  /-- SDIV: Scalar quotient; it never traps and sets STICKY on division by zero or overflow (R256). -/
  | sdiv (f : RF)
  /-- SREM: Scalar remainder; it never traps (R256). -/
  | srem (f : RF)
  /-- SAND: Scalar bitwise and (R255). -/
  | sand (f : RF)
  /-- SOR: Scalar bitwise or (R255). -/
  | sor (f : RF)
  /-- SXOR: Scalar bitwise exclusive or (R255). -/
  | sxor (f : RF)
  /-- SSHL: Scalar shift left (R255). -/
  | sshl (f : RF)
  /-- SSHR: Scalar shift right, arithmetic or logical by type (R255). -/
  | sshr (f : RF)
  /-- SMIN: Scalar minimum (R255). -/
  | smin (f : RF)
  /-- SMAX: Scalar maximum (R255). -/
  | smax (f : RF)
  /-- SCMP: Compares two scalars and writes a predicate in every lane of the mask (R259). -/
  | scmp (f : RF)
  /-- SMOV: Scalar move with extension (R264). -/
  | smov (f : RF)
  /-- SMOVI: Moves a 32-bit immediate into a scalar (R264). -/
  | smovi (f : IF)
  /-- SMOVHI: Writes the high 32 bits of a scalar (R264). -/
  | smovhi (f : IF)
  /-- SLEA: Scalar base plus shifted index (R263). -/
  | slea (f : RF)
  /-- SSEL: Scalar select on the predicate of the lowest lane of the mask (R260). -/
  | ssel (f : RF)
  /-- SBIT: Scalar population count, leading zeros, trailing zeros or bit reversal (R261). -/
  | sbit (f : RF)
  /-- SBFX: Extracts a scalar bit field (R262). -/
  | sbfx (f : RF)
  /-- SRD: Reads a special register (R265). -/
  | srd (f : RF)
  /-- SWR: Writes a special register, subject to privilege and access checks (R265). -/
  | swr (f : RF)
  /-- SFMT: Sets the whole FMT from a scalar (R266). -/
  | sfmt (f : RF)
  /-- SFMT_RND: Sets FMT.RND (R266). -/
  | sfmtRnd (f : RF)
  /-- SFMT_SAT: Sets FMT.SAT (R266). -/
  | sfmtSat (f : RF)
  /-- SFMT_ATB: Sets FMT.ATB and changes the binding counts (R266). -/
  | sfmtAtb (f : RF)
  /-- VOTE: Any, all, ballot or count of a predicate over the active lanes (R267). -/
  | vote (f : RF)
  /-- BRA: Guarded branch that may divide the split (R269). -/
  | bra (f : BF)
  /-- BRX: Per-lane indirect branch, each distinct target forming one part (R269). -/
  | brx (f : RF)
  /-- CALL: Branch that writes the return header address (R269). -/
  | call (f : BF)
  /-- RET: Indirect return to a scalar address (R269). -/
  | ret (f : RF)
  /-- RCVP: Pushes a join entry onto the reconvergence stack (R176). -/
  | rcvp (f : BF)
  /-- JOIN: Records arrival at a join, pops a pending path or waits (R178). -/
  | join (f : RF)
  /-- BSYNC: Level-2 opcode 0x2E, behaving exactly as join (R218). -/
  | bsync (f : RF)
  /-- EXIT: Ends the guarded lanes, which count as arrived at every join (R179). -/
  | exit (f : RF)
  /-- PAUSE: Places the split below all unpaused splits for n cycles (R272). -/
  | pause (f : IF)
  /-- LOOP: Decrements a counter once and branches while it is nonzero (R270). -/
  | loop (f : BF)
  /-- LAUNCH: Checks the child quota, reads a child record and hands it to the distributor, returning a token (R273). -/
  | launch (f : RF)
  /-- BAR: Arrives at a crew barrier and waits for its phase to advance (R274). -/
  | bar (f : RF)
  /-- BAR_ARV: Arrives at a crew barrier without waiting (R274). -/
  | barArv (f : RF)
  /-- CBAR: Arrives at a cord barrier; the barrier completes when every crew has arrived (R188). -/
  | cbar (f : RF)
  /-- RGET: Waits until a ring slot holds the expected phase (R275). -/
  | rget (f : RF)
  /-- RPUT: Inverts the phase of a ring slot, releasing at crew scope (R275). -/
  | rput (f : RF)
  /-- VADD: Vector add (R255). -/
  | vadd (f : RF)
  /-- VSUB: Vector subtract (R255). -/
  | vsub (f : RF)
  /-- VMUL: Low half of a vector product (R255). -/
  | vmul (f : RF)
  /-- VMULH: High half of a vector product (R255). -/
  | vmulh (f : RF)
  /-- VMAD: Vector multiply-add (R255). -/
  | vmad (f : RF)
  /-- VDIV: Vector quotient; it never traps (R256). -/
  | vdiv (f : RF)
  /-- VREM: Vector remainder; it never traps (R256). -/
  | vrem (f : RF)
  /-- VMIN: Vector minimum (R255). -/
  | vmin (f : RF)
  /-- VMAX: Vector maximum (R255). -/
  | vmax (f : RF)
  /-- VABS: Vector absolute value (R255). -/
  | vabs (f : RF)
  /-- VNEG: Vector negation (R255). -/
  | vneg (f : RF)
  /-- VAND: Vector bitwise and (R255). -/
  | vand (f : RF)
  /-- VOR: Vector bitwise or (R255). -/
  | vor (f : RF)
  /-- VXOR: Vector bitwise exclusive or (R255). -/
  | vxor (f : RF)
  /-- VNOT: Vector bitwise not (R255). -/
  | vnot (f : RF)
  /-- VSHL: Vector shift left (R255). -/
  | vshl (f : RF)
  /-- VSHR: Vector shift right (R255). -/
  | vshr (f : RF)
  /-- VROT: Vector rotate left (R255). -/
  | vrot (f : RF)
  /-- VBFX: Extracts a vector bit field (R262). -/
  | vbfx (f : RF)
  /-- VBIT: Vector population count, leading zeros, trailing zeros or bit reversal (R261). -/
  | vbit (f : RF)
  /-- VCMP: Compares per lane and writes a predicate (R259). -/
  | vcmp (f : RF)
  /-- VSEL: Selects per lane between two sources by a predicate (R260). -/
  | vsel (f : RF)
  /-- VMOV: Vector move, or a broadcast of a scalar (R264). -/
  | vmov (f : RF)
  /-- VMOVI: Moves an immediate into every active lane (R264). -/
  | vmovi (f : IF)
  /-- VLEA: Vector base plus shifted index (R263). -/
  | vlea (f : RF)
  /-- FADD: Float add, correctly rounded (R277). -/
  | fadd (f : RF)
  /-- FSUB: Float subtract (R277). -/
  | fsub (f : RF)
  /-- FMUL: Float multiply (R277). -/
  | fmul (f : RF)
  /-- FFMA: Fused float multiply-add (R277). -/
  | ffma (f : RF)
  /-- FMIN: IEEE minimumNumber (R278). -/
  | fmin (f : RF)
  /-- FMAX: IEEE maximumNumber (R278). -/
  | fmax (f : RF)
  /-- FABS: Clears the sign bit (R277). -/
  | fabs (f : RF)
  /-- FNEG: Inverts the sign bit (R277). -/
  | fneg (f : RF)
  /-- FCMP: Float compare into a predicate (R279). -/
  | fcmp (f : RF)
  /-- FCLASS: Writes a one-hot class of the float value (R280). -/
  | fclass (f : RF)
  /-- FDIV: Float divide (R277). -/
  | fdiv (f : RF)
  /-- FSQRT: Float square root (R277). -/
  | fsqrt (f : RF)
  /-- FRCP: Float reciprocal (R277). -/
  | frcp (f : RF)
  /-- FRSQ: Reciprocal square root to 1 ulp (R277). -/
  | frsq (f : RF)
  /-- FEXP2: Power of two to 1 ulp (R277). -/
  | fexp2 (f : RF)
  /-- FLOG2: Base-2 logarithm to 1 ulp (R277). -/
  | flog2 (f : RF)
  /-- FSIN: sin(pi x) (R277). -/
  | fsin (f : RF)
  /-- FCOS: cos(pi x) (R277). -/
  | fcos (f : RF)
  /-- FTANH: Hyperbolic tangent (R277). -/
  | ftanh (f : RF)
  /-- FACT: Evaluates the bound activation-table bank (R286). -/
  | fact (f : RF)
  /-- FDOT2: Two-element dot product plus an f32 addend, rounded once (R281). -/
  | fdot2 (f : RF)
  /-- CVT: Converts one value per lane between kinds (R248). -/
  | cvt (f : RF)
  /-- PACK: Converts two values per lane and packs them (R249). -/
  | pack (f : RF)
  /-- UNPK: Spreads packed elements over consecutive registers (R250). -/
  | unpk (f : RF)
  /-- FSCL: Multiplies by a power of two (R251). -/
  | fscl (f : RF)
  /-- FROUND: Rounds to an integral value in the same format (R252). -/
  | fround (f : RF)
  /-- VEXPR: Runs a small stack program of f32 operators per lane (R287). -/
  | vexpr (f : RF) (toks : BitVec 64)
  /-- QSWZ: Swizzles within each quad (R290). -/
  | qswz (f : RF)
  /-- QBCAST: Broadcasts one lane of each quad (R290). -/
  | qbcast (f : RF)
  /-- LXCHG: Exchanges with the lane at an exclusive-or distance (R290). -/
  | lxchg (f : RF)
  /-- LSHFL: Reads a lane chosen by an index (R290). -/
  | lshfl (f : RF)
  /-- LROT: Rotates values across lanes (R290). -/
  | lrot (f : RF)
  /-- LSCAN: Inclusive or exclusive scan over active lanes (R291). -/
  | lscan (f : RF)
  /-- LRED: Reduction over active lanes (R291). -/
  | lred (f : RF)
  /-- LIDX: Counts the active lanes below each lane where a predicate holds (R292). -/
  | lidx (f : RF)
  /-- QHELP: Gives helper lanes the value of their quad's lowest active lane (R290). -/
  | qhelp (f : RF)
  /-- ATLOAD: Loads an activation-table bank from a checked image (R284). -/
  | atload (f : RF)
  /-- ATBIND: Binds an activation-table bank for the split (R285). -/
  | atbind (f : RF)
  /-- LD: Per-lane load from generic memory, optionally acquire (R299). -/
  | ld (f : MF)
  /-- ST: Per-lane store to generic memory, optionally release (R299). -/
  | st (f : MF)
  /-- LATE_FRAMING: A refused unbacked page with LATE = 1 is given a frame from the pool and its PTEs are rewritten (R102). -/
  | lateFraming (part : Nat)
  /-- LDS: Per-lane load from the crew's scratchpad (R299). -/
  | lds (f : MF)
  /-- STS: Per-lane store to the crew's scratchpad (R299). -/
  | sts (f : MF)
  /-- LDW: Per-lane read of the weight store (R300). -/
  | ldw (f : MF)
  /-- ATOM: Per-lane atomic read-modify-write on generic memory (R302). -/
  | atom (f : MF)
  /-- CAS: Per-lane compare-and-swap on generic memory (R303). -/
  | cas (f : MF)
  /-- ATOMS: Per-lane atomic on the crew's scratchpad (R302). -/
  | atoms (f : MF)
  /-- FENCE_ACQ: Makes earlier loads acquires at the fence's scope (R305). -/
  | fenceAcq (f : RF)
  /-- FENCE_REL: Orders earlier loads and masked-colour stores before later stores, and raises latched errors (R305). -/
  | fenceRel (f : RF)
  /-- FENCE_FULL: Orders every access both ways and joins the total fence order (R305). -/
  | fenceFull (f : RF)
  /-- DCF: Joins the two views of a compressed block (R307). -/
  | dcf (f : MF)
  /-- DISC: Discards a line without write-back (R308). -/
  | disc (f : MF)
  /-- PRF: Prefetches a line into L1 or L2 (R309). -/
  | prf (f : MF)
  /-- WBACK: Writes a line back and keeps it (R310). -/
  | wback (f : MF)
  /-- SINV: Drops a line from the core's L1 (R311). -/
  | sinv (f : MF)
  /-- CPL: Per-lane copy from generic memory to the scratchpad or operand memory (R317). -/
  | cpl (f : MF)
  /-- CPS: Per-lane copy from the scratchpad to generic memory (R317). -/
  | cps (f : MF)
  /-- CPT: Copies one tensor box into the scratchpad or operand slots (R320). -/
  | cpt (f : RF)
  /-- CPTW: Copies one tensor box from the scratchpad to memory (R320). -/
  | cptw (f : RF)
  /-- TLOAD: Reads and checks a tensor record into a t register (R319). -/
  | tload (f : MF)
  /-- TBINIT: Initialises a transaction barrier (R323). -/
  | tbinit (f : MF)
  /-- TBARR: Arrives at a transaction barrier and adds expected sectors (R323). -/
  | tbarr (f : MF)
  /-- TBEXP: Adds expected sectors to a transaction barrier (R323). -/
  | tbexp (f : MF)
  /-- TBTEST: Reads a transaction barrier, optionally as an acquire (R323). -/
  | tbtest (f : MF)
  /-- GSET: Starts a gather stream (R325). -/
  | gset (f : RF)
  /-- GGET: Takes the next elements of a gather stream into registers (R326). -/
  | gget (f : RF)
  /-- GSTOP: Frees a gather stream and cancels its fetches (R326). -/
  | gstop (f : RF)
  /-- COPY_COMPLETE: A copy command ends after all its elements: its release, then its token or barrier update (R315). -/
  | copyComplete (core id : Nat)
  /-- GATHER_FETCH_COMPLETE: A gather fetch delivers its element to the stream (R325). -/
  | gatherFetchComplete (core stream pos : Nat)
  /-- OCLAIM: Claims a run of operand slots for the gang (R340). -/
  | oclaim (f : ClaimF)
  /-- OREL: Releases a run of operand slots once their users have finished (R340). -/
  | orel (f : ClaimF)
  /-- MMUL: Joint matrix product accumulated into a region (R341). -/
  | mmul (f : MmulF)
  /-- MMULZ: Joint matrix product into a zeroed region (R341). -/
  | mmulz (f : MmulF)
  /-- MDRAIN_V: Converts a region and delivers it to the members' vector registers (R348). -/
  | mdrainV (f : MdrainF)
  /-- MDRAIN_S: Converts a region and writes it to the scratchpad by a drain command (R349). -/
  | mdrainS (f : MdrainF)
  /-- MDRAIN_G: Converts a region and writes it to generic memory by a drain command (R349). -/
  | mdrainG (f : MdrainF)
  /-- MBYP: Converts a region and writes it into operand slots (R350). -/
  | mbyp (f : MbypF)
  /-- MZERO: Zeroes a region and tags its tiles (R344). -/
  | mzero (f : MzeroF)
  /-- MSCL_ROW: Loads row scales from the scratchpad (R345). -/
  | msclRow (f : MsclF)
  /-- MSCL_COL: Loads column scales from the scratchpad (R345). -/
  | msclCol (f : MsclF)
  /-- MPROG: Reads the state of the core's matrix units (R351). -/
  | mprog (f : MprogF)
  /-- GANG_LATCH_RELEASE: All members have arrived: the latch compares them and checks the joint instruction once (R336). -/
  | gangLatchRelease (core key : Nat)
  /-- GANG_LATCH_TIMEOUT: A latch has waited 2^20 cycles and raises GANG in every arrived member (R336). -/
  | gangLatchTimeout (core key : Nat)
  /-- CORD_LATCH_RELEASE: Every crew's gang has passed its latch, and the cord operation is released (R342). -/
  | cordLatchRelease (launch cord : Nat)
  /-- MATRIX_OP_COMPLETE: A matrix or drain operation finishes its last block and retires in every member (R338). -/
  | matrixOpComplete (core id : Nat)
  /-- DRAIN_COMMAND_COMPLETE: The writes of a drain command end and its token or barrier update is made (R349). -/
  | drainCommandComplete (core id : Nat)
  /-- EMULATION_COMPLETE: The firmware finishes an emulated operation, and the instruction retires in every member (R352). -/
  | emulationComplete (core id : Nat)
  /-- TRAP: Raises TRAPI with a code (R364). -/
  | trap (f : IF)
  /-- TRET: Returns a split from trap level (R365). -/
  | tret (f : RF)
  /-- BRK: Raises BRK with a code (R364). -/
  | brk (f : IF)
  /-- FPCNT: Reads a launch counter (R366). -/
  | fpcnt (f : RF)
  /-- FPCNT_CLR: Reads and clears a launch counter indivisibly (R366). -/
  | fpcntClr (f : RF)
  /-- FPCNT_CLRALL: Clears all 21 counters and returns a mask of those that were nonzero (R366). -/
  | fpcntClrall (f : RF)
  /-- YIELD: Offers the crew to the distributor (R367). -/
  | yield (f : RF)
  /-- SYNC_ENG: Waits for every engine command of the group (R368). -/
  | syncEng (f : RF)
  /-- SYNC_ERR: Waits for the split's writes to settle, then raises a latched error (R368). -/
  | syncErr (f : RF)
  /-- SYNC_CODE: Waits for released writes and discards the fetched code (R368). -/
  | syncCode (f : RF)
  /-- REP: Repeats the next instruction with stepped register fields (R294). -/
  | rep (f : PF)
  /-- RD: A DIR load miss, or a peer read to be cached, reaches the home slice (R64). -/
  | rd (a : SliceAccess)
  /-- RDX: A DIR store miss reaches the home slice (R64). -/
  | rdx (a : SliceAccess)
  /-- UPG: A store to a shared DIR line asks for an upgrade (R64). -/
  | upg (a : SliceAccess)
  /-- WB: An owner returns a dirty line with its data (R64). -/
  | wb (a : SliceAccess)
  /-- EVC: An owner drops an exclusive clean line (R64). -/
  | evc (a : SliceAccess)
  /-- RDS: A read that is not recorded reaches the slice (R64). -/
  | rds (a : SliceAccess)
  /-- WRS: A byte-masked write reaches the slice (R64). -/
  | wrs (a : SliceAccess)
  /-- ATX: An atomic asks for exclusive permission on a line (R83). -/
  | atx (a : SliceAccess)
  /-- ATR: A line held for a SINV atomic is returned (R83). -/
  | atr (a : SliceAccess)
  /-- XRD: A host CXL.mem read of a device-bias line, or an uncached peer read, arrives (R64). -/
  | xrd (a : SliceAccess)
  /-- XWR: A host CXL.mem write of a device-bias line, or an uncached peer write, arrives (R64). -/
  | xwr (a : SliceAccess)
  /-- SNP: A host snoop of a line held as a CXL.cache copy arrives (R64). -/
  | snp (a : SliceAccess)
  /-- PROBE: A probe reaches an L1 or a peer link, which acts and acknowledges (R66). -/
  | probe (a : ProbeMsg)
  /-- PROBE_ACK: A probe acknowledgement reaches the slice; the last one lets the transition go on (R74). -/
  | probeAck (a : ProbeMsg)
  /-- WALK_START: A free walker is given to a queued walk (R161). -/
  | walkStart (tenant : Nat)
  /-- WALK_COMPLETE: A walk ends: the leaf is checked, A and D are set, the shadow is recorded and the translation is installed (R152). -/
  | walkComplete (walk : Nat)
  /-- WALK_AHEAD: The tensor walker translates pages ahead of a command (R162). -/
  | walkAhead (core id page : Nat)
  /-- PAGE_REQUEST_WRITE: A page-request record is written to the function's ring once there is room, and the interrupt is raised (R167). -/
  | pageRequestWrite (func : Nat)
  /-- PRQREPLY: A page-request reply releases the lanes attached to its tag for retranslation, or faults them (R163). -/
  | prqreply (func : Nat) (value : BitVec 64)
  /-- LAUNCH_WINDOW_ARM: A write of byte 0x7F of a launch-window position arms and parses a version 2 record (R372). -/
  | launchWindowArm (func queue pos : Nat) (record : BitVec 1024)
  /-- QTAIL_WRITE: The host advances a queue interface's packet tail (R374). -/
  | qtailWrite (func queue : Nat) (tail : BitVec 32)
  /-- PACKET_LAUNCH: A LAUNCH packet is read, checked and its version 1 record fetched (R375). -/
  | packetLaunch (func queue : Nat)
  /-- PACKET_NOP: A NOP packet is consumed without effect (R374). -/
  | packetNop (func queue : Nat)
  /-- PACKET_OTHER_OP: A packet with any other OP is refused with status 1 (R374). -/
  | packetOtherOp (func queue : Nat)
  /-- IMAGE_CHECK: After acceptance, the kernel image is read and checked, and the checks that need it are made (R377). -/
  | imageCheck (launch : Nat)
  /-- CHILD_RECORD_RECEIVE: The distributor receives and checks a child record (R380). -/
  | childRecordReceive (launch : Nat)
  /-- PRELOAD_START: Once earlier launches of the partition have retired, the preload copies of a launch begin (R383). -/
  | preloadStart (launch : Nat)
  /-- PRELOAD_COMPLETE: The preload copies end with a release of device scope, or the launch fails with CODE 0x42 (R383). -/
  | preloadComplete (launch : Nat)
  /-- CORD_PLACE: When resources free or a candidate appears, the distributor places the next cord of the best candidate (R384). -/
  | cordPlace (part : Nat)
  /-- CANDIDATE_BLOCKING: A candidate that has waited 2^20 cycles becomes blocking (R384). -/
  | candidateBlocking (launch : Nat)
  /-- GROUP_RETIRE: A group whose lanes have all exited retires once its engine commands are done (R198). -/
  | groupRetire (group : Nat)
  /-- PREEMPTION: A pre-emption request halts a cord's crews, rewinds their splits and writes their contexts (R396). -/
  | preemption (launch cord : Nat) (blocks : Nat)
  /-- LAZY_SAVE: The lazy state of a pre-empted crew is saved when incoming work needs it (R399). -/
  | lazySave (crew : Nat)
  /-- CREW_RESUME: A saved crew is restored and resumes issue (R400). -/
  | crewResume (launch cord : Nat)
  /-- WATCHDOG_FIRE: A launch's watchdog counter reaches the partition's limit (R404). -/
  | watchdogFire (launch : Nat)
  /-- UNCORRECTABLE_ERROR: A unit finds an uncorrectable error: the data is withheld, logged, scored and aborted (R390). -/
  | uncorrectableError (e : ErrorSite)
  /-- CORRECTED_ERROR: A corrected error is fixed, counted and scored, and may retire an L2 way (R58). -/
  | correctedError (e : ErrorSite)
  /-- PATROL_SCRUB: The patrol scrubber visits a word of L2, the weight store or main memory (R58). -/
  | patrolScrub (e : ErrorSite) (found : ScrubFinding)
  /-- REFRESH_START: A weight-store bank's refresh window begins (R51). -/
  | refreshStart (bank : Nat)
  /-- REFRESH_END: A refresh window ends, and held reads proceed (R51). -/
  | refreshEnd (bank : Nat)
  /-- PEER_ABORT: A peer answers an outbound access with an abort (R392). -/
  | peerAbort (req : Nat)
  /-- PEER_ACCESS_TIMEOUT: No answer to an outbound peer access arrives within 4 us (R392). -/
  | peerAccessTimeout (req : Nat)
  /-- HOST_ABORT: The host answers an outbound access with an abort or unsupported request (R393). -/
  | hostAbort (req : Nat)
  /-- HOST_COMPLETION_TIMEOUT: An outbound host access gets no completion within the programmed timeout (R393). -/
  | hostCompletionTimeout (req : Nat)
  /-- PEER_LINK_DOWN: A peer link falls to Down, and the steps of Table 15.3 are taken (R394). -/
  | peerLinkDown (link : Nat)
  /-- REMOTE_INVALIDATION: A peer's invalidation of remote translations arrives and is acknowledged (R168). -/
  | remoteInvalidation (link lo hi : Nat)
  /-- REMOTE_INVAL_TIMEOUT: A remote invalidation is not acknowledged within 4 us, and the link is marked failed (R168). -/
  | remoteInvalTimeout (link : Nat)
  /-- HDM_READ: A host read through HDM range 0 is admitted or refused (R24). -/
  | hdmRead (addr len : Nat)
  /-- HDM_WRITE: A host write through HDM range 0 is admitted or dropped (R24). -/
  | hdmWrite (addr : Nat) (bytes : List Byte)
  /-- COMPARE_ACT: The trailing copy presents an act, and the comparator matches it against the leading copy (R412). -/
  | compareAct (pair : Nat) (fault : TrailFault)
  /-- TRAILING_COPY_TIMEOUT: A trailing copy has not arrived within 1,024 cycles of its leading act (R412). -/
  | trailingCopyTimeout (pair : Nat)
  /-- UNIT_TEST_START: A unit marked for test becomes idle, and its targeted test begins (R423). -/
  | unitTestStart (unit : Nat)
  /-- UNIT_TEST_DONE: A targeted test ends: the unit returns to service or is retired (R423). -/
  | unitTestDone (unit : Nat) (passed : Bool)
  /-- REGISTER_WRITE: A host write to a register that has no row of its own (R25). -/
  | registerWrite (func off size : Nat) (value : BitVec 64)
  /-- FLR: A function-level reset of a virtual function resets its queue interfaces (R438). -/
  | flr (func : Nat)
  /-- LINE_MISS_COMPLETE: An outstanding L2 line miss returns its data from main memory, freeing its miss entry so that waiting requests to the slice proceed (R37). -/
  | lineMissComplete (slice : Nat)
  /-- PEER_ANSWER: A peer's successful answer or acknowledgement to an outbound access reaches the initiating home slice (R392). -/
  | peerAnswer (req : Nat) (reply : PeerReply)
  /-- HOST_COMPLETION: The host returns a successful completion or write response for an outbound host-memory access (R393). -/
  | hostCompletion (req : Nat)
  /-- MIGRATION_CLAIM: A peer's migration claim or release request arrives, and the control core claims or frees room in its own unbacked aperture (R109). -/
  | migrationClaim (m : ClaimMsg)
  /-- MIGRATION_LINE: A migrated line arrives from a peer, becomes Written or Zero in its claimed home, and is acknowledged (R109). -/
  | migrationLine (link addr : Nat) (written : Bool) (data : BitVec 1024)
  /-- FLIT_REPLAY: A peer-link flit fails its CRC and is replayed by the link layer, and the PLSTAT replay count is incremented (R439). -/
  | flitReplay (link : Nat)
  /-- MIGRATE_ACK_TIMEOUT: A peer acknowledgement of a migration takes longer than 4 us, and the migration aborts (R110). -/
  | migrateAckTimeout
  /-- SCORE_DECAY: Every 10 s each suspicion score falls by 1 (R423). -/
  | scoreDecay
  /-- PAIR: Collier command that makes a pair a clamp (R422). -/
  | pair
  /-- UNPAIR: Collier command that returns a clamp to independent mode (R422). -/
  | unpair
  /-- RELEASE: Collier command that clears a pair's suspect mark (R425). -/
  | release
  /-- LIMITS: Collier command that sets the watchdog limit and SUSPTH (R425). -/
  | limits
  /-- KEYLOAD: Collier command that unwraps and loads an encryption key (R443). -/
  | keyload
  /-- PRESET: Collier command that resets a partition (R436). -/
  | preset
  /-- ATTEST: Collier command that writes a signed attestation report (R443). -/
  | attest
  /-- INJECT: Collier command that arms one altered trailing-copy store (R456). -/
  | inject
  /-- MIGRATE: Control-core command that migrates unbacked pages to a peer (R109). -/
  | migrate
  /-- INVAL_PAGE: Invalidates the translations of one page (R160). -/
  | invalPage
  /-- INVAL_RANGE: Invalidates a virtual range of a tenant (R160). -/
  | invalRange
  /-- INVAL_TENANT: Invalidates a tenant's translations except global ones (R160). -/
  | invalTenant
  /-- INVAL_TENANT_ALL: Invalidates every translation of a tenant (R160). -/
  | invalTenantAll
  /-- INVAL_GUEST_RANGE: Invalidates stage-2 translations of a guest-physical range (R160). -/
  | invalGuestRange
  /-- INVAL_PARTITION: Invalidates every translation of the partition (R160). -/
  | invalPartition
  /-- INVAL_KEY_SHADOW: Clears frame-key shadow bytes over a range (R160). -/
  | invalKeyShadow
  /-- TENANT_SET: Sets a tenant's translation context (R146). -/
  | tenantSet
  /-- TENANT_DELETE: Deletes a tenant (R146). -/
  | tenantDelete
  /-- TRAPSET: Registers a tenant's handler and frame ring (R357). -/
  | trapset
  /-- CTXPOOL: Gives a tenant its context pool (R398). -/
  | ctxpool
  /-- BIAS_TO_HOST: Flips a 2 MiB block from device bias to host bias (R86). -/
  | biasToHost
  /-- BIAS_TO_DEVICE: Flips a 2 MiB block from host bias to device bias (R86). -/
  | biasToDevice
  /-- PREEMPT: Control-core command that requests pre-emption of a cord (R395). -/
  | preempt
  /-- LINKUP: Trains, attests and binds a peer link (R439). -/
  | linkup
  /-- RECONF: Checks a reconfiguration list as a whole and applies it, or refuses it (R433). -/
  | reconf
  /-- CC_UNKNOWN_OP: A control-core command with an unknown OP completes with STATUS 1 (R431). -/
  | ccUnknownOp
  /-- DEVICE_RESET: PORST_N resets the whole device and the Collier starts its boot chain (R442). -/
  | deviceReset
  /-- POWER_GOOD: Every rail is within limits, and the Collier releases the device from reset (R444). -/
  | powerGood
  /-- FIRMWARE_READY: The firmware reports ready, the boot lock is set and the host link may train (R442). -/
  | firmwareReady
  /-- PERST: PERST_N resets the host link and the queue interfaces (R444). -/
  | perst
  /-- THERMAL_HOLD: Junction temperature reaches 115 C, and cores are held at the efficiency clock (R444). -/
  | thermalHold
  /-- THERMAL_TRIP: Junction temperature reaches 125 C: THERMTRIP_N is driven and rail shutdown requested (R444). -/
  | thermalTrip
  /-- CLOCK_MONITOR_FAIL: The Collier's clock monitor fails, and SAFE_N is driven low (R444). -/
  | clockMonitorFail
  /-- THERMAL_HOLD_END: Junction temperature falls below 115 C, and the cores leave the efficiency-clock hold (R444). -/
  | thermalHoldEnd
  deriving DecidableEq, Repr

end Sys2Proof
end

