-- ==== Sys2Proof/WellFormed.lean ====
section
/-! DEFINITION. The static conditions on an instruction: the checks 3, 5, 6 and 7 of Table 8.3 that need nothing but the
word (08_encoding R204 to R211, and the entry of each instruction), and the ranges of the operands of the other rows.
The conditions that need the kernel image (REGS, WIDTH, ring count) are in `Instr.fits`. -/

namespace Sys2Proof

/-- A register space of Table 8.6; a vector operand takes `n` registers from a code that is a multiple of `n`. -/
inductive Space where
  | v (n : Nat)
  | s
  | p
  | t
  deriving DecidableEq, Repr

/-- What an instruction does with one of its register fields. -/
inductive Use where
  | unused
  | literal
  | reg (sp : Space)
  deriving DecidableEq, Repr

/-- The use of the four register fields (R206). -/
structure Uses where
  dst : Use := .unused
  sa : Use := .unused
  sb : Use := .unused
  sc : Use := .unused
  deriving DecidableEq, Repr

/-- The code lies in its space (R210). -/
def Space.ok (sp : Space) (c : BitVec 8) : Bool :=
  match sp with
  | .v n => c.toNat % n == 0
  | .s => c.toNat < 64
  | .p => c.toNat < 16
  | .t => c.toNat < 8

/-- A field that the instruction does not use is 0; a register field lies in its space (R204 checks 5 and 6). -/
def Use.ok (u : Use) (c : BitVec 8) : Bool :=
  match u with
  | .unused => c == 0
  | .literal => true
  | .reg sp => sp.ok c

/-- One more than the highest vector register the field names, 0 if it names none. -/
def Use.top (u : Use) (c : BitVec 8) : Nat :=
  match u with
  | .reg (.v n) => c.toNat + n
  | _ => 0

/-- SBS, bit 15 of MOD (R210). -/
def RF.sbs (f : RF) : Bool := f.md.getLsbD 15
/-- SCS, bit 14 of MOD (R210). -/
def RF.scs (f : RF) : Bool := f.md.getLsbD 14
/-- A field of MOD as a number. -/
def RF.m (f : RF) (lo len : Nat) : Nat := f.md.toNat / 2 ^ lo % 2 ^ len
/-- MOD has no bit outside the mask. -/
def RF.mdIn (f : RF) (mask : Nat) : Bool := f.md &&& ~~~(BitVec.ofNat 16 mask) == 0
/-- TY is one of those listed. -/
def tyIn (ty : BitVec 3) (l : List Nat) : Bool := l.contains ty.toNat

/-- The 64-bit integer types take register pairs (R254). -/
def intSpan (ty : BitVec 3) : Nat := if ty == 4 || ty == 5 then 2 else 1
/-- f64 takes register pairs (R276). -/
def floatSpan (ty : BitVec 3) : Nat := if ty == 3 then 2 else 1
/-- Registers of a memory operand by TY (R297, Table 8.7). -/
def memSpan (ty : BitVec 3) : Nat := if ty == 6 then 4 else if ty == 5 then 2 else 1

/-- Scalar arithmetic without and with the immediate form (R253). -/
def usesS (f : RF) (two imm : Bool) : Uses :=
  { dst := .reg .s, sa := .reg .s
    sb := if two then (if imm && f.sb == 0xFF then .literal else .reg .s) else .unused }

/-- A V-class form: DST and SA of `n` registers each, SB and SC used or not, scalar under SBS and SCS (R210, R254). -/
def usesV (f : RF) (n : Nat) (b c : Bool) : Uses :=
  { dst := .reg (.v n), sa := .reg (.v n)
    sb := if b then (if f.sbs then .reg .s else .reg (.v n)) else .unused
    sc := if c then (if f.scs then .reg .s else .reg (.v n)) else .unused }

/-- An M-format access: DST of `n` vector registers, base scalar, index vector (R209, R297). -/
def usesM (n : Nat) : Uses := { dst := .reg (.v n), sa := .reg .s, sb := .reg (.v 1) }

/-- Registers of a conversion kind (R248). -/
def kindSpan (k : Nat) : Nat := if k == 2 || k == 3 || k == 11 then 2 else 1

/-- What each instruction does with its register fields, as its entry gives. -/
def Instr.uses : Instr → Uses
  | .sadd f | .ssub f | .smul f | .smulh f | .sdiv f | .srem f | .sand f | .sor f | .sxor f | .sshl f | .sshr f
  | .smin f | .smax f => usesS f true true
  | .scmp f => { usesS f true true with dst := .reg .p, sc := .literal }
  | .slea f => { usesS f true true with sc := .literal }
  | .smov f | .sbit f => usesS f false false
  | .smovi _ | .smovhi _ => { dst := .reg .s }
  | .ssel f => { usesS f true false with sc := .reg .p }
  | .sbfx f => { usesS f false false with sb := .literal, sc := .literal }
  | .srd f => { dst := if f.sa.toNat < 2 then .reg (.v 1) else .reg .s, sa := .literal }
  | .swr _ => { dst := .literal, sa := .reg .s }
  | .sfmt _ => { sa := .reg .s }
  | .sfmtRnd _ | .sfmtSat _ | .sfmtAtb _ => {}
  | .vote _ => { dst := .reg .s, sa := .reg .p }
  | .bra _ | .rcvp _ => {}
  | .brx _ => { sa := .reg (.v 1) }
  | .call _ => { dst := .reg .s }
  | .ret _ => { sa := .reg .s }
  | .loop _ => { sa := .reg .s }
  | .launch _ => { dst := .reg .s, sa := .reg .s }
  | .rget _ | .rput _ => { sa := .reg .s }
  | .vadd f | .vsub f | .vmul f | .vmulh f | .vdiv f | .vrem f | .vmin f | .vmax f | .vand f | .vor f | .vxor f
  | .vshl f | .vshr f | .vrot f => usesV f (intSpan f.ty) true false
  | .vmad f => usesV f (intSpan f.ty) true true
  | .vabs f | .vneg f | .vnot f | .vbit f => usesV f (intSpan f.ty) false false
  | .vbfx f => { usesV f (intSpan f.ty) false false with sb := .literal, sc := .literal }
  | .vcmp f => { usesV f (intSpan f.ty) true false with dst := .reg .p }
  | .vsel f => { usesV f (intSpan f.ty) true false with sc := .reg .p }
  | .vmov f =>
      if f.sbs then { dst := .reg (.v (intSpan f.ty)), sb := .reg .s } else usesV f (intSpan f.ty) false false
  | .vmovi _ => { dst := .reg (.v 1) }
  | .vlea f => { usesV f (intSpan f.ty) true false with sb := if f.sbs then .reg .s else .reg (.v 1) }
  | .fadd f | .fsub f | .fmul f | .fdiv f | .fmin f | .fmax f => usesV f (floatSpan f.ty) true false
  | .ffma f => usesV f (floatSpan f.ty) true true
  | .fabs f | .fneg f | .fsqrt f | .frcp f | .frsq f | .fexp2 f | .flog2 f | .fsin f | .fcos f | .ftanh f | .fact f
  | .fround f => usesV f (floatSpan f.ty) false false
  | .fcmp f => { usesV f (floatSpan f.ty) true false with dst := .reg .p }
  | .fclass f => { usesV f (floatSpan f.ty) false false with dst := .reg (.v 1) }
  | .fdot2 f => usesV f 1 true true
  | .cvt f => { dst := .reg (.v (kindSpan (f.m 0 4))), sa := .reg (.v (kindSpan (f.m 4 4))), sb := .literal, sc := .literal }
  | .pack _ => { dst := .reg (.v 1), sa := .reg (.v 1), sb := .reg (.v 1), sc := .literal }
  | .unpk f =>
      let k := f.m 4 4
      { dst := .reg (.v (if k == 4 || k == 5 || k == 9 || k == 10 then 2 else 4)), sa := .reg (.v 1), sc := .literal }
  | .fscl f =>
      { dst := .reg (.v (floatSpan f.ty)), sa := .reg (.v (floatSpan f.ty))
        sb := if f.sbs then .reg .s else .reg (.v 1) }
  | .vexpr f _ => usesV f 1 true true
  | .qswz f | .qbcast f | .lxchg f | .qhelp f => usesV f (intSpan f.ty) false false
  | .lshfl f => { usesV f (intSpan f.ty) false false with sb := if f.sbs then .reg .s else .reg (.v 1) }
  | .lrot f => { usesV f (intSpan f.ty) false false with sb := if f.sbs then .reg .s else .unused }
  | .lscan f => usesV f (intSpan f.ty) false false
  | .lred f =>
      { usesV f (intSpan f.ty) false false with
        dst := if f.md.getLsbD 5 then .reg .s else .reg (.v (intSpan f.ty)) }
  | .lidx f => { dst := .reg (.v 1), sa := if f.md.getLsbD 0 then .unused else .reg .p }
  | .atload _ => { sa := .reg .s }
  | .atbind _ => {}
  | .ld f | .st f | .lds f | .sts f | .ldw f | .atom f | .atoms f => usesM (memSpan f.ty)
  | .cas f => usesM (2 * memSpan f.ty)
  | .dcf _ | .disc _ | .prf _ | .wback _ | .sinv _ => { sa := .reg .s, sb := .reg (.v 1) }
  | .cpl _ | .cps _ => usesM 1
  | .cpt _ | .cptw _ => { dst := .reg .s, sa := .reg .t, sb := .reg .s, sc := .reg .s }
  | .tload _ => { dst := .reg .t, sa := .reg .s }
  | .tbinit _ | .tbarr _ | .tbexp _ | .tbtest _ => { dst := .reg .s, sa := .reg .s }
  | .gset _ => { sa := .reg .t, sb := .reg (.v 1), sc := .reg .s }
  | .gget _ => { dst := .reg (.v 1) }
  | .gstop _ => {}
  | .fpcnt _ | .fpcntClr _ | .fpcntClrall _ => { dst := .reg .s }
  | .mdrainS _ | .mdrainG _ => { dst := .reg .s, sa := .reg .s, sb := .reg .s }
  | .mdrainV _ => { dst := .reg (.v 1) }
  | .msclRow _ | .msclCol _ | .mprog _ => { dst := .reg .s }
  | _ => {}

/-- The register fields of an instruction, in the order DST, SA, SB, SC; for the X class the registers of Table 12.2 stand
in that order. -/
def Instr.regs : Instr → BitVec 8 × BitVec 8 × BitVec 8 × BitVec 8
  | .nop f | .sadd f | .ssub f | .smul f | .smulh f | .sdiv f | .srem f | .sand f | .sor f | .sxor f | .sshl f
  | .sshr f | .smin f | .smax f | .scmp f | .smov f | .slea f | .ssel f | .sbit f | .sbfx f | .srd f | .swr f
  | .sfmt f | .sfmtRnd f | .sfmtSat f | .sfmtAtb f | .vote f | .brx f | .ret f | .join f | .bsync f | .exit f
  | .launch f | .bar f | .barArv f | .cbar f | .rget f | .rput f | .vadd f | .vsub f | .vmul f | .vmulh f | .vmad f
  | .vdiv f | .vrem f | .vmin f | .vmax f | .vabs f | .vneg f | .vand f | .vor f | .vxor f | .vnot f | .vshl f
  | .vshr f | .vrot f | .vbfx f | .vbit f | .vcmp f | .vsel f | .vmov f | .vlea f | .fadd f | .fsub f | .fmul f
  | .ffma f | .fmin f | .fmax f | .fabs f | .fneg f | .fcmp f | .fclass f | .fdiv f | .fsqrt f | .frcp f | .frsq f
  | .fexp2 f | .flog2 f | .fsin f | .fcos f | .ftanh f | .fact f | .fdot2 f | .cvt f | .pack f | .unpk f | .fscl f
  | .fround f | .qswz f | .qbcast f | .lxchg f | .lshfl f | .lrot f | .lscan f | .lred f | .lidx f | .qhelp f
  | .atload f | .atbind f | .fenceAcq f | .fenceRel f | .fenceFull f | .cpt f | .cptw f | .gset f | .gget f
  | .gstop f | .tret f | .fpcnt f | .fpcntClr f | .fpcntClrall f | .yield f | .syncEng f | .syncErr f | .syncCode f => (f.dst, f.sa, f.sb, f.sc)
  | .vexpr f _ => (f.dst, f.sa, f.sb, f.sc)
  | .smovi f | .smovhi f | .pause f | .vmovi f | .trap f | .brk f => (f.dst, f.sa, 0, 0)
  | .bra f | .call f | .rcvp f | .loop f => (f.dst, f.sa, 0, 0)
  | .ld f | .st f | .lds f | .sts f | .ldw f | .atom f | .cas f | .atoms f | .dcf f | .disc f | .prf f | .wback f
  | .sinv f | .cpl f | .cps f | .tload f | .tbinit f | .tbarr f | .tbexp f | .tbtest f => (f.dst, f.sa, f.sb, 0)
  | .mdrainV f | .mdrainS f | .mdrainG f => (f.rega, f.regb, f.regc, 0)
  | .msclRow f | .msclCol f => (f.sa, 0, 0, 0)
  | .mprog f => (f.dst, 0, 0, 0)
  | _ => (0, 0, 0, 0)
/-- The fourth input of vexpr, a vector register that stands in MOD[7:0] (R287). -/
def Instr.input3 : Instr → Option (BitVec 8)
  | .vexpr f _ => some (f.md.extractLsb' 0 8)
  | _ => none

/-- Every register field is in its space, and every unused one is 0 (R204 checks 5 and 6). -/
def Instr.regsOk (i : Instr) : Bool :=
  let u := i.uses
  let (d, a, b, c) := i.regs
  u.dst.ok d && u.sa.ok a && u.sb.ok b && u.sc.ok c

/-- Registers gget writes: n from the code DST; the pairs of ESIZE 3, which only the stream's record shows, are checked when it runs (R326,
log 91). -/
def Instr.extraTop : Instr → Nat
  | .gget f => f.dst.toNat + f.m 2 3 + 1
  | .mdrainV f => f.rega.toNat + f.hi.toNat / 1024 + 1
  | _ => 0

/-- One more than the highest vector register the instruction names (R223 REGS). -/
def Instr.vTop (i : Instr) : Nat :=
  let u := i.uses
  let (d, a, b, c) := i.regs
  let x := match i.input3 with
    | some r => r.toNat + 1
    | none => 0
  max (max (max (u.dst.top d) (u.sa.top a)) (max (u.sb.top b) (u.sc.top c))) (max x i.extraTop)

/-- A binary8 descriptor byte: PREC not 0 and KIND 0 (R246, R247). -/
def descOk (b : BitVec 8) : Bool := b.toNat % 8 != 0 && b.toNat / 32 == 0

/-- Kinds 16 bits wide, and 8 bits wide (Table 9.9). -/
def kind16 (k : Nat) : Bool := k == 4 || k == 5 || k == 9 || k == 10
def kind8 (k : Nat) : Bool := k == 6 || k == 7 || k == 12

/-- The stack depth after each token of a vexpr program, or none for a program that R288 refuses. The list is the tokens
still to read; `ended` is true after an end token. -/
def vexprScan : List Nat → Bool → Nat → Nat → Option Nat
  | [], _, depth, _ => some depth
  | t :: ts, ended, depth, ops =>
    if ended then (if t == 15 then vexprScan ts true depth ops else none)
    else if t == 15 then vexprScan ts true depth ops
    else if t < 4 then (if depth < 4 then vexprScan ts false (depth + 1) ops else none)
    else if t == 14 then (if 1 ≤ depth && depth < 4 then vexprScan ts false (depth + 1) ops else none)
    else if ops == 7 then none
    else if t < 9 then (if 2 ≤ depth then vexprScan ts false (depth - 1) (ops + 1) else none)
    else (if 1 ≤ depth then vexprScan ts false depth (ops + 1) else none)

/-- The fourteen tokens of the second word (R287). -/
def vexprTokens (w : BitVec 64) : List Nat := (List.range 14).map fun n => w.toNat / 16 ^ n % 16

/-- SCOPE and ORD of an M-format word (R209): no reserved scope, and no scope with a plain order. -/
def scopeOk (scope : BitVec 3) (ord : BitVec 2) : Bool := scope.toNat ≤ 4 && (ord != 0 || scope == 0)

def shapeLen (c : BitVec 2) : Nat := 64 * 2 ^ c.toNat

/-- The region lies in the 256 x 256 frame, and its shape codes are not reserved (R329, R339). -/
def RegionF.ok (r : RegionF) : Bool :=
  r.mc != 3 && r.nc != 3
    && 128 * (r.acc.toNat / 2) + shapeLen r.mc ≤ 256 && 128 * (r.acc.toNat % 2) + shapeLen r.nc ≤ 256

def MmulF.ok (f : MmulF) : Bool :=
  f.reg.ok && 8 * f.arow.toNat + shapeLen f.reg.mc ≤ 256 && 8 * f.brow.toNat + shapeLen f.reg.nc ≤ 256
    && f.aslot.toNat + f.ksM1.toNat + 1 ≤ 16 && f.bslot.toNat + f.ksM1.toNat + 1 ≤ 16 && f.rgl.toNat ≤ 4

/-- Bits [63:48] of mdrain.s and mdrain.g (Table 12.3). -/
def drainHiOk (hi : BitVec 16) (generic : Bool) : Bool :=
  let scope := hi.toNat / 4 % 8
  let flags := hi.toNat / 32 % 4
  scope ≤ 4 && (flags != 0 || scope == 0) && (generic || hi.toNat / 128 % 8 == 0) && hi.toNat / 1024 == 0
    && (hi.getLsbD 0 || !hi.getLsbD 1)

def unguarded (g : Guard) : Bool := g.p == 0 && !g.neg

def sTypes : List Nat := [0, 1, 4, 5]

/-- The M-class accesses: TY, ORD and the COLOUR field as Table 11.1 gives. -/
def mOk (f : MF) (tys ords : List Nat) (colMask : Nat) : Bool :=
  tyIn f.ty tys && ords.contains f.ord.toNat && scopeOk f.scope f.ord
    && f.col &&& ~~~(BitVec.ofNat 3 colMask) == 0

/-- cpl and cps: the narrowed upper bits (R317). -/
def cpOk (f : MF) (isCpl : Bool) : Bool :=
  tyIn f.ty [4, 5, 6] && scopeOk f.scope f.ord && (!isCpl || f.col == 0) && f.off.toNat % 256 < 64
    && (f.off.getLsbD 8 || !f.off.getLsbD 9) && (isCpl || !f.off.getLsbD 10) && f.off.toNat / 2048 == 0

/-- cpt and cptw: MOD as R320 gives. -/
def cptOk (f : RF) (isCpt : Bool) : Bool :=
  f.ty == 0 && f.m 3 3 ≤ 4 && (f.m 6 2 != 0 || f.m 3 3 == 0) && (f.md.getLsbD 0 || !f.md.getLsbD 1)
    && (if isCpt then f.m 8 3 == 0 else !f.md.getLsbD 2) && f.m 11 5 == 0

/-- The bit-field literals of sbfx and vbfx (R262). -/
def bfxOk (f : RF) : Bool :=
  tyIn f.ty sTypes && f.mdIn 1 && 1 ≤ f.sc.toNat && f.sb.toNat + f.sc.toNat ≤ (if intSpan f.ty == 2 then 64 else 32)

/-- The command OP and a byte of a mailbox block (R425, R431). Every block is accepted: its checks are answered in STATUS. -/
def blkOp (b : Block) : Nat := b.toNat % 2 ^ 32
def blkByte (b : Block) (i : Nat) : Nat := b.toNat / 2 ^ (8 * i) % 256

/-- The instruction-specific checks: TY, MOD, literals, guards and static conditions (R204 checks 5 and 7). `l3` is true in
a level-3 image (R218). -/
def Instr.static (l3 : Bool) : Instr → Bool
  | .nop f => f.ty == 0 && f.md == 0 && unguarded f.g
  | .sadd f | .ssub f | .smul f | .smulh f | .sdiv f | .srem f | .sand f | .sor f | .sxor f | .sshl f | .sshr f
  | .smin f | .smax f => tyIn f.ty sTypes && (f.md == 0 || f.sb == 0xFF)
  | .scmp f => tyIn f.ty sTypes && (f.md == 0 || f.sb == 0xFF) && f.sc.toNat ≤ 5
  | .slea f => tyIn f.ty sTypes && (f.md == 0 || f.sb == 0xFF) && f.sc.toNat ≤ 7
  | .smov f | .ssel f => tyIn f.ty sTypes && f.md == 0
  | .sbit f => tyIn f.ty sTypes && f.mdIn 3
  | .smovi f => tyIn f.ty sTypes
  | .smovhi f => f.ty == 4
  | .sbfx f | .vbfx f => bfxOk f
  | .srd f => f.ty == 0 && f.md == 0 && f.sa.toNat ≤ 0x17
  | .swr f => f.ty == 0 && f.md == 0 && [0x0A, 0x0B, 0x0C, 0x11, 0x13, 0x14, 0x16, 0x17].contains f.dst.toNat
  | .sfmt f => f.ty == 0 && f.md == 0
  | .sfmtRnd f => f.ty == 0 && f.mdIn 0x37 && f.m 0 3 == 1
  | .sfmtSat f => f.ty == 0 && f.mdIn 0x17 && f.m 0 3 == 2
  | .sfmtAtb f => f.ty == 0 && f.mdIn 0x17 && f.m 0 3 == 3
  | .vote f => f.ty == 0 && f.mdIn 3
  | .bra f | .call f => f.ty == 0
  | .rcvp f => f.ty == 0 && unguarded f.g
  | .loop f => f.ty == 0 && f.sa != 0
  | .brx f | .ret f | .exit f | .launch f => f.ty == 0 && f.md == 0
  | .join f => f.ty == 0 && f.md == 0 && unguarded f.g
  | .bsync f => f.ty == 0 && f.md == 0 && unguarded f.g && !l3
  | .pause f => f.ty == 0 && 1 ≤ f.imm.toNat && f.imm.toNat ≤ 4095
  | .bar f => f.ty == 0 && unguarded f.g && f.mdIn 0x3FF && f.m 4 6 ≤ 32
  | .barArv f => f.ty == 0 && unguarded f.g && f.mdIn 0x7FF && f.md.getLsbD 10 && f.m 4 6 ≤ 32
  | .cbar f => f.ty == 0 && unguarded f.g && f.mdIn 3
  | .rget f => f.ty == 0 && f.mdIn 0xF
  | .rput f => f.ty == 0 && f.mdIn 7
  | .vadd f | .vsub f => f.mdIn 0x8001
  | .vmul f | .vmulh f | .vmin f | .vmax f | .vand f | .vor f | .vxor f | .vshl f | .vshr f | .vrot f => f.mdIn 0x8000
  | .vmad f => f.mdIn 0xC001
  | .vdiv f | .vrem f => tyIn f.ty sTypes && f.mdIn 0x8000
  | .vabs f => tyIn f.ty [0, 2, 4, 6] && f.mdIn 1
  | .vneg f => f.mdIn 1
  | .vnot f => f.md == 0
  | .vbit f => tyIn f.ty sTypes && f.mdIn 3
  | .vcmp f => tyIn f.ty sTypes && f.mdIn 0x800F && f.m 0 4 ≤ 5
  | .vsel f => tyIn f.ty [0, 4] && f.mdIn 0x8000
  | .vmov f => tyIn f.ty [0, 4] && f.mdIn 0x8000
  | .vmovi f => f.ty == 0
  | .vlea f => tyIn f.ty [0, 4] && f.mdIn 0x8007
  | .fadd f | .fsub f | .fmul f | .fdiv f | .fmin f | .fmax f => f.ty.toNat ≤ 3 && f.mdIn 0x8000
  | .ffma f => f.ty.toNat ≤ 3 && f.mdIn 0xC000
  | .fabs f | .fneg f | .fsqrt f | .frcp f | .frsq f => f.ty.toNat ≤ 3 && f.md == 0
  | .fexp2 f | .flog2 f | .fsin f | .fcos f | .ftanh f | .fact f => f.ty.toNat ≤ 2 && f.md == 0
  | .fcmp f => tyIn f.ty [0, 3] && f.mdIn 0x800F && f.m 0 4 ≤ 7
  | .fclass f => tyIn f.ty [0, 3] && f.md == 0
  | .fdot2 f => tyIn f.ty [1, 2] && f.mdIn 0xC000
  | .cvt f => 
      let dk := f.m 0 4
      let sk := f.m 4 4
      f.ty == 0 && f.mdIn 0x3FFF && dk ≤ 12 && sk ≤ 12 && f.m 8 3 ≤ 4
        && (if dk == 12 then descOk f.sb else f.sb == 0) && (if sk == 12 then descOk f.sc else f.sc == 0)
        && (kind8 sk || (kind16 sk && f.m 12 2 ≤ 1) || f.m 12 2 == 0)
  | .pack f => 
      let dk := f.m 0 4
      f.ty == 0 && f.mdIn 0x1F0F && (kind8 dk || kind16 dk) && f.m 8 3 ≤ 4
        && (if dk == 12 then descOk f.sc else f.sc == 0) && (kind8 dk || !f.md.getLsbD 12)
  | .unpk f => 
      let sk := f.m 4 4
      f.ty == 0 && f.mdIn 0xF0 && (kind8 sk || kind16 sk) && (if sk == 12 then descOk f.sc else f.sc == 0)
  | .fscl f => f.ty.toNat ≤ 3 && f.mdIn 0x8000
  | .fround f => f.ty.toNat ≤ 3 && f.mdIn 0x700 && f.m 8 3 ≤ 4
  | .vexpr f toks => 
      l3 && f.ty == 0 && f.mdIn 0xC0FF && toks.toNat < 2 ^ 56 && vexprScan (vexprTokens toks) false 0 0 == some 1
  | .qswz f => tyIn f.ty [0, 4] && f.mdIn 0xFF
  | .qbcast f => tyIn f.ty [0, 4] && f.mdIn 3
  | .lxchg f => tyIn f.ty [0, 4] && f.mdIn 7
  | .lshfl f => tyIn f.ty [0, 4] && f.mdIn 0x8000
  | .lrot f => tyIn f.ty [0, 4] && f.mdIn 0x803F && (!f.sbs || f.m 0 6 == 0)
  | .qhelp f => l3 && tyIn f.ty [0, 4] && f.md == 0
  | .lscan f => tyIn f.ty (if f.m 0 4 ≤ 5 then sTypes else [0]) && f.mdIn 0x1F && f.m 0 4 ≤ 8
  | .lred f => tyIn f.ty (if f.m 0 4 ≤ 5 then sTypes else [0]) && f.mdIn 0x2F && f.m 0 4 ≤ 8
  | .lidx f => f.ty == 0 && f.mdIn 1
  | .atload f | .atbind f => f.ty == 0 && f.mdIn 1
  | .ld f => mOk f [0, 1, 2, 3, 4, 5, 6] [0, 1] 0
  | .st f => mOk f [0, 2, 4, 5, 6] [0, 2] 7
  | .lds f => mOk f [0, 1, 2, 3, 4, 5, 6] [0, 1] 1 && (f.col == 0 || f.ty == 4)
  | .sts f => mOk f [0, 2, 4, 5, 6] [0, 2] 1 && (f.col == 0 || f.ty == 4)
  | .ldw f => mOk f [0, 1, 2, 3, 4, 5, 6] [0] 0
  | .atom f => mOk f [4, 5] [0, 1, 2, 3] 7 && f.off.toNat % 16 ≤ 14
  | .cas f => mOk f [4, 5] [0, 1, 2, 3] 7
  | .atoms f => mOk f [4, 5] [0, 1, 2, 3] 0 && f.off.toNat % 16 ≤ 14
  | .dcf f => mOk f [0] [0, 1, 2, 3] 0 && f.dst == 0
  | .disc f => mOk f [0] [0] 7 && f.dst == 0
  | .prf f => mOk f [0] [0] 1 && f.dst == 0
  | .wback f | .sinv f => mOk f [0] [0] 0 && f.dst == 0
  | .fenceAcq f => f.ty == 0 && f.mdIn 0x1F && f.m 0 2 == 1 && f.m 2 3 ≤ 4
  | .fenceRel f => f.ty == 0 && f.mdIn 0xFF1F && f.m 0 2 == 2 && f.m 2 3 ≤ 4 && f.m 8 8 != 0
  | .fenceFull f => f.ty == 0 && f.mdIn 0x1F && f.m 0 2 == 3 && f.m 2 3 ≤ 4
  | .cpl f => cpOk f true
  | .cps f => cpOk f false
  | .cpt f => cptOk f true
  | .cptw f => cptOk f false
  | .tload f => mOk f [0] [0] 0
  | .tbinit f | .tbarr f | .tbexp f => mOk f [0] [0, 2] 1
  | .tbtest f => mOk f [0] [0, 1] 1
  | .gset f => f.ty == 0 && f.mdIn 0x3F && f.m 2 3 ≤ 4 && (f.md.getLsbD 5 || f.m 2 3 == 0)
  | .gget f => f.ty == 0 && f.mdIn 0x1F && f.dst.toNat + f.m 2 3 + 1 ≤ 256
  | .gstop f => f.ty == 0 && f.mdIn 3
  | .oclaim f | .orel f => f.first.toNat + f.countM1.toNat + 1 ≤ 16
  | .mmul f | .mmulz f => f.ok
  | .mdrainV f => f.reg.ok && f.regb == 0 && f.regc == 0 && f.rega.toNat + f.hi.toNat / 1024 + 1 ≤ 256
  | .mdrainS f => f.reg.ok && drainHiOk f.hi false
  | .mdrainG f => f.reg.ok && drainHiOk f.hi true
  | .mbyp f | .mzero f => f.reg.ok
  | .msclRow f | .msclCol f => f.first8.toNat + f.countM1.toNat + 1 ≤ 32
  | .mprog f => decide (f.dst.toNat < 64)
  | .trap f | .brk f => f.ty == 0
  | .tret f | .yield f => f.ty == 0 && f.md == 0
  | .fpcnt f => f.ty == 0 && f.mdIn 0x1F && f.m 0 5 ≤ 20
  | .fpcntClr f => f.ty == 0 && f.mdIn 0x3F && f.m 0 5 ≤ 20 && f.md.getLsbD 5
  | .fpcntClrall f => f.ty == 0 && f.md == 0x40
  | .syncEng f => f.ty == 0 && f.md == 0
  | .syncErr f => f.ty == 0 && f.md == 1
  | .syncCode f => f.ty == 0 && f.md == 2
  | .rep _ => true
  | .clauseHeader r | .clauseWaitEnd r | .pauseExpiry r | .yieldTimeout r | .priorityLift r => decide (r.split < 4)
  | .lateFraming p | .cordPlace p => decide (p < 16)
  | .copyComplete c _ | .matrixOpComplete c _ | .drainCommandComplete c _ | .emulationComplete c _ => decide (c < 128)
  | .gatherFetchComplete c g _ => decide (c < 128) && decide (g < 4)
  | .gangLatchRelease c _ | .gangLatchTimeout c _ => decide (c < 128)
  | .walkAhead c _ _ => decide (c < 128)
  | .rd a | .rdx a | .upg a | .wb a | .evc a | .rds a | .wrs a | .atx a | .atr a | .xrd a | .xwr a | .snp a => decide (a.part < 16) && decide (a.line < 2 ^ 45)
  | .probe a | .probeAck a => decide (a.part < 16) && decide (a.target < 20)
  | .pageRequestWrite fn | .flr fn => decide (fn < 64)
  | .prqreply fn _ => decide (fn < 64)
  | .launchWindowArm fn q n _ => decide (fn < 64) && decide (q < 8) && decide (n < 32)
  | .qtailWrite fn q _ => decide (fn < 64) && decide (q < 8)
  | .packetLaunch fn q | .packetNop fn q | .packetOtherOp fn q => decide (fn < 64) && decide (q < 8)
  | .uncorrectableError e | .correctedError e => decide (e.part < 16)
  | .patrolScrub e _ => decide (e.part < 16)
  | .refreshStart b | .refreshEnd b => decide (b < 16)
  | .peerLinkDown p | .remoteInvalTimeout p | .flitReplay p => decide (p < 4)
  | .remoteInvalidation p _ _ => decide (p < 4)
  | .migrationLine p _ _ _ => decide (p < 4)
  | .migrationClaim m => decide (m.link < 4)
  | .compareAct p _ => decide (p < 8)
  | .trailingCopyTimeout p => decide (p < 8)
  | .unitTestStart u => decide (u < 232)
  | .unitTestDone u _ => decide (u < 232)
  | .registerWrite fn _ _ _ => decide (fn < 64)
  | .lineMissComplete sl => decide (sl < 64)
  | .cordLatchRelease _ _ => true
  | .walkStart _ => true
  | .walkComplete _ => true
  | .imageCheck _ => true
  | .childRecordReceive _ => true
  | .preloadStart _ => true
  | .preloadComplete _ => true
  | .candidateBlocking _ => true
  | .groupRetire _ => true
  | .preemption _ _ _ => true
  | .lazySave _ => true
  | .crewResume _ _ => true
  | .watchdogFire _ => true
  | .peerAbort _ => true
  | .peerAccessTimeout _ => true
  | .hostAbort _ => true
  | .hostCompletionTimeout _ => true
  | .migrateAckTimeout => true
  | .hdmRead _ _ => true
  | .hdmWrite _ _ => true
  | .scoreDecay => true
  | .pair => true
  | .unpair => true
  | .release => true
  | .limits => true
  | .keyload => true
  | .preset => true
  | .attest => true
  | .inject => true
  | .migrate => true
  | .invalPage => true
  | .invalRange => true
  | .invalTenant => true
  | .invalTenantAll => true
  | .invalGuestRange => true
  | .invalPartition => true
  | .invalKeyShadow => true
  | .tenantSet => true
  | .tenantDelete => true
  | .trapset => true
  | .ctxpool => true
  | .biasToHost => true
  | .biasToDevice => true
  | .preempt => true
  | .linkup => true
  | .reconf => true
  | .ccUnknownOp => true
  | .deviceReset => true
  | .powerGood => true
  | .firmwareReady => true
  | .perst => true
  | .thermalHold => true
  | .thermalTrip => true
  | .clockMonitorFail => true
  | .peerAnswer _ reply => decide (reply.grant < 4)
  | .hostCompletion _ => true
  | .thermalHoldEnd => true
/-- A well-formed instruction at an image level. -/
def Instr.wf (l3 : Bool) (i : Instr) : Bool := i.regsOk && i.static l3

/-- What the kernel image fixes for the checks of a word (R204 checks 6 and 7, R223): REGS, WIDTH and the ring count. -/
structure ImageCtx where
  regs : Nat
  width : Nat
  rings : Nat
  deriving DecidableEq, Repr

/-- The conditions that need the image: vector registers below REGS, lxchg within WIDTH (R290), rings below the crew's ring
count (R184). -/
def Instr.fits (k : ImageCtx) (i : Instr) : Bool :=
  decide (i.vTop ≤ k.regs) &&
  match i with
  | .lxchg f => 2 ^ f.m 0 3 < k.width
  | .rget f => f.m 0 3 < k.rings
  | .rput f => f.m 0 3 < k.rings
  | _ => true

end Sys2Proof
end

