-- ==== Sys2Proof/Decode.lean ====
section
/-! DEFINITION. The decoder of instruction words, clause headers and mailbox blocks, and the encoder
(08_encoding R200, R206 to R211, R216 to R218; 12_matrix Table 12.1; 16 Table 16.8; 17 Table 17.3). -/

namespace Sys2Proof

/-- Why a word is not an instruction (R204, R217). -/
inductive DecodeError where
  /-- The opcode is reserved at the image's level (R217, R218). -/
  | reservedOpcode
  /-- A reserved bit or sub-operation of the format is set, or the second word of a wide instruction is missing (R203, R204 check 5). -/
  | reservedField
  /-- A static condition of the instruction fails (R204 checks 5 to 7). -/
  | illFormed
  deriving DecidableEq, Repr

/-- The bits [15:8] of every word but the prefix: guard and TY (R206). -/
def Guard.ofWord (w : BitVec 64) : Guard := { p := w.extractLsb' 8 4, neg := w.getLsbD 12 }

def RF.ofWord (w : BitVec 64) : RF :=
  { g := Guard.ofWord w, ty := w.extractLsb' 13 3, dst := w.extractLsb' 16 8, sa := w.extractLsb' 24 8
    sb := w.extractLsb' 32 8, sc := w.extractLsb' 40 8, md := w.extractLsb' 48 16 }

def IF.ofWord (w : BitVec 64) : IF :=
  { g := Guard.ofWord w, ty := w.extractLsb' 13 3, dst := w.extractLsb' 16 8, sa := w.extractLsb' 24 8
    imm := w.extractLsb' 32 32 }

def BF.ofWord (w : BitVec 64) : BF :=
  { g := Guard.ofWord w, ty := w.extractLsb' 13 3, dst := w.extractLsb' 16 8, sa := w.extractLsb' 24 8
    off := w.extractLsb' 32 32 }

def MF.ofWord (w : BitVec 64) : MF :=
  { g := Guard.ofWord w, ty := w.extractLsb' 13 3, dst := w.extractLsb' 16 8, sa := w.extractLsb' 24 8
    sb := w.extractLsb' 32 8, scope := w.extractLsb' 40 3, ord := w.extractLsb' 43 2, col := w.extractLsb' 45 3
    off := w.extractLsb' 48 16 }

/-- The prefix: bits [15:8] and [63:27] are 0 (R208, R293). -/
def PF.ofWord (w : BitVec 64) : Option PF :=
  if w.extractLsb' 8 8 == 0 && w.extractLsb' 27 37 == 0 then
    some { countM1 := w.extractLsb' 16 6, step := w.extractLsb' 22 4, stride2 := w.getLsbD 26 }
  else none

/-- The X class: TY, PG and PN are 0, and so is every bit from `top` up (R339). -/
def xClear (w : BitVec 64) (top : Nat) : Bool := w.extractLsb' 8 8 == 0 && w.toNat / 2 ^ top == 0

def RegionF.ofWord (w : BitVec 64) : RegionF :=
  { acc := w.extractLsb' 16 2, mc := w.extractLsb' 18 2, nc := w.extractLsb' 20 2 }

def ClaimF.ofWord (w : BitVec 64) : Option ClaimF :=
  if xClear w 24 then some { first := w.extractLsb' 16 4, countM1 := w.extractLsb' 20 4 } else none

def MmulF.ofWord (w : BitVec 64) : Option MmulF :=
  if xClear w 47 then
    some { reg := RegionF.ofWord w, aslot := w.extractLsb' 22 4, bslot := w.extractLsb' 26 4
           ksM1 := w.extractLsb' 30 3, arow := w.extractLsb' 33 5, brow := w.extractLsb' 38 5
           cord := w.getLsbD 43, rgl := w.extractLsb' 44 3 }
  else none

def MdrainF.ofWord (w : BitVec 64) : Option MdrainF :=
  if w.extractLsb' 8 8 == 0 then
    some { reg := RegionF.ofWord w, rega := w.extractLsb' 24 8, regb := w.extractLsb' 32 8
           regc := w.extractLsb' 40 8, hi := w.extractLsb' 48 16 }
  else none

def MbypF.ofWord (w : BitVec 64) : Option MbypF :=
  if xClear w 31 then
    some { reg := RegionF.ofWord w, oslot := w.extractLsb' 22 4, orow := w.extractLsb' 26 5 }
  else none

def MzeroF.ofWord (w : BitVec 64) : Option MzeroF :=
  if xClear w 23 then some { reg := RegionF.ofWord w, int := w.getLsbD 22 } else none

def MsclF.ofWord (w : BitVec 64) : Option MsclF :=
  if xClear w 35 then
    some { sa := w.extractLsb' 16 8, first8 := w.extractLsb' 25 5, countM1 := w.extractLsb' 30 5 }
  else none

def MprogF.ofWord (w : BitVec 64) : Option MprogF :=
  if xClear w 24 then some { dst := w.extractLsb' 16 8 } else none

/-- The instruction a word of an opcode would be (Table 8.10); `next` is the word after it in the clause. -/
def decodeOpcode (opc : Nat) (w : BitVec 64) (next : Option (BitVec 64)) : Option Instr :=
  match opc with
  | 0x00 => some (.nop (RF.ofWord w))
  | 0x01 => some (.sadd (RF.ofWord w))
  | 0x02 => some (.ssub (RF.ofWord w))
  | 0x03 => some (.smul (RF.ofWord w))
  | 0x04 => some (.smulh (RF.ofWord w))
  | 0x05 => some (.sdiv (RF.ofWord w))
  | 0x06 => some (.srem (RF.ofWord w))
  | 0x07 => some (.sand (RF.ofWord w))
  | 0x08 => some (.sor (RF.ofWord w))
  | 0x09 => some (.sxor (RF.ofWord w))
  | 0x0A => some (.sshl (RF.ofWord w))
  | 0x0B => some (.sshr (RF.ofWord w))
  | 0x0C => some (.smin (RF.ofWord w))
  | 0x0D => some (.smax (RF.ofWord w))
  | 0x0E => some (.scmp (RF.ofWord w))
  | 0x0F => some (.smov (RF.ofWord w))
  | 0x10 => some (.smovi (IF.ofWord w))
  | 0x11 => some (.smovhi (IF.ofWord w))
  | 0x12 => some (.slea (RF.ofWord w))
  | 0x13 => some (.ssel (RF.ofWord w))
  | 0x14 => some (.sbit (RF.ofWord w))
  | 0x15 => some (.sbfx (RF.ofWord w))
  | 0x16 => some (.srd (RF.ofWord w))
  | 0x17 => some (.swr (RF.ofWord w))
  | 0x18 =>
    match w.toNat / 2 ^ 48 % 8 with
    | 0 => some (.sfmt (RF.ofWord w))
    | 1 => some (.sfmtRnd (RF.ofWord w))
    | 2 => some (.sfmtSat (RF.ofWord w))
    | 3 => some (.sfmtAtb (RF.ofWord w))
    | _ => none
  | 0x19 => some (.vote (RF.ofWord w))
  | 0x20 => some (.bra (BF.ofWord w))
  | 0x21 => some (.brx (RF.ofWord w))
  | 0x22 => some (.call (BF.ofWord w))
  | 0x23 => some (.ret (RF.ofWord w))
  | 0x24 => some (.rcvp (BF.ofWord w))
  | 0x25 => some (.join (RF.ofWord w))
  | 0x26 => some (.exit (RF.ofWord w))
  | 0x27 => some (.pause (IF.ofWord w))
  | 0x28 => some (.loop (BF.ofWord w))
  | 0x29 => some (.launch (RF.ofWord w))
  | 0x2A => some (if w.getLsbD 58 then .barArv (RF.ofWord w) else .bar (RF.ofWord w))
  | 0x2B => some (.cbar (RF.ofWord w))
  | 0x2C => some (.rget (RF.ofWord w))
  | 0x2D => some (.rput (RF.ofWord w))
  | 0x2E => some (.bsync (RF.ofWord w))
  | 0x40 => some (.vadd (RF.ofWord w))
  | 0x41 => some (.vsub (RF.ofWord w))
  | 0x42 => some (.vmul (RF.ofWord w))
  | 0x43 => some (.vmulh (RF.ofWord w))
  | 0x44 => some (.vmad (RF.ofWord w))
  | 0x45 => some (.vdiv (RF.ofWord w))
  | 0x46 => some (.vrem (RF.ofWord w))
  | 0x47 => some (.vmin (RF.ofWord w))
  | 0x48 => some (.vmax (RF.ofWord w))
  | 0x49 => some (.vabs (RF.ofWord w))
  | 0x4A => some (.vneg (RF.ofWord w))
  | 0x4B => some (.vand (RF.ofWord w))
  | 0x4C => some (.vor (RF.ofWord w))
  | 0x4D => some (.vxor (RF.ofWord w))
  | 0x4E => some (.vnot (RF.ofWord w))
  | 0x4F => some (.vshl (RF.ofWord w))
  | 0x50 => some (.vshr (RF.ofWord w))
  | 0x51 => some (.vrot (RF.ofWord w))
  | 0x52 => some (.vbfx (RF.ofWord w))
  | 0x53 => some (.vbit (RF.ofWord w))
  | 0x54 => some (.vcmp (RF.ofWord w))
  | 0x55 => some (.vsel (RF.ofWord w))
  | 0x56 => some (.vmov (RF.ofWord w))
  | 0x57 => some (.vmovi (IF.ofWord w))
  | 0x58 => some (.vlea (RF.ofWord w))
  | 0x60 => some (.fadd (RF.ofWord w))
  | 0x61 => some (.fsub (RF.ofWord w))
  | 0x62 => some (.fmul (RF.ofWord w))
  | 0x63 => some (.ffma (RF.ofWord w))
  | 0x64 => some (.fmin (RF.ofWord w))
  | 0x65 => some (.fmax (RF.ofWord w))
  | 0x66 => some (.fabs (RF.ofWord w))
  | 0x67 => some (.fneg (RF.ofWord w))
  | 0x68 => some (.fcmp (RF.ofWord w))
  | 0x69 => some (.fclass (RF.ofWord w))
  | 0x6A => some (.fdiv (RF.ofWord w))
  | 0x6B => some (.fsqrt (RF.ofWord w))
  | 0x6C => some (.frcp (RF.ofWord w))
  | 0x6D => some (.frsq (RF.ofWord w))
  | 0x6E => some (.fexp2 (RF.ofWord w))
  | 0x6F => some (.flog2 (RF.ofWord w))
  | 0x70 => some (.fsin (RF.ofWord w))
  | 0x71 => some (.fcos (RF.ofWord w))
  | 0x72 => some (.ftanh (RF.ofWord w))
  | 0x73 => some (.fact (RF.ofWord w))
  | 0x74 => some (.fdot2 (RF.ofWord w))
  | 0x78 => some (.cvt (RF.ofWord w))
  | 0x79 => some (.pack (RF.ofWord w))
  | 0x7A => some (.unpk (RF.ofWord w))
  | 0x7B => some (.fscl (RF.ofWord w))
  | 0x7C => some (.fround (RF.ofWord w))
  | 0x7D => next.map fun t => .vexpr (RF.ofWord w) t
  | 0x80 => some (.qswz (RF.ofWord w))
  | 0x81 => some (.qbcast (RF.ofWord w))
  | 0x82 => some (.lxchg (RF.ofWord w))
  | 0x83 => some (.lshfl (RF.ofWord w))
  | 0x84 => some (.lrot (RF.ofWord w))
  | 0x85 => some (.lscan (RF.ofWord w))
  | 0x86 => some (.lred (RF.ofWord w))
  | 0x87 => some (.lidx (RF.ofWord w))
  | 0x88 => some (.qhelp (RF.ofWord w))
  | 0x89 => some (.atload (RF.ofWord w))
  | 0x8A => some (.atbind (RF.ofWord w))
  | 0xA0 => some (.ld (MF.ofWord w))
  | 0xA1 => some (.st (MF.ofWord w))
  | 0xA2 => some (.lds (MF.ofWord w))
  | 0xA3 => some (.sts (MF.ofWord w))
  | 0xA4 => some (.ldw (MF.ofWord w))
  | 0xA5 => some (.atom (MF.ofWord w))
  | 0xA6 => some (.cas (MF.ofWord w))
  | 0xA7 => some (.atoms (MF.ofWord w))
  | 0xA8 =>
    match w.toNat / 2 ^ 48 % 4 with
    | 1 => some (.fenceAcq (RF.ofWord w))
    | 2 => some (.fenceRel (RF.ofWord w))
    | 3 => some (.fenceFull (RF.ofWord w))
    | _ => none
  | 0xA9 => some (.dcf (MF.ofWord w))
  | 0xAA => some (.disc (MF.ofWord w))
  | 0xAB => some (.prf (MF.ofWord w))
  | 0xAC => some (.wback (MF.ofWord w))
  | 0xAD => some (.sinv (MF.ofWord w))
  | 0xB0 => some (.cpl (MF.ofWord w))
  | 0xB1 => some (.cps (MF.ofWord w))
  | 0xB2 => some (.cpt (RF.ofWord w))
  | 0xB3 => some (.cptw (RF.ofWord w))
  | 0xB4 => some (.tload (MF.ofWord w))
  | 0xB5 => some (.tbinit (MF.ofWord w))
  | 0xB6 => some (.tbarr (MF.ofWord w))
  | 0xB7 => some (.tbexp (MF.ofWord w))
  | 0xB8 => some (.tbtest (MF.ofWord w))
  | 0xB9 => some (.gset (RF.ofWord w))
  | 0xBA => some (.gget (RF.ofWord w))
  | 0xBB => some (.gstop (RF.ofWord w))
  | 0xD0 => (ClaimF.ofWord w).map .oclaim
  | 0xD1 => (ClaimF.ofWord w).map .orel
  | 0xD2 => (MmulF.ofWord w).map .mmul
  | 0xD3 => (MmulF.ofWord w).map .mmulz
  | 0xD4 =>
    match w.toNat / 2 ^ 22 % 4 with
    | 0 => (MdrainF.ofWord w).map .mdrainV
    | 1 => (MdrainF.ofWord w).map .mdrainS
    | 2 => (MdrainF.ofWord w).map .mdrainG
    | _ => none
  | 0xD5 => (MbypF.ofWord w).map .mbyp
  | 0xD6 => (MzeroF.ofWord w).map .mzero
  | 0xD7 => (MsclF.ofWord w).map fun f => if w.getLsbD 24 then .msclCol f else .msclRow f
  | 0xD8 => (MprogF.ofWord w).map .mprog
  | 0xE0 => some (.trap (IF.ofWord w))
  | 0xE1 => some (.tret (RF.ofWord w))
  | 0xE2 => some (.brk (IF.ofWord w))
  | 0xE3 => some (if w.getLsbD 54 then .fpcntClrall (RF.ofWord w)
      else if w.getLsbD 53 then .fpcntClr (RF.ofWord w) else .fpcnt (RF.ofWord w))
  | 0xE4 => some (.yield (RF.ofWord w))
  | 0xE5 =>
    match w.toNat / 2 ^ 48 % 4 with
    | 0 => some (.syncEng (RF.ofWord w))
    | 1 => some (.syncErr (RF.ofWord w))
    | 2 => some (.syncCode (RF.ofWord w))
    | _ => none
  | 0xF8 => (PF.ofWord w).map .rep
  | _ => none

/-- The instruction a word would be, by its opcode, bits [7:0] (R206). -/
def rawDecode (w : BitVec 64) (next : Option (BitVec 64)) : Option Instr := decodeOpcode (w.toNat % 256) w next

/-- The opcode is defined at the image's level (R217, R218). -/
def opcodeDefined (l3 : Bool) (opc : Nat) : Bool :=
  (opc ≤ 0x19 || (0x20 ≤ opc && opc ≤ 0x2D) || (0x40 ≤ opc && opc ≤ 0x58) || (0x60 ≤ opc && opc ≤ 0x74)
    || (0x78 ≤ opc && opc ≤ 0x7C) || (0x80 ≤ opc && opc ≤ 0x8A) || (0xA0 ≤ opc && opc ≤ 0xAD)
    || (0xB0 ≤ opc && opc ≤ 0xBB) || (0xD0 ≤ opc && opc ≤ 0xD8) || (0xE0 ≤ opc && opc ≤ 0xE5) || opc == 0xF8
    || (l3 && opc == 0x7D) || (!l3 && opc == 0x2E)) && (l3 || opc != 0x88)

/-- One instruction word, with the word after it for a wide instruction (R200, R204). -/
def decodeWord (l3 : Bool) (w : BitVec 64) (next : Option (BitVec 64)) : Except DecodeError Instr :=
  if !opcodeDefined l3 (w.toNat % 256) then .error .reservedOpcode
  else
    match rawDecode w next with
    | none => .error .reservedField
    | some i => if i.wf l3 then .ok i else .error .illFormed

/-- How many words an instruction takes in its clause (R200). -/
def Instr.words : Instr → Nat
  | .vexpr _ _ => 2
  | _ => 1

/-- The class of an instruction: 0 S, 1 V, 2 M, 3 C, 4 X, 5 Y, by its opcode's row (Table 8.10); the prefix is 6. -/
def opcodeClass (opc : Nat) : Nat :=
  if opc < 0x40 then 0 else if opc < 0xA0 then 1 else if opc < 0xB0 then 2 else if opc < 0xD0 then 3
  else if opc < 0xE0 then 4 else if opc < 0xF0 then 5 else 6

/-- The control transfers, which stand last in their clauses (R203). -/
def opcodeTransfers (opc : Nat) : Bool :=
  [0x20, 0x21, 0x22, 0x23, 0x25, 0x26, 0x28, 0x2E].contains opc

/-- R-format opcodes, which alone may follow a rep (R203, R216). -/
def opcodeIsR (opc : Nat) : Bool :=
  ((opc ≤ 0x19 && opc != 0x10 && opc != 0x11) || [0x21, 0x23, 0x25, 0x26].contains opc
    || (0x29 ≤ opc && opc ≤ 0x2E) || (0x40 ≤ opc && opc ≤ 0x58 && opc != 0x57) || (0x60 ≤ opc && opc ≤ 0x7C)
    || (0x80 ≤ opc && opc ≤ 0x8A) || opc == 0xA8 || opc == 0xB2 || opc == 0xB3
    || (0xB9 ≤ opc && opc ≤ 0xBB) || [0xE1, 0xE3, 0xE4, 0xE5].contains opc)

def Guard.toBits (g : Guard) : BitVec 5 := BitVec.ofBool g.neg ++ g.p

def RF.toWord (opc : BitVec 8) (f : RF) : BitVec 64 :=
  f.md ++ (f.sc ++ (f.sb ++ (f.sa ++ (f.dst ++ (f.ty ++ (f.g.toBits ++ opc))))))

def IF.toWord (opc : BitVec 8) (f : IF) : BitVec 64 :=
  f.imm ++ (f.sa ++ (f.dst ++ (f.ty ++ (f.g.toBits ++ opc))))

def BF.toWord (opc : BitVec 8) (f : BF) : BitVec 64 :=
  f.off ++ (f.sa ++ (f.dst ++ (f.ty ++ (f.g.toBits ++ opc))))

def MF.toWord (opc : BitVec 8) (f : MF) : BitVec 64 :=
  f.off ++ (f.col ++ (f.ord ++ (f.scope ++ (f.sb ++ (f.sa ++ (f.dst ++ (f.ty ++ (f.g.toBits ++ opc))))))))

def PF.toWord (f : PF) : BitVec 64 :=
  (0 : BitVec 37) ++ (BitVec.ofBool f.stride2 ++ (f.step ++ (f.countM1 ++ ((0 : BitVec 8) ++ (0xF8 : BitVec 8)))))

/-- The X class below its fields: guard and TY 0, then the opcode. -/
def xLow (opc : BitVec 8) : BitVec 16 := (0 : BitVec 8) ++ opc

def RegionF.toBits (r : RegionF) : BitVec 6 := r.nc ++ (r.mc ++ r.acc)

def ClaimF.toWord (opc : BitVec 8) (f : ClaimF) : BitVec 64 :=
  (0 : BitVec 40) ++ (f.countM1 ++ (f.first ++ xLow opc))

def MmulF.toWord (opc : BitVec 8) (f : MmulF) : BitVec 64 :=
  (0 : BitVec 17) ++ (f.rgl ++ (BitVec.ofBool f.cord ++ (f.brow ++ (f.arow ++ (f.ksM1 ++ (f.bslot ++ (f.aslot
    ++ (f.reg.toBits ++ xLow opc))))))))

def MdrainF.toWord (dk : BitVec 2) (f : MdrainF) : BitVec 64 :=
  f.hi ++ (f.regc ++ (f.regb ++ (f.rega ++ (dk ++ (f.reg.toBits ++ xLow 0xD4)))))

def MbypF.toWord (opc : BitVec 8) (f : MbypF) : BitVec 64 :=
  (0 : BitVec 33) ++ (f.orow ++ (f.oslot ++ (f.reg.toBits ++ xLow opc)))

def MzeroF.toWord (opc : BitVec 8) (f : MzeroF) : BitVec 64 :=
  (0 : BitVec 41) ++ (BitVec.ofBool f.int ++ (f.reg.toBits ++ xLow opc))

def MsclF.toWord (col : Bool) (f : MsclF) : BitVec 64 :=
  (0 : BitVec 29) ++ (f.countM1 ++ (f.first8 ++ (BitVec.ofBool col ++ (f.sa ++ xLow 0xD7))))

def MprogF.toWord (opc : BitVec 8) (f : MprogF) : BitVec 64 := (0 : BitVec 40) ++ (f.dst ++ xLow opc)

/-- The words of an instruction: the first, and the second of a wide one. Rows that are no instruction words have none. -/
def encode : Instr → Option (BitVec 64 × Option (BitVec 64))
  | .nop f => some (RF.toWord 0x00 f, none)
  | .sadd f => some (RF.toWord 0x01 f, none)
  | .ssub f => some (RF.toWord 0x02 f, none)
  | .smul f => some (RF.toWord 0x03 f, none)
  | .smulh f => some (RF.toWord 0x04 f, none)
  | .sdiv f => some (RF.toWord 0x05 f, none)
  | .srem f => some (RF.toWord 0x06 f, none)
  | .sand f => some (RF.toWord 0x07 f, none)
  | .sor f => some (RF.toWord 0x08 f, none)
  | .sxor f => some (RF.toWord 0x09 f, none)
  | .sshl f => some (RF.toWord 0x0A f, none)
  | .sshr f => some (RF.toWord 0x0B f, none)
  | .smin f => some (RF.toWord 0x0C f, none)
  | .smax f => some (RF.toWord 0x0D f, none)
  | .scmp f => some (RF.toWord 0x0E f, none)
  | .smov f => some (RF.toWord 0x0F f, none)
  | .smovi f => some (IF.toWord 0x10 f, none)
  | .smovhi f => some (IF.toWord 0x11 f, none)
  | .slea f => some (RF.toWord 0x12 f, none)
  | .ssel f => some (RF.toWord 0x13 f, none)
  | .sbit f => some (RF.toWord 0x14 f, none)
  | .sbfx f => some (RF.toWord 0x15 f, none)
  | .srd f => some (RF.toWord 0x16 f, none)
  | .swr f => some (RF.toWord 0x17 f, none)
  | .sfmt f => some (RF.toWord 0x18 f, none)
  | .sfmtRnd f => some (RF.toWord 0x18 f, none)
  | .sfmtSat f => some (RF.toWord 0x18 f, none)
  | .sfmtAtb f => some (RF.toWord 0x18 f, none)
  | .vote f => some (RF.toWord 0x19 f, none)
  | .bra f => some (BF.toWord 0x20 f, none)
  | .brx f => some (RF.toWord 0x21 f, none)
  | .call f => some (BF.toWord 0x22 f, none)
  | .ret f => some (RF.toWord 0x23 f, none)
  | .rcvp f => some (BF.toWord 0x24 f, none)
  | .join f => some (RF.toWord 0x25 f, none)
  | .exit f => some (RF.toWord 0x26 f, none)
  | .pause f => some (IF.toWord 0x27 f, none)
  | .loop f => some (BF.toWord 0x28 f, none)
  | .launch f => some (RF.toWord 0x29 f, none)
  | .bar f => some (RF.toWord 0x2A f, none)
  | .barArv f => some (RF.toWord 0x2A f, none)
  | .cbar f => some (RF.toWord 0x2B f, none)
  | .rget f => some (RF.toWord 0x2C f, none)
  | .rput f => some (RF.toWord 0x2D f, none)
  | .bsync f => some (RF.toWord 0x2E f, none)
  | .vadd f => some (RF.toWord 0x40 f, none)
  | .vsub f => some (RF.toWord 0x41 f, none)
  | .vmul f => some (RF.toWord 0x42 f, none)
  | .vmulh f => some (RF.toWord 0x43 f, none)
  | .vmad f => some (RF.toWord 0x44 f, none)
  | .vdiv f => some (RF.toWord 0x45 f, none)
  | .vrem f => some (RF.toWord 0x46 f, none)
  | .vmin f => some (RF.toWord 0x47 f, none)
  | .vmax f => some (RF.toWord 0x48 f, none)
  | .vabs f => some (RF.toWord 0x49 f, none)
  | .vneg f => some (RF.toWord 0x4A f, none)
  | .vand f => some (RF.toWord 0x4B f, none)
  | .vor f => some (RF.toWord 0x4C f, none)
  | .vxor f => some (RF.toWord 0x4D f, none)
  | .vnot f => some (RF.toWord 0x4E f, none)
  | .vshl f => some (RF.toWord 0x4F f, none)
  | .vshr f => some (RF.toWord 0x50 f, none)
  | .vrot f => some (RF.toWord 0x51 f, none)
  | .vbfx f => some (RF.toWord 0x52 f, none)
  | .vbit f => some (RF.toWord 0x53 f, none)
  | .vcmp f => some (RF.toWord 0x54 f, none)
  | .vsel f => some (RF.toWord 0x55 f, none)
  | .vmov f => some (RF.toWord 0x56 f, none)
  | .vmovi f => some (IF.toWord 0x57 f, none)
  | .vlea f => some (RF.toWord 0x58 f, none)
  | .fadd f => some (RF.toWord 0x60 f, none)
  | .fsub f => some (RF.toWord 0x61 f, none)
  | .fmul f => some (RF.toWord 0x62 f, none)
  | .ffma f => some (RF.toWord 0x63 f, none)
  | .fmin f => some (RF.toWord 0x64 f, none)
  | .fmax f => some (RF.toWord 0x65 f, none)
  | .fabs f => some (RF.toWord 0x66 f, none)
  | .fneg f => some (RF.toWord 0x67 f, none)
  | .fcmp f => some (RF.toWord 0x68 f, none)
  | .fclass f => some (RF.toWord 0x69 f, none)
  | .fdiv f => some (RF.toWord 0x6A f, none)
  | .fsqrt f => some (RF.toWord 0x6B f, none)
  | .frcp f => some (RF.toWord 0x6C f, none)
  | .frsq f => some (RF.toWord 0x6D f, none)
  | .fexp2 f => some (RF.toWord 0x6E f, none)
  | .flog2 f => some (RF.toWord 0x6F f, none)
  | .fsin f => some (RF.toWord 0x70 f, none)
  | .fcos f => some (RF.toWord 0x71 f, none)
  | .ftanh f => some (RF.toWord 0x72 f, none)
  | .fact f => some (RF.toWord 0x73 f, none)
  | .fdot2 f => some (RF.toWord 0x74 f, none)
  | .cvt f => some (RF.toWord 0x78 f, none)
  | .pack f => some (RF.toWord 0x79 f, none)
  | .unpk f => some (RF.toWord 0x7A f, none)
  | .fscl f => some (RF.toWord 0x7B f, none)
  | .fround f => some (RF.toWord 0x7C f, none)
  | .qswz f => some (RF.toWord 0x80 f, none)
  | .qbcast f => some (RF.toWord 0x81 f, none)
  | .lxchg f => some (RF.toWord 0x82 f, none)
  | .lshfl f => some (RF.toWord 0x83 f, none)
  | .lrot f => some (RF.toWord 0x84 f, none)
  | .lscan f => some (RF.toWord 0x85 f, none)
  | .lred f => some (RF.toWord 0x86 f, none)
  | .lidx f => some (RF.toWord 0x87 f, none)
  | .qhelp f => some (RF.toWord 0x88 f, none)
  | .atload f => some (RF.toWord 0x89 f, none)
  | .atbind f => some (RF.toWord 0x8A f, none)
  | .ld f => some (MF.toWord 0xA0 f, none)
  | .st f => some (MF.toWord 0xA1 f, none)
  | .lds f => some (MF.toWord 0xA2 f, none)
  | .sts f => some (MF.toWord 0xA3 f, none)
  | .ldw f => some (MF.toWord 0xA4 f, none)
  | .atom f => some (MF.toWord 0xA5 f, none)
  | .cas f => some (MF.toWord 0xA6 f, none)
  | .atoms f => some (MF.toWord 0xA7 f, none)
  | .fenceAcq f => some (RF.toWord 0xA8 f, none)
  | .fenceRel f => some (RF.toWord 0xA8 f, none)
  | .fenceFull f => some (RF.toWord 0xA8 f, none)
  | .dcf f => some (MF.toWord 0xA9 f, none)
  | .disc f => some (MF.toWord 0xAA f, none)
  | .prf f => some (MF.toWord 0xAB f, none)
  | .wback f => some (MF.toWord 0xAC f, none)
  | .sinv f => some (MF.toWord 0xAD f, none)
  | .cpl f => some (MF.toWord 0xB0 f, none)
  | .cps f => some (MF.toWord 0xB1 f, none)
  | .cpt f => some (RF.toWord 0xB2 f, none)
  | .cptw f => some (RF.toWord 0xB3 f, none)
  | .tload f => some (MF.toWord 0xB4 f, none)
  | .tbinit f => some (MF.toWord 0xB5 f, none)
  | .tbarr f => some (MF.toWord 0xB6 f, none)
  | .tbexp f => some (MF.toWord 0xB7 f, none)
  | .tbtest f => some (MF.toWord 0xB8 f, none)
  | .gset f => some (RF.toWord 0xB9 f, none)
  | .gget f => some (RF.toWord 0xBA f, none)
  | .gstop f => some (RF.toWord 0xBB f, none)
  | .trap f => some (IF.toWord 0xE0 f, none)
  | .tret f => some (RF.toWord 0xE1 f, none)
  | .brk f => some (IF.toWord 0xE2 f, none)
  | .fpcnt f => some (RF.toWord 0xE3 f, none)
  | .fpcntClr f => some (RF.toWord 0xE3 f, none)
  | .fpcntClrall f => some (RF.toWord 0xE3 f, none)
  | .yield f => some (RF.toWord 0xE4 f, none)
  | .syncEng f => some (RF.toWord 0xE5 f, none)
  | .syncErr f => some (RF.toWord 0xE5 f, none)
  | .syncCode f => some (RF.toWord 0xE5 f, none)
  | .vexpr f toks => some (RF.toWord 0x7D f, some toks)
  | .oclaim f => some (ClaimF.toWord 0xD0 f, none)
  | .orel f => some (ClaimF.toWord 0xD1 f, none)
  | .mmul f => some (MmulF.toWord 0xD2 f, none)
  | .mmulz f => some (MmulF.toWord 0xD3 f, none)
  | .mbyp f => some (MbypF.toWord 0xD5 f, none)
  | .mzero f => some (MzeroF.toWord 0xD6 f, none)
  | .mprog f => some (MprogF.toWord 0xD8 f, none)
  | .mdrainV f => some (MdrainF.toWord 0 f, none)
  | .mdrainS f => some (MdrainF.toWord 1 f, none)
  | .mdrainG f => some (MdrainF.toWord 2 f, none)
  | .msclRow f => some (MsclF.toWord false f, none)
  | .msclCol f => some (MsclF.toWord true f, none)
  | .rep f => some (PF.toWord f, none)
  | _ => none

/-- A mailbox block by its OP and the byte that selects the form (Tables 16.8, 17.3, 6.8). A form that the tables do not list is
held to the block checks of its OP, which refuse it. -/
def decodeBlock (b : Block) : Instr :=
  match blkOp b with
  | 0x11 => .migrate
  | 0x12 =>
    match blkByte b 6 with
    | 0 => .invalPage
    | 1 => .invalRange
    | 2 => .invalTenant
    | 3 => .invalTenantAll
    | 4 => .invalGuestRange
    | 5 => .invalPartition
    | _ => .invalKeyShadow
  | 0x13 =>
    match blkByte b 5 with
    | 1 => .tenantDelete
    | _ => .tenantSet
  | 0x14 => .trapset
  | 0x15 => .ctxpool
  | 0x16 =>
    match blkByte b 4 with
    | 1 => .biasToHost
    | _ => .biasToDevice
  | 0x17 => .preempt
  | 0x18 => .linkup
  | 0x21 => .reconf
  | 0x31 => .pair
  | 0x32 => .unpair
  | 0x33 => .release
  | 0x34 => .limits
  | 0x35 => .keyload
  | 0x36 => .preset
  | 0x37 => .attest
  | 0x38 => .inject
  | _ => .ccUnknownOp

/-- A clause header (Table 8.1). -/
structure Header where
  eng : Nat
  count : Nat
  billet : Bool
  waitk : Nat
  waitarg : BitVec 16
  sig : BitVec 8
  deriving DecidableEq, Repr

def Header.ofWord (w : BitVec 64) : Header :=
  { eng := w.toNat % 16, count := w.toNat / 16 % 32, billet := w.getLsbD 9, waitk := w.toNat / 2 ^ 12 % 8
    waitarg := w.extractLsb' 16 16, sig := w.extractLsb' 56 8 }

/-- The signature of an image's level (R200, R218). -/
def levelSig (l3 : Bool) : BitVec 8 := if l3 then 0xA5 else 0xA4

/-- The reserved bits of WAITARG are 0 for its WAITK (Table 8.2). -/
def waitArgOk (k : Nat) (a : BitVec 16) : Bool :=
  match k with
  | 0 => a == 0
  | 1 => a.toNat / 2 ^ 10 == 0
  | 2 => a.toNat / 2 ^ 4 == 0
  | 3 => a.toNat ≤ 2
  | 4 => true
  | 5 => true
  | 6 => a == 0
  | _ => false

/-- The header checks 1 and 2 of Table 8.3. -/
def headerOk (l3 : Bool) (w : BitVec 64) : Bool :=
  let h := Header.ofWord w
  h.sig == levelSig l3 && h.eng ≤ 5 && 1 ≤ h.count && h.count ≤ 16 && w.toNat / 2 ^ 10 % 4 == 0
    && !w.getLsbD 15 && w.toNat / 2 ^ 32 % 2 ^ 24 == 0 && h.waitk ≤ 6 && waitArgOk h.waitk h.waitarg

/-- The vector fields of several registers that hold a 64-bit operand: all of them but the DST of unpk, whose registers hold an element each
(R250). -/
def Instr.wideOperands : Instr → Bool
  | .unpk _ => false
  | _ => true

/-- The register fields that a rep may step, with their spaces; a field that is no register cannot be stepped (R293). `wide` says that a
vector field of several registers holds a 64-bit operand. -/
def repField (f : PF) (wide : Bool) (u : Use) (c : BitVec 8) (k : Nat) : Bool :=
  if f.step.getLsbD k then
    match u with
    | .reg sp =>
      let last := c.toNat + f.countM1.toNat * (if f.stride2 then 2 else 1)
      (match sp with
       | .v 1 => true
       | .v _ => f.stride2 || !wide
       | _ => true) && last < 256 && sp.ok (BitVec.ofNat 8 last)
    | _ => false
  else true

/-- The checks of R293 on a rep and the instruction it repeats; `regs` is the image's REGS. A range that starts at DST moves with it
(R326). -/
def repOk (f : PF) (i : Instr) (regs : Nat) : Bool :=
  let u := i.uses
  let (d, a, b, c) := i.regs
  let n := f.countM1.toNat * (if f.stride2 then 2 else 1)
  let field := repField f i.wideOperands
  let fits (k : Nat) (t : Nat) := if f.step.getLsbD k then t + n ≤ regs || t == 0 else true
  field u.dst d 0 && field u.sa a 1 && field u.sb b 2 && field u.sc c 3
    && fits 0 (max (u.dst.top d) i.extraTop) && fits 1 (u.sa.top a) && fits 2 (u.sb.top b) && fits 3 (u.sc.top c)

/-- Adds n to each stepped field of an R-format word (R294). -/
def RF.stepped (f : RF) (step : BitVec 4) (n : BitVec 8) : RF :=
  let add (k : Nat) (r : BitVec 8) := if step.getLsbD k then r + n else r
  { f with dst := add 0 f.dst, sa := add 1 f.sa, sb := add 2 f.sb, sc := add 3 f.sc }

/-- The word of iteration i of a rep: each stepped field of the R-format word increased by i x (STRIDE2 + 1) (R294). -/
def repWord (f : PF) (w : BitVec 64) (i : Nat) : BitVec 64 :=
  RF.toWord (w.extractLsb' 0 8) ((RF.ofWord w).stepped f.step (BitVec.ofNat 8 (i * (if f.stride2 then 2 else 1))))

/-- An R-format instruction of the image's level that is no control transfer: what may follow a rep (R203). -/
def mayRepeat (l3 : Bool) (opc : Nat) : Bool := opcodeDefined l3 opc && opcodeIsR opc && !opcodeTransfers opc

/-- The words of a clause, checked in order from word `k`: placement (R203), each word's own checks (R204 checks 3 to 7), and
the pair of a rep with its instruction (R293). The answer is the index of the first offending word, or none; a rep with nothing
that it may repeat is the offending word of its pair (log 72). -/
def clauseFault (l3 : Bool) (eng : Nat) (ctx : ImageCtx) : Nat → Nat → Option (PF) → List (BitVec 64) → Option Nat
  | 0, _, _, _ => none
  | _, k, rep, [] => if rep.isSome then some (k - 1) else none
  | fuel + 1, k, rep, w :: rest =>
    let opc := w.toNat % 256
    if rep.isSome && !mayRepeat l3 opc then some (k - 1)
    else
      match decodeWord l3 w rest.head? with
      | .error _ => some k
      | .ok i =>
        let cls := opcodeClass opc
        if !(cls == 0 || cls == 6 || cls == eng) then some k
        else if opcodeTransfers opc && !rest.isEmpty then some k
        else if !i.fits ctx then some k
        else
          match rep, i with
          | none, .rep f => clauseFault l3 eng ctx fuel (k + 1) (some f) rest
          | none, _ => clauseFault l3 eng ctx fuel (k + i.words) none (if i.words == 2 then rest.tail else rest)
          | some f, _ => if !repOk f i ctx.regs then some (k - 1) else clauseFault l3 eng ctx fuel (k + 1) none rest

/-- A word as the opcode table numbers its bits: one or two instruction words, or a mailbox block. -/
def decodeTableWord (nbits w : Nat) : Option Instr :=
  if 128 < nbits then some (decodeBlock (BitVec.ofNat 512 w))
  else
    match decodeWord true (BitVec.ofNat 64 w) (some (BitVec.ofNat 64 (w / 2 ^ 64))) with
    | .ok i => some i
    | .error _ =>
      match decodeWord false (BitVec.ofNat 64 w) none with
      | .ok i => some i
      | .error _ => none

end Sys2Proof
end

