-- ==== Sys2Proof/Machine/Bits.lean ====
section
/-! DEFINITION. Bit-field helpers: lanes of a mask, bytes of a line, sign extension, byte order (00_scope R5 to R7). -/

namespace Sys2Proof.Machine

/-- The lanes of a mask, in ascending order. -/
def lanesOf (m : LaneMask) : List Nat := (List.range 64).filter fun l => m.getLsbD l

/-- The mask of the lanes that satisfy a test. -/
def maskOf (f : Nat → Bool) : LaneMask :=
  (List.range 64).foldl (fun m l => if f l then m ||| BitVec.twoPow 64 l else m) 0

/-- The lowest lane of a mask. -/
def lowLane (m : LaneMask) : Option Nat := (lanesOf m).head?

/-- How many lanes a mask holds. -/
def lanesCount (m : LaneMask) : Nat := (lanesOf m).length

/-- Bits [lo + len - 1 : lo] of a number. -/
def bits (n lo len : Nat) : Nat := n / 2 ^ lo % 2 ^ len

/-- Field [lo + len - 1 : lo] of a word, as a number. -/
def fld {w : Nat} (x : BitVec w) (lo len : Nat) : Nat := x.toNat / 2 ^ lo % 2 ^ len

/-- Replaces field [lo + len - 1 : lo] of a word. -/
def setFld {w : Nat} (x : BitVec w) (lo len n : Nat) : BitVec w :=
  (x &&& ~~~(BitVec.ofNat w ((2 ^ len - 1) * 2 ^ lo))) ||| BitVec.ofNat w (n % 2 ^ len * 2 ^ lo)

/-- A 64-bit word of a number. -/
def w64 (n : Nat) : W64 := BitVec.ofNat 64 n

/-- The low `8 n` bits of a list of bytes, the first byte lowest (R6). -/
def leBytes : List Byte → Nat
  | [] => 0
  | b :: bs => b.toNat + 256 * leBytes bs

/-- The `n` low bytes of a number, lowest first (R6). -/
def toBytes (n v : Nat) : List Byte := (List.range n).map fun i => BitVec.ofNat 8 (v / 256 ^ i)

/-- Byte `i` of a line. -/
def lineByte (d : LineData) (i : Nat) : Byte := d.extractLsb' (8 * i) 8

/-- The line with those bytes, the first at byte 0. -/
def lineOf (bs : List Byte) : LineData := BitVec.ofNat 1024 (leBytes bs)

/-- `n` bytes of a line from byte `i` on, as a number. -/
def lineField (d : LineData) (i n : Nat) : Nat := d.toNat / 256 ^ i % 256 ^ n

/-- The bits of the bytes that a byte mask names. -/
def spread (m : ByteMask) : LineData :=
  (List.range 128).foldl (fun acc i => if m.getLsbD i then acc ||| BitVec.ofNat 1024 (255 * 256 ^ i) else acc) 0

/-- The bytes of `new` under the mask, those of `old` elsewhere (MERGE of R73). -/
def mergeLine (old new : LineData) (m : ByteMask) : LineData := (old &&& ~~~(spread m)) ||| (new &&& spread m)

/-- The mask of `n` bytes from byte `i` on. -/
def byteSpan (i n : Nat) : ByteMask := BitVec.ofNat 128 ((2 ^ n - 1) * 2 ^ i)

/-- A line that holds the `n`-byte number `v` at byte `i`. -/
def lineWith (i n v : Nat) : LineData := BitVec.ofNat 1024 (v % 256 ^ n * 256 ^ i)

/-- Saturating increment of a 32-bit counter. -/
def sat32 (n : Nat) : Nat := min (n + 1) 0xFFFFFFFF

/-- CRC-32C over bytes (Castagnoli polynomial, reflected; R71, R223). -/
def crc32cByte (crc : BitVec 32) (b : Byte) : BitVec 32 :=
  (List.range 8).foldl (fun c _ => if c.getLsbD 0 then (c >>> 1) ^^^ 0x82F63B78#32 else c >>> 1)
    (crc ^^^ b.setWidth 32)

def crc32c (bs : List Byte) : BitVec 32 := ~~~(bs.foldl crc32cByte 0xFFFFFFFF#32)

/-- CRC-64 of R413: reflected, initial value and final exclusive-or all ones. -/
def crc64Byte (crc : W64) (b : Byte) : W64 :=
  (List.range 8).foldl (fun c _ => if c.getLsbD 0 then (c >>> 1) ^^^ 0xC96C5795D7870F42#64 else c >>> 1)
    (crc ^^^ b.setWidth 64)

def crc64 (bs : List Byte) : W64 := ~~~(bs.foldl crc64Byte 0xFFFFFFFFFFFFFFFF#64)

end Sys2Proof.Machine
end

