-- ==== Sys2Proof/Machine/Cipher.lean ====
section
/-! DEFINITION. AES-XTS-256, under which the memory controllers keep a line of main memory (02 R56): the block cipher AES-256, and the
XTS mode over the eight blocks of a 128-byte data unit. The cipher and the mode are those of the standards that R56 names, FIPS 197 and
IEEE 1619; of the pair of keys the first 32 bytes are the data key (PRESUMED, log 7). -/

namespace Sys2Proof.Machine

/-- Doubling in the field of AES. -/
def aesTwice (a : Byte) : Byte := (a <<< 1) ^^^ (if a.getLsbD 7 then 0x1B#8 else 0)

/-- The product of two field elements. -/
def aesMul (a b : Byte) : Byte :=
  ((List.range 8).foldl (fun (acc : Byte × Byte) i => (if b.getLsbD i then acc.1 ^^^ acc.2 else acc.1, aesTwice acc.2)) (0, a)).1

/-- The substitution: the inverse, which is the 254th power, and the affine map. -/
def aesSub (a : Byte) : Byte :=
  let sq (x : Byte) := aesMul x x
  let x2 := sq a
  let x4 := sq x2
  let x8 := sq x4
  let x16 := sq x8
  let x32 := sq x16
  let x64 := sq x32
  let x128 := sq x64
  let i := aesMul x2 (aesMul x4 (aesMul x8 (aesMul x16 (aesMul x32 (aesMul x64 x128)))))
  i ^^^ i.rotateLeft 1 ^^^ i.rotateLeft 2 ^^^ i.rotateLeft 3 ^^^ i.rotateLeft 4 ^^^ 0x63#8

/-- Every value of the substitution, in order; built once for an inverse lookup. -/
def aesSubs : List Byte := (List.range 256).map fun i => aesSub (BitVec.ofNat 8 i)

/-- The inverse substitution. -/
def aesUnsub (a : Byte) : Byte := BitVec.ofNat 8 ((aesSubs.findIdx? fun x => x = a).getD 0)

def xorBytes (a b : List Byte) : List Byte := a.zipWith (· ^^^ ·) b

/-- The 60 words of the key schedule of a 32-byte key, four bytes each. -/
def aesSchedule (key : List Byte) : List (List Byte) :=
  (List.range 52).foldl (fun (w : List (List Byte)) j =>
    let i := j + 8
    let t := w.getD (i - 1) []
    let t := if i % 8 = 0 then
        xorBytes (((t.drop 1) ++ t.take 1).map aesSub) [BitVec.ofNat 8 (2 ^ (i / 8 - 1)), 0, 0, 0]
      else if i % 8 = 4 then t.map aesSub else t
    w ++ [xorBytes (w.getD (i - 8) []) t])
    ((List.range 8).map fun i => (key.drop (4 * i)).take 4)

/-- The key of a round, 16 bytes. -/
def roundKey (w : List (List Byte)) (r : Nat) : List Byte := ((w.drop (4 * r)).take 4).flatten

/-- Row r of the block, which holds byte 4 c + r in column c, is turned left by r, or by 4 - r for the inverse. -/
def aesShift (back : Bool) (b : List Byte) : List Byte :=
  (List.range 16).map fun i => b.getD (4 * ((i / 4 + (if back then 4 - i % 4 else i % 4)) % 4) + i % 4) 0

/-- Each column times a circulant matrix, given by its first row. -/
def aesMix (m : List Byte) (b : List Byte) : List Byte :=
  (List.range 16).map fun i =>
    (List.range 4).foldl (fun (x : Byte) k => x ^^^ aesMul (m.getD ((k + 4 - i % 4) % 4) 0) (b.getD (i / 4 * 4 + k) 0)) 0

/-- AES-256 of one block. -/
def aesEncrypt (w : List (List Byte)) (b : List Byte) : List Byte :=
  let mid := (List.range 13).foldl (fun b r =>
    xorBytes (aesMix [2, 3, 1, 1] (aesShift false (b.map aesSub))) (roundKey w (r + 1))) (xorBytes b (roundKey w 0))
  xorBytes (aesShift false (mid.map aesSub)) (roundKey w 14)

/-- Its inverse. -/
def aesDecrypt (w : List (List Byte)) (b : List Byte) : List Byte :=
  let mid := (List.range 13).foldl (fun b r =>
    aesMix [14, 11, 13, 9] (xorBytes ((aesShift true b).map aesUnsub) (roundKey w (13 - r)))) (xorBytes b (roundKey w 14))
  xorBytes ((aesShift true mid).map aesUnsub) (roundKey w 0)

/-- The tweak of the next block. -/
def xtsNext (t : BitVec 128) : BitVec 128 := (t <<< 1) ^^^ (if t.getLsbD 127 then 0x87#128 else 0)

/-- XTS over the blocks of a data unit, `f` in one direction. -/
def xtsBlocks (f : List Byte → List Byte) (t : BitVec 128) (d : List Byte) : Nat → List Byte
  | 0 => []
  | n + 1 =>
    let tb := toBytes 16 t.toNat
    xorBytes (f (xorBytes (d.take 16) tb)) tb ++ xtsBlocks f (xtsNext t) (d.drop 16) n

/-- A line under a pair of keys and its number, in one direction (R56). -/
def xtsLine (back : Bool) (keys : Block) (line : Nat) (d : LineData) : LineData :=
  let k := toBytes 64 keys.toNat
  let data := aesSchedule (k.take 32)
  let t := BitVec.ofNat 128 (leBytes (aesEncrypt (aesSchedule (k.drop 32)) (toBytes 16 line)))
  BitVec.ofNat 1024
    (leBytes (xtsBlocks (if back then aesDecrypt data else aesEncrypt data) t (toBytes 128 d.toNat) 8))

/-- What the memory controller stores for a line, and what it reads back (R56). -/
def xtsEncrypt : Block → Nat → LineData → LineData := xtsLine false
def xtsDecrypt : Block → Nat → LineData → LineData := xtsLine true

end Sys2Proof.Machine
end

