-- ==== Sys2Proof/Config.lean ====
section
/-! DEFINITION. The free values: constants with no body, one for each value or order that the spec leaves open.
Nothing can be proved of the value of any of them, so every statement holds whatever they are. -/

namespace Sys2Proof.Config

/-- Which of several steps that are all possible comes first; the argument is the step counter (DESIGN CHOICE, log 2). -/
opaque pick : Nat → Nat

/-- How many main-clock cycles a step takes (the model has no time of its own; log 3). -/
opaque cyclesOf : Nat → Nat

/-- A 32-bit value that the spec calls undefined; the arguments are the seed of the place and an index (log 4). -/
opaque freeWord : Nat → Nat → BitVec 32

/-- A byte that the spec calls undefined; the arguments are the seed of the place and the address (log 4). -/
opaque freeByte : Nat → Nat → BitVec 8

/-- Which of the results inside the accuracy bound of R277 an approximate function gives: a fixed function of the
operation, the format and the input bits (R277: one fixed function on every QP-960; log 5). -/
opaque approx : Nat → Nat → Nat → Nat

/-- Whether a core still holds a clause that it has fetched; the arguments are the step counter and the core (R368; log 16). -/
opaque codeKept : Nat → Nat → Bool

/-- Cycles until a bank's next refresh window, for WSREF (R52; log 6). -/
opaque refreshGap : Nat → Nat → Nat

/-- The row of a group's region that the vector-row spill or refill of a step touches, if one is made: which register is spilled or
refilled, and when, R386 leaves to the rows that are free (log 42). -/
opaque spillRow : Nat → Option Nat

/-- Which entry a full TLB gives up; the arguments are the step counter and the TLB's size (R158; log 10). -/
opaque victim : Nat → Nat → Nat

/-- The set of an L2 TLB in which a translation is kept; the arguments are its tenant, its first address and its size (R158; log 10). -/
opaque tlbSet : Nat → Nat → Nat → Nat

/-- The ML-DSA-65 signature of a report, byte by byte (R443; log 7). -/
opaque signature : BitVec 256 → Nat → BitVec 8

/-- The key under which KEYLOAD's keys are wrapped, which the spec does not give (R443; log 7). -/
opaque wrapKey : BitVec 256

/-- Key 0, generated by the Collier at every device reset; the argument is the reset count (R56; log 7). -/
opaque keyZero : Nat → BitVec 512

end Sys2Proof.Config
end

