-- ==== Sys2Proof/Machine/Tables.lean ====
section
/-! DEFINITION. Finite tables: lists of (key, value) in strictly rising key order. A sparse table with a default keeps no
entry equal to the default, so equal tables are equal lists (the canonical form of memory). -/

namespace Sys2Proof.Machine

/-- The value at a key, if the table lists one. -/
def Tbl.find? {α : Type} : List (Nat × α) → Nat → Option α
  | [], _ => none
  | (k, v) :: t, n => if k = n then some v else Tbl.find? t n

/-- Puts a value at a key, in order. -/
def Tbl.put {α : Type} : List (Nat × α) → Nat → α → List (Nat × α)
  | [], n, x => [(n, x)]
  | (k, v) :: t, n, x => if n < k then (n, x) :: (k, v) :: t else if k = n then (n, x) :: t else (k, v) :: Tbl.put t n x

/-- Removes a key. -/
def Tbl.del {α : Type} : List (Nat × α) → Nat → List (Nat × α)
  | [], _ => []
  | (k, v) :: t, n => if k = n then t else (k, v) :: Tbl.del t n

/-- The value at a key, or the default. -/
def Tbl.getD {α : Type} (l : List (Nat × α)) (n : Nat) (d : α) : α := (Tbl.find? l n).getD d

/-- Sets a key of a sparse table whose unlisted keys read `d`. -/
def Tbl.setD {α : Type} [DecidableEq α] (d : α) (l : List (Nat × α)) (n : Nat) (x : α) : List (Nat × α) :=
  if x = d then Tbl.del l n else Tbl.put l n x

/-- Applies a function to a listed value. -/
def Tbl.upd {α : Type} (l : List (Nat × α)) (n : Nat) (f : α → α) : List (Nat × α) :=
  match Tbl.find? l n with
  | some v => Tbl.put l n (f v)
  | none => l

/-- Every value, with its key, through a function. -/
def Tbl.mapVal {α : Type} (f : Nat → α → α) (l : List (Nat × α)) : List (Nat × α) := l.map fun p => (p.1, f p.1 p.2)

/-- One more than the highest key: a key that is free. -/
def Tbl.fresh {α : Type} : List (Nat × α) → Nat
  | [] => 0
  | (k, _) :: t => max (k + 1) (Tbl.fresh t)

/-- The canonical form: keys strictly rising from `lo`, and no entry equal to the default. -/
def Tbl.canon {α : Type} [DecidableEq α] (d : α) : Nat → List (Nat × α) → Bool
  | _, [] => true
  | lo, (k, v) :: t => decide (lo ≤ k) && decide (v ≠ d) && Tbl.canon d (k + 1) t

end Sys2Proof.Machine
end

