-- ==== Sys2Proof/Machine/State.lean ====
section
/-! DEFINITION. The state of the QP-960, all of it plain data. Tables are lists of (key, value) in rising key order
(Machine/Tables.lean). A split is named by its group's handle and its split number. Every field's comment names the rule
that gives it. The reset state stands at the end. -/

namespace Sys2Proof.Machine

/-- Why the machine stops. -/
inductive Fault where
  /-- An instruction word is executed while no split is issuing (R204, R205: words issue only from a split's clause). Raised
  by every instruction-word meaning; safe, since the hardware never issues a word without a split. -/
  | noSplit
  /-- System software has changed a byte of a saved context that it may not change: the resumed state is undefined (R398). Raised by
  execCrewResume; safe, since the model stops where the spec gives no effect. -/
  | contextChanged
  deriving DecidableEq, Repr

/-- Why the model has no answer. -/
inductive Refusal where
  /-- An instruction that the model does not give a meaning; safe. Raised by the dispatch only. -/
  | notModelled (mnemonic : String)
  deriving DecidableEq, Repr

/-- Coherence class of a translation (R63, Table 6.2 CLS). -/
inductive Cls where
  | dir
  | sinv
  | unc
  deriving DecidableEq, Repr

/-- The ACCESS of a fault detail word (Table 6.9). -/
inductive Access where
  | read
  | write
  | atomic
  | fetch
  | engRead
  | engWrite
  deriving DecidableEq, Repr

/-- The role of a group (Table 7.4, R224). -/
inductive Role where
  | general
  | copy
  | matrix
  | vector
  deriving DecidableEq, Repr

/-- A reconvergence-stack entry (R175): `join` is KIND J, otherwise P. -/
structure StackEntry where
  join : Bool
  mask : LaneMask
  pc : W64
  fmt : W64
  arr : LaneMask
  deriving DecidableEq, Repr

/-- What a split waits for; a waiting split issues nothing (R190). -/
inductive Wait where
  /-- Nothing: the split is ready. -/
  | none
  /-- At a join (R178). -/
  | join
  /-- At a crew barrier, until its phase differs from `phase` (R186); `arrived` when the group's arrival is counted. -/
  | bar (b phase : Nat)
  /-- At a cord barrier (R188). -/
  | cbar (b phase : Nat)
  /-- At a ring slot (R184, rget). -/
  | ring (r slot : Nat) (phase : Bool)
  /-- In the wait of the clause header it stands on (R201). -/
  | clause (k : Nat) (arg : BitVec 16)
  /-- For a table walk (R161). -/
  | walk
  /-- Parked: lanes are attached to page requests (R163). -/
  | parked
  /-- For a line whose transition or late framing is under way (R67, R102). -/
  | line (key : Nat)
  /-- For an answer of the host or a peer (R392, R393). -/
  | answer
  /-- For a free L2 miss entry of a slice (R37). -/
  | miss (slice : Nat)
  /-- For room in the load queue (0), the store queue (1) or the store gate (2) (R312, R409). -/
  | queue (which : Nat)
  /-- At the rendezvous latch (R336). -/
  | latch (key : Nat)
  /-- At the cord latch (R342). -/
  | cordLatch
  /-- For a released matrix or drain operation of this core (R338). -/
  | matrix (id : Nat)
  /-- For a gather stream of another group, or for elements not yet fetched (R325, R326). -/
  | gather (g : Nat)
  /-- For an activation bank that is being loaded (R284). -/
  | bank (b : Nat)
  /-- In atload, for a bank that another split loads or that splits have bound (R284 step 2). -/
  | bankFree (b : Nat)
  /-- For the token or result that a pending command will write to a scalar register (R205). -/
  | token (r : Nat)
  /-- In sync of a kind (R368). -/
  | sync (kind : Nat)
  /-- In yield, until other splits have issued or the limit runs out (R367). -/
  | yield
  /-- For the trailing copy's matching act in a clamp (R410, R411, R414). -/
  | check
  /-- For a weight-store bank in refresh (R53). -/
  | refresh (bank : Nat)
  /-- In a clamp, until the split's earlier stores have left the store gate (R120, R143), or those of its core to a line (R125). -/
  | gate (line : Option Nat)
  deriving DecidableEq, Repr

/-- The kind of a latched store error (R306). -/
inductive LatchKind where
  | writeOnce
  | lostUpdate
  | peer
  | host
  deriving DecidableEq, Repr

/-- A flashback snapshot (R193, Table 7.6): the live-in registers and the state at billet entry. -/
structure Snapshot where
  header : W64
  mask : LaneMask
  depth : Nat
  fmt : W64
  skew : W64
  preds : List (Nat × LaneMask)
  trecs : List (Nat × Block)
  sregs : List (Nat × W64)
  /-- Live-in vector registers: the register number and each lane's value in ascending lane order of the mask. -/
  vregs : List (Nat × List (Nat × W32))
  /-- Positions of the group's gather streams at billet entry (R326). -/
  streams : List (Nat × Nat)
  /-- Commands numbered from here on belong to the billet or to a later one (Table 7.6). -/
  start : Nat
  /-- Scalars whose token was still to come at billet entry, and has not come since (R205). -/
  pend : List Nat := []
  deriving DecidableEq, Repr

/-- What a split comes back to from trap level (R359 step 3). -/
structure TrapReturn where
  pc : W64
  mask : LaneMask
  fmt : W64
  depth : Nat
  /-- The header of the clause that was issuing and the number of its words, so that tret resumes at a word of it (R365). -/
  clause : Option (W64 × Nat)
  /-- The billet that the split had entered when the header at which it stood trapped (R193, R196). -/
  billet : Option Snapshot
  deriving DecidableEq, Repr

/-- A fetched clause: the address of its header, its ENG, its words, and how many have been issued (R200, R205). -/
structure Clause where
  header : W64
  eng : Nat
  words : List W64
  next : Nat
  deriving DecidableEq, Repr

/-- The outcome of a translation that did not give an address (R151, R152). -/
inductive XFault where
  /-- A trap: cause code and fault detail word. -/
  | trap (cause : Nat) (detail : BitVec 32)
  /-- An entry with V = 0: stage, level, TABLE, entry address, and the address that was being translated (R163, R166). -/
  | absent (stage level : Nat) (table : Bool) (entry addr : Nat)
  deriving DecidableEq, Repr

/-- What a home slice, a peer's or the host answers to a request: GRANT of Table 3.5 and the line (R64, R83). -/
structure Answer where
  grant : Nat
  data : LineData
  deriving DecidableEq, Repr

/-- A trap whose frame is still to be written, because the write waits (R359, R361): what the frame reports. `fails` is the code with which
the launch ends once a frame with DELIV = 0 has been written or dropped; `second` is SECOND of such a frame (R360). -/
structure PendingTrap where
  cause : Nat
  pc : W64
  mask : W64
  addr : W64
  detail : BitVec 32
  repcnt : Nat
  mprog : Nat
  second : Bool
  fails : Option Nat
  /-- The frame has been written or dropped. -/
  done : Bool
  deriving DecidableEq, Repr

/-- A split (R175, R212, R214). -/
structure Split where
  /-- Address of the next word or header (R175). -/
  pc : W64
  /-- The lanes of the split (R175). -/
  mask : LaneMask
  /-- FMT (Table 8.9, 0x0A). -/
  fmt : W64
  /-- s1 to s63; s0 is not stored (R212). -/
  sregs : List (Nat × W64)
  /-- Seed of the scalars that a flashback left undefined; 0 when unlisted scalars are 0 (Table 7.6). -/
  sseed : Nat
  /-- Scalar registers whose token a command or a child launch has still to write (R205, R313, R273). -/
  pend : List Nat
  /-- Tokens that have come while the crew is saved; they are written when it resumes (R273, R400). -/
  tokens : List (Nat × W64) := []
  /-- The reconvergence stack, top first (R175). -/
  stack : List StackEntry
  /-- t0 to t7 (R212, R319). -/
  trecs : List (Nat × Block)
  /-- Seed of the tensor records of a split that a division made, which no rule gives; 0 when unlisted ones are 0 (R177). -/
  tseed : Nat
  /-- TRAPCAUSE (0x12). -/
  trapCause : W64
  /-- TRAPPC (0x13). -/
  trapPc : W64
  /-- TRAPMASK (0x14). -/
  trapMask : W64
  /-- TRAPADDR (0x15). -/
  trapAddr : W64
  /-- REPCNT (0x16): iterations completed by an interrupted rep. -/
  repcnt : Nat
  /-- MPROG (0x17): blocks completed by an interrupted matrix instruction. -/
  mprog : Nat
  /-- The hidden return state, held exactly at trap level (R359). -/
  trap : Option TrapReturn
  /-- A trap whose frame is still to be written (R361). -/
  pendingTrap : Option PendingTrap
  /-- The error latch and the address of the failed store (R306). -/
  latch : Option (LatchKind × W64)
  /-- The fetched clause the split is issuing (R200). -/
  clause : Option Clause
  /-- The header of a clause, and the word at which issue resumes once the clause has been fetched again (R365, R368). -/
  resume : Option (W64 × W64)
  /-- The prefix in force and its completed iterations (R294). -/
  rep : Option (PF × Nat)
  /-- What the split waits for (R190). -/
  wait : Wait
  /-- In pause (R189). -/
  paused : Bool
  /-- Effective priority above the launch's priority (R192). -/
  lift : Nat
  /-- Splits of the quarter that must issue before a yield ends (R367). -/
  yieldOn : List SplitRef
  /-- CYCLE at the issue of the last clause header (R201 kind 5). -/
  issuedAt : Nat
  /-- The snapshot of the current billet (R193). -/
  billet : Option Snapshot
  /-- A new snapshot in the staging rows of the checking block (R414). -/
  staged : Option Snapshot
  /-- The header noted as the retry billet (R416). -/
  retry : Option W64
  /-- The retry billet has been entered again, so the next confirmed billet is a later one (R416). -/
  retried : Bool
  /-- The last closed billet ended with an act that cannot be repeated (R417). -/
  sealed : Bool
  /-- Crew barriers at which the split last arrived by bar.arv, with the phase (Table 8.2 kind 2). -/
  arv : List (Nat × Nat)
  /-- Lanes that have still to perform the current instruction, once some have (R163). -/
  unfinished : Option LaneMask
  /-- Results of ended walks that the split has not used yet, by page (R152). -/
  faults : List (Nat × XFault)
  /-- Values that answered the split's outbound reads, by line address (R392, R393). -/
  answers : List (Nat × Answer)
  /-- Outbound access of the current instruction that failed: cause and line address (R392, R393). -/
  aborted : Option (Nat × Nat)
  /-- Result delivered through the checking block, once the act has matched (R410). -/
  matched : Bool
  /-- Scope of the acquire that is still to be made before the next instruction: that of a barrier, of a cord barrier, of a launch or
  of a resumption; 0 when none is (R137, R187, R188). -/
  acquire : Nat := 0
  /-- Scalars that hold the token of a child launch which no instruction has read yet (R138). -/
  fresh : List Nat := []
  /-- The split has come back by tret and its instruction has not retired: REPCNT and MPROG are for that one (R365). -/
  back : Bool := false
  /-- CYCLE when the split last became ready; none while it is not (R191). -/
  readyAt : Option Nat := none
  deriving DecidableEq, Repr

/-- A group (R169, R173). -/
structure Group where
  launch : Nat
  cord : Nat
  crew : Nat
  /-- GRPID (0x02). -/
  grpid : Nat
  /-- WIDTH (0x09): 16, 32 or 64. -/
  width : Nat
  /-- Vector registers named by the image (R223 REGS). -/
  regs : Nat
  role : Role
  /-- Splits 0 to 3 (R175). -/
  splits : List (Nat × Split)
  /-- v0 to v255: lane L of register r at key 64 r + L (R212). -/
  vregs : List (Nat × W32)
  /-- Seed of a lane's undefined vector registers; an unlisted lane's registers are 0 (R213, Table 7.6). -/
  vseed : List (Nat × Nat)
  /-- p1 to p15; p0 is constant true (R212). -/
  preds : List (Nat × LaneMask)
  /-- Lanes that have exited (R179). -/
  exited : LaneMask
  /-- Lanes at or beyond the thread count (R172). -/
  off : LaneMask
  /-- GANG (0x0B). -/
  gang : W64
  /-- SKEW (0x0C). -/
  skew : W64
  /-- STICKY (0x11). -/
  sticky : W64
  /-- Base of the cache-backed region; in a clamp also the trailing cluster's (R32, R398, R421). -/
  region : W64
  region2 : W64
  deriving DecidableEq, Repr

/-- A crew barrier (R186): its phase counter, the count of the phase once taken, the groups that have arrived, and the lanes of each group
that have executed bar in the phase. -/
structure Barrier where
  phase : Nat
  count : Option Nat
  came : List Nat
  lanes : List (Nat × LaneMask)
  deriving DecidableEq, Repr

/-- A crew (R169, R184, R186, R396 to R400). -/
structure Crew where
  launch : Nat
  cord : Nat
  /-- CREWID (0x04). -/
  crewid : Nat
  /-- CORE (0x07); the leading core in a clamp. -/
  core : Nat
  /-- Scratchpad allocation: physical base and size in bytes (R26). -/
  scratchBase : Nat
  scratchSize : Nat
  /-- Slot count of each ring; the list's length is the ring count (R184). -/
  rings : List Nat
  /-- Phase bits: slot s of ring r at key 8 r + s; unlisted 0 (R184). -/
  ringPhase : List (Nat × Bool)
  /-- Barriers 0 to 15 (R186). -/
  bars : List (Nat × Barrier)
  /-- Groups, by GRPID, with lanes that have executed cbar b in the current phase: key 4 GRPID + b (R188). -/
  cbarLanes : List (Nat × LaneMask)
  /-- Pre-empted: the crew's contexts are saved and none of its groups issues (R396). -/
  saved : Bool
  /-- Groups whose contexts have still to be written to their regions (R396 step 7). -/
  toSave : List Nat
  /-- 1 MiB slot of the lazy save in the context pool (R398). -/
  lazySlot : Option Nat
  /-- A pre-emption request is pending (R395). -/
  preempt : Bool
  deriving DecidableEq, Repr

/-- The state of a launch (Table 14.2, R377 to R384). -/
inductive LaunchState where
  /-- Accepted; its image has not been read yet (R377). -/
  | accepted
  /-- A child record handed over, not yet checked (R380). -/
  | received
  /-- Image checked; waiting for its dependences and its turn (R381, R382). -/
  | candidate
  /-- Preload copies are running (R383). -/
  | preloading
  /-- Preloads done, cords may be placed (R384). -/
  | ready
  /-- Every cord placed. -/
  | placed
  /-- Ended: DONE, FAILED with a code, or REFUSED after acceptance with a status. -/
  | done
  | failed (code : Nat)
  | refused (status : Nat)
  deriving DecidableEq, Repr

/-- A kernel image as the distributor keeps it (R223 to R226, R377). -/
structure Image where
  level3 : Bool
  width : Nat
  crew : Nat
  cord : Nat
  regs : Nat
  integ : Nat
  rings : List Nat
  scratch : Nat
  fmt0 : W64
  code : Nat
  codeLen : Nat
  /-- Entry offset and role of each group (R224). -/
  groups : List (Nat × Role)
  /-- Code offsets of the safe points, with vector and scalar live masks (R225). -/
  safe : List (Nat × BitVec 256 × W64)
  /-- Code offsets of the headers that the walk of R226 meets. -/
  headers : List Nat
  /-- LENGTH. -/
  length : Nat
  deriving DecidableEq, Repr

/-- A dependence of a host launch: SEQ and queue interface; of a child: LAUNCHID (Tables 14.1, 14.5). -/
inductive Dep where
  | seq (queue seq : Nat)
  | launch (id : Nat)
  deriving DecidableEq, Repr

/-- Where a launch came from (R371, R273). -/
inductive Origin where
  | window (func queue : Nat) (doneAddr : W64)
  | packet (func queue : Nat) (statusAddr : Nat)
  | child (group split token : Nat)
  deriving DecidableEq, Repr

/-- An arrival at a rendezvous latch (R336). -/
structure Arrival where
  member : SplitRef
  word : W64
  gang : W64
  fmt : W64
  mprog : Nat
  instr : Instr
  deriving DecidableEq, Repr

/-- A launch (R370 to R384). -/
structure Launch where
  part : Nat
  tenant : Nat
  /-- ILVL (0x10). -/
  il : Nat
  prio : Nat
  image : W64
  args : W64
  threads : Nat
  cords : Nat
  /-- FPTHRESH (R244). -/
  thresh : Nat
  peak : Nat
  seq : Nat
  irq : Bool
  runAnyway : Bool
  origin : Origin
  deps : List Dep
  preload : W64
  npreload : Nat
  state : LaunchState
  /-- Lines that the host or a peer returned for reads of the image and the preload, and lines it could not return, with the
  cause. -/
  answers : List (Nat × Answer)
  aborted : List (Nat × Nat)
  /-- Outcomes of walks that did not translate and have not been used yet, by page (R161). -/
  faults : List (Nat × XFault) := []
  /-- Completion words not written yet, oldest first (R371). -/
  words : List W64
  /-- The interrupt at completion is still to be raised (R371). -/
  irqDue : Bool
  /-- The launch has ended but for its release of .sys scope: its failure code, or 0, and the cores that have still to write back the
  SINV bytes of its groups (R138, R402). -/
  closing : Option (Nat × List Nat) := none
  /-- Order of acceptance (R384). -/
  age : Nat
  /-- The image, once read (R377). -/
  img : Option Image
  /-- The child record as the distributor received it (R378). -/
  record : Block
  /-- Cords placed and retired. -/
  placedCords : Nat
  retiredCords : Nat
  /-- The 20 event counters and, at index 20, the division counter (R242, R258); unlisted 0. -/
  counters : List (Nat × Nat)
  /-- Waited 2^20 cycles without placing a cord (R384). -/
  blocking : Bool
  /-- Cord barriers: phase at key 4 cord + b (R188). -/
  cordPhase : List (Nat × Nat)
  /-- Gangs at the cord latch, as their member 0 arrived: key 16 cord + crew (R342). -/
  cordLatch : List (Nat × Arrival)
  deriving DecidableEq, Repr

/-- Which engine command (R312, R349). -/
inductive CmdKind where
  | cpl
  | cps
  | cpt
  | cptw
  | drainS
  | drainG
  deriving DecidableEq, Repr

/-- An engine command in a queue (R312 to R322, R349). -/
structure Command where
  kind : CmdKind
  group : Nat
  split : Nat
  /-- The other members of the gang, for a drain command (R346, R349). -/
  also : List SplitRef
  crew : Nat
  /-- Bytes of an element. -/
  size : Nat
  /-- Per-lane copies: lane, generic address, scratchpad or operand address. -/
  lanes : List (Nat × W64 × W64)
  /-- Tensor copies: the record, the box indices and the destination scalar. -/
  record : Block
  box : W64
  dest : W64
  /-- Drain commands: row pitch, columns, and the converted elements in row-major order. -/
  pitch : W64
  cols : Nat
  data : List W32
  /-- Drain commands: the first block that is delivered, MPROG of the operation, and the block at which a divergence has stopped the
  conversion (R343). -/
  skip : Nat := 0
  stopAt : Option Nat := none
  oslot : Bool
  acq : Bool
  rel : Bool
  scope : Nat
  colour : Nat
  /-- Completion on a transaction barrier at this address; in scratchpad when the flag is set. -/
  tb : Option (W64 × Bool)
  /-- Completion through a token in this scalar register. -/
  token : Option Nat
  /-- Walk outcomes not used yet, by page. -/
  faults : List (Nat × XFault)
  answers : List (Nat × Answer)
  /-- Failed outbound accesses and released writes: line and cause. -/
  aborted : List (Nat × Nat)
  /-- PC of the instruction that issued it (R415). -/
  pc : W64
  /-- Elements performed, failed, or handed to the store gate: index and line (R315, R409). -/
  done : List (Nat × Nat)
  /-- Values read that are to be written locally, by element (R316). -/
  got : List (Nat × Nat)
  /-- The first failed element: its index, cause and reason (R315, Table 11.3). -/
  fail : Option (Nat × Nat × Nat)
  deriving DecidableEq, Repr

/-- A joint operation between release and retirement (R338, R343, R352). -/
structure MatrixOp where
  /-- The instruction as released. -/
  instr : Instr
  crew : Nat
  /-- GRPID of member 0. -/
  keyGrp : Nat
  members : List SplitRef
  fmt : W64
  /-- Blocks completed (R341). -/
  blocks : Nat
  /-- Runs on the array (mmul, mmulz); otherwise on the drain unit (R328). -/
  array : Bool
  /-- Performed by the control-core firmware (R352). -/
  emulated : Bool
  /-- One crew's part of a cord operation; the parts share their number (R342). -/
  cord : Bool
  /-- Scalars taken from member 0: REGA, REGB, REGC, or SA of mscl. -/
  ra : W64
  rb : W64
  rc : W64
  deriving DecidableEq, Repr

/-- A gather stream (R324 to R326): the holder, the record, the row of each lane, the start column, the position, and the
elements fetched: key 64 position + lane, with the value or the cause of a failure. -/
structure Stream where
  group : Nat
  split : Nat
  record : Block
  rows : List (Nat × Nat)
  col : Nat
  pos : Nat
  fetched : List (Nat × W64)
  failed : List (Nat × XFault)
  /-- Walk outcomes by page, answers by line, and failed outbound reads by line with their cause. -/
  faults : List (Nat × XFault)
  answers : List (Nat × Answer)
  aborted : List (Nat × Nat)
  deriving DecidableEq, Repr

/-- An activation-table bank (R282, R284). -/
structure Bank where
  valid : Bool
  tenant : Nat
  /-- LO, SCALE, VLO, VHI, MODE and the coefficients: key 4 s + n. -/
  lo : W32
  scale : W32
  vlo : W32
  vhi : W32
  mode : BitVec 8
  coef : List (Nat × W32)
  /-- The split whose atload holds the bank in the loading state. -/
  loading : Option SplitRef
  deriving DecidableEq, Repr

/-- A core (Table 2.1, R38, R282, R312, R328, R332). -/
structure Core where
  /-- Scratchpad bytes by physical address (R26); see `scratchSeed` for unlisted bytes. -/
  scratch : List (Nat × Byte)
  /-- Seed of each 1 KiB block with undefined contents; an unlisted block reads 0 (R27). -/
  scratchSeed : List (Nat × Nat)
  /-- Tenant that a 1 KiB block was last allocated to (R27). -/
  scratchTenant : List (Nat × Nat)
  /-- Operand memory: slot x 12,288 + row x 48 + byte (R31, R318). -/
  operand : List (Nat × Byte)
  operandSeed : Nat
  /-- Accumulator elements: frame row x 256 + column (R329). -/
  acc : List (Nat × W32)
  accSeed : Nat
  /-- Tag I of tile T; unlisted F, or undefined with the accumulator (R330, R333). -/
  tagI : List (Nat × Bool)
  /-- ROWSCL at n, COLSCL at 256 + n; unlisted 1.0, or undefined by the seed when that is not 0 (R345, R333). -/
  scale : List (Nat × W32)
  scaleSeed : Nat
  /-- Claim of each slot: 32 x crew handle + GRPID of member 0 (R332). -/
  claims : List (Nat × Nat)
  /-- Tenant of the last crew that used the core (R333). -/
  lastTenant : Option Nat
  /-- Arrivals at the rendezvous latch: key 32 x crew handle + GRPID of the arrived member (R336). -/
  latches : List (Nat × Arrival)
  /-- Released operations, by number, in order of release (R338). -/
  ops : List (Nat × MatrixOp)
  /-- Copy commands of the load and store queues, and drain commands, by number (R312, R349). -/
  cmds : List (Nat × Command)
  /-- Gather streams 0 to 3 (R324). -/
  streams : List (Nat × Stream)
  /-- Activation banks 0 and 1 (R282). -/
  banks : List (Nat × Bank)
  /-- Tree pseudo-LRU bits of each L1 set (R38). -/
  plru : List (Nat × Nat)
  /-- Fetched and decoded clauses, header first: key tenant x 2^52 + address (R368 .code). -/
  code : List (Nat × List W64)
  deriving DecidableEq, Repr

/-- What an L1 may do with a line it holds (R39, Table 3.5 GRANT). -/
inductive Perm where
  | shared
  | exclusive
  | through
  | sinv
  deriving DecidableEq, Repr

/-- An L1 line (R38, R39). -/
structure L1Line where
  core : Nat
  line : Nat
  view : Bool
  data : LineData
  dirty : ByteMask
  perm : Perm
  key : Nat
  way : Nat
  /-- Bytes that the line holds: all of them, but for a SINV line allocated by a store without a fetch (R39). -/
  valid : ByteMask
  deriving DecidableEq, Repr

/-- State of an unbacked line (Table 4.2); a line with no table entry is Absent. -/
inductive Unb where
  | zero
  | written
  | leaving (wasWritten wasAbsent : Bool)
  deriving DecidableEq, Repr

/-- An L2 line: tag, data and directory fields (R46, R65, R94). -/
structure L2Line where
  part : Nat
  line : Nat
  view : Bool
  key : Nat
  data : LineData
  /-- STATE, SHARERS, OWNER of Table 3.2 (a transition under way is BUSY, see `busy` of the machine). -/
  state : Nat
  sharers : BitVec 20
  owner : Nat
  /-- Slice, set and way that hold it. -/
  slice : Nat
  set : Nat
  way : Nat
  /-- Unbacked state; none for a backed line. -/
  unb : Option Unb
  /-- Order of allocation (R98). -/
  age : Nat
  /-- Held as a host-granted copy (R85). -/
  hostCopy : Bool
  deriving DecidableEq, Repr

/-- A transition that waits for acknowledgements (BUSY of Table 3.2): the access, the program entry, the targets still to
acknowledge, the update phase, and the owner's data (R67, R74). -/
structure Busy where
  event : Nat
  access : SliceAccess
  entry : W64
  targets : List Nat
  update : Bool
  data : Option LineData
  key : Nat
  /-- What FILL has read, which step 2 of R74 puts in place once the probes are answered. -/
  fill : Option LineData := none
  deriving DecidableEq, Repr

/-- A protocol program (R71 to R73): attribute bytes, and 16 entries per state. -/
structure Proto where
  attr : List Nat
  trans : List W64
  deriving DecidableEq, Repr

/-- A range entry (Table 3.3). -/
structure Range where
  en : Bool
  slot : Nat
  base : Nat
  limit : Nat
  deriving DecidableEq, Repr

/-- Who waits for a walk, a page request or a late framing: a split, a command of a core, a gather stream, a launch's reads of
its image and preload, its completion word, or the migration in progress. -/
inductive Walker where
  | split (r : SplitRef) (core : Nat)
  | command (core id : Nat)
  | stream (core g : Nat)
  | launch (l : Nat)
  | word (l : Nat)
  | migration
  /-- A home slice, for a CXL.cache read of a line that no split or command asks for (R85), or a store that leaves a gate (R409). -/
  | slice (part line : Nat) (view : Bool)
  /-- A prf of a core, for a line of a peer or of the host: its key, view and class, and whether it goes to the L2 only (R309). -/
  | prefetch (core key : Nat) (view : Bool) (cls : Cls) (l2 : Bool)
  /-- The tensor walker of a core, for a command whose pages it translates ahead (R162). -/
  | ahead (core id : Nat)
  deriving DecidableEq, Repr

/-- A late framing that has been asked for (R102): the tenant and address of the access, the refused line, and who waits. -/
structure LateJob where
  tenant : Nat
  va : Nat
  line : Nat
  who : List Walker
  deriving DecidableEq, Repr

/-- A partition (R426 to R436, R92, R101). -/
structure Partition where
  /-- PREQ. -/
  req : BitVec 24
  /-- PMEM. -/
  mem : BitVec 16
  /-- PSHARE fields. -/
  share : Nat
  w1 : Nat
  w2 : Nat
  w3 : Nat
  tc0cap : Nat
  /-- PCLASS and PECLASS. -/
  pclass : W64
  peclass : W64
  /-- PSTATE.STATE. -/
  pstate : Nat
  /-- PSTATE.RESVN, the unbacked share N (R92). -/
  resvN : Nat
  /-- Range entries 0 to 15 (R68, Table 3.3). -/
  ranges : List (Nat × Range)
  /-- Protocol slots 4 to 7 (R68). -/
  slots : List (Nat × Proto)
  /-- Base and log2 size of the frame-pool ring (R101). -/
  pool : Option (Nat × Nat)
  /-- The pool reads as empty after an invalid entry (R102). -/
  poolBad : Bool
  /-- Lost tables: slice to line numbers (R104). -/
  lost : List (Nat × List Nat)
  /-- Slices in LOSTALL (R104). -/
  lostAll : List Nat
  /-- Frame-key shadow: byte of each 64 KiB frame; unlisted 0 (R157). -/
  shadow : List (Nat × Byte)
  /-- log2 of the watchdog limit (R404). -/
  wdLog : Nat
  /-- Late framings in progress (R102). -/
  late : List LateJob
  /-- Images cached: tenant, address and the image as checked, named last first (R377). -/
  images : List (Nat × W64 × Image)
  deriving DecidableEq, Repr

/-- A tenant: translation context, handler, frame ring and context pool (R146, R357, R398). -/
structure Tenant where
  part : Nat
  s1root : Nat
  s2root : Nat
  func : Nat
  s2en : Bool
  pasid : Nat
  quota : Nat
  handler : W64
  ring : W64
  log2n : Nat
  /-- A TRAPSET has completed with STATUS 0. -/
  ringSet : Bool
  /-- COUNT: frames ever written by the tenant (R361). -/
  frames : Nat
  /-- Context pool: base and length (R398). -/
  pool : Option (W64 × Nat)
  /-- 256 KiB slots of the pool that are taken. -/
  poolUsed : List Nat
  deriving DecidableEq, Repr

/-- A TLB entry (R158): tag, page, and what the leaf gives; `gpa` and `gsize` are the guest physical frame of the stage-2 leaf, of size 0
without stage 2. -/
structure TlbEntry where
  tenant : Nat
  va : Nat
  size : Nat
  pa : Nat
  gpa : Nat
  gsize : Nat
  r : Bool
  w : Bool
  x : Bool
  cls : Cls
  unb : Bool
  late : Bool
  view : Bool
  key : Nat
  global : Bool
  /-- D is set, so writes may use it (R155). -/
  dirty : Bool
  /-- Installed by walk-ahead and not used yet (R162). -/
  unused : Bool
  deriving DecidableEq, Repr

/-- A queued or running walk (R161); each waiter has its own access. -/
structure Walk where
  tenant : Nat
  page : Nat
  access : Access
  running : Option Nat
  waiters : List (Walker × Access)
  deriving DecidableEq, Repr

/-- Lanes of a split that are attached to a page request, with the lowest one's address and their access (R163). -/
structure Attached where
  split : SplitRef
  lanes : LaneMask
  addr : W64
  access : Access
  deriving DecidableEq, Repr

/-- An element of an engine command, or another access of the hardware, that is attached to a page request (R164). -/
structure AttachedEng where
  who : Walker
  addr : W64
  access : Access
  deriving DecidableEq, Repr

/-- A page request (R163, R166, R167). -/
structure PageReq where
  func : Nat
  slot : Nat
  gen : Nat
  tenant : Nat
  stage : Nat
  level : Nat
  table : Bool
  access : Access
  addr : Nat
  entry : Nat
  /-- The record has been written to the ring. -/
  written : Bool
  /-- Lanes attached, and elements of engine commands. -/
  lanes : List Attached
  engines : List AttachedEng
  deriving DecidableEq, Repr

/-- An outbound access to the host or a peer that has not been answered (R392, R393). -/
structure Outbound where
  /-- Peer link, or none for the host. -/
  link : Option Nat
  line : Nat
  /-- The event of Table 3.1 as which it reaches the peer's home slice (R39, R64, R83). -/
  ev : Nat := 0
  write : Bool
  atomic : Bool
  data : LineData
  mask : ByteMask
  /-- Who is told: a split, a command, a launch, the migration, a slice or a prefetch; none when nobody is. A request of nobody that is
  no write is an invalidation of remote translations (R168), or to the host a back-invalidate snoop (R86). -/
  who : Option Walker
  /-- Virtual address of the store, where a split is told. -/
  va : Option W64
  tenant : Nat
  part : Nat
  deriving DecidableEq, Repr

/-- A queue interface (Table 14.3) and its launch window (R372). -/
structure Queue where
  qbase : W64
  qcfg : W64
  qpasid : W64
  qhead : W32
  qtail : W32
  qirq : W64
  qstat : W64
  qquota : W64
  /-- Launch-window positions: the line as the host sees it. -/
  window : List (Nat × LineData)
  /-- Positions armed and not yet released, with the STATUS to be written (R372). -/
  armed : List (Nat × Nat)
  /-- SEQ of the last accepted record, and the state of tracked ones. -/
  lastSeq : Option Nat
  deriving DecidableEq, Repr

/-- A function's registers (Tables 6.11, 14.3, 17.7). -/
structure Func where
  intstat : W64
  intcfg : W64
  fplaunch : Nat
  funcpart : Nat
  prqbase : W64
  prqcfg : W64
  prqtail : W32
  prqhead : W32
  /-- PRQSTAT.BADREPLY. -/
  badReply : Nat
  fltinfo : W32
  fltaddr : W64
  /-- Generation of each request slot (Table 6.12). -/
  gens : List (Nat × Nat)
  queues : List (Nat × Queue)
  deriving DecidableEq, Repr

/-- A record of the error log (Table 15.2). -/
structure ErrRec where
  kind : W64
  addr : W64
  time : W64
  part : Nat
  deriving DecidableEq, Repr

/-- The counters of a memory-side port (Table 3.11). -/
structure PortCount where
  prbsent : Nat
  prbsup : Nat
  ownxfer : Nat
  wbcross : Nat
  wofault : Nat
  biasstall : Nat
  deriving DecidableEq, Repr

/-- A line store in the gate: a lane's bytes of one line, an engine's line write, or the discard of a line (R409). -/
structure GateStore where
  part : Nat
  line : Nat
  view : Bool
  key : Nat
  cls : Cls
  disc : Bool
  /-- LATE of the page (R98, R112). -/
  late : Bool
  data : LineData
  mask : ByteMask
  /-- The lane and its address; for an engine's line write, 0 and the line's. -/
  lane : Nat
  va : W64
  deriving DecidableEq, Repr

/-- An act of a leading split that waits for its trailing copy (R409 to R412). -/
structure GateEntry where
  split : SplitRef
  /-- GRPID, LAUNCHID and tenant of the act (Table 16.7): its stores outlive an aborted launch (Table 15.4 step 3). -/
  grp : Nat
  launch : Nat
  tenant : Nat
  core : Nat
  pc : W64
  /-- Kind of Table 16.2 with which a difference is reported. -/
  kind : Nat
  /-- The leading copy's first field. -/
  lead : W64
  /-- The engine command whose line write it is. -/
  cmd : Option Nat
  /-- The split waits in the checking block, and performs the act itself once it has matched (R410, R411, R414). -/
  held : Bool
  /-- The act's stores, in lane order; those of an act that is not held have retired into the gate. -/
  stores : List GateStore
  deriving DecidableEq, Repr

/-- A pair of clusters (R407, R422 to R424). -/
structure Pair where
  /-- PAIRMODE.MODEk. -/
  mode : Nat
  /-- A suspect pair that UNPAIR has returned to independent clusters (R422). -/
  apart : Bool
  mmstat : W64
  mmpc : W64
  mmlead : W64
  mmtrail : W64
  mmcnt : Nat
  mmroll : Nat
  /-- The store gate and the held acts, oldest first. -/
  gate : List GateEntry
  /-- An armed injection (R456). -/
  inject : Option Block
  deriving DecidableEq, Repr

/-- A peer link (R22, R394, R439). -/
structure Link where
  /-- PLSTAT: 0 Down, 1 training, 2 Up. -/
  state : Nat
  bound : Nat
  remote : Nat
  replays : Nat
  /-- Whether training and the attestation exchange will succeed, and whether the peer accepts the binding: facts outside
  the device. -/
  trains : Bool
  attests : Bool
  accepts : Bool
  /-- Room the peer has claimed: address and size of each page (R109). -/
  claims : List (Nat × Nat)
  deriving DecidableEq, Repr

/-- A migration in progress (R109). -/
structure Migration where
  tenant : Nat
  part : Nat
  link : Nat
  base : Nat
  length : Nat
  /-- Pages: leaf entry address, entry, partition physical address, size. -/
  pages : List (Nat × W64 × Nat × Nat)
  /-- Peer addresses claimed, by page number. -/
  claimed : List (Nat × Nat)
  /-- The step of Table 4.8 that has begun: 2, 3, 4 or 6. -/
  step : Nat
  deriving DecidableEq, Repr

/-- The tag of an encryption key: key 0 of a boot, or loaded material (R56, R443). -/
inductive KeyTag where
  | zero (boot : Nat)
  | loaded (material : Block)
  deriving DecidableEq, Repr

/-- Pins, power and clocks (R444, R442). -/
structure Pins where
  /-- Held in reset until the rails are good. -/
  heldReset : Bool
  /-- The host link is held in reset. -/
  linkReset : Bool
  thermTrip : Bool
  shutdown : Bool
  /-- SAFE_N driven low. -/
  safeLow : Bool
  /-- Cores held at the efficiency clock. -/
  slow : Bool
  /-- The clock monitor has failed. -/
  clockFail : Bool
  deriving DecidableEq, Repr

/-- A bias flip under way (R86): the block, its direction, the engine commands and gather streams that were issued before step 1 and are
admitted, the accesses that it has stalled, which BIASSTALL has counted, and whether the back-invalidate snoops have been sent. -/
structure BiasFlip where
  part : Nat
  block : Nat
  toHost : Bool
  admitted : List Walker
  stalled : List (Nat × Nat × Requester)
  snooped : Bool := false
  deriving DecidableEq, Repr

/-- What the device has answered to an access of the host or of a peer (R22, R24, R84): the requester, the address, whether it
completed or was refused without data, the grant, and the data of a read. -/
structure Replied where
  who : Requester
  addr : Nat
  ok : Bool
  grant : Nat
  data : LineData
  deriving DecidableEq, Repr

/-- Who waits for a line or a miss entry: a split, an engine command or gather stream, or an event that has arrived at the slice
(R37, R67). -/
inductive LineWaiter where
  | split (r : SplitRef)
  | unit (w : Walker)
  | event (i : Instr)
  deriving DecidableEq, Repr

/-- Facts that are fixed for a device and its host (R4, R23, R438, R442): plain data, so that a state can be written out. -/
structure Straps where
  /-- 8 GiB per memory-side port (QP960-M128); otherwise 4 GiB. -/
  big : Bool
  /-- The host link is CXL with CXL.cache. -/
  cxlCache : Bool
  /-- The host is a CXL 3.x host, which takes back-invalidate snoops (R86, R438). -/
  cxl3 : Bool := true
  /-- The firmware image of the boot flash verifies, and its security version is not below the fused counter (R442). -/
  bootOk : Bool
  /-- The digest of the firmware image. -/
  digest : BitVec 256
  /-- Device identity and fuse state, as attested (R443). -/
  identity : BitVec 256
  fuses : W64
  /-- Ranges of host memory, address and size, in which the host or its IOMMU refuses what the queue interfaces read and write
  (R371, R375). -/
  hostHoles : List (Nat × Nat)
  deriving DecidableEq, Repr

/-- Registers of the device outside partitions and functions (01 Table 1.5; 15 Table 15.2; 16 Table 16.7; 17 R431, R441). -/
structure Device where
  errcnt : Nat
  /-- ERRCTL.IRQEN. -/
  errIrqEn : Bool
  errlog : List (Nat × ErrRec)
  /-- Counters of Table 3.11, by memory-side port. -/
  ports : List (Nat × PortCount)
  /-- XCONN.REFUSED, by requester port. -/
  refused : List (Nat × Nat)
  /-- Pairs 0 to 7. -/
  pairs : List (Nat × Pair)
  /-- SUSPTH. -/
  suspth : Nat
  /-- SCORE: score, TEST and RETIRED of each unit (Table 16.7). -/
  score : List (Nat × Nat)
  testing : List (Nat × Bool)
  /-- Units whose targeted test is running (R423). -/
  inTest : List (Nat × Bool)
  retired : List (Nat × Bool)
  /-- Corrected-error counters by unit, and corrected errors of each L2 way since reset (R58, R59). -/
  corrected : List (Nat × Nat)
  wayErrors : List (Nat × Nat)
  /-- Retired L2 ways: (slice x 512 + set) x 16 + way (R59). -/
  retiredWays : List (Nat × Bool)
  /-- CIFVER.LOCKED. -/
  locked : Bool
  mbcmd : Block
  mbgo : Bool
  cccmd : Block
  ccgo : Bool
  /-- CCLIST and CCSTAGE bytes by offset; unlisted 0. -/
  cclist : List (Nat × Byte)
  ccstage : List (Nat × Byte)
  /-- FWWIN. -/
  fwwin : W64
  /-- PLSTAT of the four peer links. -/
  links : List (Nat × Link)
  /-- MEAS0 to MEAS7. -/
  meas : List (Nat × BitVec 256)
  /-- Keys 1 to 63 that are loaded: key 64 partition + identifier (R443). -/
  keys : List (Nat × Block)
  /-- Device resets so far; names key 0 (R56). -/
  boots : Nat
  /-- Function tables (R437). -/
  funcs : List (Nat × Func)
  /-- Interrupts sent: function and MSI-X entry, newest first (R437). -/
  msix : List (Nat × Nat)
  /-- Blocks in host bias: 2^32 partition + PA / 2 MiB (R85). -/
  hostBias : List (Nat × Bool)
  /-- The bias flip under way (R86). -/
  biasFlip : Option BiasFlip
  /-- What has been answered to the host and the peers, newest first (R22, R24). -/
  replied : List Replied := []
  /-- Weight-store banks in refresh (R51). -/
  refresh : List (Nat × Bool)
  pins : Pins
  deriving DecidableEq, Repr

/-- The caches and what is under way in them. -/
structure Caches where
  /-- L1 lines: key (core x 2^46 + line) x 2 + view. -/
  l1 : List (Nat × L1Line)
  /-- L2 lines: key (partition x 2^46 + line) x 2 + view. -/
  l2 : List (Nat × L2Line)
  /-- Tree pseudo-LRU bits of each L2 set: slice x 512 + set (R49). -/
  plru : List (Nat × Nat)
  /-- Transitions that wait for acknowledgements, by line key (R67). -/
  busy : List (Nat × Busy)
  /-- Probes and acknowledgements in flight (R66). -/
  probes : List ProbeMsg
  acks : List ProbeMsg
  /-- Outstanding misses of each slice (R37). -/
  misses : List (Nat × Nat)
  /-- Who waits for a line (its key) or a miss entry (`missKey` of the slice), in order of arrival (R37, R67). -/
  waiters : List (Nat × LineWaiter) := []
  /-- Lines that the host has returned to a home slice which asked for itself, or a peer to a store that leaves a gate, by line key; none for
  an abort (R85, R409). -/
  filled : List (Nat × Option Answer) := []
  /-- Unbacked lines allocated for a split's instruction, named by its PC, or for a command, while it waits for others (R98). -/
  zeros : List (Nat × Walker × W64) := []
  deriving DecidableEq, Repr

/-- Translation: caches, walks and page requests (R158 to R168). -/
structure Mmu where
  /-- L1 TLB by core, L2 TLB by cluster, walk-ahead TLB by core. -/
  l1tlb : List (Nat × List TlbEntry)
  l2tlb : List (Nat × List TlbEntry)
  ahead : List (Nat × List TlbEntry)
  /-- Upper-level cache of each walker: tenant, stage, entry address and entry (R158). -/
  upper : List (Nat × List (Nat × Nat × Nat × W64))
  /-- Walks by number, oldest first. -/
  walks : List (Nat × Walk)
  /-- When each tenant was last given a walker (R161). -/
  lastGiven : List (Nat × Nat)
  /-- Outstanding page requests, in order. -/
  requests : List PageReq
  deriving DecidableEq, Repr

/-- The state of the device, with the memories it reaches. -/
structure State where
  /-- Memory, one byte per cell: local device memory at its device physical address, host memory h at 2^51 + h; unlisted
  bytes are 0. -/
  mem : List Host.Cell
  /-- The key under which each line of local memory was last written; unlisted lines hold no ciphertext. -/
  memKey : List (Nat × KeyTag)
  /-- Seed of the lines of a memory-side port that a renumbering left undefined, as long as they have not been written (R435). -/
  memSeed : List (Nat × Nat)
  /-- Weight-store bytes: bank x 2^24 + offset; unlisted bytes are 0 (R50). -/
  ws : List (Nat × Byte)
  /-- Partitions 0 to 15. -/
  parts : List (Nat × Partition)
  tenants : List (Nat × Tenant)
  launches : List (Nat × Launch)
  crews : List (Nat × Crew)
  groups : List (Nat × Group)
  cores : List (Nat × Core)
  /-- Lazy state that has been saved, by crew: the arrays of a core as they stood, the scratchpad counted from the allocation's
  first byte (R399). -/
  lazy : List (Nat × Core)
  caches : Caches
  mmu : Mmu
  dev : Device
  /-- Outbound accesses not yet answered, by number. -/
  outbound : List (Nat × Outbound)
  migration : Option Migration
  straps : Straps
  /-- CYCLE (0x0D). -/
  cycle : Nat
  /-- Counts the steps: the argument of the free choices. The model's own. -/
  steps : Nat
  /-- The next seed of undefined contents. The model's own. -/
  seed : Nat
  /-- The split that issues in this step. The model's own. -/
  cur : Option SplitRef
  /-- Splits with the bits in which the shadow unit's result of their next float instruction differs from the main one, a disturbance from
  outside (R245): the difference in bits [63:0], and above them the number of the result element in a drain's block order. -/
  shadowErr : List (SplitRef × Nat)
  /-- What the outside world will do, each with the device steps that come before it. The model's own. -/
  inputs : List (Nat × Instr)
  deriving DecidableEq, Repr

/-- A memory in canonical form: addresses strictly rising, and no entry equal to the 0 that an unlisted byte reads as. -/
abbrev Memory.wf (m : List Host.Cell) : Prop := Tbl.canon (0 : Byte) 0 m = true

/-- A partition that holds no port (R426): the reset values of Table 17.1. -/
def Partition.empty : Partition :=
  { req := 0, mem := 0, share := 0, w1 := 4, w2 := 2, w3 := 1, tc0cap := 4, pclass := 0x55555555#64
    peclass := 0x2AAAAAAAAAA#64, pstate := 0, resvN := 0, ranges := [], slots := [], pool := none, poolBad := false
    lost := [], lostAll := [], shadow := [], wdLog := 28, late := [], images := [] }

/-- Partition 0 at device reset: requester ports 0 to 20 and every memory-side port (R426). -/
def Partition.zero : Partition := { Partition.empty with req := 0x1FFFFF#24, mem := 0xFFFF#16, share := 240 }

/-- A core after device reset; a core that the table does not list is in this state. -/
def Core.reset : Core :=
  { scratch := [], scratchSeed := [], scratchTenant := [], operand := [], operandSeed := 0, acc := [], accSeed := 0
    tagI := [], scale := [], scaleSeed := 0, claims := [], lastTenant := none, latches := [], ops := [], cmds := [], streams := []
    banks := [], plru := [], code := [] }

/-- An invalid activation bank (R282). -/
def Bank.reset : Bank :=
  { valid := false, tenant := 0, lo := 0, scale := 0, vlo := 0, vhi := 0, mode := 0, coef := [], loading := none }

/-- A queue interface after reset (Table 14.3). -/
def Queue.reset : Queue :=
  { qbase := 0, qcfg := 4, qpasid := 0, qhead := 0, qtail := 0, qirq := 0, qstat := 0, qquota := 64, window := []
    armed := [], lastSeq := none }

/-- A function after reset (Tables 6.11, 17.7). -/
def Func.reset : Func :=
  { intstat := 0, intcfg := 0, fplaunch := 0, funcpart := 0, prqbase := 0, prqcfg := 6, prqtail := 0, prqhead := 0
    badReply := 0, fltinfo := 0, fltaddr := 0, gens := [], queues := [] }

/-- A pair after reset: independent (Table 16.7). -/
def Pair.reset : Pair :=
  { mode := 0, apart := false, mmstat := 0, mmpc := 0, mmlead := 0, mmtrail := 0, mmcnt := 0, mmroll := 0, gate := []
    inject := none }

/-- A peer link after reset: Down (R439). -/
def Link.reset : Link :=
  { state := 0, bound := 0, remote := 0, replays := 0, trains := true, attests := true, accepts := true, claims := [] }

/-- A memory-side port's counters after reset (Table 3.11). -/
def PortCount.reset : PortCount :=
  { prbsent := 0, prbsup := 0, ownxfer := 0, wbcross := 0, wofault := 0, biasstall := 0 }

/-- The device registers right after PORST_N: the Collier holds the device in reset until the rails are good, and the host link
until the boot chain has ended (R442, R444). -/
def Device.reset : Device :=
  { errcnt := 0, errIrqEn := true, errlog := [], ports := [], refused := [], pairs := [], suspth := 64, score := []
    testing := [], inTest := [], retired := [], corrected := [], wayErrors := [], retiredWays := [], locked := false, mbcmd := 0
    mbgo := false, cccmd := 0, ccgo := false, cclist := [], ccstage := [], fwwin := 0, links := [], meas := [], keys := []
    boots := 0, funcs := [], msix := [], hostBias := [], biasFlip := none, refresh := []
    pins := { heldReset := true, linkReset := true, thermTrip := false, shutdown := false, safeLow := false
              slow := false, clockFail := false } }

/-- The caches right after device reset: empty. -/
def Caches.reset : Caches := { l1 := [], l2 := [], plru := [], busy := [], probes := [], acks := [], misses := [] }

/-- The translation state right after device reset: empty. -/
def Mmu.reset : Mmu :=
  { l1tlb := [], l2tlb := [], ahead := [], upper := [], walks := [], lastGiven := [], requests := [] }

/-- The facts of the modelled part: a QP960-M128 on a CXL host whose firmware verifies. -/
def Straps.default : Straps :=
  { big := true, cxlCache := true, bootOk := true, digest := 0, identity := 0, fuses := 0, hostHoles := [] }

/-- The machine right after device reset (R426, R442, and the reset column of every register table). No program is
present: a launch brings one. -/
def State.reset : State :=
  { mem := [], memKey := [], memSeed := [], ws := [], parts := [(0, Partition.zero)], tenants := [], launches := []
    crews := [], groups := [], cores := [], lazy := [], caches := Caches.reset, mmu := Mmu.reset, dev := Device.reset, outbound := []
    migration := none, straps := Straps.default, cycle := 0, steps := 0, seed := 1, cur := none, shadowErr := []
    inputs := [] }

end Sys2Proof.Machine
end

