-- ==== Sys2Proof/Machine/Regs.lean ====
section
/-! DEFINITION. The named reads and writes of units and registers (07_execution_model R173, R175; 08_encoding R210 to R214).
s0 reads 0 and p0 reads true in every lane; a write to either is discarded. -/

namespace Sys2Proof.Machine

/-- A partition; one the table does not list holds no port. -/
def State.part (s : State) (p : Nat) : Partition := Tbl.getD s.parts p Partition.empty

def State.setPart (s : State) (p : Nat) (x : Partition) : State := { s with parts := Tbl.put s.parts p x }

def State.core (s : State) (c : Nat) : Core := Tbl.getD s.cores c Core.reset

def State.setCore (s : State) (c : Nat) (x : Core) : State := { s with cores := Tbl.put s.cores c x }

def State.func (s : State) (f : Nat) : Func := Tbl.getD s.dev.funcs f Func.reset

def State.setDev (s : State) (d : Device) : State := { s with dev := d }

def State.setFunc (s : State) (f : Nat) (x : Func) : State := s.setDev { s.dev with funcs := Tbl.put s.dev.funcs f x }

def Func.queue (f : Func) (q : Nat) : Queue := Tbl.getD f.queues q Queue.reset

def State.setQueue (s : State) (f q : Nat) (x : Queue) : State :=
  s.setFunc f { s.func f with queues := Tbl.put (s.func f).queues q x }

def State.pair (s : State) (k : Nat) : Pair := Tbl.getD s.dev.pairs k Pair.reset

def State.setPair (s : State) (k : Nat) (x : Pair) : State := s.setDev { s.dev with pairs := Tbl.put s.dev.pairs k x }

def State.link (s : State) (p : Nat) : Link := Tbl.getD s.dev.links p Link.reset

def State.setLink (s : State) (p : Nat) (x : Link) : State := s.setDev { s.dev with links := Tbl.put s.dev.links p x }

def State.portCount (s : State) (m : Nat) : PortCount := Tbl.getD s.dev.ports m PortCount.reset

def State.setPortCount (s : State) (m : Nat) (x : PortCount) : State :=
  s.setDev { s.dev with ports := Tbl.put s.dev.ports m x }

def State.setCaches (s : State) (c : Caches) : State := { s with caches := c }

def State.setMmu (s : State) (m : Mmu) : State := { s with mmu := m }

def State.tenant? (s : State) (t : Nat) : Option Tenant := Tbl.find? s.tenants t

def State.launch? (s : State) (l : Nat) : Option Launch := Tbl.find? s.launches l

def State.updLaunch (s : State) (l : Nat) (f : Launch → Launch) : State := { s with launches := Tbl.upd s.launches l f }

def State.crew? (s : State) (c : Nat) : Option Crew := Tbl.find? s.crews c

def State.updCrew (s : State) (c : Nat) (f : Crew → Crew) : State := { s with crews := Tbl.upd s.crews c f }

def State.group? (s : State) (g : Nat) : Option Group := Tbl.find? s.groups g

def State.updGroup (s : State) (g : Nat) (f : Group → Group) : State := { s with groups := Tbl.upd s.groups g f }

def Group.updSplit (g : Group) (n : Nat) (f : Split → Split) : Group := { g with splits := Tbl.upd g.splits n f }

def State.split? (s : State) (r : SplitRef) : Option Split := (s.group? r.group).bind fun g => Tbl.find? g.splits r.split

def State.updSplit (s : State) (r : SplitRef) (f : Split → Split) : State :=
  s.updGroup r.group fun g => g.updSplit r.split f

/-- The split that issues, with what surrounds it. -/
structure Ctx where
  r : SplitRef
  g : Group
  sp : Split
  crew : Crew
  launch : Launch
  deriving DecidableEq, Repr

/-- Host requests reach the device: it has been released from reset, and the host link has been let go (R442, R444). -/
def State.hostUp (s : State) : Bool := !s.dev.pins.heldReset && !s.dev.pins.linkReset

/-- What a request of the host does; none reaches a device whose host link is held in reset (R442). -/
def fromHost (s k : State) : State := if s.hostUp then k else s

/-- The context of a split, if it is resident. -/
def State.ctxOf (s : State) (r : SplitRef) : Option Ctx :=
  match s.group? r.group with
  | none => none
  | some g =>
    match Tbl.find? g.splits r.split, s.crew? g.crew, s.launch? g.launch with
    | some sp, some c, some l => some { r := r, g := g, sp := sp, crew := c, launch := l }
    | _, _, _ => none

/-- The context of the issuing split; none when no split issues. -/
def State.ctx? (s : State) : Option Ctx := s.cur.bind s.ctxOf

/-- Scalar register r: s0 reads 0; a register that a flashback left undefined reads a free value (R212, Table 7.6). -/
def Split.s (sp : Split) (r : Nat) : W64 :=
  if r = 0 then 0
  else
    match Tbl.find? sp.sregs r with
    | some v => v
    | none => if sp.sseed = 0 then 0 else Config.freeWord sp.sseed (2 * r + 1) ++ Config.freeWord sp.sseed (2 * r)

/-- Writes a scalar register; a write to s0 is discarded (R210). -/
def Split.setS (sp : Split) (r : Nat) (v : W64) : Split :=
  if r = 0 then sp else { sp with sregs := Tbl.put sp.sregs r v }

/-- Tensor record t; one that no rule gives is a free value. -/
def Split.trec (sp : Split) (t : Nat) : Block :=
  match Tbl.find? sp.trecs t with
  | some v => v
  | none =>
    if sp.tseed = 0 then 0
    else (List.range 16).foldl (fun b i => (b <<< 32) ||| (Config.freeWord sp.tseed (256 + 16 * t + i)).setWidth 512) 0

def Split.setTrec (sp : Split) (t : Nat) (v : Block) : Split := { sp with trecs := Tbl.put sp.trecs t v }

/-- Lane L of vector register r (R212); a register that a flashback left undefined reads a free value. -/
def Group.v (g : Group) (r lane : Nat) : W32 :=
  match Tbl.find? g.vregs (64 * r + lane) with
  | some v => v
  | none =>
    match Tbl.find? g.vseed lane with
    | some k => Config.freeWord k r
    | none => 0

def Group.setV (g : Group) (r lane : Nat) (v : W32) : Group := { g with vregs := Tbl.put g.vregs (64 * r + lane) v }

/-- A 64-bit operand: the even register holds the low word (R210, R6). -/
def Group.v64 (g : Group) (r lane : Nat) : W64 := g.v (r + 1) lane ++ g.v r lane

def Group.setV64 (g : Group) (r lane : Nat) (v : W64) : Group :=
  (g.setV r lane (v.extractLsb' 0 32)).setV (r + 1) lane (v.extractLsb' 32 32)

/-- Predicate p as a lane mask; p0 is true in every lane (R212). -/
def Group.pred (g : Group) (p : Nat) : LaneMask := if p = 0 then BitVec.allOnes 64 else Tbl.getD g.preds p 0

/-- Writes the lanes of a predicate; a write to p0 is discarded (R210). -/
def Group.setPred (g : Group) (p : Nat) (lanes v : LaneMask) : Group :=
  if p = 0 then g else { g with preds := Tbl.put g.preds p ((g.pred p &&& ~~~lanes) ||| (v &&& lanes)) }

/-- The lanes in which a guard holds (R207). -/
def Group.guard (g : Group) (q : Guard) : LaneMask := if q.neg then ~~~(g.pred q.p.toNat) else g.pred q.p.toNat

/-- The lanes of a mask whose quad holds a lane of `m` (R174). -/
def quadsOf (m : LaneMask) : LaneMask := maskOf fun l => fld m (l / 4 * 4) 4 != 0

/-- The lanes that a group has (R169). -/
def Group.allLanes (g : Group) : LaneMask := BitVec.ofNat 64 (2 ^ g.width - 1)

/-- The helper lanes of a split: off or exited, in a quad that holds a lane of the split (R174). -/
def Ctx.helpers (c : Ctx) : LaneMask := (c.g.off ||| c.g.exited) &&& quadsOf c.sp.mask &&& c.g.allLanes

/-- The active lanes of a per-lane instruction (R207). -/
def Ctx.active (c : Ctx) (q : Guard) : LaneMask := c.sp.mask &&& c.g.guard q

/-- The active lanes together with the helper lanes whose own guard holds (R174, R207). -/
def Ctx.vactive (c : Ctx) (q : Guard) : LaneMask := (c.sp.mask ||| c.helpers) &&& c.g.guard q

/-- The guard holds in at least one lane of the split's mask (R207). -/
def Ctx.any (c : Ctx) (q : Guard) : Bool := c.active q != 0

/-- What a split carries from one pass over its instruction to the next goes when the instruction is over. REPCNT and MPROG are for the
instruction to which tret has come back, and for no other; at trap level they stay as the trap has left them (R295, R365). -/
def Split.over (sp : Split) : Split :=
  { sp with
    unfinished := none, matched := false, faults := [], answers := [], aborted := none, back := false
    repcnt := if sp.trap.isSome then sp.repcnt else 0, mprog := if sp.trap.isSome then sp.mprog else 0 }

/-- Moves a split past `n` words of its clause; the last word leads to the header after the clause (R200). Under a prefix
the next iteration comes first (R294). -/
def Split.advance (sp : Split) (n : Nat) : Split :=
  let past (k : Nat) : Split :=
    { sp.over with
      rep := none, pc := sp.pc + w64 (8 * k), resume := sp.resume.map fun e => (e.1, sp.pc + w64 (8 * k))
      clause := sp.clause.bind fun c => if c.next + k < c.words.length then some { c with next := c.next + k } else none }
  match sp.rep with
  | some (f, i) => if i < f.countM1.toNat then { sp.over with rep := some (f, i + 1) } else past 1
  | none => past n

/-- The instruction of a split retires (R205). -/
def State.retire (s : State) (r : SplitRef) (n : Nat := 1) : State := s.updSplit r fun sp => sp.advance n

/-- A split waits. -/
def State.waitFor (s : State) (r : SplitRef) (w : Wait) : State := s.updSplit r fun sp => { sp with wait := w }

/-- The split goes to a clause header (R203). -/
def Split.goto (sp : Split) (pc : W64) : Split :=
  { sp.over with pc := pc, clause := none, resume := none, rep := none }

/-- The crew issues: it is not saved, and no pre-emption has been asked of it (R396 step 1). -/
def Crew.running (c : Crew) : Bool := !c.saved && !c.preempt

/-- The partition of a split's launch. -/
def Ctx.part (c : Ctx) : Nat := c.launch.part

/-- The launch runs on a clamp (R405). -/
def Ctx.checked (c : Ctx) : Bool := decide (2 ≤ c.launch.il)

/-- The live masks of the safe point at a header, if the image lists it (R225). -/
def Launch.safeAt (l : Launch) (pc : W64) : Option (BitVec 256 × W64) :=
  match l.img with
  | none => none
  | some im => Tbl.find? im.safe ((pc - l.image).toNat - im.code)

/-- The snapshot of a billet entry (R193). -/
def takeSnapshot (s : State) (c : Ctx) (header : W64) : Snapshot :=
  let live := (c.launch.safeAt header).getD (0, 0)
  let lanes := lanesOf c.sp.mask
  { header := header, mask := c.sp.mask, depth := c.sp.stack.length, fmt := c.sp.fmt, skew := c.g.skew
    preds := (List.range 15).map fun k => (k + 1, c.g.pred (k + 1) &&& c.sp.mask)
    trecs := (List.range 8).map fun t => (t, c.sp.trec t)
    sregs := ((List.range 64).filter fun n => live.2.getLsbD n).map fun n => (n, c.sp.s n)
    vregs := ((List.range 256).filter fun n => live.1.getLsbD n).map fun n => (n, lanes.map fun l => (l, c.g.v n l))
    streams := ((s.core c.crew.core).streams.filter fun e => e.2.group = c.r.group && e.2.split = c.r.split).map fun e => (e.1, e.2.pos)
    start := s.seed, pend := c.sp.pend }

/-- An instruction meaning: what it does for the issuing split; with no such split there is nothing to execute. -/
def withCtx (s : State) (k : Ctx → State) : Host.Outcome State Fault Refusal :=
  match s.ctx? with
  | none => .fault .noSplit
  | some c => .next (k c)

end Sys2Proof.Machine
end

