-- ==== Sys2Proof/Machine/Protocol.lean ====
section
/-! DEFINITION. Protocol programs (03_coherence R71 to R81): the transition entry, the four programs of the ROM, the choice
of a line's program, and the checker. -/

namespace Sys2Proof.Machine

/-- A transition entry (Table 3.5). -/
structure Trans where
  next : Nat := 0
  valid : Bool := true
  grant : Nat := 0
  probe : Nat := 0
  pkind : Nat := 0
  pdata : Bool := false
  fill : Bool := false
  merge : Bool := false
  data : Bool := false
  wbm : Bool := false
  addsh : Bool := false
  clrsh : Bool := false
  setown : Bool := false
  clrown : Bool := false
  fault : Bool := false
  drop : Bool := false
  deriving DecidableEq, Repr

def Trans.ofWord (w : W64) : Trans :=
  { next := fld w 0 6, valid := w.getLsbD 6, grant := fld w 8 2, probe := fld w 10 2, pkind := fld w 12 2
    pdata := w.getLsbD 14, fill := w.getLsbD 15, merge := w.getLsbD 16, data := w.getLsbD 17, wbm := w.getLsbD 18
    addsh := w.getLsbD 19, clrsh := w.getLsbD 20, setown := w.getLsbD 21, clrown := w.getLsbD 22
    fault := w.getLsbD 23, drop := w.getLsbD 24 }

def Trans.toWord (t : Trans) : W64 :=
  let b (x : Bool) (n : Nat) := if x then 2 ^ n else 0
  w64 (t.next + b t.valid 6 + t.grant * 256 + t.probe * 1024 + t.pkind * 4096 + b t.pdata 14 + b t.fill 15 + b t.merge 16
    + b t.data 17 + b t.wbm 18 + b t.addsh 19 + b t.clrsh 20 + b t.setown 21 + b t.clrown 22 + b t.fault 23 + b t.drop 24)

/-- "–": no action, no change of state (R78). -/
def Trans.stay (s : Nat) : Trans := { next := s }
/-- "dn own+d, −own" (Table 3.7). -/
def Trans.downOwner (t : Trans) : Trans := { t with probe := 1, pkind := 1, pdata := true, clrown := true }
/-- "inv own+d" (Table 3.7). -/
def Trans.invOwner (t : Trans) : Trans := { t with probe := 1, pkind := 0, pdata := true }
/-- "inv sh" (Table 3.7). -/
def Trans.invSharers (t : Trans) : Trans := { t with probe := 2, pkind := 0 }
/-- "X, clr, own" (Table 3.7). -/
def Trans.grantX (t : Trans) : Trans := { t with grant := 2, clrsh := true, setown := true }

/-- RD row of INV; `g` is the grant (S, or T under UPD). -/
def invRd (g : Nat) : List Trans :=
  [{ fill := true, grant := g, addsh := true, next := 1 }, { grant := g, addsh := true, next := 1 }
  , { grant := g, addsh := true, next := 2 }, Trans.downOwner { grant := g, addsh := true, next := 2 }]

/-- RDX, UPG and ATX rows of INV (Table 3.8). -/
def invRdx : List Trans :=
  [Trans.grantX { fill := true, next := 3 }, Trans.grantX (Trans.invSharers { next := 3 })
  , Trans.grantX (Trans.invSharers { wbm := true, next := 3 }), Trans.grantX (Trans.invOwner { next := 3 })]

def invWb : List Trans :=
  [Trans.stay 0, Trans.stay 1, Trans.stay 2, { merge := true, clrown := true, clrsh := true, next := 2 }]

def invEvc : List Trans := [Trans.stay 0, Trans.stay 1, Trans.stay 2, { clrown := true, clrsh := true, next := 1 }]

def invRds : List Trans :=
  [{ fill := true, data := true, next := 1 }, { data := true, next := 1 }, { data := true, next := 2 }
  , Trans.downOwner { data := true, next := 2 }]

def invWrs : List Trans :=
  [{ fill := true, merge := true, next := 2 }, Trans.invSharers { clrsh := true, merge := true, next := 2 }
  , Trans.invSharers { clrsh := true, merge := true, next := 2 }
  , Trans.invOwner { clrown := true, clrsh := true, merge := true, next := 2 }]

/-- SNP, VIC and PRG rows of INV. -/
def invPrg : List Trans :=
  [Trans.stay 0, Trans.invSharers { clrsh := true, drop := true }
  , Trans.invSharers { clrsh := true, wbm := true, drop := true }
  , Trans.invOwner { clrown := true, clrsh := true, wbm := true, drop := true }]

def invFlu : List Trans := [Trans.stay 0, Trans.stay 1, { wbm := true, next := 1 }, Trans.downOwner { wbm := true, next := 1 }]

def invDsc : List Trans :=
  [Trans.stay 0, Trans.invSharers { clrsh := true, drop := true }, Trans.invSharers { clrsh := true, drop := true }
  , { probe := 1, pkind := 0, clrown := true, clrsh := true, drop := true }]

/-- WRS and XWR rows of UPD (R80). -/
def updWrs : List Trans :=
  [{ fill := true, merge := true, next := 2 }, { probe := 2, pkind := 2, merge := true, next := 2 }
  , { probe := 2, pkind := 2, merge := true, next := 2 }
  , Trans.invOwner { clrown := true, clrsh := true, merge := true, next := 2 }]

/-- Rows in the order of Table 3.1's event codes, turned into entries state by state (Table 3.4). -/
def protoOf (attr : List Nat) (rows : List (List Trans)) : Proto :=
  { attr := attr
    trans := (List.range attr.length).flatMap fun st => rows.map fun r => (r.getD st {}).toWord }

/-- INV (R78). -/
def protoINV : Proto :=
  protoOf [0, 1, 3, 5]
    [invRd 1, invRdx, invRdx, invWb, invEvc, invRds, invWrs, invRdx, invWb, invRds, invWrs, invPrg, invPrg, invFlu, invPrg, invDsc]

/-- UPD (R80). -/
def protoUPD : Proto :=
  protoOf [0, 1, 3, 5]
    [invRd 3, invRd 3, invRd 3, invWb, invEvc, invRds, updWrs, invRdx, invWb, invRds, updWrs, invPrg, invPrg, invFlu, invPrg, invDsc]

/-- MIG (R79). -/
def protoMIG : Proto :=
  protoOf [0, 1, 3, 5]
    [invRdx, invRdx, invRdx, invWb, invEvc, invRds, invWrs, invRdx, invWb, invRds, invWrs, invPrg, invPrg, invFlu, invPrg, invDsc]

def wonceFault (s : Nat) : Trans := { fault := true, next := s }

def wonceRdx : List Trans :=
  [Trans.grantX { fill := true, next := 3 }, Trans.grantX (Trans.invSharers { next := 3 }), wonceFault 2, wonceFault 3, wonceFault 4]

def wonceWrs : List Trans :=
  [{ fill := true, merge := true, next := 2 }, Trans.invSharers { clrsh := true, merge := true, next := 2 }
  , wonceFault 2, wonceFault 3, wonceFault 4]

def woncePrg : List Trans := invPrg ++ [Trans.invSharers { clrsh := true, drop := true }]

/-- WONCE (R81, Table 3.9). -/
def protoWONCE : Proto :=
  protoOf [0, 1, 3, 5, 1]
    [invRd 1 ++ [{ grant := 1, addsh := true, next := 4 }], wonceRdx, wonceRdx, invWb ++ [Trans.stay 4]
    , [Trans.stay 0, Trans.stay 1, Trans.stay 2, { clrown := true, clrsh := true, next := 4 }, Trans.stay 4]
    , invRds ++ [{ data := true, next := 4 }], wonceWrs, wonceRdx, invWb ++ [Trans.stay 4]
    , invRds ++ [{ data := true, next := 4 }], wonceWrs, woncePrg, woncePrg
    , [Trans.stay 0, Trans.stay 1, { wbm := true, next := 4 }, Trans.downOwner { wbm := true, next := 4 }, Trans.stay 4]
    , woncePrg, invDsc ++ [Trans.invSharers { clrsh := true, drop := true }]]

/-- The program of a slot: 0 to 3 from the ROM, 4 to 7 as loaded (R68). -/
def Partition.proto (p : Partition) (slot : Nat) : Option Proto :=
  match slot with
  | 0 => some protoINV
  | 1 => some protoUPD
  | 2 => some protoMIG
  | 3 => some protoWONCE
  | n => Tbl.find? p.slots n

/-- The slot that the range table gives a line: the lowest-numbered enabled entry that covers it, otherwise slot 0 (R68). -/
def Partition.slotOf (p : Partition) (pa : Nat) : Nat :=
  match p.ranges.find? fun e => e.2.en && e.2.base ≤ pa / 65536 && pa / 65536 ≤ e.2.limit with
  | some e => e.2.slot
  | none => 0

/-- The program of a line; an empty slot cannot be named by an entry (R68), and INV stands for one. -/
def Partition.protoAt (p : Partition) (pa : Nat) : Proto := (p.proto (p.slotOf pa)).getD protoINV

/-- The entry of a state and event (R71). -/
def Proto.entry (q : Proto) (st ev : Nat) : Trans := Trans.ofWord (q.trans.getD (16 * st + ev) 0)

/-- P, D and O of a state (R72). -/
def Proto.present (q : Proto) (st : Nat) : Bool := bits (q.attr.getD st 0) 0 1 == 1
def Proto.dirty (q : Proto) (st : Nat) : Bool := bits (q.attr.getD st 0) 1 1 == 1
def Proto.owned (q : Proto) (st : Nat) : Bool := bits (q.attr.getD st 0) 2 1 == 1

/-- The parking state: the lowest-numbered state with P = 1, D = 1 and O = 0 (R100). -/
def Proto.parking (q : Proto) : Option Nat :=
  (List.range q.attr.length).find? fun st => q.present st && q.dirty st && !q.owned st

/-- The lowest rule of 3 to 5 that an entry breaks; `n` is NSTATES (Table 3.6). -/
def Proto.entryRule (q : Proto) (st ev : Nat) : Option Nat :=
  let w := q.trans.getD (16 * st + ev) 0
  let t := Trans.ofWord w
  let n := q.attr.length
  let o := q.owned st
  let no := q.owned t.next
  let ownerTaken := t.probe == 1 && (t.pkind == 0 || t.pkind == 1) && t.clrown
  if !t.valid then some 2
  else if n ≤ t.next || t.probe == 3 || t.pkind == 3 || w.getLsbD 7 || w.toNat / 2 ^ 25 != 0 then some 3
  else if (t.grant == 2 && !(t.clrsh && t.setown && no))
      || (t.grant == 2 && st != 0 && !(t.pkind == 0 && t.probe == (if o then 1 else 2)))
      || ((t.grant == 1 || t.grant == 3 || t.addsh) && o && !ownerTaken)
      || (no && t.next != st && t.grant != 2) then some 4
  else if (o && t.next != st && !(t.pdata && t.probe == 1) && !([3, 8, 4, 15].contains ev))
      || (o && t.next != st && !q.dirty t.next && !t.wbm && !([4, 15].contains ev))
      || (q.dirty st && !q.dirty t.next && !t.wbm && ev != 15)
      || (t.drop && t.next != 0) then some 5
  else none

/-- The first entry that breaks a rule, in ascending state and event, with the rule (R76). -/
def Proto.firstBroken (q : Proto) : Option (Nat × Nat × Nat) :=
  ((List.range q.attr.length).flatMap fun st => (List.range 16).map fun ev => (st, ev)).findSome? fun p =>
    (q.entryRule p.1 p.2).map fun r => (p.1, p.2, r)

/-- A protocol image: its program, or the DETAIL word with which the checker refuses it (R71, R76, R77). -/
def checkImage (img : List Byte) : Except Nat Proto :=
  let num (off n : Nat) := leBytes ((img.drop off).take n)
  let n := num 6 1
  let len := 128 + 128 * n
  let whole := img.take len
  let zeroed := (whole.take 0x14) ++ List.replicate 4 0 ++ whole.drop 0x18
  let attr := (List.range 64).map fun s => num (0x40 + s) 1
  let format :=
    num 0 4 == 0x4C435051 && num 4 2 == 1 && 1 ≤ n && n ≤ 64 && num 7 1 == 0 && num 0x10 4 == len
      && num 0x14 4 == (crc32c zeroed).toNat && num 0x18 40 == 0 && attr.all (fun a => a / 8 == 0)
      && (attr.drop n).all (fun a => a == 0) && attr.headD 1 == 0
  if !format then .error (0x3F + 0xF * 256 + 1 * 4096)
  else
    let q : Proto := { attr := attr.take n, trans := (List.range (16 * n)).map fun i => w64 (num (0x80 + 8 * i) 8) }
    match q.firstBroken with
    | some (st, ev, rule) => .error (st + ev * 256 + rule * 4096)
    | none => .ok q

end Sys2Proof.Machine
end

