-- ==== Sys2Proof/Machine/Memory.lean ====
section
/-! DEFINITION. Physical memory: the map of the partition physical space (01 R18 to R24), the home of a line (02 R47), main
memory under its keys (02 R56), the weight store (02 R50) and the compressed view (02 R60 to R62). -/

namespace Sys2Proof.Machine

/-- Capacity of a memory-side port (R19). -/
def State.portBytes (s : State) : Nat := if s.straps.big then 8 * 2 ^ 30 else 4 * 2 ^ 30

/-- The partition's memory-side ports, ascending: P[0] < P[1] < ... (R47). -/
def Partition.ports (p : Partition) : List Nat := (List.range 16).filter fun m => p.mem.getLsbD m

/-- k of R47. -/
def Partition.k (p : Partition) : Nat := p.ports.length

/-- Populated local memory of a partition (R19). -/
def State.localBytes (s : State) (p : Nat) : Nat := (s.part p).k * s.portBytes

/-- A region of Table 1.3. -/
inductive Region where
  | local
  | unpopulated
  | unbacked
  | reserved
  | peer (p : Nat)
  | registers
  | host
  deriving DecidableEq, Repr

/-- The region of a partition physical address (Table 1.3, R19). -/
def State.region (s : State) (p pa : Nat) : Region :=
  if pa < 0x2000000000 then (if pa < s.localBytes p then .local else .unpopulated)
  else if pa < 0x3000000000 then .unbacked
  else if pa < 0x4000000000 then .reserved
  else if pa < 0x14000000000 then .peer (pa / 0x4000000000 - 1)
  else if pa < 0x18000000000 then .registers
  else if pa < 0x8000000000000 then .reserved
  else if pa < 0x10000000000000 then .host
  else .reserved

/-- The home of a partition physical address (R47): port, slice, set and, for local memory, the device physical address. -/
structure Home where
  i : Nat
  port : Nat
  slice : Nat
  set : Nat
  dpa : Nat
  deriving DecidableEq, Repr

/-- The formula of R47; a partition with no memory-side port homes nothing, and 0 stands in. -/
def homeOf (ports : List Nat) (cap pa : Nat) : Home :=
  let k := ports.length
  let g := pa / 1024
  let q := g / k
  let i := (g + q) % k
  let port := ports.getD i 0
  let j := (bits pa 7 2).xor (q % 4)
  { i := i, port := port, slice := 4 * port + j, set := (q % 256 * 2 + bits pa 9 1).xor (bits q 8 9)
    dpa := cap * port + 1024 * q + pa % 1024 }

def State.home (s : State) (p pa : Nat) : Home := homeOf (s.part p).ports s.portBytes pa

/-- The place of a weight-store address: bank P[i], offset 1024 q + w[9:0] (R50); the second part is the table key. -/
def wsHome (ports : List Nat) (w : Nat) : Nat × Nat :=
  let k := ports.length
  let g := w / 1024
  let q := g / k
  let bank := ports.getD ((g + q) % k) 0
  (bank, bank * 2 ^ 24 + 1024 * q + w % 1024)

/-- One byte of memory; an unlisted byte reads 0 (DESIGN CHOICE, log 8). -/
def readCell (m : List Host.Cell) (a : Nat) : Byte := Tbl.getD m a 0

/-- Stores one byte, keeping the canonical form. -/
def writeCell (m : List Host.Cell) (a : Nat) (b : Byte) : List Host.Cell := Tbl.setD 0 m a b

/-- The bytes from an address on. -/
def readCells (m : List Host.Cell) (a n : Nat) : List Byte := (List.range n).map fun i => readCell m (a + i)

/-- Stores bytes at consecutive addresses. -/
def writeCells (m : List Host.Cell) (a : Nat) : List Byte → List Host.Cell
  | [] => m
  | b :: bs => writeCells (writeCell m a b) (a + 1) bs

/-- Host memory address h lies at this cell. -/
def hostCell (h : Nat) : Nat := 2 ^ 51 + h

/-- The tag of a key identifier of a partition; none when it is not loaded (R56, R443). -/
def State.keyTag (s : State) (p key : Nat) : Option KeyTag :=
  if key = 0 then some (.zero s.dev.boots) else (Tbl.find? s.dev.keys (64 * p + key)).map .loaded

/-- The material of a key. -/
def KeyTag.material : KeyTag → Block
  | .zero b => Config.keyZero b
  | .loaded m => m

/-- A line of main memory as a requester with a key reads it: the bytes, when the line was last written under that key;
otherwise what the inverse cipher makes of the stored bytes (R56). -/
def State.readDram (s : State) (dpa : Nat) (tag : KeyTag) : LineData :=
  let raw := lineOf (readCells s.mem (dpa / 128 * 128) 128)
  match Tbl.find? s.memKey (dpa / 128) with
  | none =>
    match Tbl.find? s.memSeed (dpa / s.portBytes) with
    | none => raw
    | some k => lineOf ((List.range 128).map fun i => Config.freeByte k (dpa / 128 * 128 + i))
  | some t =>
    if t = tag then raw
    else xtsDecrypt tag.material (dpa / 128) (xtsEncrypt t.material (dpa / 128) raw)

/-- Writes a whole line of main memory under a key (R56). -/
def State.writeDram (s : State) (dpa : Nat) (tag : KeyTag) (d : LineData) : State :=
  { s with
    mem := writeCells s.mem (dpa / 128 * 128) (toBytes 128 d.toNat)
    memKey := Tbl.put s.memKey (dpa / 128) tag }

/-- A line of host memory. -/
def State.readHostLine (s : State) (h : Nat) : LineData := lineOf (readCells s.mem (hostCell (h / 128 * 128)) 128)

/-- Bytes of a line written to host memory under a mask. -/
def State.writeHostLine (s : State) (h : Nat) (d : LineData) (m : ByteMask) : State :=
  let old := s.readHostLine h
  { s with mem := writeCells s.mem (hostCell (h / 128 * 128)) (toBytes 128 (mergeLine old d m).toNat) }

/-- The tag used for a line of a partition; key 0 stands for an identifier that is not loaded, which no translation names. -/
def State.tagOr (s : State) (p key : Nat) : KeyTag := (s.keyTag p key).getD (.zero s.dev.boots)

/-- Line `line` of a partition's local memory, read under a key. -/
def State.readLocal (s : State) (p line key : Nat) : LineData :=
  s.readDram (s.home p (line * 128)).dpa (s.tagOr p key)

def State.writeLocal (s : State) (p line key : Nat) (d : LineData) : State :=
  s.writeDram (s.home p (line * 128)).dpa (s.tagOr p key) d

/-- Address of the metadata byte of the block at a partition physical address (R60). -/
def State.metaAddr (s : State) (p pa : Nat) : Nat :=
  s.localBytes p - s.localBytes p / 1024 + pa / 1024

/-- The sixteen-bit samples of a block, from its bytes. -/
def samplesOf : List Byte → List Nat
  | a :: b :: t => (a.toNat + 256 * b.toNat) :: samplesOf t
  | _ => []

def bytesOfSamples (l : List Nat) : List Byte := l.flatMap fun x => toBytes 2 x

/-- Samples from the first one and the signed differences (Table 2.10, mode 1). -/
def undelta : Nat → List Byte → List Nat
  | _, [] => []
  | prev, d :: ds =>
    let x := (prev + (d.signExtend 16).toNat) % 65536
    x :: undelta x ds

/-- The differences of consecutive samples, when each lies in -128 to 127. -/
def deltas : Nat → List Nat → Option (List Byte)
  | _, [] => some []
  | prev, x :: xs =>
    let d := (x + 65536 - prev) % 65536
    if d < 128 || 65408 ≤ d then (deltas x xs).map fun t => BitVec.ofNat 8 d :: t else none

/-- The 1,024 plain bytes of a stored block, or none for an invalid metadata byte (R61, R62). -/
def expandBlock (m : Byte) (stored : List Byte) : Option (List Byte) :=
  match m.toNat with
  | 0x08 => some stored
  | 0x15 =>
    let s0 := leBytes (stored.take 2)
    some (bytesOfSamples (s0 :: undelta s0 ((stored.drop 2).take 511)))
  | 0x20 => some (List.replicate 1024 0)
  | _ => none

/-- The stored lines of a block and its metadata byte: mode 2, else 1, else 0 (R62). -/
def compressBlock (plain : List Byte) : Byte × List Byte :=
  let ss := samplesOf plain
  if ss.all (· == 0) then (0x20#8, [])
  else
    match deltas (ss.headD 0) (ss.drop 1) with
    | some ds => (0x15#8, toBytes 2 (ss.headD 0) ++ ds ++ List.replicate 127 0)
    | none => (0x08#8, plain)

/-- The plain bytes of the compressed block that holds a line (R62). -/
def State.readBlock (s : State) (p line key : Nat) : Option (List Byte) :=
  let b := line / 8
  let m := lineByte (s.readLocal p (s.metaAddr p (line * 128) / 128) key) (s.metaAddr p (line * 128) % 128)
  let stored := (List.range 8).flatMap fun i => toBytes 128 (s.readLocal p (b * 8 + i) key).toNat
  expandBlock m stored

/-- The lines of the list from line `base + i` on, written to local memory. -/
def State.writeLocalBytes (s : State) (p base key : Nat) (bs : List Byte) : Nat → State
  | 0 => s
  | n + 1 => (s.writeLocalBytes p base key bs n).writeLocal p (base + n) key (lineOf ((bs.drop (128 * n)).take 128))

/-- Recompresses a block on write-back: the S stored lines, then the metadata byte (R62). -/
def State.writeBlock (s : State) (p line key : Nat) (plain : List Byte) : State :=
  let (m, stored) := compressBlock plain
  let s1 := s.writeLocalBytes p (line / 8 * 8) key stored (stored.length / 128)
  let a := s.metaAddr p (line * 128)
  let old := s1.readLocal p (a / 128) key
  s1.writeLocal p (a / 128) key (mergeLine old (lineWith (a % 128) 1 m.toNat) (byteSpan (a % 128) 1))

/-- Reads a byte of the weight store (R50); one that no preload has written reads 0 (DESIGN CHOICE, log 8). -/
def State.readWsByte (s : State) (p w : Nat) : Byte := readCell s.ws (wsHome (s.part p).ports w).2

def State.readWs (s : State) (p w n : Nat) : Nat := leBytes ((List.range n).map fun i => s.readWsByte p (w + i))

/-- Writes bytes to the weight store from an address on (R383). -/
def State.writeWs (s : State) (p : Nat) : Nat → List Byte → State
  | _, [] => s
  | w, b :: bs =>
    State.writeWs { s with ws := writeCell s.ws (wsHome (s.part p).ports w).2 b } p (w + 1) bs

/-- Size of the weight store of a partition (R29). -/
def State.wsBytes (s : State) (p : Nat) : Nat := 2 ^ 24 * (s.part p).k

end Sys2Proof.Machine
end

