-- ==== Sys2Proof/Machine/Report.lean ====
section
/-! DEFINITION. Interrupts of the functions, the error log and the suspicion scores (15 R390, R391; 16 R423; 17 R437), which the caches
and every unit report to. -/

namespace Sys2Proof.Machine

/-- Sends an interrupt of a function through its MSI-X table; an entry beyond the table sends nothing (R437). -/
def sendMsi (s : State) (f vec : Nat) (en : Bool) : State :=
  if en && vec < (if f = 0 then 2048 else 64) then s.setDev { s.dev with msix := (f, vec) :: s.dev.msix } else s

/-- The error interrupt of a function (INTSTAT.ERR); function 0's is sent only with ERRCTL.IRQEN (R390, R391). -/
def errInterrupt (s : State) (f : Nat) : State :=
  let x := s.func f
  let s := s.setFunc f { x with intstat := x.intstat ||| BitVec.twoPow 64 22 }
  sendMsi s f (fld x.intcfg 22 11) (x.intcfg.getLsbD 35 && (f != 0 || s.dev.errIrqEn))

/-- The page-request interrupt of a function (R167). -/
def prqInterrupt (s : State) (f : Nat) : State :=
  let x := s.func f
  let s := s.setFunc f { x with intstat := x.intstat ||| BitVec.twoPow 64 21 }
  sendMsi s f (fld x.intcfg 11 11) (x.intcfg.getLsbD 34)

/-- A record of the error log (R391). -/
def logError (s : State) (kind unit tenant index addr part : Nat) : State :=
  let n := s.dev.errcnt
  s.setDev
    { s.dev with
      errcnt := (n + 1) % 2 ^ 32
      errlog := Tbl.put s.dev.errlog (n % 64)
        { kind := w64 (kind + unit * 256 + tenant * 65536 + index * 2 ^ 32), addr := w64 addr, time := w64 s.cycle
          part := part } }

/-- The function of a tenant (R146). -/
def State.funcOf (s : State) (tenant : Nat) : Nat := ((s.tenant? tenant).map (·.func)).getD 0

/-- Logs an error and raises the error interrupts of function 0 and of the tenant's function (R390). -/
def reportError (s : State) (kind unit tenant index addr part : Nat) : State :=
  let s := errInterrupt (logError s kind unit tenant index addr part) 0
  if s.funcOf tenant = 0 then s else errInterrupt s (s.funcOf tenant)

/-- A record of a dropped frame or completion word: the spec gives its kind and address, and leaves UNIT and INDEX open (R391). -/
def reportDrop (s : State) (kind tenant addr part : Nat) : State :=
  let v := (Config.freeWord s.steps kind).toNat
  reportError s kind (v % 16) tenant (v / 16 % 128) addr part

/-- Units of the SCORE table (Table 16.7). -/
def scoreCore (core : Nat) : Nat := core
def scoreSlice (slice : Nat) : Nat := 128 + slice
def scoreBank (bank : Nat) : Nat := 192 + bank
def scorePort (port : Nat) : Nat := 208 + port
def scorePair (k : Nat) : Nat := 224 + k

/-- SAFE_N is low while any pair is suspect, or once the clock monitor has failed (R444). -/
def safePin (s : State) : State :=
  let low := s.dev.pins.clockFail || s.dev.pairs.any fun p => p.2.mode = 3 || (p.2.mode = 4 && p.2.apart)
  s.setDev { s.dev with pins := { s.dev.pins with safeLow := low } }

/-- Raises a unit's suspicion score, saturating at 8 bits; at SUSPTH the unit is marked for test (R423). -/
def charge (s : State) (unit n : Nat) : State :=
  let v := min 255 (Tbl.getD s.dev.score unit 0 + n)
  let d := { s.dev with score := Tbl.setD 0 s.dev.score unit v }
  s.setDev (if s.dev.suspth ≤ v && !Tbl.getD s.dev.retired unit false then { d with testing := Tbl.setD false d.testing unit true } else d)

end Sys2Proof.Machine
end

