-- ==== Sys2Proof/Machine/Slice.lean ====
section
/-! DEFINITION. The home slices and the L1s (02 R38, R39, R48, R49; 03 R64 to R67, R74, R82, R83; 04 R96 to R100): how an
event runs through a line's protocol program, and how a core reads and writes a line. -/

namespace Sys2Proof.Machine

/-- Why an access cannot be performed now, or is refused. -/
inductive Stop where
  /-- The line's transition, or an operation on its page, is under way (R67, R86, R102). -/
  | line (key : Nat)
  /-- The slice has no free miss entry (R37). -/
  | miss (slice : Nat)
  /-- The line must be asked of the host, or of a peer's home slice as an event of Table 3.1 (R392, R393). -/
  | remoteRead (link : Option Nat) (line ev : Nat)
  /-- Refused by FAULT (R82). -/
  | writeOnce (pa : Nat)
  /-- Refused allocation of an unbacked line (R98). -/
  | unbEvict (pa : Nat)
  /-- A Lost line, or a slice in LOSTALL (R99). -/
  | unbNores (pa : Nat)
  /-- A fill that failed as an uncorrectable error (R62). -/
  | ecc (pa : Nat)
  /-- A fill that the host has aborted (R393). -/
  | hostAbort (pa : Nat)
  /-- The TLBs have no translation of the page for this access: a walk has to be queued (R161). -/
  | walk (core page : Nat) (acc : Access)
  deriving DecidableEq, Repr

/-- The stop ends the access; otherwise it waits. -/
def Stop.fatal : Stop → Bool
  | .writeOnce _ | .unbEvict _ | .unbNores _ | .ecc _ | .hostAbort _ => true
  | .line _ | .miss _ | .remoteRead _ _ _ | .walk _ _ _ => false

/-- The outcome of an access: the state, and a value or why there is none. -/
inductive Res (α : Type) where
  | ok (s : State) (x : α)
  | stop (s : State) (w : Stop)

def Res.bind {α β : Type} (r : Res α) (f : State → α → Res β) : Res β :=
  match r with
  | .ok s x => f s x
  | .stop s w => .stop s w

/-- An act of the caches' own that a slice refuses for good: the refusal reaches nobody, and what it would have written is dropped
(DESIGN CHOICE, log 80). -/
def Res.orDrop (r : Res Unit) : Res Unit :=
  match r with
  | .ok s x => .ok s x
  | .stop s w => if w.fatal then .ok s () else .stop s w

/-- Runs an access for each element of a list, in order. -/
def Res.forEach {α : Type} (s : State) (f : State → α → Res Unit) : List α → Res Unit
  | [] => .ok s ()
  | x :: xs => (f s x).bind fun s' _ => Res.forEach s' f xs

/-- What is asked of a home slice (R64). `answer` is what the host or a peer has returned; `keep` holds the lines that a reclaim may
not take (R98); `tenant` is named by an error record. `asks` says that the requester sends its own request to the host and is told
of its answer; the home slice asks for every other. `cmd` is the engine command or gather stream that asks (R86). -/
structure Req where
  part : Nat
  line : Nat
  view : Bool
  key : Nat
  who : Requester
  answer : Option Answer
  keep : List Nat
  tenant : Nat := 0
  asks : Bool := false
  cmd : Option Walker := none
  deriving DecidableEq, Repr

/-- What the slice answers: GRANT of Table 3.5, and the line's data. -/
abbrev Reply := Answer

/-- The request of the control core, the walk unit or the late-frame unit for a line (R64, R147). -/
def ctlReq (part line key : Nat) (view : Bool) : Req :=
  { part := part, line := line, view := view, key := key, who := .control, answer := none, keep := [] }

/-- The key of a line in the caches' tables: a core or a partition, the line and the view bit. KEY, which the tag holds too (R46), is no
part of it: an access under one KEY hits a line that is held under another, and finds its data. R157 keeps one frame from being mapped
under two keys; what a lookup does after kind 6 of INVAL has cleared the shadow is the model's choice (DESIGN CHOICE, log 82). -/
def lineKey (a line : Nat) (view : Bool) : Nat := (a * 2 ^ 46 + line) * 2 + (if view then 1 else 0)

/-- Marks a way as most recently used in a tree of `n` ways; node i has children 2i and 2i + 1, way w is leaf n + w, and a
set bit points to the right (PRESUMED, log 9). -/
def plruTouch (n bits way : Nat) : Nat :=
  (List.range 4).foldl (fun b d =>
    let node := (n + way) / 2 ^ d
    if node ≤ 1 then b
    else
      let parent := node / 2
      let set := b / 2 ^ parent % 2 == 1
      if node % 2 == 0 then (if set then b else b + 2 ^ parent) else (if set then b - 2 ^ parent else b)) bits

/-- Follows the tree's bits from a node, turning aside where a side has no way that may be taken. -/
def plruWalk (n bits : Nat) (ok : Nat → Bool) : Nat → Nat → Option Nat
  | 0, _ => none
  | fuel + 1, node =>
    if n ≤ node then (if ok (node - n) then some (node - n) else none)
    else
      let right := bits / 2 ^ node % 2 == 1
      let first := if right then 2 * node + 1 else 2 * node
      let second := if right then 2 * node else 2 * node + 1
      match plruWalk n bits ok fuel first with
      | some w => some w
      | none => plruWalk n bits ok fuel second

/-- The pseudo-LRU victim among the ways that may be taken (R38, R49). -/
def plruVictim (n bits : Nat) (ok : Nat → Bool) : Option Nat := plruWalk n bits ok 6 1

/-- The SHARERS bit and OWNER code of a requester (R65); 31 for one that the directory does not record. -/
def requesterBit : Requester → Nat
  | .l1 c => c / 8
  | .peer p => 16 + p
  | _ => 31

/-- The requester port of a SHARERS bit (R65, R426). -/
def portOfBit (b : Nat) : Nat := if b < 16 then b else b + 1

/-- Updates the coherence counters of a slice's port (R88). -/
def State.count (s : State) (port : Nat) (f : PortCount → PortCount) : State := s.setPortCount port (f (s.portCount port))

def State.setL1 (s : State) (k : Nat) (x : L1Line) : State := s.setCaches { s.caches with l1 := Tbl.put s.caches.l1 k x }
def State.delL1 (s : State) (k : Nat) : State := s.setCaches { s.caches with l1 := Tbl.del s.caches.l1 k }
def State.setL2 (s : State) (k : Nat) (x : L2Line) : State := s.setCaches { s.caches with l2 := Tbl.put s.caches.l2 k x }
def State.delL2 (s : State) (k : Nat) : State := s.setCaches { s.caches with l2 := Tbl.del s.caches.l2 k }

/-- An L1 acts on a probe (R66): 0 invalidate, 1 downgrade, 2 update. It answers its data if it held the line exclusive. -/
def probeL1 (s : State) (core line : Nat) (view : Bool) (kind : Nat) (upd : LineData) : State × Option LineData :=
  let k := lineKey core line view
  match Tbl.find? s.caches.l1 k with
  | none => (s, none)
  | some l =>
    match l.perm with
    | .sinv => (s, none)
    | _ =>
      let d := if l.perm = .exclusive then some l.data else none
      match kind with
      | 0 => (s.delL1 k, d)
      | 1 => (s.setL1 k { l with perm := .shared, dirty := 0 }, d)
      | _ => (s.setL1 k { l with data := upd }, none)

/-- A probe to a cluster goes to its eight L1s, but for the requesting one (R66). -/
def probeCluster (s : State) (cluster : Nat) (skip : Option Nat) (line : Nat) (view : Bool) (kind : Nat) (upd : LineData) :
    State × Option LineData :=
  (List.range 8).foldl (fun acc i =>
    let core := 8 * cluster + i
    if skip = some core then acc
    else
      let (s', d) := probeL1 acc.1 core line view kind upd
      (s', d.orElse fun _ => acc.2)) (s, none)

/-- The core whose own L1 a request comes from (R66). -/
def requesterCore : Requester → Option Nat
  | .l1 c => some c
  | _ => none

/-- Write-back of an L2 line to where it belongs (WBM, R74, R100, R62). A view line's block is recompressed whole: its other lines are
those that the L2 holds, otherwise those in memory. Where the metadata byte in memory is invalid, the lines that are not in the L2 count
as zeros, since R62 gives only the fill of such a block (DESIGN CHOICE, log 83). -/
def writeBack (s : State) (l : L2Line) : State :=
  match s.region l.part (l.line * 128) with
  | .local =>
    if l.view then
      let old := (s.readBlock l.part l.line l.key).getD (List.replicate 1024 0)
      let plain := (List.range 8).flatMap fun i =>
        if l.line / 8 * 8 + i = l.line then toBytes 128 l.data.toNat
        else
          match Tbl.find? s.caches.l2 (lineKey l.part (l.line / 8 * 8 + i) true) with
          | some x => toBytes 128 x.data.toNat
          | none => (old.drop (128 * i)).take 128
      s.writeBlock l.part l.line l.key plain
    else s.writeLocal l.part l.line l.key l.data
  | .host => s.writeHostLine (l.line * 128 - 2 ^ 51) l.data (BitVec.allOnes 128)
  | _ => s

/-- A line that a write has reached: Written, or Leaving as a Written one (Table 4.3). -/
def Unb.toWritten : Unb → Unb
  | .leaving _ a => .leaving true a
  | _ => .written

/-- Steps 5 to 9 of R74: write-back, directory, grant, drop, next state. State 0 stands for a line that is not in the L2 (R65), so
a backed line that enters it is removed. DROP keeps an unbacked line, but for DSC (R100). -/
def finishTrans (s : State) (lk : Nat) (l : L2Line) (t : Trans) (ev : Nat) (who : Requester) (q : Proto) : State × Reply :=
  let s := if t.wbm then writeBack s l else s
  let b := requesterBit who
  let sh := if t.clrsh then 0 else l.sharers
  let sh := if (t.addsh || t.setown) && b < 20 then sh ||| BitVec.twoPow 20 b else sh
  let own := if t.setown then b else l.owner
  let own := if t.clrown then 31 else own
  let unb := l.unb.map fun u => if t.grant = 2 || t.grant = 3 then u.toWritten else u
  let l' := { l with sharers := sh, owner := own, unb := unb }
  let reply : Reply := { grant := t.grant, data := l.data }
  if (t.drop && (l.unb.isNone || ev = 15)) || (t.next = 0 && !t.drop && l.unb.isNone) then (s.delL2 lk, reply)
  else
    let next := if t.drop then (q.parking).getD t.next else t.next
    (s.setL2 lk { l' with state := next }, reply)

/-- Sends the probes of a transition. Clusters answer at once; the answer is the L1s' data and the peer bits that must still answer
(R66, R87, R394). `skip` is the core whose L1 is left out. PRBSENT counts one probe for each SHARERS bit or owner that is probed, a
cluster's eight L1s as one, and not those that the crossbar suppresses, which PRBSUP counts (R88; DESIGN CHOICE, log 84). -/
def sendProbes (s : State) (port : Nat) (part line : Nat) (view : Bool) (kind : Nat) (targets : List Nat)
    (skip : Option Nat) (upd : LineData) : State × Option LineData × List Nat :=
  targets.foldl (fun acc b =>
    let (s, d, rest) := acc
    if !((s.part part).req.getLsbD (portOfBit b)) then (s.count port fun c => { c with prbsup := sat32 c.prbsup }, d, rest)
    else
      let s := s.count port fun c => { c with prbsent := sat32 c.prbsent }
      if b < 16 then
        let (s', d') := probeCluster s b skip line view kind upd
        (s', d'.orElse fun _ => d, rest)
      else if (s.link (b - 16)).state = 2 then (s, d, rest ++ [b])
      else (s, d, rest)) (s, none, [])

/-- The probe targets of an entry: the owner, the sharers, or (code 3, which no program holds) every holder, for what a slice completes
by itself (R66, R70). -/
def probeTargets (l : L2Line) (t : Trans) : List Nat :=
  let sharers := (List.range 20).filter fun b => l.sharers.getLsbD b
  let owner := if l.owner < 20 then [l.owner] else []
  match t.probe with
  | 1 => owner
  | 2 => sharers
  | 3 => owner ++ sharers.filter fun b => b != l.owner
  | _ => []

/-- The core that a transition's probes leave out: the requesting L1, but for a probe of the owner, which goes to whoever holds the
line (R66). -/
def probeSkip (t : Trans) (who : Requester) : Option Nat := if t.probe = 2 then requesterCore who else none

def probeKind : Nat → ProbeKind
  | 0 => .invalidate
  | 1 => .downgrade
  | _ => .update

/-- Puts peer probes in flight and marks the line busy (R65 BUSY, R74). An update carries the merged line. -/
def markBusy (s : State) (lk : Nat) (a : SliceAccess) (ev : Nat) (t : Trans) (rest : List Nat) (upd : Option LineData)
    (d fill : Option LineData) (key : Nat) : State :=
  s.setCaches
    { s.caches with
      busy := Tbl.put s.caches.busy lk
        { event := ev, access := a, entry := t.toWord, targets := rest, update := upd.isSome, data := d, key := key, fill := fill }
      probes := s.caches.probes ++ rest.map fun b =>
        { part := a.part, line := a.line, view := a.view, kind := probeKind t.pkind, target := b, data := upd } }

/-- The events whose requester hands its data over and waits for nothing more at the slice: WB, EVC, WRS, ATR and XWR. -/
def handsOver (ev : Nat) : Bool := [3, 4, 6, 8, 10].contains ev

/-- The line after steps 1 to 3 of R74: the owner's data, then FILL, then MERGE. -/
def transData (l : L2Line) (t : Trans) (a : SliceAccess) (d fill : Option LineData) : LineData :=
  let x := if t.pdata then d.getD l.data else l.data
  let x := fill.getD x
  if t.merge then mergeLine x a.data a.mask else x

/-- A grant of X that took an owner's data is counted (R88). -/
def countXfer (s : State) (l : L2Line) (t : Trans) (d : Option LineData) : State :=
  if t.grant = 2 && t.pdata && d.isSome then s.count (l.slice / 4) (fun c => { c with ownxfer := sat32 c.ownxfer }) else s

/-- The transition of a line (R74). `fill` is what FILL reads. While a peer has to answer a probe the line is busy: a requester that
has handed its data over goes on, another waits. -/
def runTrans (s : State) (lk : Nat) (l : L2Line) (ev : Nat) (t : Trans) (q : Proto) (a : SliceAccess) (fill : Option LineData) :
    Res Reply :=
  let port := l.slice / 4
  let wait (s : State) : Res Reply := if handsOver ev then .ok s { grant := 0, data := l.data } else .stop s (.line lk)
  if t.fault then .stop (s.count port fun c => { c with wofault := sat32 c.wofault }) (.writeOnce (l.line * 128))
  else
    let early := t.probe != 0 && t.pkind != 2
    let (s, d, rest) :=
      if early then sendProbes s port l.part l.line l.view t.pkind (probeTargets l t) (probeSkip t a.who) 0 else (s, none, [])
    if early && !rest.isEmpty then wait (markBusy (s.setL2 lk l) lk a ev t rest none d fill l.key)
    else
      let s := countXfer s l t d
      let l := { l with data := transData l t a d fill }
      let late := t.probe != 0 && t.pkind = 2
      let (s, _, rest) :=
        if late then sendProbes s port l.part l.line l.view 2 (probeTargets l t) (probeSkip t a.who) l.data else (s, none, [])
      if late && !rest.isEmpty then wait (markBusy (s.setL2 lk l) lk a ev t rest (some l.data) none none l.key)
      else
        let (s, r) := finishTrans s lk l t ev a.who q
        .ok s r

/-- Ends the transition of a busy line (R74). -/
def finishBusy (s : State) (lk : Nat) (b : Busy) : State × Option Reply :=
  let s := s.setCaches { s.caches with busy := Tbl.del s.caches.busy lk }
  match Tbl.find? s.caches.l2 lk with
  | none => (s, none)
  | some l =>
    let t := Trans.ofWord b.entry
    let prog := (s.part l.part).protoAt (l.line * 128)
    let s := if b.update then s else countXfer s l t b.data
    let l := if b.update then l else { l with data := transData l t b.access b.data b.fill }
    let (s, r) := finishTrans s lk l t b.event b.access.who prog
    (s, some r)

/-- A way of an L2 set is taken (R49, R59): the lines of the set, by way. -/
def State.setLines (s : State) (slice set : Nat) : List (Nat × L2Line) :=
  s.caches.l2.filter fun e => e.2.slice = slice && e.2.set = set

def State.wayRetired (s : State) (slice set way : Nat) : Bool :=
  Tbl.getD s.dev.retiredWays ((slice * 512 + set) * 16 + way) false

/-- Counted lines of a partition in a slice, and in a set (R94). -/
def State.countedSlice (s : State) (p slice : Nat) : Nat :=
  (s.caches.l2.filter fun e => e.2.part = p && e.2.slice = slice && e.2.unb.isSome).length

def State.countedSet (s : State) (slice set : Nat) : Nat := ((s.setLines slice set).filter fun e => e.2.unb.isSome).length

/-- What a slice does by itself to a line that its program leaves after VIC, PRG or DSC: every copy is invalidated, an owner's data is
taken, the line is written back if it may be newer than memory, and removed (R49, R70, R98, R103). -/
def forceEntry (wbm : Bool) : Trans :=
  { probe := 3, pkind := 0, pdata := true, wbm := wbm, clrsh := true, clrown := true, drop := true }

/-- The access of an event that no requester sends. -/
def ownAccess (l : L2Line) : SliceAccess := { part := l.part, line := l.line, view := l.view, who := .control, data := 0, mask := 0 }

/-- VIC, PRG or DSC by the slice itself: the program's transition, then whatever it left undone (R49, R70, R98, R103). A refusal by the
program changes nothing of that (DESIGN CHOICE, log 80). -/
def forceOut (s : State) (lk : Nat) (l : L2Line) (ev : Nat) : Res Unit :=
  if (Tbl.find? s.caches.busy lk).isSome then .stop s (.line lk)
  else
    let q := (s.part l.part).protoAt (l.line * 128)
    ((runTrans s lk l ev (q.entry l.state ev) q (ownAccess l) none).bind fun s _ => .ok s ()).orDrop.bind fun s _ =>
      match Tbl.find? s.caches.l2 lk with
      | none => .ok s ()
      | some l' =>
        if l'.unb.isSome && ev != 15 && some l'.state = q.parking && l'.sharers = 0 && l'.owner = 31 then .ok s ()
        else
          (runTrans s lk l' ev (forceEntry (ev != 15 && (q.dirty l'.state || q.owned l'.state))) q (ownAccess l') none).bind
            fun s _ => .ok s ()

/-- VIC on a victim (R49, R64). -/
def evictL2 (s : State) (lk : Nat) (l : L2Line) : Res Unit := forceOut s lk l 12

/-- Finds a way of a set for a new line, evicting a victim where the set is full (R48, R49). -/
def takeWay (s : State) (slice set : Nat) : Res Nat :=
  let ls := s.setLines slice set
  let usable := (List.range 16).filter fun w => !s.wayRetired slice set w
  match usable.find? fun w => ls.all fun e => e.2.way != w with
  | some w => .ok s w
  | none =>
    let evictable := fun w => usable.contains w && ls.all fun e => e.2.way != w || e.2.unb.isNone
    match plruVictim 16 (Tbl.getD s.caches.plru (slice * 512 + set) 0) evictable with
    | none => .stop s (.miss slice)
    | some w =>
      match ls.find? fun e => e.2.way = w with
      | none => .ok s w
      | some e => (evictL2 s e.1 e.2).bind fun s _ => .ok s w

def touchL2 (s : State) (slice set way : Nat) : State :=
  let i := slice * 512 + set
  s.setCaches { s.caches with plru := Tbl.put s.caches.plru i (plruTouch 16 (Tbl.getD s.caches.plru i 0) way) }

/-- The events that write (Table 4.3), and those that read. -/
def writeEvent (ev : Nat) : Bool := [1, 2, 6, 7, 10].contains ev
def readEvent (ev : Nat) : Bool := [0, 5, 9].contains ev

/-- Room for one more counted line (R97, R98 step 1). -/
def State.unbRoom (s : State) (p slice set : Nat) : Bool :=
  s.countedSlice p slice < (s.part p).resvN && s.countedSet slice set < 12

/-- An unbacked line was allocated for another lane of an instruction, or another element of a command, that still waits (R98 step 2):
the split stands at the same word, or the command is still queued. -/
def State.zeroHeld (s : State) (e : Nat × Walker × W64) : Bool :=
  match e.2.1 with
  | .split r _ => (s.split? r).any fun sp => sp.pc = e.2.2
  | .command core id => (Tbl.find? (s.core core).cmds id).isSome
  | _ => false

/-- The Zero line that a reclaim takes: of the same set first, otherwise the one allocated earliest (R98 step 2). -/
def State.reclaimable (s : State) (p slice set : Nat) (keep : List Nat) : Option (Nat × L2Line) :=
  let zero := s.caches.l2.filter fun e =>
    e.2.part = p && e.2.slice = slice && e.2.unb = some .zero && !keep.contains e.1
      && !(s.caches.zeros.any fun z => z.1 = e.1 && s.zeroHeld z)
  let oldest (l : List (Nat × L2Line)) :=
    l.foldl (fun best e => match best with
      | none => some e
      | some (b : Nat × L2Line) => if e.2.age < b.2.age then some e else some b) (none : Option (Nat × L2Line))
  match oldest (zero.filter fun e => e.2.set = set) with
  | some e => some e
  | none => if s.countedSet slice set < 12 then oldest zero else none

/-- A cluster belongs to a partition: the partition holds its requester port (R426). -/
def State.ownsCluster (s : State) (p cluster : Nat) : Bool := (s.part p).req.getLsbD (portOfBit cluster)

/-- Every copy of a line in the L1s of its partition is dropped without write-back; with `sinv`, SINV copies too. -/
def dropCopies (s : State) (p line : Nat) (view sinv : Bool) : State :=
  s.setCaches
    { s.caches with l1 := s.caches.l1.filter fun e =>
        !(e.2.line = line && e.2.view = view && s.ownsCluster p (e.2.core / 8) && (sinv || e.2.perm != .sinv)) }

/-- Removes an unbacked line that no peer and no L1 owner holds any more; copies in the L1s go without write-back (R102 step 7). -/
def dropUnbacked (s : State) (lk : Nat) (l : L2Line) : State := (dropCopies s l.part l.line l.view false).delL2 lk

/-- A line that is not in the L2, as the program's state 0 sees it. -/
def blankLine (s : State) (q : Req) (h : Home) (way : Nat) : L2Line :=
  { part := q.part, line := q.line, view := q.view, key := q.key, data := 0, state := 0, sharers := 0, owner := 31
    slice := h.slice, set := h.set, way := way, unb := none, age := s.steps, hostCopy := false }

/-- Is the line lost, or its slice in LOSTALL (R99, R104)? -/
def State.isLost (s : State) (p slice line : Nat) : Bool :=
  (Tbl.getD (s.part p).lost slice []).contains line || (s.part p).lostAll.contains slice

/-- The line's block is being flipped (R86 step 1). -/
def State.flipping (s : State) (p line : Nat) : Bool := s.dev.biasFlip.any fun b => b.part = p && line / 2 ^ 14 = b.block

/-- A device access that the flip of its block stalls: the host's pass, and so do the copy and gather commands issued before step 1 (R86).
What the walk unit and the control core read and write passes too, since an admitted command may need it (DESIGN CHOICE, log 97). -/
def State.stalls (s : State) (q : Req) : Bool :=
  s.flipping q.part q.line && q.who != .host && q.who != .control
    && !(q.cmd.any fun w => s.dev.biasFlip.any fun b => b.admitted.contains w)

/-- BIASSTALL counts an access that a flip stalls once (R88). -/
def countStall (s : State) (port lk ev : Nat) (who : Requester) : State :=
  match s.dev.biasFlip with
  | none => s
  | some b =>
    if b.stalled.contains (lk, ev, who) then s
    else
      (s.setDev { s.dev with biasFlip := some { b with stalled := (lk, ev, who) :: b.stalled } }).count port
        fun c => { c with biasstall := sat32 c.biasstall }

/-- The line lies in a page whose lines a migration has moved to Leaving (R109 steps 3 to 6). A line that is present is tagged so; an
Absent one takes no way and is not counted: nothing of it has to be held (DEDUCED, log 63). -/
def State.migrating (s : State) (p line : Nat) : Bool :=
  s.migration.any fun m => m.part = p && 3 ≤ m.step && m.pages.any fun g => g.2.2.1 / 128 ≤ line && line < (g.2.2.1 + g.2.2.2) / 128

/-- Bias of the block of a local line (R85). -/
def State.inHostBias (s : State) (p line : Nat) : Bool := Tbl.getD s.dev.hostBias (2 ^ 32 * p + line / 2 ^ 14) false

/-! Who waits for a line (R37, R67). -/

/-- The place in `waiters` of a slice's miss entries. -/
def missKey (slice : Nat) : Nat := 2 ^ 80 + slice

/-- Requests of one L1, of the host or of a peer come in one stream. -/
def reqTag : Requester → Nat
  | .l1 c | .engine c => c
  | .peer p => 256 + p
  | .host => 300
  | .control => 301
  | .collier => 302

/-- The access of a row that is an event at a home slice. -/
def sliceAccess? : Instr → Option SliceAccess
  | .rd a | .rdx a | .upg a | .wb a | .evc a | .rds a | .wrs a | .atx a | .atr a | .xrd a | .xwr a | .snp a => some a
  | _ => none

/-- The stream of an event that waits; host reads and writes of device memory come from the host. -/
def eventTag (i : Instr) : Nat := ((sliceAccess? i).map fun a => reqTag a.who).getD 300

/-- A split waits for this line or miss entry. -/
def Split.waitsFor (sp : Split) (k : Nat) : Bool :=
  match sp.wait with
  | .line k' => k' = k
  | .miss sl => missKey sl = k
  | _ => false

/-- A launch of which a last frame is still to be written: it ends then, and none of its splits issues any more (R359, R402, R404, R417). -/
def State.failing (s : State) (launch : Nat) : Bool :=
  s.groups.any fun e => e.2.launch = launch && e.2.splits.any fun p => p.2.pendingTrap.any fun t => t.fails.isSome

/-- An engine command or gather stream that waits, as its core; none once it has ended, or its crew is saved. -/
def State.unitTag (s : State) : Walker → Option Nat
  | .command core id =>
    (Tbl.find? (s.core core).cmds id).bind fun x => if (s.crew? x.crew).any fun c => !c.saved then some core else none
  | .stream core g =>
    (Tbl.find? (s.core core).streams g).bind fun x =>
      if ((s.group? x.group).bind fun g => s.crew? g.crew).any fun c => !c.saved then some core else none
  | _ => none

/-- The stream of a waiter; none once a split does not wait any more, or cannot issue. -/
def State.waiterTag (s : State) (k : Nat) : LineWaiter → Option Nat
  | .event i => some (eventTag i)
  | .unit w => s.unitTag w
  | .split r =>
    match s.ctxOf r with
    | some c =>
      let live := if s.failing c.g.launch then c.sp.pendingTrap.any fun t => t.fails.isSome else c.crew.running
      if s.cur = some r || (c.sp.waitsFor k && live) then some c.crew.core else none
    | none => none

/-- The first that waits. -/
def State.firstWaiter (s : State) (k : Nat) : Option (LineWaiter × Nat) :=
  s.caches.waiters.findSome? fun w => if w.1 = k then (s.waiterTag k w.2).map fun t => (w.2, t) else none

/-- Another requester's event for the line arrived earlier and has not been served (R67). The control core's own acts, and what an owner
gives back, do not queue behind what waits for them. -/
def State.behind (s : State) (lk ev : Nat) (who : Requester) : Bool :=
  who != .control && !(ev = 3 || ev = 4 || ev = 8) && (s.firstWaiter lk).any fun w => w.2 != reqTag who

/-- A waiter joins the queue of a line or a slice at its end, once. -/
def State.queueFor (s : State) (k : Nat) (w : LineWaiter) : State :=
  if s.caches.waiters.contains (k, w) then s
  else s.setCaches { s.caches with waiters := s.caches.waiters ++ [(k, w)] }

/-- The requester of a transition whose last acknowledgement has come still waits for it (R74 step 7). -/
def State.awaited (s : State) (lk : Nat) (b : Busy) : Bool :=
  s.caches.waiters.any fun w => w.1 = lk && s.waiterTag lk w.2 = some (reqTag b.access.who)

/-! Fills. -/

/-- An outbound write or request is sent over a link, or to the host (R392, R393). -/
def State.send (s : State) (o : Outbound) : State := { s with outbound := Tbl.put s.outbound (Tbl.fresh s.outbound) o }

/-- A back-invalidate snoop to the host, among the outbound requests (R86; the number is the model's own). -/
def snoopEv : Nat := 20

/-- Lines homed on a slice that are outstanding at the host: each holds a miss entry (R37). -/
def State.hostMisses (s : State) (slice : Nat) : List (Nat × Nat) :=
  ((s.outbound.filter fun e =>
    e.2.link.isNone && !e.2.write && e.2.ev != snoopEv && s.straps.cxlCache && (s.home e.2.part (e.2.line * 128)).slice = slice).map
      fun e => (e.2.part, e.2.line)).eraseDups

/-- Miss entries of a slice that are taken, of 256 (R37). -/
def State.missEntries (s : State) (slice : Nat) : Nat := Tbl.getD s.caches.misses slice 0 + (s.hostMisses slice).length

/-- The line that a fill brings over the host link (R74, R85): from the requester's answer, or from the one that the slice asked for. -/
def fillHost (s : State) (q : Req) (h : Home) : Res LineData :=
  let lk := lineKey q.part q.line q.view
  let used : State := s.setCaches { s.caches with filled := Tbl.del s.caches.filled lk }
  match q.answer, Tbl.find? s.caches.filled lk with
  | some r, _ => .ok used r.data
  | none, some (some r) => .ok used r.data
  | none, some none => .stop used (.hostAbort (q.line * 128))
  | none, none =>
    if !(s.hostMisses h.slice).contains (q.part, q.line) && 256 ≤ s.missEntries h.slice then .stop s (.miss h.slice)
    else if q.asks then .stop s (.remoteRead none q.line 0)
    else if s.outbound.any fun e => e.2.who = some (.slice q.part q.line q.view) then .stop s (.line lk)
    else
      .stop (s.send { link := none, line := q.line, write := false, atomic := false, data := 0, mask := 0
                      who := some (.slice q.part q.line q.view), va := none, tenant := q.tenant, part := q.part }) (.line lk)

/-- A compressed-view fill installs the other seven lines of the block too, where they are not held (R62). They come as a read that is
not recorded brings them: in the NEXT of state 0 under RDS (DEDUCED, log 83). -/
def installSiblings (s : State) (q : Req) (bs : List Byte) : Res Unit :=
  Res.forEach s (fun s i =>
    let line := q.line / 8 * 8 + i
    let lk := lineKey q.part line true
    let t := ((s.part q.part).protoAt (line * 128)).entry 0 5
    if line = q.line || t.next = 0 || (Tbl.find? s.caches.l2 lk).isSome then .ok s ()
    else
      let h := s.home q.part (line * 128)
      (takeWay s h.slice h.set).bind fun s w =>
        .ok (s.setL2 lk { blankLine s { q with line := line } h w with
          data := lineOf ((bs.drop (128 * i)).take 128), state := t.next }) ()) (List.range 8)

/-- The invalid metadata byte of a block, as an uncorrectable error of main memory (R62, R58): a record of kind 1 with its interrupts, and
the port's score (R390, R423). -/
def reportBadBlock (s : State) (q : Req) (h : Home) : State :=
  charge (reportError s 1 4 q.tenant h.port (q.line * 128) q.part) (scorePort h.port) 32

/-- The plain line of a block that is held compressed, with its siblings installed (R62). -/
def fillView (s : State) (q : Req) (h : Home) : Res LineData :=
  match s.readBlock q.part q.line q.key with
  | none => .stop (reportBadBlock s q h) (.ecc (q.line * 128))
  | some bs => (installSiblings s q bs).bind fun s _ => .ok s (lineOf ((bs.drop (128 * (q.line % 8))).take 128))

/-- The data that FILL supplies for a line of memory (R74): over the host link, from main memory, or from the compressed block; a fill
from main memory takes a miss entry (R37). -/
def fillData (s : State) (q : Req) (h : Home) : Res LineData :=
  let counted (s : State) : State :=
    s.setCaches { s.caches with misses := Tbl.put s.caches.misses h.slice (Tbl.getD s.caches.misses h.slice 0 + 1) }
  if s.region q.part (q.line * 128) = .host || s.inHostBias q.part q.line then
    (fillHost s q h).bind fun s d => if q.view then fillView s q h else .ok s d
  else if 256 ≤ s.missEntries h.slice then .stop s (.miss h.slice)
  else if q.view then (fillView s q h).bind fun s d => .ok (counted s) d
  else .ok (counted s) (s.readLocal q.part q.line q.key)

/-- What FILL of an entry reads, if it reads: not where MERGE covers every byte (R74). -/
def fillFor (s : State) (q : Req) (h : Home) (t : Trans) (mask : ByteMask) : Res (Option LineData) :=
  if t.fill && !(t.merge && mask = BitVec.allOnes 128) then (fillData s q h).bind fun s d => .ok s (some d) else .ok s none

/-! An event at a home slice. -/

/-- The events that are accesses of a line, not an L1's return of one or an act of the device's own (R99, R104). -/
def accessEvent (ev : Nat) : Bool := [0, 1, 2, 5, 6, 7, 9, 10, 13, 15].contains ev

/-- No grant and no data: the event has no effect. -/
def Reply.none : Reply := { grant := 0, data := 0 }

/-- A refusal by FAULT, counted, with no state changed (R82, R88). -/
def refuseEvent (s : State) (h : Home) (pa : Nat) : Res Reply :=
  .stop (s.count h.port fun c => { c with wofault := sat32 c.wofault }) (.writeOnce pa)

/-- An event for a line that the L2 holds (R74, R96, R103). A line in Leaving lets through only the PRG that pulls its data in (R109
step 3). DSC makes an unbacked line Absent whatever its program does. -/
def sliceHit (s : State) (q : Req) (ev : Nat) (mask : ByteMask) (lk : Nat) (h : Home) (l : L2Line) (prog : Proto) (a : SliceAccess) :
    Res Reply :=
  let t := prog.entry l.state ev
  let left := match l.unb with
    | some (.leaving _ _) => true
    | _ => false
  if left && !(ev = 14 && q.who = .control) then .stop s (.line lk)
  else if t.fault then refuseEvent s h (q.line * 128)
  else if ev = 15 && l.unb.isSome then (forceOut s lk l 15).bind fun s _ => .ok s .none
  else
    let s := touchL2 s l.slice l.set l.way
    let unb := l.unb.map fun u => if writeEvent ev then u.toWritten else u
    (if l.unb.isSome then .ok s none else fillFor s q h t mask).bind fun s f => runTrans s lk { l with unb := unb } ev t prog a f

/-- An event for an unbacked line that is not in the L2: Absent or Lost (R96 to R99). -/
def sliceAbsent (s : State) (q : Req) (ev : Nat) (lk : Nat) (h : Home) (prog : Proto) (a : SliceAccess) : Res Reply :=
  let pa := q.line * 128
  let t := prog.entry 0 ev
  let alloc (s : State) : Res Reply :=
    (takeWay s h.slice h.set).bind fun s w =>
      let u := if writeEvent ev || t.grant = 2 || t.grant = 3 then Unb.written else Unb.zero
      runTrans (touchL2 s h.slice h.set w) lk { blankLine s q h w with unb := some u } ev t prog a none
  if s.isLost q.part h.slice q.line then
    if ev = 15 then
      let p := s.part q.part
      .ok (s.setPart q.part { p with lost := Tbl.put p.lost h.slice ((Tbl.getD p.lost h.slice []).erase q.line) }) .none
    else if accessEvent ev then .stop s (.unbNores pa)
    else .ok s .none
  else if !(writeEvent ev || readEvent ev) then .ok s .none
  else if t.fault then refuseEvent s h pa
  else if s.unbRoom q.part h.slice h.set then alloc s
  else if !writeEvent ev then .ok s .none
  else
    match s.reclaimable q.part h.slice h.set q.keep with
    | none => .stop s (.unbEvict pa)
    | some e => (forceOut s e.1 e.2 15).bind fun s _ => alloc s

/-- The data of a line that a program takes into the L2 without FILL, where its requester does not supply every byte: the spec states
none (free, DESIGN CHOICE, log 85). -/
def unfilled (s : State) (line : Nat) : LineData :=
  lineOf ((List.range 128).map fun i => Config.freeByte s.steps (line * 128 + i))

/-- An event for a backed line that is not in the L2: state 0 of its program (R65, R74). A line whose NEXT is 0 takes no way. -/
def sliceMiss (s : State) (q : Req) (ev : Nat) (mask : ByteMask) (lk : Nat) (h : Home) (prog : Proto) (a : SliceAccess) : Res Reply :=
  let t := prog.entry 0 ev
  if t.fault then refuseEvent s h (q.line * 128)
  else if t.next = 0 && !t.fill && !t.merge && !t.wbm && !t.data && t.grant = 0 then .ok s .none
  else
    (fillFor s q h t mask).bind fun s f =>
      (if t.next = 0 then .ok s 16 else takeWay s h.slice h.set).bind fun s w =>
        let bare := !t.fill && (t.wbm || t.data || t.grant != 0 || t.next != 0)
        let l := { blankLine s q h w with data := if bare then unfilled s q.line else 0, hostCopy := s.inHostBias q.part q.line }
        runTrans (if t.next = 0 then s else touchL2 s h.slice h.set w) lk l ev t prog a f

/-- An event of a line that no transition holds (R64, R67, R86, R99, R104). -/
def sliceOpen (s : State) (q : Req) (ev : Nat) (data : LineData) (mask : ByteMask) : Res Reply :=
  let pa := q.line * 128
  let lk := lineKey q.part q.line q.view
  let h := s.home q.part pa
  let prog := (s.part q.part).protoAt pa
  let a : SliceAccess := { part := q.part, line := q.line, view := q.view, who := q.who, data := data, mask := mask }
  let pulls := ev = 14 && q.who = .control
  if s.behind lk ev q.who then .stop s (.line lk)
  else if s.migrating q.part q.line && !pulls then .stop s (.line lk)
  else if s.stalls q then .stop (countStall s h.port lk ev q.who) (.line lk)
  else if s.region q.part pa = .unbacked && (s.part q.part).lostAll.contains h.slice && accessEvent ev && q.who != .control then
    .stop s (.unbNores pa)
  else
    match Tbl.find? s.caches.l2 lk with
    | some l => sliceHit s q ev mask lk h l prog a
    | none =>
      if s.region q.part pa = .unbacked then sliceAbsent s q ev lk h prog a else sliceMiss s q ev mask lk h prog a

/-- An event at the home slice of a line of local, host or unbacked memory (R64, R67, R74). A line whose transition is under way makes it
wait. Once the last acknowledgement has come, the requester that waits ends the transition and takes its grant; nobody else does
before it (R67, R83); if it waits no more, the next event of the line finds the transition ended. -/
def sliceEvent (s : State) (q : Req) (ev : Nat) (data : LineData) (mask : ByteMask) : Res Reply :=
  let lk := lineKey q.part q.line q.view
  match Tbl.find? s.caches.busy lk with
  | none => sliceOpen s q ev data mask
  | some b =>
    if !b.targets.isEmpty then .stop s (.line lk)
    else if b.event = ev && !handsOver ev && reqTag b.access.who = reqTag q.who then
      match finishBusy s lk b with
      | (s, some r) => .ok s r
      | (s, none) => sliceOpen s q ev data mask
    else if s.awaited lk b then .stop s (.line lk)
    else sliceOpen (finishBusy s lk b).1 q ev data mask

/-- The link over which an address is reached without the home slice's protocol: a peer aperture, or the host (none) when it has
no CXL.cache (R22, R23). -/
def State.remote (s : State) (p pa : Nat) : Option (Option Nat) :=
  match s.region p pa with
  | .peer l => some (some l)
  | .host => if s.straps.cxlCache then none else some none
  | _ => none

/-- A posted write, or another message that nobody waits for, to a peer's home slice as event `ev`, or to the host (R39, R64, R392, R393).
Host memory holds a write at once, so that later reads find it. -/
def postPeer (s : State) (q : Req) (link : Option Nat) (ev : Nat) (who : Option Walker) (tenant : Nat) (d : LineData) (m : ByteMask) :
    State :=
  let s := if link.isNone then s.writeHostLine (q.line * 128 - 2 ^ 51) d m else s
  s.send { link := link, line := q.line, ev := ev, write := true, atomic := false, data := d, mask := m, who := who
           va := none, tenant := tenant, part := q.part }

/-- Asks the home of a line for it: the slice here, or a peer's home slice or the host, whose answer the requester brings (R39, R48). -/
def homeAsk (s : State) (q : Req) (ev : Nat) : Res Reply :=
  match s.remote q.part (q.line * 128) with
  | none => sliceEvent s q ev 0 0
  | some p =>
    match q.answer with
    | none => .stop s (.remoteRead p q.line ev)
    | some r => .ok s r

/-- Hands data, or an L1's notice, to the home of a line (R39, R48, R64). -/
def homeSend (s : State) (q : Req) (ev : Nat) (who : Option Walker) (tenant : Nat) (d : LineData) (m : ByteMask) : Res Unit :=
  match s.remote q.part (q.line * 128) with
  | none => (sliceEvent s q ev d m).bind fun s _ => .ok s ()
  | some p => .ok (postPeer s q p ev who tenant d m) ()

/-- The posted writes of a split that have no address yet are those of a store at this address (R306). -/
def tagPosted (s : State) (r : SplitRef) (core : Nat) (va : W64) : State :=
  { s with outbound := Tbl.mapVal (fun _ o =>
      if o.write && o.who = some (.split r core) && o.va.isNone then { o with va := some va } else o) s.outbound }

/-- The request of an L1 about a line that it holds. -/
def l1Req (part : Nat) (l : L1Line) : Req :=
  { part := part, line := l.line, view := l.view, key := l.key, who := .l1 l.core, answer := none, keep := [] }

/-- What an L1 does with a line it drops (R39, R64): an exclusive line is written back if it is dirty and announced if it is clean, dirty
SINV bytes are written at the slice. A line whose home cannot take it now stays. -/
def evictL1 (s : State) (part : Nat) (k : Nat) (l : L1Line) : Res Unit :=
  let s' := s.delL1 k
  let q := l1Req part l
  let r : Res Unit := match l.perm with
    | .exclusive =>
      if l.dirty = 0 then homeSend s' q 4 none 0 0 0 else homeSend s' q 3 none 0 l.data (BitVec.allOnes 128)
    | .sinv => if l.dirty = 0 then .ok s' () else homeSend s' { q with who := .engine l.core } 6 none 0 l.data l.dirty
    | .shared | .through => .ok s' ()
  match r.orDrop with
  | .ok s _ => .ok s ()
  | .stop s w => .stop (s.setL1 k l) w

/-- The lines of an L1 set (R38). -/
def State.l1Set (s : State) (core set : Nat) : List (Nat × L1Line) :=
  s.caches.l1.filter fun e => e.2.core = core && e.2.line % 128 = set

def touchL1 (s : State) (core line way : Nat) : State :=
  let c := s.core core
  let set := line % 128
  s.setCore core { c with plru := Tbl.put c.plru set (plruTouch 4 (Tbl.getD c.plru set 0) way) }

/-- Allocates a line in an L1, evicting the pseudo-LRU victim of a full set (R38). -/
def installL1 (s : State) (part core : Nat) (l : L1Line) : Res Unit :=
  let ls := s.l1Set core (l.line % 128)
  let fit (s : State) (w : Nat) : Res Unit :=
    .ok (touchL1 (s.setL1 (lineKey core l.line l.view) { l with way := w }) core l.line w) ()
  match (List.range 4).find? fun w => ls.all fun e => e.2.way != w with
  | some w => fit s w
  | none =>
    match plruVictim 4 (Tbl.getD (s.core core).plru (l.line % 128) 0) fun _ => true with
    | none => .ok s ()
    | some w =>
      match ls.find? fun e => e.2.way = w with
      | none => fit s w
      | some e => (evictL1 s part e.1 e.2).bind fun s _ => fit s w

/-- A line as an L1 receives it. -/
def freshL1 (core : Nat) (q : Req) (d : LineData) (p : Perm) : L1Line :=
  { core := core, line := q.line, view := q.view, data := d, dirty := 0, perm := p, key := q.key, way := 0
    valid := BitVec.allOnes 128 }

/-- The permission that a grant gives (Table 3.5). -/
def permOf (grant : Nat) : Perm := if grant = 2 then .exclusive else if grant = 3 then .through else .shared

/-- A line of a slice in LOSTALL may not be accessed, even where a cache holds it (R104). -/
def lostStop (s : State) (q : Req) : Option Stop :=
  let pa := q.line * 128
  if s.region q.part pa = .unbacked && (s.part q.part).lostAll.contains (s.home q.part pa).slice then some (.unbNores pa) else none

/-- The L1 line of a core that an access of a class may use; one held under the other kind of class is given up first. The KEY, which the
tag holds too (R38), is not compared: an access under one KEY hits a line held under another (DESIGN CHOICE, log 82). -/
def lookupL1 (s : State) (core : Nat) (q : Req) (cls : Cls) : Res (Option L1Line) :=
  let k := lineKey core q.line q.view
  match lostStop s q with
  | some w => .stop s w
  | none =>
    match Tbl.find? s.caches.l1 k with
    | none => .ok s none
    | some l =>
      if decide (l.perm = .sinv) == decide (cls = .sinv) && cls != .unc then .ok (touchL1 s core q.line l.way) (some l)
      else (evictL1 s q.part k l).bind fun s _ => .ok s none

/-- An L1 receives a line with what its home grants (Table 3.5); without a grant it does not allocate. -/
def receiveL1 (s : State) (core : Nat) (q : Req) (r : Reply) : Res LineData :=
  if r.grant = 0 then .ok s r.data
  else (installL1 s q.part core (freshL1 core q r.data (permOf r.grant))).bind fun s _ => .ok s r.data

/-- A read of a line by a core (R38, R39): the bytes named by `need` are wanted. -/
def coreRead (s : State) (core : Nat) (q : Req) (cls : Cls) (need : ByteMask) : Res LineData :=
  (lookupL1 s core q cls).bind fun s hit =>
    let useful := match hit with
      | some l => need &&& ~~~l.valid == 0
      | none => false
    match hit, useful with
    | some l, true => .ok s l.data
    | _, _ =>
      match cls with
      | .dir => (homeAsk s q 0).bind fun s r => receiveL1 s core q r
      | .sinv =>
        (homeAsk s { q with who := .engine core } 5).bind fun s r =>
          match hit with
          | some l =>
            let d := mergeLine r.data l.data l.dirty
            .ok (s.setL1 (lineKey core q.line q.view) { l with data := d, valid := BitVec.allOnes 128 }) d
          | none => (installL1 s q.part core (freshL1 core q r.data .sinv)).bind fun s _ => .ok s r.data
      | .unc => (homeAsk s { q with who := .engine core } 5).bind fun s r => .ok s r.data

/-- A store that a T grant has to write through: at the home as WRS, and in the L1's own copy (R80). -/
def writeThrough (s : State) (k : Nat) (q : Req) (who : Option Walker) (tenant : Nat) (d : LineData) (m : ByteMask) : Res Unit :=
  (homeSend s q 6 who tenant d m).bind fun s _ =>
    match Tbl.find? s.caches.l1 k with
    | some l => .ok (s.setL1 k { l with data := mergeLine l.data d m }) ()
    | none => .ok s ()

/-- A write of a line by a core under a byte mask (R39, R80), of any home. `who` is told when a posted write to a peer or the host
fails. -/
def coreWrite (s : State) (core : Nat) (q : Req) (cls : Cls) (who : Option Walker) (tenant : Nat) (d : LineData)
    (m : ByteMask) : Res Unit :=
  let k := lineKey core q.line q.view
  (lookupL1 s core q cls).bind fun s hit =>
    match cls with
    | .unc => homeSend s { q with who := .engine core } 6 who tenant d m
    | .sinv =>
      match hit with
      | some l => .ok (s.setL1 k { l with data := mergeLine l.data d m, dirty := l.dirty ||| m, valid := l.valid ||| m }) ()
      | none =>
        installL1 s q.part core { freshL1 core q (mergeLine 0 d m) .sinv with dirty := m, valid := m }
    | .dir =>
      let own (l : L1Line) : L1Line :=
        { l with perm := .exclusive, data := mergeLine l.data d m, dirty := l.dirty ||| m }
      match hit with
      | some l =>
        match l.perm with
        | .exclusive => .ok (s.setL1 k (own l)) ()
        | .through => writeThrough s k q who tenant d m
        | _ =>
          (homeAsk s q 2).bind fun s r =>
            if r.grant = 2 then .ok (s.setL1 k (own { l with data := r.data })) ()
            else writeThrough (s.setL1 k { l with perm := .through }) k q who tenant d m
      | none =>
        (homeAsk s q 1).bind fun s r =>
          if r.grant = 2 then installL1 s q.part core (own (freshL1 core q r.data .exclusive))
          else if r.grant = 0 then writeThrough s k q who tenant d m
          else
            (installL1 s q.part core (freshL1 core q r.data .through)).bind fun s _ => writeThrough s k q who tenant d m

/-- Gains exclusive permission on a line for an atomic (R83), answering its data. An atomic performs only in an L1 that has it: where a
program answers ATX with another grant, the atomic waits and asks again. -/
def coreOwn (s : State) (core : Nat) (q : Req) : Res LineData :=
  let k := lineKey core q.line q.view
  let ask (s : State) : Res LineData :=
    (homeAsk s q 7).bind fun s r =>
      (receiveL1 s core q r).bind fun s d => if r.grant = 2 then .ok s d else .stop s (.line k)
  match lostStop s q with
  | some w => .stop s w
  | none =>
    match Tbl.find? s.caches.l1 k with
    | some l =>
      if l.perm = .exclusive then .ok (touchL1 s core q.line l.way) l.data
      else if l.perm = .sinv then (evictL1 s q.part k l).bind fun s _ => ask s
      else ask (s.delL1 k)
    | none => ask s

/-- The atomic's result is written into the line that its L1 owns; a line held for a SINV atomic goes back whole with ATR (R83). -/
def coreAtomicWrite (s : State) (core : Nat) (q : Req) (cls : Cls) (who : Option Walker) (tenant : Nat) (d : LineData)
    (m : ByteMask) : Res Unit :=
  let k := lineKey core q.line q.view
  match Tbl.find? s.caches.l1 k with
  | none => .ok s ()
  | some l =>
    let l := { l with data := mergeLine l.data d m, dirty := l.dirty ||| m }
    if cls = .sinv then
      match homeSend (s.delL1 k) q 8 who tenant l.data (BitVec.allOnes 128) with
      | .ok s _ => .ok s ()
      | .stop s w => .stop (s.setL1 k l) w
    else .ok (s.setL1 k l) ()

/-- An engine's read of a line: served by the core's L1 on a hit, otherwise RDS (R38, R64). -/
def engineRead (s : State) (core : Nat) (q : Req) : Res LineData :=
  match lostStop s q with
  | some w => .stop s w
  | none =>
    let ask : Res Reply := homeAsk s { q with who := .engine core } 5
    match Tbl.find? s.caches.l1 (lineKey core q.line q.view) with
    | some l =>
      if l.valid = BitVec.allOnes 128 then .ok s l.data else ask.bind fun s r => .ok s (mergeLine r.data l.data l.dirty)
    | none => ask.bind fun s r => .ok s r.data

/-- An engine's write of a line: into a line the core's L1 holds exclusive, otherwise WRS (R64). -/
def engineWrite (s : State) (core : Nat) (q : Req) (who : Option Walker) (tenant : Nat) (d : LineData) (m : ByteMask) :
    Res Unit :=
  let k := lineKey core q.line q.view
  let home (s : State) : Res Unit := homeSend s { q with who := .engine core } 6 who tenant d m
  match lostStop s q with
  | some w => .stop s w
  | none =>
    match Tbl.find? s.caches.l1 k with
    | some l =>
      if l.perm = .exclusive then .ok (s.setL1 k { l with data := mergeLine l.data d m, dirty := l.dirty ||| m }) ()
      else if l.perm = .sinv then
        (home s).bind fun s _ =>
          .ok (s.setL1 k { l with data := mergeLine l.data d m, dirty := l.dirty &&& ~~~m, valid := l.valid ||| m }) ()
      else home s
    | none => home s

/-- The dirty bytes of a SINV line are written at its home, and the line stays, clean (R39, R128). -/
def cleanSinv (s : State) (part k : Nat) (l : L1Line) : Res Unit :=
  (homeSend s { l1Req part l with who := .engine l.core } 6 none 0 l.data l.dirty).orDrop.bind fun s _ =>
    match Tbl.find? s.caches.l1 k with
    | some l' => .ok (s.setL1 k { l' with dirty := 0 }) ()
    | none => .ok s ()

/-- Every dirty SINV byte of an L1 is written back (R128, R39). -/
def sinvWriteBack (s : State) (part core : Nat) : Res Unit :=
  Res.forEach s (fun s k =>
    match Tbl.find? s.caches.l1 k with
    | none => .ok s ()
    | some l => cleanSinv s part k l)
    ((s.caches.l1.filter fun e => e.2.core = core && e.2.perm = .sinv && e.2.dirty != 0).map (·.1))

/-- Every SINV line of an L1 is invalidated (R128, R39). -/
def sinvInvalidate (s : State) (core : Nat) : State :=
  s.setCaches { s.caches with l1 := s.caches.l1.filter fun e => !(e.2.core = core && e.2.perm = .sinv) }

/-- A line to which a write of this core has gone while a peer still has to acknowledge its probe: the write is not performed yet, and a
release waits for it (R74, R120). -/
def State.unperformed (s : State) (core : Nat) : Option Nat :=
  (s.caches.busy.find? fun e => handsOver e.2.event && reqTag e.2.access.who = core).map (·.1)

/-- The L1 effect of a release of crew scope or wider (R128). -/
def releaseL1 (s : State) (part core scope : Nat) : Res Unit :=
  if scope = 0 then .ok s ()
  else
    (sinvWriteBack s part core).bind fun s _ =>
      match s.unperformed core with
      | some k => .stop s (.line k)
      | none => .ok s ()

/-- The L1 effect of an acquire of crew scope or wider (R128). -/
def acquireL1 (s : State) (part core scope : Nat) : Res Unit :=
  if scope = 0 then .ok s () else (sinvWriteBack s part core).bind fun s _ => .ok (sinvInvalidate s core) ()

/-- Writes an L1 back and empties it (R422, R435). -/
def flushL1 (s : State) (part core : Nat) : Res Unit :=
  Res.forEach s (fun s k =>
    match Tbl.find? s.caches.l1 k with
    | none => .ok s ()
    | some l => evictL1 s part k l) ((s.caches.l1.filter fun e => e.2.core = core).map (·.1))

/-- The state that an access leaves, whether it was performed or not. -/
def Res.state {α : Type} : Res α → State
  | .ok s _ => s
  | .stop s _ => s

end Sys2Proof.Machine
end

