-- ==== Sys2Proof/Machine/Mmu.lean ====
section
/-! DEFINITION. Translation (06_translation R146 to R168, 01 R17 to R23, 04 R90): the fault detail word, the walk of one or two
stages with its checks, the TLBs, the walk queues, page requests and the interrupts of a function. -/

namespace Sys2Proof.Machine

/-- ACCESS of Table 6.9. -/
def Access.code : Access → Nat
  | .read => 0
  | .write => 1
  | .atomic => 2
  | .fetch => 3
  | .engRead => 4
  | .engWrite => 5

/-- The fault detail word (Table 6.9). -/
def detailWord (reason stage level : Nat) (table : Bool) (acc : Access) : BitVec 32 :=
  BitVec.ofNat 32 (reason + stage * 32 + level * 128 + (if table then 512 else 0) + acc.code * 1024)

/-- XLATE_PERM with a reason (Tables 6.10, 13.4). -/
def xperm (reason stage level : Nat) (table : Bool) (acc : Access) : XFault :=
  .trap 6 (detailWord reason stage level table acc)

/-- A number read from partition physical memory by the control core or the walk unit: an RDS event under key 0 (R147). -/
def readPhys (s : State) (p pa n : Nat) : Res Nat :=
  (sliceEvent s (ctlReq p (pa / 128) 0 false) 5 0 0).bind
    fun s r => .ok s (lineField r.data (pa % 128) n)

/-- A number written there: a WRS event (R64). -/
def writePhys (s : State) (p pa n v : Nat) : Res Unit :=
  (sliceEvent s (ctlReq p (pa / 128) 0 false) 6
      (lineWith (pa % 128) n v) (byteSpan (pa % 128) n)).bind fun s _ => .ok s ()

/-- The reason of Table 1.3 for an address where a table may not lie (R147). -/
def tableReason : Region → Nat
  | .local => 0
  | .unpopulated => 1
  | .unbacked => 2
  | .reserved => 3
  | .peer _ => 4
  | .registers => 5
  | .host => 6

/-- Pages of a run (R150), and the page unit of a level in 4 KiB frames (Table 6.3). -/
def runLen (span : Nat) : Nat := if span = 1 then 4 else if span = 2 then 16 else 1
def unitOf (level : Nat) : Nat := if level = 1 then 0x40000 else if level = 2 then 0x200 else 1

/-- Index of a level (Table 6.3). -/
def levelIdx (va level : Nat) : Nat := if level = 0 then bits va 39 13 else bits va (39 - 9 * level) 9

/-- A malformed entry (R148 to R151); `s1guest` is true for stage 1 of a guest (R154). -/
def malformed (pte : W64) (level idx : Nat) (s1guest : Bool) : Bool :=
  if !pte.getLsbD 1 then level == 3 || fld pte 2 14 != 0 || fld pte 56 8 != 0
  else
    let span := fld pte 11 2
    let run := runLen span
    let u := unitOf level
    let pfn := fld pte 16 40
    level == 0 || pte.getLsbD 15 || fld pte 62 2 != 0 || fld pte 5 2 == 3 || span == 3 || (level != 3 && span == 1)
      || pfn < idx % run * u || (pfn - idx % run * u) % (u * run) != 0
      || (s1guest && (pte.getLsbD 9 || pte.getLsbD 10 || pte.getLsbD 13 || fld pte 56 6 != 0))

/-- A leaf that a walk has reached: entry, its address, the page's first address and its size. -/
structure Leaf where
  pte : W64
  entry : Nat
  base : Nat
  size : Nat
  level : Nat
  deriving DecidableEq, Repr

def leafOf (pte : W64) (entry level idx : Nat) : Leaf :=
  let run := runLen (fld pte 11 2)
  let u := unitOf level
  { pte := pte, entry := entry, base := (fld pte 16 40 - idx % run * u) * 4096, size := run * u * 4096, level := level }

/-- What a walk has so far: the entries it read that are not leaves, for the upper-level cache (R158). -/
abbrev Upper := List (Nat × Nat × Nat × W64)

/-- Reads a table entry, from the walker's upper-level cache where it holds it (R158, R147). -/
def readEntry (s : State) (p tenant stage entry : Nat) (up : Upper) : Res W64 :=
  match up.find? fun e => e.1 = tenant && e.2.1 = stage && e.2.2.1 = entry with
  | some e => .ok s e.2.2.2
  | none => (readPhys s p entry 8).bind fun s v => .ok s (w64 v)

/-- One stage-2 walk, or a stage-1 walk of a tenant without stage 2 (R151). Table addresses are partition physical. -/
def walkOne (s : State) (p tenant stage : Nat) (inTable : Bool) (acc : Access) (va : Nat) (up : Upper) :
    Nat → Nat → Nat → Res (Except XFault (Leaf × Upper))
  | 0, _, _ => .ok s (.error (xperm 13 stage 3 inTable acc))
  | fuel + 1, table, level =>
    let idx := levelIdx va level
    let entry := table + 8 * idx
    let r := tableReason (s.region p entry)
    if r != 0 then .ok s (.error (xperm r stage level true acc))
    else
      (readEntry s p tenant stage entry up).bind fun s pte =>
        if !pte.getLsbD 0 then .ok s (.error (.absent stage level inTable entry va))
        else if malformed pte level idx false then .ok s (.error (xperm 13 stage level inTable acc))
        else if pte.getLsbD 1 then .ok s (.ok (leafOf pte entry level idx, up))
        else
          walkOne s p tenant stage inTable acc va ((tenant, stage, entry, pte) :: up) fuel (fld pte 16 40 * 4096) (level + 1)

/-- Sets A, and D for a write, in a leaf by compare-and-swap against the value read (R155). -/
def setAD (s : State) (p : Nat) (l : Leaf) (dirty : Bool) : Res Unit :=
  let v := l.pte ||| 0x80#64 ||| (if dirty then 0x100#64 else 0)
  if v = l.pte then .ok s () else writePhys s p l.entry 8 v.toNat

/-- The row of Table 1.3 in which an address lies. -/
def regionRow (pa : Nat) : Nat :=
  if pa < 0x2000000000 then 0 else if pa < 0x3000000000 then 1 else if pa < 0x4000000000 then 2
  else if pa < 0x14000000000 then 3 + (pa / 0x4000000000 - 1) else if pa < 0x18000000000 then 7
  else if pa < 0x8000000000000 then 8 else 9

def clsOf (n : Nat) : Cls := if n = 0 then .dir else if n = 1 then .sinv else .unc

/-- CLS of two stages (R154). -/
def clsJoin (a b : Nat) : Nat := if a = 2 || b = 2 then 2 else if a = 1 || b = 1 then 1 else 0

/-- The permission an access needs (Table 6.5). -/
def permitted (acc : Access) (r w x : Bool) : Bool :=
  match acc with
  | .read | .engRead => r
  | .write | .engWrite => w
  | .atomic => r && w
  | .fetch => x

/-- The region check of a leaf (R18): the reason of its failure, or 0. -/
def regionCheck (s : State) (p : Nat) (base size : Nat) (unb : Bool) (cls : Nat) : Nat :=
  let last := base + size - 1
  if regionRow base != regionRow last then 17
  else
    match regionRow base with
    | 0 => if unb then 2 else if s.localBytes p < base + size then 1 else 0
    | 1 => if unb then 0 else 2
    | 2 => if unb then 2 else 3
    | 7 => if unb then 2 else 5
    | 8 => if unb then 2 else 3
    | 9 => if unb then 2 else if !s.straps.cxlCache && cls != 2 then 6 else 0
    | n => if unb then 2 else if (s.part p).req.getLsbD (17 + (n - 3)) then 0 else 4

/-- Checks 1 to 4 of Table 6.4 for a leaf whose combined class is `cls`: its fault, if one of them fails (R18, R90, R60, R56). -/
def leafFault (s : State) (p : Nat) (l : Leaf) (cls stage : Nat) (table : Bool) (acc : Access) : Option XFault :=
  let unb := l.pte.getLsbD 9
  let late := l.pte.getLsbD 10
  let view := l.pte.getLsbD 13
  let isLocal := regionRow l.base = 0
  let bad (reason : Nat) : Option XFault := some (xperm reason stage l.level table acc)
  let reason := regionCheck s p l.base l.size unb (fld l.pte 5 2)
  if reason != 0 then bad reason
  else if unb && (cls != 0 || (late && 65536 < l.size)) then bad 12
  else if view && (unb || !isLocal || s.localBytes p - s.localBytes p / 1024 < l.base + l.size) then bad 9
  else if isLocal && (s.keyTag p (fld l.pte 56 6)).isNone then bad 10
  else none

/-- The 64 KiB frames that a page covers (R157). -/
def framesOf (base size : Nat) : List Nat :=
  (List.range ((base + size - 1) / 65536 - base / 65536 + 1)).map fun i => base / 65536 + i

/-- The frame-key shadow check (R157): the shadow with the page recorded, or none for KEY_ALIAS. -/
def shadowCheck (sh : List (Nat × Byte)) (key : Nat) : List Nat → Option (List (Nat × Byte))
  | [] => some sh
  | f :: fs =>
    let b := Tbl.getD sh f 0
    if b.getLsbD 6 then (if fld b 0 6 = key then shadowCheck sh key fs else none)
    else shadowCheck (Tbl.put sh f (BitVec.ofNat 8 (64 + key))) key fs

/-- The check of a leaf of stage 2 that maps a table frame (R151, R152): as that of any leaf, but that nothing is installed of it, so the
shadow keeps no record; and the table must lie in local memory (R147). -/
def tableLeafFault (s : State) (p : Nat) (l : Leaf) (entry : Nat) (acc : Access) : Option XFault :=
  match leafFault s p l (fld l.pte 5 2) 2 true acc with
  | some f => some f
  | none =>
    let bad := tableReason (s.region p entry)
    if bad != 0 then some (xperm bad 2 l.level true acc)
    else if (shadowCheck (s.part p).shadow (fld l.pte 56 6) (framesOf l.base l.size)).isNone then some (.trap 7 (detailWord 0 2 l.level true acc))
    else none

/-- A stage-1 walk of a guest: every table address goes through stage 2 (R154, Table 6.6). `tabs` are the stage-2 leaves of the table
frames so far: A is set in them only if the whole walk succeeds (R155). -/
def walkGuest (s : State) (p tenant s2root : Nat) (acc : Access) (va : Nat) (up : Upper) (tabs : List Leaf) :
    Nat → Nat → Nat → Res (Except XFault (Leaf × List Leaf × Upper))
  | 0, _, _ => .ok s (.error (xperm 13 1 3 false acc))
  | fuel + 1, table, level =>
    let idx := levelIdx va level
    let gpa := table + 8 * idx
    (walkOne s p tenant 2 true acc gpa up 4 s2root 0).bind fun s r =>
      match r with
      | .error f => .ok s (.error f)
      | .ok (l2, up) =>
        let entry := l2.base + gpa % l2.size
        match tableLeafFault s p l2 entry acc with
        | some f => .ok s (.error f)
        | none =>
          (readEntry s p tenant 1 entry up).bind fun s pte =>
            if !pte.getLsbD 0 then .ok s (.error (.absent 1 level false entry va))
            else if malformed pte level idx true then .ok s (.error (xperm 13 1 level false acc))
            else if pte.getLsbD 1 then .ok s (.ok (leafOf pte entry level idx, tabs ++ [l2], up))
            else
              walkGuest s p tenant s2root acc va ((tenant, 1, entry, pte) :: up) (tabs ++ [l2]) fuel (fld pte 16 40 * 4096) (level + 1)

/-- The outcome of a walk that is not stopped: a translation, or the fault. -/
abbrev WalkOut := Except XFault TlbEntry

/-- An address lies in the aperture of a peer link that is not Up (R22, R168). -/
def State.downAt (s : State) (p pa : Nat) : Bool :=
  match s.region p pa with
  | .peer l => (s.link l).state != 2
  | _ => false

def Access.writes : Access → Bool
  | .write | .atomic | .engWrite => true
  | .read | .fetch | .engRead => false

/-- The checks of a leaf (Table 6.4) and, when all pass, the shadow record, A and D, and the translation (R152, R155, R157).
`guest` is the stage-1 leaf of a guest with the stage-2 leaves of its table frames, which receive A only (R154). A permission that
the stage-1 leaf lacks is reported of it (log 79). The frames checked and recorded in the shadow are those of the leaf that carries KEY:
for a guest the whole leaf of stage 2, though a smaller leaf of stage 1 makes the installed page smaller (DESIGN CHOICE, log 86). A walk
whose access cannot be performed, for a link that is not Up or for the class of an atomic, installs nothing and sets no bit (R155,
R168, R83). -/
def checkLeaf (s : State) (p tenant va : Nat) (acc : Access) (ahead : Bool) (l : Leaf) (guest : Option (Leaf × List Leaf)) :
    Res WalkOut :=
  let l1 := guest.map (·.1)
  let stage := if l1.isSome then 2 else if (s.tenant? tenant).any (·.s2en) then 2 else 1
  let bad (reason : Nat) : Res WalkOut := .ok s (.error (xperm reason stage l.level false acc))
  let and1 (n : Nat) := l.pte.getLsbD n && (l1.map fun x => x.pte.getLsbD n).getD true
  let cls := clsJoin (fld l.pte 5 2) ((l1.map fun x => fld x.pte 5 2).getD 0)
  let key := fld l.pte 56 6
  let isLocal := regionRow l.base = 0
  match leafFault s p l cls stage false acc with
  | some f => .ok s (.error f)
  | none =>
    let sh := if isLocal then shadowCheck (s.part p).shadow key (framesOf l.base l.size) else some (s.part p).shadow
    match sh with
    | none => .ok s (.error (.trap 7 (detailWord 0 stage l.level false acc)))
    | some sh =>
      if !permitted acc (and1 2) (and1 3) (and1 4) then
        match l1 with
        | none => bad 14
        | some x =>
          if permitted acc (x.pte.getLsbD 2) (x.pte.getLsbD 3) (x.pte.getLsbD 4) then bad 14
          else .ok s (.error (xperm 14 1 x.level false acc))
      else if s.downAt p l.base then .ok s (.error (.trap 0xD 0))
      else if acc = .atomic && cls = 2 then .ok s (.error (.trap 0xA 0))
      else
        let wr := acc.writes
        let size := min l.size ((l1.map (·.size)).getD l.size)
        let gpa := (l1.map fun x => (x.base + va % x.size) / l.size * l.size).getD 0
        let off := (l1.map fun x => (x.base + va % x.size) % l.size).getD (va % l.size)
        let pa := l.base + off / size * size
        let d := (l.pte.getLsbD 8 && (l1.map fun x => x.pte.getLsbD 8).getD true) || wr
        let e : TlbEntry :=
          { tenant := tenant, va := va / size * size, size := size, pa := pa, gpa := gpa, gsize := if l1.isSome then l.size else 0
            r := and1 2, w := and1 3, x := and1 4, cls := clsOf cls, unb := l.pte.getLsbD 9, late := l.pte.getLsbD 10
            view := l.pte.getLsbD 13, key := if isLocal then key else 0
            global := ((l1.map (·.pte)).getD l.pte).getLsbD 14, dirty := d && !ahead, unused := ahead }
        let s := s.setPart p { s.part p with shadow := sh }
        if ahead then .ok s (.ok e)
        else
          match guest with
          | none => (setAD s p l wr).bind fun s _ => .ok s (.ok e)
          | some (x, tabs) =>
            (Res.forEach s (fun s t => setAD s p t false) tabs).bind fun s _ =>
              (setAD s p l wr).bind fun s _ => (setAD s p x wr).bind fun s _ => .ok s (.ok e)

/-- The outcome of a walk with the upper-level entries to keep: none of a walk that ended in a fault (R158). -/
def keepUpper (old up : Upper) (r : Res WalkOut) : Res (WalkOut × Upper) :=
  r.bind fun s o => match o with
    | .ok e => .ok s (.ok e, up)
    | .error f => .ok s (.error f, old)

/-- A whole walk of a tenant's virtual address (R151, R152, R154). A tenant whose context has been taken away while a launch of it is still
accepted has no root to walk from: its walk fails as one that meets a malformed entry at level 0 (DESIGN CHOICE, log 87). -/
def walkAll (s : State) (tenant va : Nat) (acc : Access) (ahead : Bool) (up : Upper) : Res (WalkOut × Upper) :=
  match s.tenant? tenant with
  | none => .ok s (.error (xperm 13 1 0 false acc), up)
  | some t =>
    if t.s2en then
      (walkGuest s t.part tenant t.s2root acc va up [] 4 t.s1root 0).bind fun s r =>
        match r with
        | .error f => .ok s (.error f, up)
        | .ok (l1, tabs, up1) =>
          let gpa := l1.base + va % l1.size
          (walkOne s t.part tenant 2 false acc gpa up1 4 t.s2root 0).bind fun s r =>
            match r with
            | .error f => .ok s (.error f, up)
            | .ok (l2, up2) => keepUpper up up2 (checkLeaf s t.part tenant va acc ahead l2 (some (l1, tabs)))
    else
      (walkOne s t.part tenant 1 false acc va up 4 t.s1root 0).bind fun s r =>
        match r with
        | .error f => .ok s (.error f, up)
        | .ok (l, up1) => keepUpper up up1 (checkLeaf s t.part tenant va acc ahead l none)

/-- The entry covers an address of a tenant (R158). -/
def TlbEntry.covers (e : TlbEntry) (tenant va : Nat) : Bool := e.tenant = tenant && e.va ≤ va && va < e.va + e.size

/-- Adds an entry to a TLB of a given size; which entry a full TLB gives up is not said (log 10). -/
def tlbAdd (cap seed : Nat) (l : List TlbEntry) (e : TlbEntry) : List TlbEntry :=
  let l := l.filter fun x => !(x.tenant = e.tenant && x.va = e.va && x.size = e.size)
  let l := if l.length < cap then l else l.eraseIdx (Config.victim seed cap % cap)
  e :: l

def State.tlbOf (t : List (Nat × List TlbEntry)) (i : Nat) : List TlbEntry := Tbl.getD t i []

/-- Adds an entry to an L2 TLB, of 8 ways in each of 256 sets (Table 6.7); which set an entry goes to is not said (log 10). -/
def l2TlbAdd (seed : Nat) (l : List TlbEntry) (e : TlbEntry) : List TlbEntry :=
  let set (x : TlbEntry) : Nat := Config.tlbSet x.tenant x.va x.size % 256
  tlbAdd 8 seed (l.filter fun x => set x = set e) e ++ l.filter fun x => set x != set e

/-- Installs a translation in a core's L1 TLB and its cluster's L2 TLB (Table 6.7). -/
def installTlb (s : State) (core : Nat) (e : TlbEntry) : State :=
  let m := s.mmu
  s.setMmu
    { m with
      l1tlb := Tbl.put m.l1tlb core (tlbAdd 64 s.steps (State.tlbOf m.l1tlb core) e)
      l2tlb := Tbl.put m.l2tlb (core / 8) (l2TlbAdd s.steps (State.tlbOf m.l2tlb (core / 8)) e) }

/-- Removes from every TLB and upper-level cache what a test covers (R160, R168). -/
def dropTlb (s : State) (f : TlbEntry → Bool) (g : Nat × Nat × Nat × W64 → Bool) : State :=
  let cut (t : List (Nat × List TlbEntry)) := Tbl.mapVal (fun _ l => l.filter fun e => !f e) t
  let m := s.mmu
  s.setMmu
    { m with
      l1tlb := cut m.l1tlb, l2tlb := cut m.l2tlb, ahead := cut m.ahead
      upper := Tbl.mapVal (fun _ l => l.filter fun e => !g e) m.upper }

/-- What a translation gives an access: the partition physical address and the attributes. -/
structure Xlated where
  pa : Nat
  cls : Cls
  key : Nat
  view : Bool
  unb : Bool
  late : Bool
  deriving DecidableEq, Repr

/-- The outcome of asking the TLBs. -/
inductive XRes where
  | ok (x : Xlated)
  | fault (f : XFault)
  | miss
  deriving DecidableEq, Repr

/-- The entry may be used for an access of an address (R153, R155, R162). -/
def TlbEntry.serves (e : TlbEntry) (tenant a : Nat) (acc : Access) : Bool :=
  e.covers tenant a && permitted acc e.r e.w e.x && (!acc.writes || e.dirty) && !e.unused

/-- What an entry gives an access (R22, R83). -/
def TlbEntry.use (e : TlbEntry) (s : State) (a : Nat) (acc : Access) : XRes :=
  let pa := e.pa + (a - e.va)
  if s.downAt (((s.tenant? e.tenant).map (·.part)).getD 0) pa then .fault (.trap 0xD 0)
  else if acc = .atomic && e.cls = .unc then .fault (.trap 0xA 0)
  else .ok { pa := pa, cls := e.cls, key := e.key, view := e.view, unb := e.unb, late := e.late }

/-- A translation from the TLBs (R17, R22, R83, R155, R159). `known` holds the outcomes of ended walks. -/
def xlate (s : State) (core tenant : Nat) (va : W64) (acc : Access) (known : List (Nat × XFault)) : XRes :=
  let a := va.toNat
  if 2 ^ 52 ≤ a then .fault (xperm 15 0 0 false acc)
  else
    match ((State.tlbOf s.mmu.l1tlb core) ++ (State.tlbOf s.mmu.l2tlb (core / 8))).find? fun e => e.serves tenant a acc with
    | some e => e.use s a acc
    | none =>
      match Tbl.find? known (a / 4096) with
      | some f => .fault f
      | none => .miss

/-- A translation for a tensor-record command, whose tensor walker has a TLB of its own (R162). -/
def xlateRec (s : State) (core tenant : Nat) (va : W64) (acc : Access) (known : List (Nat × XFault)) : XRes :=
  match xlate s core tenant va acc known with
  | .miss =>
    match (State.tlbOf s.mmu.ahead core).find? fun e => e.serves tenant va.toNat acc with
    | some e => e.use s va.toNat acc
    | none => .miss
  | x => x

/-- A hit in the cluster's L2 TLB fills the core's L1 TLB (Table 6.7). -/
def fillTlb (s : State) (core tenant : Nat) (va : W64) (acc : Access) : State :=
  let m := s.mmu
  if (State.tlbOf m.l1tlb core).any fun e => e.serves tenant va.toNat acc then s
  else
    match (State.tlbOf m.l2tlb (core / 8)).find? fun e => e.serves tenant va.toNat acc with
    | some e => s.setMmu { m with l1tlb := Tbl.put m.l1tlb core (tlbAdd 64 s.steps (State.tlbOf m.l1tlb core) e) }
    | none => s

/-- The pseudo-core under which the distributor and the control core translate; it has no L1 lines. -/
def ctlCore : Nat := 128

/-- The core whose TLBs a waiter uses. -/
def Walker.core : Walker → Nat
  | .split _ c => c
  | .command c _ => c
  | .stream c _ => c
  | .ahead c _ => c
  | .prefetch c _ _ _ _ => c
  | .launch _ | .word _ | .migration | .slice _ _ _ => ctlCore

/-- The translations of a page that a core would use but that lack the permission for an access are removed before it is walked again
(R159). -/
def dropDenied (s : State) (core tenant page : Nat) (acc : Access) : State :=
  let m := s.mmu
  let cut (t : List (Nat × List TlbEntry)) (i : Nat) : List (Nat × List TlbEntry) :=
    Tbl.upd t i fun l => l.filter fun e => !(e.covers tenant (page * 4096) && !permitted acc e.r e.w e.x)
  s.setMmu { m with l1tlb := cut m.l1tlb core, l2tlb := cut m.l2tlb (core / 8), ahead := cut m.ahead core }

/-- Walks of a tenant that are queued, and those that run (R161). -/
def Mmu.queued (m : Mmu) (t : Nat) : List (Nat × Walk) := m.walks.filter fun e => e.2.tenant = t && e.2.running.isNone
def Mmu.running (m : Mmu) (t : Nat) : List (Nat × Walk) := m.walks.filter fun e => e.2.tenant = t && e.2.running.isSome

/-- A miss enters the tenant's walk queue, or joins a walk of the page; with the queue full nothing is queued (R161). -/
def queueWalk (s : State) (tenant page : Nat) (acc : Access) (who : Walker) : State :=
  let s := match who with
    | .ahead _ _ => s
    | w => dropDenied s w.core tenant page acc
  let m := s.mmu
  match m.walks.find? fun e => e.2.tenant = tenant && e.2.page = page with
  | some e =>
    if e.2.waiters.contains (who, acc) then s
    else s.setMmu { m with walks := Tbl.put m.walks e.1 { e.2 with waiters := e.2.waiters ++ [(who, acc)] } }
  | none =>
    if 64 ≤ (m.queued tenant).length then s
    else
      s.setMmu
        { m with walks := m.walks ++ [(Tbl.fresh m.walks,
            { tenant := tenant, page := page, access := acc, running := none, waiters := [(who, acc)] })] }

/-- FLTINFO and FLTADDR of the tenant's function (Table 6.11). -/
def noteFault (s : State) (tenant : Nat) (detail : BitVec 32) (addr : W64) : State :=
  let f := s.funcOf tenant
  s.setFunc f { s.func f with fltinfo := detail, fltaddr := addr }

/-- A fault of an access at an address, noted where it is of a cause that the registers name (R166). -/
def noteXlate (s : State) (tenant cause : Nat) (detail : BitVec 32) (addr : W64) : State :=
  if cause = 6 || cause = 7 then noteFault s tenant detail addr else s

/-- Outstanding requests of a function (R167). -/
def Mmu.outstanding (m : Mmu) (f : Nat) : List PageReq := m.requests.filter fun r => r.func = f

/-- Lanes join those that are attached to a request (R163). -/
def attachLanes (l : List Attached) (a : Attached) : List Attached :=
  let same (x : Attached) : Bool := x.split = a.split && x.access = a.access
  if l.any same then l.map fun x => if same x then { x with lanes := x.lanes ||| a.lanes } else x else l ++ [a]

/-- The address that a request reports: that of its lowest lane or its element, as the stage that failed sees it, or that of the table entry
being mapped (Table 6.12). `ad` is what the walk of the page was translating. -/
def requestAddr (table : Bool) (ad : Nat) (lanes : List Attached) (eng : List AttachedEng) : Nat :=
  let a := ((lanes.map (·.addr)) ++ eng.map (·.addr)).headD 0
  if table then ad else ad / 4096 * 4096 + a.toNat % 4096

/-- Attaches lanes, or an engine's element, to the request of a missing entry, making one if there is none (R163, R164, R166). The answer
says whether it could; with 256 requests outstanding it cannot (R167). -/
def attachReq (s : State) (tenant stage level : Nat) (table : Bool) (entry addr : Nat) (acc : Access)
    (lanes : List Attached) (eng : List AttachedEng) : State × Bool :=
  let f := s.funcOf tenant
  let m := s.mmu
  let same (r : PageReq) : Bool := r.tenant = tenant && r.stage = stage && r.entry = entry
  if m.requests.any same then
    (s.setMmu
      { m with requests := m.requests.map fun r =>
          if same r then
            { r with lanes := lanes.foldl attachLanes r.lanes, engines := r.engines ++ eng.filter fun e => !r.engines.contains e }
          else r }, true)
  else if 256 ≤ (m.outstanding f).length then (s, false)
  else
    let slot := ((List.range 256).find? fun k => (m.outstanding f).all fun r => r.slot != k).getD 0
    let fn := s.func f
    let gen := (Tbl.getD fn.gens slot 0 + 1) % 256
    let s := s.setFunc f { fn with gens := Tbl.put fn.gens slot gen }
    (s.setMmu
      { m with requests := m.requests ++ [{ func := f, slot := slot, gen := gen, tenant := tenant, stage := stage
                                            level := level, table := table, access := acc, addr := requestAddr table addr lanes eng
                                            entry := entry, written := false, lanes := lanes, engines := eng }] }, true)

/-- The missing entry of a request. -/
def PageReq.missing (r : PageReq) : XFault := .absent r.stage r.level r.table r.entry r.addr

/-- The missing entry to which a lane of a split is attached (R163). -/
def Mmu.attached? (m : Mmu) (r : SplitRef) (lane : Nat) : Option XFault :=
  (m.requests.find? fun q => q.lanes.any fun a => a.split = r && a.lanes.getLsbD lane).map PageReq.missing

/-- An access of an engine is attached to a request (R164). -/
def Mmu.attachedEng (m : Mmu) (who : Walker) (a : W64) : Bool :=
  m.requests.any fun q => q.engines.any fun e => e.who = who && e.addr = a

/-- The attached lanes and engine accesses that a test names go; the requests stay (R164). -/
def detach (s : State) (lane : Attached → Bool) (eng : AttachedEng → Bool) : State :=
  s.setMmu
    { s.mmu with requests := s.mmu.requests.map fun q =>
        { q with lanes := q.lanes.filter fun a => !lane a, engines := q.engines.filter fun e => !eng e } }

/-- Nobody whom a test names waits for a walk any more, or is told of the answer to a read that is under way. -/
def forget (s : State) (mine : Walker → Bool) : State :=
  { s with
    outbound := s.outbound.filter fun e => e.2.write || !e.2.who.any mine
    mmu := { s.mmu with walks := Tbl.mapVal (fun _ w => { w with waiters := w.waiters.filter fun x => !mine x.1 }) s.mmu.walks } }

/-- Nothing is under way for a split any more: its instruction has been squashed. -/
def detachSplit (s : State) (r : SplitRef) : State :=
  detach (forget s fun w => match w with
    | .split x _ => x = r
    | _ => false) (fun a => a.split = r) fun _ => false

/-- Nothing is under way for an engine command or stream any more. -/
def detachWho (s : State) (w : Walker) : State := detach (forget s fun x => x = w) (fun _ => false) fun e => e.who = w

/-- The translation of a hardware access for a tenant; a miss has to be walked first, in the tenant's turn (R161). -/
def xlateNow (s : State) (core tenant : Nat) (va : W64) (acc : Access) (known : List (Nat × XFault)) : Res (Except XFault Xlated) :=
  match xlate s core tenant va acc known with
  | .ok x => .ok (fillTlb s core tenant va acc) (.ok x)
  | .fault f => .ok s (.error f)
  | .miss => .stop s (.walk core (va.toNat / 4096) acc)

end Sys2Proof.Machine
end

