-- ==== Sys2Proof/Machine/Virtual.lean ====
section
/-! DEFINITION. Accesses of virtual memory by the device itself for a tenant: trap frames, launch records, images, tensor
records, completion words, saved contexts (13 R361; 14 R371, R377, R383; 15 R398). Each goes through the tenant's tables. -/

namespace Sys2Proof.Machine

/-- The pieces of a byte range that lie in one line each: address, offset in the line, length. -/
def linePieces (va : Nat) : Nat → Nat → List (Nat × Nat × Nat)
  | 0, _ => []
  | fuel + 1, n =>
    if n = 0 then []
    else
      let o := va % 128
      let k := min n (128 - o)
      (va, o, k) :: linePieces (va + k) fuel (n - k)

/-- A failed hardware access: its fault and the address. -/
abbrev HwFault := XFault × Nat

/-- A line asked for by virtual address, as the slices see it, by a requester that asks the host itself. -/
def reqOf (part core : Nat) (x : Xlated) (answers : List (Nat × Answer)) (keep : List Nat) : Req :=
  { part := part, line := x.pa / 128, view := x.view, key := x.key, who := .l1 core
    answer := Tbl.find? answers (x.pa / 128), keep := keep, asks := true }

/-- Reads bytes of a tenant's virtual memory, line by line, as a core's engine would. `known` holds the outcomes of ended walks. -/
def hwRead (s : State) (core part tenant : Nat) (acc : Access) (known : List (Nat × XFault)) (answers : List (Nat × Answer)) (va n : Nat) :
    Res (Except HwFault (List Byte)) :=
  (linePieces va (n + 1) n).foldl (fun r pc =>
    r.bind fun s acc' =>
      match acc' with
      | .error f => .ok s (.error f)
      | .ok bs =>
        (xlateNow s core tenant (w64 pc.1) acc known).bind fun s x =>
          match x with
          | .error f => .ok s (.error (f, pc.1))
          | .ok x =>
            (engineRead s core { reqOf part core x answers [] with tenant := tenant }).bind fun s d =>
              .ok s (.ok (bs ++ ((toBytes 128 d.toNat).drop pc.2.1).take pc.2.2))) (.ok s (.ok []))

/-- Writes bytes of a tenant's virtual memory as stores of a core (R361, R371). -/
def hwWrite (s : State) (core part tenant : Nat) (who : Option Walker) (known : List (Nat × XFault)) (answers : List (Nat × Answer))
    (va : Nat) (bs : List Byte) : Res (Except HwFault Unit) :=
  (linePieces va (bs.length + 1) bs.length).foldl (fun r pc =>
    r.bind fun s acc' =>
      match acc' with
      | .error f => .ok s (.error f)
      | .ok _ =>
        (xlateNow s core tenant (w64 pc.1) .write known).bind fun s x =>
          match x with
          | .error f => .ok s (.error (f, pc.1))
          | .ok x =>
            let piece := (bs.drop (pc.1 - va)).take pc.2.2
            let d := lineWith pc.2.1 pc.2.2 (leBytes piece)
            let q : Req := { reqOf part core x answers [] with tenant := tenant, asks := false }
            (if core = ctlCore then engineWrite s core q who tenant d (byteSpan pc.2.1 pc.2.2)
             else coreWrite s core q x.cls who tenant d (byteSpan pc.2.1 pc.2.2)).bind
              fun s _ => .ok s (.ok ())) (.ok s (.ok ()))

/-- Reads host memory by the host link (R374, R375). -/
def readHost (s : State) (h n : Nat) : List Byte := readCells s.mem (hostCell h) n

/-- The host refuses an access of the queue interfaces to these bytes (R371, R375). -/
def State.hostRefuses (s : State) (h n : Nat) : Bool := s.straps.hostHoles.any fun e => h < e.1 + e.2 && e.1 < h + n

/-- Writes host memory by the host link. -/
def writeHost (s : State) (h : Nat) (bs : List Byte) : State := { s with mem := writeCells s.mem (hostCell h) bs }

/-- The cause and reason of a failed element or access: those of a fault, or of a stop (R315, R389). -/
def stopCause : Stop → Nat × Nat
  | .writeOnce _ => (6, 11)
  | .unbEvict _ => (8, 0)
  | .unbNores _ => (9, 0)
  | .ecc _ => (0xB, 0)
  | .hostAbort _ => (0x19, 0)
  | .line _ | .miss _ | .remoteRead _ _ _ | .walk _ _ _ => (0, 0)

/-- The address a refusing stop names. -/
def stopAddr : Stop → Nat
  | .writeOnce a => a
  | .unbEvict a => a
  | .unbNores a => a
  | .ecc a => a
  | .hostAbort a => a
  | .line _ | .miss _ | .remoteRead _ _ _ | .walk _ _ _ => 0

/-- Asks the host or a peer for a line, once (R392, R393). -/
def askRemote (s : State) (who : Walker) (part tenant : Nat) (atomic : Bool) (link : Option Nat) (line ev : Nat) : State :=
  if s.outbound.any fun e => e.2.who = some who && e.2.line = line && !e.2.write then s
  else
    s.send { link := link, line := line, ev := ev, write := false, atomic := atomic, data := 0, mask := 0, who := some who
             va := none, tenant := tenant, part := part }

/-- An access of the hardware that cannot be performed yet asks for what it lacks: an answer of the host or of a peer, or a walk. It is
made again when it has come (R161, R392, R393). -/
def waitOn (s : State) (who : Walker) (part tenant : Nat) (w : Stop) : State :=
  match w with
  | .remoteRead link line ev => askRemote s who part tenant false link line ev
  | .walk _ page acc => queueWalk s tenant page acc who
  | _ => s

/-- A split waits for what stopped it: a line or a miss entry, in its turn, an answer that it asks for, or a walk (R37, R67, R161, R392,
R393). -/
def waitStop (s : State) (r : SplitRef) (part tenant : Nat) (atomic : Bool) (w : Stop) : State :=
  match w with
  | .line k => (s.queueFor k (.split r)).waitFor r (.line k)
  | .miss sl => (s.queueFor (missKey sl) (.split r)).waitFor r (.miss sl)
  | .remoteRead link line ev => askRemote (s.waitFor r .answer) (.split r 0) part tenant atomic link line ev
  | .walk core page acc => (queueWalk s tenant page acc (.split r core)).waitFor r .walk
  | _ => s

end Sys2Proof.Machine
end

