-- ==== Sys2Proof/Machine/Retire.lean ====
section
/-! DEFINITION. What ends: tokens, completion words, freed resources, barrier phases that a retirement completes, and kernel
abort (07 R186 to R188, R198; 10 R273; 14 R371; 15 R402). -/

namespace Sys2Proof.Machine

/-- A token of an earlier billet that has come: the snapshot's register holds it too (Table 7.6). -/
def Snapshot.withToken (n : Snapshot) (reg : Nat) (v : W64) : Snapshot :=
  if n.pend.contains reg then
    { n with pend := n.pend.erase reg, sregs := n.sregs.map fun e => if e.1 = reg then (reg, v) else e }
  else n

/-- Writes the token that a scalar register waits for (R313, R273); one that comes while the crew is saved waits for its
resumption. -/
def writeToken (s : State) (r : SplitRef) (reg : Nat) (v : W64) : State :=
  let saved := ((s.group? r.group).bind fun g => s.crew? g.crew).any (·.saved)
  s.updSplit r fun sp =>
    if !sp.pend.contains reg then sp
    else if saved then { sp with tokens := sp.tokens ++ [(reg, v)] }
    else
      { (sp.setS reg v) with
        pend := sp.pend.erase reg, billet := sp.billet.map (·.withToken reg v), staged := sp.staged.map (·.withToken reg v) }

/-- A token's value (Table 11.3). -/
def tokenWord (status cause reason elem : Nat) : W64 :=
  w64 (status + cause * 256 + reason * 65536 + elem * 2 ^ 32)

/-- Lanes of a group that have not exited (R179). -/
def Group.alive (g : Group) : LaneMask := g.allLanes &&& ~~~(g.exited ||| g.off)

/-- Groups of a crew that have not retired. -/
def State.groupsOf (s : State) (crew : Nat) : List (Nat × Group) := s.groups.filter fun e => e.2.crew = crew

/-- Crews of a cord that have not retired. -/
def State.crewsOf (s : State) (launch cord : Nat) : List (Nat × Crew) :=
  s.crews.filter fun e => e.2.launch = launch && e.2.cord = cord

/-- Every split of a group that waits as given is released past its instruction; its release is an acquire of a scope, whose L1 effect
comes before its next instruction (R187, R188). -/
def releaseWaiters (s : State) (gh : Nat) (w : Wait) (scope : Nat) : State :=
  s.updGroup gh fun g =>
    { g with splits := Tbl.mapVal (fun _ sp =>
        if sp.wait = w then { (sp.advance 1) with wait := .none, acquire := max sp.acquire scope } else sp) g.splits }

def Crew.bar (c : Crew) (b : Nat) : Barrier := Tbl.getD c.bars b { phase := 0, count := none, came := [], lanes := [] }

/-- Completes the current phase of a crew barrier if its arrivals reach the count (R186, R187). -/
def barEval (s : State) (crew b : Nat) : State :=
  match s.crew? crew with
  | none => s
  | some c =>
    let x := c.bar b
    match x.count with
    | none => s
    | some n =>
      let need := if n = 0 then (s.groupsOf crew).length else n
      if x.came.length < need then s
      else
        let s := s.updCrew crew fun c => { c with bars := Tbl.put c.bars b { phase := x.phase + 1, count := none, came := [], lanes := [] } }
        (s.groupsOf crew).foldl (fun s e => releaseWaiters s e.1 (.bar b x.phase) 1) s

/-- The lanes of a group that have executed cbar b in the current phase (R188). -/
def Crew.cbarOf (c : Crew) (grpid b : Nat) : LaneMask := Tbl.getD c.cbarLanes (4 * grpid + b) 0

/-- Completes a cord barrier when every crew of the cord has arrived (R188). -/
def cbarEval (s : State) (launch cord b : Nat) : State :=
  match s.launch? launch with
  | none => s
  | some l =>
    let crews := s.crewsOf launch cord
    let arrived (e : Nat × Crew) : Bool :=
      (s.groupsOf e.1).all fun g => g.2.alive &&& ~~~(e.2.cbarOf g.2.grpid b) == 0
    if crews.isEmpty || !(crews.all arrived) || !(crews.any fun e => (s.groupsOf e.1).any fun g => e.2.cbarOf g.2.grpid b != 0) then s
    else
      let phase := Tbl.getD l.cordPhase (4 * cord + b) 0
      let s := s.updLaunch launch fun l => { l with cordPhase := Tbl.put l.cordPhase (4 * cord + b) (phase + 1) }
      crews.foldl (fun s e =>
        let s := s.updCrew e.1 fun c => { c with cbarLanes := c.cbarLanes.filter fun p => p.1 % 4 != b }
        (s.groupsOf e.1).foldl (fun s g => releaseWaiters s g.1 (.cbar b phase) 3) s) s

/-- Frees a 256 KiB slot of a tenant's context pool (R398). -/
def freeSlot (s : State) (tenant : Nat) (region : W64) : State :=
  { s with
    tenants := Tbl.upd s.tenants tenant fun t =>
      match t.pool with
      | some (b, _) => { t with poolUsed := t.poolUsed.erase ((region.toNat - b.toNat) / 2 ^ 18) }
      | none => t }

/-- Removes what a group holds on its core: streams, pending loads of banks, and its region (R324, R284, R398). -/
def freeGroup (s : State) (gh : Nat) : State :=
  match s.group? gh with
  | none => s
  | some g =>
    match s.crew? g.crew with
    | none => { s with groups := Tbl.del s.groups gh }
    | some c =>
      let x := s.core c.core
      let s := s.setCore c.core
        { x with
          streams := x.streams.filter fun e => e.2.group != gh
          banks := Tbl.mapVal (fun _ b => if (b.loading.map (·.group)) = some gh then { b with loading := none } else b) x.banks }
      let t := ((s.launch? g.launch).map (·.tenant)).getD 0
      let s := detach s (fun a => a.split.group = gh) fun a => match a.who with
        | .stream n k => n = c.core && (Tbl.find? x.streams k).any fun st => st.group = gh
        | _ => false
      let s := freeSlot s t g.region
      let s := if g.region2 = 0 then s else freeSlot s t g.region2
      { s with groups := Tbl.del s.groups gh }

/-- Frees a crew: scratchpad, rings, barriers, claims, commands, operations and latches (R28, R198, R332). -/
def freeCrew (s : State) (ch : Nat) : State :=
  match s.crew? ch with
  | none => s
  | some c =>
    let s := (s.groupsOf ch).foldl (fun s e => freeGroup s e.1) s
    let x := s.core c.core
    let s := detach s (fun _ => false) fun a => match a.who with
      | .command n k => n = c.core && (Tbl.find? x.cmds k).any fun k => k.crew = ch
      | _ => false
    let s := s.setCore c.core
      { x with
        claims := x.claims.filter fun e => e.2 / 32 != ch
        cmds := x.cmds.filter fun e => e.2.crew != ch
        ops := x.ops.filter fun e => e.2.crew != ch
        latches := x.latches.filter fun e => e.1 / 32 != ch }
    let tenant := ((s.launch? c.launch).map (·.tenant)).getD 0
    let s := match c.lazySlot with
      | some n =>
        { s with tenants := Tbl.upd s.tenants tenant fun t => { t with poolUsed := t.poolUsed.filter fun k => k / 4 != n } }
      | none => s
    { s with
      crews := Tbl.del s.crews ch
      lazy := Tbl.del s.lazy ch
      outbound := s.outbound.filter fun e => match e.2.who with
        | some (.split r _) => (s.group? r.group).isSome || e.2.write
        | _ => true }

/-- The completion word of a host launch (Table 14.2). -/
def completionWord (state code id : Nat) : W64 := w64 (state + code * 256 + id * 2 ^ 32)

/-- The interrupt of a queue interface (R371, Table 17.7 QDONE). -/
def queueInterrupt (s : State) (f q : Nat) : State :=
  let x := s.func f
  let s := s.setFunc f { x with intstat := x.intstat ||| BitVec.twoPow 64 (23 + q) }
  let r := (x.queue q).qirq
  sendMsi s f (fld r 0 11) (r.getLsbD 31)

/-- Raises the interrupt that FLAGS.IRQ asks for, once every word has been written or dropped (R371). -/
def finishWords (s : State) (l : Nat) : State :=
  match s.launch? l with
  | none => s
  | some x =>
    if x.irqDue && x.words.isEmpty then
      let s := s.updLaunch l fun x => { x with irqDue := false }
      match x.origin with
      | .window f q _ | .packet f q _ => queueInterrupt s f q
      | .child _ _ _ => s
    else s

/-- Drops a completion word that cannot be written (R371). -/
def dropWord (s : State) (l : Nat) (x : Launch) (addr : Nat) : State :=
  let s := reportDrop s 10 x.tenant addr x.part
  finishWords (s.updLaunch l fun x => { x with words := x.words.drop 1 }) l

/-- Writes the oldest completion word that is still to be written (R371): through the tenant's tables for version 2, to host
memory for version 1. An entry with V = 0 makes a page request, and the word waits. -/
def pushWord (s : State) (l : Nat) : State :=
  match s.launch? l with
  | none => s
  | some x =>
    match x.words with
    | [] => s
    | w :: _ =>
      match x.origin with
      | .packet _ _ a =>
        if s.hostRefuses a 8 then dropWord s l x a
        else finishWords ((writeHost s a (toBytes 8 w.toNat)).updLaunch l fun x => { x with words := x.words.drop 1 }) l
      | .window _ _ a =>
        match hwWrite s ctlCore x.part x.tenant none x.faults [] a.toNat (toBytes 8 w.toNat) with
        | .ok s (.ok _) => finishWords (s.updLaunch l fun x => { x with words := x.words.drop 1 }) l
        | .ok s (.error (.absent st lv tb en ad, _)) =>
          (attachReq (s.updLaunch l fun x => { x with faults := [] }) x.tenant st lv tb en ad .write []
            [{ who := .word l, addr := a, access := .write }]).1
        | .ok s (.error (.trap cause d, v)) => dropWord (noteXlate s x.tenant cause d (w64 v)) l x a.toNat
        | .stop s w => if w.fatal then dropWord s l x a.toNat else waitOn s (.word l) x.part x.tenant w
      | .child _ _ _ => s

/-- Adds a completion word and writes it if nothing is before it. -/
def addWord (s : State) (l : Nat) (w : W64) : State :=
  match s.launch? l with
  | none => s
  | some x =>
    let s := s.updLaunch l fun x => { x with words := x.words ++ [w] }
    if x.words.isEmpty then pushWord s l else s

/-- The token of a child launch is written; the first instruction that reads it acquires at .dev scope (R138, R273). -/
def childToken (s : State) (r : SplitRef) (reg : Nat) (v : W64) : State :=
  let waits := (s.split? r).any fun sp => sp.pend.contains reg
  let s := writeToken s r reg v
  if waits then s.updSplit r fun sp => { sp with fresh := reg :: sp.fresh } else s

/-- A launch has ended (R371, R273): `code` 0 for DONE, otherwise the failure code. -/
def endLaunch (s : State) (l code : Nat) : State :=
  match s.launch? l with
  | none => s
  | some x =>
    match x.state with
    | .done | .failed _ | .refused _ => s
    | _ =>
      let s := s.updLaunch l fun x =>
        { x with state := if code = 0 then .done else .failed code, irqDue := x.irq }
      match x.origin with
      | .child g sp reg =>
        childToken s { group := g, split := sp } reg
          (w64 ((if code = 0 then 0 else 1) + (if code = 0 then 0 else 3) * 256 + l * 2 ^ 32))
      | _ => addWord s l (completionWord (if code = 0 then 2 else 3) code l)

/-- A launch is refused after acceptance by a check that needs the image (R371, R376, R273). -/
def refuseLaunch (s : State) (l status : Nat) : State :=
  match s.launch? l with
  | none => s
  | some x =>
    let s := s.updLaunch l fun x => { x with state := .refused status, irqDue := x.irq }
    match x.origin with
    | .child g sp reg => writeToken s { group := g, split := sp } reg (w64 (1 + 2 * 256))
    | .window f q _ | .packet f q _ =>
      let qu := (s.func f).queue q
      let n := min 255 (fld qu.qstat 24 8 + 1)
      let s := s.setQueue f q { qu with qstat := setFld (setFld qu.qstat 0 8 status) 24 8 n }
      addWord s l (completionWord 4 status 0)

/-- Writes of a launch that have not been performed everywhere: in a store gate, or not acknowledged by a peer or the host (R138). -/
def State.unreleased (s : State) (l : Nat) (x : Launch) : Bool :=
  s.dev.pairs.any (fun p => p.2.gate.any fun e => e.launch = l && !e.stores.isEmpty)
    || s.outbound.any fun o => o.2.write && o.2.part = x.part && o.2.tenant = x.tenant

/-- The release of .sys scope with which a launch ends, and then its end (R138, R402): it waits for what has to be written back first. -/
def tryClose (s : State) (l : Nat) : State :=
  match s.launch? l with
  | none => s
  | some x =>
    match x.closing with
    | none => s
    | some (code, cores) =>
      match Res.forEach s (fun s core => sinvWriteBack s x.part core) cores with
      | .stop s _ => s
      | .ok s _ =>
        if s.unreleased l x then s else endLaunch (s.updLaunch l fun x => { x with closing := none }) l code

/-- The last crews of a launch are gone, and it ends (R138). -/
def closeLaunch (s : State) (l code : Nat) (cores : List Nat) : State :=
  tryClose (s.updLaunch l fun x => if x.closing.isSome then x else { x with closing := some (code, cores) }) l

/-- Kernel abort (R402): the launch's crews are freed, nothing is saved, and the launch completes FAILED once its groups' releases have been
made (R198). Stores that have retired into a store gate are not dropped (Table 15.4 step 3); held acts are. -/
def abortLaunch (s : State) (l code : Nat) : State :=
  let crews := s.crews.filter fun e => e.2.launch = l
  let cores := ((crews.filter fun e => !e.2.saved).map (·.2.core)).eraseDups
  let s := crews.foldl (fun s e => freeCrew s e.1) s
  let drop (g : List GateEntry) := g.filter fun e => (s.group? e.split.group).isSome || (!e.held && !e.stores.isEmpty)
  let s := s.setDev { s.dev with pairs := Tbl.mapVal (fun _ p => { p with gate := drop p.gate }) s.dev.pairs }
  closeLaunch s l code cores

end Sys2Proof.Machine
end

