-- ==== Sys2Proof/Machine/Ops.lean ====
section
/-! DEFINITION. Taking a trap and returning from one (13 R357 to R365), parking (06 R163), the retirement of a group
(07 R198, R199), and the accesses of a split to virtual memory and to the scratchpad (01 R14 to R17, R26, R33; 11 R299 to R303).
Every meaning uses these. -/

namespace Sys2Proof.Machine

/-- Cause codes (Table 13.4). -/
def causeIllegal : Nat := 0x01
def causeRole : Nat := 0x02
def causePriv : Nat := 0x03
def causeAlign : Nat := 0x04
def causePerm : Nat := 0x06
def causeEcc : Nat := 0x0B
def causePeerAbort : Nat := 0x0C
def causePeerDown : Nat := 0x0D
def causeSerr : Nat := 0x0E
def causeShadow : Nat := 0x0F
def causeDouble : Nat := 0x12
def causeSlot : Nat := 0x13
def causeGang : Nat := 0x14
def causeWsWrite : Nat := 0x15
def causeBrk : Nat := 0x16
def causeTrapi : Nat := 0x17
def causeHostAbort : Nat := 0x19

/-- What a trap reports: cause, lanes, address and detail word (R362, R165); and the lowest lane's own address, where the fault registers
name it (R166). -/
structure Report where
  cause : Nat
  mask : LaneMask
  addr : W64
  detail : BitVec 32
  va : Option W64 := none
  deriving DecidableEq, Repr

/-- The eight words of a frame (Table 13.3). -/
def frameWords (s : State) (c : Ctx) (pc : W64) (r : Report) (repcnt mprog : Nat) (second deliv : Bool) : List W64 :=
  let tenant := c.launch.tenant
  [ pc, r.addr, r.mask, c.sp.mask
  , w64 (r.cause % 256 + c.r.split * 2 ^ 8 + repcnt % 64 * 2 ^ 16 + r.detail.toNat * 2 ^ 32)
  , w64 (mprog % 65536 + c.g.launch % 65536 * 2 ^ 16 + c.g.grpid * 2 ^ 32 + c.crew.crewid * 2 ^ 40 + tenant * 2 ^ 48)
  , w64 (c.g.cord % 2 ^ 32 + c.crew.core * 2 ^ 32 + (if second then 2 ^ 40 else 0) + (if deliv then 2 ^ 41 else 0)
      + (if c.checked then 2 ^ 42 else 0))
  , w64 s.cycle ]

/-! The store gate of a clamp (16 R409). -/

/-- The pair whose leading cluster holds a core (R407). -/
def pairOf (core : Nat) : Nat := core / 16

/-- Appends an entry to the gate of a split's pair. -/
def pushGate (s : State) (c : Ctx) (e : GateEntry) : State :=
  let k := pairOf c.crew.core
  let p := s.pair k
  s.setPair k { p with gate := p.gate ++ [e] }

def gateEntry (c : Ctx) (kind : Nat) (lead : W64) : GateEntry :=
  { split := c.r, grp := c.g.grpid, launch := c.g.launch, tenant := c.launch.tenant, core := c.crew.core, pc := c.sp.pc, kind := kind, lead := lead, cmd := none, held := false, stores := [] }

/-- Entries of the gate that a leading core holds, of 64 (R409). -/
def gateFull (s : State) (core : Nat) : Bool :=
  64 ≤ ((s.pair (pairOf core)).gate.filter fun e => e.core = core && !e.stores.isEmpty).length

/-- The bytes of unreleased stores of a core over those of a line that it reads (R409). -/
def overGate (s : State) (core : Nat) (q : Req) (d : LineData) : LineData :=
  ((s.pair (pairOf core)).gate.filter fun e => e.core = core && !e.held).foldl (fun d e =>
    e.stores.foldl (fun d x =>
      if x.part = q.part && x.line = q.line && x.view = q.view && !x.disc then mergeLine d x.data x.mask else d) d) d

/-- A lane's entry of the store gate (R409). -/
def gateStore (c : Ctx) (x : Xlated) (lane : Nat) (va : W64) (disc : Bool) (d : LineData) (m : ByteMask) : GateStore :=
  { part := c.part, line := x.pa / 128, view := x.view, key := x.key, cls := x.cls, disc := disc, late := x.late, data := d, mask := m, lane := lane, va := va }

/-- Where frame number n of a tenant is written (R361). -/
def Tenant.frameSlot (t : Tenant) (n : Nat) : W64 := w64 (t.ring.toNat + 64 + 64 * (n % 2 ^ t.log2n))

/-- A frame has been written: COUNT rises by 1 (R361). -/
def countFrame (s : State) (tenant : Nat) : State :=
  { s with tenants := Tbl.upd s.tenants tenant fun t => { t with frames := (t.frames + 1) % 2 ^ 64 } }

/-- Writes a frame and COUNT, as a release of .sys scope by the trapping split (R361). In a clamp both stores leave through the
gate, as one entry of the act (R409, R412 kind 8). -/
def writeFrame (s : State) (c : Ctx) (words : List W64) : Res (Except HwFault Unit) :=
  let tenant := c.launch.tenant
  match s.tenant? tenant with
  | none => .ok s (.ok ())
  | some t =>
    if !t.ringSet then .ok s (.ok ())
    else
      let part := c.part
      let core := c.crew.core
      let who := some (Walker.split c.r core)
      let slot := t.frameSlot t.frames
      let req (x : Xlated) : Req := { reqOf part core x c.sp.answers [] with tenant := tenant }
      match c.sp.aborted with
      | some (cause, a) => .ok s (.error (.trap cause 0, a))
      | none =>
      (sinvWriteBack s part core).bind fun s _ =>
        (xlateNow s core tenant slot .write c.sp.faults).bind fun s y =>
          (xlateNow s core tenant t.ring .write c.sp.faults).bind fun s x =>
            match y, x with
            | .error f, _ => .ok s (.error (f, slot.toNat))
            | _, .error f => .ok s (.error (f, t.ring.toNat))
            | .ok y, .ok x =>
              let fd := lineWith (slot.toNat % 128) 64 (leBytes (words.flatMap fun w => toBytes 8 w.toNat))
              let fm := byteSpan (slot.toNat % 128) 64
              let nd := lineWith 0 8 ((t.frames + 1) % 2 ^ 64)
              if c.checked then
                .ok (countFrame (pushGate s c
                  { gateEntry c 8 (words.getD 4 0) with
                    stores := [gateStore c y 0 slot false fd fm, gateStore c x 0 t.ring false nd (byteSpan 0 8)] }) tenant) (.ok ())
              else
                (coreWrite s core (req y) y.cls who tenant fd fm).bind fun s _ =>
                  (coreWrite s core (req x) x.cls who tenant nd (byteSpan 0 8)).bind fun s _ =>
                    .ok (countFrame s tenant) (.ok ())

/-- A frame with DELIV = 0 is dropped by a fault of its write, with an error-log record of kind 9 (R361). -/
def dropFrame (s : State) (c : Ctx) (f : HwFault) : State :=
  let s := match f.1 with
    | .trap cause d => noteXlate s c.launch.tenant cause d (w64 f.2)
    | .absent _ _ _ _ _ => s
  reportDrop s 9 c.launch.tenant f.2 c.part

/-- A launch whose last frames have all been written or dropped ends (R359, R360, R404). -/
def endFrames (s : State) (l : Nat) : State :=
  let last := s.groups.flatMap fun e =>
    if e.2.launch = l then e.2.splits.filterMap fun p => p.2.pendingTrap.bind fun t => t.fails.map fun code => (code, t.done) else []
  match last with
  | [] => s
  | (code, _) :: _ => if last.all (·.2) then abortLaunch s l code else s

/-- Writes a frame with DELIV = 0, after which its launch ends (R359, R360, R404, R417). The write never parks: it waits for what it can
reach, and a fault drops the frame (R361). In a clamp it needs an entry of the store gate (R409). -/
def lastFrame (s : State) (r : SplitRef) : State :=
  match s.ctxOf r with
  | none => s
  | some c =>
    match c.sp.pendingTrap with
    | none => s
    | some t =>
      if t.fails.isNone || t.done then s
      else
        let finish (s : State) : State :=
          endFrames (s.updSplit r fun sp => { sp with pendingTrap := some { t with done := true }, wait := .none }) c.g.launch
        let d : Report := { cause := t.cause, mask := t.mask, addr := t.addr, detail := t.detail }
        if c.checked && (s.tenant? c.launch.tenant).any (·.ringSet) && gateFull s c.crew.core then s.waitFor r (.queue 2)
        else
          match writeFrame s c (frameWords s c t.pc d t.repcnt t.mprog t.second false) with
          | .ok s (.ok _) => finish s
          | .ok s (.error f) => finish (dropFrame s c f)
          | .stop s w =>
            if w.fatal then finish (dropFrame s c (.trap (stopCause w).1 0, stopAddr w)) else waitStop s r c.part c.launch.tenant false w

/-- What a split carries from one pass over an instruction to the next goes, and nothing of it is attached to a page request: the
instruction has been squashed. -/
def squash (s : State) (r : SplitRef) : State :=
  (detachSplit s r).updSplit r fun sp =>
    { sp with unfinished := none, faults := [], answers := [], aborted := none, matched := false, yieldOn := [], wait := .none }

/-- The last frame of a split, with the code that its launch fails with. -/
def failWith (s : State) (c : Ctx) (pc : W64) (r : Report) (repcnt mprog : Nat) (second : Bool) (code : Nat) : State :=
  lastFrame ((squash s c.r).updSplit c.r fun sp =>
    { sp with
      pendingTrap := some { cause := r.cause, pc := pc, mask := r.mask, addr := r.addr, detail := r.detail, repcnt := repcnt
                            mprog := mprog, second := second, fails := some code, done := false } }) c.r

/-- The iteration of an interrupted rep, and the word a trap names: that of the rep (R295). -/
def Split.repAt (sp : Split) : Nat := (sp.rep.map (·.2)).getD 0
def Split.trapPcOf (sp : Split) (pc : W64) : W64 := if sp.rep.isSome then pc - 8 else pc

/-- A trap or park that writes no frame is compared as an act of kind 8 in a clamp (R412). -/
def act8 (s : State) (c : Ctx) (cause : Nat) : State := if c.checked then pushGate s c (gateEntry c 8 (w64 cause)) else s

/-- A second error (R360): the second frame is written, the group retires with DOUBLE and the launch fails. -/
def doubleError (s : State) (c : Ctx) (pc : W64) (r : Report) (mprog : Nat) : State :=
  let d : Report := { r with cause := causeDouble, detail := BitVec.ofNat 32 (r.cause % 256 + r.detail.toNat % 2 ^ 24 * 256) }
  failWith s c pc d c.sp.repAt mprog true causeDouble

/-- Step 5 of R359: the split enters trap level at HANDLER, its mask, FMT, stack and registers unchanged. Where a header at which a billet
begins has trapped, the split has reached that billet (R193, R196). -/
def enterHandler (s : State) (c : Ctx) (handler pc : W64) : State :=
  let at_ := c.sp.clause.isNone && (c.sp.resume.all fun e => e.1 = e.2) && (c.launch.safeAt c.sp.pc).isSome
  (squash s c.r).updSplit c.r fun sp =>
    { sp with
      trap := some { pc := pc, mask := sp.mask, fmt := sp.fmt, depth := sp.stack.length
                     clause := sp.clause.map fun k => (k.header, k.words.length)
                     billet := if at_ then some (takeSnapshot s c c.sp.pc) else none }
      pendingTrap := none, pc := handler, clause := none, resume := none, rep := none, back := false }

/-- Parks a split with every lane on a missing entry (R163); with no room for a request it waits in the walk queue (R167). -/
def parkOn (s : State) (c : Ctx) (stage level : Nat) (table : Bool) (entry addr : Nat) (acc : Access) (va : W64) : State :=
  let (s, ok) := attachReq (act8 s c 5) c.launch.tenant stage level table entry addr acc
    [{ split := c.r, lanes := c.sp.mask, addr := va, access := acc }] []
  s.updSplit c.r fun sp => { sp with wait := if ok then .parked else .walk, faults := [] }

/-- The address of the frame that a tenant's next trap writes. -/
def State.nextFrame (s : State) (tenant : Nat) : W64 := ((s.tenant? tenant).map fun t => t.frameSlot t.frames).getD 0

/-- Steps 4 and 5 of R359, once the registers are set: a frame that precedes delivery may park (R361). -/
def deliverTrap (s : State) (c : Ctx) (pc : W64) (r : Report) : State :=
  match s.tenant? c.launch.tenant with
  | none => abortLaunch s c.g.launch r.cause
  | some t =>
    if t.handler = 0 then failWith s c pc r c.sp.repcnt c.sp.mprog false r.cause
    else
      let keep (s : State) : State := s.updSplit c.r fun sp =>
        { sp with pendingTrap := some { cause := r.cause, pc := pc, mask := r.mask, addr := r.addr, detail := r.detail, repcnt := sp.repcnt
                                        mprog := sp.mprog, second := false, fails := none, done := false } }
      if c.checked && t.ringSet && gateFull s c.crew.core then (keep s).waitFor c.r (.queue 2)
      else
        match writeFrame s c (frameWords s c pc r c.sp.repcnt c.sp.mprog false true) with
        | .ok s (.ok _) => enterHandler s c t.handler pc
        | .ok s (.error (.absent st lv tb en ad, a)) => parkOn (keep s) c st lv tb en ad .write (w64 a)
        | .ok s (.error (.trap cause d, a)) =>
          doubleError (noteXlate s c.launch.tenant cause d (w64 a)) c pc { cause := cause, mask := c.sp.mask, addr := w64 a, detail := d }
            c.sp.mprog
        | .stop s w =>
          if w.fatal then
            doubleError s c pc { cause := (stopCause w).1, mask := c.sp.mask, addr := w64 (stopAddr w), detail := 0 } c.sp.mprog
          else waitStop (keep s) c.r c.part c.launch.tenant false w

/-- TAKING A TRAP (R359): the instruction is squashed, the split's trap registers are set, the frame is written, and the split
enters the handler. With no handler the launch ends with the cause; at trap level it is a second error (R360). -/
def raiseAt (s : State) (c : Ctx) (pc : W64) (r : Report) (mprog : Nat) : State :=
  let pc := c.sp.trapPcOf pc
  let s := noteXlate s c.launch.tenant r.cause r.detail (r.va.getD r.addr)
  if c.sp.trap.isSome then doubleError s c pc r mprog
  else
    let rep := c.sp.repAt
    let s := if (s.tenant? c.launch.tenant).any (·.ringSet) then s else act8 s c r.cause
    let set (sp : Split) : Split :=
      { sp with
        trapCause := r.detail ++ BitVec.ofNat 32 r.cause, trapPc := pc, trapMask := r.mask, trapAddr := r.addr
        repcnt := rep, mprog := mprog, faults := [], answers := [], aborted := none, unfinished := none, matched := false }
    deliverTrap ((squash s c.r).updSplit c.r set) { c with sp := set c.sp } pc r

/-- A trap at the instruction that issues. -/
def raise (s : State) (c : Ctx) (cause : Nat) (mask : LaneMask) (addr : W64 := 0) (detail : BitVec 32 := 0) (va : Option W64 := none) :
    State :=
  raiseAt s c c.sp.pc { cause := cause, mask := mask, addr := addr, detail := detail, va := va } 0

/-- The sector of an address (TRAPADDR, R390). -/
def sector (a : W64) : W64 := a &&& ~~~0x1F#64

/-- A translation fault or a refused access at a lane's address: TRAPADDR holds its sector, the fault registers the address (R165, R166). -/
def raiseVa (s : State) (c : Ctx) (cause : Nat) (mask : LaneMask) (a : W64) (detail : BitVec 32) : State :=
  raise s c cause mask (sector a) detail (some a)

/-- Splits of a core whose FMT.ATB is b: the binding count of a bank (R283). The splits of a saved crew have left the core. -/
def bindCount (s : State) (core b : Nat) : Nat :=
  (s.groups.map fun e =>
    match s.crew? e.2.crew with
    | some cr => if cr.core = core && !cr.saved then (e.2.splits.filter fun p => fld p.2.fmt 29 1 = b).length else 0
    | none => 0).sum

/-- The header of the clause of the image that holds a word (R365): the last header at or before it. -/
def Ctx.headerFor (c : Ctx) (target : W64) : W64 :=
  match c.launch.img with
  | none => target
  | some im =>
    let base := c.launch.image + w64 im.code
    let off := (target - base).toNat
    if off < im.codeLen then base + w64 ((im.headers.filter fun h => h ≤ off).foldl max 0) else target

/-- RETURNING FROM A TRAP (R365): mask, FMT and stack depth come back, and issue resumes at TRAPPC, whose clause is fetched again: a
handler may have changed its words (R364). -/
def trapReturn (s : State) (c : Ctx) : State :=
  match c.sp.trap with
  | none => raise s c causePriv c.sp.mask
  | some t =>
    if c.sp.trapPc.toNat % 8 != 0 then raise s c causeAlign c.sp.mask (sector c.sp.trapPc)
    else
      s.updSplit c.r fun sp =>
        let target := sp.trapPc
        let inside := t.clause.bind fun k =>
          let n := (target - k.1).toNat / 8
          if 0 < n && n ≤ k.2 then some k.1 else none
        { sp with
          trap := none, mask := t.mask &&& ~~~c.g.exited, fmt := t.fmt, stack := sp.stack.drop (sp.stack.length - t.depth)
          pc := target, clause := none, resume := some (inside.getD (c.headerFor target), target), rep := none, back := true
          unfinished := none, faults := [], answers := [], aborted := none, matched := false }

/-! The latches of gangs and cords (R336, R342). -/

/-- The cord form of a product (R342). -/
def cordForm : Instr → Bool
  | .mmul f | .mmulz f => f.cord
  | _ => false

/-- Raises GANG in every split of a list, precisely at its instruction (R336). -/
def raiseGang (s : State) (rs : List SplitRef) : State :=
  rs.foldl (fun s r => match s.ctxOf r with
    | some c => raiseAt s c c.sp.pc { cause := causeGang, mask := c.sp.mask, addr := 0, detail := 0 } c.sp.mprog
    | none => s) s

/-- The splits that have arrived for a cord form, at the cord latch or at a latch of one of the cord's crews (R342). -/
def State.cordArrived (s : State) (launch cord : Nat) : List SplitRef :=
  (s.groups.flatMap fun e =>
    if e.2.launch = launch && e.2.cord = cord then
      (e.2.splits.filter fun p => p.2.wait = .cordLatch).map fun p => ({ group := e.1, split := p.1 } : SplitRef)
    else [])
    ++ (s.crewsOf launch cord).flatMap fun e =>
      ((s.core e.2.core).latches.filter fun a => a.1 / 32 = e.1 && cordForm a.2.instr).map (·.2.member)

/-- A failure of a cord form in any crew raises GANG in every arrived member of every crew (R342); `refs` are those of the failing gang. -/
def breakCord (s : State) (launch cord : Nat) (refs : List SplitRef) : State :=
  let all := (refs ++ s.cordArrived launch cord).eraseDups
  let s := (s.crewsOf launch cord).foldl (fun s e =>
    let x := s.core e.2.core
    s.setCore e.2.core { x with latches := x.latches.filter fun a => !all.contains a.2.member }) s
  raiseGang (s.updLaunch launch fun l => { l with cordLatch := l.cordLatch.filter fun e => e.1 / 16 != cord }) all

/-- A group whose lanes have all exited, and whose engine commands are done, retires (R198): its release of .dev scope (R138),
the latches that it leaves unanswered (R199), the barriers that no longer wait for it (R186, R188), its crew, cord and launch. A write-back
that has to wait leaves the group for later. -/
def retireGroup (s : State) (gh : Nat) : State :=
  match s.group? gh with
  | none => s
  | some g =>
    match s.crew? g.crew with
    | none => freeGroup s gh
    | some cr =>
      let part := ((s.launch? g.launch).map (·.part)).getD 0
      match sinvWriteBack s part cr.core with
      | .stop s _ => s
      | .ok s _ =>
      let x := s.core cr.core
      let hit (e : Nat × Arrival) : Bool :=
        e.1 / 32 = g.crew && e.2.member.group != gh
          && (List.range (fld e.2.gang 0 3)).any fun i => fld e.2.gang (3 + 5 * i) 5 = g.grpid
      let broken := x.latches.filter hit
      let s := s.setCore cr.core { x with latches := x.latches.filter fun e => !hit e }
      let s := freeGroup s gh
      let refs := broken.map (·.2.member)
      let s := if broken.any fun e => cordForm e.2.instr then breakCord s g.launch g.cord refs else raiseGang s refs
      let s := (List.range 16).foldl (fun s b => barEval s g.crew b) s
      let s := (List.range 4).foldl (fun s b => cbarEval s g.launch g.cord b) s
      if !(s.groupsOf g.crew).isEmpty then s
      else
        let s := freeCrew s g.crew
        if !(s.crewsOf g.launch g.cord).isEmpty then s
        else
          let s := s.updLaunch g.launch fun l => { l with retiredCords := l.retiredCords + 1 }
          match s.launch? g.launch with
          | some l => if l.retiredCords = l.cords then closeLaunch s g.launch 0 [] else s
          | none => s

/-- The command was issued by a group, alone or as a member of a gang (R113). -/
def Command.byGroup (x : Command) (gh : Nat) : Bool := x.group = gh || x.also.any fun r => r.group = gh

/-- Engine commands of a group that are not complete (R198, R368). -/
def State.busyGroup (s : State) (gh : Nat) : Bool :=
  match (s.group? gh).bind fun g => s.crew? g.crew with
  | none => false
  | some c =>
    let x := s.core c.core
    x.cmds.any (fun e => e.2.byGroup gh) || x.ops.any (fun e => e.2.members.any fun m => m.group = gh)

/-! Lanes and addresses of memory instructions. -/

/-- How the lanes of an instruction came out of translation. -/
structure Lanes where
  good : List (Nat × Xlated)
  bad : List (Nat × XFault × W64)
  missed : List (Nat × W64)
  deriving DecidableEq, Repr

/-- Asks for the translation of every lane of a list of (lane, address). A lane that is attached to a page request stays so until its
reply (R163). -/
def lanesBy (s : State) (c : Ctx) (xl : W64 → XRes) (addrs : List (Nat × W64)) : Lanes :=
  addrs.foldr (fun p ls =>
    match s.mmu.attached? c.r p.1 with
    | some f => { ls with bad := (p.1, f, p.2) :: ls.bad }
    | none =>
      match xl p.2 with
      | .ok x => { ls with good := (p.1, x) :: ls.good }
      | .fault f => { ls with bad := (p.1, f, p.2) :: ls.bad }
      | .miss => { ls with missed := (p.1, p.2) :: ls.missed }) { good := [], bad := [], missed := [] }

def xlateLanes (s : State) (c : Ctx) (acc : Access) (addrs : List (Nat × W64)) : Lanes :=
  lanesBy s c (fun a => xlate s c.crew.core c.launch.tenant a acc c.sp.faults) addrs

/-- Rank of a cause found before any lane performs (R33): XLATE_PERM, KEY_ALIAS, PEER_DOWN, ATOM_CLASS, XLATE_NP. -/
def causeRank : XFault → Nat
  | .trap 6 _ => 0
  | .trap 7 _ => 1
  | .trap 0xD _ => 2
  | .trap 0xA _ => 3
  | .trap _ _ => 4
  | .absent _ _ _ _ _ => 5

/-- The cause code of a fault. -/
def XFault.cause : XFault → Nat
  | .trap n _ => n
  | .absent _ _ _ _ _ => 5

def XFault.detail : XFault → BitVec 32
  | .trap _ d => d
  | .absent _ _ _ _ _ => 0

/-- The highest-ranking fault among lanes, with the lanes that raise it and the lowest lane's address (R33, R389). -/
def worst (bad : List (Nat × XFault × W64)) : Option (XFault × LaneMask × W64) :=
  match bad with
  | [] => none
  | b :: bs =>
    let top := bs.foldl (fun t x => if causeRank x.2.1 < causeRank t.2.1 then x else t) b
    some (top.2.1, maskOf fun l => bad.any fun x => x.1 = l && x.2.1.cause = top.2.1.cause && causeRank x.2.1 = causeRank top.2.1, top.2.2)

/-- Queues walks for the lanes that missed, and the split waits (R161). -/
def missWait (s : State) (c : Ctx) (acc : Access) (missed : List (Nat × W64)) : State :=
  let s := missed.foldl (fun s p => queueWalk s c.launch.tenant (p.2.toNat / 4096) acc (.split c.r c.crew.core)) s
  s.waitFor c.r .walk

/-- Attaches the parked lanes of a list to their missing entries, one request per entry (R163); one that is attached stays so. -/
def parkLanes (s : State) (c : Ctx) (acc : Access) (bad : List (Nat × XFault × W64)) : State :=
  let entries := (bad.filterMap fun x => match x.2.1 with
    | .absent st lv tb en ad => some (st, lv, tb, en, ad)
    | _ => none).foldl (fun l e => if l.any (fun x => x.1 = e.1 && x.2.2.2.1 = e.2.2.2.1) then l else l ++ [e])
      ([] : List (Nat × Nat × Bool × Nat × Nat))
  let lanes (st en : Nat) : LaneMask := maskOf fun l => bad.any fun x => x.1 = l && match x.2.1 with
    | .absent st' _ _ en' _ => st = st' && en = en'
    | _ => false
  let low (st en : Nat) : W64 := ((bad.find? fun x => match x.2.1 with
    | .absent st' _ _ en' _ => st = st' && en = en'
    | _ => false).map (·.2.2)).getD 0
  let (s, ok) := entries.foldl (fun acc' e =>
    let (s, ok) := attachReq acc'.1 c.launch.tenant e.1 e.2.1 e.2.2.1 e.2.2.2.1 e.2.2.2.2 acc [{ split := c.r, lanes := lanes e.1 e.2.2.2.1, addr := low e.1 e.2.2.2.1, access := acc }] []
    (s, acc'.2 && ok)) (act8 s c 5, true)
  s.updSplit c.r fun sp => { sp with wait := if ok then .parked else .walk, faults := [] }

/-- Acts on how the lanes came out of translation (R33, R163). Lanes that miss queue walks; a trap takes the highest-ranking cause; a park
holds the split. With `partly`, the lanes that have translated perform when others park (R163); otherwise none does. -/
def withXlated (s : State) (c : Ctx) (acc : Access) (ls : Lanes) (miss : State) (partly : Bool)
    (k : State → List (Nat × Xlated) → Option (List (Nat × XFault × W64)) → State) : State :=
  if !ls.missed.isEmpty then miss
  else
    match worst ls.bad with
    | none => k s ls.good none
    | some (.trap cause d, mask, a) => raiseVa s c cause mask a d
    | some (.absent _ _ _ _ _, _, _) => if partly then k s ls.good (some ls.bad) else parkLanes s c acc ls.bad

/-- Translates every lane of an instruction and hands the translations on (R33, R163). -/
def withLanes (s : State) (c : Ctx) (acc : Access) (addrs : List (Nat × W64)) (partly : Bool)
    (k : State → List (Nat × Xlated) → Option (List (Nat × XFault × W64)) → State) : State :=
  let ls := xlateLanes s c acc addrs
  withXlated s c acc ls (missWait s c acc ls.missed) partly fun s good bad =>
    k (addrs.foldl (fun s p => fillTlb s c.crew.core c.launch.tenant p.2 acc) s) good bad

/-- The trap of a stop that ends an access of lanes (R82, R98, R99, R62). -/
def raiseStop (s : State) (c : Ctx) (mask : LaneMask) (acc : Access) : Stop → State
  | .writeOnce a => raise s c causePerm mask (sector (w64 a)) (detailWord 11 0 0 false acc)
  | .unbEvict a => raise s c 8 mask (w64 (a / 32 * 32))
  | .unbNores a => raise s c 9 mask (w64 (a / 32 * 32))
  | .ecc a => raise s c causeEcc mask (w64 (a / 32 * 32))
  | .hostAbort a => raise s c causeHostAbort mask (w64 (a / 32 * 32))
  | w => waitStop s c.r c.part c.launch.tenant false w

/-- An outbound access of the instruction that failed raises its cause precisely (R392, R393). -/
def withAnswers (s : State) (c : Ctx) (mask : LaneMask) (k : State) : State :=
  match c.sp.aborted with
  | some (cause, a) => raise s c cause mask (w64 (a / 32 * 32))
  | none => k

/-- The base address of an M-format access: S[SA] + sext32(V[SB][L]) x size + sext16(OFFSET), modulo 2^64 (R209, R14). -/
def laneAddr (c : Ctx) (f : MF) (size : Nat) (off : W64) (lane : Nat) : W64 :=
  let idx : W64 := if f.sb = 0 then 0 else ((c.g.v f.sb.toNat lane).signExtend 64) * w64 size
  c.sp.s f.sa.toNat + idx + off

/-- The access size of TY (Table 8.7). -/
def memSize (ty : BitVec 3) : Nat :=
  match ty.toNat with
  | 0 | 1 => 1
  | 2 | 3 => 2
  | 4 => 4
  | 5 => 8
  | _ => 16

/-- Lanes whose address is not a multiple of the size (R15). -/
def misaligned (addrs : List (Nat × W64)) (size : Nat) : LaneMask :=
  maskOf fun l => addrs.any fun p => p.1 = l && p.2.toNat % size != 0

/-- ALIGN if any lane's address is misaligned, at the lowest such lane's address (R15, R33). -/
def withAligned (s : State) (c : Ctx) (addrs : List (Nat × W64)) (size : Nat) (k : State) : State :=
  match addrs.find? fun p => p.2.toNat % size != 0 with
  | some p => raise s c causeAlign (misaligned addrs size) (sector p.2)
  | none => k

/-- The data of a lane's memory operand: `n` bytes from consecutive registers (R297). -/
def laneData (g : Group) (r lane n : Nat) : Nat :=
  if n ≤ 4 then (g.v r lane).toNat % 256 ^ n
  else (List.range (n / 4)).foldl (fun acc i => acc + (g.v (r + i) lane).toNat * 2 ^ (32 * i)) 0

/-- Writes the `n`-byte value of a load into a lane's registers, extended as TY says (Table 8.7). -/
def setLaneData (g : Group) (r lane : Nat) (ty : BitVec 3) (v : Nat) : Group :=
  match ty.toNat with
  | 1 => g.setV r lane ((BitVec.ofNat 8 v).signExtend 32)
  | 3 => g.setV r lane ((BitVec.ofNat 16 v).signExtend 32)
  | 5 => g.setV64 r lane (w64 v)
  | 6 => (List.range 4).foldl (fun g i => g.setV (r + i) lane (BitVec.ofNat 32 (v / 2 ^ (32 * i)))) g
  | 0 => g.setV r lane (BitVec.ofNat 32 (v % 256))
  | 2 => g.setV r lane (BitVec.ofNat 32 (v % 65536))
  | _ => g.setV r lane (BitVec.ofNat 32 v)

/-! The scratchpad (R26, R27). -/

/-- A byte of a core's scratchpad at a physical address; a byte that nothing defines is a free value (R27). -/
def Core.scratchByte (x : Core) (a : Nat) : Byte :=
  match Tbl.find? x.scratch a with
  | some b => b
  | none =>
    match Tbl.find? x.scratchSeed (a / 1024) with
    | some k => Config.freeByte k a
    | none => 0

def Core.scratchNum (x : Core) (a n : Nat) : Nat := leBytes ((List.range n).map fun i => x.scratchByte (a + i))

def Core.setScratch (x : Core) : Nat → List Byte → Core
  | _, [] => x
  | a, b :: bs => Core.setScratch { x with scratch := Tbl.put x.scratch a b } (a + 1) bs

/-- A scratchpad access of `n` bytes lies inside the crew's allocation (R26). -/
def Crew.inScratch (c : Crew) (a n : Nat) : Bool := a + n ≤ c.scratchSize

/-- Raises XLATE_PERM with reason 7 for the lanes whose bytes leave the allocation (R26). -/
def withBound (s : State) (c : Ctx) (addrs : List (Nat × W64)) (n : Nat) (acc : Access) (k : State) : State :=
  match addrs.find? fun p => !c.crew.inScratch p.2.toNat n with
  | some p =>
    raiseVa s c causePerm (maskOf fun l => addrs.any fun q => q.1 = l && !c.crew.inScratch q.2.toNat n) p.2
      (detailWord 7 0 0 false acc)
  | none => k

/-- The latch of a split's failed store (R306): the first failure is kept. -/
def Split.latchErr (sp : Split) (k : LatchKind) (a : W64) : Split :=
  if sp.latch.isSome then sp else { sp with latch := some (k, a) }

/-- A release or fence of a scope reaches this latch (R306). -/
def latchReached (scope : Nat) : LatchKind → Bool
  | .writeOnce | .lostUpdate => 1 ≤ scope
  | .peer | .host => scope = 4

/-- Raises SERR if the release reaches a set latch; the latch is cleared on delivery (R306). `all` reaches any kind. -/
def withLatch (s : State) (c : Ctx) (scope : Nat) (all : Bool) (k : State) : State :=
  match c.sp.latch with
  | some (kind, a) =>
    if all || latchReached scope kind then
      raise (s.updSplit c.r fun sp => { sp with latch := none }) { c with sp := { c.sp with latch := none } } causeSerr c.sp.mask a
    else k
  | none => k

/-- Goes on with an access's state and value, or stops the instruction as the stop says. -/
def Res.orStop {α : Type} (r : Res α) (c : Ctx) (mask : LaneMask) (acc : Access) (k : State → α → State) : State :=
  match r with
  | .ok s x => k s x
  | .stop s w => raiseStop s c mask acc w

end Sys2Proof.Machine
end

