-- ==== Sys2Proof/Machine/Flags.lean ====
section
/-! DEFINITION. The flags: STICKY (08 Table 8.9, 10 R256, R257), the event counters of a launch and their interrupt
(09 R242 to R244, 10 R258), and the suspicion scores (16 R423). -/

namespace Sys2Proof.Machine

/-- What one element's operation leaves beside its value: STICKY bits, and the indices of the event counters, in order. -/
structure Marks where
  sticky : BitVec 3 := 0
  events : List Nat := []
  deriving DecidableEq, Repr

/-- STICKY bits (Table 8.9). -/
def stickyDivz : BitVec 3 := 1
def stickyDivovf : BitVec 3 := 2
def stickySat : BitVec 3 := 4

/-- The index of the division counter (R258, R366). -/
def divCounter : Nat := 20

def Marks.join (a b : Marks) : Marks := { sticky := a.sticky ||| b.sticky, events := a.events ++ b.events }

/-- An element's result. -/
structure Elem where
  val : Nat
  marks : Marks := {}
  deriving DecidableEq, Repr

/-- Counter `i` of a launch (R242, R258). -/
def Launch.counter (l : Launch) (i : Nat) : Nat := Tbl.getD l.counters i 0

/-- One event: the counter rises by 1, saturating (R242). -/
def Launch.bump (l : Launch) (i : Nat) : Launch :=
  { l with counters := Tbl.setD 0 l.counters i (sat32 (l.counter i)) }

/-- The floating-point event interrupt of a launch's function (R244, Table 17.7). -/
def fpInterrupt (s : State) (launch tenant i : Nat) : State :=
  let f := s.funcOf tenant
  let x := s.func f
  let s := s.setFunc f { x with intstat := x.intstat ||| BitVec.twoPow 64 i, fplaunch := launch }
  sendMsi s f (fld x.intcfg 0 11) (x.intcfg.getLsbD 33)

/-- Counts one event, with the interrupt where the counter rises to its threshold (R242 to R244, R258). -/
def countEvent (s : State) (launch i : Nat) : State :=
  match s.launch? launch with
  | none => s
  | some l =>
    let s' := s.updLaunch launch fun l => l.bump i
    if i < 20 && l.thresh != 0 && l.counter i < l.thresh && l.thresh ≤ sat32 (l.counter i) then
      fpInterrupt s' launch l.tenant i
    else s'

/-- Sets the group's STICKY bits and counts the events. -/
def State.note (s : State) (group launch : Nat) (m : Marks) : State :=
  let s := if m.sticky = 0 then s else s.updGroup group fun g => { g with sticky := g.sticky ||| m.sticky.setWidth 64 }
  m.events.foldl (fun s i => countEvent s launch i) s

end Sys2Proof.Machine
end

