-- ==== Sys2Proof/Machine/Numbers.lean ====
section
/-! DEFINITION. The number formats and their rounding (09_numbers R227 to R238), the exact float operations (10 R276 to R281)
and the conversions' arithmetic (09 R248 to R252). A value is a sign, a magnitude `m * 2^e`, or an infinity or NaN. -/

namespace Sys2Proof.Machine

/-! Integers (R227, R255). -/

/-- The number that `w` bits stand for. -/
def asInt (w : Nat) (signed : Bool) (x : Nat) : Int :=
  if signed && 2 ^ (w - 1) ≤ x then (x : Int) - 2 ^ w else x

/-- The `w` low bits of a number (wrapping, R227). -/
def wrapTo (w : Nat) (x : Int) : Nat := (x % 2 ^ w).toNat

/-- Least and greatest value of an integer type. -/
def intMin (w : Nat) (signed : Bool) : Int := if signed then -(2 ^ (w - 1)) else 0
def intMax (w : Nat) (signed : Bool) : Int := if signed then 2 ^ (w - 1) - 1 else 2 ^ w - 1

/-- Clamps to the range of a type and sets STICKY.SAT where it clamps (R238, R257). -/
def satTo (w : Nat) (signed : Bool) (x : Int) : Elem :=
  if x < intMin w signed then { val := wrapTo w (intMin w signed), marks := { sticky := stickySat } }
  else if intMax w signed < x then { val := wrapTo w (intMax w signed), marks := { sticky := stickySat } }
  else { val := wrapTo w x }

/-! Formats. -/

/-- A float format (R228, R231): `prec` significant bits, `emin` the exponent of the smallest normal value, the greatest finite
magnitude code, `width` bits, and for binary8 its SGN and INF. -/
structure FFmt where
  width : Nat
  prec : Nat
  emin : Int
  maxCode : Nat
  b8 : Bool
  signed : Bool
  hasInf : Bool
  /-- F of the event counters (R242). -/
  cls : Nat
  deriving DecidableEq, Repr

def fmtF32 : FFmt := { width := 32, prec := 24, emin := -126, maxCode := 0x7F7FFFFF, b8 := false, signed := true, hasInf := true, cls := 0 }
def fmtF16 : FFmt := { width := 16, prec := 11, emin := -14, maxCode := 0x7BFF, b8 := false, signed := true, hasInf := true, cls := 1 }
def fmtBf16 : FFmt := { width := 16, prec := 8, emin := -126, maxCode := 0x7F7F, b8 := false, signed := true, hasInf := true, cls := 2 }
def fmtF64 : FFmt :=
  { width := 64, prec := 53, emin := -1022, maxCode := 0x7FEFFFFFFFFFFFFF, b8 := false, signed := true, hasInf := true, cls := 4 }

/-- A binary8 format from PREC, SGN and INF (R231): bias 2^(E-1), so the smallest normal exponent is 1 - 2^(E-1). -/
def fmtB8 (p : Nat) (signed inf : Bool) : FFmt :=
  let e := if signed then 8 - p else 9 - p
  let top := if signed then 0x7F else 0xFE
  { width := 8, prec := p, emin := 1 - 2 ^ (e - 1), maxCode := if inf then top - 1 else top, b8 := true, signed := signed
    hasInf := inf, cls := 3 }

/-- The format of a descriptor byte (R246). -/
def fmtDesc (d : Nat) : FFmt := fmtB8 (bits d 0 3) (bits d 3 1 == 1) (bits d 4 1 == 1)

/-- The canonical NaN (R230, Table 9.1). -/
def FFmt.nan (f : FFmt) : Nat :=
  if f.b8 then (if f.signed then 0x80 else 0xFF)
  else 2 ^ (f.width - 1) - 2 ^ (f.prec - 2)

/-- The code of an infinity; only asked of formats that have one. -/
def FFmt.inf (f : FFmt) (neg : Bool) : Nat :=
  if f.b8 then (if f.signed then (if neg then 0xFF else 0x7F) else 0xFE)
  else (if neg then 2 ^ (f.width - 1) else 0) + 2 ^ (f.width - 1) - 2 ^ (f.prec - 1)

/-- The code of a finite magnitude with a sign; binary8 has one zero (R231, R235 step 4). -/
def FFmt.code (f : FFmt) (neg : Bool) (mag : Nat) : Nat :=
  if f.b8 && mag = 0 then 0 else (if neg && f.signed then 2 ^ (f.width - 1) else 0) + mag

/-- A value. -/
inductive FVal where
  | nan
  | inf (neg : Bool)
  | fin (neg : Bool) (m : Nat) (e : Int)
  deriving DecidableEq, Repr

def FVal.isNan : FVal → Bool
  | .nan => true
  | _ => false

def FVal.isInf : FVal → Bool
  | .inf _ => true
  | _ => false

/-- The value of a finite magnitude code: fraction and exponent fields (R228, R232). -/
def FFmt.mag (f : FFmt) (neg : Bool) (m : Nat) : FVal :=
  let half := 2 ^ (f.prec - 1)
  let e := m / half
  if e = 0 then .fin neg (m % half) (f.emin - (f.prec - 1))
  else .fin neg (half + m % half) (f.emin + (e - 1) - (f.prec - 1))

/-- Decodes a bit pattern (R228, R232). -/
def FFmt.decode (f : FFmt) (x : Nat) : FVal :=
  if f.b8 then
    if x = f.nan then .nan
    else if f.hasInf && x = f.inf false then .inf false
    else if f.hasInf && f.signed && x = f.inf true then .inf true
    else f.mag (f.signed && 0x80 ≤ x) (if f.signed then x % 128 else x)
  else
    let neg := x / 2 ^ (f.width - 1) % 2 == 1
    let m := x % 2 ^ (f.width - 1)
    let expOnes := 2 ^ (f.width - 1) - 2 ^ (f.prec - 1)
    if m < expOnes then f.mag neg m else if m = expOnes then .inf neg else .nan

/-! Rounding. -/

/-- Floor of the base-2 logarithm of n / d, for n, d > 0. -/
def ratLog2 (n d : Nat) : Int :=
  let k : Int := (Nat.log2 n : Int) - Nat.log2 d
  let ge := if 0 ≤ k then decide (d * 2 ^ k.toNat ≤ n) else decide (d ≤ n * 2 ^ (-k).toNat)
  if ge then k else k - 1

/-- n / d scaled by 2^e, as a fraction of naturals. -/
def scaleRat (n d : Nat) (e : Int) : Nat × Nat := if 0 ≤ e then (n * 2 ^ e.toNat, d) else (n, d * 2 ^ (-e).toNat)

/-- The magnitude code below or at the value n / d x 2^e, whether the value lies above it, and how the rest compares with one
half (R235 step 1). -/
def FFmt.floorCode (f : FFmt) (n d : Nat) (e : Int) : Nat × Bool × Ordering :=
  let k := max (ratLog2 n d + e) f.emin
  let q := k - (f.prec - 1)
  let (a, b) := scaleRat n d (e - q)
  let quo := a / b
  let rem := a % b
  ((k - f.emin).toNat * 2 ^ (f.prec - 1) + quo, rem != 0, compare (2 * rem) b)

/-- Whether a magnitude rounds up to the next code (Table 9.4). -/
def roundsUp (rnd : Nat) (neg : Bool) (code : Nat) (inexact : Bool) (half : Ordering) : Bool :=
  inexact && match rnd with
    | 0 => half == .gt || (half == .eq && code % 2 == 1)
    | 1 => false
    | 2 => neg
    | _ => !neg

/-- An overflow or an infinite value delivered (R236, Table 9.5): the code, and whether it is the largest finite value. -/
def FFmt.over (f : FFmt) (neg : Bool) (rnd : Nat) (sat finite : Bool) : Nat × Bool :=
  let largest := (f.code neg f.maxCode, true)
  let outside := (if f.hasInf then f.inf neg else f.nan, false)
  if sat then (if !finite && f.hasInf then outside else largest)
  else if !finite then outside
  else
    match rnd with
    | 0 => outside
    | 1 => largest
    | 2 => if neg then outside else largest
    | _ => if neg then largest else outside

/-- Event V of format F (R242). -/
def FFmt.ev (f : FFmt) (v : Nat) : Nat := 4 * f.cls + v

/-- The events of a delivered NaN or infinity (R242): counted when no input was one. -/
def FFmt.seen (f : FFmt) (code : Nat) (anyNan anyInf : Bool) : List Nat :=
  if code = f.nan then (if anyNan then [] else [f.ev 0])
  else if f.hasInf && (code = f.inf false || (f.signed && code = f.inf true)) then (if anyInf then [] else [f.ev 1])
  else []

/-- Rounds a value n / d x 2^e with a sign to a format (R235 to R237). -/
def FFmt.roundRat (f : FFmt) (neg : Bool) (n d : Nat) (e : Int) (rnd : Nat) (sat anyNan anyInf : Bool) : Elem :=
  if n = 0 then { val := f.code neg 0 }
  else if f.b8 && !f.signed && neg then
    if sat then { val := 0, marks := { sticky := stickySat } }
    else { val := f.nan, marks := { events := f.seen f.nan anyNan anyInf } }
  else
    let (c, inexact, half) := f.floorCode n d e
    let c := if roundsUp rnd neg c inexact half then c + 1 else c
    if f.maxCode < c then
      let (v, clip) := f.over neg rnd sat true
      { val := v
        marks := { sticky := if clip then stickySat else 0, events := f.ev 2 :: f.seen v anyNan anyInf } }
    else
      { val := f.code neg c
        marks := { events := if inexact && c < 2 ^ (f.prec - 1) then [f.ev 3] else [] } }

/-- Rounds a value to a format (R235 to R237). -/
def FFmt.round (f : FFmt) (x : FVal) (rnd : Nat) (sat anyNan anyInf : Bool) : Elem :=
  match x with
  | .nan => { val := f.nan, marks := { events := f.seen f.nan anyNan anyInf } }
  | .inf neg =>
    if f.b8 && !f.signed && neg then
      if sat then { val := 0, marks := { sticky := stickySat } }
      else { val := f.nan, marks := { events := f.seen f.nan anyNan anyInf } }
    else
      let (v, clip) := f.over neg rnd sat false
      { val := v, marks := { sticky := if clip then stickySat else 0, events := f.seen v anyNan anyInf } }
  | .fin neg m e => f.roundRat neg m 1 e rnd sat anyNan anyInf

/-! Exact arithmetic. -/

/-- A signed integer as sign and magnitude. -/
def ofSigned (x : Int) (e : Int) (zeroNeg : Bool) : FVal :=
  if x = 0 then .fin zeroNeg 0 0 else .fin (decide (x < 0)) x.natAbs e

/-- A finite value over 2^lo, for lo at most its exponent. -/
def toScale (neg : Bool) (m : Nat) (e lo : Int) : Int :=
  let v : Int := (m * 2 ^ (e - lo).toNat : Nat)
  if neg then -v else v

/-- The exact sum; a zero from operands of unlike sign is negative only when rounding down (IEEE 754-2019). -/
def FVal.add (x y : FVal) (rnd : Nat) : FVal :=
  match x, y with
  | .nan, _ => .nan
  | _, .nan => .nan
  | .inf a, .inf b => if a = b then .inf a else .nan
  | .inf a, .fin _ _ _ => .inf a
  | .fin _ _ _, .inf b => .inf b
  | .fin a m e, .fin b n d =>
    let lo := min e d
    let zeroNeg := if m = 0 && n = 0 && a = b then a else rnd == 2
    ofSigned (toScale a m e lo + toScale b n d lo) lo zeroNeg

def FVal.neg : FVal → FVal
  | .nan => .nan
  | .inf a => .inf !a
  | .fin a m e => .fin (!a) m e

/-- The exact product. -/
def FVal.mul (x y : FVal) : FVal :=
  match x, y with
  | .nan, _ => .nan
  | _, .nan => .nan
  | .inf a, .inf b => .inf (xor a b)
  | .inf a, .fin b m _ => if m = 0 then .nan else .inf (xor a b)
  | .fin a m _, .inf b => if m = 0 then .nan else .inf (xor a b)
  | .fin a m e, .fin b n d => .fin (xor a b) (m * n) (e + d)

/-- The order of two numbers; none when either is a NaN. -/
def FVal.cmp (x y : FVal) : Option Ordering :=
  match x, y with
  | .nan, _ => none
  | _, .nan => none
  | .inf a, .inf b => some (if a = b then .eq else if a then .lt else .gt)
  | .inf a, .fin _ _ _ => some (if a then .lt else .gt)
  | .fin _ _ _, .inf b => some (if b then .gt else .lt)
  | .fin a m e, .fin b n d => some (compare (toScale a m e (min e d)) (toScale b n d (min e d)))

def FVal.isZero : FVal → Bool
  | .fin _ m _ => m == 0
  | _ => false

def FVal.isNeg : FVal → Bool
  | .nan => false
  | .inf a => a
  | .fin a _ _ => a

/-- Integer square root, bit by bit. -/
def isqrtAux (n : Nat) : Nat → Nat → Nat
  | 0, r => r
  | k + 1, r => isqrtAux n k (if (r + 2 ^ k) * (r + 2 ^ k) ≤ n then r + 2 ^ k else r)

def isqrt (n : Nat) : Nat := isqrtAux n (Nat.log2 n / 2 + 1) 0

/-! The operations, on the bits of one element. -/

def anyN (l : List FVal) : Bool := l.any FVal.isNan
def anyI (l : List FVal) : Bool := l.any FVal.isInf

def fAddElem (f : FFmt) (rnd a b : Nat) : Elem :=
  let x := f.decode a
  let y := f.decode b
  f.round (x.add y rnd) rnd false (anyN [x, y]) (anyI [x, y])

def fSubElem (f : FFmt) (rnd a b : Nat) : Elem :=
  let x := f.decode a
  let y := f.decode b
  f.round (x.add y.neg rnd) rnd false (anyN [x, y]) (anyI [x, y])

def fMulElem (f : FFmt) (rnd a b : Nat) : Elem :=
  let x := f.decode a
  let y := f.decode b
  f.round (x.mul y) rnd false (anyN [x, y]) (anyI [x, y])

def fFmaElem (f : FFmt) (rnd a b c : Nat) : Elem :=
  let x := f.decode a
  let y := f.decode b
  let z := f.decode c
  f.round ((x.mul y).add z rnd) rnd false (anyN [x, y, z]) (anyI [x, y, z])

/-- minimumNumber and maximumNumber (R278); `mx` selects the maximum. -/
def fMinMaxElem (f : FFmt) (mx : Bool) (a b : Nat) : Elem :=
  let x := f.decode a
  let y := f.decode b
  match x.cmp y with
  | none => { val := if x.isNan then (if y.isNan then f.nan else b) else a }
  | some o =>
    let aLess := o == .lt || (o == .eq && x.isNeg && !y.isNeg)
    { val := if aLess != mx then a else b }

def fAbsElem (f : FFmt) (a : Nat) : Elem := { val := a % 2 ^ (f.width - 1) }

def fNegElem (f : FFmt) (a : Nat) : Elem := { val := a.xor (2 ^ (f.width - 1)) }

/-- The quotient (R277): division by zero gives an infinity. -/
def fDivVal (f : FFmt) (rnd : Nat) (x y : FVal) : Elem :=
  let n := anyN [x, y]
  let i := anyI [x, y]
  match x, y with
  | .nan, _ => f.round .nan rnd false n i
  | _, .nan => f.round .nan rnd false n i
  | .inf _, .inf _ => f.round .nan rnd false n i
  | .inf a, .fin b _ _ => f.round (.inf (xor a b)) rnd false n i
  | .fin a _ _, .inf b => f.round (.fin (xor a b) 0 0) rnd false n i
  | .fin a m e, .fin b k d =>
    if k = 0 then f.round (if m = 0 then .nan else .inf (xor a b)) rnd false n i
    else f.roundRat (xor a b) m k (e - d) rnd false n i

def fDivElem (f : FFmt) (rnd a b : Nat) : Elem := fDivVal f rnd (f.decode a) (f.decode b)

def fRcpElem (f : FFmt) (rnd a : Nat) : Elem := fDivVal f rnd (.fin false 1 0) (f.decode a)

/-- The square root (R277, Table 10.6): enough bits of the root, with one more set when it is not exact. -/
def fSqrtElem (f : FFmt) (rnd a : Nat) : Elem :=
  match f.decode a with
  | .nan => f.round .nan rnd false true false
  | .inf neg => f.round (if neg then .nan else .inf false) rnd false false true
  | .fin neg m e =>
    if m = 0 then { val := f.code neg 0 }
    else if neg then f.round .nan rnd false false false
    else
      let k := 2 * f.prec + 8
      let odd := (e % 2).toNat
      let n := m * 2 ^ (odd + 2 * k)
      let r := isqrt n
      f.roundRat false (2 * r + (if r * r = n then 0 else 1)) 1 ((e - odd) / 2 - k - 1) rnd false false false

/-- Float compare (Table 10.7). -/
def fCmpBit (f : FFmt) (cond a b : Nat) : Bool :=
  let o := (f.decode a).cmp (f.decode b)
  match cond with
  | 0 => o == some .eq
  | 1 => o != some .eq
  | 2 => o == some .lt
  | 3 => o == some .lt || o == some .eq
  | 4 => o == some .gt
  | 5 => o == some .gt || o == some .eq
  | 6 => o.isSome
  | _ => o.isNone

/-- The class of a value, one bit (R280). -/
def fClassOf (f : FFmt) (a : Nat) : Nat :=
  let m := a % 2 ^ (f.width - 1)
  let neg := a / 2 ^ (f.width - 1) % 2 == 1
  let ones := 2 ^ (f.width - 1) - 2 ^ (f.prec - 1)
  if ones < m then (if m / 2 ^ (f.prec - 2) % 2 == 0 then 1 else 2)
  else if m = ones then (if neg then 4 else 512)
  else if m = 0 then (if neg then 32 else 64)
  else if m < 2 ^ (f.prec - 1) then (if neg then 16 else 128)
  else if neg then 8 else 256

/-- Two products and an f32 addend, rounded once to f32 (R281). -/
def fDot2Elem (f : FFmt) (rnd a b c : Nat) : Elem :=
  let el (x k : Nat) := f.decode (bits x (16 * k) 16)
  let z := fmtF32.decode c
  let p := (el a 0).mul (el b 0)
  let q := (el a 1).mul (el b 1)
  let ins := [el a 0, el a 1, el b 0, el b 1, z]
  fmtF32.round ((p.add q rnd).add z rnd) rnd false (anyN ins) (anyI ins)

/-- Multiplication by a power of two (R251). -/
def fSclElem (f : FFmt) (rnd : Nat) (sat : Bool) (a : Nat) (n : Int) : Elem :=
  match f.decode a with
  | .nan => { val := f.nan }
  | .inf _ => { val := a }
  | .fin neg m e => if m = 0 then { val := a } else f.roundRat neg m 1 (e + n) rnd sat false false

/-- A magnitude m x 2^e rounded to an integer (R238, R252). -/
def roundInt (neg : Bool) (m : Nat) (e : Int) (rnd : Nat) : Nat :=
  if 0 ≤ e then m * 2 ^ e.toNat
  else
    let d := 2 ^ (-e).toNat
    let q := m / d
    if roundsUp rnd neg q (m % d != 0) (compare (2 * (m % d)) d) then q + 1 else q

/-- Rounding to an integral value of the same format (R252). -/
def fRoundElem (f : FFmt) (rnd a : Nat) : Elem :=
  match f.decode a with
  | .nan => { val := f.nan }
  | .inf _ => { val := a }
  | .fin neg m e =>
    if m = 0 || 0 ≤ e then { val := a }
    else
      let q := roundInt neg m e rnd
      if q = 0 then { val := f.code neg 0 } else { val := (f.roundRat neg q 1 0 rnd false false false).val }

/-- A float value as an integer of `w` bits, saturating (R238). -/
def fToInt (w : Nat) (signed : Bool) (x : FVal) (rnd : Nat) : Elem :=
  match x with
  | .nan => { val := 0, marks := { sticky := stickySat } }
  | .inf neg => satTo w signed (if neg then intMin w signed - 1 else intMax w signed + 1)
  | .fin neg m e =>
    let q : Int := roundInt neg m e rnd
    satTo w signed (if neg then -q else q)

end Sys2Proof.Machine
end

