-- ==== Sys2Proof/Machine/Approx.lean ====
section
/-! DEFINITION. The float functions with an accuracy bound (10 R277, Tables 10.5 and 10.6). A function's exact value is enclosed
between two numbers in fixed point; the results within the bound of it are the candidates, and a free function of the input
says which of them the hardware gives (log 5). -/

namespace Sys2Proof.Machine

/-- Fixed point: a number n stands for n / 2^256. -/
def fixBits : Nat := 256
def fixOne : Nat := 2 ^ 256

/-- Width of an enclosure, in units of 2^-256. -/
def fixSlack : Nat := 2 ^ 20

/-- Terms of a power series: z times the last term, divided by what belongs to the index. -/
def seriesSum (step : Nat → Nat → Nat) : Nat → Nat → Nat → Nat → Nat
  | 0, _, _, acc => acc
  | fuel + 1, k, term, acc => seriesSum step fuel (k + 1) (step k term) (acc + term)

/-- e^z for 0 ≤ z < 1. -/
def expFix (z : Nat) : Nat := seriesSum (fun k t => t * z / fixOne / (k + 1)) 70 0 fixOne 0

/-- The odd series t + t^3/3 + t^5/5 + ... (`alt` = false) or with alternating signs (`alt` = true). -/
def oddSeries (alt : Bool) (t : Nat) : Nat → Nat → Nat → Int → Int
  | 0, _, _, acc => acc
  | fuel + 1, k, p, acc =>
    let v : Int := (p / (2 * k + 1) : Nat)
    oddSeries alt t fuel (k + 1) (p * t / fixOne * t / fixOne) (if alt && k % 2 == 1 then acc - v else acc + v)

def atanhFix (t : Nat) : Nat := (oddSeries false t 90 0 t 0).toNat
def atanFix (t : Nat) : Nat := (oddSeries true t 90 0 t 0).toNat

def ln2Fix : Nat := 2 * atanhFix (fixOne / 3)
def piFix : Nat := 16 * atanFix (fixOne / 5) - 4 * atanFix (fixOne / 239)

/-- sin z for 0 ≤ z ≤ pi / 2. -/
def sinFix (z : Nat) : Nat → Nat → Nat → Int → Nat
  | 0, _, _, acc => acc.toNat
  | fuel + 1, k, t, acc =>
    sinFix z fuel (k + 1) (t * z / fixOne * z / fixOne / ((2 * k + 2) * (2 * k + 3)))
      (if k % 2 == 1 then acc - t else acc + t)

/-- The result of a bounded function whose exact magnitude lies in [lo, hi] x 2^sc: a code that is within `ulps` of every number there, and
so of the exact one (R277). -/
def bounded (f : FFmt) (op x : Nat) (neg : Bool) (lo hi : Nat) (sc : Int) (ulps : Nat) : Elem :=
  let u := max (ratLog2 lo 1 + sc) f.emin - (f.prec - 1)
  let base := min sc (f.emin - f.prec)
  let at_ (m : Nat) (e : Int) : Int := (m * 2 ^ (e - base).toNat : Nat)
  if at_ hi sc < at_ 1 (f.emin - f.prec) then { val := f.code neg 0, marks := { events := [f.ev 3] } }
  else
    let (c0, _, _) := f.floorCode lo 1 sc
    let value (c : Nat) : Int := match f.mag false c with
      | .fin _ m e => at_ m e
      | _ => 0
    let slack : Int := ulps * at_ 1 u
    let ok (c : Nat) : Bool := at_ hi sc - slack ≤ value c && value c ≤ at_ lo sc + slack
    let cands := ((List.range (2 * ulps + 6)).map fun i => c0 + i - (ulps + 2)).filter ok
    let c := cands.getD (Config.approx op f.cls x % cands.length) c0
    if f.maxCode < c then { val := f.inf neg, marks := { events := [f.ev 2, f.ev 1] } }
    else { val := f.code neg c, marks := { events := if c < 2 ^ (f.prec - 1) then [f.ev 3] else [] } }

/-- A result that a table gives exactly. -/
def exactly (f : FFmt) (x : FVal) (anyNan anyInf : Bool) : Elem := f.round x 0 false anyNan anyInf

/-- frsq (Table 10.6). -/
def fRsqElem (f : FFmt) (a : Nat) : Elem :=
  match f.decode a with
  | .nan => exactly f .nan true false
  | .inf neg => exactly f (if neg then .nan else .fin false 0 0) false true
  | .fin neg m e =>
    if m = 0 then exactly f (.inf neg) false false
    else if neg then exactly f .nan false false
    else
      let odd := (e % 2).toNat
      let r := isqrt (2 ^ (2 * fixBits) / (m * 2 ^ odd))
      let hi := if r * r * (m * 2 ^ odd) = 2 ^ (2 * fixBits) then r else r + 1
      bounded f 0x6D a false r hi (-(fixBits : Int) - (e - odd) / 2) 1

/-- fexp2 (Table 10.6): a power with an integer exponent is exact where the format holds it. -/
def fExp2Elem (f : FFmt) (a : Nat) : Elem :=
  match f.decode a with
  | .nan => exactly f .nan true false
  | .inf neg => exactly f (if neg then .fin false 0 0 else .inf false) false true
  | .fin neg m e =>
    if m = 0 then exactly f (.fin false 1 0) false false
    else
      if 11 ≤ ratLog2 m 1 + e then
        if neg then bounded f 0x6E a false 1 1 (-4000) 1 else { val := f.inf false, marks := { events := [f.ev 2, f.ev 1] } }
      else
        let z : Int := if neg then -((m * 2 ^ (e + fixBits).toNat : Nat) : Int) else (m * 2 ^ (e + fixBits).toNat : Nat)
        let n := z / fixOne
        let fr := (z % fixOne).toNat
        if fr = 0 && -(fixBits : Int) ≤ e && f.emin - (f.prec - 1) ≤ n then exactly f (.fin false 1 n) false false
        else
          let v := expFix (fr * ln2Fix / fixOne)
          bounded f 0x6E a false (v - fixSlack) (v + fixSlack) (n - fixBits) 1

/-- flog2 (Table 10.6): exact at a power of two. -/
def fLog2Elem (f : FFmt) (a : Nat) : Elem :=
  match f.decode a with
  | .nan => exactly f .nan true false
  | .inf neg => exactly f (if neg then .nan else .inf false) false true
  | .fin neg m e =>
    if m = 0 then exactly f (.inf true) false false
    else if neg then exactly f .nan false false
    else
      let k := Nat.log2 m
      let n : Int := k + e
      if m = 2 ^ k then exactly f (ofSigned n 0 false) false false
      else
        let x := m * fixOne / 2 ^ k
        let t := (x - fixOne) * fixOne / (x + fixOne)
        let l : Int := (2 * atanhFix t * fixOne / ln2Fix : Nat)
        let v := n * fixOne + l
        bounded f 0x6F a (decide (v < 0)) (v.natAbs - fixSlack) (v.natAbs + fixSlack) (-(fixBits : Int)) 1

/-- Accuracy of fsin, fcos and ftanh: 2 ulp in f32, 1 ulp packed (Table 10.5). -/
def trigUlps (f : FFmt) : Nat := if f.cls = 0 then 2 else 1

/-- sin(pi x) for the quarter turns: `q` the number of halves in x, `r` the rest in fixed point below 1/2. -/
def quarterSin (f : FFmt) (op a : Nat) (neg : Bool) (r : Nat) : Elem :=
  let z := if 2 * r ≤ fixOne then r else fixOne - r
  let v := sinFix (z * piFix / fixOne) 40 0 (z * piFix / fixOne) 0
  bounded f op a neg (v - min fixSlack (v / 2 ^ 60)) (min fixOne (v + min fixSlack (v / 2 ^ 60 + 1))) (-(fixBits : Int)) (trigUlps f)

/-- x modulo 2, in fixed point: magnitude only. -/
def modTwo (m : Nat) (e : Int) : Nat := m * 2 ^ (e + fixBits).toNat % (2 * fixOne)

/-- fsin: sin(pi a) (Table 10.6). -/
def fSinElem (f : FFmt) (a : Nat) : Elem :=
  match f.decode a with
  | .nan => exactly f .nan true false
  | .inf _ => exactly f .nan false true
  | .fin neg m e =>
    let r := modTwo m e
    if r % fixOne = 0 then { val := f.code neg 0 }
    else if r = fixOne / 2 then exactly f (.fin neg 1 0) false false
    else if r = 3 * (fixOne / 2) then exactly f (.fin (!neg) 1 0) false false
    else quarterSin f 0x70 a (xor neg (decide (fixOne < r))) (r % fixOne)

/-- fcos: cos(pi a), as the sine a half further on (Table 10.6). -/
def fCosElem (f : FFmt) (a : Nat) : Elem :=
  match f.decode a with
  | .nan => exactly f .nan true false
  | .inf _ => exactly f .nan false true
  | .fin _ m e =>
    let r := (modTwo m e + fixOne / 2) % (2 * fixOne)
    if r % fixOne = 0 then { val := f.code false 0 }
    else if r = fixOne / 2 then exactly f (.fin false 1 0) false false
    else if r = 3 * (fixOne / 2) then exactly f (.fin true 1 0) false false
    else quarterSin f 0x71 a (decide (fixOne < r)) (r % fixOne)

/-- ftanh: (e^2a - 1) / (e^2a + 1), near zero a - a^3 / 3 (Table 10.6). -/
def fTanhElem (f : FFmt) (a : Nat) : Elem :=
  match f.decode a with
  | .nan => exactly f .nan true false
  | .inf neg => exactly f (.fin neg 1 0) false true
  | .fin neg m e =>
    if m = 0 then { val := f.code neg 0 }
    else if ratLog2 m 1 + e < -60 then bounded f 0x72 a neg (m * 2 ^ 120 - m) (m * 2 ^ 120) (e - 120) (trigUlps f)
    else if 6 ≤ ratLog2 m 1 + e then bounded f 0x72 a neg (fixOne - 2 ^ 100) fixOne (-(fixBits : Int)) (trigUlps f)
    else
      let z := 2 * (m * 2 ^ (e + fixBits).toNat)
      let n := z / ln2Fix
      let y := expFix (z % ln2Fix) * 2 ^ n
      let v := (y - fixOne) * fixOne / (y + fixOne)
      bounded f 0x72 a neg (v - fixSlack) (min fixOne (v + fixSlack)) (-(fixBits : Int)) (trigUlps f)

end Sys2Proof.Machine
end

