-- ==== Sys2Proof/Machine/Flashback.lean ====
section
/-! DEFINITION. Billets (07 R193 to R196): the snapshot at a billet entry, its signature (16 R413), and the flashback of a split
(07 R195, Table 7.6; 15 R397). -/

namespace Sys2Proof.Machine

/-- The bytes over which a signature is formed, and the signature (R413). -/
def Snapshot.bytes (n : Snapshot) : List Byte :=
  n.vregs.flatMap (fun e => e.2.flatMap fun p => toBytes 4 p.2.toNat)
    ++ n.sregs.flatMap (fun e => toBytes 8 e.2.toNat)
    ++ n.preds.flatMap (fun e => toBytes 8 e.2.toNat)
    ++ toBytes 8 n.fmt.toNat ++ toBytes 8 n.mask.toNat ++ toBytes 8 n.depth

def Snapshot.signature (n : Snapshot) : W64 := crc64 n.bytes

/-- The snapshot to which a split is rewound. At normal level, a split that stands at a safe point of its image with no word of the clause
issued has reached that billet, whether it has come there by issue, by a transfer or by tret; otherwise it is in the billet that it
has entered (R193). At trap level it is in the one that it had reached when it trapped (R196). -/
def Ctx.rewindTo (s : State) (c : Ctx) : Option Snapshot :=
  match c.sp.trap with
  | some t => t.billet.orElse fun _ => c.sp.billet
  | none =>
    let fresh := c.sp.clause.isNone && (c.sp.resume.all fun e => e.1 = e.2) && (c.launch.safeAt c.sp.pc).isSome
    if fresh then some (takeSnapshot s c c.sp.pc) else c.sp.billet

/-- A snapshot for some of its lanes: that of each part of a split which a division has made (R177, R193; DEDUCED, log 41). -/
def Snapshot.forLanes (n : Snapshot) (m : LaneMask) : Snapshot :=
  { n with
    mask := n.mask &&& m, preds := n.preds.map fun e => (e.1, e.2 &&& m)
    vregs := n.vregs.map fun e => (e.1, e.2.filter fun p => m.getLsbD p.1) }

/-- The vector registers of a group after a flashback of the lanes of a mask: the live-in ones as recorded, the rest undefined
(Table 7.6). -/
def Group.rewindLanes (g : Group) (n : Snapshot) (seed : Nat) : Group :=
  let lanes := lanesOf n.mask
  let g := { g with
    vregs := g.vregs.filter fun e => !(n.mask.getLsbD (e.1 % 64))
    vseed := lanes.foldl (fun t l => Tbl.put t l seed) g.vseed
    skew := n.skew }
  let g := n.vregs.foldl (fun g e => e.2.foldl (fun g p => g.setV e.1 p.1 p.2) g) g
  n.preds.foldl (fun g e => g.setPred e.1 n.mask e.2) g

/-- Commands of a split issued in the billet of a snapshot (Table 7.6). -/
def Core.billetCmds (x : Core) (r : SplitRef) (n : Snapshot) : List (Nat × Command) :=
  x.cmds.filter fun e => ((e.2.group = r.group && e.2.split = r.split) || e.2.also.contains r) && n.start ≤ e.1

/-- A command once a split that issued it has been rewound: the gang's other members are rewound in the same step. -/
def Command.without (x : Command) (r : SplitRef) : Option Command :=
  if x.also.contains r then some { x with also := x.also.erase r }
  else
    match x.also with
    | [] => none
    | m :: ms => some { x with group := m.group, split := m.split, also := ms }

/-- Rewinds a split to a snapshot (R195, Table 7.6). -/
def rewindTo (s : State) (c : Ctx) (n : Snapshot) : State :=
  let core := c.crew.core
  let x := s.core core
  let gone := x.billetCmds c.r n
  let tokens := gone.filterMap fun e => e.2.token
  let streams := (Tbl.mapVal (fun k st =>
      match Tbl.find? n.streams k with
      | some p => if st.group = c.r.group && st.split = c.r.split then { st with pos := p, fetched := [], failed := [] } else st
      | none => st) x.streams).filter fun e =>
    !(e.2.group = c.r.group && e.2.split = c.r.split && (Tbl.find? n.streams e.1).isNone)
  let s := s.setCore core
    { x with
      cmds := x.cmds.filterMap fun e => if gone.any fun g => g.1 = e.1 then (e.2.without c.r).map fun k => (e.1, k) else some e
      streams := streams
      ops := x.ops.filter fun e => !(e.2.members.contains c.r)
      latches := x.latches.filter fun e => e.2.member != c.r
      banks := Tbl.mapVal (fun _ b => if b.loading = some c.r then { b with loading := none } else b) x.banks }
  let s := (gone.filter fun e => (e.2.without c.r).isNone).foldl (fun s e => detachWho s (.command core e.1)) (detachSplit s c.r)
  let s := (x.streams.filter fun e => e.2.group = c.r.group && e.2.split = c.r.split).foldl (fun s e => detachWho s (.stream core e.1)) s
  let seed := s.seed
  let s := { s with seed := seed + 1 }
  let s := s.updLaunch c.g.launch fun l => { l with cordLatch := l.cordLatch.filter fun e => e.1 / 16 != c.g.cord }
  s.updGroup c.r.group fun g =>
    (g.rewindLanes n seed).updSplit c.r.split fun sp =>
      let sp := { sp with
        pc := n.header, mask := n.mask, fmt := n.fmt, sregs := n.sregs, sseed := seed
        pend := sp.pend.filter fun r => !tokens.contains r
        stack := sp.stack.drop (sp.stack.length - n.depth), trecs := n.trecs, repcnt := 0, mprog := 0, trap := none
        pendingTrap := none, clause := none, resume := none, rep := none, wait := .none, paused := false, yieldOn := []
        billet := some n, retried := sp.retried && sp.retry != some n.header, staged := none, unfinished := none, faults := [], answers := [], aborted := none, matched := false
        acquire := 0, back := false, readyAt := none }
      tokens.foldl (fun sp r => sp.setS r 2) sp

/-- A flashback of a split (R195). `confirmed` keeps to the confirmed billet of a clamp (R416). A split that has entered no
billet stays. -/
def flashback (s : State) (r : SplitRef) (confirmed : Bool) : State :=
  match s.ctxOf r with
  | none => s
  | some c =>
    match (if confirmed then c.sp.billet else c.rewindTo s) with
    | none => s
    | some n => rewindTo s c n

/-- Every split of a group (R175). -/
def State.splitsOf (s : State) (gh : Nat) : List SplitRef :=
  match s.group? gh with
  | none => []
  | some g => g.splits.map fun e => { group := gh, split := e.1 }

/-- Every group of a cord. -/
def State.groupsOfCord (s : State) (launch cord : Nat) : List (Nat × Group) :=
  s.groups.filter fun e => e.2.launch = launch && e.2.cord = cord

end Sys2Proof.Machine
end

