-- ==== Sys2Proof/Machine/Clamp.lean ====
section
/-! DEFINITION. The clamp's checking block (16 R407 to R420). Both clusters of a clamp compute the same thing, so the state holds
the leading copy; an act waits in the gate of its pair until COMPARE_ACT presents the trailing copy. -/

namespace Sys2Proof.Machine

/-- The entry is a trap frame that has not been released. -/
def GateEntry.isFrame (e : GateEntry) : Bool := e.kind = 8 && !e.stores.isEmpty

/-- Drops gate entries and held acts: a frame among them has not been written (R361, R416). -/
def dropGate (s : State) (k : Nat) (f : GateEntry → Bool) : State :=
  let p := s.pair k
  let s := s.setPair k { p with gate := p.gate.filter fun e => !f e }
  { s with tenants := (p.gate.filter fun e => f e && e.isFrame).foldl (fun t e =>
      Tbl.upd t e.tenant fun t => { t with frames := t.frames - 1 }) s.tenants }

/-- The unreleased entries of a launch are dropped (R415 step 3, R417). -/
def dropLaunch (s : State) (k launch : Nat) : State := dropGate s k fun e => e.launch = launch

/-- Ends the mismatching launch as CHECK_FAIL (R415 step 3 of IL2, R417). -/
def checkFail (s : State) (launch : Nat) : State := abortLaunch s launch 0x10

/-- A rollback of the mismatching split's cord (R416): unreleased entries are dropped, held acts withdrawn, every group flashed
back to its confirmed billet, and the split notes its target. -/
def rollback (s : State) (k : Nat) (c : Ctx) : State :=
  let inCord (e : GateEntry) : Bool := (s.group? e.split.group).any fun g => g.launch = c.g.launch && g.cord = c.g.cord
  let s := dropGate s k inCord
  let s := (s.groupsOfCord c.g.launch c.g.cord).foldl (fun s e => (s.splitsOf e.1).foldl (fun s r => flashback s r true) s) s
  let p := s.pair k
  let s := s.setPair k { p with mmroll := sat32 p.mmroll }
  s.updSplit c.r fun sp => { sp with retry := (sp.billet.map (·.header)), retried := false }

/-- Escalation (R417). -/
def escalate (s : State) (k : Nat) (c : Ctx) (pc : W64) : State :=
  let r : Report := { cause := 0x10, mask := c.sp.mask, addr := 0, detail := 0 }
  let s := dropLaunch s k c.g.launch
  let s := failWith s c pc r 0 0 false 0x10
  let p := s.pair k
  let s := safePin (s.setPair k { p with mode := 3, mmstat := p.mmstat ||| 0x20#64 })
  let s := (List.range 16).foldl (fun s i => charge s (scoreCore (16 * k + i)) 64) s
  let s := charge s (scorePair k) 64
  let s := errInterrupt s 0
  if s.funcOf c.launch.tenant = 0 then s else errInterrupt s (s.funcOf c.launch.tenant)

/-- The record of a mismatch (Table 16.7), its count, and the scores of Table 16.6. -/
def noteMismatch (s : State) (core grp split launch tenant : Nat) (pc : W64) (kind lane found : Nat) (lead trail : W64) : State :=
  let k := pairOf core
  let p := s.pair k
  let record : W64 :=
    w64 (kind + 16 + core % 8 * 64 + grp * 512 + split * 2 ^ 14 + lane % 64 * 2 ^ 16
      + launch % 65536 * 2 ^ 32 + tenant % 65536 * 2 ^ 48)
  let p := if p.mmstat.getLsbD 4 && p.mmstat.getLsbD 5 then p else { p with mmstat := record, mmpc := pc, mmlead := lead, mmtrail := trail }
  let s := s.setPair k { p with mmcnt := sat32 p.mmcnt }
  if kind = 9 then charge s (scoreCore found) 32 else charge (charge s (scoreCore core) 16) (scoreCore (core + 8)) 16

/-- A mismatch on a pair (R415): the record of Table 16.7, the scores of Table 16.6, then abort, rollback or escalation. A fault of
one cluster alone (kind 9) is found in core `found`. -/
def mismatch (s : State) (r : SplitRef) (pc : W64) (kind lane found : Nat) (lead trail : W64) : State :=
  match s.ctxOf r with
  | none => s
  | some c =>
    let core := c.crew.core
    let k := pairOf core
    let s := noteMismatch s core c.g.grpid r.split c.g.launch c.launch.tenant pc kind lane found lead trail
    if c.launch.il = 2 then checkFail (dropLaunch s k c.g.launch) c.g.launch
    else
      let again := c.sp.retry.isSome && c.sp.retry = (c.sp.billet.map (·.header))
      if again || (kind = 7 && c.sp.sealed) then escalate s k c pc else rollback s k c

/-- The instruction word that a split issues: the first compared field of commands and crew-state acts (Table 16.2). -/
def Ctx.word (c : Ctx) : W64 := (c.sp.clause.bind fun k => k.words[k.next]?).getD 0

/-- An act that takes effect only when its trailing copy matches (R410, R411): outside a clamp, or once it has matched, it goes
on; otherwise the split waits in the checking block. -/
def held (s : State) (c : Ctx) (kind : Nat) (lead : W64) (k : State) : State :=
  if !c.checked || c.sp.matched then k
  else (pushGate s c { gateEntry c kind lead with held := true }).waitFor c.r .check

/-- An act that is compared and does not wait (R412: branches). -/
def compared (s : State) (c : Ctx) (kind : Nat) (lead : W64) : State :=
  if c.checked then pushGate s c (gateEntry c kind lead) else s

/-- An act that cannot be repeated has been performed in the billet (R417). -/
def State.seal (s : State) (r : SplitRef) : State := s.updSplit r fun sp => { sp with sealed := true }

/-- c(x) of R245: the exponent field of a magnitude followed by the top k - 1 bits of its fraction, k = min(8, p). -/
def FFmt.topBits (f : FFmt) (x : Nat) : Nat :=
  (if f.signed then x % 2 ^ (f.width - 1) else x) / 2 ^ (f.prec - min 8 f.prec)

/-- The main result and the shadow's agree (R245). Two zeros of one sign are finite with one sign and one c. -/
def shadowAgrees (f : FFmt) (m h : Nat) : Bool :=
  let neg (x : Nat) : Bool := f.signed && 2 ^ (f.width - 1) ≤ x
  match f.decode m, f.decode h with
  | .nan, .nan => true
  | .inf a, .inf b => a == b
  | .fin _ _ _, .fin _ _ _ => neg m == neg h && f.topBits m - f.topBits h ≤ 1 && f.topBits h - f.topBits m ≤ 1
  | _, _ => false

/-- The shadow unit's result of a split's float instruction whose main result is `m`, where a disturbance has touched it. -/
def State.shadowOf (s : State) (r : SplitRef) (f : FFmt) (m : Nat) : Option Nat :=
  (s.shadowErr.find? fun e => e.1 = r).map fun e => Nat.xor (m % 2 ^ f.width) (e.2 % 2 ^ f.width)

def State.shadowDone (s : State) (r : SplitRef) : State := { s with shadowErr := s.shadowErr.filter fun e => e.1 != r }

/-- A float result passes its shadow unit (R245, R423): where the two diverge, SHADOW is raised precisely, with no register written, and
the core is charged. `m` is the result that a disturbance touches: the first element of the lowest active lane. At integrity level 0
the shadow units are off; in a clamp one copy's divergence is a mismatch of kind 9 (R420). -/
def withShadow (s : State) (c : Ctx) (mask : LaneMask) (f : FFmt) (m : Nat) (k : State → State) : State :=
  if c.launch.il = 0 then k s
  else
    match s.shadowOf c.r f m with
    | none => k s
    | some h =>
      let s := s.shadowDone c.r
      if shadowAgrees f (m % 2 ^ f.width) h then k s
      else
        let s := charge s (scoreCore c.crew.core) 8
        if c.checked then mismatch s c.r c.sp.pc 9 0 c.crew.core 0 0 else raise s c causeShadow mask

end Sys2Proof.Machine
end

