-- ==== Sys2Proof/Machine/Operands.lean ====
section
/-! DEFINITION. Operand forms of the S and V classes (08 R207, R210, R211; 10 R253, R254) and the shared shapes of their
instructions: once per split, or per lane. -/

namespace Sys2Proof.Machine

/-! Types (Table 8.7). -/

/-- Element width of an integer type. -/
def tyW (ty : BitVec 3) : Nat :=
  match ty.toNat with
  | 0 | 1 => 32
  | 2 | 3 => 16
  | 4 | 5 => 64
  | _ => 8

def tySigned (ty : BitVec 3) : Bool := ty.toNat % 2 == 0

/-- Elements of an integer operand. -/
def tyCount (ty : BitVec 3) : Nat :=
  match ty.toNat with
  | 2 | 3 => 2
  | 6 | 7 => 4
  | _ => 1

/-- The float format of a type (Table 8.7). -/
def tyFmt (ty : BitVec 3) : FFmt :=
  match ty.toNat with
  | 0 => fmtF32
  | 1 => fmtF16
  | 2 => fmtBf16
  | _ => fmtF64

/-- Elements of a float operand. -/
def tyFCount (ty : BitVec 3) : Nat := if ty.toNat = 1 ∨ ty.toNat = 2 then 2 else 1

/-! Scalar operands (R253). -/

/-- The second source: MOD sign-extended when SB = 0xFF, otherwise a scalar (R210). -/
def Ctx.sB (c : Ctx) (f : RF) : W64 := if f.sb = 0xFF then f.md.signExtend 64 else c.sp.s f.sb.toNat

/-- A scalar source narrowed to the type's width. -/
def narrowS (ty : BitVec 3) (x : W64) : Nat := x.toNat % 2 ^ tyW ty

/-- A result extended to 64 bits: by sign for i32, by zeros for n32 (R253). -/
def extendS (ty : BitVec 3) (v : Nat) : W64 :=
  if ty.toNat = 0 then (BitVec.ofNat 32 v).signExtend 64 else if ty.toNat = 1 then w64 (v % 2 ^ 32) else w64 v

/-! Vector operands (R210, R254). -/

/-- A lane's operand of `span` registers as a number. -/
def Group.num (g : Group) (r lane span : Nat) : Nat := if span = 2 then (g.v64 r lane).toNat else (g.v r lane).toNat

/-- A scalar in a vector source position: its low 32 bits, or all 64 for a 64-bit type. -/
def Split.num (sp : Split) (r span : Nat) : Nat := if span = 2 then (sp.s r).toNat else (sp.s r).toNat % 2 ^ 32

def Ctx.va (c : Ctx) (f : RF) (span lane : Nat) : Nat := c.g.num f.sa.toNat lane span
def Ctx.vb (c : Ctx) (f : RF) (span lane : Nat) : Nat :=
  if f.sbs then c.sp.num f.sb.toNat span else c.g.num f.sb.toNat lane span
def Ctx.vc (c : Ctx) (f : RF) (span lane : Nat) : Nat :=
  if f.scs then c.sp.num f.sc.toNat span else c.g.num f.sc.toNat lane span

/-- Writes a lane's result of `span` registers. -/
def Group.setNum (g : Group) (r lane span v : Nat) : Group :=
  if span = 2 then g.setV64 r lane (w64 v) else g.setV r lane (BitVec.ofNat 32 v)

/-- An operation on each of `n` elements of `w` bits of a lane's operands (R254). -/
def mapElems (w n : Nat) (op : Nat → Nat → Nat → Elem) (a b c : Nat) : Elem :=
  (List.range n).foldl (fun acc k =>
    let e := op (bits a (w * k) w) (bits b (w * k) w) (bits c (w * k) w)
    { val := acc.val + e.val % 2 ^ w * 2 ^ (w * k), marks := acc.marks.join e.marks }) { val := 0 }

/-- The marks of a list of lanes, in order. -/
def marksOf (lanes : List Nat) (val : Nat → Elem) : Marks := lanes.foldl (fun m l => m.join (val l).marks) {}

/-- An S-class instruction that acts once if its guard holds in a lane of the mask; either way it retires (R207). -/
def once (s : State) (c : Ctx) (q : Guard) (k : State) : State := if c.any q then k else s.retire c.r

/-- Writes a scalar result with its marks, once, and retires. -/
def scalarOp (s : State) (c : Ctx) (q : Guard) (dst : BitVec 8) (e : Elem) (ext : Nat → W64) : State :=
  once s c q (((s.updSplit c.r fun sp => sp.setS dst.toNat (ext e.val)).note c.r.group c.g.launch e.marks).retire c.r)

/-- An integer operation on scalars (R253, R255). -/
def scalarInt (f : RF) (op : Nat → Bool → Nat → Nat → Elem) (s : State) : Host.Outcome State Fault Refusal :=
  withCtx s fun c =>
    scalarOp s c f.g f.dst (op (tyW f.ty) (tySigned f.ty) (narrowS f.ty (c.sp.s f.sa.toNat)) (narrowS f.ty (c.sB f))) (extendS f.ty)

/-- Writes each lane's result. -/
def Group.writeLanes (g : Group) (lanes : List Nat) (dst span : Nat) (val : Nat → Nat) : Group :=
  lanes.foldl (fun g l => g.setNum dst l span (val l)) g

/-- A per-lane instruction that writes vector registers in the lanes `m`: only active lanes leave marks (R174), and with no active
lane it has no effect (R207). -/
def laneOpOn (s : State) (c : Ctx) (q : Guard) (m : LaneMask) (dst : BitVec 8) (span : Nat) (val : Nat → Elem) : State :=
  if !c.any q then s.retire c.r
  else
    ((s.updGroup c.r.group fun g => g.writeLanes (lanesOf m) dst.toNat span fun l => (val l).val).note
      c.r.group c.g.launch (marksOf (lanesOf (c.active q)) val)).retire c.r

/-- A V-class instruction writes the helper lanes too (R174). -/
def laneOp (s : State) (c : Ctx) (q : Guard) (dst : BitVec 8) (span : Nat) (val : Nat → Elem) : State :=
  laneOpOn s c q (c.vactive q) dst span val

/-- The result of the lowest active lane, which a disturbed shadow unit is compared with (R245). -/
def Ctx.firstOf (c : Ctx) (q : Guard) (val : Nat → Nat) : Nat := ((lowLane (c.active q)).map val).getD 0

/-- A per-lane float instruction with results in a format: they pass the shadow units (R245, R276). -/
def floatOp (s : State) (c : Ctx) (q : Guard) (t : FFmt) (dst : BitVec 8) (span : Nat) (val : Nat → Elem) : State :=
  if !c.any q then s.retire c.r
  else withShadow s c (c.active q) t (c.firstOf q fun l => (val l).val) fun s => laneOp s c q dst span val

/-- A conversion writes the active lanes only (R247; log 43); a result in a float format passes the shadow units (R245). The first element of
a lane's result lies at bit `lo`. -/
def convOp (s : State) (c : Ctx) (q : Guard) (t : Option FFmt) (dst : BitVec 8) (span : Nat) (val : Nat → Elem) (lo : Nat := 0) : State :=
  if !c.any q then s.retire c.r
  else
    match t with
    | none => laneOpOn s c q (c.active q) dst span val
    | some t => withShadow s c (c.active q) t (c.firstOf q fun l => (val l).val / 2 ^ lo) fun s => laneOpOn s c q (c.active q) dst span val

/-- A per-lane instruction that writes a predicate; inactive lanes keep theirs (R259). -/
def predOp (s : State) (c : Ctx) (q : Guard) (dst : BitVec 8) (val : Nat → Bool) : State :=
  if !c.any q then s.retire c.r
  else (s.updGroup c.r.group fun g => g.setPred dst.toNat (c.vactive q) (maskOf val)).retire c.r

/-- An integer operation on the elements of each lane (R254, R255). -/
def vectorInt (f : RF) (op : Nat → Bool → Nat → Nat → Nat → Elem) (s : State) : Host.Outcome State Fault Refusal :=
  withCtx s fun c =>
    let n := intSpan f.ty
    laneOp s c f.g f.dst n fun l =>
      mapElems (tyW f.ty) (tyCount f.ty) (op (tyW f.ty) (tySigned f.ty)) (c.va f n l) (c.vb f n l) (c.vc f n l)

/-- FMT.RND and FMT.SAT of a split (Table 9.6). -/
def Split.rnd (sp : Split) : Nat := fld sp.fmt 24 2
def Split.sat (sp : Split) : Bool := sp.fmt.getLsbD 26
def Split.atb (sp : Split) : Nat := fld sp.fmt 29 1

/-- A float operation on the elements of each lane, rounding under FMT.RND (R276, R277). -/
def vectorFloat (f : RF) (op : FFmt → Nat → Nat → Nat → Nat → Elem) (s : State) : Host.Outcome State Fault Refusal :=
  withCtx s fun c =>
    let n := floatSpan f.ty
    let t := tyFmt f.ty
    floatOp s c f.g t f.dst n fun l =>
      mapElems t.width (tyFCount f.ty) (op t c.sp.rnd) (c.va f n l) (c.vb f n l) (c.vc f n l)

/-! The integer operations of Table 10.1, on elements of `w` bits. -/

def exact (w : Nat) (x : Int) : Elem := { val := wrapTo w x }

def opAdd (w : Nat) (_ : Bool) (a b : Nat) : Elem := exact w (a + b)
def opSub (w : Nat) (_ : Bool) (a b : Nat) : Elem := exact w (a - b)
def opMul (w : Nat) (_ : Bool) (a b : Nat) : Elem := exact w (a * b)
def opMulh (w : Nat) (sg : Bool) (a b : Nat) : Elem := exact w (asInt w sg a * asInt w sg b / 2 ^ w)
def opMin (w : Nat) (sg : Bool) (a b : Nat) : Elem := { val := if asInt w sg b < asInt w sg a then b else a }
def opMax (w : Nat) (sg : Bool) (a b : Nat) : Elem := { val := if asInt w sg a < asInt w sg b then b else a }
def opAnd (_ : Nat) (_ : Bool) (a b : Nat) : Elem := { val := Nat.land a b }
def opOr (_ : Nat) (_ : Bool) (a b : Nat) : Elem := { val := Nat.lor a b }
def opXor (_ : Nat) (_ : Bool) (a b : Nat) : Elem := { val := Nat.xor a b }
def opNot (w : Nat) (a : Nat) : Elem := { val := 2 ^ w - 1 - a % 2 ^ w }
def opShl (w : Nat) (_ : Bool) (a b : Nat) : Elem := { val := a * 2 ^ (b % w) % 2 ^ w }
def opShr (w : Nat) (sg : Bool) (a b : Nat) : Elem := exact w (asInt w sg a / 2 ^ (b % w))
def opRot (w : Nat) (a b : Nat) : Elem := { val := (a * 2 ^ (b % w) + a / 2 ^ (w - b % w)) % 2 ^ w }

/-- Quotient and remainder (R256). -/
def opDivRem (rem : Bool) (w : Nat) (sg : Bool) (a b : Nat) : Elem :=
  if b = 0 then { val := if rem then a else 2 ^ w - 1, marks := { sticky := stickyDivz, events := [divCounter] } }
  else if sg && asInt w sg a = intMin w sg && asInt w sg b = -1 then
    { val := if rem then 0 else a, marks := { sticky := stickyDivovf, events := [divCounter] } }
  else exact w (if rem then Int.tmod (asInt w sg a) (asInt w sg b) else Int.tdiv (asInt w sg a) (asInt w sg b))

/-- A result that saturates when SAT is set and wraps otherwise (R257). -/
def wrapOrSat (sat : Bool) (w : Nat) (sg : Bool) (x : Int) : Elem := if sat then satTo w sg x else exact w x

/-- Integer conditions (Table 10.3). -/
def intCond (cond w : Nat) (sg : Bool) (a b : Nat) : Bool :=
  let x := asInt w sg a
  let y := asInt w sg b
  match cond with
  | 0 => x == y
  | 1 => x != y
  | 2 => x < y
  | 3 => x ≤ y
  | 4 => y < x
  | _ => y ≤ x

/-- The bits of a number that are set, among `w`. -/
def onesOf (w a : Nat) : List Nat := (List.range w).filter fun i => bits a i 1 == 1

/-- Population count, leading zeros, trailing zeros, bit reversal (R261). -/
def bitOp (op w a : Nat) : Nat :=
  match op with
  | 0 => (onesOf w a).length
  | 1 => match (onesOf w a).getLast? with
    | some i => w - 1 - i
    | none => w
  | 2 => (onesOf w a).headD w
  | _ => (onesOf w a).foldl (fun acc i => acc + 2 ^ (w - 1 - i)) 0

/-- A bit field, sign-extended to `w` bits when `sx` (R262). -/
def bitField (w a pos len : Nat) (sx : Bool) : Nat :=
  let v := bits a pos len
  if sx then wrapTo w (asInt len true v) else v

end Sys2Proof.Machine
end

