-- ==== Sys2Proof/Machine/Access.lean ====
section
/-! DEFINITION. The per-lane accesses of the M class (11 R296 to R303, 06 R163, 04 R98, 15 R389): the sweep over the lanes that
have translated, what a refusal does, acquire and release, and reads of a whole structure. -/

namespace Sys2Proof.Machine

/-- How a sweep over lanes came out: the values of the lanes that performed, the lanes that were refused, and the lanes left when
one had to wait. -/
structure Sweep (α : Type) where
  s : State
  vals : List (Nat × α)
  fatal : List (Nat × Xlated × Stop)
  left : List Nat
  wait : Option Stop

/-- Performs each lane in turn, ascending (R116); a refused lane does not stop the others, a lane that must wait does. -/
def sweep {α : Type} (s : State) (f : State → Nat → Xlated → Res α) : List (Nat × Xlated) → Sweep α
  | [] => { s := s, vals := [], fatal := [], left := [], wait := none }
  | (l, x) :: rest =>
    match f s l x with
    | .ok s v =>
      let r := sweep s f rest
      { r with vals := (l, v) :: r.vals }
    | .stop s w =>
      if w.fatal then
        let r := sweep s f rest
        { r with fatal := (l, x, w) :: r.fatal }
      else { s := s, vals := [], fatal := [], left := l :: rest.map (·.1), wait := some w }

/-- Rank of a cause found after translation (R389, R33): XLATE_PERM with reason 11, UNB_NORES, UNB_EVICT, ECC_ABORT, HOST_ABORT. -/
def stopRank : Stop → Nat
  | .writeOnce _ => 0
  | .unbNores _ => 1
  | .unbEvict _ => 2
  | .hostAbort _ => 4
  | _ => 3

/-- Asks for a late framing of the page of a refused line (R102). -/
def addLate (s : State) (part tenant va line : Nat) (who : Walker) : State :=
  let p := s.part part
  let late :=
    if p.late.any fun j => j.tenant = tenant && j.line = line then
      p.late.map fun j =>
        if j.tenant = tenant && j.line = line && !j.who.contains who then { j with who := j.who ++ [who] } else j
    else p.late ++ [{ tenant := tenant, va := va, line := line, who := [who] }]
  s.setPart part { p with late := late }

/-- A split whose line was refused on a page with LATE = 1 waits for the late framing (R102). -/
def startLate (s : State) (c : Ctx) (va : W64) (x : Xlated) : State :=
  (addLate s c.part c.launch.tenant va.toNat (x.pa / 128) (.split c.r c.crew.core)).waitFor c.r
    (.line (lineKey c.part (x.pa / 128) x.view))

/-- The trap of the highest-ranking refusal, with its lanes (R389, Table 4.4). Where lanes of one instruction were refused on pages of either
LATE, the page of the first refused lane decides between the trap and the late framing (DESIGN CHOICE, log 88). -/
def raiseFatal (s : State) (c : Ctx) (acc : Access) (addrs : List (Nat × W64)) : List (Nat × Xlated × Stop) → State
  | [] => s
  | b :: bs =>
    let top := bs.foldl (fun t x => if stopRank x.2.2 < stopRank t.2.2 then x else t) b
    let mask := maskOf fun l => (b :: bs).any fun x => x.1 = l && stopRank x.2.2 = stopRank top.2.2
    let va := ((addrs.find? fun p => p.1 = top.1).map (·.2)).getD 0
    match top.2.2 with
    | .unbEvict _ =>
      if top.2.1.late then startLate s c va top.2.1 else raise s c 8 mask (w64 (top.2.1.pa / 32 * 32))
    | .unbNores _ => raise s c 9 mask (w64 (top.2.1.pa / 32 * 32))
    | .writeOnce _ => raiseVa s c causePerm mask va (detailWord 11 0 0 false acc)
    | .hostAbort _ => raise s c causeHostAbort mask (sector va)
    | _ => raise s c causeEcc mask (sector va)

/-- The lanes whose unbacked line has been refused, and is not there (R98). -/
def refusedLanes (s : State) (c : Ctx) (good : List (Nat × Xlated)) : List (Nat × Xlated) :=
  good.filter fun p => p.2.unb && (Tbl.find? s.caches.l2 (lineKey c.part (p.2.pa / 128) p.2.view)).isNone

/-- An outbound access or a late framing that failed raises its cause precisely: with the lanes of its line, or with every lane whose line
was refused (R392, R393, R98, R102). -/
def withAborted (s : State) (c : Ctx) (good : List (Nat × Xlated)) (addrs : List (Nat × W64)) (k : State) : State :=
  match c.sp.aborted with
  | none => k
  | some (cause, a) =>
    let late := 6 ≤ cause && cause ≤ 9
    let hit := if late then refusedLanes s c good else good.filter fun p => p.2.pa / 128 = a / 128
    let mask := if hit.isEmpty then c.sp.mask else maskOf fun l => hit.any fun p => p.1 = l
    let line := w64 (((hit.head?.map fun p => p.2.pa).getD a) / 32 * 32)
    let va := ((addrs.find? fun p => hit.any fun h => h.1 = p.1).map fun p => sector p.2).getD line
    raise s c cause mask (if cause = 8 ∨ cause = 9 then line else va)

/-- Marks the lanes that have still to perform. -/
def leave (s : State) (c : Ctx) (lanes : List Nat) : State :=
  s.updSplit c.r fun sp => { sp with unfinished := some (maskOf fun l => lanes.contains l) }

/-- Ends a sweep: waits, or traps, or parks the lanes that have to, or goes on. Where lanes of the instruction have parked, those that performed
are done, and the refused ones wait with the parked ones (R163, R98); otherwise an instruction that traps has no effect, and one
that waits does so as a whole, unless it is one whose lanes keep what they have performed (`keeps`: a store). -/
def Sweep.settle {α : Type} (w : Sweep α) (c : Ctx) (acc : Access) (addrs : List (Nat × W64)) (keeps : Bool)
    (bad : Option (List (Nat × XFault × W64))) (write : State → List (Nat × α) → State)
    (k : State → List (Nat × α) → State) : State :=
  let parked := (bad.getD []).map (·.1)
  let refused := w.fatal.map (·.1)
  let partly := c.sp.unfinished.isSome
  match w.wait with
  | some stop =>
    let s := if keeps || partly || bad.isSome then leave (write w.s w.vals) c (w.left ++ refused ++ parked) else w.s
    waitStop s c.r c.part c.launch.tenant false stop
  | none =>
    match bad with
    | some bad => parkLanes (leave (write w.s w.vals) c (refused ++ parked)) c acc bad
    | none =>
      if w.fatal.isEmpty then k w.s w.vals
      else raiseFatal (if partly then leave (write w.s w.vals) c refused else w.s) c acc addrs w.fatal

/-- The lanes of an M-class instruction that have still to perform. -/
def Ctx.todo (c : Ctx) (q : Guard) : List Nat := lanesOf (c.active q &&& c.sp.unfinished.getD (BitVec.allOnes 64))

/-- The request of a lane's line. -/
def laneReq (c : Ctx) (keep : List Nat) (x : Xlated) : Req :=
  { reqOf c.part c.crew.core x c.sp.answers keep with tenant := c.launch.tenant }

/-- One lane's read of `n` bytes (R299); in a clamp the core's unreleased stores come first (R409). -/
def readLane (c : Ctx) (n : Nat) (s : State) (_ : Nat) (x : Xlated) : Res Nat :=
  let q := laneReq c [] x
  (coreRead s c.crew.core q x.cls (byteSpan (x.pa % 128) n)).bind fun s d =>
    .ok s (lineField (if c.checked then overGate s c.crew.core q d else d) (x.pa % 128) n)

/-- The line keys of the unbacked lanes: a reclaim may not take them (R98 step 2). -/
def keepKeys (c : Ctx) (good : List (Nat × Xlated)) : List Nat :=
  (good.filter fun p => p.2.unb).map fun p => lineKey c.part (p.2.pa / 128) p.2.view

/-- Notes the lines that a sweep has allocated for an instruction or command which still waits for others (R98 step 2). -/
def holdZeros (old s : State) (who : Walker) (pc : W64) (keys : List Nat) : State :=
  let new := keys.filter fun k =>
    (Tbl.find? s.caches.l2 k).any (·.unb.isSome) && ((Tbl.find? old.caches.l2 k).all fun l => l.unb = some .zero)
      && !s.caches.zeros.contains (k, who, pc)
  s.setCaches { s.caches with zeros := s.caches.zeros ++ new.map fun k => (k, who, pc) }

/-- A line that was allocated for an instruction which is refused stays Zero, with no holder (R98), as long as nothing has been written to
it. -/
def demoteLine (s : State) (part lk : Nat) : State :=
  match Tbl.find? s.caches.l2 lk with
  | none => s
  | some l =>
    let held := s.caches.l1.filter fun x =>
      x.2.line = l.line && x.2.view = l.view && x.2.perm != .sinv && s.ownsCluster part (x.2.core / 8)
    if l.unb = some .written && l.data = 0 && held.all fun x => x.2.data = 0 then
      let s := held.foldl (fun s x => (evictL1 s part x.1 x.2).state) s
      match Tbl.find? s.caches.l2 lk with
      | some l => s.setL2 lk { l with unb := some .zero }
      | none => s
    else s

/-- The lines that were allocated for a split's refused instruction (R98). -/
def demote (s : State) (c : Ctx) : State :=
  (s.caches.zeros.filter fun z => z.2.1 = .split c.r c.crew.core && z.2.2 = c.sp.pc).foldl (fun s z => demoteLine s c.part z.1) s

/-- Unreleased stores that have retired into the gate of a core's pair. -/
def gateStores (s : State) (core : Nat) : List GateEntry :=
  (s.pair (pairOf core)).gate.filter fun e => e.core = core && !e.held && !e.stores.isEmpty

/-- In a clamp an access that is ordered after the split's earlier stores waits until they have left the gate (R120, R126, R143). -/
def withGateEmpty (s : State) (c : Ctx) (k : State) : State :=
  if c.checked && (gateStores s c.crew.core).any fun e => e.split = c.r then s.waitFor c.r (.gate none) else k

/-- The release part of an access of a split (R128, R306): its earlier stores have left the gate, dirty SINV bytes are written back, then a
latched error is raised. -/
def withRelease (s : State) (c : Ctx) (on : Bool) (scope : Nat) (k : State → State) : State :=
  if !on then k s
  else
    let go : State :=
      match releaseL1 s c.part c.crew.core scope with
      | .stop s w => waitStop s c.r c.part c.launch.tenant false w
      | .ok s _ => withLatch s c scope false (k s)
    if scope = 0 then go else withGateEmpty s c go

/-- The acquire part (R128): it ends the instruction. -/
def withAcquire (s : State) (c : Ctx) (on : Bool) (scope : Nat) (k : State → State) : State :=
  if !on then k s
  else
    match acquireL1 s c.part c.crew.core scope with
    | .stop s w => waitStop s c.r c.part c.launch.tenant false w
    | .ok s _ => k s

def acqOf (f : MF) : Bool := f.ord.getLsbD 0
def relOf (f : MF) : Bool := f.ord.getLsbD 1

/-- Reads `n` bytes of the split's virtual memory for the lanes of `mask`, which a fault or a park reports (R163, R164). `rd` reads a piece of
a line. -/
def withBytesOf (s : State) (c : Ctx) (acc : Access) (mask : LaneMask) (rd : Nat → State → Xlated → Res Nat) (va n : Nat)
    (k : State → List Byte → State) : State :=
  let core := c.crew.core
  let tenant := c.launch.tenant
  let pcs := linePieces va (n + 1) n
  let rs := pcs.map fun p => (p, xlate s core tenant (w64 p.1) acc c.sp.faults)
  let missed := rs.filterMap fun e => match e.2 with
    | .miss => some (0, w64 e.1.1)
    | _ => none
  let bad := rs.filterMap fun e => match e.2 with
    | .fault f => some (0, f, w64 e.1.1)
    | _ => none
  if !missed.isEmpty then missWait s c acc missed
  else
    match worst bad, c.sp.aborted with
    | some (.trap cause d, _, a), _ => raiseVa s c cause mask a d
    | some (f, _, a), _ => parkLanes s c acc ((lanesOf mask).map fun l => (l, f, a))
    | none, some (cause, a) => raise s c cause mask (w64 (a / 32 * 32))
    | none, none =>
      let s := pcs.foldl (fun s p => fillTlb s core tenant (w64 p.1) acc) s
      let r : Res (List Byte) := rs.foldl (fun (r : Res (List Byte)) e =>
        r.bind fun s bs =>
          match e.2 with
          | .ok x => (rd e.1.2.2 s x).bind fun s v => .ok s (bs ++ toBytes e.1.2.2 v)
          | _ => .ok s bs) (Res.ok s [])
      match r with
      | .ok s bs => k s bs
      | .stop s w => if w.fatal then raiseStop s c mask acc w else waitStop s c.r c.part tenant false w

/-- A read of a structure, ordered as a load (R273, R284, R319). -/
def withBytes (s : State) (c : Ctx) (mask : LaneMask) (va n : Nat) (k : State → List Byte → State) : State :=
  withBytesOf s c .read mask (fun n s x => readLane c n s 0 x) va n k

/-- A clause fetch, as the core's L1 or the home slice gives the bytes (R200, R164). -/
def withFetch (s : State) (c : Ctx) (va n : Nat) (k : State → List Byte → State) : State :=
  withBytesOf s c .fetch c.sp.mask
    (fun n s x => (engineRead s c.crew.core (laneReq c [] x)).bind fun s d => .ok s (lineField d (x.pa % 128) n)) va n k

end Sys2Proof.Machine
end

