-- ==== Sys2Proof/Machine/Scalar.lean ====
section
/-! DEFINITION. The S-class arithmetic, moves, special registers, FMT and vote (10 R253 to R267, 08 R214, R215). -/

namespace Sys2Proof.Machine

/-- NOP (R264). -/
def execNop (_ : RF) (s : State) : Host.Outcome State Fault Refusal := withCtx s fun c => s.retire c.r

/-- SADD (R255). -/
def execSadd (f : RF) (s : State) : Host.Outcome State Fault Refusal := scalarInt f opAdd s

/-- SSUB (R255). -/
def execSsub (f : RF) (s : State) : Host.Outcome State Fault Refusal := scalarInt f opSub s

/-- SMUL (R255). -/
def execSmul (f : RF) (s : State) : Host.Outcome State Fault Refusal := scalarInt f opMul s

/-- SMULH (R255). -/
def execSmulh (f : RF) (s : State) : Host.Outcome State Fault Refusal := scalarInt f opMulh s

/-- SDIV (R256). -/
def execSdiv (f : RF) (s : State) : Host.Outcome State Fault Refusal := scalarInt f (opDivRem false) s

/-- SREM (R256). -/
def execSrem (f : RF) (s : State) : Host.Outcome State Fault Refusal := scalarInt f (opDivRem true) s

/-- SAND (R255). -/
def execSand (f : RF) (s : State) : Host.Outcome State Fault Refusal := scalarInt f opAnd s

/-- SOR (R255). -/
def execSor (f : RF) (s : State) : Host.Outcome State Fault Refusal := scalarInt f opOr s

/-- SXOR (R255). -/
def execSxor (f : RF) (s : State) : Host.Outcome State Fault Refusal := scalarInt f opXor s

/-- SSHL (R255). -/
def execSshl (f : RF) (s : State) : Host.Outcome State Fault Refusal := scalarInt f opShl s

/-- SSHR (R255). -/
def execSshr (f : RF) (s : State) : Host.Outcome State Fault Refusal := scalarInt f opShr s

/-- SMIN (R255). -/
def execSmin (f : RF) (s : State) : Host.Outcome State Fault Refusal := scalarInt f opMin s

/-- SMAX (R255). -/
def execSmax (f : RF) (s : State) : Host.Outcome State Fault Refusal := scalarInt f opMax s

/-- SCMP: the same value in every lane of the split's mask (R259). -/
def execScmp (f : RF) (s : State) : Host.Outcome State Fault Refusal :=
  withCtx s fun c =>
    let v := intCond (f.sc.toNat % 16) (tyW f.ty) (tySigned f.ty) (narrowS f.ty (c.sp.s f.sa.toNat)) (narrowS f.ty (c.sB f))
    once s c f.g
      ((s.updGroup c.r.group fun g => g.setPred f.dst.toNat c.sp.mask (if v then BitVec.allOnes 64 else 0)).retire c.r)

/-- SMOV (R264). -/
def execSmov (f : RF) (s : State) : Host.Outcome State Fault Refusal :=
  withCtx s fun c => scalarOp s c f.g f.dst { val := narrowS f.ty (c.sp.s f.sa.toNat) } (extendS f.ty)

/-- SMOVI: sign-extended under TY 0 and 4, zero-extended under TY 1 and 5 (R264). -/
def execSmovi (f : IF) (s : State) : Host.Outcome State Fault Refusal :=
  withCtx s fun c =>
    scalarOp s c f.g f.dst { val := 0 } fun _ => if tySigned f.ty then f.imm.signExtend 64 else f.imm.setWidth 64

/-- SMOVHI (R264). -/
def execSmovhi (f : IF) (s : State) : Host.Outcome State Fault Refusal :=
  withCtx s fun c => scalarOp s c f.g f.dst { val := 0 } fun _ => f.imm ++ (c.sp.s f.dst.toNat).extractLsb' 0 32

/-- SLEA: the shift stands in SC (R263). -/
def execSlea (f : RF) (s : State) : Host.Outcome State Fault Refusal :=
  scalarInt f (fun w _ a b => exact w (a + b * 2 ^ (f.sc.toNat % 8))) s

/-- SSEL: the predicate of the lowest lane of the mask chooses (R260). -/
def execSsel (f : RF) (s : State) : Host.Outcome State Fault Refusal :=
  withCtx s fun c =>
    let take := (lowLane c.sp.mask).any fun l => (c.g.pred f.sc.toNat).getLsbD l
    scalarOp s c f.g f.dst { val := narrowS f.ty (c.sp.s (if take then f.sa.toNat else f.sb.toNat)) } (extendS f.ty)

/-- SBIT (R261). -/
def execSbit (f : RF) (s : State) : Host.Outcome State Fault Refusal :=
  withCtx s fun c =>
    scalarOp s c f.g f.dst { val := bitOp (f.m 0 2) (tyW f.ty) (narrowS f.ty (c.sp.s f.sa.toNat)) } (extendS f.ty)

/-- SBFX (R262). -/
def execSbfx (f : RF) (s : State) : Host.Outcome State Fault Refusal :=
  withCtx s fun c =>
    scalarOp s c f.g f.dst
      { val := bitField (tyW f.ty) (narrowS f.ty (c.sp.s f.sa.toNat)) f.sb.toNat f.sc.toNat (f.m 0 1 == 1) } (extendS f.ty)

/-- Cycles until the next refresh window of a bank: at reset at least as many as give WSREF its reset value 0xE (Table 2.8), and from then on
free (log 6). -/
def State.refreshLeft (s : State) (b : Nat) : Nat := if s.cycle = 0 then 14 * 1024 else Config.refreshGap s.steps b

/-- WSREF (Table 2.8): a field reads 0xF in refresh, otherwise the cycles left in units of 1,024, up to 14. -/
def State.wsref (s : State) (p : Nat) : Nat :=
  (List.range 16).foldl (fun acc i =>
    let v := match (s.part p).ports[i]? with
      | none => 0xE
      | some b => if Tbl.getD s.dev.refresh b false then 0xF else min 14 (s.refreshLeft b / 1024)
    acc + v * 16 ^ i) 0

/-- UNBFREE (Table 4.1). -/
def State.unbfree (s : State) (p : Nat) : Nat :=
  let x := s.part p
  let slices := x.ports.flatMap fun m => (List.range 4).map fun j => 4 * m + j
  let free := (slices.map fun sl => x.resvN - s.countedSlice p sl).sum
  let lost := !x.lostAll.isEmpty || x.lost.any fun e => !e.2.isEmpty
  free % 2 ^ 24 + slices.length * x.resvN % 2 ^ 24 * 2 ^ 24 + (if lost then 2 ^ 63 else 0)

/-- A special register of a split, by its index (Table 8.9). LANEID and QUADID are read per lane instead. -/
def State.special (s : State) (c : Ctx) (i : Nat) : W64 :=
  match i with
  | 0x02 => w64 c.g.grpid
  | 0x03 => w64 c.r.split
  | 0x04 => w64 c.crew.crewid
  | 0x05 => w64 c.g.cord
  | 0x06 => w64 (c.g.launch % 65536)
  | 0x07 => w64 c.crew.core
  | 0x08 => w64 (c.crew.core / 8)
  | 0x09 => w64 c.g.width
  | 0x0A => c.sp.fmt
  | 0x0B => c.g.gang
  | 0x0C => c.g.skew
  | 0x0D => w64 s.cycle
  | 0x0E => w64 (s.wsref c.part)
  | 0x0F => w64 (s.unbfree c.part)
  | 0x10 => w64 c.launch.il
  | 0x11 => c.g.sticky
  | 0x12 => c.sp.trapCause
  | 0x13 => c.sp.trapPc
  | 0x14 => c.sp.trapMask
  | 0x15 => c.sp.trapAddr
  | 0x16 => w64 c.sp.repcnt
  | 0x17 => w64 c.sp.mprog
  | _ => 0

/-- SRD (R265): LANEID and QUADID go to a vector register, in the active lanes. -/
def execSrd (f : RF) (s : State) : Host.Outcome State Fault Refusal :=
  withCtx s fun c =>
    match f.sa.toNat with
    | 0 => laneOpOn s c f.g (c.active f.g) f.dst 1 fun l => { val := l }
    | 1 => laneOpOn s c f.g (c.active f.g) f.dst 1 fun l => { val := l / 4 }
    | i => scalarOp s c f.g f.dst { val := 0 } fun _ => s.special c i

/-- FMT as a write leaves it: bits [63:30] stay 0 (R239). -/
def fmtWord (v : W64) : W64 := v &&& 0x3FFFFFFF#64

/-- A write of a special register (R215, Table 8.9). -/
def writeSpecial (s : State) (c : Ctx) (i : Nat) (v : W64) : State :=
  match i with
  | 0x0A => s.updSplit c.r fun sp => { sp with fmt := fmtWord v }
  | 0x0B => s.updGroup c.r.group fun g => { g with gang := v &&& 0x1FFFFFFFF#64 }
  | 0x0C => s.updGroup c.r.group fun g => { g with skew := v &&& 0xFFF3FF80#64 }
  | 0x11 => s.updGroup c.r.group fun g => { g with sticky := g.sticky &&& ~~~v }
  | 0x13 => s.updSplit c.r fun sp => { sp with trapPc := v }
  | 0x14 => s.updSplit c.r fun sp => { sp with trapMask := v }
  | 0x16 => s.updSplit c.r fun sp => { sp with repcnt := fld v 0 6 }
  | 0x17 => s.updSplit c.r fun sp => { sp with mprog := fld v 0 16 }
  | _ => s

/-- Registers that only trap level may write (R215). -/
def trapLevelOnly (i : Nat) : Bool := i == 0x13 || i == 0x14 || i == 0x16 || i == 0x17

/-- SWR (R265): the privilege check comes before the guard (R363). -/
def execSwr (f : RF) (s : State) : Host.Outcome State Fault Refusal :=
  withCtx s fun c =>
    if trapLevelOnly f.dst.toNat && c.sp.trap.isNone then raise s c causePriv c.sp.mask
    else once s c f.g ((writeSpecial s c f.dst.toNat (c.sp.s f.sa.toNat)).retire c.r)

/-- SFMT (R266). -/
def execSfmt (f : RF) (s : State) : Host.Outcome State Fault Refusal :=
  withCtx s fun c => once s c f.g ((s.updSplit c.r fun sp => { sp with fmt := fmtWord (c.sp.s f.sa.toNat) }).retire c.r)

/-- SFMT_RND (R266). -/
def execSfmtRnd (f : RF) (s : State) : Host.Outcome State Fault Refusal :=
  withCtx s fun c => once s c f.g ((s.updSplit c.r fun sp => { sp with fmt := setFld sp.fmt 24 2 (f.m 4 2) }).retire c.r)

/-- SFMT_SAT (R266). -/
def execSfmtSat (f : RF) (s : State) : Host.Outcome State Fault Refusal :=
  withCtx s fun c => once s c f.g ((s.updSplit c.r fun sp => { sp with fmt := setFld sp.fmt 26 1 (f.m 4 1) }).retire c.r)

/-- Binds an activation bank: FMT.ATB (R266, R285). The binding counts are read from the splits' FMT (R283). -/
def bindBank (s : State) (c : Ctx) (b : Nat) : State := s.updSplit c.r fun sp => { sp with fmt := setFld sp.fmt 29 1 b }

/-- SFMT_ATB (R266). -/
def execSfmtAtb (f : RF) (s : State) : Host.Outcome State Fault Refusal :=
  withCtx s fun c => once s c f.g ((bindBank s c (f.m 4 1)).retire c.r)

/-- VOTE (R267): over the active lanes; with none of them it has no effect. -/
def execVote (f : RF) (s : State) : Host.Outcome State Fault Refusal :=
  withCtx s fun c =>
    let act := c.active f.g
    let hold := act &&& c.g.pred f.sa.toNat
    scalarOp s c f.g f.dst { val := 0 } fun _ =>
      match f.m 0 2 with
      | 0 => if hold = 0 then 0 else 1
      | 1 => if hold = act then 1 else 0
      | 2 => hold
      | _ => w64 (lanesCount hold)

end Sys2Proof.Machine
end

