-- ==== Sys2Proof/Machine/Memops.lean ====
section
/-! DEFINITION. The M-class instructions (11 R296 to R311), with tload and the transaction barriers of the C class (R319, R323). -/

namespace Sys2Proof.Machine

/-- The lanes of an access that have still to perform, with their addresses (R209). -/
def Ctx.addrs (c : Ctx) (f : MF) (size : Nat) (off : W64) : List (Nat × W64) :=
  (c.todo f.g).map fun l => (l, laneAddr c f size off l)

/-- The offset of the narrowed form of atom and atoms: a signed 12-bit field (R301). -/
def off12 (f : MF) : W64 := (f.off.extractLsb' 4 12).signExtend 64

/-- The effects that end an instruction without SINV dirty bytes left by its release: after them the SINV lines go (R128). -/
def acquireNow (s : State) (c : Ctx) (on : Bool) (scope : Nat) : State :=
  if on && scope != 0 then sinvInvalidate s c.crew.core else s

/-- An acquire whose write-back is made before the instruction performs (R128): what follows cannot stop. -/
def withWriteBack (s : State) (c : Ctx) (on : Bool) (scope : Nat) (k : State → State) : State :=
  if !on then k s
  else
    let go : State :=
      match releaseL1 s c.part c.crew.core scope with
      | .stop s w => waitStop s c.r c.part c.launch.tenant false w
      | .ok s _ => k s
    if scope = 0 then go else withGateEmpty s c go

/-- A load that acquires at .dev or .sys scope in a clamp does not see a store of another split of its core before every other agent can:
it waits until the store has left the gate (R125). -/
def withGateSeen (s : State) (c : Ctx) (on : Bool) (good : List (Nat × Xlated)) (k : State) : State :=
  let hit := good.find? fun p => (gateStores s c.crew.core).any fun e =>
    e.split != c.r && e.stores.any fun x => x.part = c.part && x.line = p.2.pa / 128 && x.view = p.2.view
  match hit with
  | some p => if c.checked && on then s.waitFor c.r (.gate (some (lineKey c.part (p.2.pa / 128) p.2.view))) else k
  | none => k

/-! Loads and stores. -/

/-- Writes the loaded values of lanes (R297). -/
def writeLoads (c : Ctx) (f : MF) (s : State) (vals : List (Nat × Nat)) : State :=
  s.updGroup c.r.group fun g => vals.foldl (fun g e => setLaneData g f.dst.toNat e.1 f.ty e.2) g

/-- The virtual address of a lane. -/
def addrOf (addrs : List (Nat × W64)) (l : Nat) : W64 := ((addrs.find? fun p => p.1 = l).map (·.2)).getD 0

/-- An access of a tenant touches the cache-backed region of one of its resident groups (R32, R398). -/
def State.inRegion (s : State) (tenant n : Nat) (va : W64) : Bool :=
  let near (r : W64) : Bool := decide (r.toNat < va.toNat + n) && decide (va.toNat < r.toNat + 2 ^ 18)
  ((s.tenant? tenant).bind (·.pool)).isSome && s.groups.any fun e =>
    match s.launch? e.2.launch with
    | some l => l.tenant = tenant && (near e.2.region || decide (2 ≤ l.il) && near e.2.region2)
    | none => false

/-- What a lane's load or atomic finds in generic memory: in a cache-backed region an undefined value, a free one (R32). -/
def observed (s : State) (c : Ctx) (n : Nat) (addrs : List (Nat × W64)) (l v : Nat) : Nat :=
  let va := addrOf addrs l
  if s.inRegion c.launch.tenant n va then
    leBytes ((List.range n).map fun i => Config.freeByte s.steps (2 ^ 64 * (l + 1) + va.toNat + i))
  else v

/-- Writes what the lanes of a load or atomic found in generic memory (R32). -/
def foundLoads (s0 : State) (c : Ctx) (f : MF) (n : Nat) (addrs : List (Nat × W64)) (s : State) (vals : List (Nat × Nat)) : State :=
  writeLoads c f s (vals.map fun v => (v.1, observed s0 c n addrs v.1 v.2))

/-- LD (R299). -/
def execLd (f : MF) (s : State) : Host.Outcome State Fault Refusal :=
  withCtx s fun c =>
    let n := memSize f.ty
    let addrs := c.addrs f n (f.off.signExtend 64)
    let plain := f.ord == 0
    let found := foundLoads s c f n addrs
    if addrs.isEmpty then s.retire c.r
    else
      withAligned s c addrs n
        (withLanes s c .read addrs plain fun s good bad =>
          withAborted s c good addrs
            (withGateSeen s c (acqOf f && 3 ≤ f.scope.toNat) good
              ((sweep s (readLane c n) good).settle c .read addrs false bad found fun s vals =>
                withAcquire s c (acqOf f) f.scope.toNat fun s => (found s vals).retire c.r)))

/-- A refused store under R82 discards its bytes and is latched; so is one whose line cannot be filled (DEDUCED, log 12). R82's table names
no outcome for the WRS of a UNC store, which reaches the slice straight from the pipe: it is latched as an L1 store is (DESIGN CHOICE,
log 89). -/
def latchRefused (c : Ctx) (va : W64) : Res Unit → Res Unit
  | .stop s (.writeOnce _) => .ok (s.updSplit c.r fun sp => sp.latchErr .writeOnce va) ()
  | .stop s (.ecc _) => .ok (s.updSplit c.r fun sp => sp.latchErr .writeOnce va) ()
  | r => r

/-- One lane's store of `n` bytes (R299). -/
def storeLane (c : Ctx) (f : MF) (n : Nat) (keep : List Nat) (addrs : List (Nat × W64)) (s : State) (l : Nat) (x : Xlated) :
    Res Unit :=
  latchRefused c (addrOf addrs l)
    ((coreWrite s c.crew.core (laneReq c keep x) x.cls (some (.split c.r c.crew.core)) c.launch.tenant
      (lineWith (x.pa % 128) n (laneData c.g f.dst.toNat l n)) (byteSpan (x.pa % 128) n)).bind fun s _ =>
        .ok (tagPosted s c.r c.crew.core (addrOf addrs l)) ())

/-- Asks for a line of an unbacked lane, so that no lane performs before every line has been granted (R98). A refusal by FAULT is found, and
counted, when the lane performs (R82, R88). -/
def grantLane (c : Ctx) (keep : List Nat) (s : State) (_ : Nat) (x : Xlated) : Res Unit :=
  match coreWrite s c.crew.core (laneReq c keep x) x.cls none c.launch.tenant 0 0 with
  | .stop _ (.writeOnce _) => .ok s ()
  | r => r

/-- Lines for every unbacked lane, unless lanes of the instruction have performed (R98). -/
def withGrants (s : State) (c : Ctx) (acc : Access) (addrs : List (Nat × W64)) (good : List (Nat × Xlated)) (k : State → State) :
    State :=
  let keep := keepKeys c good
  if keep.isEmpty || c.sp.unfinished.isSome then k s
  else
    let w := sweep s (grantLane c keep) (good.filter fun p => p.2.unb)
    let held := holdZeros s w.s (.split c.r c.crew.core) c.sp.pc keep
    match w.wait with
    | some stop => waitStop held c.r c.part c.launch.tenant false stop
    | none => if w.fatal.isEmpty then k w.s else raiseFatal (demote held c) c acc addrs w.fatal

/-- A store in a clamp enters the gate and retires; a full gate holds it (R409). With unbacked lanes it waits for its trailing
copy, so that a refusal stays precise (DEDUCED, log 13). -/
def gated (s : State) (c : Ctx) (addrs : List (Nat × W64)) (good : List (Nat × Xlated)) (stores : List GateStore)
    (perform pushed : State → State) : State :=
  let lead := addrOf addrs ((good.head?.map (·.1)).getD 0)
  if !c.checked then perform s
  else if good.any fun p => p.2.unb then
    if c.sp.matched then perform s
    else (pushGate s c { gateEntry c 1 lead with held := true, stores := stores }).waitFor c.r .check
  else if gateFull s c.crew.core then s.waitFor c.r (.queue 2)
  else pushed (if stores.isEmpty then s else pushGate s c { gateEntry c 1 lead with stores := stores })

/-- The end of a store whose lanes are in the gate: it retires, or parks the lanes that have to (R163). -/
def pushedEnd (c : Ctx) (bad : Option (List (Nat × XFault × W64))) (s : State) : State :=
  match bad with
  | none => s.retire c.r
  | some bad => parkLanes (leave s c (bad.map (·.1))) c .write bad

/-- The line of a store whose ownership request met an uncorrectable error (R390). -/
def Ctx.spoilt (c : Ctx) : Option Nat := c.sp.aborted.bind fun a => if a.1 = causeEcc then some (a.2 / 128) else none

/-- The lanes of a store but for those whose bytes such an error discards. -/
def unspoilt (c : Ctx) (good : List (Nat × Xlated)) : List (Nat × Xlated) := good.filter fun p => some (p.2.pa / 128) != c.spoilt

def unspoiltCtx (c : Ctx) : Ctx := if c.spoilt.isSome then { c with sp := { c.sp with aborted := none } } else c

/-- The failure is latched for the split, as that of a refused store is (R390, R306). -/
def latchSpoilt (s : State) (c : Ctx) (addrs : List (Nat × W64)) (good : List (Nat × Xlated)) : State :=
  match good.find? fun p => some (p.2.pa / 128) == c.spoilt with
  | some p => s.updSplit c.r fun sp => sp.latchErr .writeOnce (addrOf addrs p.1)
  | none => s

/-- ST (R299): the release part, with its latch, comes after the address checks and before the store (R306). -/
def execSt (f : MF) (s : State) : Host.Outcome State Fault Refusal :=
  withCtx s fun c =>
    let n := memSize f.ty
    let addrs := c.addrs f n (f.off.signExtend 64)
    if addrs.isEmpty then s.retire c.r
    else
      withAligned s c addrs n
        (withLanes s c .write addrs (f.ord == 0) fun s all bad =>
          let s := latchSpoilt s c addrs all
          let good := unspoilt c all
          withAborted s (unspoiltCtx c) good addrs
            (withRelease s c (relOf f) f.scope.toNat fun s =>
              let stores := good.map fun p =>
                gateStore c p.2 p.1 (addrOf addrs p.1) false (lineWith (p.2.pa % 128) n (laneData c.g f.dst.toNat p.1 n)) (byteSpan (p.2.pa % 128) n)
              gated s c addrs good stores
                (fun s =>
                  let go (s : State) :=
                    (sweep s (storeLane c f n (keepKeys c good) addrs) good).settle c .write addrs true bad (fun s _ => s)
                      fun s _ => s.retire c.r
                  if bad.isSome then go s else withGrants s c .write addrs good go)
                (pushedEnd c bad)))

/-- The crew address of a scratchpad access, through SKEW for .dg (R43). -/
def skewAddr (skew addr : W64) : W64 :=
  let w := if skew.getLsbD 30 then 64 else 32
  let base := fld skew 7 11 * 128
  let rows := fld skew 20 10 + 1
  let a := addr.toNat
  let off := a - base
  if skew.getLsbD 31 && base ≤ a && off < rows * 4 * w then
    let row := off / (4 * w)
    let col := off / 4 % w
    w64 (base + row * 4 * w + 4 * (32 * (col / 32) + (col + row) % 32))
  else addr

/-- The addresses of a scratchpad access after SKEW (R43). -/
def Ctx.scratchAddrs (c : Ctx) (f : MF) (n : Nat) (off : W64) (dg : Bool) : List (Nat × W64) :=
  (c.addrs f n off).map fun p => (p.1, if dg then skewAddr c.g.skew p.2 else p.2)

/-- The checks of a scratchpad access: ALIGN on the address, the bound on the crew address (R15, R26, R43). -/
def withScratch (s : State) (c : Ctx) (f : MF) (off : W64) (dg : Bool) (acc : Access) (k : List (Nat × W64) → State) : State :=
  let n := memSize f.ty
  let addrs := c.scratchAddrs f n off dg
  if addrs.isEmpty then s.retire c.r
  else withAligned s c (c.addrs f n off) n (withBound s c addrs n acc (k addrs))

/-- LDS (R299). -/
def execLds (f : MF) (s : State) : Host.Outcome State Fault Refusal :=
  withCtx s fun c =>
    let n := memSize f.ty
    withScratch s c f (f.off.signExtend 64) (f.col.getLsbD 0) .read fun addrs =>
      let x := s.core c.crew.core
      let vals := addrs.map fun p => (p.1, x.scratchNum (c.crew.scratchBase + p.2.toNat) n)
      withAcquire s c (acqOf f) f.scope.toNat fun s => (writeLoads c f s vals).retire c.r

/-- STS (R299). The highest-numbered lane's bytes remain where lanes overlap (R116). -/
def execSts (f : MF) (s : State) : Host.Outcome State Fault Refusal :=
  withCtx s fun c =>
    let n := memSize f.ty
    withScratch s c f (f.off.signExtend 64) (f.col.getLsbD 0) .write fun addrs =>
      withWriteBack s c (relOf f) f.scope.toNat fun s =>
        let x := addrs.foldl (fun (x : Core) p =>
          x.setScratch (c.crew.scratchBase + p.2.toNat) (toBytes n (laneData c.g f.dst.toNat p.1 n))) (s.core c.crew.core)
        (s.setCore c.crew.core x).retire c.r

/-- LDW (R300): the bound is checked first; a lane whose bank is in refresh holds the split (R53). -/
def execLdw (f : MF) (s : State) : Host.Outcome State Fault Refusal :=
  withCtx s fun c =>
    let n := memSize f.ty
    let addrs := c.addrs f n (f.off.signExtend 64)
    let out (a : W64) : Bool := s.wsBytes c.part < a.toNat + n
    let bank (a : W64) : Nat := (wsHome (s.part c.part).ports a.toNat).1
    if addrs.isEmpty then s.retire c.r
    else
      withAligned s c addrs n
        (match addrs.find? fun p => out p.2 with
         | some p =>
           raiseVa s c causePerm (maskOf fun l => addrs.any fun q => q.1 = l && out q.2) p.2 (detailWord 8 0 0 false .read)
         | none =>
           match addrs.find? fun p => Tbl.getD s.dev.refresh (bank p.2) false with
           | some p => s.waitFor c.r (.refresh (bank p.2))
           | none => (writeLoads c f s (addrs.map fun p => (p.1, s.readWs c.part p.2.toNat n))).retire c.r)

/-! Atomics. -/

/-- The new value of an atomic operation on `w`-bit values (Table 11.2); float atomics round to nearest-even and count. -/
def atomCombine (aop w a b : Nat) : Elem :=
  let f := if w = 64 then fmtF64 else fmtF32
  match aop with
  | 0 => { val := b }
  | 1 => exact w (a + b)
  | 2 => exact w (a - b)
  | 3 => { val := Nat.land a b }
  | 4 => { val := Nat.lor a b }
  | 5 => { val := Nat.xor a b }
  | 6 => opMin w true a b
  | 7 => opMax w true a b
  | 8 => opMin w false a b
  | 9 => opMax w false a b
  | 10 => { val := if b ≤ a then 0 else a + 1 }
  | 11 => { val := if a = 0 || b < a then b else a - 1 }
  | 12 => fAddElem f 0 a b
  | 13 => fMinMaxElem f false a b
  | _ => fMinMaxElem f true a b

/-- What a lane of an atomic does to the value it reads: the new value, or none where it does not write. -/
abbrev LaneAct := Nat → Nat → Option Elem

/-- atom and atoms: the lane's operand is V[DST] (R302). -/
def atomAct (c : Ctx) (f : MF) (n : Nat) : LaneAct :=
  fun l a => some (atomCombine (fld f.off 0 4) (8 * n) a (laneData c.g f.dst.toNat l n))

/-- cas: expected value in V[DST], new value after it (R303). -/
def casAct (c : Ctx) (f : MF) (n : Nat) : LaneAct := fun l a =>
  if a = laneData c.g f.dst.toNat l n then some { val := laneData c.g (f.dst.toNat + n / 4) l n } else none

/-- The lanes of one line, in ascending order: its first lane's translation, and each lane with its byte offset. -/
abbrev LineLanes := Xlated × List (Nat × Nat)

/-- Groups translated lanes by line, in the order of their first lanes. -/
def linesOf (good : List (Nat × Xlated)) : List LineLanes :=
  good.foldl (fun ls p =>
    let same (x : Xlated) : Bool := x.pa / 128 = p.2.pa / 128 && x.view = p.2.view
    if ls.any fun e => same e.1 then ls.map fun e => if same e.1 then (e.1, e.2 ++ [(p.1, p.2.pa % 128)]) else e
    else ls ++ [(p.2, [(p.1, p.2.pa % 128)])]) []

/-- The lanes of a line act on it in ascending order (R302): the line, the bytes written, the values read, and the marks. -/
def lineAtomics (act : LaneAct) (n : Nat) (d : LineData) (lanes : List (Nat × Nat)) :
    LineData × ByteMask × List (Nat × Nat) × Marks :=
  lanes.foldl (fun acc p =>
    let a := lineField acc.1 p.2 n
    match act p.1 a with
    | some e =>
      (mergeLine acc.1 (lineWith p.2 n e.val) (byteSpan p.2 n), acc.2.1 ||| byteSpan p.2 n, acc.2.2.1 ++ [(p.1, a)], acc.2.2.2.join e.marks)
    | none => (acc.1, acc.2.1, acc.2.2.1 ++ [(p.1, a)], acc.2.2.2)) (d, 0, [], {})

/-- The data of a line that the L1 owns, or the line gained with ATX (R83). -/
def ownLine (s : State) (c : Ctx) (keep : List Nat) (x : Xlated) : Res LineData := coreOwn s c.crew.core (laneReq c keep x)

/-- The lines that were gained for a SINV atomic which does not perform now are returned (R83). -/
def returnSinv (s : State) (c : Ctx) (lines : List LineLanes) : State :=
  lines.foldl (fun s e =>
    if e.1.cls = .sinv then
      (coreAtomicWrite s c.crew.core (laneReq c [] e.1) .sinv none c.launch.tenant 0 0).state
    else s) s

/-- The atomics of each line in turn: the state, the values read, the marks, and what stopped it. -/
def runAtomics (c : Ctx) (act : LaneAct) (n : Nat) (keep : List Nat) (addrs : List (Nat × W64)) : State → List LineLanes → State × List (Nat × Nat) × Marks × Option Stop
  | s, [] => (s, [], {}, none)
  | s, e :: es =>
    let va := addrOf addrs (e.2.headD (0, 0)).1
    let r := (ownLine s c keep e.1).bind fun s d =>
      let o := lineAtomics act n d e.2
      (coreAtomicWrite s c.crew.core (laneReq c keep e.1) e.1.cls (some (.split c.r c.crew.core)) c.launch.tenant o.1 o.2.1).bind
        fun s _ => .ok (tagPosted s c.r c.crew.core va) (o.2.2.1, o.2.2.2)
    match r with
    | .stop s w => (s, [], {}, some w)
    | .ok s v =>
      let t := runAtomics c act n keep addrs s es
      (t.1, v.1 ++ t.2.1, v.2.join t.2.2.1, t.2.2.2)

/-- An atomic on generic memory (R302, R303, R83): every line is gained before any lane takes effect (R82, R98). `write` puts
the values read where the instruction wants them. -/
def genericAtomic (s : State) (c : Ctx) (lead : W64) (ord : BitVec 2) (scope n : Nat) (addrs : List (Nat × W64))
    (writes : Bool) (act : LaneAct) (write : State → List (Nat × Nat) → State) : State :=
  let acq := ord.getLsbD 0
  let rel := ord.getLsbD 1
  withLanes s c .atomic addrs false fun s good _ =>
    withAborted s c good addrs
      (withRelease s c rel scope fun s =>
        withWriteBack s c acq scope fun s =>
          let go (s : State) : State :=
            let lines := linesOf good
            let keep := keepKeys c good
            let w := sweep s (fun s _ x => (ownLine s c keep x).bind fun s _ => .ok s ()) (lines.map fun e => ((e.2.headD (0, 0)).1, e.1))
            let held := holdZeros s w.s (.split c.r c.crew.core) c.sp.pc keep
            match w.wait with
            | some stop => waitStop (returnSinv held c lines) c.r c.part c.launch.tenant true stop
            | none =>
              if !w.fatal.isEmpty then
                let all := w.fatal.flatMap fun b =>
                  (lines.filter fun e => e.1.pa / 128 = b.2.1.pa / 128 && e.1.view = b.2.1.view).flatMap fun e =>
                    e.2.map fun p => (p.1, b.2.1, b.2.2)
                raiseFatal (demote (returnSinv held c lines) c) c .atomic addrs all
              else
                let r := runAtomics c act n keep addrs w.s lines
                let s := (write r.1 r.2.1).note c.r.group c.g.launch r.2.2.1
                match r.2.2.2 with
                | some stop =>
                  let rest := (good.map (·.1)).filter fun l => r.2.1.all fun v => v.1 != l
                  let s := returnSinv (leave s c rest) c lines
                  if stop.fatal then raiseStop s c (maskOf fun l => rest.contains l) .atomic stop
                  else waitStop s c.r c.part c.launch.tenant true stop
                | none =>
                  let s := acquireNow s c acq scope
                  (if writes then s.seal c.r else s).retire c.r
          if writes then held s c 4 lead (go s) else withGateEmpty s c (go s))

/-- An atomic on generic memory acts on what its lane finds there (R32). -/
def foundAct (s : State) (c : Ctx) (n : Nat) (addrs : List (Nat × W64)) (act : LaneAct) : LaneAct :=
  fun l v => act l (observed s c n addrs l v)

/-- ATOM (R302). -/
def execAtom (f : MF) (s : State) : Host.Outcome State Fault Refusal :=
  withCtx s fun c =>
    let n := memSize f.ty
    let addrs := c.addrs f n (off12 f)
    if addrs.isEmpty then s.retire c.r
    else
      withAligned s c addrs n
        (genericAtomic s c ((addrs.head?.map (·.2)).getD 0) f.ord f.scope.toNat n addrs true (foundAct s c n addrs (atomAct c f n))
          (foundLoads s c f n addrs))

/-- CAS (R303). -/
def execCas (f : MF) (s : State) : Host.Outcome State Fault Refusal :=
  withCtx s fun c =>
    let n := memSize f.ty
    let addrs := c.addrs f n (f.off.signExtend 64)
    if addrs.isEmpty then s.retire c.r
    else
      withAligned s c addrs n
        (genericAtomic s c ((addrs.head?.map (·.2)).getD 0) f.ord f.scope.toNat n addrs true (foundAct s c n addrs (casAct c f n))
          (foundLoads s c f n addrs))

/-- ATOMS (R302): lanes act at the banks in ascending order (R41). -/
def execAtoms (f : MF) (s : State) : Host.Outcome State Fault Refusal :=
  withCtx s fun c =>
    let n := memSize f.ty
    withScratch s c f (off12 f) false .atomic fun addrs =>
      withWriteBack s c (acqOf f || relOf f) f.scope.toNat fun s =>
        let r := addrs.foldl (fun (acc : Core × List (Nat × Nat) × Marks) p =>
          let at_ := c.crew.scratchBase + p.2.toNat
          let a := acc.1.scratchNum at_ n
          match atomAct c f n p.1 a with
          | some e => (acc.1.setScratch at_ (toBytes n e.val), acc.2.1 ++ [(p.1, a)], acc.2.2.join e.marks)
          | none => acc) (s.core c.crew.core, [], {})
        let s := writeLoads c f (s.setCore c.crew.core r.1) r.2.1
        ((acquireNow (s.note c.r.group c.g.launch r.2.2) c (acqOf f) f.scope.toNat).seal c.r).retire c.r

/-! Fences (R304, R305). -/

/-- FENCE_ACQ. -/
def execFenceAcq (f : RF) (s : State) : Host.Outcome State Fault Refusal :=
  withCtx s fun c => once s c f.g (withAcquire s c true (f.m 2 3) fun s => s.retire c.r)

/-- FENCE_REL: with every access performed in program order, its mask orders nothing more (log 14). -/
def execFenceRel (f : RF) (s : State) : Host.Outcome State Fault Refusal :=
  withCtx s fun c => once s c f.g (withRelease s c true (f.m 2 3) fun s => s.retire c.r)

/-- FENCE_FULL. -/
def execFenceFull (f : RF) (s : State) : Host.Outcome State Fault Refusal :=
  withCtx s fun c =>
    once s c f.g
      (withGateEmpty s c (withRelease s c true (f.m 2 3) fun s => withAcquire s c true (f.m 2 3) fun s => s.retire c.r))

/-! Maintenance and views. -/

/-- SINV copies of a line in the L1s of its partition are written back and dropped. -/
def purgeSinv (s : State) (part line : Nat) (view : Bool) : Res Unit :=
  Res.forEach s (fun s e => evictL1 s part e.1 e.2)
    (s.caches.l1.filter fun e =>
      e.2.line = line && e.2.view = view && e.2.perm = .sinv && s.ownsCluster part (e.2.core / 8))

/-- One line is written back and invalidated everywhere in its partition: PRG, then whatever the program keeps (R62). -/
def purgeLine (s : State) (part line : Nat) (view : Bool) : Res Unit :=
  let lk := lineKey part line view
  (purgeSinv s part line view).bind fun s _ =>
    match Tbl.find? s.caches.l2 lk with
    | some l => forceOut s lk l 14
    | none => if (Tbl.find? s.caches.busy lk).isSome then .stop s (.line lk) else .ok s ()

/-- Both views of the block that holds an address, and its metadata line (R62): the compressed view first, so that its metadata
describes the block when the plain view goes (DEDUCED, log 15). -/
def purgeBlock (s : State) (part pa : Nat) : Res Unit :=
  let base := pa / 1024 * 8
  let lines (view : Bool) (s : State) : Res Unit :=
    Res.forEach s (fun s i => purgeLine s part (base + i) view) (List.range 8)
  (purgeLine s part (s.metaAddr part pa / 128) false).bind fun s _ => (lines true s).bind fun s _ => lines false s

/-- What a lane of dcf needs, in one outcome (R307, R33): R and W, and a local page below the metadata area. -/
def dcfXlate (s : State) (c : Ctx) (va : W64) : XRes :=
  let ask (acc : Access) : XRes := xlate s c.crew.core c.launch.tenant va acc c.sp.faults
  match ask .read, ask .write with
  | .miss, _ | _, .miss => .miss
  | .fault f, .fault g => .fault (if causeRank g < causeRank f then g else f)
  | .fault f, .ok _ | .ok _, .fault f => .fault f
  | .ok x, .ok _ =>
    if s.region c.part x.pa = .local && x.pa < s.metaAddr c.part 0 then .ok x else .fault (xperm 9 0 0 false .write)

/-- Walks for the lanes of dcf that lack a translation for one of its accesses. -/
def dcfMiss (s : State) (c : Ctx) (missed : List (Nat × W64)) : State :=
  [Access.read, .write].foldl (fun s acc =>
    missWait s c acc (missed.filter fun p => xlate s c.crew.core c.launch.tenant p.2 acc c.sp.faults = .miss)) s

/-- DCF (R307): the causes of all its lanes are ranked together (R33); in a clamp the split's earlier stores have left the gate (R133). -/
def execDcf (f : MF) (s : State) : Host.Outcome State Fault Refusal :=
  withCtx s fun c =>
    let addrs := c.addrs f 1 (f.off.signExtend 64)
    if addrs.isEmpty then s.retire c.r
    else
      let ls := lanesBy s c (dcfXlate s c) addrs
      withXlated s c .read ls (dcfMiss s c ls.missed) false fun s good _ =>
        withAborted s c good addrs
          (withGateEmpty s c
            (withRelease s c (relOf f) f.scope.toNat fun s =>
              match Res.forEach s (fun s p => purgeBlock s c.part p.2.pa) good with
              | .stop s w => raiseStop s c (maskOf fun l => good.any fun q => q.1 = l) .write w
              | .ok s _ => withAcquire s c (acqOf f) f.scope.toNat fun s => s.retire c.r))

/-- DSC of one line, at its home: every copy goes without write-back (R308, R134). -/
def discLine (s : State) (core : Nat) (q : Req) (who : Option Walker) (tenant : Nat) : Res Unit :=
  let s := dropCopies s q.part q.line q.view true
  match s.remote q.part (q.line * 128) with
  | some (some l) => .ok (postPeer s q (some l) 15 who tenant 0 0) ()
  | some none => .ok s ()
  | none => (sliceEvent s { q with who := .l1 core } 15 0 0).bind fun s _ => .ok s ()

/-- DISC (R308). -/
def execDisc (f : MF) (s : State) : Host.Outcome State Fault Refusal :=
  withCtx s fun c =>
    let addrs := c.addrs f 1 (f.off.signExtend 64)
    if addrs.isEmpty then s.retire c.r
    else
      withLanes s c .write addrs true fun s good bad =>
        withAborted s c good addrs
          (gated s c addrs (good.filter fun p => !p.2.unb) (good.map fun p => gateStore c p.2 p.1 (addrOf addrs p.1) true 0 (BitVec.allOnes 128))
            (fun s =>
              (sweep s (fun s l x =>
                (discLine s c.crew.core (laneReq c [] x) (some (.split c.r c.crew.core)) c.launch.tenant).bind fun s _ =>
                  .ok (tagPosted s c.r c.crew.core (addrOf addrs l)) ()) good).settle
                c .write addrs true bad (fun s _ => s) fun s _ => s.retire c.r)
            (pushedEnd c bad))

/-- One line that prf asks for (R309, R48): one of a peer or of the host is asked of it, and goes where it belongs when it comes; what cannot
be asked for now is dropped. -/
def prefetchLine (s : State) (core tenant : Nat) (q : Req) (cls : Cls) (l2 : Bool) : State :=
  let r : Res Unit :=
    if l2 then
      (homeAsk s (if cls = .dir then q else { q with who := .engine core }) (if cls = .dir then 0 else 5)).bind fun s _ => .ok s ()
    else (coreRead s core q cls 0).bind fun s _ => .ok s ()
  match r with
  | .ok s _ => s
  | .stop s (.remoteRead link line ev) => askRemote s (.prefetch core q.key q.view cls l2) q.part tenant false link line ev
  | .stop s _ => s

/-- PRF (R309): the lanes that have a translation request their lines; the others are dropped. -/
def execPrf (f : MF) (s : State) : Host.Outcome State Fault Refusal :=
  withCtx s fun c =>
    let addrs := c.addrs f 1 (f.off.signExtend 64)
    let ls := xlateLanes s c .read addrs
    if !ls.missed.isEmpty then missWait s c .read ls.missed
    else
      (ls.good.foldl (fun s p =>
        prefetchLine s c.crew.core c.launch.tenant (laneReq c [] p.2) p.2.cls (f.col.getLsbD 0)) s).retire c.r

/-- One lane of wback (R310): FLU for a DIR line, at a peer's home too, and WRS of the core's dirty SINV bytes. -/
def wbackLane (c : Ctx) (s : State) (_ : Nat) (x : Xlated) : Res Unit :=
  let q := laneReq c [] x
  match x.cls with
  | .dir => homeSend s q 13 none c.launch.tenant 0 0
  | .sinv =>
    let k := lineKey c.crew.core q.line q.view
    match Tbl.find? s.caches.l1 k with
    | some l => if l.dirty = 0 then .ok s () else cleanSinv s c.part k l
    | none => .ok s ()
  | .unc => .ok s ()

/-- WBACK (R310): a lane without permission or translation is dropped. -/
def execWback (f : MF) (s : State) : Host.Outcome State Fault Refusal :=
  withCtx s fun c =>
    let addrs := c.addrs f 1 (f.off.signExtend 64)
    let ls := xlateLanes s c .read addrs
    if !ls.missed.isEmpty then missWait s c .read ls.missed
    else
      let w := sweep s (wbackLane c) ls.good
      match w.wait with
      | some stop => waitStop w.s c.r c.part c.launch.tenant false stop
      | none => w.s.retire c.r

/-- SINV (R311). -/
def execSinv (f : MF) (s : State) : Host.Outcome State Fault Refusal :=
  withCtx s fun c =>
    let addrs := c.addrs f 1 (f.off.signExtend 64)
    if addrs.isEmpty then s.retire c.r
    else
      withLanes s c .read addrs true fun s good bad =>
        withAborted s c good addrs
          ((sweep s (fun s _ x =>
              let k := lineKey c.crew.core (x.pa / 128) x.view
              match Tbl.find? s.caches.l1 k with
              | some l => if x.cls = .unc then .ok s () else evictL1 s c.part k l
              | none => .ok s ()) good).settle c .read addrs false bad (fun s _ => s) fun s _ => s.retire c.r)

/-! Tensor records (R319). -/

/-- A tensor record (Table 11.5). -/
structure Record where
  base : Nat
  space : Nat
  esize : Nat
  ndim : Nat
  swz : Bool
  extent : List Nat
  /-- STRIDE1 to STRIDE3. -/
  stride : List Nat
  /-- Box extent - 1 of each dimension. -/
  box : List Nat
  deriving DecidableEq, Repr

def Record.of (b : Block) : Record :=
  let n (off len : Nat) := b.toNat / 2 ^ (8 * off) % 2 ^ (8 * len)
  { base := n 0 8, space := n 8 1, esize := n 9 1, ndim := n 10 1, swz := n 11 1 % 2 == 1
    extent := (List.range 4).map fun d => n (0x10 + 4 * d) 4, stride := (List.range 3).map fun d => n (0x20 + 8 * d) 8
    box := (List.range 4).map fun d => n (0x38 + d) 1 }

def Record.elem (t : Record) : Nat := 2 ^ t.esize
def Record.ext (t : Record) (d : Nat) : Nat := t.extent.getD d 1
def Record.boxLen (t : Record) (d : Nat) : Nat := t.box.getD d 0 + 1
/-- Bytes of a box row, and of the box. -/
def Record.row (t : Record) : Nat := t.boxLen 0 * t.elem
def Record.boxBytes (t : Record) : Nat := t.row * t.boxLen 1 * t.boxLen 2 * t.boxLen 3

/-- The conditions of Table 11.5. -/
def recordOk (b : Block) : Bool :=
  let n (off len : Nat) := b.toNat / 2 ^ (8 * off) % 2 ^ (8 * len)
  let t := Record.of b
  t.space ≤ 1 && t.esize ≤ 3 && 1 ≤ t.ndim && t.ndim ≤ 4 && n 11 1 / 2 = 0 && n 12 4 = 0 && n 0x3C 4 = 0
    && t.base % t.elem = 0
    && (List.range 4).all (fun d => 1 ≤ t.ext d && (d < t.ndim || t.ext d = 1) && (d < t.ndim || t.boxLen d = 1))
    && (List.range 3).all (fun d => t.stride.getD d 0 % t.elem = 0 && (d + 1 < t.ndim || t.stride.getD d 0 = 0))
    && t.row % 16 = 0 && t.boxBytes ≤ 98304

/-- TLOAD (R319). -/
def execTload (f : MF) (s : State) : Host.Outcome State Fault Refusal :=
  withCtx s fun c =>
    match lowLane (c.active f.g) with
    | none => s.retire c.r
    | some l =>
      let a := laneAddr c f 1 (f.off.signExtend 64) l
      let act := c.active f.g
      if a.toNat % 64 != 0 then raise s c causeAlign act (sector a)
      else
        withBytes s c act a.toNat 64 fun s bs =>
          let b : Block := BitVec.ofNat 512 (leBytes bs)
          if recordOk b then (s.updSplit c.r fun sp => sp.setTrec f.dst.toNat b).retire c.r
          else raise s c causeIllegal act (sector a)

/-! Transaction barriers (R313, R314, R323). -/

/-- The evaluation after every update (R314). -/
def tbEval (b : Nat) : Nat :=
  let expect := bits b 16 16
  if bits b 32 16 = 0 && bits b 64 32 = 0 then
    (bits b 0 4 + 1) % 16 + bits b 4 1 * 32 + bits b 6 10 * 64 + expect * 2 ^ 16 + expect * 2 ^ 32 + bits b 48 16 * 2 ^ 48
      + bits b 96 32 * 2 ^ 96
  else b

/-- Adds to SECT, modulo 2^32. -/
def tbSect (b n : Nat) : Nat := b - bits b 64 32 * 2 ^ 64 + (bits b 64 32 + n) % 2 ^ 32 * 2 ^ 64

/-- The initial value of a barrier (Table 11.6). -/
def tbNew (n : Nat) : Nat := n * 2 ^ 16 + n * 2 ^ 32

/-- An arrival with its expected sectors (Table 11.6). -/
def tbArrive (b n : Nat) : Nat :=
  if bits b 32 16 = 0 then b - bits b 4 1 * 16 + 16 else tbEval (tbSect (b - 2 ^ 32) n)

/-- A command's completion (R313): its sectors go, and ERR is set if an element failed. -/
def tbComplete (b sectors : Nat) (err : Bool) : Nat :=
  let b := if err then b - bits b 4 1 * 16 + 16 else b
  tbEval (tbSect b (2 ^ 32 - sectors % 2 ^ 32))

/-- A barrier instruction (R323): once for the split, at the lowest active lane's address, as a 16-byte atomic. -/
def barrierOp (s : State) (c : Ctx) (f : MF) (writes : Bool) (op : Nat → Option Nat) (res : State → Nat → State) :
    State :=
  match lowLane (c.active f.g) with
  | none => s.retire c.r
  | some l =>
    let a := laneAddr c f 1 (f.off.signExtend 64) l
    let addrs := [(l, a)]
    if a.toNat % 16 != 0 then raise s c causeAlign (misaligned addrs 16) (sector a)
    else if f.col.getLsbD 0 then
      withBound s c addrs 16 .atomic
        (withWriteBack s c (acqOf f || relOf f) f.scope.toNat fun s =>
          let x := s.core c.crew.core
          let at_ := c.crew.scratchBase + a.toNat
          let b := x.scratchNum at_ 16
          let s := match op b with
            | some v => s.setCore c.crew.core (x.setScratch at_ (toBytes 16 v))
            | none => s
          let s := acquireNow (res s b) c (acqOf f) f.scope.toNat
          (if writes then s.seal c.r else s).retire c.r)
    else
      genericAtomic s c a f.ord f.scope.toNat 16 addrs writes (fun _ b => (op b).map fun v => { val := v })
        fun s vals => match vals with
          | v :: _ => res s v.2
          | [] => s

/-- TBINIT (Table 11.6): its value check precedes the address checks (R33). -/
def execTbinit (f : MF) (s : State) : Host.Outcome State Fault Refusal :=
  withCtx s fun c =>
    let v := (c.sp.s f.dst.toNat).toNat
    if !c.any f.g then s.retire c.r
    else if v = 0 || 65536 ≤ v then raise s c causeIllegal c.sp.mask
    else barrierOp s c f true (fun _ => some (tbNew v)) fun s _ => s

/-- TBARR (Table 11.6). -/
def execTbarr (f : MF) (s : State) : Host.Outcome State Fault Refusal :=
  withCtx s fun c =>
    barrierOp s c f true (fun b => some (tbArrive b (fld (c.sp.s f.dst.toNat) 0 32))) fun s _ => s

/-- TBEXP (Table 11.6). -/
def execTbexp (f : MF) (s : State) : Host.Outcome State Fault Refusal :=
  withCtx s fun c =>
    barrierOp s c f true (fun b => some (tbEval (tbSect b (fld (c.sp.s f.dst.toNat) 0 32)))) fun s _ => s

/-- TBTEST (Table 11.6). -/
def execTbtest (f : MF) (s : State) : Host.Outcome State Fault Refusal :=
  withCtx s fun c =>
    barrierOp s c f false (fun _ => none) fun s b => s.updSplit c.r fun sp => sp.setS f.dst.toNat (w64 b)

end Sys2Proof.Machine
end

