-- ==== Sys2Proof/Machine/Control.lean ====
section
/-! DEFINITION. Clause headers and waits (08 R200 to R204, 07 R189 to R193), divergence and merging (07 R175 to R181), the
control transfers (10 R268 to R272), barriers and rings (07 R184 to R188; 10 R274, R275), rep (10 R294). -/

namespace Sys2Proof.Machine

/-! Headers. -/

/-- The header address of the clause that a split issues (R200). -/
def Split.header (sp : Split) : W64 := (sp.clause.map (·.header)).getD sp.pc

/-- The size of a ring, and the slot that a scalar selects (R184). -/
def Crew.slotOf (c : Crew) (r : Nat) (v : W64) : Nat := v.toNat % (max 1 (c.rings.getD r 1))

def Crew.phase (c : Crew) (r slot : Nat) : Bool := Tbl.getD c.ringPhase (8 * r + slot) false

/-- Copies of a split in the queues that QSEL selects (R201 kind 3). -/
def Core.copiesOf (x : Core) (r : SplitRef) (qsel : Nat) : Bool :=
  x.cmds.any fun e => e.2.group = r.group && e.2.split = r.split && match e.2.kind with
    | .cpl | .cpt => qsel != 2
    | .cps | .cptw => qsel != 1
    | _ => false

/-- A joint matrix operation of a group, or one of its drains, is under way (R201 kind 6). -/
def Core.matrixBusy (x : Core) (g : Nat) : Bool :=
  x.ops.any (fun e => e.2.members.any fun m => m.group = g)
    || x.cmds.any fun e => e.2.byGroup g && (e.2.kind = .drainS || e.2.kind = .drainG)

/-- The condition of a clause wait holds (Table 8.2). -/
def waitDone (s : State) (c : Ctx) (k : Nat) (a : BitVec 16) : Bool :=
  match k with
  | 1 =>
    let r := fld a 0 3
    !c.sp.pend.contains (fld a 3 6) && c.crew.phase r (c.crew.slotOf r (c.sp.s (fld a 3 6))) == a.getLsbD 9
  | 2 =>
    let b := fld a 0 4
    match Tbl.find? c.sp.arv b with
    | some ph => (c.crew.bar b).phase != ph
    | none => true
  | 3 => !(s.core c.crew.core).copiesOf c.r (fld a 0 2)
  | 4 =>
    (List.range 16).all fun i => !(a.getLsbD i) || match (s.part c.part).ports[i]? with
      | none => true
      | some b => !(Tbl.getD s.dev.refresh b false) && 1024 ≤ s.refreshLeft b
  | 5 => c.sp.issuedAt + a.toNat ≤ s.cycle || a == 0
  | 6 => !(s.core c.crew.core).matrixBusy c.r.group
  | _ => true

/-- The classes that a role permits, by ENG code (Table 7.4). -/
def roleAllows (r : Role) (eng : Nat) : Bool :=
  match r with
  | .general => [0, 1, 2, 3, 5].contains eng
  | .copy => [0, 2, 3, 5].contains eng
  | .matrix => [0, 2, 4, 5].contains eng
  | .vector => [0, 1, 2, 5].contains eng

/-- The image of a split's launch; a launch is read before it is placed (R377). -/
def Ctx.image (c : Ctx) : Option Image := c.launch.img

def Ctx.level3 (c : Ctx) : Bool := (c.image.map (·.level3)).getD true

def Ctx.imageCtx (c : Ctx) : ImageCtx := { regs := c.g.regs, width := c.g.width, rings := c.crew.rings.length }

/-- The words of a little-endian byte string. -/
def wordsOf : List Byte → Nat → List W64
  | _, 0 => []
  | bs, n + 1 => w64 (leBytes (bs.take 8)) :: wordsOf (bs.drop 8) n

/-- The clause whose header is at an address, whole (R200): from the clauses that the core has fetched, or by a fetch (R368). -/
def withClause (s : State) (c : Ctx) (h : W64) (k : State → W64 → List W64 → State) : State :=
  let core := c.crew.core
  let key := c.launch.tenant * 2 ^ 52 + h.toNat
  match if h.toNat < 2 ^ 52 && Config.codeKept s.steps core then Tbl.find? (s.core core).code key else none with
  | some (w :: ws) => k s w ws
  | _ =>
    withFetch s c h.toNat 8 fun s bs =>
      let w := w64 (leBytes bs)
      let n := (Header.ofWord w).count
      withFetch s c h.toNat (8 * (if n ≤ 16 then n + 1 else 1)) fun s bs =>
        let ws := wordsOf (bs.drop 8) (if n ≤ 16 then n else 0)
        let x := s.core core
        k (s.setCore core { x with code := Tbl.put x.code key (w :: ws) }) w ws

/-- The checks of a clause (R204, R202), then of the role (R183); `h` is its header. -/
def withChecks (s : State) (c : Ctx) (h w : W64) (ws : List W64) (k : Header → State) : State :=
  let hd := Header.ofWord w
  let trap (pc : W64) (cause : Nat) := raiseAt s c pc { cause := cause, mask := c.sp.mask, addr := 0, detail := 0 } 0
  if !headerOk c.level3 w || (hd.waitk = 1 && c.crew.rings.length ≤ fld hd.waitarg 0 3) then trap h causeIllegal
  else
    match clauseFault c.level3 hd.eng c.imageCtx 17 0 none ws with
    | some i => trap (h + w64 (8 * (i + 1))) causeIllegal
    | none => if roleAllows c.g.role hd.eng then k hd else trap h causeRole

/-- Bytes of a group's cache-backed region are reached by a spill or a refill: what a split does instead when one of them does not translate,
since the faults of the region are taken at its instruction (R32, R398). `offs` are the offsets reached; in a clamp the trailing cluster's
region is reached too (R421). -/
def regionMiss (s : State) (c : Ctx) (offs : List Nat) : Option State :=
  let at_ (r : W64) : List W64 := offs.map fun o => r + w64 o
  let addrs := at_ c.g.region ++ if c.checked then at_ c.g.region2 else []
  let bad (a : W64) : Option (W64 × XRes) :=
    match xlate s c.crew.core c.launch.tenant a .write c.sp.faults with
    | .ok _ => none
    | x => some (a, x)
  (addrs.findSome? bad).map fun b =>
    match b with
    | (a, .fault (.trap cause d)) => raiseVa s c cause c.sp.mask a d
    | (a, .fault (.absent st lv tb en ad)) => parkOn s c st lv tb en ad .write a
    | (a, _) => missWait s c .write [(0, a)]

/-- Goes on where the bytes of the region that a spill reaches translate. -/
def withRegion (s : State) (c : Ctx) (offs : List Nat) (k : State → State) : State := (regionMiss s c offs).getD (k s)

/-- Blocks of eight entries that a reconvergence stack has spilled (R175). -/
def spilled (depth : Nat) : Nat := (depth - 16 + 7) / 8

/-- A push beyond the 16 entries on die spills the split's oldest ones, 8 at a time, to its part of the region (R175, R398). -/
def withSpill (s : State) (c : Ctx) (old new : Nat) (k : State → State) : State :=
  let at_ (n : Nat) : Nat := 0x18000 + 0xA000 * c.r.split + 256 * n
  withRegion s c (if spilled old < spilled new then [at_ (spilled old), at_ (spilled new - 1)] else []) k

/-- Vector registers that the snapshots of a group's splits hold, each once (R193). -/
def snapRows (g : Group) (split : Nat) (snap : Snapshot) : Nat :=
  (snap.vregs.map (·.1) ++ (g.splits.filter fun e => e.1 != split).flatMap fun e =>
    ((e.2.billet.map fun n => n.vregs.map (·.1)).getD [])).eraseDups.length

/-- The billet that a header begins is entered (R193): at IL3 its signature is compared first (R414). Rows beyond the 16 on die lie in the
group's region (R398). -/
def withBillet (s : State) (c : Ctx) (on : Bool) (k : State → State) : State :=
  if !on then k s
  else
    let snap := takeSnapshot s c c.sp.pc
    let enter (s : State) : State :=
      s.updSplit c.r fun sp =>
        let keep := sp.retry = some snap.header && !sp.retried
        { sp with
          billet := some snap, staged := none, sealed := false, retry := if keep then sp.retry else none, retried := keep }
    let rows := snapRows c.g c.r.split snap
    withRegion s c (if 16 < rows then [0x4000 + 256 * (rows - 17)] else []) fun s =>
      if c.launch.il = 3 then
        if c.sp.matched then k (enter s)
        else ((pushGate s c { gateEntry c 7 snap.signature with held := true }).updSplit c.r fun sp => { sp with staged := some snap }).waitFor c.r .check
      else if c.launch.il = 2 then k (enter (pushGate s c (gateEntry c 7 snap.signature)))
      else k (enter s)

/-- The end of a ring or barrier wait is an acquire of .crew scope (R185, R187). -/
def waitAcquires (k : Nat) : Bool := k == 1 || k == 2

/-- Word `n` of a clause is the second word of a wide instruction, and so no instruction word (R208, R365). -/
def secondWord : List W64 → Nat → Bool
  | [], _ | _ :: _, 0 => false
  | w :: ws, n + 1 =>
    if w.toNat % 256 = 0x7D then
      match ws, n with
      | _, 0 => true
      | [], _ => false
      | _ :: rest, m + 1 => secondWord rest m
    else secondWord ws n

/-- The acquire that is still due before a split's next instruction is made (R137, R187, R188). -/
def withDue (s : State) (c : Ctx) (k : State → State) : State :=
  if c.sp.acquire = 0 then k s
  else withAcquire s c true c.sp.acquire fun s => k (s.updSplit c.r fun sp => { sp with acquire := 0 })

/-- A split issues a clause header (R202): checks, the wait, the billet, then the clause's words. -/
def headerAt (s : State) (c : Ctx) : State :=
  let h := c.sp.pc
  withClause s c h fun s w ws =>
    withChecks s c h w ws fun hd =>
      if !waitDone s c hd.waitk hd.waitarg then s.waitFor c.r (.clause hd.waitk hd.waitarg)
      else
        withAcquire s c (waitAcquires hd.waitk) 1 fun s =>
          withBillet s c (hd.billet && c.sp.trap.isNone) fun s =>
            s.updSplit c.r fun sp =>
              { sp.over with
                pc := h + 8, clause := some { header := h, eng := hd.eng, words := ws, next := 0 }, resume := none, issuedAt := s.cycle
                lift := 0, wait := .none }

/-- A split goes on at a word of a clause that has to be fetched again (R365, R368): a fault of the fetch, or of the checks, is taken at the
header (R200). A word beyond the clause is the next header; one that is no instruction word is ILLEGAL there. -/
def resumeAt (s : State) (c : Ctx) (h pc : W64) : State :=
  let atHeader : Ctx := { c with sp := { c.sp with pc := h, rep := none } }
  withClause s atHeader h fun s w ws =>
    withChecks s atHeader h w ws fun hd =>
      let n := (pc - h).toNat / 8 - 1
      if n = ws.length then headerAt s c
      else if n < ws.length && !secondWord ws n then
        s.updSplit c.r fun sp =>
          { sp with clause := some { header := h, eng := hd.eng, words := ws, next := n }, resume := none, wait := .none }
      else raiseAt s c pc { cause := causeIllegal, mask := c.sp.mask, addr := 0, detail := 0 } 0

/-- A split issues where it stands with no word of a clause at hand: a header, or a word to which it has come back. A yield is over first
(R367). -/
def issueHeader (s : State) (c : Ctx) : State :=
  if !c.sp.yieldOn.isEmpty then s.waitFor c.r .yield
  else
    withDue s c fun s =>
      match c.sp.resume with
      | some (h, pc) => if h = pc then headerAt s c else resumeAt s c h pc
      | none => headerAt s c

/-- The splits of a group's quarter (R169: group g of a crew on quarter g mod 4). -/
def State.quarter (s : State) (core q : Nat) : List SplitRef :=
  s.groups.flatMap fun e =>
    if e.2.grpid % 4 = q && ((s.crew? e.2.crew).map (·.core)) = some core then
      e.2.splits.map fun p => { group := e.1, split := p.1 }
    else []

/-- CLAUSE_HEADER (R202). -/
def execClauseHeader (r : SplitRef) (s : State) : Host.Outcome State Fault Refusal :=
  .next (match s.ctxOf r with
    | some c => if c.sp.clause.isNone && c.sp.wait = .none && c.sp.pendingTrap.isNone && c.crew.running then issueHeader s c else s
    | none => s)

/-- CLAUSE_WAIT_END (R201): the header issues once its condition holds. -/
def execClauseWaitEnd (r : SplitRef) (s : State) : Host.Outcome State Fault Refusal :=
  .next (match s.ctxOf r with
    | some c =>
      match c.sp.wait with
      | .clause k a =>
        if waitDone s c k a && c.crew.running then issueHeader (s.waitFor r .none) { c with sp := { c.sp with wait := .none } } else s
      | _ => s
    | none => s)

/-- PAUSE_EXPIRY (R189): what held the split not ready ends, so that its age begins here (R190, R191). -/
def execPauseExpiry (r : SplitRef) (s : State) : Host.Outcome State Fault Refusal :=
  .next (s.updSplit r fun sp => { sp with paused := false, readyAt := none })

/-- YIELD_TIMEOUT (R367). -/
def execYieldTimeout (r : SplitRef) (s : State) : Host.Outcome State Fault Refusal :=
  .next (s.updSplit r fun sp => { sp with yieldOn := [], wait := if sp.wait = .yield then .none else sp.wait })

/-- PRIORITY_LIFT (R192): a ready split's effective priority rises by 1, up to 255. -/
def execPriorityLift (r : SplitRef) (s : State) : Host.Outcome State Fault Refusal :=
  .next (match s.ctxOf r with
    | some c =>
      if c.sp.wait = .none && !c.sp.paused then
        s.updSplit r fun sp => { sp with lift := min (sp.lift + 1) (255 - c.launch.prio) }
      else s
    | none => s)

/-! Division and merging. -/

/-- The parts of a division: each next PC with the lanes that choose it, in ascending PC order (R177). -/
def partsOf (m : LaneMask) (choose : Nat → W64) : List (Nat × LaneMask) :=
  (lanesOf m).foldl (fun t l =>
    let pc := (choose l).toNat
    Tbl.put t pc (Tbl.getD t pc 0 ||| BitVec.twoPow 64 l)) []

/-- A new split of a division: FMT, stack and scalars as the dividing split has them (R177, R212). It is in the dividing split's billet, as
far as its own lanes go (R193; DEDUCED, log 41). -/
def Split.fork (sp : Split) (pc : W64) (m : LaneMask) (seed : Nat) : Split :=
  { sp.goto pc with
    mask := m, trecs := [], tseed := seed, trapCause := 0, trapPc := 0, trapMask := 0, trapAddr := 0, mprog := 0, trap := none
    pendingTrap := none, latch := none, wait := .none, paused := false, lift := 0, yieldOn := []
    billet := sp.billet.map fun n => { n.forLanes m with streams := [], start := seed }
    staged := none, retry := none, retried := false, sealed := false, arv := [], acquire := 0, fresh := [], readyAt := none }

/-- A control transfer in which each lane chooses its next PC (R177). `base` is what the transfer does to the split before it
divides, `arrive` what it does to the split that goes on at a PC. A division that copies a register whose token is still to be
written waits for the token (R205; DEDUCED, log 17). -/
def transfer (s : State) (c : Ctx) (choose : Nat → W64) (base : Split → Split) (arrive : W64 → Split → Split) : State :=
  match partsOf c.sp.mask choose with
  | [] => s.retire c.r
  | first :: rest =>
    let free := (List.range 4).filter fun n => (Tbl.find? c.g.splits n).isNone
    let depth := c.sp.stack.length + (rest.length - free.length)
    if !rest.isEmpty && c.sp.trap.isSome then raise s c causeIllegal c.sp.mask
    else if !rest.isEmpty && !free.isEmpty && !c.sp.pend.isEmpty then s.waitFor c.r (.token (c.sp.pend.headD 0))
    else if 1024 < depth then raise s c causeIllegal c.sp.mask
    else
      withSpill s c c.sp.stack.length depth fun s =>
        let s := compared s c 3 (w64 first.1)
        let news := rest.zip free
        let pushed := rest.drop free.length
        let seed := s.seed
        let s := if news.isEmpty then s else { s with seed := seed + 1 }
        s.updGroup c.r.group fun g =>
          let old := base c.sp
          let g := g.updSplit c.r.split fun sp =>
            let sp := pushed.foldl (fun sp p => arrive (w64 p.1) sp) (arrive (w64 first.1) ((base sp).goto (w64 first.1)))
            let mine := pushed.foldl (fun m p => m ||| p.2) first.2
            { sp with
              mask := first.2, billet := sp.billet.map fun n => if rest.isEmpty then n else n.forLanes mine
              stack := (pushed.map fun p => ({ join := false, mask := p.2, pc := w64 p.1, fmt := sp.fmt, arr := 0 } : StackEntry)) ++ sp.stack }
          news.foldl (fun g e =>
            { g with splits := Tbl.put g.splits e.2 (arrive (w64 e.1.1) (old.fork (w64 e.1.1) e.1.2 seed)) }) g

/-- The header after the transfer's clause (R200): a transfer stands last in it. -/
def Ctx.fall (c : Ctx) : W64 := c.sp.pc + 8

/-- The target of a B-format transfer (R268). -/
def Ctx.target (c : Ctx) (off : BitVec 32) : W64 := c.sp.header + 8 * off.signExtend 64

/-- BRA (R269). -/
def execBra (f : BF) (s : State) : Host.Outcome State Fault Refusal :=
  withCtx s fun c =>
    let act := c.active f.g
    transfer s c (fun l => if act.getLsbD l then c.target f.off else c.fall) id fun _ sp => sp

/-- BRX (R269). -/
def execBrx (f : RF) (s : State) : Host.Outcome State Fault Refusal :=
  withCtx s fun c =>
    let act := c.active f.g
    transfer s c (fun l => if act.getLsbD l then c.sp.header + 8 * (c.g.v f.sa.toNat l).signExtend 64 else c.fall) id fun _ sp => sp

/-- CALL (R269): the split that takes it receives the return address. -/
def execCall (f : BF) (s : State) : Host.Outcome State Fault Refusal :=
  withCtx s fun c =>
    let act := c.active f.g
    let t := c.target f.off
    transfer s c (fun l => if act.getLsbD l then t else c.fall) id fun pc sp =>
      if act != 0 && pc = t then sp.setS f.dst.toNat c.fall else sp

/-- RET (R269). -/
def execRet (f : RF) (s : State) : Host.Outcome State Fault Refusal :=
  withCtx s fun c =>
    let act := c.active f.g
    let t := c.sp.s f.sa.toNat
    if act != 0 && t.toNat % 8 != 0 then raise s c causeAlign act (sector t)
    else transfer s c (fun l => if act.getLsbD l then t else c.fall) id fun _ sp => sp

/-- LOOP (R270). -/
def execLoop (f : BF) (s : State) : Host.Outcome State Fault Refusal :=
  withCtx s fun c =>
    let act := c.active f.g
    let v := c.sp.s f.sa.toNat - 1
    if act = 0 then transfer s c (fun _ => c.fall) id fun _ sp => sp
    else
      transfer s c (fun l => if act.getLsbD l && v != 0 then c.target f.off else c.fall) (fun sp => sp.setS f.sa.toNat v) fun _ sp => sp

/-- RCVP (R176). -/
def execRcvp (f : BF) (s : State) : Host.Outcome State Fault Refusal :=
  withCtx s fun c =>
    let depth := c.sp.stack.length + 1
    if c.sp.trap.isSome || 1024 < depth then raise s c causeIllegal c.sp.mask
    else
      withSpill s c c.sp.stack.length depth fun s =>
        (s.updSplit c.r fun sp =>
          { sp with stack := { join := true, mask := sp.mask, pc := c.target f.off, fmt := sp.fmt, arr := 0 } :: sp.stack }).retire c.r

/-- A waiting split whose top entry is a join: what R180 compares, and its arrivals. Splits of one join share its MASK too
(DEDUCED, log 18). -/
def Split.joinKey (sp : Split) : Option (StackEntry × Nat) :=
  match sp.wait, sp.stack with
  | .join, e :: _ => if e.join then some (e, sp.stack.length) else none
  | _, _ => none

def sameJoin (a b : Option (StackEntry × Nat)) : Bool :=
  match a, b with
  | some (x, n), some (y, m) => x.pc = y.pc && x.mask = y.mask && n = m
  | _, _ => false

/-- The snapshots of parts of one billet, together; otherwise the first (DEDUCED, log 41). -/
def Snapshot.join (a b : Snapshot) : Snapshot :=
  if a.header != b.header || a.mask &&& b.mask != 0 then a
  else
    { a with
      mask := a.mask ||| b.mask, preds := a.preds.map fun e => (e.1, e.2 ||| Tbl.getD b.preds e.1 0)
      vregs := a.vregs.map fun e => (e.1, e.2 ++ Tbl.getD b.vregs e.1 []) }

/-- The merge of the waiting splits whose join is complete (R180). -/
def Group.merge (g : Group) : Group :=
  (List.range 4).foldl (fun g n =>
    match Tbl.find? g.splits n with
    | none => g
    | some sp =>
      match sp.joinKey with
      | none => g
      | some (e, _) =>
        let set := g.splits.filter fun p => sameJoin p.2.joinKey sp.joinKey
        let arrived := set.foldl (fun m p => m ||| ((p.2.stack.head?.map (·.arr)).getD 0)) 0
        if e.mask &&& ~~~(arrived ||| g.exited) != 0 then g
        else
          let low := (set.head?.map (·.1)).getD n
          let g := { g with splits := g.splits.filter fun p => p.1 = low || !(set.any fun q => q.1 = p.1) }
          let billet := set.foldl (fun b p => match b, p.2.billet with
            | some x, some y => some (x.join y)
            | none, y => y
            | x, none => x) (none : Option Snapshot)
          g.updSplit low fun sp =>
            { (sp.advance 1) with billet := billet, mask := e.mask &&& ~~~g.exited, fmt := e.fmt, stack := sp.stack.tail, wait := .none }) g

/-- A split pops its top P entry (R178). -/
def Split.pop (sp : Split) (e : StackEntry) (rest : List StackEntry) : Split :=
  { sp.goto e.pc with mask := e.mask, fmt := e.fmt, stack := rest }

/-- Marks an arrival in the topmost J entry (R178). -/
def arriveTop (m : LaneMask) : List StackEntry → List StackEntry
  | [] => []
  | e :: es => if e.join then { e with arr := e.arr ||| m } :: es else e :: arriveTop m es

/-- What join does (R178). -/
def joinOp (s : State) (c : Ctx) : State :=
  match c.sp.stack.find? (·.join) with
  | none => s.retire c.r
  | some e =>
    if e.pc != c.sp.header then s.retire c.r
    else if c.sp.trap.isSome then raise s c causeIllegal c.sp.mask
    else
      let s := compared s c 3 c.sp.header
      let s := s.updSplit c.r fun sp =>
        match arriveTop sp.mask sp.stack with
        | t :: rest => if t.join then { sp with stack := t :: rest, wait := .join } else sp.pop t rest
        | [] => sp
      s.updGroup c.r.group Group.merge

/-- JOIN (R178). -/
def execJoin (_ : RF) (s : State) : Host.Outcome State Fault Refusal := withCtx s fun c => joinOp s c

/-- BSYNC: level 2's spelling, which behaves exactly as join (R218). -/
def execBsync (_ : RF) (s : State) : Host.Outcome State Fault Refusal := withCtx s fun c => joinOp s c

/-! Barriers. -/

/-- A group arrives, once in a phase, when every lane that has not exited has executed bar in the phase (R186; log 74). -/
def barArrive (s : State) (gh b : Nat) : State :=
  match s.group? gh with
  | none => s
  | some g =>
    match s.crew? g.crew with
    | none => s
    | some cr =>
      let x := cr.bar b
      let m := Tbl.getD x.lanes g.grpid 0
      if m = 0 || g.alive &&& ~~~m != 0 || x.came.contains g.grpid then s
      else
        let s := s.updCrew g.crew fun cr =>
          { cr with bars := Tbl.put cr.bars b { x with came := g.grpid :: x.came } }
        barEval s g.crew b

/-- Every lane of the split has executed bar b; the count of the phase is that of its first execution (R186, R274). -/
def barOp (s : State) (c : Ctx) (b n : Nat) (arv : Bool) : State :=
  withWriteBack s c true 1 fun s =>
    held s c 10 c.word
      (let x := c.crew.bar b
       let s := s.updCrew c.g.crew fun cr =>
         let m := Tbl.getD x.lanes c.g.grpid 0 ||| c.sp.mask
         { cr with bars := Tbl.put cr.bars b { x with count := some (x.count.getD n), lanes := Tbl.put x.lanes c.g.grpid m } }
       let s := s.seal c.r
       let s := if arv then (s.updSplit c.r fun sp => { sp with arv := Tbl.put sp.arv b x.phase }).retire c.r
         else s.waitFor c.r (.bar b x.phase)
       barArrive s c.r.group b)

/-- BAR (R274, R186). -/
def execBar (f : RF) (s : State) : Host.Outcome State Fault Refusal :=
  withCtx s fun c => barOp s c (f.m 0 4) (f.m 4 6) false

/-- BAR_ARV (R274, R186). -/
def execBarArv (f : RF) (s : State) : Host.Outcome State Fault Refusal :=
  withCtx s fun c => barOp s c (f.m 0 4) (f.m 4 6) true

/-- CBAR (R188): an arrival is a release of .dev scope. -/
def execCbar (f : RF) (s : State) : Host.Outcome State Fault Refusal :=
  withCtx s fun c =>
    let b := f.m 0 2
    withWriteBack s c true 3 fun s =>
      held s c 10 c.word
        (let s := s.updCrew c.g.crew fun cr =>
           { cr with cbarLanes := Tbl.put cr.cbarLanes (4 * c.g.grpid + b) (cr.cbarOf c.g.grpid b ||| c.sp.mask) }
         let s := (s.seal c.r).waitFor c.r (.cbar b (Tbl.getD c.launch.cordPhase (4 * c.g.cord + b) 0))
         cbarEval s c.g.launch c.g.cord b)

/-- EXIT (R271, R179): a set latch is raised first (R306). The exited lanes count as arrived at every join, and no barrier
waits for them. -/
def execExit (f : RF) (s : State) : Host.Outcome State Fault Refusal :=
  withCtx s fun c =>
    let act := c.active f.g
    let pops := match c.sp.stack with
      | e :: _ => !e.join
      | [] => false
    if act = 0 then s.retire c.r
    else if c.sp.trap.isSome && act = c.sp.mask && pops then raise s c causeIllegal c.sp.mask
    else
      withLatch s c 4 true
        (let s := (compared s c 3 0).seal c.r
         let s := s.updGroup c.r.group fun g =>
           let g := { g with exited := g.exited ||| act }
           let g :=
             if act = c.sp.mask then
               match c.sp.stack with
               | e :: rest => if e.join then { g with splits := Tbl.del g.splits c.r.split } else g.updSplit c.r.split fun sp => sp.pop e rest
               | [] => { g with splits := Tbl.del g.splits c.r.split }
             else g.updSplit c.r.split fun sp => { (sp.advance 1) with mask := sp.mask &&& ~~~act }
           g.merge
         let s := (List.range 16).foldl (fun s b => barArrive s c.r.group b) s
         (List.range 4).foldl (fun s b => cbarEval s c.g.launch c.g.cord b) s)

/-- PAUSE (R272, R189). -/
def execPause (f : IF) (s : State) : Host.Outcome State Fault Refusal :=
  withCtx s fun c => once s c f.g ((s.updSplit c.r fun sp => { sp with paused := true }).retire c.r)

/-! Rings. -/

/-- RGET (R275, R184): its completion is an acquire of .crew scope (R185). -/
def execRget (f : RF) (s : State) : Host.Outcome State Fault Refusal :=
  withCtx s fun c =>
    let r := f.m 0 3
    let slot := c.crew.slotOf r (c.sp.s f.sa.toNat)
    let ph := f.m 3 1 == 1
    once s c f.g
      (if c.crew.phase r slot == ph then withAcquire s c true 1 fun s => s.retire c.r else s.waitFor c.r (.ring r slot ph))

/-- RPUT (R275, R184): a release of .crew scope. -/
def execRput (f : RF) (s : State) : Host.Outcome State Fault Refusal :=
  withCtx s fun c =>
    let r := f.m 0 3
    let slot := c.crew.slotOf r (c.sp.s f.sa.toNat)
    once s c f.g
      (withWriteBack s c true 1 fun s =>
        held s c 10 c.word
          (((s.updCrew c.g.crew fun cr =>
            { cr with ringPhase := Tbl.setD false cr.ringPhase (8 * r + slot) (!(cr.phase r slot)) }).seal c.r).retire c.r))

/-! The prefix. -/

/-- REP (R294): the iterations start at REPCNT where tret has come back to this rep, and otherwise at 0 (R295, R365). -/
def execRep (f : PF) (s : State) : Host.Outcome State Fault Refusal :=
  withCtx s fun c =>
    s.updSplit c.r fun sp =>
      let start := if sp.back then sp.repcnt else 0
      if f.countM1.toNat < start then sp.advance 2 else { (sp.advance 1) with rep := some (f, start) }

end Sys2Proof.Machine
end

