-- ==== Sys2Proof/Machine/Copy.lean ====
section
/-! DEFINITION. The block-transfer engine: cpl, cps, cpt, cptw and their completion (11 R312 to R322), and the gather streams
(11 R324 to R326). -/

namespace Sys2Proof.Machine

/-! Issue. -/

/-- Commands of a core in the load queue, or in the store queue (R312). -/
def Core.queued (x : Core) (store : Bool) : Nat :=
  (x.cmds.filter fun e => match e.2.kind with
    | .cpl | .cpt => !store
    | .cps | .cptw => store
    | _ => false).length

/-- A slot that a gang of a crew has claimed (R318, R332). -/
def Core.slotClaimed (x : Core) (crew slot : Nat) : Bool := (Tbl.find? x.claims slot).any fun k => k / 32 = crew

/-- A new command of a split, with its completion object (R313). -/
def newCommand (c : Ctx) (kind : CmdKind) (ty : Nat) (col : Nat) (scope : Nat) (acq rel : Bool) (obj : Nat) (tb tbsp oslot : Bool) :
    Command :=
  { kind := kind, group := c.r.group, split := c.r.split, also := [], crew := c.g.crew, size := ty, lanes := [], record := 0, box := 0
    dest := 0, pitch := 0, cols := 0, data := [], oslot := oslot, acq := acq, rel := rel, scope := scope, colour := col
    tb := if tb then some (c.sp.s obj, tbsp) else none, token := if tb || obj = 0 then none else some obj
    faults := [], answers := [], aborted := [], pc := c.sp.pc, done := [], got := [], fail := none }

/-- Hands a command to the engine (R312); in a clamp once, when the trailing copy matches (R410). -/
def enqueue (s : State) (c : Ctx) (x : Command) : State :=
  held s c 5 c.word
    (let core := s.core c.crew.core
     let id := s.seed
     let s := { s.setCore c.crew.core { core with cmds := Tbl.put core.cmds id x } with seed := id + 1 }
     (s.updSplit c.r fun sp => match x.token with
       | some r => { sp with pend := sp.pend ++ [r] }
       | none => sp).retire c.r)

/-- The checks of a completion barrier: ALIGN, and its bound in scratchpad (R16, R318, R321). -/
def Command.barrierAligned (x : Command) : Bool :=
  match x.tb with
  | some (a, _) => a.toNat % 16 = 0
  | none => true

def Command.barrierInside (x : Command) (cr : Crew) : Bool :=
  match x.tb with
  | some (a, true) => cr.inScratch a.toNat 16
  | _ => true

/-- The first operand address of 16 slots that lies above them (R318). -/
def operandBytes : Nat := 196608

/-- cpl and cps (R317, R318). -/
def laneCopy (s : State) (c : Ctx) (f : MF) (kind : CmdKind) : State :=
  let n := memSize f.ty
  let tok := fld f.off 0 8
  let oslot := f.off.getLsbD 10
  let lanes := (lanesOf (c.active f.g)).map fun l => (l, laneAddr c f n 0 l, (c.g.v f.dst.toNat l).setWidth 64)
  let x : Command :=
    { newCommand c kind n f.col.toNat f.scope.toNat (acqOf f) (relOf f) tok (f.off.getLsbD 8) (f.off.getLsbD 9) oslot with lanes := lanes }
  let bad := lanes.filter fun e => e.2.1.toNat % n != 0 || e.2.2.toNat % n != 0
  let local_ := lanes.map fun e => (e.1, e.2.2)
  let lacks (a : W64) : Bool :=
    operandBytes ≤ a.toNat || !(s.core c.crew.core).slotClaimed c.g.crew (a.toNat / 12288)
  if lanes.isEmpty then s.retire c.r
  else if !bad.isEmpty then
    raise s c causeAlign (maskOf fun l => bad.any fun e => e.1 = l)
      (sector ((bad.head?.map fun e => if e.2.1.toNat % n != 0 then e.2.1 else e.2.2).getD 0))
  else if !x.barrierAligned then raise s c causeAlign c.sp.mask (sector (c.sp.s tok))
  else
    let inner (s : State) : State :=
      if !x.barrierInside c.crew then raiseVa s c causePerm c.sp.mask (c.sp.s tok) (detailWord 7 0 0 false .engWrite)
      else if oslot && local_.any fun e => lacks e.2 then
        raise s c causeSlot (maskOf fun l => local_.any fun e => e.1 = l && lacks e.2)
      else if 16 ≤ (s.core c.crew.core).queued (kind = .cps) then s.waitFor c.r (.queue (if kind = .cps then 1 else 0))
      else enqueue s c x
    if oslot then inner s
    else withBound s c local_ n (if kind = .cps then .engRead else .engWrite) (inner s)

/-- CPL (R317). -/
def execCpl (f : MF) (s : State) : Host.Outcome State Fault Refusal := withCtx s fun c => laneCopy s c f .cpl

/-- CPS (R317). -/
def execCps (f : MF) (s : State) : Host.Outcome State Fault Refusal := withCtx s fun c => laneCopy s c f .cps

/-- A stride as a signed number. -/
def Record.strideOf (t : Record) (d : Nat) : Int := asInt 64 true (t.stride.getD d 0)

/-- The whole extent of a weight-store record lies in the weight store (R29, R321). -/
def Record.inWs (t : Record) (bytes : Nat) : Bool :=
  let span (d : Nat) : Int := ((t.ext (d + 1) : Int) - 1) * t.strideOf d
  let lo : Int := t.base + min 0 (span 0) + min 0 (span 1) + min 0 (span 2)
  let hi : Int := t.base + t.ext 0 * t.elem + max 0 (span 0) + max 0 (span 1) + max 0 (span 2)
  0 ≤ lo && hi ≤ bytes

/-- The shapes that OSLOT and SWZ allow (R320, R322), and the destination of OSLOT (R321). -/
def boxShapeOk (t : Record) (dest : W64) (oslot : Bool) : Bool :=
  (!oslot ||
    (t.ndim ≤ 2 && t.row % 48 = 0 && t.row ≤ 384 && fld dest 0 4 + t.row / 48 ≤ 16 && fld dest 8 8 + t.boxLen 1 ≤ 256
      && fld dest 4 4 = 0 && fld dest 16 48 = 0))
    && (!t.swz || (!oslot && (t.row = 128 || t.row = 256) && t.esize ≤ 2))

/-- cpt and cptw (R320, R321). -/
def boxCopy (s : State) (c : Ctx) (f : RF) (kind : CmdKind) : State :=
  let rec_ := c.sp.trec f.sa.toNat
  let t := Record.of rec_
  let dest := c.sp.s f.dst.toNat
  let obj := f.sc.toNat
  let oslot := f.m 2 1 == 1
  let store := kind = .cptw
  let x : Command :=
    { newCommand c kind t.elem (f.m 8 3) (f.m 3 3) (f.m 6 1 == 1) (f.m 7 1 == 1) obj (f.m 0 1 == 1) (f.m 1 1 == 1) oslot with
      record := rec_, box := c.sp.s f.sb.toNat, dest := dest }
  let slots := (List.range (t.row / 48)).map fun p => fld dest 0 4 + p
  if !c.any f.g then s.retire c.r
  else if !recordOk rec_ || !boxShapeOk t dest oslot then raise s c causeIllegal c.sp.mask
  else if !oslot && dest.toNat % (if t.swz then 128 else 16) != 0 then raise s c causeAlign c.sp.mask (sector dest)
  else if !x.barrierAligned then raise s c causeAlign c.sp.mask (sector (c.sp.s obj))
  else if !oslot && !c.crew.inScratch dest.toNat t.boxBytes then
    raiseVa s c causePerm c.sp.mask dest (detailWord 7 0 0 false (if store then .engRead else .engWrite))
  else if !x.barrierInside c.crew then raiseVa s c causePerm c.sp.mask (c.sp.s obj) (detailWord 7 0 0 false .engWrite)
  else if t.space = 1 && store then raise s c causeWsWrite c.sp.mask
  else if t.space = 1 && !t.inWs (s.wsBytes c.part) then
    raiseVa s c causePerm c.sp.mask (w64 t.base) (detailWord 8 0 0 false .engRead)
  else if oslot && slots.any fun k => !(s.core c.crew.core).slotClaimed c.g.crew k then raise s c causeSlot c.sp.mask
  else if 16 ≤ (s.core c.crew.core).queued store then s.waitFor c.r (.queue (if store then 1 else 0))
  else enqueue s c x

/-- CPT (R320). -/
def execCpt (f : RF) (s : State) : Host.Outcome State Fault Refusal := withCtx s fun c => boxCopy s c f .cpt

/-- CPTW (R320). -/
def execCptw (f : RF) (s : State) : Host.Outcome State Fault Refusal := withCtx s fun c => boxCopy s c f .cptw

/-! Elements. -/

/-- An element of a copy: its index, the address on the generic or weight-store side (none outside the extent), and its address
in the scratchpad or in operand memory. -/
structure CopyElem where
  idx : Nat
  addr : Option W64
  at_ : Nat
  deriving DecidableEq, Repr

/-- The address of an element of a record, if it lies inside the extent (R319, R320). -/
def Record.addr (t : Record) (i : List Nat) : Option W64 :=
  if (List.range 4).all fun d => i.getD d 0 < t.ext d then
    some (w64 (t.base + i.getD 0 0 * t.elem + i.getD 1 0 * t.stride.getD 0 0 + i.getD 2 0 * t.stride.getD 1 0
      + i.getD 3 0 * t.stride.getD 2 0))
  else none

/-- Where the byte at a box offset lies (R320, R322). -/
def boxPlace (t : Record) (dest : W64) (oslot : Bool) (o : Nat) : Nat :=
  let r := o / t.row
  if oslot then (fld dest 0 4 + o % t.row / 48) * 12288 + (fld dest 8 8 + r) * 48 + o % t.row % 48
  else if t.swz then
    let w := o % t.row / 4
    dest.toNat + t.row * r + 4 * (32 * (w / 32) + (w + r) % 32) + o % 4
  else dest.toNat + o

/-- The elements of a command, in index order; a drain leaves out the blocks before the one at which it resumed, and those from a divergence
on (R343). -/
def Command.elems (x : Command) : List CopyElem :=
  match x.kind with
  | .cpt | .cptw =>
    let t := Record.of x.record
    (List.range (t.boxLen 0 * t.boxLen 1 * t.boxLen 2 * t.boxLen 3)).map fun n =>
      let j := [n % t.boxLen 0, n / t.boxLen 0 % t.boxLen 1, n / (t.boxLen 0 * t.boxLen 1) % t.boxLen 2
               , n / (t.boxLen 0 * t.boxLen 1 * t.boxLen 2)]
      let i := (List.range 4).map fun d => fld x.box (16 * d) 16 * t.boxLen d + j.getD d 0
      { idx := n, addr := t.addr i, at_ := boxPlace t x.dest x.oslot (n * t.elem) }
  | .drainS | .drainG =>
    let block (n : Nat) : Nat := n / x.cols / 8 * (x.cols / 8) + n % x.cols / 8
    ((List.range x.data.length).filter fun n => x.skip ≤ block n && x.stopAt.all fun k => block n < k).map fun n =>
      let o := (x.pitch * w64 (n / x.cols)) + w64 (n % x.cols * x.size)
      { idx := n, addr := some (x.dest + o), at_ := (x.dest + o).toNat }
  | _ => x.lanes.map fun e => { idx := e.1, addr := some e.2.1, at_ := e.2.2.toNat }

/-- The sector count of a command (R314); a drain counts its whole region (R349). -/
def Command.sectors (x : Command) : Nat :=
  ((match x.kind with
    | .drainS | .drainG => x.data.length
    | _ => x.elems.length) * x.size + 31) / 32

/-! Performance (R315, R316). -/

def State.updCmd (s : State) (core id : Nat) (f : Command → Command) : State :=
  let x := s.core core
  s.setCore core { x with cmds := Tbl.upd x.cmds id f }

def State.cmd? (s : State) (core id : Nat) : Option Command := Tbl.find? (s.core core).cmds id

/-- Records elements as failed; the lowest is kept (R315). -/
def Command.failed (x : Command) (ids : List Nat) (line cause reason : Nat) : Command :=
  { x with
    done := ids.foldl (fun t i => Tbl.put t i line) x.done
    fail := ids.foldl (fun f i => match f with
      | some (j, c, r) => if i < j then some (i, cause, reason) else some (j, c, r)
      | none => some (i, cause, reason)) x.fail }

/-- The reason that a token carries beside a cause (Table 11.3). -/
def reasonOf (cause : Nat) (d : BitVec 32) : Nat := if cause = 6 then fld d 0 5 else 0

/-- What the engine knows of the command it serves. -/
structure Eng where
  core : Nat
  id : Nat
  launch : Launch
  crew : Crew
  deriving DecidableEq, Repr

def Eng.who (e : Eng) : Walker := .command e.core e.id

/-- The bytes of an element in the scratchpad, or as a drain has converted it. -/
def Eng.source (e : Eng) (s : State) (x : Command) (el : CopyElem) : Nat :=
  match x.kind with
  | .drainS | .drainG => (x.data.getD el.idx 0).toNat
  | _ => (s.core e.core).scratchNum (e.crew.scratchBase + el.at_) x.size

/-- Elements with the translations they have. -/
abbrev Placed := List (CopyElem × Xlated)

/-- The home slices' view of a line that the command asks for. -/
def Eng.req (e : Eng) (x : Command) (t : Xlated) : Req :=
  { reqOf e.launch.part e.core t x.answers [] with tenant := e.launch.tenant, cmd := some e.who }

/-- The command's translation of an address; a tensor-record command has the tensor walker's TLB too (R162). -/
def Eng.translation (e : Eng) (s : State) (x : Command) (a : W64) (acc : Access) : XRes :=
  if x.kind = .cpt || x.kind = .cptw then xlateRec s e.core e.launch.tenant a acc x.faults
  else xlate s e.core e.launch.tenant a acc x.faults

/-- An engine that waits for a line takes its place in the line's queue, and leaves it when it has been served (R67). -/
def State.unitWaits (s : State) (lk : Nat) (who : Walker) : State := s.queueFor lk (.unit who)
def State.unitServed (s : State) (lk : Nat) (who : Walker) : State :=
  s.setCaches { s.caches with waiters := s.caches.waiters.filter fun w => !(w.1 = lk && w.2 = .unit who) }

/-- A refused or failed line (R315): a late framing starts where the page allows one (R102), a wait leaves the elements for
later, and a refusal fails them. -/
def Eng.stopped (e : Eng) (s : State) (els : Placed) (w : Stop) : State :=
  let line := (els.head?.map fun p => p.2.pa / 128).getD 0
  let lk := lineKey e.launch.part line ((els.head?.map fun p => p.2.view).getD false)
  let fails (cause reason : Nat) : State :=
    (s.unitServed lk e.who).updCmd e.core e.id fun k => k.failed (els.map (·.1.idx)) line cause reason
  match w, els.head? with
  | .remoteRead l n ev, _ => askRemote s e.who e.launch.part e.launch.tenant false l n ev
  | .line k, _ => if k = lk then s.unitWaits lk e.who else s
  | .unbEvict _, some (el, x) =>
    if x.late then addLate s e.launch.part e.launch.tenant (el.addr.getD 0).toNat line e.who else fails 8 0
  | w, _ => if w.fatal then fails (stopCause w).1 (stopCause w).2 else s

/-- Reads one line for the elements that lie in it. -/
def Eng.readLine (e : Eng) (s : State) (x : Command) (els : Placed) : State :=
  match els with
  | [] => s
  | (_, x0) :: _ =>
    let line := x0.pa / 128
    match Tbl.find? x.aborted line with
    | some cause => s.updCmd e.core e.id fun k => k.failed (els.map (·.1.idx)) line cause 0
    | none =>
      match engineRead s e.core (e.req x x0) with
      | .stop s w => e.stopped s els w
      | .ok s d =>
        (s.unitServed (lineKey e.launch.part line x0.view) e.who).updCmd e.core e.id fun k =>
          els.foldl (fun (k : Command) p =>
            { k with done := Tbl.put k.done p.1.idx line, got := Tbl.put k.got p.1.idx (lineField d (p.2.pa % 128) x.size) }) k

/-- The place of a source in the core or in the weight store among a command's failed reads (R58): beside the lines of memory. -/
def scratchLine (a : Nat) : Nat := 2 ^ 61 + a / 128
def weightLine (a : Nat) : Nat := 2 ^ 60 + a / 128

/-- An element whose source in the scratchpad an uncorrectable error has withheld fails (R58, R315). -/
def Eng.badSource (e : Eng) (x : Command) (el : CopyElem) : Bool :=
  match x.kind with
  | .cps | .cptw => (Tbl.find? x.aborted (scratchLine (e.crew.scratchBase + el.at_))).isSome
  | _ => false

/-- Writes the elements that lie in one line, the highest-numbered last (R316); in a clamp through the gate (R409). -/
def Eng.writeLine (e : Eng) (s : State) (x : Command) (els : Placed) : State :=
  match els with
  | [] => s
  | (_, x0) :: _ =>
    let line := x0.pa / 128
    let dm := els.foldl (fun (a : LineData × ByteMask) p =>
      let m := byteSpan (p.2.pa % 128) x.size
      (mergeLine a.1 (lineWith (p.2.pa % 128) x.size (e.source s x p.1)) m, a.2 ||| m)) (0, 0)
    let mark (s : State) : State :=
      s.updCmd e.core e.id fun k => els.foldl (fun (k : Command) p => { k with done := Tbl.put k.done p.1.idx line }) k
    match Tbl.find? x.aborted line with
    | some cause => s.updCmd e.core e.id fun k => k.failed (els.map (·.1.idx)) line cause 0
    | none =>
    if 2 ≤ e.launch.il then
      if gateFull s e.core then s
      else
        let p := s.pair (pairOf e.core)
        let g : GateEntry :=
          { split := { group := x.group, split := x.split }, grp := ((s.group? x.group).map (·.grpid)).getD 0, launch := e.crew.launch, tenant := e.launch.tenant
            core := e.core, pc := x.pc, kind := 5, lead := w64 (line * 128)
            cmd := some e.id, held := false
            stores := [{ part := e.launch.part, line := line, view := x0.view, key := x0.key, cls := x0.cls, disc := false, late := x0.late
                         data := dm.1, mask := dm.2, lane := 0, va := w64 (line * 128) }] }
        mark (s.setPair (pairOf e.core) { p with gate := p.gate ++ [g] })
    else
      match engineWrite s e.core (e.req x x0) (some e.who) e.launch.tenant dm.1 dm.2 with
      | .stop s w => e.stopped s els w
      | .ok s _ => mark (s.unitServed (lineKey e.launch.part line x0.view) e.who)

/-- Groups placed elements by line, in element order. -/
def byLine (l : Placed) : List Placed :=
  l.foldl (fun ls p =>
    let same (g : Placed) : Bool := g.any fun q => q.2.pa / 128 = p.2.pa / 128 && q.2.view = p.2.view
    if ls.any same then ls.map fun g => if same g then g ++ [p] else g else ls ++ [[p]]) []

/-- An engine's element meets a missing entry, and is attached to its page request (R164); with no room for a request it asks again. -/
def attachElem (s : State) (tenant : Nat) (who : Walker) (a : W64) (acc : Access) : XFault → State
  | .absent sg lv tb en ad => (attachReq s tenant sg lv tb en ad acc [] [{ who := who, addr := a, access := acc }]).1
  | .trap cause d => noteXlate s tenant cause d a

/-- The elements of a command that translate now; misses queue walks, and missing entries make page requests. An element that is attached to
one waits for its reply (R164). -/
def Eng.translate (e : Eng) (s : State) (x : Command) (acc : Access) (els : List CopyElem) : State × Placed :=
  els.foldl (fun (st : State × Placed) el =>
    match el.addr with
    | none => st
    | some a =>
      if st.1.mmu.attachedEng e.who a then st
      else
        match e.translation st.1 x a acc with
        | .ok t => (fillTlb st.1 e.core e.launch.tenant a acc, st.2 ++ [(el, t)])
        | .miss => (queueWalk st.1 e.launch.tenant (a.toNat / 4096) acc e.who, st.2)
        | .fault f =>
          let s := attachElem st.1 e.launch.tenant e.who a acc f
          match f with
          | .trap cause d => (s.updCmd e.core e.id fun k => k.failed [el.idx] 0 cause (reasonOf cause d), st.2)
          | .absent _ _ _ _ _ => (s, st.2)) (s, [])

/-- Elements of a weight-store record (R300, R53): one whose bank is in refresh waits, and one whose data an uncorrectable error has withheld
fails (R58). -/
def Eng.readWeights (e : Eng) (s : State) (x : Command) (els : List CopyElem) : State :=
  els.foldl (fun s el =>
    match el.addr with
    | none => s
    | some a =>
      if Tbl.getD s.dev.refresh (wsHome (s.part e.launch.part).ports a.toNat).1 false then s
      else
        let line := weightLine a.toNat
        match Tbl.find? x.aborted line with
        | some cause => s.updCmd e.core e.id fun k => k.failed [el.idx] line cause 0
        | none =>
          s.updCmd e.core e.id fun k =>
            { k with done := Tbl.put k.done el.idx line, got := Tbl.put k.got el.idx (s.readWs e.launch.part a.toNat x.size) }) s

/-- Elements outside the extent: zero for a cpt, skipped by a cptw (R320). -/
def Eng.outside (e : Eng) (s : State) (els : List CopyElem) : State :=
  s.updCmd e.core e.id fun k =>
    (els.filter fun el => el.addr.isNone).foldl (fun (k : Command) el =>
      { k with done := Tbl.put k.done el.idx 0, got := Tbl.put k.got el.idx 0 }) k

/-- Puts the values read at their places, once, in index order, so that the highest-numbered lane's bytes remain; an element whose data an
uncorrectable error has withheld is not performed (R315, R316, R58). -/
def Eng.deliver (e : Eng) (s : State) (x : Command) : State :=
  let bad (i : Nat) : Bool := ((Tbl.find? x.done i).bind fun line => Tbl.find? x.aborted line).isSome
  let core := x.elems.foldl (fun (k : Core) el =>
    match Tbl.find? x.got el.idx with
    | none => k
    | some v =>
      let bs := toBytes x.size v
      if bad el.idx then k
      else if x.oslot then { k with operand := (List.range x.size).foldl (fun t i => Tbl.put t (el.at_ + i) (bs.getD i 0)) k.operand }
      else k.setScratch (e.crew.scratchBase + el.at_) bs) (s.core e.core)
  (s.setCore e.core core).updCmd e.core e.id fun k => { k with got := [] }

/-- The command reads memory into the core. -/
def CmdKind.loads : CmdKind → Bool
  | .cpl | .cpt => true
  | _ => false

/-- The elements of a scratchpad drain are put in place (R349). -/
def Eng.drainLocal (e : Eng) (s : State) (els : List CopyElem) (x : Command) : State :=
  s.setCore e.core (els.foldl (fun (k : Core) el =>
    k.setScratch (e.crew.scratchBase + el.at_) (toBytes x.size (x.data.getD el.idx 0).toNat)) (s.core e.core))

/-- The failure of a command: that of its lowest failed element, with accesses that failed after they were made (R315, R390). -/
def Command.outcome (x : Command) : Option (Nat × Nat × Nat) :=
  x.done.foldl (fun f d =>
    match Tbl.find? x.aborted d.2 with
    | none => f
    | some cause =>
      let r := (d.1, cause, if cause = 6 then 11 else 0)
      match f with
      | some (j, c, n) => if d.1 < j then some r else some (j, c, n)
      | none => some r) x.fail

/-- The command is removed from its queue. -/
def dropCmd (s : State) (core id : Nat) : State :=
  let s := detachWho s (.command core id)
  let x := s.core core
  s.setCore core { x with cmds := Tbl.del x.cmds id }

/-- A completion update that is lost (R315). -/
def loseUpdate (s : State) (core id : Nat) (x : Command) (a : W64) : State :=
  dropCmd (s.updSplit { group := x.group, split := x.split } fun sp => sp.latchErr .lostUpdate a) core id

/-- The completion object is written (R313, R315); the update of a barrier in generic memory is translated now. -/
def Eng.complete (e : Eng) (s : State) (x : Command) : State :=
  let out := x.outcome
  match x.tb with
  | none =>
    let w := match out with
      | none => tokenWord 0 0 0 0
      | some (i, c, r) => tokenWord 1 c r i
    dropCmd (match x.token with
      | some r => ({ group := x.group, split := x.split } :: x.also).foldl (fun s m => writeToken s m r w) s
      | none => s) e.core e.id
  | some (a, true) =>
    let k := s.core e.core
    let at_ := e.crew.scratchBase + a.toNat
    dropCmd (s.setCore e.core (k.setScratch at_ (toBytes 16 (tbComplete (k.scratchNum at_ 16) x.sectors out.isSome)))) e.core e.id
  | some (a, false) =>
    if s.mmu.attachedEng e.who a then s
    else
      match xlate s e.core e.launch.tenant a .atomic x.faults with
      | .miss => queueWalk s e.launch.tenant (a.toNat / 4096) .atomic e.who
      | .fault f =>
        let s := attachElem s e.launch.tenant e.who a .atomic f
        match f with
        | .trap _ _ => loseUpdate s e.core e.id x a
        | .absent _ _ _ _ _ => s
      | .ok t =>
        let q := e.req x t
        let lk := lineKey q.part q.line q.view
        if (Tbl.find? x.aborted q.line).isSome && x.done.all fun d => d.2 != q.line then loseUpdate s e.core e.id x a
        else
          match (coreOwn s e.core q).bind fun s d =>
              let v := tbComplete (lineField d (t.pa % 128) 16) x.sectors out.isSome
              coreAtomicWrite s e.core q t.cls none e.launch.tenant (lineWith (t.pa % 128) 16 v) (byteSpan (t.pa % 128) 16) with
          | .ok s _ => dropCmd (s.unitServed lk e.who) e.core e.id
          | .stop s (.remoteRead l n ev) => askRemote s e.who e.launch.part e.launch.tenant true l n ev
          | .stop s (.line k) => if k = lk then s.unitWaits lk e.who else s
          | .stop s w => if w.fatal then loseUpdate s e.core e.id x a else s

/-- Line writes of the command that the gate holds, or that have not been acknowledged (R410, R392, R393). -/
def Eng.unsettled (e : Eng) (s : State) : Bool :=
  (s.pair (pairOf e.core)).gate.any (fun g => g.core = e.core && g.cmd = some e.id)
    || s.outbound.any fun o => o.2.who = some e.who && o.2.write

/-- One pass over the elements that are still to be performed. -/
def Eng.pass (e : Eng) (s : State) (x : Command) : State :=
  let left := x.elems.filter fun el => (Tbl.find? x.done el.idx).isNone
  let s := (e.outside s left).updCmd e.core e.id fun k =>
    (left.filter (e.badSource x)).foldl (fun (k : Command) el => k.failed [el.idx] 0 causeEcc 0) k
  let left := left.filter fun el => !e.badSource x el
  if left.isEmpty then s
  else if x.kind = .drainS then
    (e.drainLocal s left x).updCmd e.core e.id fun k => left.foldl (fun (k : Command) el => { k with done := Tbl.put k.done el.idx 0 }) k
  else if x.kind.loads && x.kind = .cpt && (Record.of x.record).space = 1 then e.readWeights s x left
  else
    let (s, good) := e.translate s x (if x.kind.loads then .engRead else .engWrite) left
    (byLine good).foldl (fun s els => if x.kind.loads then e.readLine s x els else e.writeLine s x els) s

/-- The last steps of a command whose elements have all been performed or have failed: the values read are put in place, the release is made,
and the completion object is written (R315, R129). -/
def Eng.finish (e : Eng) (s : State) (x : Command) : State :=
  let s := if x.kind.loads then e.deliver s x else s
  match (if x.rel then releaseL1 s e.launch.part e.core x.scope else .ok s ()) with
  | .stop s _ => s
  | .ok s _ => e.complete s x

/-- Performs what can be performed of a command and completes it when every element has been performed or has failed (R315):
the acquire before the first read, the release after the last write (R129). -/
def runCommand (s : State) (core id : Nat) : State :=
  match s.cmd? core id with
  | none => s
  | some x =>
    match s.group? x.group, s.crew? x.crew with
    | some g, some cr =>
      match s.launch? g.launch with
      | none => s
      | some l =>
        let e : Eng := { core := core, id := id, launch := l, crew := cr }
        if cr.saved then s
        else
          match (if x.acq && x.done.isEmpty then acquireL1 s l.part core x.scope else .ok s ()) with
          | .stop s _ => s
          | .ok s _ =>
            let s := e.pass s x
            match s.cmd? core id with
            | none => s
            | some x =>
              if (x.elems.any fun el => (Tbl.find? x.done el.idx).isNone) || e.unsettled s then s
              else e.finish s x
    | _, _ => s

/-- COPY_COMPLETE (R315). -/
def execCopyComplete (core id : Nat) (s : State) : Host.Outcome State Fault Refusal :=
  .next (match s.cmd? core id with
    | some x => if x.kind = .drainS || x.kind = .drainG then s else runCommand s core id
    | none => s)

/-! Gather streams. -/

def State.setStream (s : State) (core g : Nat) (x : Stream) : State :=
  let k := s.core core
  s.setCore core { k with streams := Tbl.put k.streams g x }

def State.delStream (s : State) (core g : Nat) : State :=
  let s := detachWho s (.stream core g)
  let k := s.core core
  s.setCore core { k with streams := Tbl.del k.streams g }

/-- GSET (R325). -/
def execGset (f : RF) (s : State) : Host.Outcome State Fault Refusal :=
  withCtx s fun c =>
    let core := c.crew.core
    let g := f.m 0 2
    let rec_ := c.sp.trec f.sa.toNat
    let t := Record.of rec_
    if !c.any f.g then s.retire c.r
    else if !recordOk rec_ || t.ndim != 2 || !(t.esize = 2 || t.esize = 3) then raise s c causeIllegal c.sp.mask
    else if t.space = 1 && !t.inWs (s.wsBytes c.part) then
      raiseVa s c causePerm c.sp.mask (w64 t.base) (detailWord 8 0 0 false .engRead)
    else if (Tbl.find? (s.core core).streams g).any fun x => x.group != c.r.group then s.waitFor c.r (.gather g)
    else
      held s c 10 c.word
        (withAcquire s c (f.m 5 1 == 1) (f.m 2 3) fun s =>
          let x : Stream :=
            { group := c.r.group, split := c.r.split, record := rec_
              rows := (lanesOf (c.active f.g)).map fun l => (l, (c.g.v f.sb.toNat l).toNat)
              col := fld (c.sp.s f.sc.toNat) 0 32, pos := 0, fetched := [], failed := [], faults := [], answers := [], aborted := [] }
          (s.setStream core g x).retire c.r)

/-- The address of element k of a lane, if it lies inside the extent (R325). -/
def Stream.addr (x : Stream) (k lane : Nat) : Option W64 :=
  match Tbl.find? x.rows lane with
  | none => none
  | some row => (Record.of x.record).addr [x.col + k, row]

/-- An element that has been fetched, has failed, or needs no fetch (R325, R326). -/
def Stream.has (x : Stream) (k lane : Nat) : Bool :=
  (x.addr k lane).isNone || (Tbl.find? x.fetched (64 * k + lane)).isSome || (Tbl.find? x.failed (64 * k + lane)).isSome

/-- The value of an element: 0 outside the extent and for a lane that gset did not have (R325, R326). -/
def Stream.value (x : Stream) (k lane : Nat) : W64 :=
  if (x.addr k lane).isNone then 0 else Tbl.getD x.fetched (64 * k + lane) 0

/-- The registers that a gget writes: pairs from an even DST for ESIZE 3, below the image's REGS. What the word alone does not show, the range
of the pairs, is checked when the instruction is executed (R326; DESIGN CHOICE, log 91). -/
def ggetFits (regs dst n : Nat) (wide : Bool) : Bool := if wide then dst % 2 = 0 && dst + 2 * n ≤ regs else dst + n ≤ regs

/-- GGET (R326). An element whose fetch failed is fetched again when the instruction is executed again. -/
def execGget (f : RF) (s : State) : Host.Outcome State Fault Refusal :=
  withCtx s fun c =>
    let core := c.crew.core
    let g := f.m 0 2
    let n := f.m 2 3 + 1
    let lanes := lanesOf (c.active f.g)
    if lanes.isEmpty then s.retire c.r
    else
      match Tbl.find? (s.core core).streams g with
      | none => raise s c causeIllegal c.sp.mask
      | some x =>
        let ks := (List.range n).map fun i => x.pos + i
        let wide := (Record.of x.record).esize = 3
        if x.group != c.r.group || !ggetFits c.g.regs f.dst.toNat n wide then raise s c causeIllegal c.sp.mask
        else if ks.any fun k => lanes.any fun l => !x.has k l then s.waitFor c.r (.gather g)
        else
          let bad := ks.flatMap fun k => lanes.filterMap fun l =>
            (Tbl.find? x.failed (64 * k + l)).map fun e => (l, e, (x.addr k l).getD 0)
          match worst bad with
          | some (e, mask, a) =>
            let keys := ks.flatMap fun k => lanes.map fun l => 64 * k + l
            let y : Stream := { x with failed := x.failed.filter fun e => !keys.contains e.1, aborted := [] }
            raiseVa (s.setStream core g y) c e.cause mask a e.detail
          | none =>
            let s := s.updGroup c.r.group fun gr =>
              (List.range n).foldl (fun gr i => lanes.foldl (fun gr l =>
                let v := x.value (x.pos + i) l
                if wide then gr.setV64 (f.dst.toNat + 2 * i) l v else gr.setV (f.dst.toNat + i) l (v.setWidth 32)) gr) gr
            let pos := x.pos + n
            (s.setStream core g { x with pos := pos }).retire c.r

/-- GSTOP (R326). -/
def execGstop (f : RF) (s : State) : Host.Outcome State Fault Refusal :=
  withCtx s fun c =>
    let core := c.crew.core
    let g := f.m 0 2
    once s c f.g
      (held s c 10 c.word
        (let mine := (Tbl.find? (s.core core).streams g).any fun x => x.group = c.r.group
         ((if mine then s.delStream core g else s).seal c.r).retire c.r))

/-- A fetch of one element of a stream (R325, R164): it delivers, fails, waits, or makes a page request. -/
def fetchElem (s : State) (core g : Nat) (l : Launch) (k lane : Nat) (a : W64) : State :=
  match Tbl.find? (s.core core).streams g with
  | none => s
  | some x =>
    let t := Record.of x.record
    let key := 64 * k + lane
    let who := Walker.stream core g
    let put (s : State) (v : Nat) : State := s.setStream core g { x with fetched := Tbl.put x.fetched key (w64 v) }
    let fails (s : State) (e : XFault) : State := s.setStream core g { x with failed := Tbl.put x.failed key e }
    if t.space = 1 then
      if Tbl.getD s.dev.refresh (wsHome (s.part l.part).ports a.toNat).1 false then s
      else
        match Tbl.find? x.aborted (weightLine a.toNat) with
        | some cause => fails s (.trap cause 0)
        | none => put s (s.readWs l.part a.toNat t.elem)
    else if s.mmu.attachedEng who a then s
    else
      match xlate s core l.tenant a .engRead x.faults with
      | .miss => queueWalk s l.tenant (a.toNat / 4096) .engRead who
      | .fault (.trap c d) => fails s (.trap c d)
      | .fault f => attachElem s l.tenant who a .engRead f
      | .ok y =>
        let q : Req := { reqOf l.part core y x.answers [] with tenant := l.tenant, cmd := some who }
        let lk := lineKey q.part q.line q.view
        match Tbl.find? x.aborted q.line with
        | some cause => fails s (.trap cause 0)
        | none =>
          match engineRead (fillTlb s core l.tenant a .engRead) core q with
          | .ok s d => put (s.unitServed lk who) (lineField d (y.pa % 128) t.elem)
          | .stop s (.remoteRead link n ev) => askRemote s who l.part l.tenant false link n ev
          | .stop s (.line k) => if k = lk then s.unitWaits lk who else s
          | .stop s w => if w.fatal then fails (s.unitServed lk who) (.trap (stopCause w).1 0) else s

/-- GATHER_FETCH_COMPLETE (R325): the elements of a position, up to 16 positions ahead of k. -/
def execGatherFetchComplete (core stream pos : Nat) (s : State) : Host.Outcome State Fault Refusal :=
  .next (match Tbl.find? (s.core core).streams stream with
    | none => s
    | some x =>
      match (s.group? x.group).bind fun g => (s.launch? g.launch).bind fun l => (s.crew? g.crew).map fun c => (l, c) with
      | none => s
      | some (l, cr) =>
        if cr.saved || pos < x.pos || x.pos + 16 ≤ pos then s
        else
          x.rows.foldl (fun s e =>
            if x.has pos e.1 then s
            else match x.addr pos e.1 with
              | some a => fetchElem s core stream l pos e.1 a
              | none => s) s)

/-- Fetches of a group's streams that are under way (R368 .eng). -/
def Core.fetching (x : Core) (g : Nat) : Bool :=
  x.streams.any fun e =>
    e.2.group = g && (List.range 16).any fun i => e.2.rows.any fun r => !e.2.has (e.2.pos + i) r.1

end Sys2Proof.Machine
end

