-- ==== Sys2Proof/Machine/Lanes.lean ====
section
/-! DEFINITION. Activation tables (10 R282 to R286), vexpr (R287 to R289), and the cross-lane instructions (R290 to R292). -/

namespace Sys2Proof.Machine

/-! Activation tables. -/

/-- The bank as a split of a tenant sees it: one that another tenant loaded counts as invalid (R282). -/
def Core.bankFor (x : Core) (b tenant : Nat) : Option Bank :=
  (Tbl.find? x.banks b).bind fun k => if k.valid && k.tenant = tenant then some k else none

/-- A bank is in the loading state (R284). -/
def Core.bankLoading (x : Core) (b : Nat) : Bool := (Tbl.find? x.banks b).any fun k => k.loading.isSome

/-- Coefficient cn of segment s. -/
def Bank.c (k : Bank) (s n : Nat) : Nat := (Tbl.getD k.coef (4 * s + n) (0 : W32)).toNat

/-- A value that an instruction produces: a NaN is the canonical one (R230). -/
def FFmt.canon (f : FFmt) (x : Nat) : Nat := if (f.decode x).isNan then f.nan else x

/-- The evaluation of R286 on the bits of an f32: the value, and the events of the steps that round. An invalid bank counts one
NaN produced, in f32 (DEDUCED, log 11). -/
def actElem (bank : Option Bank) (rnd x : Nat) : Elem :=
  let f := fmtF32
  match bank with
  | none => { val := f.nan, marks := { events := [f.ev 0] } }
  | some k =>
    let v := f.decode x
    if v.isNan then { val := f.nan }
    else
      let u := (v.add (f.decode k.lo.toNat).neg 0).mul (f.decode k.scale.toNat)
      let zero : FVal := .fin false 0 0
      let top : FVal := .fin false 256 0
      let poly (s : Nat) : Elem :=
        let sv : FVal := .fin true s 0
        let t := f.round (u.add sv 0) 0 false false v.isInf
        let y2 := fFmaElem f rnd t.val (k.c s 3) (k.c s 2)
        let y1 := fFmaElem f rnd t.val y2.val (k.c s 1)
        let y0 := fFmaElem f rnd t.val y1.val (k.c s 0)
        { val := y0.val, marks := ((t.marks.join y2.marks).join y1.marks).join y0.marks }
      if u.cmp zero = some .lt then (if k.mode.getLsbD 0 then { val := f.canon k.vlo.toNat } else poly 0)
      else if u.cmp top != some .lt then (if k.mode.getLsbD 1 then { val := f.canon k.vhi.toNat } else poly 255)
      else
        poly (match u with
          | .fin neg m e => roundInt neg m e 1
          | _ => 0)

/-- One element of fact: converted exactly to f32, evaluated, and rounded to the element's format (R286). -/
def factElem (t : FFmt) (bank : Option Bank) (rnd a : Nat) : Elem :=
  if t.cls = 0 then actElem bank rnd a
  else
    let x := (fmtF32.round (t.decode a) 0 false true true).val
    let y := actElem bank rnd x
    let v := fmtF32.decode y.val
    let r := t.round v rnd false v.isNan v.isInf
    { val := r.val, marks := y.marks.join r.marks }

/-- An evaluation of the bound bank waits while the bank is loading (R284). -/
def withBank (s : State) (c : Ctx) (k : Option Bank → State) : State :=
  let x := s.core c.crew.core
  if x.bankLoading c.sp.atb then s.waitFor c.r (.bank c.sp.atb) else k (x.bankFor c.sp.atb c.launch.tenant)

/-- FACT (R286). -/
def execFact (f : RF) (s : State) : Host.Outcome State Fault Refusal :=
  withCtx s fun c =>
    if !c.any f.g then s.retire c.r
    else
      withBank s c fun bank =>
        let t := tyFmt f.ty
        floatOp s c f.g t f.dst 1 fun l =>
          mapElems t.width (tyFCount f.ty) (fun a _ _ => factElem t bank c.sp.rnd a) (c.va f 1 l) 0 0

/-- A bank from its image, or none for an image that step 5 of R284 refuses. -/
def parseBank (img : List Byte) (tenant : Nat) : Option Bank :=
  let num (off n : Nat) := leBytes ((img.drop off).take n)
  let lo := num 4 4
  let scale := num 8 4
  let mode := num 0x14 1
  let fin (v : FVal) : Bool := !(v.isNan || v.isInf)
  let sv := fmtF32.decode scale
  if num 0 4 = 0x54415051 && mode < 4 && num 0x15 43 = 0 && fin (fmtF32.decode lo) && fin sv && !sv.isZero && !sv.isNeg then
    some { valid := true, tenant := tenant, lo := BitVec.ofNat 32 lo, scale := BitVec.ofNat 32 scale
           vlo := BitVec.ofNat 32 (num 0x0C 4), vhi := BitVec.ofNat 32 (num 0x10 4), mode := BitVec.ofNat 8 mode
           coef := (List.range 1024).map fun n => (n, BitVec.ofNat 32 (num (0x40 + 4 * n) 4)), loading := none }
  else none

/-- Marks a bank as loading for a split, or as no longer loading. -/
def setLoading (s : State) (core b : Nat) (r : Option SplitRef) : State :=
  let x := s.core core
  s.setCore core { x with banks := Tbl.put x.banks b { Tbl.getD x.banks b Bank.reset with loading := r } }

/-- The read of an atload ended without a wait: the bank leaves the loading state (R284). -/
def endLoading (s : State) (r : SplitRef) (core b : Nat) : State :=
  match s.split? r with
  | some sp => if sp.wait != .none && sp.pendingTrap.isNone then s else setLoading s core b none
  | none => s

/-- Another split loads the bank, or another has bound it (R284 step 2). Once the bank is in the loading state for this split, others may
bind it (R285). -/
def bankTaken (s : State) (c : Ctx) (b : Nat) : Bool :=
  let core := c.crew.core
  let own := if c.sp.atb = b then 1 else 0
  match (Tbl.find? (s.core core).banks b).bind (·.loading) with
  | some r => r != c.r
  | none => bindCount s core b != own

/-- ATLOAD (R284). -/
def execAtload (f : RF) (s : State) : Host.Outcome State Fault Refusal :=
  withCtx s fun c =>
    let b := f.m 0 1
    let a := c.sp.s f.sa.toNat
    let core := c.crew.core
    once s c f.g
      (if a.toNat % 64 != 0 then raise s c causeAlign c.sp.mask (sector a)
       else if bankTaken s c b then s.waitFor c.r (.bankFree b)
       else
         endLoading
           (withBytes (setLoading s core b (some c.r)) c c.sp.mask a.toNat 4160 fun s bs =>
             match parseBank bs c.launch.tenant with
             | none => raise s c causeIllegal c.sp.mask (sector a)
             | some k =>
               let x := s.core core
               (s.setCore core { x with banks := Tbl.put x.banks b k }).retire c.r)
           c.r core b)

/-- ATBIND (R285). -/
def execAtbind (f : RF) (s : State) : Host.Outcome State Fault Refusal :=
  withCtx s fun c => once s c f.g ((bindBank s c (f.m 0 1)).retire c.r)

/-! vexpr. -/

/-- One token of a vexpr program: the stack, top first, and the marks so far (Table 10.9, R289). -/
def vexprTok (rnd : Nat) (bank : Option Bank) (ins : Nat → Nat) (st : List Nat × Marks) (tok : Nat) : List Nat × Marks :=
  let f := fmtF32
  let one (op : Nat → Elem) : List Nat × Marks :=
    match st.1 with
    | a :: t => ((op a).val :: t, st.2.join (op a).marks)
    | [] => st
  let two (op : Nat → Nat → Elem) : List Nat × Marks :=
    match st.1 with
    | b :: a :: t => ((op a b).val :: t, st.2.join (op a b).marks)
    | _ => st
  match tok with
  | 4 => two (fAddElem f rnd)
  | 5 => two (fSubElem f rnd)
  | 6 => two (fMulElem f rnd)
  | 7 => two (fMinMaxElem f false)
  | 8 => two (fMinMaxElem f true)
  | 9 => one (fNegElem f)
  | 10 => one (fAbsElem f)
  | 11 => one (fRcpElem f rnd)
  | 12 => one (fExp2Elem f)
  | 13 => one (actElem bank rnd)
  | 14 => (st.1.headD 0 :: st.1, st.2)
  | n => (ins n :: st.1, st.2)

/-- The program before its first end (R288). -/
def vexprProgram (toks : W64) : List Nat := (vexprTokens toks).takeWhile fun t => t != 15

/-- VEXPR (R289). A disturbed shadow unit is compared with the value that its operators give (R245). -/
def execVexpr (f : RF) (toks : W64) (s : State) : Host.Outcome State Fault Refusal :=
  withCtx s fun c =>
    if !c.any f.g then s.retire c.r 2
    else
      let prog := vexprProgram toks
      let run (bank : Option Bank) : State :=
        let val (l : Nat) : Elem :=
          let ins (n : Nat) : Nat :=
            if n = 0 then c.va f 1 l else if n = 1 then c.vb f 1 l else if n = 2 then c.vc f 1 l
            else (c.g.v (f.m 0 8) l).toNat
          let r := prog.foldl (vexprTok c.sp.rnd bank ins) ([], {})
          { val := r.1.headD 0, marks := r.2 }
        let write (s : State) : State :=
          ((s.updGroup c.r.group fun g => g.writeLanes (lanesOf (c.vactive f.g)) f.dst.toNat 1 fun l => (val l).val).note
            c.r.group c.g.launch (marksOf (lanesOf (c.active f.g)) val)).retire c.r 2
        if prog.any fun t => 4 ≤ t && t ≤ 13 then withShadow s c (c.active f.g) fmtF32 (c.firstOf f.g fun l => (val l).val) write
        else write s
      if prog.contains 13 then withBank s c run else run none

/-! Cross-lane instructions. -/

/-- A per-lane instruction that writes the active lanes only (R290, R291). -/
def activeOp (s : State) (c : Ctx) (q : Guard) (dst : BitVec 8) (span : Nat) (val : Nat → Nat) : State :=
  if !c.any q then s.retire c.r
  else (s.updGroup c.r.group fun g => g.writeLanes (lanesOf (c.active q)) dst.toNat span val).retire c.r

/-- The value of a source lane, 0 when the lane is not usable (R290). -/
def Ctx.source (c : Ctx) (f : RF) (usable : LaneMask) (span lane : Nat) : Nat :=
  if usable.getLsbD lane then c.va f span lane else 0

/-- The usable source lanes of qswz and qbcast (R290). -/
def Ctx.quadSources (c : Ctx) (q : Guard) : LaneMask := c.active q ||| c.helpers

/-- QSWZ (Table 10.10). -/
def execQswz (f : RF) (s : State) : Host.Outcome State Fault Refusal :=
  withCtx s fun c =>
    let n := intSpan f.ty
    laneOp s c f.g f.dst n fun l => { val := c.source f (c.quadSources f.g) n (l / 4 * 4 + f.m (2 * (l % 4)) 2) }

/-- QBCAST (Table 10.10). -/
def execQbcast (f : RF) (s : State) : Host.Outcome State Fault Refusal :=
  withCtx s fun c =>
    let n := intSpan f.ty
    laneOp s c f.g f.dst n fun l => { val := c.source f (c.quadSources f.g) n (l / 4 * 4 + f.m 0 2) }

/-- LXCHG (Table 10.10). -/
def execLxchg (f : RF) (s : State) : Host.Outcome State Fault Refusal :=
  withCtx s fun c =>
    let n := intSpan f.ty
    activeOp s c f.g f.dst n fun l => c.source f (c.active f.g) n (Nat.xor l (2 ^ f.m 0 3))

/-- LSHFL (Table 10.10). -/
def execLshfl (f : RF) (s : State) : Host.Outcome State Fault Refusal :=
  withCtx s fun c =>
    let n := intSpan f.ty
    activeOp s c f.g f.dst n fun l => c.source f (c.active f.g) n (c.vb f 1 l % c.g.width)

/-- LROT (Table 10.10). -/
def execLrot (f : RF) (s : State) : Host.Outcome State Fault Refusal :=
  withCtx s fun c =>
    let n := intSpan f.ty
    let k := if f.sbs then (c.sp.s f.sb.toNat).toNat else f.m 0 6
    activeOp s c f.g f.dst n fun l => c.source f (c.active f.g) n ((l + k) % c.g.width)

/-- QHELP (Table 10.10). -/
def execQhelp (f : RF) (s : State) : Host.Outcome State Fault Refusal :=
  withCtx s fun c =>
    let n := intSpan f.ty
    let act := c.active f.g
    laneOp s c f.g f.dst n fun l =>
      if act.getLsbD l then { val := c.va f n l }
      else
        { val := match (List.range 4).find? fun i => act.getLsbD (l / 4 * 4 + i) with
            | some i => c.va f n (l / 4 * 4 + i)
            | none => 0 }

/-- The identity of a scan operation (Table 10.11). -/
def scanIdentity (op w : Nat) (sg : Bool) : Nat :=
  match op with
  | 1 => wrapTo w (intMax w sg)
  | 2 => wrapTo w (intMin w sg)
  | 3 => 2 ^ w - 1
  | 6 => 0x80000000
  | 7 => 0x7F800000
  | 8 => 0xFF800000
  | _ => 0

/-- One combination of a scan (Table 10.11). -/
def scanCombine (op w : Nat) (sg : Bool) (rnd a b : Nat) : Elem :=
  match op with
  | 0 => opAdd w sg a b
  | 1 => opMin w sg a b
  | 2 => opMax w sg a b
  | 3 => opAnd w sg a b
  | 4 => opOr w sg a b
  | 5 => opXor w sg a b
  | 6 => fAddElem fmtF32 rnd a b
  | 7 => fMinMaxElem fmtF32 false a b
  | _ => fMinMaxElem fmtF32 true a b

/-- The running values of a scan: for each lane the accumulator before and after it, and at the end the accumulator and marks. -/
def scanRun (op w : Nat) (sg : Bool) (rnd : Nat) (src : Nat → Nat) : List Nat → Nat → Marks → List (Nat × Nat × Nat) × Nat × Marks
  | [], acc, m => ([], acc, m)
  | l :: ls, acc, m =>
    let e := scanCombine op w sg rnd acc (src l)
    let r := scanRun op w sg rnd src ls e.val (m.join e.marks)
    ((l, acc, e.val) :: r.1, r.2)

/-- A scan or reduction over the active lanes (R291); float combinations pass the shadow units. -/
def scanOp (s : State) (c : Ctx) (f : RF) (finish : State → List (Nat × Nat × Nat) → Nat → State) : State :=
  if !c.any f.g then s.retire c.r
  else
    let op := f.m 0 4
    let w := tyW f.ty
    let sg := tySigned f.ty
    let r := scanRun op w sg c.sp.rnd (fun l => c.va f (intSpan f.ty) l) (lanesOf (c.active f.g)) (scanIdentity op w sg) {}
    let out (s : State) : State := ((finish s r.1 r.2.1).note c.r.group c.g.launch r.2.2).retire c.r
    if 6 ≤ op then withShadow s c (c.active f.g) fmtF32 r.2.1 out else out s

/-- LSCAN (R291). -/
def execLscan (f : RF) (s : State) : Host.Outcome State Fault Refusal :=
  withCtx s fun c =>
    scanOp s c f fun s vals _ =>
      s.updGroup c.r.group fun g =>
        vals.foldl (fun g e => g.setNum f.dst.toNat e.1 (intSpan f.ty) (if f.m 4 1 = 1 then e.2.1 else e.2.2)) g

/-- LRED (R291): with .tos the result goes to a scalar, extended as R253 gives; an f32 result is zero-extended. -/
def execLred (f : RF) (s : State) : Host.Outcome State Fault Refusal :=
  withCtx s fun c =>
    scanOp s c f fun s vals acc =>
      if f.m 5 1 = 1 then
        s.updSplit c.r fun sp => sp.setS f.dst.toNat (if 6 ≤ f.m 0 4 then w64 acc else extendS f.ty acc)
      else
        s.updGroup c.r.group fun g => vals.foldl (fun g e => g.setNum f.dst.toNat e.1 (intSpan f.ty) acc) g

/-- LIDX (R292). -/
def execLidx (f : RF) (s : State) : Host.Outcome State Fault Refusal :=
  withCtx s fun c =>
    let act := c.active f.g
    let m := if f.m 0 1 = 1 then act else act &&& c.g.pred f.sa.toNat
    activeOp s c f.g f.dst 1 fun l => ((lanesOf m).filter fun k => k < l).length

end Sys2Proof.Machine
end

