-- ==== Sys2Proof/Machine/Ready.lean ====
section
/-! DEFINITION. Which splits are ready (07 R190 to R192; 08 R205; 14 R387): the word that a split issues next, what a waiting split waits
for, and the order in which a quarter serves its splits. -/

namespace Sys2Proof.Machine

/-! The next word of a split. -/

/-- The word that a split issues next: under a prefix, the word of the current iteration (R294). -/
def Ctx.issueWord (c : Ctx) : W64 :=
  match c.sp.rep with
  | some (f, i) => repWord f c.word i
  | none => c.word

/-- The word after it in the clause, for a wide instruction. -/
def Ctx.wordAfter (c : Ctx) : Option W64 := c.sp.clause.bind fun k => k.words[k.next + 1]?

/-- The instruction that a split issues next. -/
def Ctx.nextInstr (c : Ctx) : Except DecodeError Instr := decodeWord c.level3 c.issueWord c.wordAfter

/-- The scalar registers that an instruction reads or writes (R205). -/
def scalarsOf (i : Instr) : List Nat :=
  let u := i.uses
  let (d, a, b, c) := i.regs
  let one (x : Use) (r : BitVec 8) : List Nat := if x = .reg .s then [r.toNat] else []
  one u.dst d ++ one u.sa a ++ one u.sb b ++ one u.sc c ++ match i with
    | .cpl f | .cps f => [f.off.toNat % 64]
    | _ => []

/-- A scalar whose token is still to come, which the instruction reads or writes (R205). -/
def Split.held (sp : Split) (i : Instr) : Option Nat := (scalarsOf i).find? fun r => sp.pend.contains r

/-! Waits. -/

/-- What a gather instruction waits for has come (R325, R326). -/
def gatherReady (s : State) (c : Ctx) (g : Nat) : Bool :=
  match Tbl.find? (s.core c.crew.core).streams g with
  | none => true
  | some x =>
    match c.nextInstr with
    | .ok (.gget f) =>
      x.group != c.r.group
        || (List.range (f.m 2 3 + 1)).all fun i => (lanesOf (c.active f.g)).all fun l => x.has (x.pos + i) l
    | _ => x.group = c.r.group

/-- Writes of a split that have not been performed or answered (R368 .err). -/
def State.unsettled (s : State) (c : Ctx) : Bool :=
  s.outbound.any (fun e => e.2.write && match e.2.who with
    | some (.split r _) => r = c.r
    | _ => false)
    || (s.pair (pairOf c.crew.core)).gate.any (fun e => e.split = c.r && !e.stores.isEmpty)
    || (s.core c.crew.core).cmds.any fun e =>
      ((e.2.group = c.r.group && e.2.split = c.r.split) || e.2.also.contains c.r) && e.2.kind = .drainG

/-- It is a split's turn at a line or a miss entry: nothing that has waited longer comes before it (R37, R67). -/
def State.turnOf (s : State) (c : Ctx) (k : Nat) : Bool :=
  (s.firstWaiter k).all fun w =>
    w.1 = .split c.r || (w.2 = c.crew.core && match w.1 with
      | .split _ => false
      | _ => true)

/-- Nothing of the device's own holds a line back: no migration moves it, no block of its page is still asked of the host, and it is not
Leaving (R85, R109). -/
def State.lineFree (s : State) (k : Nat) : Bool :=
  let part := k / 2 / 2 ^ 46
  let line := k / 2 % 2 ^ 46
  !s.migrating part line
    && !(s.outbound.any fun e => e.2.who = some (.slice part line (k % 2 = 1)))
    && (match (Tbl.find? s.caches.l2 k).bind (·.unb) with
      | some (.leaving _ _) => false
      | _ => true)

/-- A line that an access waited for is open again (R67, R86, R102, R109). -/
def lineOpen (s : State) (c : Ctx) (k : Nat) : Bool :=
  let part := k / 2 / 2 ^ 46
  ((Tbl.find? s.caches.busy k).all fun b => b.targets.isEmpty && (reqTag b.access.who = c.crew.core || !s.awaited k b))
    && s.lineFree k && !s.flipping part (k / 2 % 2 ^ 46)
    && ((s.part part).late.all fun j => j.who.all fun w => match w with
      | .split r' _ => r' != c.r
      | _ => true)
    && s.turnOf c k

/-- What a split waits for has come, so that it may issue again; the waits that another step ends are not over before (R190). -/
def waitOver (s : State) (c : Ctx) : Bool :=
  let x := s.core c.crew.core
  match c.sp.wait with
  | .none => true
  | .ring r slot ph => c.crew.phase r slot == ph
  | .walk => s.mmu.walks.all fun e => e.2.waiters.all fun w => match w.1 with
    | .split r _ => r != c.r
    | _ => true
  | .line k => lineOpen s c k
  | .miss sl => s.missEntries sl < 256 && s.turnOf c (missKey sl)
  | .queue n => if n = 2 then !gateFull s c.crew.core else x.queued (n = 1) < 16
  | .gather g => gatherReady s c g
  | .bank b => !x.bankLoading b
  | .bankFree b => !bankTaken s c b
  | .token r => !c.sp.pend.contains r
  | .sync n =>
    if n = 0 then !(x.cmds.any (fun e => e.2.byGroup c.r.group) || x.fetching c.r.group) else !s.unsettled c
  | .yield => c.sp.yieldOn.isEmpty
  | .refresh b => !Tbl.getD s.dev.refresh b false
  | .gate none => (gateStores s c.crew.core).all fun e => e.split != c.r
  | .gate (some k) => (gateStores s c.crew.core).all fun e => e.split = c.r || e.stores.all fun x => lineKey x.part x.line x.view != k
  | .join | .bar _ _ | .cbar _ _ | .clause _ _ | .parked | .answer | .latch _ | .cordLatch | .matrix _ | .check => false

/-! Which split issues. -/

/-- A split that is ready: its crew issues, no trap waits for it, its launch is not ending, and its wait is over (R190). -/
def readyCtx (s : State) (c : Ctx) : Bool :=
  c.crew.running && c.sp.pendingTrap.isNone && !s.failing c.g.launch && waitOver s c

/-- Every split, with its context. -/
def State.allCtx (s : State) : List Ctx :=
  s.groups.flatMap fun e => e.2.splits.filterMap fun p => s.ctxOf { group := e.1, split := p.1 }

/-- The effective priority of a split (R191, R192). -/
def Ctx.priority (c : Ctx) : Nat := c.launch.prio + c.sp.lift

/-- Two splits issue on the same quarter of the same core (R169). -/
def sameQuarter (a b : Ctx) : Bool := a.crew.core = b.crew.core && a.g.grpid % 4 = b.g.grpid % 4

/-- Two groups of width 16 with different halves of the pipe issue beside each other (R387). -/
def otherHalf (a b : Ctx) : Bool := a.g.width = 16 && b.g.width = 16 && a.g.grpid / 4 % 2 != b.g.grpid / 4 % 2

/-- A split has been ready for longer than another; ties go to the lower LAUNCHID, GRPID and SPLITID (R191, R387). -/
def olderThan (now : Nat) (a b : Ctx) : Bool :=
  let key (c : Ctx) : List Nat := [c.sp.readyAt.getD (now + 1), c.g.launch, c.g.grpid, c.r.split]
  decide (key a < key b)

/-- A split is served before another of its quarter: one in the midst of its clause first, since the choice is made at headers, and a paused
one after every other; then the higher priority, then the older (R189, R191, R205, R387). -/
def servedBefore (now : Nat) (a b : Ctx) : Bool :=
  if a.sp.paused != b.sp.paused then b.sp.paused
  else if a.sp.clause.isSome != b.sp.clause.isSome then a.sp.clause.isSome
  else if a.priority != b.priority then b.priority < a.priority
  else olderThan now a b

end Sys2Proof.Machine
end

