-- ==== Sys2Proof/Machine/System.lean ====
section
/-! DEFINITION. The system instructions (13 R354 to R369): trap, brk, tret, fpcnt, yield, sync. -/

namespace Sys2Proof.Machine

/-- A software trap (R364): its lanes are those whose guard holds, and with none it has no effect (R356). -/
def softTrap (s : State) (c : Ctx) (f : IF) (cause : Nat) (pc : W64) : State :=
  let act := c.active f.g
  if act = 0 then s.retire c.r
  else raiseAt (s.seal c.r) c pc { cause := cause, mask := act, addr := 0, detail := f.imm } 0

/-- TRAP (R364): TRAPPC names the word after it. -/
def execTrap (f : IF) (s : State) : Host.Outcome State Fault Refusal :=
  withCtx s fun c => softTrap s c f causeTrapi (c.sp.pc + 8)

/-- BRK (R364): TRAPPC names the brk itself. -/
def execBrk (f : IF) (s : State) : Host.Outcome State Fault Refusal := withCtx s fun c => softTrap s c f causeBrk c.sp.pc

/-- TRET (R365); at normal level it raises PRIV (R363). -/
def execTret (f : RF) (s : State) : Host.Outcome State Fault Refusal :=
  withCtx s fun c =>
    if c.sp.trap.isNone then raise s c causePriv c.sp.mask
    else once s c f.g (trapReturn (compared s c 3 c.sp.trapPc) c)

/-- Clears a counter of a launch (R366). -/
def Launch.clear (l : Launch) (i : Nat) : Launch := { l with counters := Tbl.setD 0 l.counters i 0 }

/-- FPCNT (R366): every form closes the billet. -/
def execFpcnt (f : RF) (s : State) : Host.Outcome State Fault Refusal :=
  withCtx s fun c =>
    once s c f.g (((s.updSplit c.r fun sp => sp.setS f.dst.toNat (w64 (c.launch.counter (f.m 0 5)))).seal c.r).retire c.r)

/-- FPCNT_CLR (R366): the read and the clear are one action. -/
def execFpcntClr (f : RF) (s : State) : Host.Outcome State Fault Refusal :=
  withCtx s fun c =>
    once s c f.g
      ((((s.updLaunch c.g.launch fun l => l.clear (f.m 0 5)).updSplit c.r fun sp =>
        sp.setS f.dst.toNat (w64 (c.launch.counter (f.m 0 5)))).seal c.r).retire c.r)

/-- The mask of the counters that are not zero (R366). -/
def Launch.nonzero (l : Launch) : W64 :=
  (List.range 21).foldl (fun m i => if l.counter i = 0 then m else m ||| BitVec.twoPow 64 i) 0

/-- FPCNT_CLRALL (R366). -/
def execFpcntClrall (f : RF) (s : State) : Host.Outcome State Fault Refusal :=
  withCtx s fun c =>
    once s c f.g
      ((((s.updLaunch c.g.launch fun l => { l with counters := [] }).updSplit c.r fun sp =>
        sp.setS f.dst.toNat c.launch.nonzero).seal c.r).retire c.r)

/-- A pre-emption of a crew of this core is pending (R367, R395). -/
def State.preempting (s : State) (core : Nat) : Bool := s.crews.any fun e => e.2.core = core && e.2.preempt && !e.2.saved

/-- YIELD (R367): the next header waits until every other ready split of the quarter has issued once. With a request pending for a crew of
the core, this crew is pre-empted too, with its cord (R395), and the header waits for that. -/
def execYield (f : RF) (s : State) : Host.Outcome State Fault Refusal :=
  withCtx s fun c =>
    let pending := s.preempting c.crew.core
    let others := (s.quarter c.crew.core (c.g.grpid % 4)).filter fun r => r != c.r && (s.ctxOf r).any (readyCtx s)
    let ask (s : State) : State :=
      if pending then (s.crewsOf c.g.launch c.g.cord).foldl (fun s e => s.updCrew e.1 fun x => { x with preempt := true }) s else s
    once s c f.g
      ((((ask s).updSplit c.r fun sp => { sp with yieldOn := if pending then [c.r] else others }).seal c.r).retire c.r)

/-- SYNC_ENG (R368). -/
def execSyncEng (f : RF) (s : State) : Host.Outcome State Fault Refusal :=
  withCtx s fun c =>
    let x := s.core c.crew.core
    once s c f.g
      (if x.cmds.any (fun e => e.2.byGroup c.r.group) || x.fetching c.r.group then s.waitFor c.r (.sync 0)
       else (s.seal c.r).retire c.r)

/-- SYNC_ERR (R368): it raises a set latch of any kind (R306). -/
def execSyncErr (f : RF) (s : State) : Host.Outcome State Fault Refusal :=
  withCtx s fun c =>
    once s c f.g
      (if s.unsettled c then s.waitFor c.r (.sync 1) else withLatch s c 4 true ((s.seal c.r).retire c.r))

/-- A split in the midst of a clause fetches it again before its next word (R368). -/
def Split.refetch (sp : Split) : Split :=
  match sp.clause with
  | some k => { sp with clause := none, resume := some (k.header, sp.pc) }
  | none => sp

/-- SYNC_CODE (R368): the core's fetched clauses go, those that its splits are issuing with them, and the tenant's images leave the image
cache (R377). -/
def execSyncCode (f : RF) (s : State) : Host.Outcome State Fault Refusal :=
  withCtx s fun c =>
    let core := c.crew.core
    let p := s.part c.part
    let here (g : Group) : Bool := (s.crew? g.crew).any fun k => k.core = core && !k.saved
    let drop (s : State) : State :=
      { (s.setCore core { s.core core with code := [] }).setPart c.part { p with images := p.images.filter fun e => e.1 != c.launch.tenant } with
        groups := Tbl.mapVal (fun _ g => if here g then { g with splits := Tbl.mapVal (fun _ sp => sp.refetch) g.splits } else g) s.groups }
    once s c f.g (drop ((s.seal c.r).retire c.r))

end Sys2Proof.Machine
end

