-- ==== Sys2Proof/Machine/Matrix.lean ====
section
/-! DEFINITION. The X-class instructions (12 R328 to R354): operand slots, accumulator and scale memory, the rendezvous latch and
its checks, the joint operations and their completion. -/

namespace Sys2Proof

/-! Regions (R329). -/

def RegionF.r0 (r : RegionF) : Nat := 128 * (r.acc.toNat / 2)
def RegionF.c0 (r : RegionF) : Nat := 128 * (r.acc.toNat % 2)
def RegionF.m (r : RegionF) : Nat := shapeLen r.mc
def RegionF.n (r : RegionF) : Nat := shapeLen r.nc
/-- Blocks of a region (R329). -/
def RegionF.blockCount (r : RegionF) : Nat := (r.m / 8) * (r.n / 8)

/-- The tiles that a region touches. -/
def RegionF.tiles (r : RegionF) : List Nat :=
  (List.range 4).filter fun t =>
    let tr := 128 * (t / 2)
    let tc := 128 * (t % 2)
    tr < r.r0 + r.m && r.r0 < tr + 128 && tc < r.c0 + r.n && r.c0 < tc + 128

/-- The elements of a region in block order, from a block on: row and column within the region. -/
def RegionF.elems (r : RegionF) (from_ : Nat) : List (Nat × Nat) :=
  ((List.range (r.m / 8 * (r.n / 8))).drop from_).flatMap fun b =>
    (List.range 64).map fun e => (b / (r.n / 8) * 8 + e / 8, b % (r.n / 8) * 8 + e % 8)

/-- K steps of a product. -/
def MmulF.ks (f : MmulF) : Nat := f.ksM1.toNat + 1

/-- The slots that oclaim and orel name (R340). -/
def ClaimF.slots (f : ClaimF) : List Nat := (List.range (f.countM1.toNat + 1)).map fun i => f.first.toNat + i

end Sys2Proof

namespace Sys2Proof.Machine

/-! The core's matrix memories. -/

/-- Byte of an operand row (R31). -/
def Core.operandByte (x : Core) (slot row i : Nat) : Byte :=
  let k := slot * 12288 + row * 48 + i
  match Tbl.find? x.operand k with
  | some b => b
  | none => if x.operandSeed = 0 then 0 else Config.freeByte x.operandSeed k

/-- Element of the accumulator frame (R329). -/
def Core.accAt (x : Core) (row col : Nat) : W32 :=
  let k := row * 256 + col
  match Tbl.find? x.acc k with
  | some v => v
  | none => if x.accSeed = 0 then 0 else Config.freeWord x.accSeed k

def Core.setAcc (x : Core) (row col : Nat) (v : W32) : Core := { x with acc := Tbl.put x.acc (row * 256 + col) v }

/-- The tile is tagged I (R330). -/
def Core.tag (x : Core) (tile : Nat) : Bool :=
  match Tbl.find? x.tagI tile with
  | some b => b
  | none => x.accSeed != 0 && (Config.freeWord x.accSeed (65536 + tile)).getLsbD 0

/-- ROWSCL at n, COLSCL at 256 + n (R345). -/
def Core.scaleAt (x : Core) (i : Nat) : W32 :=
  match Tbl.find? x.scale i with
  | some v => v
  | none => if x.scaleSeed = 0 then 0x3F800000#32 else Config.freeWord x.scaleSeed i

/-! Formats (R239 to R241). -/

/-- A descriptor of FMT: precision, sign, infinities, kind. -/
structure Desc where
  prec : Nat
  sgn : Bool
  inf : Bool
  kind : Nat
  deriving DecidableEq, Repr

def descA (fmt : W64) : Desc := { prec := fld fmt 0 3, sgn := fmt.getLsbD 3, inf := fmt.getLsbD 4, kind := fld fmt 5 3 }
def descB (fmt : W64) : Desc := { prec := fld fmt 8 3, sgn := fmt.getLsbD 11, inf := fmt.getLsbD 12, kind := fld fmt 13 3 }

/-- A descriptor is well formed: `b8` is its binary8 kind code, `top` the first reserved one (R241). -/
def Desc.ok (d : Desc) (b8 top : Nat) : Bool :=
  d.kind < top && (if d.kind = b8 then d.prec != 0 else d.prec = 0 && !d.sgn && !d.inf)

def Desc.isInt (d : Desc) : Bool := d.kind = 1 || d.kind = 2

/-- The tag of a tile as the operations released before will have left it (R330, R338; log 73). -/
def Core.tagAhead (x : Core) (tile : Nat) : Bool :=
  x.ops.foldl (fun b e =>
    match e.2.instr with
    | .mmulz f => if f.reg.tiles.contains tile then (descA e.2.fmt).isInt && (descB e.2.fmt).isInt else b
    | .mzero f => if f.reg.tiles.contains tile then f.int else b
    | _ => b) (x.tag tile)

/-- The combinations of Table 9.8. -/
def nativePair (a b : Desc) : Bool :=
  let narrow (d : Desc) := d.kind = 0 && 3 ≤ d.prec && d.prec ≤ 5
  (narrow a && narrow b) || (a.isInt && b.isInt) || (a.kind = 3 && b.kind = 3) || (a.kind = 4 && b.kind = 4)

/-- The number that an operand element of a kind holds (R331). -/
def Desc.value (d : Desc) (x : Nat) : FVal :=
  match d.kind with
  | 1 => ofSigned (asInt 8 true x) 0 false
  | 2 => ofSigned (asInt 8 false x) 0 false
  | 3 => fmtF16.decode x
  | 4 => fmtBf16.decode x
  | _ => (fmtB8 d.prec d.sgn d.inf).decode x

/-- Bytes of an operand element. -/
def Desc.size (d : Desc) : Nat := if d.kind = 3 || d.kind = 4 then 2 else 1

/-- Bytes of a drain output element (R349). -/
def outSize (fmt : W64) : Nat :=
  match fld fmt 16 3 with
  | 0 => 4
  | 1 | 2 => 2
  | _ => 1

/-- The output fields of FMT as a descriptor. -/
def descOut (fmt : W64) : Desc :=
  { prec := fld fmt 19 3, sgn := fmt.getLsbD 22, inf := fmt.getLsbD 23, kind := fld fmt 16 3 }

def outOk (fmt : W64) : Bool := (descOut fmt).ok 3 6

/-! Arithmetic. -/

/-- The elements of an operand row (R328). -/
def operandElems (x : Core) (d : Desc) (slot row : Nat) : List Nat :=
  (List.range (48 / d.size)).map fun e => leBytes ((List.range d.size).map fun i => x.operandByte slot row (d.size * e + i))

/-- One step of an accumulator element (R331). -/
def stepElem (a b : Desc) (acc : W32) (av bv : List Nat) : Elem :=
  if a.isInt && b.isInt then
    let sum := (av.zip bv).foldl (fun t p =>
      t + asInt 8 (a.kind == 1) p.1 * asInt 8 (b.kind == 1) p.2) (0 : Int)
    { val := wrapTo 32 (asInt 32 true acc.toNat + sum) }
  else
    let ins := (av.map a.value) ++ (bv.map b.value)
    let x := fmtF32.decode acc.toNat
    let total := (av.zip bv).foldl (fun t p => t.add ((a.value p.1).mul (b.value p.2)) 0) x
    fmtF32.round total 0 false (anyN (x :: ins)) (anyI (x :: ins))

/-- The conversion of an accumulator element (R347). -/
def drainElem (fmt : W64) (tag : Bool) (acc row col : W32) : Elem :=
  let scl := fld fmt 27 2
  let rnd := fld fmt 24 2
  let sat := fmt.getLsbD 26
  let x := if tag then ofSigned (asInt 32 true acc.toNat) 0 false else fmtF32.decode acc.toNat
  let r := fmtF32.decode row.toNat
  let c := fmtF32.decode col.toNat
  let y := if scl = 1 || scl = 3 then x.mul r else x
  let y := if scl = 2 || scl = 3 then y.mul c else y
  let ins := [x] ++ (if scl = 1 || scl = 3 then [r] else []) ++ (if scl = 2 || scl = 3 then [c] else [])
  let float (f : FFmt) : Elem := f.round y rnd sat (anyN ins) (anyI ins)
  let int (sg : Bool) : Elem :=
    if tag && scl = 0 then wrapOrSat sat 8 sg (asInt 32 true acc.toNat) else fToInt 8 sg y rnd
  match fld fmt 16 3 with
  | 0 => if !tag && scl = 0 then { val := acc.toNat } else float fmtF32
  | 1 => float fmtF16
  | 2 => float fmtBf16
  | 3 => let d := descOut fmt
         float (fmtB8 d.prec d.sgn d.inf)
  | 4 => int true
  | _ => int false

/-- The elements of the blocks from one to below another, converted, with their positions (R347). -/
def drainAll (x : Core) (fmt : W64) (r : RegionF) (from_ to_ : Nat) : List (Nat × Nat × Elem) :=
  ((r.elems from_).take (64 * (to_ - from_))).map fun p =>
    let row := r.r0 + p.1
    let col := r.c0 + p.2
    (p.1, p.2, drainElem fmt (x.tag (2 * (row / 128) + col / 128)) (x.accAt row col) (x.scaleAt row) (x.scaleAt (256 + col)))

/-! What an operation reads and writes (R338). -/

/-- A range of numbers, and a rectangle of one of the memories: 0 the accumulator, 1 the slots, 2 the scales. -/
abbrev Span := Nat × Nat
structure Area where
  space : Nat
  rows : Span
  cols : Span
  deriving DecidableEq, Repr

def Span.meets (a b : Span) : Bool := a.1 < b.1 + b.2 && b.1 < a.1 + a.2
def Area.meets (a b : Area) : Bool := a.space = b.space && Span.meets a.rows b.rows && Span.meets a.cols b.cols

def regionArea (r : RegionF) : Area := { space := 0, rows := (r.r0, r.m), cols := (r.c0, r.n) }

/-- The scales that a conversion under FMT reads. -/
def scaleAreas (fmt : W64) (r : RegionF) : List Area :=
  let scl := fld fmt 27 2
  (if scl = 1 || scl = 3 then [{ space := 2, rows := (0, 1), cols := (r.r0, r.m) }] else [])
    ++ (if scl = 2 || scl = 3 then [{ space := 2, rows := (1, 1), cols := (r.c0, r.n) }] else [])

def aArea (f : MmulF) : Area := { space := 1, rows := (f.aslot.toNat, f.ks), cols := (8 * f.arow.toNat, f.reg.m) }
def bArea (f : MmulF) : Area := { space := 1, rows := (f.bslot.toNat, f.ks), cols := (8 * f.brow.toNat, f.reg.n) }

/-- Slots that mbyp writes (R350). -/
def pieces (f : MbypF) (fmt : W64) : Nat := (f.reg.n * outSize fmt + 47) / 48
def bypArea (f : MbypF) (fmt : W64) : Area :=
  { space := 1, rows := (f.oslot.toNat, pieces f fmt), cols := (8 * f.orow.toNat, f.reg.m) }

/-- COL tells the two scale memories apart. -/
def msclArea (f : MsclF) (col : Bool) : Area :=
  { space := 2, rows := (if col then 1 else 0, 1), cols := (8 * f.first8.toNat, 8 * (f.countM1.toNat + 1)) }

def readsOf (i : Instr) (fmt : W64) : List Area :=
  match i with
  | .mmul f => [regionArea f.reg, aArea f, bArea f]
  | .mmulz f => [aArea f, bArea f]
  | .mdrainV f | .mdrainS f | .mdrainG f => regionArea f.reg :: scaleAreas fmt f.reg
  | .mbyp f => regionArea f.reg :: scaleAreas fmt f.reg
  | _ => []

def writesOf (i : Instr) (fmt : W64) : List Area :=
  match i with
  | .mmul f | .mmulz f => [regionArea f.reg]
  | .mbyp f => [bypArea f fmt]
  | .mzero f => [regionArea f.reg]
  | .msclRow f => [msclArea f false]
  | .msclCol f => [msclArea f true]
  | _ => []

def areasMeet (a b : List Area) : Bool := a.any fun x => b.any fun y => x.meets y

/-- Two operations must keep their order of release (R338). -/
def MatrixOp.conflicts (a b : MatrixOp) : Bool :=
  areasMeet (writesOf a.instr a.fmt) (readsOf b.instr b.fmt) || areasMeet (readsOf a.instr a.fmt) (writesOf b.instr b.fmt)
    || areasMeet (writesOf a.instr a.fmt) (writesOf b.instr b.fmt)

/-- Whether an instruction uses the array, or the drain unit (R328); a claim uses neither. -/
def onArray : Instr → Bool
  | .mmul _ | .mmulz _ => true
  | _ => false
def isClaim : Instr → Bool
  | .oclaim _ | .orel _ => true
  | _ => false
def onDrain (i : Instr) : Bool := !onArray i && !isClaim i

/-- An operation has started: nothing released before it conflicts with it, and its unit is free (R328, R338). -/
def Core.started (x : Core) (id : Nat) (op : MatrixOp) : Bool :=
  x.ops.all fun e =>
    id ≤ e.1 ||
      (!e.2.conflicts op && !(onArray e.2.instr && onArray op.instr && !e.2.emulated && !op.emulated)
        && !(onDrain e.2.instr && onDrain op.instr))

/-- Drain commands of a core (R349). -/
def Core.drains (x : Core) : Nat := (x.cmds.filter fun e => e.2.kind = .drainS || e.2.kind = .drainG).length

/-- Slots that a copy command writes (R340). -/
def Command.slots (x : Command) : List Nat := if x.oslot then x.elems.map fun e => e.at_ / 12288 else []

/-- What an oclaim or orel still waits for is over (R340). -/
def Core.claimReady (x : Core) (id : Nat) (op : MatrixOp) : Bool :=
  let key := 32 * op.crew + op.keyGrp
  match op.instr with
  | .oclaim f => f.slots.all fun k => match Tbl.find? x.claims k with
    | some o => o = key
    | none => true
  | .orel f =>
    let named : List Area := [{ space := 1, rows := (f.first.toNat, f.countM1.toNat + 1), cols := (0, 256) }]
    (x.ops.all fun e => id ≤ e.1 || !(areasMeet named (readsOf e.2.instr e.2.fmt) || areasMeet named (writesOf e.2.instr e.2.fmt)))
      && x.cmds.all fun e => e.2.slots.all fun k => !f.slots.contains k
  | _ => true

/-! Arrival and release. -/

/-- Members of a GANG value, for a group of a GRPID (R335). -/
def gangMembers (gang : W64) (grpid : Nat) : List Nat :=
  let n := fld gang 0 3
  if n = 0 then [grpid] else (List.range n).map fun i => fld gang (3 + 5 * i) 5

def distinct : List Nat → Bool
  | [] => true
  | x :: xs => !xs.contains x && distinct xs

/-- The gang of the issuing group is valid (R335). -/
def Ctx.gangOk (c : Ctx) : Bool :=
  let n := fld c.g.gang 0 3
  let ms := gangMembers c.g.gang c.g.grpid
  let role (m : Nat) : Bool := match c.image with
    | some im => (im.groups[m]?).any fun e => e.2 = .matrix
    | none => true
  n = 0 || (n != 1 && n != 7 && distinct ms && ms.contains c.g.grpid
    && ms.all fun m => m < ((c.image.map (·.crew)).getD 32) && role m)

/-- A member arrives at the core's latch (R336), with the MPROG to which tret has come back with it (R365). In a clamp the crew-state acts and the drain commands are held (R410, R411). -/
def joint (s : State) (i : Instr) : Host.Outcome State Fault Refusal :=
  withCtx s fun c =>
    if !c.gangOk || c.g.splits.length != 1 then raise s c causeIllegal c.sp.mask
    else
      let arrive : State :=
        let x := s.core c.crew.core
        let key := 32 * c.g.crew + c.g.grpid
        let a : Arrival :=
          { member := c.r, word := c.word, gang := c.g.gang, fmt := c.sp.fmt, mprog := if c.sp.back then c.sp.mprog else 0, instr := i }
        (s.setCore c.crew.core { x with latches := Tbl.put x.latches key a }).waitFor c.r (.latch key)
      match i with
      | .oclaim _ | .orel _ => held s c 10 c.word arrive
      | .mdrainS _ | .mdrainG _ => held s c 5 c.word arrive
      | _ => arrive

/-- OCLAIM (R340). -/
def execOclaim (f : ClaimF) (s : State) : Host.Outcome State Fault Refusal := joint s (.oclaim f)
/-- OREL (R340). -/
def execOrel (f : ClaimF) (s : State) : Host.Outcome State Fault Refusal := joint s (.orel f)
/-- MMUL (R341). -/
def execMmul (f : MmulF) (s : State) : Host.Outcome State Fault Refusal := joint s (.mmul f)
/-- MMULZ (R341). -/
def execMmulz (f : MmulF) (s : State) : Host.Outcome State Fault Refusal := joint s (.mmulz f)
/-- MDRAIN_V (R348). -/
def execMdrainV (f : MdrainF) (s : State) : Host.Outcome State Fault Refusal := joint s (.mdrainV f)
/-- MDRAIN_S (R349). -/
def execMdrainS (f : MdrainF) (s : State) : Host.Outcome State Fault Refusal := joint s (.mdrainS f)
/-- MDRAIN_G (R349). -/
def execMdrainG (f : MdrainF) (s : State) : Host.Outcome State Fault Refusal := joint s (.mdrainG f)
/-- MBYP (R350). -/
def execMbyp (f : MbypF) (s : State) : Host.Outcome State Fault Refusal := joint s (.mbyp f)
/-- MZERO (R344). -/
def execMzero (f : MzeroF) (s : State) : Host.Outcome State Fault Refusal := joint s (.mzero f)
/-- MSCL_ROW (R345). -/
def execMsclRow (f : MsclF) (s : State) : Host.Outcome State Fault Refusal := joint s (.msclRow f)
/-- MSCL_COL (R345). -/
def execMsclCol (f : MsclF) (s : State) : Host.Outcome State Fault Refusal := joint s (.msclCol f)

/-- The operation converts accumulator elements (R347). -/
def converts : Instr → Bool
  | .mdrainV _ | .mdrainS _ | .mdrainG _ | .mbyp _ => true
  | _ => false

/-- Its conversion may begin: a fifth drain command waits before it (R349). -/
def Core.mayConvert (x : Core) : Instr → Bool
  | .mdrainS _ | .mdrainG _ => x.drains < 4
  | _ => true

/-- MPROG (R351). -/
def execMprog (f : MprogF) (s : State) : Host.Outcome State Fault Refusal :=
  withCtx s fun c =>
    let x := s.core c.crew.core
    let run := x.ops.filter fun e => x.started e.1 e.2 && x.mayConvert e.2.instr
    let arr := run.find? fun e => onArray e.2.instr && !e.2.emulated
    let drn := run.any fun e => converts e.2.instr
    let queued := (x.ops.filter fun e => !isClaim e.2.instr && !(x.started e.1 e.2 && x.mayConvert e.2.instr)).length
    let v := match arr with
      | none => 0
      | some (_, op) => op.blocks % 65536 + 2 ^ 16 + op.keyGrp % 32 * 2 ^ 21 + (if op.crew = c.g.crew then 2 ^ 26 else 0)
    let v := v + (if drn then 2 ^ 17 else 0) + min queued 7 * 2 ^ 18
    (s.updSplit c.r fun sp => sp.setS f.dst.toNat (w64 v)).retire c.r

/-- What a failed check raises in every member (R337). -/
structure Bad where
  cause : Nat
  addr : W64
  detail : BitVec 32
  /-- The address that the fault registers name (R166). -/
  va : Option W64 := none
  deriving DecidableEq, Repr

def bad (cause : Nat) : Option Bad := some { cause := cause, addr := 0, detail := 0 }

/-- ALIGN at an address, and an access beyond the crew's allocation (R337 check 5). -/
def badAlign (a : W64) : Option Bad := some { cause := causeAlign, addr := sector a, detail := 0 }
def badBound (a : W64) (acc : Access) : Option Bad :=
  some { cause := causePerm, addr := sector a, detail := detailWord 7 0 0 false acc, va := some a }

/-- The cord conditions (R342): `n` is the cord size of the image. -/
def cordOk (f : MmulF) (n : Nat) (checked : Bool) : Bool :=
  let rg := 2 ^ f.rgl.toNat
  let cg := n / rg
  n % rg = 0 && rg * f.reg.m ≤ 1024 && cg * f.reg.n ≤ (if checked then 512 else 1024)

/-- The checks of a released instruction, in order (R337); `c` is member 0, `readsB` whether this crew reads its own B slots. -/
def gangCheck (s : State) (c : Ctx) (i : Instr) (fmt : W64) (readsB : Bool) : Option Bad :=
  let x := s.core c.crew.core
  let key := 32 * c.g.crew + (gangMembers c.g.gang c.g.grpid).headD 0
  let own (slots : List Nat) : Bool := slots.all fun k => Tbl.find? x.claims k = some key
  let run (first n : Nat) : List Nat := (List.range n).map fun k => first + k
  let agree (r : RegionF) : Bool := match r.tiles with
    | [] => true
    | t :: ts => ts.all fun u => x.tagAhead u = x.tagAhead t
  let drain (f : MdrainF) (scratch : Bool) : Option Bad :=
    let a := c.sp.s f.rega.toNat
    let p := c.sp.s f.regb.toNat
    let e := outSize fmt
    let tb := f.hi.getLsbD 0
    let b := c.sp.s f.regc.toNat
    let out (i : Nat) : Bool := !c.crew.inScratch (a + w64 i * p).toNat (f.reg.n * e)
    if !agree f.reg then bad causeIllegal
    else if a.toNat % 16 != 0 || p.toNat % 16 != 0 || p.toNat < f.reg.n * e then badAlign a
    else if tb && b.toNat % 16 != 0 then badAlign b
    else if scratch && (List.range f.reg.m).any out then badBound a .engWrite
    else if tb && f.hi.getLsbD 1 && !c.crew.inScratch b.toNat 16 then badBound b .engWrite
    else if !outOk fmt then bad causeIllegal
    else none
  let mscl (f : MsclF) : Option Bad :=
    let a := c.sp.s f.sa.toNat
    if a.toNat % 4 != 0 then badAlign a
    else if !c.crew.inScratch a.toNat (32 * (f.countM1.toNat + 1)) then badBound a .read
    else none
  let mul (f : MmulF) (z : Bool) : Option Bad :=
    let a := descA fmt
    let b := descB fmt
    if f.cord && !cordOk f ((c.image.map (·.cord)).getD 1) c.checked then bad causeIllegal
    else if !z && !(f.reg.tiles.all fun t => x.tagAhead t = (a.isInt && b.isInt)) then bad causeIllegal
    else if !own (run f.aslot.toNat f.ks) || (readsB && !own (run f.bslot.toNat f.ks)) then bad causeSlot
    else if !a.ok 0 5 || !b.ok 0 5 then bad causeIllegal
    else none
  match i with
  | .mmul f => mul f false
  | .mmulz f => mul f true
  | .mdrainV f => if !agree f.reg then bad causeIllegal else if !outOk fmt then bad causeIllegal else none
  | .mdrainS f => drain f true
  | .mdrainG f => drain f false
  | .mbyp f =>
    if !agree f.reg || !outOk fmt || fld fmt 16 3 = 0 || 256 < 8 * f.orow.toNat + f.reg.m || 16 < f.oslot.toNat + pieces f fmt then
      bad causeIllegal
    else if !own (run f.oslot.toNat (pieces f fmt)) then bad causeSlot
    else none
  | .msclRow f => mscl f
  | .msclCol f => mscl f
  | .orel f => if own f.slots then none else bad causeSlot
  | _ => none

/-- Raises a cause in every split of a list, precisely at its instruction. -/
def raiseAll (s : State) (rs : List SplitRef) (b : Bad) : State :=
  rs.foldl (fun s r => match s.ctxOf r with
    | some c => raiseAt s c c.sp.pc { cause := b.cause, mask := c.sp.mask, addr := b.addr, detail := b.detail, va := b.va } c.sp.mprog
    | none => s) s

/-- Releases an operation on a core: its members wait for it (R336, R338). -/
def releaseOp (s : State) (core id : Nat) (op : MatrixOp) : State :=
  let x := s.core core
  op.members.foldl (fun s r => s.waitFor r (.matrix id)) (s.setCore core { x with ops := Tbl.put x.ops id op })

/-- The operation of a gang whose member 0 arrived as `a`. -/
def opOf (c : Ctx) (a : Arrival) (members : List SplitRef) : MatrixOp :=
  let regs : BitVec 8 × BitVec 8 × BitVec 8 := match a.instr with
    | .mdrainS f | .mdrainG f => (f.rega, f.regb, f.regc)
    | .msclRow f | .msclCol f => (f.sa, 0, 0)
    | _ => (0, 0, 0)
  { instr := a.instr, crew := c.g.crew, keyGrp := c.g.grpid, members := members, fmt := a.fmt, blocks := a.mprog
    array := onArray a.instr
    emulated := onArray a.instr && !nativePair (descA a.fmt) (descB a.fmt), cord := cordForm a.instr
    ra := c.sp.s regs.1.toNat, rb := c.sp.s regs.2.1.toNat, rc := c.sp.s regs.2.2.toNat }

/-- The arrivals of an arrival's gang, in member order; none while a member is missing (R336). -/
def Core.gangAt (x : Core) (key : Nat) (a : Arrival) : Option (List Arrival) :=
  ((gangMembers a.gang (key % 32)).mapM fun m => Tbl.find? x.latches (key / 32 * 32 + m))

/-- The latch finds the same instruction word, GANG, FMT and MPROG in every member (R336). -/
def sameArrival (a b : Arrival) : Bool := a.word = b.word && a.gang = b.gang && a.fmt = b.fmt && a.mprog = b.mprog && a.instr = b.instr

/-- GANG_LATCH_RELEASE (R336, R337): `key` is 32 x crew handle + GRPID of a member whose gang has arrived. -/
def execGangLatchRelease (core key : Nat) (s : State) : Host.Outcome State Fault Refusal :=
  .next (
    let x := s.core core
    match Tbl.find? x.latches key with
    | none => s
    | some a =>
      match x.gangAt key a with
      | none => s
      | some [] => s
      | some (a0 :: rest) =>
        let refs := (a0 :: rest).map (·.member)
        let s := s.setCore core { x with latches := x.latches.filter fun e => !refs.contains e.2.member }
        let fails : State :=
          match s.group? a0.member.group with
          | some g =>
            if (a0 :: rest).any fun e => cordForm e.instr then breakCord s g.launch g.cord refs
            else raiseAll s refs { cause := causeGang, addr := 0, detail := 0 }
          | none => s
        if !rest.all (sameArrival a0) then fails
        else
          match s.ctxOf a0.member with
          | none => s
          | some c =>
            let op := opOf c a0 refs
            if op.cord then
              let s := s.updLaunch c.g.launch fun l => { l with cordLatch := Tbl.put l.cordLatch (16 * c.g.cord + c.crew.crewid) a0 }
              refs.foldl (fun s r => s.waitFor r .cordLatch) s
            else
              match gangCheck s c a0.instr a0.fmt true with
              | some b => raiseAll s refs b
              | none => { releaseOp s core s.seed op with seed := s.seed + 1 })

/-- The members of a gang, as splits of its crew. -/
def gangRefs (s : State) (crew : Nat) (gang : W64) (grpid : Nat) : List SplitRef :=
  (gangMembers gang grpid).flatMap fun m => (s.groupsOf crew).flatMap fun e =>
    if e.2.grpid = m then s.splitsOf e.1 else []

/-- Every member of every gang that waits at a cord's latch (R342). -/
def cordRefs (s : State) (l : Launch) (cord : Nat) : List SplitRef :=
  (l.cordLatch.filter fun e => e.1 / 16 = cord).flatMap fun e =>
    match s.group? e.2.member.group with
    | some g => gangRefs s g.crew e.2.gang g.grpid
    | none => []

/-- Every crew of a cord has passed its latch: all that the image names, so that a crew which has retired holds the others back (R342). -/
def cordFull (s : State) (launch : Nat) (l : Launch) (cord : Nat) : Bool :=
  let n := (l.img.map (·.cord)).getD 1
  ((List.range n).all fun k => (Tbl.find? l.cordLatch (16 * cord + k)).isSome)
    && (s.crewsOf launch cord).all fun e => (Tbl.find? l.cordLatch (16 * cord + e.2.crewid)).isSome

/-- CORD_LATCH_RELEASE (R342): every crew's gang has passed its latch. -/
def execCordLatchRelease (launch cord : Nat) (s : State) : Host.Outcome State Fault Refusal :=
  .next (match s.launch? launch with
    | none => s
    | some l =>
      let at_ := l.cordLatch.filter fun e => e.1 / 16 = cord
      let refs := cordRefs s l cord
      match at_ with
      | [] => s
      | (_, a0) :: _ =>
        if !cordFull s launch l cord then s
        else
          let s := s.updLaunch launch fun l => { l with cordLatch := l.cordLatch.filter fun e => e.1 / 16 != cord }
          if !(at_.all fun e => e.2.word = a0.word && e.2.fmt = a0.fmt && e.2.mprog = a0.mprog) then
            raiseAll s refs { cause := causeGang, addr := 0, detail := 0 }
          else
            let rgl := match a0.instr with
              | .mmul f | .mmulz f => f.rgl.toNat
              | _ => 0
            let n := (l.img.map (·.cord)).getD 1
            let cg := n / 2 ^ rgl
            let parts := at_.filterMap fun e => (s.ctxOf e.2.member).map fun c => (e.2, c)
            match parts.findSome? fun p => gangCheck s p.2 p.1.instr p.1.fmt (p.2.crew.crewid < cg) with
            | some b => raiseAll s refs b
            | none =>
              let id := s.seed
              parts.foldl (fun s p => releaseOp s p.2.crew.core id (opOf p.2 p.1 (gangRefs s p.2.g.crew p.1.gang p.2.g.grpid)))
                { s with seed := id + 1 })

/-- GANG_LATCH_TIMEOUT (R336, R342): GANG in every arrived member, of the cord for a cord form. -/
def execGangLatchTimeout (core key : Nat) (s : State) : Host.Outcome State Fault Refusal :=
  .next (
    let x := s.core core
    let gangBad : Bad := { cause := causeGang, addr := 0, detail := 0 }
    match Tbl.find? x.latches key with
    | some a =>
      let ms := (gangMembers a.gang (key % 32)).filterMap fun m => (Tbl.find? x.latches (key / 32 * 32 + m)).map (·.member)
      match s.group? a.member.group, cordForm a.instr with
      | some g, true => breakCord s g.launch g.cord ms
      | _, _ => raiseAll (s.setCore core { x with latches := x.latches.filter fun e => !ms.contains e.2.member }) ms gangBad
    | none =>
      match (s.groups.find? fun e => e.2.crew = key / 32 && e.2.grpid = key % 32 && e.2.splits.any fun p => p.2.wait = .cordLatch) with
      | none => s
      | some (_, g) => breakCord s g.launch g.cord [])

/-! Performance. -/

/-- The product (R341) of the blocks from one to below another: operand A from this core's slots, B from those of `b`. -/
def runProduct (x b : Core) (f : MmulF) (z : Bool) (fmt : W64) (from_ to_ : Nat) : Core × Marks :=
  let da := descA fmt
  let db := descB fmt
  let r := f.reg
  let isI := da.isInt && db.isInt
  let x0 := if z then { x with tagI := r.tiles.foldl (fun t k => Tbl.put t k isI) x.tagI } else x
  ((r.elems from_).take (64 * (to_ - from_))).foldl (fun (st : Core × Marks) p =>
    let start := if z then (0 : W32) else x.accAt (r.r0 + p.1) (r.c0 + p.2)
    let e := (List.range f.ks).foldl (fun (e : Elem) k =>
      let n := stepElem da db (BitVec.ofNat 32 e.val) (operandElems x da (f.aslot.toNat + k) (8 * f.arow.toNat + p.1))
        (operandElems b db (f.bslot.toNat + k) (8 * f.brow.toNat + p.2))
      { val := n.val, marks := e.marks.join n.marks }) { val := start.toNat }
    (st.1.setAcc (r.r0 + p.1) (r.c0 + p.2) (BitVec.ofNat 32 e.val), st.2.join e.marks)) (x0, {})

/-- mzero (R344). -/
def runZero (x : Core) (f : MzeroF) : Core :=
  let x := { x with tagI := f.reg.tiles.foldl (fun t k => Tbl.put t k f.int) x.tagI }
  (f.reg.elems 0).foldl (fun (x : Core) p => x.setAcc (f.reg.r0 + p.1) (f.reg.c0 + p.2) 0) x

/-- mscl (R345): `a` is the physical address of the values. -/
def runScale (x : Core) (f : MsclF) (col : Bool) (a : Nat) : Core :=
  let base := (if col then 256 else 0) + 8 * f.first8.toNat
  { x with scale := (List.range (8 * (f.countM1.toNat + 1))).foldl (fun t i =>
      Tbl.put t (base + i) (BitVec.ofNat 32 (x.scratchNum (a + 4 * i) 4))) x.scale }

/-- mbyp (R350) of the blocks from one to below another: the last piece of a row is padded with zeros. -/
def runBypass (x : Core) (f : MbypF) (fmt : W64) (es : List (Nat × Nat × Elem)) : Core :=
  let e := outSize fmt
  let put (t : List (Nat × Byte)) (row o : Nat) (b : Byte) :=
    Tbl.put t ((f.oslot.toNat + o / 48) * 12288 + (8 * f.orow.toNat + row) * 48 + o % 48) b
  let t := es.foldl (fun t q =>
    (List.range e).foldl (fun t i => put t q.1 (q.2.1 * e + i) (BitVec.ofNat 8 (q.2.2.val / 256 ^ i))) t) x.operand
  let pad := (List.range (pieces f fmt * 48)).drop (f.reg.n * e)
  let rows := (es.filter fun q => q.2.1 + 1 = f.reg.n).map (·.1)
  { x with operand := rows.foldl (fun t r => pad.foldl (fun t o => put t r o 0) t) t }

/-- mdrain.v (R348): the registers of one member; an element of a block that was delivered before a resumption keeps its bits (R343). -/
def drainToLanes (g : Group) (f : MdrainF) (fmt : W64) (es : List (Nat × Nat × Elem)) (pos : Nat) : Group :=
  let row0 := 8 * fld f.hi 0 5
  let col0 := 8 * fld f.hi 5 5
  let nreg := fld f.hi 10 6 + 1
  let e := 4 / outSize fmt
  let w := 32 / e
  let table := es.foldl (fun t q => Tbl.put t (q.1 * 256 + q.2.1) q.2.2.val) ([] : List (Nat × Nat))
  (lanesOf g.alive).foldl (fun g lane =>
    let row := row0 + pos * g.width + lane
    if f.reg.m ≤ row then g
    else
      (List.range nreg).foldl (fun g k =>
        let v := (List.range e).foldl (fun v b =>
          let col := col0 + e * k + b
          if col < f.reg.n then
            v + Tbl.getD table (row * 256 + col) (bits (g.v (f.rega.toNat + k) lane).toNat (w * b) w) % 2 ^ w * 2 ^ (w * b)
          else v) 0
        g.setV (f.rega.toNat + k) lane (BitVec.ofNat 32 v)) g) g

/-- The drain command that a conversion leaves (R349). Where a divergence has stopped the conversion, the blocks before it are delivered and
no completion object is written: the instruction has not retired (R343; DEDUCED, log 94). -/
def drainCommand (c : Ctx) (op : MatrixOp) (f : MdrainF) (kind : CmdKind) (es : List (Nat × Nat × Elem)) (to_ : Nat) : Command :=
  let tb := f.hi.getLsbD 0
  let whole := to_ = f.reg.blockCount
  let table := es.foldl (fun t q => Tbl.put t (q.1 * f.reg.n + q.2.1) q.2.2.val) ([] : List (Nat × Nat))
  { kind := kind, group := c.r.group, split := c.r.split, also := op.members.drop 1, crew := op.crew, size := outSize op.fmt
    lanes := [], record := 0, box := 0, dest := op.ra, pitch := op.rb, cols := f.reg.n
    skip := op.blocks, stopAt := if whole then none else some to_
    data := (List.range (f.reg.m * f.reg.n)).map fun i => BitVec.ofNat 32 (Tbl.getD table i 0)
    oslot := false, acq := f.hi.getLsbD 5, rel := f.hi.getLsbD 6, scope := fld f.hi 2 3, colour := fld f.hi 7 3
    tb := if tb && whole then some (op.rc, f.hi.getLsbD 1) else none
    token := if tb || f.regc = 0 || !whole then none else some f.regc.toNat
    faults := [], answers := [], aborted := [], pc := c.sp.pc, done := [], got := [], fail := none }

/-- The marks of a joint operation: events to the launch, a clip to every member's STICKY (R347). -/
def noteGang (s : State) (op : MatrixOp) (launch : Nat) (m : Marks) : State :=
  let s := m.events.foldl (fun s i => countEvent s launch i) s
  op.members.foldl (fun s r => s.note r.group launch { sticky := m.sticky }) s

/-- The region that an operation converts. -/
def drainRegion : Instr → Option RegionF
  | .mdrainV f | .mdrainS f | .mdrainG f => some f.reg
  | .mbyp f => some f.reg
  | _ => none

/-- An element of the region is delivered: always, but for mdrain.v, which delivers those that a lane of a member receives (R347, R348). -/
def delivered (s : State) (op : MatrixOp) (row col : Nat) : Bool :=
  match op.instr with
  | .mdrainV f =>
    let row0 := 8 * fld f.hi 0 5
    let col0 := 8 * fld f.hi 5 5
    let wide := (fld f.hi 10 6 + 1) * (4 / outSize op.fmt)
    col0 ≤ col && col < col0 + wide
      && op.members.zipIdx.any fun m => (s.group? m.1.group).any fun g =>
        let first := row0 + m.2 * g.width
        first ≤ row && row < first + g.width && g.alive.getLsbD (row - first)
  | _ => true

/-- What an operation converts and delivers, of the blocks from its first that is left to below another (R347). -/
def converted (s : State) (core : Nat) (op : MatrixOp) (to_ : Nat) : List (Nat × Nat × Elem) :=
  match drainRegion op.instr with
  | some r => (drainAll (s.core core) op.fmt r op.blocks to_).filter fun q => delivered s op q.1 q.2.1
  | none => []

/-- Blocks of an operation (R329). -/
def blocksOf (i : Instr) : Nat :=
  match i with
  | .mmul f | .mmulz f => f.reg.blockCount
  | i => ((drainRegion i).map (·.blockCount)).getD 0

/-- An operation's effect (R341, R344 to R350) on the blocks from its first that is left to below `to_`; `b` is the core whose slots give the
B rows. -/
def performOp (s : State) (core b id : Nat) (op : MatrixOp) (c : Ctx) (to_ : Nat) : State :=
  let x := s.core core
  let put (k : Core) : State := s.setCore core k
  let es := converted s core op to_
  let marked (s : State) : State := noteGang s op c.g.launch (es.foldl (fun m q => m.join q.2.2.marks) {})
  match op.instr with
  | .mmul f => let r := runProduct x (s.core b) f false op.fmt op.blocks to_
               noteGang (put r.1) op c.g.launch r.2
  | .mmulz f => let r := runProduct x (s.core b) f true op.fmt op.blocks to_
                noteGang (put r.1) op c.g.launch r.2
  | .mzero f => put (runZero x f)
  | .msclRow f => put (runScale x f false (c.crew.scratchBase + op.ra.toNat))
  | .msclCol f => put (runScale x f true (c.crew.scratchBase + op.ra.toNat))
  | .mbyp f => marked (put (runBypass x f op.fmt es))
  | .mdrainV f => marked (op.members.zipIdx.foldl (fun s m => s.updGroup m.1.group fun g => drainToLanes g f op.fmt es m.2) s)
  | .mdrainS f | .mdrainG f =>
    let kind := match op.instr with
      | .mdrainS _ => CmdKind.drainS
      | _ => CmdKind.drainG
    let cmd := drainCommand c op f kind es to_
    let s := s.setCore core { x with cmds := Tbl.put x.cmds id cmd }
    marked (match cmd.token with
      | some r => op.members.foldl (fun s m => s.updSplit m fun sp => { sp with pend := sp.pend ++ [r] }) s
      | none => s)
  | .oclaim f => put { x with claims := f.slots.foldl (fun t k => Tbl.put t k (32 * op.crew + op.keyGrp)) x.claims }
  | .orel f => put { x with claims := f.slots.foldl (fun t k => Tbl.del t k) x.claims }
  | _ => s

/-- The format of a conversion's float results; none for integers, which no shadow unit checks (R245, R347). -/
def outFmt? (fmt : W64) : Option FFmt :=
  match fld fmt 16 3 with
  | 0 => some fmtF32
  | 1 => some fmtF16
  | 2 => some fmtBf16
  | 3 => let d := descOut fmt
         some (fmtB8 d.prec d.sgn d.inf)
  | _ => none

/-- The block of a conversion in which the shadow unit diverges, by a disturbance of one of its members (R245, R343). -/
def divergesAt (s : State) (core : Nat) (op : MatrixOp) : Option Nat :=
  match drainRegion op.instr, outFmt? op.fmt, s.shadowErr.find? fun e => op.members.contains e.1 with
  | some r, some f, some e =>
    let es := converted s core op r.blockCount
    let n := e.2 / 2 ^ 64
    (es.find? fun q => (q.1 / 8 * (r.n / 8) + q.2.1 / 8) * 64 + q.1 % 8 * 8 + q.2.1 % 8 = n).bind fun q =>
      let m := q.2.2.val % 2 ^ f.width
      if shadowAgrees f m (Nat.xor m (e.2 % 2 ^ f.width)) then none else some (n / 64)
  | _, _, _ => none

/-- Takes an operation off its core. -/
def dropOp (s : State) (core id : Nat) : State :=
  let x := s.core core
  s.setCore core { x with ops := Tbl.del x.ops id }

/-- An operation ends: it is performed from its first block that is left, and the instruction retires in every member. Where its conversion
diverges from the shadow unit, it stops before that block, and SHADOW is raised in every member (R343). -/
def finishOp (s : State) (core b id : Nat) (op : MatrixOp) : State :=
  match op.members.head?.bind s.ctxOf with
  | none => s
  | some c =>
    let gone := dropOp s core id
    let clear (s : State) : State :=
      if (drainRegion op.instr).isSome then { s with shadowErr := s.shadowErr.filter fun e => !op.members.contains e.1 } else s
    match (if 1 ≤ c.launch.il then divergesAt s core op else none) with
    | some n =>
      let s := charge (clear (performOp gone core b id op c n)) (scoreCore core) 8
      if c.checked then mismatch s c.r c.sp.pc 9 0 core 0 0
      else
        op.members.foldl (fun s r => match s.ctxOf r with
          | some c => raiseAt s c c.sp.pc { cause := causeShadow, mask := c.sp.mask, addr := 0, detail := 0 } n
          | none => s) s
    | none =>
      let s := performOp (clear gone) core b id op c (blocksOf op.instr)
      op.members.foldl (fun s r =>
        let s := s.updSplit r fun sp => { (sp.advance 1) with wait := .none, mprog := 0 }
        if isClaim op.instr then s.seal r else s) s

/-- The operation may end: it has started, its claims are free, and a drain command has room (R338, R340, R349). -/
def Core.canEnd (x : Core) (id : Nat) (op : MatrixOp) : Bool := x.started id op && x.claimReady id op && x.mayConvert op.instr

/-- The parts of a cord operation: core, operation, crew position (R342). -/
def cordParts (s : State) (id : Nat) : List (Nat × MatrixOp × Nat) :=
  s.cores.filterMap fun e => (Tbl.find? e.2.ops id).bind fun op => (s.crew? op.crew).map fun cr => (e.1, op, cr.crewid)

/-- The parts of an operation, each with the core whose slots give its B rows: for a cord form that of the crew which supplies the part's grid
column (R342). -/
def opParts (s : State) (core id : Nat) (op : MatrixOp) : List (Nat × Nat × MatrixOp) :=
  if !op.cord then [(core, core, op)]
  else
    let parts := cordParts s id
    let rgl := match op.instr with
      | .mmul f | .mmulz f => f.rgl.toNat
      | _ => 0
    let n := (((s.crew? op.crew).bind fun cr => s.launch? cr.launch).bind (·.img)).map (·.cord) |>.getD 1
    let cg := max 1 (n / 2 ^ rgl)
    parts.map fun p => (p.1, ((parts.find? fun q => q.2.2 = p.2.2 % cg).map (·.1)).getD p.1, p.2.1)

/-- Ends an operation, or all parts of a cord operation together. -/
def endOp (s : State) (core id : Nat) (op : MatrixOp) : State :=
  let parts := opParts s core id op
  if parts.all fun p => (s.core p.1).canEnd id p.2.2 then parts.foldl (fun s p => finishOp s p.1 p.2.1 id p.2.2) s else s

/-- An operation stops at a block boundary: the blocks before it are written, or delivered, and the operation is gone, on every core of a cord
(R343). The answer gives each part with the blocks that it has completed. `keeps` says of which operations they are written. -/
def stopOp (s : State) (core id : Nat) (op : MatrixOp) (blocks : Nat) (keeps : Instr → Bool) : State × List (MatrixOp × Nat) :=
  (opParts s core id op).foldl (fun acc p =>
    let n := max p.2.2.blocks (min blocks (blocksOf p.2.2.instr))
    let gone := dropOp acc.1 p.1 id
    (match p.2.2.members.head?.bind s.ctxOf with
      | some c => if (s.core p.1).started id p.2.2 && keeps p.2.2.instr then performOp gone p.1 p.2.1 id p.2.2 c n else gone
      | none => gone
    , acc.2 ++ [(p.2.2, n)])) (s, [])

/-- MATRIX_OP_COMPLETE (R338). -/
def execMatrixOpComplete (core id : Nat) (s : State) : Host.Outcome State Fault Refusal :=
  .next (match Tbl.find? (s.core core).ops id with
    | some op => if op.emulated then s else endOp s core id op
    | none => s)

/-- EMULATION_COMPLETE (R352). -/
def execEmulationComplete (core id : Nat) (s : State) : Host.Outcome State Fault Refusal :=
  .next (match Tbl.find? (s.core core).ops id with
    | some op => if op.emulated then endOp s core id op else s
    | none => s)

/-- DRAIN_COMMAND_COMPLETE (R349). -/
def execDrainCommandComplete (core id : Nat) (s : State) : Host.Outcome State Fault Refusal :=
  .next (match s.cmd? core id with
    | some x => if x.kind = .drainS || x.kind = .drainG then runCommand s core id else s
    | none => s)

end Sys2Proof.Machine
end

