-- ==== Sys2Proof/Machine/Coherence.lean ====
section
/-! DEFINITION. Events at a home slice, probes and their acknowledgements (03 R64 to R67, R74), misses (02 R37), and the host's
accesses through HDM range 0 (01 R24; 03 R84, R85). -/

namespace Sys2Proof.Machine

/-- The key under which a line that no translation names is reached: that of its frame's shadow byte (R157). -/
def State.frameKey (s : State) (p line : Nat) : Nat :=
  let b := Tbl.getD (s.part p).shadow (line / 512) 0
  if s.region p (line * 128) = .local && b.getLsbD 6 then fld b 0 6 else 0

/-- The request of an event that arrives at a slice. -/
def reqFrom (s : State) (a : SliceAccess) : Req :=
  { part := a.part, line := a.line, view := a.view, key := s.frameKey a.part a.line, who := a.who, answer := none, keep := [] }

/-- An L1 receives what a transition grants it (R66, R74). -/
def grantL1 (s : State) (a : SliceAccess) (key : Nat) (r : Reply) : State :=
  match a.who with
  | .l1 core =>
    if r.grant = 0 then s
    else
      let q : Req := { part := a.part, line := a.line, view := a.view, key := key, who := a.who, answer := none, keep := [] }
      (installL1 s a.part core (freshL1 core q r.data (permOf r.grant))).state
  | _ => s

/-- The events with which an owner gives up its copy: the copy has left its L1. -/
def givesUp (ev : Nat) : Bool := ev = 3 || ev = 4 || ev = 8

/-- What the device answers to the host or a peer (R22, R24, R84); its own requesters take their answers where they ask. -/
def State.answerTo (s : State) (who : Requester) (addr : Nat) (ok : Bool) (grant : Nat) (data : LineData) : State :=
  match who with
  | .host | .peer _ => s.setDev { s.dev with replied := { who := who, addr := addr, ok := ok, grant := grant, data := data } :: s.dev.replied }
  | _ => s

/-- A peer's request that this device refuses: an abort completion, and a record of kind 3 (R22, R392). -/
def abortPeer (s : State) (a : SliceAccess) (link : Nat) : State :=
  (reportError s 3 8 0 link (a.line * 128) a.part).answerTo a.who (a.line * 128) false 0 0

/-- A refused access of a requester port (R24, R427). -/
def refusePort (s : State) (r : Nat) : State :=
  s.setDev { s.dev with refused := Tbl.setD 0 s.dev.refused r (min 65535 (Tbl.getD s.dev.refused r 0 + 1)) }

/-- What a peer's request names lies in memory that a slice serves. -/
def State.servesPeer (s : State) (a : SliceAccess) : Bool :=
  match s.region a.part (a.line * 128) with
  | .local | .unbacked => true
  | _ => false

/-- A peer's request that is refused: where XCONN is what refuses it, it counts for the link's port (R22, R427). -/
def refusePeer (s : State) (a : SliceAccess) (link : Nat) : State :=
  let xconn := s.servesPeer a && (s.link link).bound = a.part && !(s.part a.part).req.getLsbD (17 + link)
  abortPeer (if xconn then refusePort s (17 + link) else s) a link

/-- Events that wait for a line, in order of arrival. -/
def State.waitingEvents (s : State) (lk : Nat) : List Instr :=
  s.caches.waiters.filterMap fun w => if w.1 = lk then (match w.2 with
    | .event i => some i
    | _ => none) else none

/-- An event that has waited has been served. -/
def State.eventServed (s : State) (i : Instr) : State :=
  s.setCaches { s.caches with waiters := s.caches.waiters.filter fun w => w.2 != .event i }

/-- An event waits at its slice, behind those of its line that arrived before it (R67), and in the order of the slice's misses where it is a
miss entry that it lacks (R37). -/
def State.eventWaits (s : State) (lk : Nat) (i : Instr) (w : Stop) : State :=
  let s := s.queueFor lk (.event i)
  match w with
  | .miss sl => s.queueFor (missKey sl) (.event i)
  | _ => s

/-- It is an event's turn at its line: it is the first that waits, or none does. -/
def State.eventTurn (s : State) (lk : Nat) (i : Instr) : Bool := (s.waitingEvents lk).head?.all fun j => j = i

/-- A host snoop's answer lets the host's write of the line follow (R84): in host memory, or, of a block in host bias, in the block's own
memory. Answers with the old value that are still under way to a requester are asked for again. -/
def hostFollows (s : State) (a : SliceAccess) : State :=
  if a.mask = 0 then s
  else
    let gone (t : List (Nat × Answer)) := t.filter fun e => e.1 != a.line
    let part (l : Nat) : Bool := (s.launch? l).any fun x => x.part = a.part
    let s : State :=
      { s with
        caches := { s.caches with filled := Tbl.del s.caches.filled (lineKey a.part a.line a.view) }
        groups := Tbl.mapVal (fun _ g =>
          if part g.launch then { g with splits := Tbl.mapVal (fun _ sp => { sp with answers := gone sp.answers }) g.splits } else g) s.groups
        cores := Tbl.mapVal (fun c x =>
          if (s.part a.part).req.getLsbD (portOfBit (c / 8)) then
            { x with
              cmds := Tbl.mapVal (fun _ k => { k with answers := gone k.answers }) x.cmds
              streams := Tbl.mapVal (fun _ k => { k with answers := gone k.answers }) x.streams }
          else x) s.cores
        launches := Tbl.mapVal (fun _ l => if l.part = a.part then { l with answers := gone l.answers } else l) s.launches }
    match s.region a.part (a.line * 128) with
    | .host => s.writeHostLine (a.line * 128 - 2 ^ 51) a.data a.mask
    | .local =>
      let key := s.frameKey a.part a.line
      s.writeLocal a.part a.line key (mergeLine (s.readLocal a.part a.line key) a.data a.mask)
    | _ => s

/-- An acknowledgement of a probe reaches the slice: the owner's data is kept, and the last acknowledgement ends the wait (R74). A requester
that has handed its data over, or that waits no more, is not waited for; another ends the transition when it is served. -/
def ackBusy (s : State) (lk : Nat) (b : Busy) (target : Nat) (data : Option LineData) : State :=
  let left := b.targets.erase target
  let b := { b with targets := left, data := data.orElse fun _ => b.data }
  let s := s.setCaches
    { s.caches with
      busy := Tbl.put s.caches.busy lk b
      probes := s.caches.probes.filter fun p => !(lineKey p.part p.line p.view = lk && p.target = target) }
  if !left.isEmpty then s
  else if handsOver b.event then (finishBusy s lk b).1
  else if s.awaited lk b then s
  else
    match finishBusy s lk b with
    | (s, some r) => grantL1 s b.access b.key r
    | (s, none) => s

/-- A peer owner's WB that crosses the probe of its line answers the probe, and is consumed (R67, R88). -/
def State.crossed (s : State) (ev : Nat) (a : SliceAccess) : Option Busy :=
  match a.who with
  | .peer l =>
    (Tbl.find? s.caches.busy (lineKey a.part a.line a.view)).bind fun b => if ev = 3 && b.targets.contains (16 + l) then some b else none
  | _ => none

def State.countCross (s : State) (part line : Nat) : State :=
  s.count (s.home part (line * 128)).port fun c => { c with wbcross := sat32 c.wbcross }

/-- An event reaches the home slice of its line. A peer's request needs a link that is Up and bound to the partition, whose XCONN holds the
link's port, and an address of the partition's local memory or unbacked aperture; a refusal of a write by the host or a peer drops the
write (R22, R82, R98, R99, R394). An event that has to wait is served in its turn. -/
def sliceRow (s : State) (i : Instr) (ev : Nat) (a : SliceAccess) : State :=
  let lk := lineKey a.part a.line a.view
  let go (s : State) : State :=
    if !s.eventTurn lk i then s.eventWaits lk i (.line lk)
    else
      let s := match a.who with
        | .l1 core => if givesUp ev then s.delL1 (lineKey core a.line a.view) else s
        | _ => s
      match s.crossed ev a with
      | some b => ackBusy ((s.eventServed i).countCross a.part a.line) lk b (requesterBit a.who) (some a.data)
      | none =>
        match sliceEvent s (reqFrom s a) ev a.data a.mask with
        | .ok s r =>
          let s := (grantL1 (s.eventServed i) a (s.frameKey a.part a.line) r).answerTo a.who (a.line * 128) true r.grant r.data
          if ev = 11 then hostFollows s a else s
        | .stop s w =>
          if !w.fatal then s.eventWaits lk i w
          else
            let s := s.eventServed i
            match a.who with
            | .peer l => abortPeer s a l
            | who => s.answerTo who (a.line * 128) false 0 0
  match a.who with
  | .peer l =>
    if (s.link l).state != 2 then s.eventServed i
    else
      if s.servesPeer a && (s.link l).bound = a.part && (s.part a.part).req.getLsbD (17 + l) then go s else refusePeer s a l
  | _ => go s

/-- RD (R64). -/
def execRd (a : SliceAccess) (s : State) : Host.Outcome State Fault Refusal := .next (sliceRow s (.rd a) 0 a)
/-- RDX (R64). -/
def execRdx (a : SliceAccess) (s : State) : Host.Outcome State Fault Refusal := .next (sliceRow s (.rdx a) 1 a)
/-- UPG (R64). -/
def execUpg (a : SliceAccess) (s : State) : Host.Outcome State Fault Refusal := .next (sliceRow s (.upg a) 2 a)
/-- WB (R64). -/
def execWb (a : SliceAccess) (s : State) : Host.Outcome State Fault Refusal := .next (sliceRow s (.wb a) 3 a)
/-- EVC (R64). -/
def execEvc (a : SliceAccess) (s : State) : Host.Outcome State Fault Refusal := .next (sliceRow s (.evc a) 4 a)
/-- RDS (R64). -/
def execRds (a : SliceAccess) (s : State) : Host.Outcome State Fault Refusal := .next (sliceRow s (.rds a) 5 a)
/-- WRS (R64). -/
def execWrs (a : SliceAccess) (s : State) : Host.Outcome State Fault Refusal := .next (sliceRow s (.wrs a) 6 a)
/-- ATX (R83). -/
def execAtx (a : SliceAccess) (s : State) : Host.Outcome State Fault Refusal := .next (sliceRow s (.atx a) 7 a)
/-- ATR (R83). -/
def execAtr (a : SliceAccess) (s : State) : Host.Outcome State Fault Refusal := .next (sliceRow s (.atr a) 8 a)
/-- XRD (R64). -/
def execXrd (a : SliceAccess) (s : State) : Host.Outcome State Fault Refusal := .next (sliceRow s (.xrd a) 9 a)
/-- XWR (R64). -/
def execXwr (a : SliceAccess) (s : State) : Host.Outcome State Fault Refusal := .next (sliceRow s (.xwr a) 10 a)
/-- SNP (R64). -/
def execSnp (a : SliceAccess) (s : State) : Host.Outcome State Fault Refusal := .next (sliceRow s (.snp a) 11 a)

def probeCode : ProbeKind → Nat
  | .invalidate => 0
  | .downgrade => 1
  | .update => 2

/-- The clusters of a partition (R426). -/
def State.clustersOf (s : State) (p : Nat) : List Nat := (List.range 16).filter fun c => s.ownsCluster p c

/-- The WB that the target of a probe has already sent: the next event of the line that the outside world brings from it (R67,
log 78). -/
def State.wbInFlight (s : State) (a : ProbeMsg) : Option (Nat × SliceAccess) :=
  let mine (x : SliceAccess) : Bool := x.part = a.part && x.line = a.line && x.view = a.view && requesterBit x.who = a.target
  match s.inputs.find? fun e => (sliceAccess? e.2).any mine with
  | some (n, .wb x) => some (n, x)
  | _ => none

/-- An owner whose WB is in flight answers so: the slice takes the WB's data as the probe's, and the WB is consumed (R67, R88). -/
def crossWb (s : State) (a : ProbeMsg) (w : Nat × SliceAccess) : State :=
  let s := s.countCross a.part a.line
  { s with
    inputs := s.inputs.erase (w.1, .wb w.2)
    caches := { s.caches with acks := s.caches.acks ++ [{ a with data := some w.2.data }] } }

/-- PROBE (R66, R67). A probe of a line that a peer homes goes to every L1 of the partition, and the answer goes back over the link with the
owner's data; a probe of a line homed here is acknowledged to its slice, at once and without data over a link that is not Up (R394). -/
def execProbe (a : ProbeMsg) (s : State) : Host.Outcome State Fault Refusal :=
  .next (
    let s := s.setCaches { s.caches with probes := s.caches.probes.erase a }
    let act (s : State) (c : Nat) : State × Option LineData :=
      probeCluster s c none a.line a.view (probeCode a.kind) (a.data.getD 0)
    let ack (s : State) (d : Option LineData) : State :=
      s.setCaches { s.caches with acks := s.caches.acks ++ [{ a with data := d }] }
    match s.region a.part (a.line * 128) with
    | .peer _ =>
      let r := (s.clustersOf a.part).foldl (fun (r : State × Option LineData) c =>
        let q := act r.1 c
        (q.1, q.2.orElse fun _ => r.2)) (s, none)
      ack r.1 r.2
    | _ =>
      if a.target < 16 then
        let r := act s a.target
        ack r.1 r.2
      else if (s.link (a.target - 16)).state = 2 then
        match s.wbInFlight a with
        | some w => crossWb s a w
        | none => ack s a.data
      else ack s none)

/-- PROBE_ACK (R74): the owner's data is kept, and the last acknowledgement lets the transition go on. The acknowledgement of a probe of a
peer's line leaves over the link (R66). -/
def execProbeAck (a : ProbeMsg) (s : State) : Host.Outcome State Fault Refusal :=
  .next (
    let lk := lineKey a.part a.line a.view
    let s := s.setCaches { s.caches with acks := s.caches.acks.erase a }
    match s.region a.part (a.line * 128) with
    | .peer l => s.answerTo (.peer l) (a.line * 128) true 0 (a.data.getD 0)
    | _ =>
      match Tbl.find? s.caches.busy lk with
      | none => s
      | some b => if b.targets.contains a.target then ackBusy s lk b a.target a.data else s)

/-- LINE_MISS_COMPLETE (R37): a miss entry of the slice frees. -/
def execLineMissComplete (slice : Nat) (s : State) : Host.Outcome State Fault Refusal :=
  .next (
    let n := Tbl.getD s.caches.misses slice 0
    s.setCaches { s.caches with misses := Tbl.setD 0 s.caches.misses slice (n - 1) })

/-! Host accesses of device memory. -/

/-- The partition that holds the host port and the memory-side port of a device physical address (R24). -/
def State.hdmPart (s : State) (dpa : Nat) : Option Nat :=
  (List.range 16).find? fun p => (s.part p).req.getLsbD 16 && (s.part p).pstate != 2 && (s.part p).mem.getLsbD (dpa / s.portBytes)

/-- The partition physical address of a device physical address: R47 read backwards. -/
def State.paOf (s : State) (p dpa : Nat) : Nat :=
  let ports := (s.part p).ports
  let k := ports.length
  let q := dpa % s.portBytes / 1024
  let i := ports.idxOf (dpa / s.portBytes)
  (q * k + (i + k - q % k) % k) * 1024 + dpa % 1024

/-- An access of the host to a device physical address is admitted: its line in the partition; a refused one is counted, and answered so
(R24). -/
def hostAdmits (s : State) (dpa : Nat) : State × Option (Nat × Nat) :=
  match s.hdmPart dpa with
  | none => ((refusePort s 16).answerTo .host dpa false 0 0, none)
  | some p => (s, some (p, s.paOf p dpa / 128))

/-- The lines that a host read touches: XRD at each, but for a block in host bias, where no event arises (R85). Each is answered with its
line, or without data where it is refused (R24, R390). What has to wait comes again in its turn. -/
def hostReadLines (s : State) : List (Nat × Nat × Nat) → State
  | [] => s
  | pc :: rest =>
    match hostAdmits s pc.1 with
    | (s, none) => hostReadLines s rest
    | (s, some (p, line)) =>
      if s.inHostBias p line then
        hostReadLines (s.answerTo .host pc.1 true 0 (s.readLocal p line (s.frameKey p line))) rest
      else
        let lk := lineKey p line false
        let i : Instr := .hdmRead pc.1 ((pc :: rest).map fun x => x.2.2).sum
        let a : SliceAccess := { part := p, line := line, view := false, who := .host, data := 0, mask := 0 }
        if !s.eventTurn lk i then s.eventWaits lk i (.line lk)
        else
          match sliceEvent s (reqFrom s a) 9 0 0 with
          | .ok s r => hostReadLines ((s.eventServed i).answerTo .host pc.1 true 0 r.data) rest
          | .stop s w => if w.fatal then hostReadLines ((s.eventServed i).answerTo .host pc.1 false 0 0) rest else s.eventWaits lk i w

/-- HDM_READ (R24): the data goes to the host. -/
def execHdmRead (addr len : Nat) (s : State) : Host.Outcome State Fault Refusal :=
  .next (fromHost s (hostReadLines s (linePieces addr (len + 1) len)))

/-- A piece of a host write: XWR with its bytes, or straight to memory in host bias (R24, R85). What has to wait comes again in its turn. -/
def hostWriteLines (s : State) (addr : Nat) (bytes : List Byte) : List (Nat × Nat × Nat) → State
  | [] => s
  | pc :: rest =>
    match hostAdmits s pc.1 with
    | (s, none) => hostWriteLines s addr bytes rest
    | (s, some (p, line)) =>
      let d := lineWith pc.2.1 pc.2.2 (leBytes ((bytes.drop (pc.1 - addr)).take pc.2.2))
      let m := byteSpan pc.2.1 pc.2.2
      let done (s : State) (ok : Bool) : State := s.answerTo .host pc.1 ok 0 0
      if s.inHostBias p line then
        let key := s.frameKey p line
        hostWriteLines (done (s.writeLocal p line key (mergeLine (s.readLocal p line key) d m)) true) addr bytes rest
      else
        let lk := lineKey p line false
        let i : Instr := .hdmWrite pc.1 (bytes.drop (pc.1 - addr))
        let a : SliceAccess := { part := p, line := line, view := false, who := .host, data := d, mask := m }
        if !s.eventTurn lk i then s.eventWaits lk i (.line lk)
        else
          match sliceEvent s (reqFrom s a) 10 d m with
          | .ok s _ => hostWriteLines (done (s.eventServed i) true) addr bytes rest
          | .stop s w => if w.fatal then hostWriteLines (done (s.eventServed i) false) addr bytes rest else s.eventWaits lk i w

/-- HDM_WRITE (R24). -/
def execHdmWrite (addr : Nat) (bytes : List Byte) (s : State) : Host.Outcome State Fault Refusal :=
  .next (fromHost s (hostWriteLines s addr bytes (linePieces addr (bytes.length + 1) bytes.length)))

end Sys2Proof.Machine
end

