-- ==== Sys2Proof/Machine/Translation.lean ====
section
/-! DEFINITION. The walk unit, walk-ahead, page-request records and remote invalidations (06 R158 to R168), and the late-frame
unit (04 R101, R102). -/

namespace Sys2Proof.Machine

/-- A waiter for a walk, a late framing or a line goes on: a split issues again, and whoever else waits tries again by itself (R161, R102). -/
def wake (s : State) : Walker → State
  | .split r _ =>
    s.updSplit r fun sp =>
      match sp.wait with
      | .walk | .line _ => { sp with wait := .none }
      | _ => sp
  | .command _ _ | .stream _ _ | .launch _ | .word _ | .migration | .slice _ _ _ | .prefetch _ _ _ _ _ | .ahead _ _ => s

/-- The outcome of a walk that did not translate is handed to a waiter; that of a walk-ahead is discarded (R152, R162, R163). -/
def tellFault (s : State) (page : Nat) (f : XFault) : Walker → State
  | .split r _ => s.updSplit r fun sp => { sp with faults := Tbl.put sp.faults page f }
  | .command core id => s.updCmd core id fun x => { x with faults := Tbl.put x.faults page f }
  | .stream core g =>
    match Tbl.find? (s.core core).streams g with
    | some x => s.setStream core g { x with faults := Tbl.put x.faults page f }
    | none => s
  | .launch l | .word l => s.updLaunch l fun x => { x with faults := Tbl.put x.faults page f }
  | .migration | .slice _ _ _ | .prefetch _ _ _ _ _ | .ahead _ _ => s

/-- A refusal of a line by a late framing is handed to a waiter: the cause that its access reports (R102). -/
def tellRefusal (s : State) (line cause : Nat) : Walker → State
  | .split r _ => s.updSplit r fun sp => { sp with aborted := some (cause, line * 128) }
  | .command core id => s.updCmd core id fun x => { x with aborted := Tbl.put x.aborted line cause }
  | .stream core g =>
    match Tbl.find? (s.core core).streams g with
    | some x => s.setStream core g { x with aborted := Tbl.put x.aborted line cause }
    | none => s
  | .launch _ | .word _ | .migration | .slice _ _ _ | .prefetch _ _ _ _ _ | .ahead _ _ => s

/-! Walks. -/

/-- Walkers of the walk unit (R161). -/
def walkers : Nat := 32

/-- A walker that no walk uses. -/
def Mmu.freeWalker (m : Mmu) : Option Nat := (List.range walkers).find? fun k => m.walks.all fun e => e.2.running != some k

/-- Tenants that may be given a walker: a walk is queued, and fewer run than QUOTA (R161). -/
def State.walkable (s : State) (t : Nat) : Bool :=
  !(s.mmu.queued t).isEmpty && (s.mmu.running t).length < ((s.tenant? t).map (·.quota)).getD 0

/-- The tenant is the one that was given a walker least recently among those that may be given one (R161). -/
def State.nextWalk (s : State) (t : Nat) : Bool :=
  s.walkable t && s.mmu.freeWalker.isSome
    && s.tenants.all fun e => e.1 = t || !s.walkable e.1 || Tbl.getD s.mmu.lastGiven t 0 ≤ Tbl.getD s.mmu.lastGiven e.1 0

/-- WALK_START (R161): a free walker is given to the walk at the head of the tenant's queue. -/
def execWalkStart (tenant : Nat) (s : State) : Host.Outcome State Fault Refusal :=
  .next (if !s.nextWalk tenant then s
    else
      let m := s.mmu
      match m.freeWalker, m.queued tenant with
      | some k, (i, w) :: _ =>
        s.setMmu { m with walks := Tbl.put m.walks i { w with running := some k }, lastGiven := Tbl.put m.lastGiven tenant (s.steps + 1) }
      | _, _ => s)

/-- Keeps at most 64 entries in an upper-level cache; which one a full cache gives up is not said (Table 6.7, log 10). -/
def upperTrim (seed : Nat) (u : Upper) : Upper :=
  let u := u.eraseDups
  if u.length ≤ 64 then u else (u.eraseIdx (Config.victim seed 64 % u.length)).take 64

/-- Adds a translation to a core's walk-ahead TLB, of 128 entries (Table 6.7). -/
def installAhead (s : State) (core : Nat) (e : TlbEntry) : State :=
  let m := s.mmu
  s.setMmu { m with ahead := Tbl.put m.ahead core (tlbAdd 128 s.steps (State.tlbOf m.ahead core) e) }

/-- A tensor-record command that is still in its queue: its walker has the walk-ahead TLB (R162). -/
def State.recordCmd (s : State) (core id : Nat) : Bool :=
  (Tbl.find? (s.core core).cmds id).any fun x => x.kind = .cpt || x.kind = .cptw

/-- A completed walk gives its translation to a waiter's TLBs (R158, R162). A walk-ahead marks it unused; the first access of a
tensor-record command that finds such an entry has had A and D set by this walk, and uses the entry from here on. -/
def installFor (s : State) (e : TlbEntry) : Walker → State
  | .ahead core id => if s.recordCmd core id then installAhead s core { e with unused := true, dirty := false } else s
  | .command core id =>
    if s.recordCmd core id && (State.tlbOf s.mmu.ahead core).any (fun x => x.tenant = e.tenant && x.va = e.va && x.size = e.size && x.unused)
    then installAhead s core { e with unused := false } else installTlb s core { e with unused := false }
  | w => installTlb s w.core { e with unused := false }

/-- The access of a walk: that of the first waiter that is no walk-ahead; a walk that only walk-ahead waits for sets neither A nor D
(R161, R162). -/
def Walk.ask (w : Walk) : Access × Bool :=
  match w.waiters.find? fun x => match x.1 with
    | .ahead _ _ => false
    | _ => true with
  | some x => (x.2, false)
  | none => (w.access, true)

/-- WALK_COMPLETE (R152, R161): the walk is made, and its translation goes to the TLBs of every waiter. A fault goes to the waiters of
the same access; an access of another kind that joined the walk asks again. -/
def execWalkComplete (walk : Nat) (s : State) : Host.Outcome State Fault Refusal :=
  .next (match Tbl.find? s.mmu.walks walk with
    | none => s
    | some w =>
      match w.running with
      | none => s
      | some k =>
        match walkAll s w.tenant (w.page * 4096) w.ask.1 w.ask.2 (Tbl.getD s.mmu.upper k []) with
        | .stop s _ => s
        | .ok s (out, up) =>
          let s := s.setMmu
            { s.mmu with walks := Tbl.del s.mmu.walks walk, upper := Tbl.put s.mmu.upper k (upperTrim s.steps up) }
          match out with
          | .ok e => w.waiters.foldl (fun s x => wake (installFor s e x.1) x.1) s
          | .error f => w.waiters.foldl (fun s x => wake (if x.2 = w.ask.1 then tellFault s w.page f x.1 else s) x.1) s)

/-- The extent of a record as a range of virtual addresses (R162, R319). -/
def Record.spans (t : Record) (page : Nat) : Bool :=
  let span (d : Nat) : Int := ((t.ext (d + 1) : Int) - 1) * t.strideOf d
  let lo : Int := t.base + min 0 (span 0) + min 0 (span 1) + min 0 (span 2)
  let hi : Int := t.base + t.ext 0 * t.elem + max 0 (span 0) + max 0 (span 1) + max 0 (span 2)
  lo < (page + 1) * 4096 && ((page * 4096 : Nat) : Int) < hi

/-- The pages that a command has still to transfer, in element order. -/
def Command.pagesLeft (x : Command) : List Nat :=
  ((x.elems.filter fun el => (Tbl.find? x.done el.idx).isNone).filterMap fun el => el.addr.map fun a => a.toNat / 4096).eraseDups

/-- WALK_AHEAD (R162): a walk is queued for one of up to eight pages beyond the one in transfer, inside the record's extent, where the
core's TLBs do not hold its translation. -/
def execWalkAhead (core id page : Nat) (s : State) : Host.Outcome State Fault Refusal :=
  .next (match s.cmd? core id with
    | none => s
    | some x =>
      match (s.group? x.group).bind fun g => s.launch? g.launch with
      | none => s
      | some l =>
        let t := Record.of x.record
        let ok := s.recordCmd core id && t.space = 0 && t.spans page && ((x.pagesLeft.drop 1).take 8).contains page
        let m := s.mmu
        let held := (State.tlbOf m.ahead core ++ State.tlbOf m.l1tlb core ++ State.tlbOf m.l2tlb (core / 8)).any
          fun e => e.covers l.tenant (page * 4096)
        if !ok || held || 2 ^ 40 ≤ page then s
        else queueWalk s l.tenant page (if x.kind.loads then .engRead else .engWrite) (.ahead core id))

/-! Page requests. -/

/-- Records in a function's ring, as a power of two (Table 6.11). -/
def Func.prqLog (f : Func) : Nat := if 6 ≤ fld f.prqcfg 0 4 && fld f.prqcfg 0 4 ≤ 12 then fld f.prqcfg 0 4 else 6

/-- The 32 bytes of a page-request record (Table 6.12). -/
def prqRecord (s : State) (r : PageReq) : List Byte :=
  let bit (b : Bool) (n : Nat) := if b then n else 0
  let acc := bit (r.access = .read || r.access = .atomic || r.access = .engRead) 1
    + bit (r.access = .write || r.access = .atomic || r.access = .engWrite) 2 + bit (r.access = .fetch) 4 + bit r.table 8
    + bit (r.access = .engRead || r.access = .engWrite) 16
  toBytes 2 (r.slot + 256 * r.gen) ++ toBytes 2 r.tenant ++ toBytes 4 (((s.tenant? r.tenant).map (·.pasid)).getD 0)
    ++ toBytes 8 r.addr ++ toBytes 1 r.stage ++ toBytes 1 r.level ++ toBytes 1 acc ++ toBytes 5 0 ++ toBytes 8 r.entry

/-- PAGE_REQUEST_WRITE (R167): the oldest record that has not been written, once the ring has room. -/
def execPageRequestWrite (func : Nat) (s : State) : Host.Outcome State Fault Refusal :=
  .next (
    let f := s.func func
    let room := f.prqcfg.getLsbD 31 && (f.prqtail - f.prqhead).toNat < 2 ^ f.prqLog
    match s.mmu.requests.find? fun r => r.func = func && !r.written with
    | none => s
    | some r =>
      if !room then s
      else
        let at_ := (f.prqbase.toNat / 4096) * 4096 + 32 * (f.prqtail.toNat % 2 ^ f.prqLog)
        let s := writeHost s at_ (prqRecord s r)
        let s := s.setMmu
          { s.mmu with requests := s.mmu.requests.map fun x =>
              if x.func = func && x.slot = r.slot && x.gen = r.gen then { x with written := true } else x }
        prqInterrupt (s.setFunc func { s.func func with prqtail := f.prqtail + 1 }) func)

/-- Removes the remote translations of a range of offsets of an aperture (R168). -/
def dropRemote (s : State) (link lo hi : Nat) : State :=
  let base := (link + 1) * 0x4000000000
  dropTlb s (fun e => e.pa < base + hi && base + lo < e.pa + e.size) fun _ => false

/-- REMOTE_INVALIDATION (R168). -/
def execRemoteInvalidation (link lo hi : Nat) (s : State) : Host.Outcome State Fault Refusal :=
  .next (if (s.link link).state = 2 then dropRemote s link lo (min hi 0x4000000000) else s)

/-! Late framing. -/

/-- The leaf that holds UNB and LATE: that of the final stage (R90). -/
def finalLeaf (s : State) (tenant va : Nat) : Res (Option Leaf) :=
  match s.tenant? tenant with
  | none => .ok s none
  | some t =>
    let out (s : State) (r : Except XFault (Leaf × Upper)) : Res (Option Leaf) :=
      match r with
      | .ok (l, _) => .ok s (some l)
      | .error _ => .ok s none
    if t.s2en then
      (walkGuest s t.part tenant t.s2root .write va [] [] 4 t.s1root 0).bind fun s r =>
        match r with
        | .error _ => .ok s none
        | .ok (l1, _, up) =>
          (walkOne s t.part tenant 2 false .write (l1.base + va % l1.size) up 4 t.s2root 0).bind fun s r => out s r
    else (walkOne s t.part tenant 1 false .write va [] 4 t.s1root 0).bind fun s r => out s r

/-- The address of the first entry of a leaf's run, and the run's length (R150). -/
def Leaf.run (l : Leaf) : Nat × Nat :=
  let n := runLen (fld l.pte 11 2)
  (l.entry - l.entry / 8 % n * 8, n)

/-- The entry of a frame pool: its PFN, if the entry is valid (R101). -/
def State.poolEntry (s : State) (p v : Nat) : Option Nat :=
  let pfn := bits v 16 40
  if pfn % 16 = 0 && v % 2 ^ 16 = 0 && v / 2 ^ 56 = 0 && pfn * 4096 + 65536 ≤ s.localBytes p - s.localBytes p / 1024 then some pfn
  else none

/-- Ends a late framing: its jobs go, and those that waited retranslate. A failure is that of the first request's; every other of the same
page only waited (R102). -/
def endLate (s : State) (part : Nat) (same : LateJob → Bool) (tell : State → LateJob → Walker → State) : State :=
  let p := s.part part
  let s := s.setPart part { p with late := p.late.filter fun j => !same j }
  let jobs := p.late.filter same
  let s := match jobs.head?.bind fun j => j.who.head?.map fun w => (j, w) with
    | some (j, w) => tell s j w
    | none => s
  jobs.foldl (fun s j => j.who.foldl wake s) s

/-- A page's lines, from its first to its last. -/
def pageLines (base size : Nat) : List Nat := (List.range (size / 128)).map fun i => base / 128 + i

/-- Every line of a page whose data has been pulled is dropped and returns to Absent: nobody holds it any more but, where a program keeps
sharers, L1s with clean copies (R102 step 7, R109 step 7). -/
def releaseLines (s : State) (part : Nat) (lines : List Nat) : State :=
  lines.foldl (fun s line =>
    let lk := lineKey part line false
    match Tbl.find? s.caches.l2 lk with
    | some l => dropUnbacked s lk l
    | none => dropCopies s part line false false) s

/-- The data of an unbacked line, with what an owner still holds pulled into L2 by PRG (R102 steps 3 and 4, R109 step 3). -/
def pullLine (s : State) (part line : Nat) : Res LineData :=
  let lk := lineKey part line false
  match Tbl.find? s.caches.l2 lk with
  | none => .ok s 0
  | some l =>
    (forceOut s lk l 14).bind fun s _ =>
      match Tbl.find? s.caches.l2 lk with
      | some l => .ok s (if l.unb = some .written || l.unb = some (.leaving true false) then l.data else 0)
      | none => .ok s 0

/-- Steps 3 and 4 of Table 4.6: the page's lines are written into the frame. -/
def frameLines (s : State) (part key frame : Nat) (lines : List Nat) : Res Unit :=
  Res.forEach s (fun s i =>
    (pullLine s part (lines.getD i 0)).bind fun s d =>
      (sliceEvent s (ctlReq part (frame * 32 + i) key false)
        6 d (BitVec.allOnes 128)).bind fun s _ => .ok s ()) (List.range lines.length)

/-- Replaces the entries of a run (R102 step 5). -/
def rewriteRun (s : State) (part first n frame : Nat) : Res Unit :=
  Res.forEach s (fun s i =>
    (readPhys s part (first + 8 * i) 8).bind fun s v =>
      let pte := w64 v
      let pte := (setFld pte 16 40 (frame + i) &&& ~~~0x600#64) ||| 0x180#64
      writePhys s part (first + 8 * i) 8 pte.toNat) (List.range n)

/-- Takes a line for writing, its bytes unchanged, so that what has to wait does so before anything is replaced. -/
def takePhys (s : State) (part pa : Nat) : Res Unit := (readPhys s part pa 8).bind fun s v => writePhys s part pa 8 v

/-- LATE_FRAMING (R102, Table 4.6): the oldest late framing of a partition, whole. What has to wait, as a page in
a migration's range does (R111), leaves it for later. -/
def execLateFraming (part : Nat) (s : State) : Host.Outcome State Fault Refusal :=
  .next (match (s.part part).late with
    | [] => s
    | j :: _ =>
      match finalLeaf s j.tenant j.va with
      | .stop s _ => s
      | .ok s none => endLate s part (fun x => x = j) fun s _ _ => s
      | .ok s (some l) =>
        let key := fld l.pte 56 6
        let base := l.base
        let same (x : LateJob) : Bool := base / 128 ≤ x.line && x.line < (base + l.size) / 128
        let refuse (s : State) (cause : Nat) : State := endLate s part same fun s x w => tellRefusal s x.line cause w
        let fail (s : State) (f : XFault) : State :=
          endLate (dropTlb s (fun e => e.tenant = j.tenant && e.covers j.tenant j.va) fun _ => false) part same fun s x w =>
            tellFault s (x.va / 4096) f w
        if !(l.pte.getLsbD 9 && l.pte.getLsbD 10) then endLate s part (fun x => x = j) fun s _ _ => s
        else if s.migration.any fun m => m.part = part && m.pages.any fun g => g.2.2.1 < base + l.size && base < g.2.2.1 + g.2.2.2 then s
        else if (s.keyTag part key).isNone then fail s (xperm 10 (if (s.tenant? j.tenant).any (·.s2en) then 2 else 1) l.level false .write)
        else
          let p := s.part part
          match p.pool with
          | none => refuse s 8
          | some (ring, n) =>
            if p.poolBad then refuse s 8
            else
              match (readPhys s part ring 8).bind fun s tail => (readPhys s part (ring + 8) 8).bind fun s head =>
                  (readPhys s part (ring + 64 + 8 * (head % 2 ^ n)) 8).bind fun s v => .ok s (tail, head, v) with
              | .stop s _ => s
              | .ok s (tail, head, v) =>
                if head = tail then refuse s 8
                else
                  match s.poolEntry part v with
                  | none => refuse (errInterrupt (s.setPart part { s.part part with poolBad := true }) 0) 8
                  | some frame =>
                    match shadowCheck (s.part part).shadow key [frame / 16] with
                    | none => fail s (.trap 7 (detailWord 0 (if (s.tenant? j.tenant).any (·.s2en) then 2 else 1) l.level false .write))
                    | some sh =>
                      let lines := pageLines base l.size
                      if lines.any fun k => s.isLost part (s.home part (k * 128)).slice k then refuse s 9
                      else
                        match (frameLines s part key frame lines).bind fun s _ =>
                            (takePhys s part (ring + 8)).bind fun s _ => (takePhys s part l.run.1).bind fun s _ =>
                            (rewriteRun s part l.run.1 l.run.2 frame).bind fun s _ =>
                              writePhys s part (ring + 8) 8 (head + 1) with
                        | .stop s _ => s
                        | .ok s _ =>
                          let s := s.setPart part { s.part part with shadow := sh }
                          let s := dropTlb s (fun e => e.pa < base + l.size && base < e.pa + e.size
                            && ((s.tenant? e.tenant).map (·.part)) = some part) fun _ => false
                          endLate (releaseLines s part lines) part same fun s _ _ => s)

end Sys2Proof.Machine
end

