-- ==== Sys2Proof/Machine/Launch.lean ====
section
/-! DEFINITION. Launch records, launch windows, packets, kernel images and child launches (14 R370 to R382; 08 R223 to R226;
10 R273). -/

namespace Sys2Proof.Machine

/-! Kernel images. -/

/-- A number of a byte string. -/
def numAt (bs : List Byte) (off n : Nat) : Nat := leBytes ((bs.drop off).take n)

/-- The headers that the walk of the code section meets, with their BILLET bits; none when the walk fails (R226). -/
def walkHeaders (code : List Byte) (level3 : Bool) : Nat → Nat → Option (List (Nat × Bool))
  | 0, _ => none
  | fuel + 1, off =>
    if off = code.length then some []
    else
      let h := Header.ofWord (w64 (numAt code off 8))
      let next := off + 8 * (h.count + 1)
      if code.length < off + 8 || h.sig != levelSig level3 || 5 < h.eng || h.count = 0 || 16 < h.count || code.length < next then none
      else (walkHeaders code level3 fuel next).map fun t => (off, h.billet) :: t

def roleOf (n : Nat) : Role := if n = 0 then .general else if n = 1 then .copy else if n = 2 then .matrix else .vector

/-- How many bits of a mask are set. -/
def bitCount {w : Nat} (v : BitVec w) : Nat := ((List.range w).filter fun i => v.getLsbD i).length

/-- The image that a byte string holds, or none when it is refused (R223 to R226). -/
def kernelImage (bs : List Byte) : Option Image :=
  let n := numAt bs
  let len := n 0x5C 4
  let level3 := n 4 1 == 3
  let crew := n 6 1
  let regs := n 8 2
  let rings := n 0x0B 1
  let slots := (List.range 8).map fun k => n (0x10 + k) 1
  let code := n 0x20 4
  let codeLen := n 0x24 4
  let nsafe := n 0x40 4
  let gt := n 0x38 4
  let st := n 0x3C 4
  let lt := n 0x44 4
  let zeroed := bs.take 0x60 ++ List.replicate 4 0 ++ bs.drop 0x64
  let fields :=
    128 ≤ len && bs.length == len && n 0 4 == 0x4E4B5051 && (n 4 1 == 2 || n 4 1 == 3) && [16, 32, 64].contains (n 5 1)
      && 1 ≤ crew && crew ≤ 32 && 1 ≤ n 7 1 && n 7 1 ≤ 16 && 1 ≤ regs && regs ≤ 256 && n 0x0A 1 ≤ 3 && rings ≤ 8
      && n 0x0C 4 ≤ 262144 && (slots.take rings).all (fun k => 1 ≤ k && k ≤ 8) && (slots.drop rings).all (· == 0)
      && n 0x64 28 == 0 && code % 8 == 0 && n 0x30 4 % 64 == 0 && n 0x58 4 < len
  let inside (off k : Nat) : Bool := off + k ≤ len
  let tables :=
    inside code codeLen && inside (n 0x28 4) (n 0x2C 4) && inside (n 0x30 4) (64 * n 0x34 4) && inside gt (8 * crew)
      && inside st (8 * nsafe) && inside lt (48 * nsafe) && inside (n 0x48 4) (n 0x4C 4) && inside (n 0x50 4) (n 0x54 4)
  if !fields || !tables || (crc32c zeroed).toNat != n 0x60 4 then none
  else
    match walkHeaders ((bs.drop code).take codeLen) level3 (codeLen / 8 + 1) 0 with
    | none => none
    | some hs =>
      let billets := (hs.filter (·.2)).map (·.1)
      let groups := (List.range crew).map fun g => (n (gt + 8 * g) 4, n (gt + 8 * g + 4) 1, n (gt + 8 * g + 5) 3)
      let safe := (List.range nsafe).map fun i =>
        (n (st + 8 * i) 4, n (st + 8 * i + 4) 4, (BitVec.ofNat 256 (n (lt + 48 * i) 32)), w64 (n (lt + 48 * i + 32) 8), n (lt + 48 * i + 40) 8)
      let okGroup (g : Nat × Nat × Nat) : Bool := billets.contains g.1 && g.2.1 ≤ 3 && g.2.2 == 0
      let okSafe (e : Nat × Nat × BitVec 256 × W64 × Nat) : Bool :=
        e.2.1 == 0 && e.2.2.2.2 == 0 && bitCount e.2.2.1 ≤ 16 && bitCount e.2.2.2.1 ≤ 16 && !e.2.2.2.1.getLsbD 0
          && e.2.2.1.toNat < 2 ^ regs
      if groups.all okGroup && safe.all okSafe && safe.map (·.1) == billets then
        some
          { level3 := level3, width := n 5 1, crew := crew, cord := n 7 1, regs := regs, integ := n 0x0A 1
            rings := slots.take rings, scratch := n 0x0C 4, fmt0 := fmtWord (w64 (n 0x18 8)), code := code, codeLen := codeLen
            groups := groups.map fun g => (g.1, roleOf g.2.1), safe := safe.map fun e => (e.1, e.2.2.1, e.2.2.2.1)
            headers := hs.map (·.1), length := len }
      else none

/-! Acceptance. -/

/-- A launch in its first state; what the origin gives is set by the caller. -/
def Launch.blank (part tenant il : Nat) (origin : Origin) : Launch :=
  { part := part, tenant := tenant, il := il, prio := 0, image := 0, args := 0, threads := 0, cords := 0, thresh := 0, peak := 0
    seq := 0, irq := false, runAnyway := false, origin := origin, deps := [], preload := 0, npreload := 0, state := .accepted
    answers := [], aborted := [], words := [], irqDue := false, age := 0, img := none, record := 0, placedCords := 0
    retiredCords := 0, counters := [], blocking := false, cordPhase := [], cordLatch := [] }

/-- The launch has ended and nothing of it is left to be done. -/
def Launch.over (l : Launch) : Bool :=
  (match l.state with
    | .done | .failed _ | .refused _ => true
    | _ => false) && l.words.isEmpty && !l.irqDue

/-- The launch has ended (R371). -/
def Launch.ended (l : Launch) : Bool :=
  match l.state with
  | .done | .failed _ | .refused _ => true
  | _ => false

/-- Two launches of one queue: a host queue of an interface, or the child queue of a tenant (R381). -/
def sameQueue (a b : Launch) : Bool :=
  match a.origin, b.origin with
  | .window f q _, .window g r _ => f = g && q = r
  | .window f q _, .packet g r _ => f = g && q = r
  | .packet f q _, .window g r _ => f = g && q = r
  | .packet f q _, .packet g r _ => f = g && q = r
  | .child _ _ _, .child _ _ _ => a.tenant = b.tenant
  | _, _ => false

/-- The identifier of a new launch, of 16 bits (R171, R214): the lowest that no tracked launch has, otherwise that of the launch that was
accepted longest ago and has ended; 0 is no launch. With none of either no launch is accepted (DESIGN CHOICE, log 95). -/
def State.launchId? (s : State) : Option Nat :=
  match ((List.range (min 65535 (s.launches.length + 1))).map (· + 1)).find? fun n => (s.launch? n).isNone with
  | some n => some n
  | none =>
    (s.launches.foldl (fun (b : Option (Nat × Nat)) e =>
      if e.2.over && (b.all fun x => e.2.age < x.2) then some (e.1, e.2.age) else b) none).map (·.1)

/-- Launches of a queue beyond the last 4,096 accepted ones are no longer tracked (R382). -/
def untrack (s : State) (l : Launch) : State :=
  let later (x : Launch) : Nat := (s.launches.filter fun e => sameQueue e.2 x && x.age < e.2.age).length
  { s with launches := s.launches.filter fun e => !(sameQueue e.2 l && e.2.over && 4096 ≤ later e.2) }

/-- A new launch is tracked; the answer is its identifier. -/
def addLaunch (s : State) (l : Launch) : State × Nat :=
  let id := s.launchId?.getD 1
  let l := { l with age := s.seed }
  let s := { s with launches := Tbl.put s.launches id l, seed := s.seed + 1 }
  (untrack s l, id)

/-! Host records (R370, R376). -/

/-- One sequence number comes after another, modulo 2^32 (DEDUCED, log 20). -/
def after32 (a b : Nat) : Bool :=
  let d := (a + 2 ^ 32 - b % 2 ^ 32) % 2 ^ 32
  0 < d && d < 2 ^ 31

/-- DEP i of a record. -/
def depField (r : LineData) (i : Nat) : W64 := w64 (lineField r (0x38 + 8 * i) 8)

/-- The conditions of Table 14.1 that need only the record. -/
def recordFieldsOk (r : LineData) (v2 : Bool) (q : Nat) (last : Option Nat) : Bool :=
  let n := lineField r
  let seq := n 0x34 4
  n 1 1 / 4 == 0 && n 3 1 ≤ 3 && n 6 2 ≤ 256 && n 8 8 % 128 == 0 && n 0x1E 2 == 0 && 1 ≤ n 0x20 4 && n 0x20 4 ≤ 2 ^ 24
    && n 0x28 8 % 16 == 0 && n 0x30 2 ≤ 256 && ((n 0x30 2 == 0) == (n 0x28 8 == 0)) && n 0x32 2 == 0
    && (match last with
      | some m => after32 seq m
      | none => true)
    && (List.range 4).all (fun i =>
      let d := depField r i
      fld d 36 28 == 0 && !(d.getLsbD 35 && fld d 32 3 == q && !after32 seq (fld d 0 32)))
    && (if v2 then n 0x58 8 % 8 == 0 else n 0x58 8 == 0 && n 0x7F 1 == 0) && n 0x60 30 == 0 && n 0x7E 1 == 0

/-- Launches of a queue interface that have not completed. -/
def State.pendingOf (s : State) (f q : Nat) : Nat :=
  (s.launches.filter fun e => !e.2.ended && match e.2.origin with
    | .window g r _ | .packet g r _ => f = g && q = r
    | .child _ _ _ => false).length

/-- Cluster ports and memory-side ports of a partition (R426). -/
def State.placeless (s : State) (p : Nat) : Bool := fld (s.part p).req 0 16 == 0 || (s.part p).k == 0

/-- The status of a record's checks before acceptance, steps 2 to 6 of R376; 0 when it is accepted. -/
def recordStatus (s : State) (f q : Nat) (v2 : Bool) (r : LineData) : Nat :=
  let qu := (s.func f).queue q
  let tenant := lineField r 4 2
  if lineField r 0 1 != (if v2 then 2 else 1) then 2
  else if !recordFieldsOk r v2 q qu.lastSeq then 1
  else
    match s.tenant? tenant with
    | none => 4
    | some t =>
      if t.func != f || fld qu.qcfg 16 16 != tenant then 4
      else if 4096 ≤ s.pendingOf f q || s.launchId?.isNone then 7
      else if s.placeless t.part || t.pool.isNone then 9
      else 0

/-- A refusal is noted in QSTAT (Table 14.3). -/
def noteRefusal (s : State) (f q status : Nat) : State :=
  let qu := (s.func f).queue q
  s.setQueue f q { qu with qstat := setFld (setFld qu.qstat 0 8 status) 24 8 (min 255 (fld qu.qstat 24 8 + 1)) }

/-- Accepts a record: the launch is tracked and ACCEPTED is written, with LAUNCHID 0 (R371, the example of R375). -/
def acceptRecord (s : State) (f q : Nat) (r : LineData) (origin : Origin) : State :=
  let n := lineField r
  let t := ((s.tenant? (n 4 2)).map (·.part)).getD 0
  let deps := ((List.range 4).map (depField r)).filter fun d => d.getLsbD 35
  let l : Launch :=
    { Launch.blank t (n 4 2) (n 3 1) origin with
      prio := n 2 1, image := w64 (n 8 8), args := w64 (n 0x10 8), threads := n 0x18 6, cords := n 0x20 4, thresh := n 0x24 4
      peak := n 6 2, seq := n 0x34 4, irq := n 1 1 % 2 == 1, runAnyway := n 1 1 / 2 % 2 == 1
      deps := deps.map fun d => .seq (fld d 32 3) (fld d 0 32), preload := w64 (n 0x28 8), npreload := n 0x30 2 }
  let (s, id) := addLaunch s l
  let s := s.setQueue f q { (s.func f).queue q with lastSeq := some (n 0x34 4) }
  addWord s id (completionWord 1 0 0)

/-! Launch windows (R372). -/

def Queue.v2 (q : Queue) : Bool := q.qcfg.getLsbD 5
def Queue.en (q : Queue) : Bool := q.qcfg.getLsbD 4
def Queue.revoked (q : Queue) : Bool := q.qpasid.getLsbD 31

/-- LAUNCH_WINDOW_ARM (R372): the snapshot is parsed at the arming; STATUS and ARM are written when the position is released. -/
def execLaunchWindowArm (func queue pos : Nat) (record : BitVec 1024) (s : State) : Host.Outcome State Fault Refusal :=
  .next (fromHost s (
    let qu := (s.func func).queue queue
    let count (s : State) (lo : Nat) : State :=
      s.setQueue func queue { qu with qstat := setFld qu.qstat lo 8 (min 255 (fld qu.qstat lo 8 + 1)) }
    if !qu.v2 || lineField record 0x7F 1 != 0xA5 then count s 8
    else if qu.armed.any fun e => e.1 = pos then count s 16
    else
      let status := if !qu.en then 8 else if qu.revoked then 6 else recordStatus s func queue true record
      let s := s.setQueue func queue
        { qu with window := Tbl.put qu.window pos record, armed := qu.armed ++ [(pos, status)] }
      if status = 0 then acceptRecord s func queue record (.window func queue (w64 (lineField record 0x58 8)))
      else noteRefusal s func queue status))

/-- The monitor writes STATUS, then ARM := 0, and releases the position (R372 step 4). -/
def releaseWindow (s : State) (f q : Nat) : State :=
  let qu := (s.func f).queue q
  match qu.armed with
  | [] => s
  | (pos, status) :: rest =>
    let line := mergeLine (Tbl.getD qu.window pos 0) (lineWith 0x7E 2 status) (byteSpan 0x7E 2)
    s.setQueue f q { qu with window := Tbl.put qu.window pos line, armed := rest }

/-! Packets (R374, R375). -/

/-- An access of BAR 0 or BAR 2 that the device takes: 4 or 8 bytes, naturally aligned; any other completes with an unsupported-request
status and has no effect (R25). -/
def regAccess (off size : Nat) : Bool := (size = 4 || size = 8) && off % size = 0

/-- A write of a function's BAR 2: QTAIL lies at offset 0 of each notify page, and a write to any other offset is ignored (R25, R373). -/
def writeNotify (s : State) (func off size : Nat) (value : W64) : State :=
  if regAccess off size && off % 4096 = 0 then
    s.setQueue func (off / 4096) { (s.func func).queue (off / 4096) with qtail := value.setWidth 32 }
  else s

/-- What a host read of a function's BAR 2 gives: 0, or none with an unsupported-request status (R25, R373). -/
def readNotify (off size : Nat) : Option Nat := if regAccess off size then some 0 else none

/-- QTAIL_WRITE (R373): a 4-byte write at offset 0 of the notify page. -/
def execQtailWrite (func queue : Nat) (tail : BitVec 32) (s : State) : Host.Outcome State Fault Refusal :=
  .next (fromHost s (writeNotify s func (4096 * queue) 4 (tail.setWidth 64)))

/-- A byte of HDM range 1 as the host reads it, in a function's window of a queue interface (Table 1.4, R372): what was written there, with
the monitor's STATUS and ARM; 0 while V2 is 0. -/
def windowByte (s : State) (func queue off : Nat) : Byte :=
  let qu := (s.func func).queue queue
  if qu.v2 then (Tbl.getD qu.window (off / 128) 0).extractLsb' (8 * (off % 128)) 8 else 0

/-- A host read of HDM range 1: function f's windows lie at f x 32 KiB, and queue interface q's at q x 4 KiB in them (Table 1.4). -/
def readWindows (s : State) (off len : Nat) : List Byte :=
  (List.range len).map fun i => windowByte s ((off + i) / 0x8000) ((off + i) / 0x1000 % 8) ((off + i) % 0x1000)

/-- log2 of the ring's packets (Table 14.3). -/
def Queue.logN (q : Queue) : Nat := if 4 ≤ fld q.qcfg 0 4 && fld q.qcfg 0 4 ≤ 12 then fld q.qcfg 0 4 else 4

/-- The next packet of an interface, if the device reads one (R374). -/
def State.packet? (s : State) (f q : Nat) : Option (List Byte) :=
  let qu := (s.func f).queue q
  if s.hostUp && qu.en && !qu.v2 && qu.qhead != qu.qtail then
    some (readHost s (qu.qbase.toNat / 4096 * 4096 + 64 * (qu.qhead.toNat % 2 ^ qu.logN)) 64)
  else none

/-- The packet is consumed (R374). -/
def consume (s : State) (f q : Nat) : State :=
  let qu := (s.func f).queue q
  s.setQueue f q { qu with qhead := qu.qhead + 1 }

/-- A packet is refused: its status goes to STATUSADDR, where that is aligned (R375); a word that the host refuses is dropped (R371). -/
def refusePacket (s : State) (f q : Nat) (pkt : List Byte) (status : Nat) : State :=
  let a := numAt pkt 0x10 8
  let s := noteRefusal s f q status
  if a % 8 != 0 then s
  else if s.hostRefuses a 8 then reportDrop s 10 (fld ((s.func f).queue q).qcfg 16 16) a (s.func f).funcpart
  else writeHost s a (toBytes 8 (completionWord 4 status 0).toNat)

/-- Steps 1 to 3 of R375; 0 when none refuses. -/
def packetStatus (s : State) (f q : Nat) (pkt : List Byte) : Nat :=
  let qu := (s.func f).queue q
  let pasid := numAt pkt 4 4 % 2 ^ 20
  let known := (List.range 8).any fun i =>
    let x := (s.func f).queue i
    !x.revoked && fld x.qpasid 0 20 == pasid
  if qu.revoked || !known then 6
  else if pasid != fld qu.qpasid 0 20 then 4
  else if numAt pkt 1 3 != 0 || numAt pkt 4 4 / 2 ^ 20 != 0 || numAt pkt 8 8 % 128 != 0 || numAt pkt 0x10 8 % 8 != 0
      || numAt pkt 0x18 40 != 0 then 1
  else 0

/-- PACKET_LAUNCH (R375). A refusal that the record's own checks give raises the interrupt that its FLAGS ask for (R371). -/
def execPacketLaunch (func queue : Nat) (s : State) : Host.Outcome State Fault Refusal :=
  .next (match s.packet? func queue with
    | none => s
    | some pkt =>
      if numAt pkt 0 1 != 1 then s
      else
        let s := consume s func queue
        let st := packetStatus s func queue pkt
        if st != 0 then refusePacket s func queue pkt st
        else if s.hostRefuses (numAt pkt 8 8) 128 then refusePacket s func queue pkt 3
        else
          let r := lineOf (readHost s (numAt pkt 8 8) 128)
          let st := recordStatus s func queue false r
          if st = 0 then acceptRecord s func queue r (.packet func queue (numAt pkt 0x10 8))
          else
            let s := refusePacket s func queue pkt st
            if lineField r 1 1 % 2 = 1 then queueInterrupt s func queue else s)

/-- PACKET_NOP (R374). -/
def execPacketNop (func queue : Nat) (s : State) : Host.Outcome State Fault Refusal :=
  .next (match s.packet? func queue with
    | some pkt => if numAt pkt 0 1 = 0 then consume s func queue else s
    | none => s)

/-- PACKET_OTHER_OP (R374). -/
def execPacketOtherOp (func queue : Nat) (s : State) : Host.Outcome State Fault Refusal :=
  .next (match s.packet? func queue with
    | some pkt => if 1 < numAt pkt 0 1 then refusePacket (consume s func queue) func queue pkt 1 else s
    | none => s)

/-! Images. -/

/-- An access for a launch waits on a page request or a walk. -/
def State.asking (s : State) (w : Walker) : Bool :=
  (s.mmu.requests.any fun r => r.engines.any fun e => e.who = w) || s.mmu.walks.any fun e => e.2.waiters.any fun x => x.1 = w

/-- What a read for a launch came to. -/
inductive Got where
  | bytes (bs : List Byte)
  | waits
  | failed
  deriving DecidableEq, Repr

/-- Reads bytes for a launch, under its tenant (R377, R383): a miss is walked, a missing entry makes a page request, the host and peers are
asked. -/
def launchRead (s : State) (l : Nat) (x : Launch) (acc : Access) (va n : Nat) : State × Got :=
  match hwRead s ctlCore x.part x.tenant acc x.faults x.answers va n with
  | .ok s (.ok bs) => (s, .bytes bs)
  | .ok s (.error (.absent st lv tb en ad, a)) =>
    ((attachReq (s.updLaunch l fun x => { x with faults := [] }) x.tenant st lv tb en ad acc []
      [{ who := .launch l, addr := w64 a, access := acc }]).1, .waits)
  | .ok s (.error (.trap cause d, a)) => (noteXlate s x.tenant cause d (w64 a), .failed)
  | .stop s w =>
    let lost := match w with
      | .remoteRead _ line _ => (Tbl.find? x.aborted line).isSome
      | _ => false
    if w.fatal || lost then (s, .failed) else (waitOn s (.launch l) x.part x.tenant w, .waits)

/-- A cached image of a tenant (R377). -/
def Partition.image? (p : Partition) (tenant : Nat) (a : W64) : Option Image :=
  (p.images.find? fun e => e.1 = tenant && e.2.1 = a).map (·.2.2)

/-- The image becomes the one named last of the 64 that are kept (R377). -/
def keepImage (s : State) (part tenant : Nat) (a : W64) (im : Image) : State :=
  let p := s.part part
  s.setPart part
    { p with images := ((tenant, a, im) :: p.images.filter fun e => !(e.1 = tenant && e.2.1 = a)).take 64 }

/-- Rows that a group reserves (R385). -/
def rowsOf (width peak : Nat) : Nat := if width = 64 then 2 * peak else if width = 16 then (peak + 1) / 2 else peak

/-- Groups of a crew of n on each quarter (Table 7.1). -/
def quarterCount (n q : Nat) : Nat := ((List.range n).filter fun g => g % 4 = q).length

/-- Both clusters of a pair lie in a partition. -/
def State.wholePair (s : State) (p k : Nat) : Bool := s.ownsCluster p (2 * k) && s.ownsCluster p (2 * k + 1)

/-- A core may be used: not retired (R423). -/
def State.coreRetired (s : State) (c : Nat) : Bool := Tbl.getD s.dev.retired (scoreCore c) false

/-- The cores of a pair on which crews of a level could ever lie, in whatever mode the Collier puts the pair (R384): none that is retired, and
at IL2 and IL3 those of a clamp, which stands or can still be formed (R422). -/
def State.coresEver (s : State) (p il k : Nat) : List Nat :=
  let sound (c : Nat) : Bool := !s.coreRetired c
  if il < 2 then ((List.range 16).map (16 * k + ·)).filter fun c => s.ownsCluster p (c / 8) && sound c
  else
    let x := s.pair k
    let stands := x.mode = 1 || x.mode = 2 || (x.mode = 3 && !x.apart)
    if s.wholePair p k && (stands || (List.range 16).all fun i => sound (16 * k + i)) && !Tbl.getD s.dev.retired (scorePair k) false then
      ((List.range 8).map (16 * k + ·)).filter fun c => sound c && sound (c + 8)
    else []

/-- The launch could never be placed (Table 14.4 status 9, R384, R385). -/
def State.neverFits (s : State) (x : Launch) (im : Image) (peak : Nat) : Bool :=
  s.placeless x.part || ((s.tenant? x.tenant).bind (·.pool)).isNone
    || ((List.range 8).all fun k => (s.coresEver x.part x.il k).length < max 1 im.cord)
    || (List.range 4).any fun q => 512 < quarterCount im.crew q * rowsOf im.width peak

/-- The checks that need the image, in the order of R376; 0 when all pass. -/
def imageStatus (s : State) (x : Launch) (im : Image) : Nat :=
  let per := im.cord * im.crew * im.width
  let peak := if x.peak = 0 then im.regs else x.peak
  if !((x.cords - 1) * per < x.threads && x.threads ≤ x.cords * per) then 1
  else if x.il < im.integ || (2 ≤ x.il && 8 < im.cord) then 5
  else if s.neverFits x im peak then 9
  else 0

/-- An image has been found: the launch becomes a candidate, or is refused (R376, R378). -/
def imageFound (s : State) (l : Nat) (x : Launch) (im : Image) : State :=
  let st := imageStatus s x im
  if st != 0 then refuseLaunch s l st
  else
    s.updLaunch l fun x =>
      { x with img := some im, peak := if x.peak = 0 then im.regs else x.peak, state := .candidate, answers := [], aborted := [], faults := [] }

/-- IMAGE_CHECK (R377, R226, R376): what has to wait is tried again. -/
def execImageCheck (launch : Nat) (s : State) : Host.Outcome State Fault Refusal :=
  .next (match s.launch? launch with
    | none => s
    | some x =>
      if x.state != .accepted || s.asking (.launch launch) then s
      else
        match (s.part x.part).image? x.tenant x.image with
        | some im => imageFound (keepImage s x.part x.tenant x.image im) launch x im
        | none =>
          match launchRead s launch x .read x.image.toNat 128 with
          | (s, .waits) => s
          | (s, .failed) => refuseLaunch s launch 3
          | (s, .bytes h) =>
            if numAt h 0x5C 4 < 128 || numAt h 0 4 != 0x4E4B5051 then refuseLaunch s launch 3
            else
              match launchRead s launch x .read x.image.toNat (numAt h 0x5C 4) with
              | (s, .waits) => s
              | (s, .failed) => refuseLaunch s launch 3
              | (s, .bytes bs) =>
                match kernelImage bs with
                | none => refuseLaunch s launch 3
                | some im => imageFound (keepImage s x.part x.tenant x.image im) launch x im)

/-! Child launches. -/

/-- CQUOTA of a tenant (Table 14.3): that of queue interface 0 of its function. -/
def State.cquota (s : State) (tenant : Nat) : Nat :=
  max 1 (min 1024 (fld ((s.func (s.funcOf tenant)).queue 0).qquota 0 11))

/-- Child launches of a tenant that are not complete (R379). -/
def State.children (s : State) (tenant : Nat) : Nat :=
  (s.launches.filter fun e => e.2.tenant = tenant && !e.2.ended && match e.2.origin with
    | .child _ _ _ => true
    | _ => false).length

/-- The tokens of a launch that the quota refuses, and of one whose record's own fields are at fault: FAILED with REASON 1 and 2 (R273). -/
def quotaToken : W64 := 0x101#64
def recordToken : W64 := 0x201#64

/-- The fields of a child record are in range (Table 14.5). -/
def childFieldsOk (n : Nat → Nat → Nat) : Bool :=
  n 0 8 % 128 == 0 && n 0x17 1 == 0 && 1 ≤ n 0x18 4 && n 0x18 4 ≤ 2 ^ 24 && n 0x28 2 ≤ 256 && n 0x2A 22 == 0

/-- A field of a child record. -/
def childField (record : Block) (off len : Nat) : Nat := record.toNat / 2 ^ (8 * off) % 2 ^ (8 * len)

/-- LAUNCH writes a token that is known at once, and retires (R273). -/
def launchToken (s : State) (c : Ctx) (reg : Nat) (v : W64) : State :=
  ((s.updSplit c.r fun sp => { (sp.setS reg v) with fresh := sp.fresh.erase reg }).seal c.r).retire c.r

/-- A record goes to the distributor, and the token is still to come (R273 step 4). -/
def launchChild (s : State) (c : Ctx) (reg : Nat) (record : Block) : State :=
  let l : Launch :=
    { Launch.blank c.part c.launch.tenant c.launch.il (.child c.r.group c.r.split reg) with
      state := .received, prio := c.launch.prio, record := record }
  let s := (addLaunch s l).1
  let s := s.updSplit c.r fun sp =>
    if reg = 0 then sp else { sp with pend := sp.pend ++ [reg], fresh := sp.fresh.erase reg }
  (s.seal c.r).retire c.r

/-- LAUNCH (R273, R379): a fault in the record's own fields is answered before the split's next instruction. -/
def execLaunch (f : RF) (s : State) : Host.Outcome State Fault Refusal :=
  withCtx s fun c =>
    let a := c.sp.s f.sa.toNat
    once s c f.g
      (if s.cquota c.launch.tenant ≤ s.children c.launch.tenant || s.launchId?.isNone then launchToken s c f.dst.toNat quotaToken
      else if a.toNat % 64 != 0 then raise s c causeAlign c.sp.mask (sector a)
      else
        withBytes s c c.sp.mask a.toNat 64 fun s bs =>
          withRelease s c true 3 fun s =>
            let record : Block := BitVec.ofNat 512 (leBytes bs)
            held s c 6 (w64 (leBytes (bs.take 8)))
              (if childFieldsOk (childField record) then launchChild s c f.dst.toNat record
               else launchToken s c f.dst.toNat recordToken))

/-- CHILD_RECORD_RECEIVE (R378, R380). -/
def execChildRecordReceive (launch : Nat) (s : State) : Host.Outcome State Fault Refusal :=
  .next (match s.launch? launch with
    | none => s
    | some x =>
      if x.state != .received then s
      else
        let n := childField x.record
        if !childFieldsOk n || s.placeless x.part || ((s.tenant? x.tenant).bind (·.pool)).isNone then refuseLaunch s launch 1
        else
          s.updLaunch launch fun x =>
            { x with
              state := .accepted, image := w64 (n 0 8), args := w64 (n 8 8), threads := n 0x10 6, prio := min (n 0x16 1) x.prio
              cords := n 0x18 4, thresh := n 0x1C 4, peak := n 0x28 2
              deps := ([n 0x20 4, n 0x24 4].filter (· != 0)).map .launch })

end Sys2Proof.Machine
end

