-- ==== Sys2Proof/Machine/Place.lean ====
section
/-! DEFINITION. The distributor: dependences, preloads, placement and retirement (14 R381 to R386; 07 R169 to R172, R198; 01 R26,
R27; 12 R333), and the replies to page requests (06 R163, R164, R167). -/

namespace Sys2Proof.Machine

/-! Dependences (R382). -/

/-- What a dependence stands at. -/
inductive DepState where
  | met
  | pending
  | broken
  deriving DecidableEq, Repr

/-- A launch as a dependence of a tenant's launch: one that is refused was never a launch (R376, R382). -/
def Launch.asDep (x : Launch) (tenant : Nat) : DepState :=
  if x.tenant != tenant then .met
  else match x.state with
    | .done | .refused _ => .met
    | .failed _ => .broken
    | _ => .pending

/-- A launch of a queue interface of a function with a SEQ, the one accepted last. -/
def State.launchSeq (s : State) (f q seq : Nat) : Option Launch :=
  s.launches.foldl (fun b e =>
    let mine := match e.2.origin with
      | .window g r _ | .packet g r _ => f = g && q = r
      | .child _ _ _ => false
    if mine && e.2.seq = seq && (b.all fun y => y.age < e.2.age) then some e.2 else b) none

/-- The function and queue interface of a host launch. -/
def Launch.iface (x : Launch) : Option (Nat × Nat) :=
  match x.origin with
  | .window f q _ | .packet f q _ => some (f, q)
  | .child _ _ _ => none

def depState (s : State) (x : Launch) : Dep → DepState
  | .launch id =>
    match s.launch? id with
    | some y => y.asDep x.tenant
    | none => .met
  | .seq q n =>
    match x.iface with
    | none => .met
    | some (f, own) =>
      match s.launchSeq f q n with
      | some y => y.asDep x.tenant
      | none =>
        if q = own then .met
        else match ((s.func f).queue q).lastSeq with
          | none => .pending
          | some m => if after32 n m then .pending else .met

/-- A dependence has failed and the launch does not run anyway (R382). -/
def depBroken (s : State) (x : Launch) : Bool := !x.runAnyway && x.deps.any fun d => depState s x d = .broken

def depsMet (s : State) (x : Launch) : Bool := x.deps.all fun d => depState s x d != .pending

/-! Candidates (R381, R383, R384). -/

/-- Every earlier launch of the same host queue has placed its first cord, or has ended (R381). -/
def queueOk (s : State) (x : Launch) : Bool :=
  x.iface.isNone || s.launches.all fun e => !(sameQueue e.2 x && e.2.age < x.age) || 0 < e.2.placedCords || e.2.ended

/-- A launch whose preloads have not ended (R383). -/
def Launch.preloads (x : Launch) : Bool :=
  x.npreload != 0 && match x.state with
    | .accepted | .candidate | .preloading => true
    | _ => false

/-- Waiting for a cord to be placed: the image has been checked, and the preloads of this launch and of earlier ones of the
partition have ended. -/
def isCandidate (s : State) (x : Launch) : Bool :=
  (match x.state with
    | .candidate => x.npreload = 0
    | .ready => true
    | _ => false) && x.placedCords < x.cords && depsMet s x && !depBroken s x && queueOk s x
    && s.launches.all fun e => !(e.2.part = x.part && e.2.age < x.age && e.2.preloads)

/-- Earlier in the distributor's order: higher priority, then earlier acceptance (R384). -/
def before (x y : Launch) : Bool := y.prio < x.prio || (x.prio = y.prio && x.age < y.age)

/-- Puts an element in its place in a sorted list. -/
def insertBy {α : Type} (lt : α → α → Bool) (a : α) : List α → List α
  | [] => [a]
  | b :: t => if lt a b then a :: b :: t else b :: insertBy lt a t

def sortBy {α : Type} (lt : α → α → Bool) (l : List α) : List α := l.foldr (insertBy lt) []

/-- The candidates of a partition, in the order in which the distributor tries them. -/
def State.candidates (s : State) (p : Nat) : List (Nat × Launch) :=
  sortBy (fun a b => before a.2 b.2) (s.launches.filter fun e => e.2.part = p && isCandidate s e.2)

/-! Fit (R385). -/

/-- What a crew needs of a core: rows and groups of each quarter, scratchpad bytes, and its tenant. -/
structure Need where
  rows : List Nat
  groups : List Nat
  scratch : Nat
  tenant : Nat
  deriving DecidableEq, Repr

/-- Resident groups of a core on a quarter: those of crews that are not saved. -/
def State.groupsAt (s : State) (core q : Nat) : List Group :=
  (s.groups.map (·.2)).filter fun g => g.grpid % 4 = q && (s.crew? g.crew).any fun c => c.core = core && !c.saved

/-- Rows that a resident group has reserved (R385). -/
def State.rowsFor (s : State) (g : Group) : Nat := rowsOf g.width (((s.launch? g.launch).map (·.peak)).getD 0)

def State.rowsUsed (s : State) (core q : Nat) : Nat := ((s.groupsAt core q).map s.rowsFor).sum

/-- Crews that hold a context on a core. -/
def State.crewsAt (s : State) (core : Nat) : List (Nat × Crew) := s.crews.filter fun e => e.2.core = core && !e.2.saved

/-- The lazy state of a crew stays in place on its core: the crew is saved, and its lazy state is not (R399). -/
def State.lazyHere (s : State) (e : Nat × Crew) : Bool := e.2.saved && (Tbl.find? s.lazy e.1).isNone

/-- Scratchpad allocations of a core (R26). -/
def State.allocs (s : State) (core : Nat) : List (Nat × Nat) :=
  (s.crews.filter fun e => e.2.core = core && 0 < e.2.scratchSize && (!e.2.saved || s.lazyHere e)).map fun e =>
    (e.2.scratchBase, e.2.scratchSize)

/-- The lowest free place for an allocation (R26, R385 bound 2). -/
def State.scratchPlace (s : State) (core size : Nat) : Option Nat :=
  let as := s.allocs core
  let ok (b : Nat) : Bool := b + size ≤ 262144 && as.all fun a => b + size ≤ a.1 || a.1 + a.2 ≤ b
  (sortBy (fun a b => decide (a < b)) (0 :: as.map fun a => a.1 + a.2)).find? ok

/-- The tenant of a crew. -/
def State.tenantOf (s : State) (c : Crew) : Nat := ((s.launch? c.launch).map (·.tenant)).getD 0

/-- Where a crew fits on a core: the place of its scratchpad (R385). Another tenant's lazy state has to be saved first (R399). -/
def State.fits (s : State) (core : Nat) (n : Need) : Option Nat :=
  let quarters := (List.range 4).all fun q =>
    s.rowsUsed core q + n.rows.getD q 0 ≤ 512 && (s.groupsAt core q).length + n.groups.getD q 0 ≤ 16
  let foreign := s.crews.any fun e => e.2.core = core && s.lazyHere e && s.tenantOf e.2 != n.tenant
  if quarters && (s.crewsAt core).length < 8 && !foreign then s.scratchPlace core n.scratch else none

/-- A core that may take a crew of a level (R384, R405, R423). -/
def State.coreOpen (s : State) (p il core : Nat) : Bool :=
  let k := core / 16
  let free (u : Nat) : Bool := !Tbl.getD s.dev.testing u false && !Tbl.getD s.dev.retired u false
  s.ownsCluster p (core / 8) && free (scoreCore core)
    && if 2 ≤ il then
        core % 16 < 8 && (s.pair k).mode = 2 && s.ownsCluster p (2 * k + 1) && free (scoreCore (core + 8)) && free (scorePair k)
      else (s.pair k).mode = 0

/-- The cores of a pair on which a cord may lie. -/
def State.pairCores (s : State) (p il k : Nat) : List Nat := ((List.range 16).map (16 * k + ·)).filter (s.coreOpen p il)

/-- Rows in use on a core. -/
def State.rowsTotal (s : State) (core : Nat) : Nat := ((List.range 4).map (s.rowsUsed core)).sum

/-- Cores for the crews of a cord in one pair: those with the most free rows, the lowest number winning a tie (R384). -/
def State.pickCores (s : State) (p il k n : Nat) (need : Need) : Option (List (Nat × Nat)) :=
  let fit := (s.pairCores p il k).filterMap fun c => (s.fits c need).map fun b => (s.rowsTotal c, c, b)
  let l := sortBy (fun a b => a.1 < b.1 || (a.1 = b.1 && a.2.1 < b.2.1)) fit
  if l.length < n then none else some ((l.take n).map (·.2))

/-- The place of a cord: the pair of the core with the most free rows. -/
def State.cordPlace (s : State) (p il n : Nat) (need : Need) : Option (List (Nat × Nat)) :=
  let best (l : List (Nat × Nat)) : Nat × Nat := (((l.head?.map (·.1)).map s.rowsTotal).getD 0, (l.head?.map (·.1)).getD 0)
  let all := (List.range 8).filterMap fun k => s.pickCores p il k n need
  (sortBy (fun a b => (best a).1 < (best b).1 || ((best a).1 = (best b).1 && (best a).2 < (best b).2)) all).head?

/-- Free 256 KiB slots of a tenant's context pool (R398). -/
def Tenant.freeSlots (t : Tenant) : List Nat :=
  match t.pool with
  | none => []
  | some (_, len) => (List.range (len / 2 ^ 18)).filter fun k => !t.poolUsed.contains k

/-! Placement. -/

/-- A split as a group's first instruction finds it (R213); that instruction is an acquire of .dev scope (R137, R139). -/
def Split.first (l : Launch) (im : Image) (entry : Nat) (mask : LaneMask) : Split :=
  { pc := l.image + w64 (im.code + entry), mask := mask, fmt := im.fmt0
    sregs := [(1, l.image), (2, l.args)], sseed := 0, pend := [], stack := [], trecs := [], tseed := 0, trapCause := 0, trapPc := 0
    trapMask := 0, trapAddr := 0, repcnt := 0, mprog := 0, trap := none, pendingTrap := none, latch := none, clause := none
    resume := none, rep := none, wait := .none, paused := false, lift := 0, yieldOn := [], issuedAt := 0, billet := none
    staged := none, retry := none, retried := false, sealed := false, arv := [], unfinished := none, faults := [], answers := []
    aborted := none, matched := false, acquire := 3 }

/-- The lanes of a group that the thread count reaches (R172). -/
def onLanes (threads first width : Nat) : LaneMask := BitVec.ofNat 64 (2 ^ min width (threads - first) - 1)

/-- A matrix-role group is resident on a core, or its array state stays in place (R399). -/
def State.matrixHere (s : State) (core : Nat) : Bool :=
  s.crews.any fun e => e.2.core = core && (!e.2.saved || s.lazyHere e) && (s.groupsOf e.1).any fun g => g.2.role = .matrix

/-- A core is made ready for a crew of a tenant (R27, R333): what another tenant left is cleared, the rest is undefined. -/
def prepareCore (s : State) (core tenant base size : Nat) : State :=
  let x := s.core core
  let blocks := (List.range (size / 1024)).map (base / 1024 + ·)
  let foreign (b : Nat) : Bool := (Tbl.find? x.scratchTenant b).any fun t => t != tenant
  let x := { x with
    scratch := x.scratch.filter fun e => !(base ≤ e.1 && e.1 < base + size)
    scratchSeed := blocks.foldl (fun t b => if foreign b then Tbl.del t b else Tbl.put t b s.seed) x.scratchSeed
    scratchTenant := blocks.foldl (fun t b => Tbl.put t b tenant) x.scratchTenant }
  let x :=
    if x.lastTenant.any fun t => t != tenant then
      { x with operand := [], operandSeed := 0, acc := [], accSeed := 0, tagI := [], scale := [], scaleSeed := 0 }
    else if s.matrixHere core then x
    else
      { x with
        operand := [], operandSeed := s.seed, acc := [], accSeed := s.seed, tagI := [], scale := [], scaleSeed := s.seed }
  { s.setCore core { x with lastTenant := some tenant } with seed := s.seed + 1 }

/-- A group of a crew (R169, R172, R213), with its regions of the context pool (R32, R398). -/
def addGroup (s : State) (lid : Nat) (l : Launch) (im : Image) (crew cord crewid g : Nat) : State :=
  let width := im.width
  let first := ((cord * im.cord + crewid) * im.crew + g) * width
  let mask := onLanes l.threads first width
  let entry := im.groups.getD g (0, .general)
  let t := s.tenant? l.tenant
  let base := ((t.bind (·.pool)).map (·.1)).getD 0
  let slots := ((t.map (·.freeSlots)).getD []).take (if 2 ≤ l.il then 2 else 1)
  let region (i : Nat) : W64 := if i < slots.length then base + w64 (slots.getD i 0 * 2 ^ 18) else 0
  let grp : Group :=
    { launch := lid, cord := cord, crew := crew, grpid := g, width := width, regs := im.regs, role := entry.2
      splits := if mask = 0 then [] else [(0, Split.first l im entry.1 mask)], vregs := [], vseed := [], preds := [], exited := 0
      off := BitVec.ofNat 64 (2 ^ width - 1) &&& ~~~mask, gang := 0, skew := 0, sticky := 0, region := region 0, region2 := region 1 }
  { s with
    groups := Tbl.put s.groups s.seed grp, seed := s.seed + 1
    tenants := Tbl.upd s.tenants l.tenant fun t => { t with poolUsed := t.poolUsed ++ slots } }

/-- A crew of a cord on a core (R26, R184, R186). -/
def addCrew (s : State) (lid : Nat) (l : Launch) (im : Image) (cord crewid core base : Nat) : State :=
  let size := (im.scratch + 1023) / 1024 * 1024
  let s := prepareCore s core l.tenant base size
  let h := s.seed
  let crew : Crew :=
    { launch := lid, cord := cord, crewid := crewid, core := core, scratchBase := base, scratchSize := size, rings := im.rings
      ringPhase := [], bars := [], cbarLanes := [], saved := false, toSave := [], lazySlot := none, preempt := false }
  let s := { s with crews := Tbl.put s.crews h crew, seed := h + 1 }
  (List.range im.crew).foldl (fun s g => addGroup s lid l im h cord crewid g) s

/-- What a crew of an image needs. -/
def needOf (l : Launch) (im : Image) : Need :=
  { rows := (List.range 4).map fun q => quarterCount im.crew q * rowsOf im.width l.peak
    groups := (List.range 4).map (quarterCount im.crew), scratch := (im.scratch + 1023) / 1024 * 1024, tenant := l.tenant }

/-- Places the next cord of a launch on the cores chosen. Groups with no lane retire at once (R172). -/
def commitCord (s : State) (lid : Nat) (l : Launch) (im : Image) (cores : List (Nat × Nat)) : State :=
  let cord := l.placedCords
  let s := cores.zipIdx.foldl (fun s e => addCrew s lid l im cord e.2 e.1.1 e.1.2) s
  let s := s.updLaunch lid fun l =>
    { l with placedCords := cord + 1, blocking := false, state := if cord + 1 = l.cords then .placed else l.state }
  let idle := (s.groups.filter fun e => e.2.launch = lid && e.2.cord = cord && e.2.splits.isEmpty).map (·.1)
  idle.foldl retireGroup s

/-- A cord of a launch can be placed now. -/
def tryCord (s : State) (lid : Nat) (l : Launch) : Option State :=
  match l.img with
  | none => none
  | some im =>
    let slots := ((s.tenant? l.tenant).map (·.freeSlots.length)).getD 0
    if slots < im.cord * im.crew * (if 2 ≤ l.il then 2 else 1) then none
    else (s.cordPlace l.part l.il im.cord (needOf l im)).map (commitCord s lid l im)

/-- The first candidate that fits; one that is blocking holds back those of equal or lower priority accepted after it (R384). -/
def firstFit (s : State) : List (Nat × Launch) → List Launch → Option State
  | [], _ => none
  | e :: rest, held =>
    if held.any fun b => e.2.prio ≤ b.prio && b.age < e.2.age then firstFit s rest held
    else
      match tryCord s e.1 e.2 with
      | some s' => some s'
      | none => firstFit s rest (if e.2.blocking then e.2 :: held else held)

/-- Cords whose crews a waiting candidate may displace (R384, R395): those of a lower place in the distributor's order. -/
def State.victims (s : State) (x : Launch) : List (Nat × Nat) :=
  ((s.crews.map (·.2)).filter fun c => !c.saved && (s.launch? c.launch).any fun l =>
    l.part = x.part && (l.prio < x.prio || (x.blocking && l.prio = x.prio && x.age < l.age))).map (fun c => (c.launch, c.cord))
    |>.eraseDups

/-- Asks for the pre-emption of a cord (R395). -/
def askPreempt (s : State) (launch cord : Nat) : State :=
  { s with crews := Tbl.mapVal (fun _ c => if c.launch = launch && c.cord = cord && !c.saved then { c with preempt := true } else c) s.crews }

/-- The pair that a candidate could use if nothing were resident. -/
def State.couldFit (s : State) (x : Launch) (im : Image) : Bool :=
  (List.range 8).any fun k => im.cord ≤ (s.pairCores x.part x.il k).length

/-- Pre-emption for the first waiting candidate; which cord is displaced is not said (R384). -/
def preemptFor (s : State) (p : Nat) : Option State :=
  match s.candidates p with
  | [] => none
  | (_, x) :: _ =>
    let v := s.victims x
    if v.isEmpty || s.crews.any (fun e => e.2.preempt) || !(x.img.any (s.couldFit x)) then none
    else
      let pick := v.getD (Config.pick s.steps % v.length) (0, 0)
      some (askPreempt s pick.1 pick.2)

/-- A slice, bank or port of a partition is in its targeted test, and nothing else uses it (R423). -/
def State.underTest (s : State) (p : Nat) : Bool :=
  (s.part p).ports.any fun m =>
    ([scorePort m, scoreBank m] ++ (List.range 4).map fun j => scoreSlice (4 * m + j)).any fun u => Tbl.getD s.dev.inTest u false
/-- What the distributor does in a partition, if anything: a launch whose dependence failed ends with 0x40 (R382), a cord is
placed, or a pre-emption is asked for. Nothing is placed in a partition in reset (R436). -/
def placeStep (s : State) (p : Nat) : Option State :=
  if (s.part p).pstate = 2 || s.underTest p then none
  else
    match s.launches.find? fun e => e.2.part = p && !e.2.ended && e.2.placedCords = 0 && e.2.state != .received && depBroken s e.2 with
    | some (l, _) => some (abortLaunch s l 0x40)
    | none =>
      match firstFit s (s.candidates p) [] with
      | some s' => some s'
      | none => preemptFor s p

/-- CORD_PLACE (R384, R385). -/
def execCordPlace (part : Nat) (s : State) : Host.Outcome State Fault Refusal := .next ((placeStep s part).getD s)

/-- CANDIDATE_BLOCKING (R384). -/
def execCandidateBlocking (launch : Nat) (s : State) : Host.Outcome State Fault Refusal :=
  .next (match s.launch? launch with
    | some x => if isCandidate s x then s.updLaunch launch fun x => { x with blocking := true } else s
    | none => s)

/-- A group may retire: its lanes have exited, its commands are done, the checking block holds nothing of it, and its context is not
saved (R198, R396). -/
def State.canRetire (s : State) (gh : Nat) : Bool :=
  match s.group? gh with
  | none => false
  | some g =>
    g.alive = 0 && !s.busyGroup gh && !(s.crew? g.crew).any (·.saved)
      && s.dev.pairs.all fun p => p.2.gate.all fun e => e.split.group != gh

/-- GROUP_RETIRE (R198, R199). -/
def execGroupRetire (group : Nat) (s : State) : Host.Outcome State Fault Refusal :=
  .next (if s.canRetire group then retireGroup s group else s)

/-! Preloads (R383). -/

/-- The preloads of a launch may begin: every earlier launch of the partition has retired. -/
def canPreload (s : State) (x : Launch) : Bool :=
  x.state = .candidate && x.npreload != 0 && depsMet s x && !depBroken s x && queueOk s x
    && s.launches.all fun e => !(e.2.part = x.part && e.2.age < x.age) || e.2.ended

/-- PRELOAD_START (R383). -/
def execPreloadStart (launch : Nat) (s : State) : Host.Outcome State Fault Refusal :=
  .next (match s.launch? launch with
    | some x => if canPreload s x then s.updLaunch launch fun x => { x with state := .preloading } else s
    | none => s)

/-- An entry of a preload list: SRC, DST, and whether its reserved field is 0. -/
def preloadEntries (x : Launch) (bs : List Byte) : List (Nat × Nat × Bool) :=
  (List.range x.npreload).map fun i => (numAt bs (16 * i) 8, numAt bs (16 * i + 8) 4, numAt bs (16 * i + 12) 4 == 0)

/-- Bytes of a record's whole extent, copied densely (R383). -/
def Record.denseBytes (t : Record) : Nat := t.ext 0 * t.ext 1 * t.ext 2 * t.ext 3 * t.elem

/-- What a preload came to. -/
inductive Loaded where
  | done
  | waits
  | failed
  deriving DecidableEq, Repr

/-- Copies one element after another, dimension 0 fastest (R383 step 3). -/
def preloadElems (s : State) (l : Nat) (x : Launch) (t : Record) (dst : Nat) : List Nat → State × Loaded
  | [] => (s, .done)
  | n :: rest =>
    let i := [n % t.ext 0, n / t.ext 0 % t.ext 1, n / (t.ext 0 * t.ext 1) % t.ext 2, n / (t.ext 0 * t.ext 1 * t.ext 2)]
    match launchRead s l x .engRead ((t.addr i).getD 0).toNat t.elem with
    | (s, .bytes bs) => preloadElems (s.writeWs x.part (dst + n * t.elem) bs) l x t dst rest
    | (s, .waits) => (s, .waits)
    | (s, .failed) => (s, .failed)

/-- Performs the entries in list order. -/
def preloadRun (s : State) (l : Nat) (x : Launch) : List (Nat × Nat × Bool) → State × Loaded
  | [] => (s, .done)
  | (src, dst, ok) :: rest =>
    if !ok || dst % 16 != 0 || src % 64 != 0 then (s, .failed)
    else
      match launchRead s l x .engRead src 64 with
      | (s, .waits) => (s, .waits)
      | (s, .failed) => (s, .failed)
      | (s, .bytes bs) =>
        let b := BitVec.ofNat 512 (leBytes bs)
        let t := Record.of b
        if !recordOk b || t.space != 0 || s.wsBytes x.part < dst + t.denseBytes then (s, .failed)
        else
          match preloadElems s l x t dst (List.range (t.ext 0 * t.ext 1 * t.ext 2 * t.ext 3)) with
          | (s, .done) => preloadRun s l x rest
          | r => r

/-- The bytes of every entry are undefined after a failure (R383 step 4): each becomes a free value. -/
def spoilEntries (s : State) (l : Nat) (x : Launch) (es : List (Nat × Nat × Bool)) : State :=
  let s := es.foldl (fun s e =>
    match launchRead s l x .engRead e.1 64 with
    | (s, .bytes bs) =>
      let n := min (Record.of (BitVec.ofNat 512 (leBytes bs))).denseBytes (s.wsBytes x.part - e.2.1)
      s.writeWs x.part e.2.1 ((List.range n).map fun i => Config.freeByte s.seed (e.2.1 + i))
    | (s, _) => s) s
  { s with seed := s.seed + 1 }

/-- The launch fails with CODE 0x42 (R383 step 4). -/
def failPreload (s : State) (l : Nat) : State :=
  match s.launch? l with
  | none => s
  | some x =>
    let s := match launchRead s l x .engRead x.preload.toNat (16 * x.npreload) with
      | (s, .bytes bs) => spoilEntries s l x (preloadEntries x bs)
      | (s, _) => s
    abortLaunch s l 0x42

/-- PRELOAD_COMPLETE (R383): the copies as far as they can be made; what has to wait is tried again. -/
def execPreloadComplete (launch : Nat) (s : State) : Host.Outcome State Fault Refusal :=
  .next (match s.launch? launch with
    | none => s
    | some x =>
      if x.state != .preloading || s.asking (.launch launch) then s
      else
        match launchRead s launch x .engRead x.preload.toNat (16 * x.npreload) with
        | (s, .waits) => s
        | (s, .failed) => failPreload s launch
        | (s, .bytes bs) =>
          match preloadRun s launch x (preloadEntries x bs) with
          | (s, .waits) => s
          | (s, .failed) => failPreload s launch
          | (s, .done) => s.updLaunch launch fun x => { x with state := .ready, answers := [], aborted := [], faults := [] })

/-! Replies. -/

/-- A reply with status 1 to what a launch itself asked for: its image is unreadable, its preload fails, or its saved context
cannot be reached (R377, R383, R398, R400). -/
def refusedRead (s : State) (l : Nat) : State :=
  match s.launch? l with
  | none => s
  | some x =>
    match x.state with
    | .accepted => refuseLaunch s l 3
    | .preloading => failPreload s l
    | _ => abortLaunch s l causePerm

/-- An engine or a launch is told of the reply to the entry to which its access was attached: the access retranslates, or fails with reason 16
of its own kind (R164, R371). -/
def answerEngine (s : State) (r : PageReq) (ok : Bool) (e : AttachedEng) : State :=
  if ok then
    match e.who with
    | .word l => pushWord s l
    | _ => s
  else
    let d := detailWord 16 r.stage r.level r.table e.access
    let s := noteFault s r.tenant d e.addr
    match e.who with
    | .word l =>
      match s.launch? l with
      | some x => dropWord s l x e.addr.toNat
      | none => s
    | .launch l => refusedRead s l
    | w => wake (tellFault s (e.addr.toNat / 4096) (.trap causePerm d) w) w

/-- The lanes of one split that were attached to an entry, as its reply finds them: all of them, the lowest one's address and access. -/
def PageReq.splits (r : PageReq) : List Attached :=
  r.lanes.foldl (fun l a =>
    if l.any fun x => x.split = a.split then l.map fun x => if x.split = a.split then { x with lanes := x.lanes ||| a.lanes } else x
    else l ++ [a]) []

/-- The lanes of a split that were attached to an entry are told of its reply: they retranslate, or the instruction traps with reason 16
(R163); a frame that was to be written is a second error (R361). -/
def answerLanes (s : State) (r : PageReq) (ok : Bool) (e : Attached) : State :=
  match s.ctxOf e.split with
  | none => s
  | some c =>
    if ok then (if c.sp.wait = .parked then s.waitFor e.split .none else s)
    else
      let d := detailWord 16 r.stage r.level r.table e.access
      match c.sp.pendingTrap with
      | some t =>
        doubleError (noteFault s r.tenant d e.addr) c t.pc { cause := causePerm, mask := c.sp.mask, addr := sector e.addr, detail := d }
          c.sp.mprog
      | none => raiseVa s c causePerm e.lanes e.addr d

/-- PRQREPLY (R163, R166, R167): the reply reaches what is attached to its entry, and nothing else. -/
def execPrqreply (func : Nat) (value : BitVec 64) (s : State) : Host.Outcome State Fault Refusal :=
  .next (fromHost s (
    let tag := fld value 0 16
    let status := fld value 16 2
    match s.mmu.requests.find? fun r => r.func = func && r.slot + 256 * r.gen = tag with
    | some r =>
      if 2 ≤ status then
        let f := s.func func
        s.setFunc func { f with badReply := min 65535 (f.badReply + 1) }
      else
        let s := s.setMmu { s.mmu with requests := s.mmu.requests.filter fun x => !(x.func = func && x.slot = r.slot) }
        let s := r.splits.foldl (fun s e => answerLanes s r (status = 0) e) s
        r.engines.foldl (fun s e => answerEngine s r (status = 0) e) s
    | none =>
      let f := s.func func
      s.setFunc func { f with badReply := min 65535 (f.badReply + 1) }))

end Sys2Proof.Machine
end

