-- ==== Sys2Proof/Machine/Preempt.lean ====
section
/-! DEFINITION. Pre-emption by context flashback, the saved context, the lazy state, resumption and the progress watchdog
(15 R395 to R404). -/

namespace Sys2Proof.Machine

/-! The saved context (Table 15.6). -/

/-- The header that follows the bar or cbar at which a split waits (R397). -/
def Split.waitHeader (sp : Split) : Option W64 :=
  match sp.wait with
  | .bar _ _ | .cbar _ _ => some (sp.pc + 8)
  | _ => none

/-- The safe point whose live masks a split's context holds. -/
def Split.contextHeader (sp : Split) : W64 := sp.waitHeader.getD sp.pc

/-- CTXINFO of a split. -/
def Split.ctxInfo (sp : Split) (n : Nat) : Nat :=
  let w := match sp.wait with
    | .bar b ph => 2 ^ 13 + b * 2 ^ 15 + (ph + 1) % 16 * 2 ^ 19
    | .cbar b ph => 2 * 2 ^ 13 + b * 2 ^ 15 + (ph + 1) % 16 * 2 ^ 19
    | _ => 0
  sp.stack.length % 2048 + n * 2 ^ 11 + w

/-- Live masks at the context's safe point. -/
def contextLive (l : Launch) (sp : Split) : BitVec 256 × W64 := (l.safeAt sp.contextHeader).getD (0, 0)

/-- Scalars that a split's context saves, ascending. -/
def contextScalars (l : Launch) (sp : Split) : List Nat :=
  ((List.range 64).filter fun n => 0 < n && (contextLive l sp).2.getLsbD n).take 16

/-- Vector registers that a group's context saves, ascending. -/
def contextRows (l : Launch) (g : Group) : List Nat :=
  ((List.range 256).filter fun n => g.splits.any fun p => (contextLive l p.2).1.getLsbD n).take 16

/-- The 1,056 words of a group's context (Table 15.6). -/
def contextWords (l : Launch) (g : Group) : List W64 :=
  let put (t : List (Nat × W64)) (off : Nat) (v : W64) := Tbl.put t (off / 8) v
  let t := put (put (put (put [] 0 (g.splits.foldl (fun m p => m ||| BitVec.twoPow 64 p.1) 0)) 8 g.skew) 0x10 g.gang) 0x18 g.sticky
  let t := (List.range 15).foldl (fun t k => put t (0x20 + 8 * k) (g.pred (k + 1))) t
  let t := g.splits.foldl (fun t p =>
    let o := 0x300 * p.1
    let sp := p.2
    let ss := contextScalars l sp
    let t := put (put (put (put t (0x100 + o) sp.pc) (0x108 + o) sp.mask) (0x110 + o) sp.fmt) (0x118 + o) (w64 (sp.ctxInfo p.1))
    let t := put t (0x120 + o) (ss.foldl (fun m n => m ||| BitVec.twoPow 64 n) 0)
    let t := ss.zipIdx.foldl (fun t e => put t (0x128 + o + 8 * e.2) (sp.s e.1)) t
    (List.range 8).foldl (fun t k => (List.range 8).foldl (fun t j =>
      put t (0x1A8 + o + 64 * k + 8 * j) ((sp.trec k).extractLsb' (64 * j) 64)) t) t) t
  let t := (contextRows l g).zipIdx.foldl (fun t e =>
    let o := 0x1000 + 0x110 * e.2
    (List.range 32).foldl (fun t i => put t (o + 16 + 8 * i) (g.v e.1 (2 * i + 1) ++ g.v e.1 (2 * i))) (put t o (w64 (e.1 + 256)))) t
  (List.range 1056).map fun i => Tbl.getD t i 0

/-- A word of a saved context that system software may change: PC, FMT, the scalar values and the snapshot rows (R398). -/
def contextOpen (i : Nat) : Bool :=
  let a := 8 * i
  let o := (a - 0x100) % 0x300
  if a < 0x1000 then 0x100 ≤ a && a < 0xD00 && (o = 0 || o = 0x10 || (0x28 ≤ o && o < 0xA8)) else 0x10 ≤ (a - 0x1000) % 0x110

/-- A word that may not change differs from what was saved. -/
def contextChanged (saved found : List W64) : Bool :=
  (saved.zip found).zipIdx.any fun e => !contextOpen e.2 && e.1.1 != e.1.2

/-- Takes back what system software may have changed: PC, FMT, the saved scalars and the snapshot rows (R398). -/
def loadContext (l : Launch) (g : Group) (ws : List W64) : Group :=
  let at_ (off : Nat) : W64 := ws.getD (off / 8) 0
  let g := (contextRows l g).zipIdx.foldl (fun g e =>
    let o := 0x1000 + 0x110 * e.2 + 16
    (List.range g.width).foldl (fun g i =>
      g.setV e.1 i ((at_ (o + 8 * (i / 2))).extractLsb' (32 * (i % 2)) 32)) g) g
  { g with splits := Tbl.mapVal (fun n sp =>
      let o := 0x300 * n
      let back := (contextScalars l sp).zipIdx.foldl (fun (x : Split) e => x.setS e.1 (at_ (0x128 + o + 8 * e.2))) sp
      let x := { back with fmt := fmtWord (at_ (0x110 + o)) }
      if at_ (0x100 + o) = sp.pc then x else { x with pc := at_ (0x100 + o), clause := none, resume := none }) g.splits }

/-! Halt (Table 15.4). -/

/-- Which operations have written what they have completed when they are abandoned: those on the array, and mbyp. -/
def writesBlocks : Instr → Bool
  | .mmul _ | .mmulz _ | .mbyp _ => true
  | _ => false

/-- The operations of a cord's crews stop at a block boundary: a running one is written up to there, one that the firmware performs is
abandoned, and none is left (R343, R396 step 2). -/
def stopOps (s : State) (crews : List (Nat × Crew)) (blocks : Nat) : State :=
  crews.foldl (fun s e =>
    ((s.core e.2.core).ops.filter fun k => k.2.crew = e.1).foldl (fun s k =>
      match Tbl.find? (s.core e.2.core).ops k.1 with
      | some op => (stopOp s e.2.core k.1 op (if op.emulated then 0 else blocks) writesBlocks).1
      | none => s) s) s

/-- Commands of a crew go back to their start: nothing that was under way for them reaches them (Table 7.6). -/
def restartCommands (s : State) (core crew : Nat) : State :=
  let x := s.core core
  let s := (x.cmds.filter fun e => e.2.crew = crew).foldl (fun s e => detachWho s (.command core e.1)) s
  s.setCore core
    { x with cmds := Tbl.mapVal (fun _ k => if k.crew = crew then
        { k with done := [], got := [], fail := none, faults := [], answers := [], aborted := [] } else k) x.cmds }

/-- A split that waits at bar or cbar keeps its wait; its registers are saved as at the header that follows (R397). -/
def keepWait (s : State) (r : SplitRef) : State :=
  match s.ctxOf r with
  | none => s
  | some c =>
    match c.sp.waitHeader with
    | none => s
    | some h =>
      let n := takeSnapshot s c h
      let s := { s with seed := s.seed + 1 }
      s.updGroup r.group fun g =>
        (g.rewindLanes n (s.seed - 1)).updSplit r.split fun sp =>
          { sp with sregs := n.sregs, sseed := s.seed - 1, repcnt := 0, mprog := 0 }

/-- Rewinds a split, or keeps it in its wait (R396 step 6, R397). -/
def haltSplit (s : State) (r : SplitRef) : State :=
  match s.split? r with
  | some sp => if sp.waitHeader.isSome && sp.trap.isNone then keepWait s r else flashback s r false
  | none => s

/-- Halts one crew (R396 steps 4 to 6): its contexts are then to be written. -/
def haltCrew (s : State) (h : Nat) (c : Crew) : State :=
  let gs := (s.groupsOf h).map (·.1)
  let s := gs.foldl (fun s g => (s.splitsOf g).foldl haltSplit s) s
  let s := restartCommands s c.core h
  s.updCrew h fun c => { c with saved := true, preempt := false, toSave := gs }

/-- Crews of a cord. -/
def State.cordCrews (s : State) (launch cord : Nat) : List (Nat × Crew) := s.crewsOf launch cord

/-- A pre-emption of the cord has been asked for, the checking block holds nothing of it, and its launch is not ending (R395, R421). -/
def State.canHalt (s : State) (launch cord : Nat) : Bool :=
  let cs := s.cordCrews launch cord
  !s.failing launch && cs.any (fun e => e.2.preempt) && cs.all fun e =>
    !e.2.saved && s.dev.pairs.all fun p => p.2.gate.all fun g => (s.group? g.split.group).all fun x => x.crew != e.1

/-- PREEMPTION (R396): every crew of the cord is halted; running products stop at the named block. -/
def execPreemption (launch cord : Nat) (blocks : Nat) (s : State) : Host.Outcome State Fault Refusal :=
  .next (if s.canHalt launch cord then
    (s.cordCrews launch cord).foldl (fun s e => haltCrew s e.1 e.2) (stopOps s (s.cordCrews launch cord) blocks)
  else s)

/-- Makes the release of the next group of a crew whose context has still to be written, and writes the context (R396 step 7, R398): what it
needs is waited for, an entry with V = 0 makes a page request, any other fault ends the launch. -/
def writeContext (s : State) (h : Nat) : State :=
  match s.crew? h with
  | none => s
  | some c =>
    match c.toSave, s.launch? c.launch with
    | gh :: rest, some l =>
      match s.group? gh with
      | none => s.updCrew h fun c => { c with toSave := rest }
      | some g =>
        if s.asking (.launch c.launch) then s
        else
          let words := (contextWords l g).flatMap fun w => toBytes 8 w.toNat
          match (sinvWriteBack s l.part c.core).bind fun s _ =>
              hwWrite s ctlCore l.part l.tenant none l.faults l.answers g.region.toNat words with
          | .ok s (.ok _) => s.updCrew h fun c => { c with toSave := rest }
          | .ok s (.error (.absent st lv tb en ad, a)) =>
            (attachReq (s.updLaunch c.launch fun x => { x with faults := [] }) l.tenant st lv tb en ad .write []
              [{ who := .launch c.launch, addr := w64 a, access := .write }]).1
          | .ok s (.error (.trap cause d, a)) => abortLaunch (noteXlate s l.tenant cause d (w64 a)) c.launch cause
          | .stop s w =>
            if w.fatal then abortLaunch s c.launch (stopCause w).1 else waitOn s (.launch c.launch) l.part l.tenant w
    | _, _ => s

/-! Lazy state (R399). -/

/-- A crew has a matrix-role group. -/
def State.hasMatrix (s : State) (h : Nat) : Bool := (s.groupsOf h).any fun g => g.2.role = .matrix

/-- The slots that a crew has claimed. -/
def Core.claimsOf (x : Core) (h : Nat) : List (Nat × Nat) := x.claims.filter fun e => e.2 / 32 = h

/-- The lazy state of a crew: its scratchpad, counted from 0, the banks of its tenant, and, with a matrix-role group, its slots and
the array state. Undefined bytes of its slots stay what they are. -/
def lazyOf (s : State) (h : Nat) (c : Crew) : Core :=
  let x := s.core c.core
  let b := c.scratchBase
  let n := c.scratchSize
  let tenant := s.tenantOf c
  let slots := (x.claimsOf h).map (·.1)
  let arr := s.hasMatrix h
  let operand : List (Nat × Byte) :=
    if x.operandSeed = 0 then x.operand.filter fun e => slots.contains (e.1 / 12288)
    else slots.flatMap fun k => (List.range 12288).map fun i => (12288 * k + i, x.operandByte k 0 i)
  { Core.reset with
    scratch := (x.scratch.filter fun e => b ≤ e.1 && e.1 < b + n).map fun e => (e.1 - b, e.2)
    scratchSeed := (x.scratchSeed.filter fun e => b / 1024 ≤ e.1 && e.1 < (b + n) / 1024).map fun e => (e.1 - b / 1024, e.2)
    banks := x.banks.filter fun e => e.2.valid && e.2.tenant = tenant
    operand := if arr then operand else [], claims := if arr then x.claimsOf h else []
    acc := if arr then x.acc else [], accSeed := if arr then x.accSeed else 0, tagI := if arr then x.tagI else []
    scale := if arr then x.scale else [], scaleSeed := if arr then x.scaleSeed else 0 }

/-- A free 1 MiB slot of a tenant's pool (R398). -/
def Tenant.freeMega (t : Tenant) : Option Nat :=
  match t.pool with
  | none => none
  | some (_, len) => (List.range (len / 2 ^ 20)).find? fun k => (List.range 4).all fun i => !t.poolUsed.contains (4 * k + i)

/-- Saves the lazy state of a saved crew, if its tenant's pool has room; otherwise the incoming work waits (R398). -/
def lazyStep (s : State) (h : Nat) : Option State :=
  match s.crew? h with
  | none => none
  | some c =>
    if !c.saved || !c.toSave.isEmpty || (Tbl.find? s.lazy h).isSome then none
    else
      match (s.tenant? (s.tenantOf c)).bind (·.freeMega) with
      | none => none
      | some n =>
        let x := s.core c.core
        let keep := lazyOf s h c
        let s := { s with
          lazy := Tbl.put s.lazy h keep
          tenants := Tbl.upd s.tenants (s.tenantOf c) fun t => { t with poolUsed := t.poolUsed ++ (List.range 4).map (4 * n + ·) } }
        let s := s.setCore c.core { x with claims := x.claims.filter fun e => e.2 / 32 != h }
        some (s.updCrew h fun c => { c with lazySlot := some n })

/-- LAZY_SAVE (R399). -/
def execLazySave (crew : Nat) (s : State) : Host.Outcome State Fault Refusal := .next ((lazyStep s crew).getD s)

/-! Resumption (R400). -/

/-- What a saved crew needs (R385). -/
def State.needBack (s : State) (h : Nat) (c : Crew) : Need :=
  let gs := (s.groupsOf h).map (·.2)
  let onQ (q : Nat) := gs.filter fun g => g.grpid % 4 = q
  { rows := (List.range 4).map fun q => ((onQ q).map s.rowsFor).sum, groups := (List.range 4).map fun q => (onQ q).length
    scratch := if (Tbl.find? s.lazy h).isSome then c.scratchSize else 0, tenant := s.tenantOf c }

/-- Steps 1 and 2 of R400 for a crew on a core: the place of its scratchpad. -/
def State.fitsBack (s : State) (core h : Nat) (c : Crew) : Option Nat :=
  let x := s.core core
  match Tbl.find? s.lazy h with
  | none => if core = c.core then (s.fits core (s.needBack h c)).map fun _ => c.scratchBase else none
  | some z =>
    let others := s.crews.any fun e => e.1 != h && e.2.core = core && (!e.2.saved || s.lazyHere e) && s.hasMatrix e.1
    let slotsFree := z.claims.all fun e => (Tbl.find? x.claims e.1).isNone
    let banksFree := z.banks.all fun e => ((Tbl.find? x.banks e.1).bind (·.loading)).isNone && bindCount s core e.1 = 0
    if (s.hasMatrix h && others) || !slotsFree || !banksFree then none else s.fits core (s.needBack h c)

/-- Cores for the crews of a cord in one pair: each keeps its own where it can; no two share one (R170, R400). -/
def State.planBack (s : State) (cores : List Nat) : List (Nat × Crew) → List Nat → Option (List (Nat × Nat × Nat))
  | [], _ => some []
  | (h, c) :: rest, used =>
    let open_ := cores.filter fun k => !used.contains k
    let tryAll := (open_.filter (· = c.core)) ++ sortBy (fun a b => s.rowsTotal a < s.rowsTotal b) (open_.filter (· != c.core))
    match tryAll.findSome? fun k => (s.fitsBack k h c).map fun b => (k, b) with
    | none => none
    | some (k, b) => (s.planBack cores rest (k :: used)).map fun t => (h, k, b) :: t

/-- Reads back the contexts of a crew's groups: the groups with what they then hold, and whether a word that may not change
has. -/
def readContexts (s : State) (lid : Nat) (l : Launch) : List (Nat × Group) → State × Got × List (Nat × Group) × Bool
  | [] => (s, .bytes [], [], false)
  | (gh, g) :: rest =>
    match launchRead s lid l .read g.region.toNat 0x2100 with
    | (s, .bytes bs) =>
      let ws := wordsOf bs 1056
      match readContexts s lid l rest with
      | (s, .bytes _, t, bad) => (s, .bytes [], (gh, loadContext l g ws) :: t, bad || contextChanged (contextWords l g) ws)
      | r => r
    | (s, r) => (s, r, [], false)

/-- The lazy state returns to a core (R400 step 2). -/
def restoreLazy (s : State) (core base h : Nat) (c : Crew) : State :=
  match Tbl.find? s.lazy h with
  | none => s
  | some z =>
    let s := prepareCore s core (s.tenantOf c) base c.scratchSize
    let x := s.core core
    let inside (a : Nat) : Bool := base ≤ a && a < base + c.scratchSize
    let x := { x with
      scratch := (z.scratch.map fun e => (e.1 + base, e.2)).foldl (fun t e => Tbl.put t e.1 e.2) (x.scratch.filter fun e => !inside e.1)
      scratchSeed := (z.scratchSeed.map fun e => (e.1 + base / 1024, e.2)).foldl (fun t e => Tbl.put t e.1 e.2)
        (x.scratchSeed.filter fun e => !inside (1024 * e.1))
      banks := z.banks.foldl (fun t e => Tbl.put t e.1 e.2) x.banks }
    let x := if s.hasMatrix h then
        { x with
          operand := z.operand.foldl (fun t e => Tbl.put t e.1 e.2) (x.operand.filter fun e => (Tbl.find? z.claims (e.1 / 12288)).isNone)
          claims := z.claims.foldl (fun t e => Tbl.put t e.1 e.2) x.claims
          acc := z.acc, accSeed := z.accSeed, tagI := z.tagI, scale := z.scale, scaleSeed := z.scaleSeed }
      else x
    let s := { s.setCore core x with lazy := Tbl.del s.lazy h }
    match c.lazySlot with
    | some n => { s with tenants := Tbl.upd s.tenants (s.tenantOf c) fun t => { t with poolUsed := t.poolUsed.filter fun k => k / 4 != n } }
    | none => s

/-- A crew moves with its commands and streams to a core and issues again; each group's first instruction is an acquire of .dev scope
(R400). -/
def resumeCrew (s : State) (h core base : Nat) (c : Crew) : State :=
  let s := restoreLazy s core base h c
  let mine (g : Nat) : Bool := (s.group? g).any fun x => x.crew = h
  let x := s.core c.core
  let cmds := x.cmds.filter fun e => e.2.crew = h
  let streams := x.streams.filter fun e => mine e.2.group
  let s := if core = c.core then s
    else
      let s := streams.foldl (fun s e => detachWho s (.stream c.core e.1)) s
      let s := s.setCore c.core { x with cmds := x.cmds.filter fun e => e.2.crew != h, streams := x.streams.filter fun e => !mine e.2.group }
      let y := s.core core
      s.setCore core
        { y with
          cmds := cmds.foldl (fun t e => Tbl.put t e.1 e.2) y.cmds, streams := streams.foldl (fun t e => Tbl.put t e.1 e.2) y.streams }
  let s := { s with groups := Tbl.mapVal (fun _ g =>
    if g.crew = h then { g with splits := Tbl.mapVal (fun _ sp => { sp with acquire := 3 }) g.splits } else g) s.groups }
  s.updCrew h fun c => { c with saved := false, core := core, scratchBase := base, lazySlot := none }

/-- No waiting candidate comes before a saved cord in the distributor's order (R384, R400). -/
def State.turnBack (s : State) (l : Launch) : Bool :=
  (s.candidates l.part).all fun e => !(before e.2 l && e.2.img.any (s.couldFit e.2)) && !(e.2.blocking && l.prio ≤ e.2.prio && e.2.age < l.age)

/-- A split of a crew that resumes: the tokens that have come meanwhile are written. -/
def takeTokens (s : State) (r : SplitRef) : State :=
  match s.split? r with
  | some sp => sp.tokens.foldl (fun s e => writeToken s r e.1 e.2) (s.updSplit r fun sp => { sp with tokens := [] })
  | none => s

/-- The resumption of a cord, if it can go on: every crew meets steps 1 and 2 on cores of one pair or clamp (R400). A context with
a change that R398 does not allow leaves no defined state. -/
def resumeStep (s : State) (launch cord : Nat) : Option (Host.Outcome State Fault Refusal) :=
  let cs := s.cordCrews launch cord
  match s.launch? launch with
  | none => none
  | some l =>
    if cs.isEmpty || !(cs.all fun e => e.2.saved && e.2.toSave.isEmpty) || (s.part l.part).pstate = 2 || s.asking (.launch launch)
        || !s.turnBack l then none
    else
      match (List.range 8).findSome? fun k => s.planBack (s.pairCores l.part l.il k) cs [] with
      | none => none
      | some plan =>
        some (match readContexts s launch l (cs.flatMap fun e => s.groupsOf e.1) with
          | (s, .waits, _) => .next s
          | (s, .failed, _) => .next (abortLaunch s launch causePerm)
          | (_, .bytes _, _, true) => .fault .contextChanged
          | (s, .bytes _, gs, false) =>
            let s := gs.foldl (fun s e => s.updGroup e.1 fun _ => e.2) s
            let s := plan.foldl (fun s p => match s.crew? p.1 with
              | some c => resumeCrew s p.1 p.2.1 p.2.2 c
              | none => s) s
            let s := gs.foldl (fun s e => (s.splitsOf e.1).foldl takeTokens s) s
            .next (s.updLaunch launch fun l => { l with answers := [], aborted := [], faults := [] }))

/-- CREW_RESUME (R400): the crews of a cord resume together. -/
def execCrewResume (launch cord : Nat) (s : State) : Host.Outcome State Fault Refusal := (resumeStep s launch cord).getD (.next s)

/-! The watchdog (R403, R404). -/

/-- Eligible (R190): neither parked nor paused, its crew resident, and not held by an emulated operation. -/
def State.eligible (s : State) (r : SplitRef) : Bool :=
  match s.ctxOf r with
  | none => false
  | some c =>
    c.sp.wait != .parked && !c.sp.paused && !c.crew.saved
      && !((s.core c.crew.core).ops.any fun e => e.2.emulated && e.2.members.contains r)

/-- Work of a launch that keeps the watchdog from counting: a walk, a page request, an element, or an operation (R403). -/
def State.launchBusy (s : State) (launch : Nat) : Bool :=
  let mine (g : Nat) : Bool := (s.group? g).any fun x => x.launch = launch
  let crewMine (h : Nat) : Bool := (s.crew? h).any fun c => c.launch = launch
  s.cores.any (fun e => e.2.cmds.any (fun k => crewMine k.2.crew) || e.2.ops.any (fun k => crewMine k.2.crew && e.2.started k.1 k.2))
    || s.asking (.launch launch)
    || s.mmu.walks.any (fun e => e.2.waiters.any fun w => match w.1 with
      | .split r _ => mine r.group
      | _ => false)
    || s.mmu.requests.any fun r => r.lanes.any fun e => mine e.split.group

/-- WATCHDOG_FIRE (R404): one frame with DELIV = 0 for the lowest eligible split of each group; once they are written, the abort. -/
def execWatchdogFire (launch : Nat) (s : State) : Host.Outcome State Fault Refusal :=
  .next (
    let gs := s.groups.filter fun e => e.2.launch = launch
    let stuck := gs.filterMap fun e => (((s.splitsOf e.1).filter s.eligible).head?).bind s.ctxOf
    if stuck.isEmpty || s.launchBusy launch || s.failing launch then s
    else
      let s := stuck.foldl (fun s c => (squash s c.r).updSplit c.r fun sp =>
        { sp with
          pendingTrap := some { cause := 0x18, pc := c.sp.trapPcOf c.sp.pc, mask := c.sp.mask, addr := 0, detail := 0, repcnt := c.sp.repAt
                                mprog := c.sp.mprog, second := false, fails := some 0x18, done := false } }) s
      stuck.foldl (fun s c => lastFrame s c.r) s)

end Sys2Proof.Machine
end

