-- ==== Sys2Proof/Machine/Errors.lean ====
section
/-! DEFINITION. Errors of the storage arrays (02 R57 to R59; 04 R104, R105; 15 R390, R391; 16 R420, R423), and the refresh of the
weight store (02 R51). -/

namespace Sys2Proof.Machine

/-- UNIT of an error record (Table 15.2). -/
def unitCode : ErrUnit → Nat
  | .registerFile => 0
  | .scratchpad => 1
  | .l1 => 2
  | .l2 => 3
  | .mainMemory => 4
  | .weightStore => 5
  | .operandMemory => 6
  | .accumulator => 7

/-- The unit of the SCORE table that holds an array (Table 16.7). -/
def unitScore (e : ErrorSite) : Nat :=
  match e.unit with
  | .l2 => scoreSlice e.index
  | .mainMemory => scorePort e.index
  | .weightStore => scoreBank e.index
  | _ => scoreCore e.index

/-- The array lies in a core, so that in a clamp one cluster alone finds the error (R420). -/
def inCore : ErrUnit → Bool
  | .l2 | .mainMemory | .weightStore => false
  | _ => true

/-- A split of what consumes the data. -/
def State.consumerSplit (s : State) : Consumer → Option SplitRef
  | .split r => some r
  | .command core id => (s.cmd? core id).map fun x => { group := x.group, split := x.split }
  | .stream core g => (Tbl.find? (s.core core).streams g).map fun x => { group := x.group, split := x.split }
  | .operation core id _ => (Tbl.find? (s.core core).ops id).bind fun op => op.members.head?

/-- The tenant of an error record: that of the requester, or 0 (Table 15.2). -/
def State.consumerTenant (s : State) (e : ErrorSite) : Nat :=
  (((e.consumer.bind s.consumerSplit).bind s.ctxOf).map (·.launch.tenant)).getD 0

/-- A joint operation stops at the block in which the error is found (R343): the blocks before it are written or delivered, and ECC_ABORT is
raised in every member, of every crew for a cord operation. -/
def abortOp (s : State) (core id blocks : Nat) : State :=
  match Tbl.find? (s.core core).ops id with
  | none => s
  | some op =>
    let (s, parts) := stopOp s core id op (if op.emulated then 0 else blocks) fun i => onArray i || converts i
    parts.foldl (fun s p =>
      p.1.members.foldl (fun s r => match s.ctxOf r with
        | some c => raiseAt s c c.sp.pc { cause := causeEcc, mask := c.sp.mask, addr := 0, detail := 0 } p.2
        | none => s) s) s

/-- The place of a damaged line among an engine's failed lines: those of the weight store and of the scratchpad have names of their own. -/
def siteLine (e : ErrorSite) : Nat :=
  match e.unit with
  | .weightStore => weightLine (e.line * 128)
  | .scratchpad => scratchLine (e.line * 128)
  | _ => e.line

/-- The abort completion reaches the requester (R390). A split whose access goes through the caches takes it at that access, which
knows its lanes; other reads raise it at once. -/
def abortConsumer (s : State) (e : ErrorSite) (c : Consumer) : State :=
  match c with
  | .operation core id blocks => abortOp s core id blocks
  | .split r =>
    if e.unit = .l1 || e.unit = .l2 || e.unit = .mainMemory then
      s.updSplit r fun sp => { sp with aborted := some (causeEcc, e.line * 128) }
    else
      match s.ctxOf r with
      | some c => raise s c causeEcc c.sp.mask (w64 (e.line * 128))
      | none => s
  | .command core id => s.updCmd core id fun x => { x with aborted := Tbl.put x.aborted (siteLine e) causeEcc }
  | .stream core g =>
    match Tbl.find? (s.core core).streams g with
    | some x => s.setStream core g { x with aborted := Tbl.put x.aborted (siteLine e) causeEcc }
    | none => s

/-- A line whose data is gone leaves the L2, and every copy of it is invalidated (R65, R66); a transition of it that is under way ends. -/
def expel (s : State) (lk : Nat) (l : L2Line) (ev : Nat) : State :=
  let s := s.setCaches { s.caches with busy := Tbl.del s.caches.busy lk }
  (runTrans s lk l ev (forceEntry false) ((s.part l.part).protoAt (l.line * 128)) (ownAccess l) none).state

/-- An unbacked line becomes Lost (R104): an entry of the slice's lost table, or LOSTALL when the table is full. -/
def loseLine (s : State) (p slice line : Nat) : State :=
  let lk := lineKey p line false
  let s := match Tbl.find? s.caches.l2 lk with
    | some l => expel s lk l 15
    | none => s
  let x := s.part p
  let t := Tbl.getD x.lost slice []
  if t.contains line || x.lostAll.contains slice then s
  else if t.length < 32 then s.setPart p { x with lost := Tbl.put x.lost slice (t ++ [line]) }
  else s.setPart p { x with lostAll := x.lostAll ++ [slice] }

/-- Dirty data is dropped (Table 15.2, kind 2). -/
def noteDropped (s : State) (e : ErrorSite) : State :=
  logError s 2 (unitCode e.unit) (s.consumerTenant e) e.index (e.line * 128) e.part

/-- The damaged line leaves its cache (R58, R104, R390): a counted line becomes Lost, dirty data is lost, and a clean line is
fetched again. An L2 line whose owner holds the current data keeps its entry. -/
def dropDamaged (s : State) (e : ErrorSite) : State :=
  match e.unit with
  | .l1 =>
    match Tbl.find? s.caches.l1 (lineKey e.index e.line e.view) with
    | none => s
    | some l =>
      let s := if l.dirty = 0 then s else noteDropped s e
      s.delL1 (lineKey e.index e.line e.view)
  | .l2 =>
    let lk := lineKey e.part e.line e.view
    match Tbl.find? s.caches.l2 lk with
    | none => s
    | some l =>
      if l.unb.isSome then loseLine s e.part l.slice e.line
      else
        let q := (s.part e.part).protoAt (e.line * 128)
        if q.owned l.state then s
        else
          let s := if q.dirty l.state then noteDropped s e else s
          expel s lk l 12
  | _ => s

/-- A clean L1 line is fetched again and aborts nobody (Table 2.9). -/
def refetched (s : State) (e : ErrorSite) : Bool :=
  e.unit = .l1 && (Tbl.find? s.caches.l1 (lineKey e.index e.line e.view)).any fun l => l.dirty = 0

/-- UNCORRECTABLE_ERROR (R390): the data is withheld, a record is logged with the error interrupts, the unit is charged, and the
requester is aborted. In a clamp an error in a core's own arrays is a mismatch of kind 9 (R420). -/
def execUncorrectableError (e : ErrorSite) (s : State) : Host.Outcome State Fault Refusal :=
  .next (
    let refetch := refetched s e
    let s := reportError s 1 (unitCode e.unit) (s.consumerTenant e) e.index (e.line * 128) e.part
    let s := dropDamaged (charge s (unitScore e) 32) e
    if refetch then s
    else
      match e.consumer with
      | none => s
      | some c =>
        match (s.consumerSplit c).bind s.ctxOf with
        | some k => if k.checked && inCore e.unit then mismatch s k.r k.sp.pc 9 0 e.index 0 0 else abortConsumer s e c
        | none => abortConsumer s e c)

/-- What a retired way holds leaves it (R59, R105): a counted line moves to another way, which is cleared for it if need be, or becomes Lost;
another line is written back and evicted. What has to wait is tried again. -/
def clearWay (s : State) (slice set way : Nat) : Res Unit :=
  let ls := s.setLines slice set
  match ls.find? fun x => x.2.way = way with
  | none => .ok s ()
  | some (lk, l) =>
    if l.unb.isNone then evictL2 s lk l
    else
      let used (w : Nat) : Option (Nat × L2Line) := ls.find? fun x => x.2.way = w
      let open_ := (List.range 16).filter fun w => !s.wayRetired slice set w
      match open_.find? fun w => (used w).isNone with
      | some w => .ok (s.setL2 lk { l with way := w }) ()
      | none =>
        match plruVictim 16 (Tbl.getD s.caches.plru (slice * 512 + set) 0)
            (fun w => open_.contains w && (used w).any fun x => x.2.unb.isNone) with
        | none => .ok (errInterrupt (loseLine s l.part slice l.line) 0) ()
        | some w =>
          match used w with
          | none => .ok s ()
          | some x =>
            (evictL2 s x.1 x.2).bind fun s _ =>
              match Tbl.find? s.caches.l2 lk with
              | some l => .ok (s.setL2 lk { l with way := w }) ()
              | none => .ok s ()

/-- A way of an L2 set is retired (R59, R105). -/
def retireWay (s : State) (slice set way : Nat) : State :=
  (clearWay (s.setDev { s.dev with retiredWays := Tbl.put s.dev.retiredWays ((slice * 512 + set) * 16 + way) true }) slice set way).state

/-- A corrected error is counted and charged; the second of an L2 way retires it (R58, R59). -/
def corrected (s : State) (e : ErrorSite) : State :=
  let u := unitScore e
  let s := charge (s.setDev { s.dev with corrected := Tbl.put s.dev.corrected u (Tbl.getD s.dev.corrected u 0 + 1) }) u 1
  if e.unit != .l2 then s
  else
    let set := (s.home e.part (e.line * 128)).set
    let k := (e.index * 512 + set) * 16 + e.way
    let n := Tbl.getD s.dev.wayErrors k 0 + 1
    let s := s.setDev { s.dev with wayErrors := Tbl.put s.dev.wayErrors k n }
    if n = 2 then retireWay s e.index set e.way else s

/-- CORRECTED_ERROR (R58, R59). -/
def execCorrectedError (e : ErrorSite) (s : State) : Host.Outcome State Fault Refusal := .next (corrected s e)

/-- The arrays that the patrol scrubbers visit (R58). -/
def scrubbed : ErrUnit → Bool
  | .l2 | .weightStore | .mainMemory => true
  | _ => false

/-- PATROL_SCRUB (R58, R104, R390): nobody consumes what a scrub finds. A retired way of the L2 that still holds a line, because the line had
to wait, is cleared when the scrub comes to it (R59; DESIGN CHOICE, log 96). -/
def execPatrolScrub (e : ErrorSite) (found : ScrubFinding) (s : State) : Host.Outcome State Fault Refusal :=
  if !scrubbed e.unit then .next s
  else
    match found with
    | .clean =>
      let set := (s.home e.part (e.line * 128)).set
      .next (if e.unit = .l2 && s.wayRetired e.index set e.way then (clearWay s e.index set e.way).state else s)
    | .corrected => .next (corrected s e)
    | .uncorrectable => execUncorrectableError { e with consumer := none } s

/-- REFRESH_START (R51): at most two banks are in refresh at once. -/
def execRefreshStart (bank : Nat) (s : State) : Host.Outcome State Fault Refusal :=
  .next (if bank < 16 && s.dev.refresh.length < 2 then s.setDev { s.dev with refresh := Tbl.put s.dev.refresh bank true } else s)

/-- REFRESH_END (R51, R53): reads that the window held go on. -/
def execRefreshEnd (bank : Nat) (s : State) : Host.Outcome State Fault Refusal :=
  .next (s.setDev { s.dev with refresh := Tbl.del s.dev.refresh bank })

end Sys2Proof.Machine
end

