-- ==== Sys2Proof/Machine/Peers.lean ====
section
/-! DEFINITION. Answers to outbound accesses, the fall of a peer link, and the peers' side of migration (15 R392 to R394; 06 R168;
04 R109; 17 R439). -/

namespace Sys2Proof.Machine

/-- A request that has been answered, or that has failed, leaves the table. -/
def State.dropOutbound (s : State) (req : Nat) : State := { s with outbound := Tbl.del s.outbound req }

/-- A split that waits for an answer goes on. -/
def answered (sp : Split) : Split := if sp.wait = .answer then { sp with wait := .none } else sp

/-- The request of a prefetch, as its answer finds it (R309). -/
def prefetchReq (o : Outbound) (core key : Nat) (view : Bool) (a : Answer) : Req :=
  { part := o.part, line := o.line, view := view, key := key, who := .l1 core, answer := some a, keep := [], tenant := o.tenant, asks := true }

/-- An answer reaches who asked (R392, R393). A migration's claim is answered by its page's peer address: byte 0 is 1 when the
claim is granted, and the address lies at byte 8 (the link's own protocol, DESIGN CHOICE, log 21). -/
def deliver (s : State) (o : Outbound) (a : Answer) : State :=
  if o.write then s
  else
    match o.who with
    | some (.split r _) => s.updSplit r fun sp => answered { sp with answers := Tbl.put sp.answers o.line a }
    | some (.command core id) => s.updCmd core id fun x => { x with answers := Tbl.put x.answers o.line a }
    | some (.stream core g) =>
      match Tbl.find? (s.core core).streams g with
      | some x => s.setStream core g { x with answers := Tbl.put x.answers o.line a }
      | none => s
    | some (.launch l) | some (.word l) => s.updLaunch l fun x => { x with answers := Tbl.put x.answers o.line a }
    | some (.slice part line view) =>
      s.setCaches { s.caches with filled := Tbl.put s.caches.filled (lineKey part line view) (some a) }
    | some (.prefetch core key view cls l2) => prefetchLine s core o.tenant (prefetchReq o core key view a) cls l2
    | some .migration =>
      match s.migration with
      | some m =>
        { s with migration := some { m with
            claimed := Tbl.put m.claimed o.line (if lineField a.data 0 1 = 1 then lineField a.data 8 8 else 2 ^ 64) } }
      | none => s
    | some (.ahead _ _) | none => s

/-- A failure reaches who asked (R392, R393, R306, R315): nobody, where nobody consumes what was asked for (R390). -/
def fail (s : State) (o : Outbound) (cause : Nat) : State :=
  let kind : LatchKind := if o.link.isSome then .peer else .host
  match o.who with
  | some (.split r _) =>
    if o.write then s.updSplit r fun sp => sp.latchErr kind (o.va.getD (w64 (o.line * 128)))
    else s.updSplit r fun sp => answered { sp with aborted := some (cause, o.line * 128) }
  | some (.command core id) => s.updCmd core id fun x => { x with aborted := Tbl.put x.aborted o.line cause }
  | some (.stream core g) =>
    match Tbl.find? (s.core core).streams g with
    | some x => s.setStream core g { x with aborted := Tbl.put x.aborted o.line cause }
    | none => s
  | some (.launch l) | some (.word l) => s.updLaunch l fun x => { x with aborted := Tbl.put x.aborted o.line cause }
  | some (.slice part line view) => s.setCaches { s.caches with filled := Tbl.put s.caches.filled (lineKey part line view) none }
  | some .migration | some (.prefetch _ _ _ _ _) | some (.ahead _ _) | none => s

/-! The mailbox of the control core (17 R431). -/

/-- A field of the command block. -/
def State.cc (s : State) (off n : Nat) : Nat := fld s.dev.cccmd (8 * off) (8 * n)

/-- The command that waits in the mailbox has this OP: the control core has been started, and GO is 1 (R431, R442). -/
def State.ccIs (s : State) (op : Nat) : Bool := s.dev.ccgo && s.dev.locked && s.cc 0 4 = op

/-- The command completes: STATUS is written, GO reads 0, and a STATUS that is not 0 raises function 0's error interrupt (R431). -/
def ccDone (s : State) (off status : Nat) : State :=
  let s := s.setDev { s.dev with cccmd := setFld s.dev.cccmd (8 * off) 32 status, ccgo := false }
  if status = 0 then s else errInterrupt s 0

/-- A command's detail word. -/
def ccDetail (s : State) (off v : Nat) : State := s.setDev { s.dev with cccmd := setFld s.dev.cccmd (8 * off) 32 v }

/-- The offset from BASE of a page of a migration's range; BASE may lie inside the first page (Table 4.7). -/
def Migration.offset (m : Migration) (i : Nat) : Nat :=
  let first := ((m.pages.head?).map (·.2.2.2)).getD 4096
  m.base / first * first + ((m.pages.take i).map (·.2.2.2)).sum - m.base

/-- The messages of a migration that a peer's control core takes (the link's own protocol, DESIGN CHOICE, log 21). -/
def claimEv : Nat := 16
def lineEv : Nat := 17
def releaseEv : Nat := 18
def completeEv : Nat := 19

/-- The line of a peer's aperture at which an address of the peer's partition lies. -/
def peerLine (link addr : Nat) : Nat := ((link + 1) * 0x4000000000 + addr) / 128

/-- Tells the peer what becomes of the room that it has claimed; a link that is not Up carries nothing. -/
def tellClaims (s : State) (m : Migration) (ev : Nat) : State :=
  if (s.link m.link).state != 2 then s
  else
    (m.claimed.filter fun c => c.2 < 2 ^ 64).foldl (fun s c =>
      s.send { link := some m.link, line := peerLine m.link c.2, ev := ev, write := true, atomic := false, data := 0, mask := 0, who := none
               va := none, tenant := m.tenant, part := m.part }) s

/-- A line that a migration moves (Table 4.3). -/
def Migration.holds (m : Migration) (l : L2Line) : Bool :=
  l.part = m.part && m.pages.any fun g => g.2.2.1 / 128 ≤ l.line && l.line < (g.2.2.1 + g.2.2.2) / 128

/-- The state of a line that goes to Leaving, and the one in which it comes back (Table 4.3). -/
def Unb.leave : Unb → Unb
  | .written => .leaving true false
  | .zero => .leaving false false
  | u => u
def Unb.stay : Unb → Unb
  | .leaving true _ => .written
  | .leaving false false => .zero
  | u => u

/-- A migration aborts (R109): the peer is told to release what it claimed, and the lines stay here in their earlier states. -/
def abortMigration (s : State) (status detail : Nat) : State :=
  match s.migration with
  | none => s
  | some m =>
    let s : State :=
      { s with
        migration := none, outbound := s.outbound.filter fun e => e.2.who != some .migration
        caches := { s.caches with l2 := Tbl.mapVal (fun _ l => if m.holds l then { l with unb := l.unb.map Unb.stay } else l) s.caches.l2 } }
    ccDone (ccDetail (tellClaims s m releaseEv) 0x1C detail) 0x18 status

/-- An outbound access fails: its requester is told, a record is logged, and the error interrupts are raised. A migration whose line is not
acknowledged, or whose claim gets no answer, ends; a claim that the peer aborts is refused (R110). -/
def failOutbound (s : State) (req cause kind : Nat) : State :=
  match Tbl.find? s.outbound req with
  | none => s
  | some o =>
    let s := fail (s.dropOutbound req) o cause
    let s := reportError s kind (if o.link.isSome then 8 else 9) o.tenant (o.link.getD 0) (o.line * 128) o.part
    match o.who, s.migration with
    | some .migration, some m => if o.write || kind != 4 then abortMigration s 6 0 else abortMigration s 4 (m.offset o.line)
    | _, _ => s

/-- The outstanding request goes to a peer, or to the host. -/
def State.asks (s : State) (req : Nat) (peer : Bool) : Bool := (Tbl.find? s.outbound req).any fun o => o.link.isSome = peer

/-- PEER_ABORT (R392). -/
def execPeerAbort (req : Nat) (s : State) : Host.Outcome State Fault Refusal :=
  .next (if s.asks req true then failOutbound s req 0x0C 4 else s)

/-- PEER_ACCESS_TIMEOUT (R392). -/
def execPeerAccessTimeout (req : Nat) (s : State) : Host.Outcome State Fault Refusal :=
  .next (if s.asks req true then failOutbound s req 0x0C 5 else s)

/-- HOST_ABORT (R393). -/
def execHostAbort (req : Nat) (s : State) : Host.Outcome State Fault Refusal :=
  .next (if s.asks req false then failOutbound s req causeHostAbort 8 else s)

/-- HOST_COMPLETION_TIMEOUT (R393): only an access that expects a completion can time out. -/
def execHostCompletionTimeout (req : Nat) (s : State) : Host.Outcome State Fault Refusal :=
  .next (if s.asks req false && (Tbl.find? s.outbound req).any (fun o => !o.write) then failOutbound s req causeHostAbort 8 else s)

/-- PEER_ANSWER (R392): the peer's home slice grants the line with its data (R64), or acknowledges. To a migration byte 0 is 2 once the
target's partition has been reset (R110; DESIGN CHOICE, log 21). -/
def execPeerAnswer (req : Nat) (reply : PeerReply) (s : State) : Host.Outcome State Fault Refusal :=
  .next (match Tbl.find? s.outbound req with
    | some o =>
      if o.link.isNone then s
      else if o.who = some .migration && lineField reply.data 0 1 = 2 then abortMigration (s.dropOutbound req) 7 0
      else deliver (s.dropOutbound req) o { grant := reply.grant, data := reply.data }
    | none => s)

/-- HOST_COMPLETION (R393): host memory gives the line; in host bias the block's own memory does (R85). -/
def execHostCompletion (req : Nat) (s : State) : Host.Outcome State Fault Refusal :=
  .next (match Tbl.find? s.outbound req with
    | some o =>
      if o.link.isSome then s
      else
        let d := match s.region o.part (o.line * 128) with
          | .host => s.readHostLine (o.line * 128 - 2 ^ 51)
          | _ => s.readLocal o.part o.line (s.frameKey o.part o.line)
        deliver (s.dropOutbound req) o { grant := 0, data := d }
    | none => s)

/-! Room that a peer has claimed (R109 step 2). -/

/-- The lines of a claim return to Absent. -/
def releaseClaim (s : State) (link : Nat) (c : Nat × Nat) : State :=
  let l := s.link link
  let s := s.setLink link { l with claims := l.claims.erase c }
  releaseLines s l.bound (pageLines c.1 c.2)

/-- One line is claimed: counted in its home slice and set, and closed to every access (Leaving). -/
def claimLine (s : State) (part line : Nat) : Option State :=
  let lk := lineKey part line false
  let h := s.home part (line * 128)
  let q := ctlReq part line 0 false
  if (Tbl.find? s.caches.l2 lk).isSome || s.isLost part h.slice line || !s.unbRoom part h.slice h.set then none
  else
    match takeWay s h.slice h.set with
    | .stop _ _ => none
    | .ok s w => some (s.setL2 lk { blankLine s q h w with unb := some (.leaving false true) })

/-- Sizes of a page (Table 6.3). -/
def pageSizes : List Nat := [0x1000, 0x4000, 0x10000, 0x200000, 0x2000000, 0x40000000, 0x400000000]

/-- A claim of a peer's, whole: a page for which any slice or set lacks room is refused, and nothing is claimed. -/
def claimPage (s : State) (m : ClaimMsg) : Option State :=
  let inAperture := 0x2000000000 ≤ m.addr && m.addr + m.size ≤ 0x3000000000
  if !inAperture || !pageSizes.contains m.size || m.addr % m.size != 0 then none
  else
    ((pageLines m.addr m.size).foldl (fun (o : Option State) k => o.bind fun s => claimLine s (s.link m.link).bound k) (some s)).map
      fun s => s.setLink m.link { s.link m.link with claims := (s.link m.link).claims ++ [(m.addr, m.size)] }

/-- MIGRATION_CLAIM (R109 step 2, R111): the control core tries the page at an address of its choice and answers. What is claimed stays so
until the peer releases it, or tells that the migration is complete. -/
def execMigrationClaim (m : ClaimMsg) (s : State) : Host.Outcome State Fault Refusal :=
  .next (
    let l := s.link m.link
    let answer (s : State) (ok : Bool) : State := s.answerTo (.peer m.link) m.addr ok 0 0
    if l.state != 2 then s
    else if m.release then
      if l.claims.contains (m.addr, m.size) then answer (releaseClaim s m.link (m.addr, m.size)) true else s
    else if m.complete then s.setLink m.link { l with claims := l.claims.erase (m.addr, m.size) }
    else
      match claimPage s m with
      | none => answer s false
      | some s => answer s true)

/-- MIGRATION_LINE (R109 step 4): a line arrives at its claimed home, becomes Written or Zero, and is acknowledged; one that has no claim any
more, after a reset, is not (R110). -/
def execMigrationLine (link addr : Nat) (written : Bool) (data : BitVec 1024) (s : State) : Host.Outcome State Fault Refusal :=
  .next (
    let l := s.link link
    let lk := lineKey l.bound (addr / 128) false
    let answer (s : State) (ok : Bool) : State := s.answerTo (.peer link) addr ok 0 0
    if l.state != 2 then s
    else if !(l.claims.any fun c => c.1 ≤ addr && addr < c.1 + c.2) then answer s false
    else
      match Tbl.find? s.caches.l2 lk with
      | none => answer s false
      | some x =>
        if x.unb != some (.leaving false true) then answer s false
        else
          let st := ((s.part l.bound).protoAt (addr / 128 * 128)).parking.getD 0
          answer (s.setL2 lk
            { x with unb := some (if written then .written else .zero), data := if written then data else 0, state := st }) true)

/-! A link's fall (R394). -/

/-- Table 15.3. Room that the peer had claimed is released (DEDUCED, log 22). -/
def linkDown (s : State) (p : Nat) : State :=
  let l := s.link p
  let s := dropRemote s p 0 0x4000000000
  let s := if s.migration.any fun m => m.link = p && m.step < 6 then abortMigration s 6 0 else s
  let s := { s with outbound := s.outbound.filter fun e => !(e.2.link = some p && (e.2.ev = releaseEv || e.2.ev = completeEv)) }
  let flight := (s.outbound.filter fun e => e.2.link = some p).map (·.1)
  let s := flight.foldl (fun s r => failOutbound s r 0x0C 4) s
  let owned := (s.caches.l2.filter fun e => e.2.part = l.bound && e.2.owner = 16 + p).length
  let clear (x : L2Line) : L2Line :=
    if x.part = l.bound then
      { x with sharers := x.sharers &&& ~~~(BitVec.twoPow 20 (16 + p)), owner := if x.owner = 16 + p then 31 else x.owner }
    else x
  let s := s.setCaches { s.caches with l2 := Tbl.mapVal (fun _ x => clear x) s.caches.l2 }
  let s := if owned = 0 then s else logError s 7 8 0 p owned l.bound
  let s := l.claims.foldl (fun s c => releaseClaim s p c) s
  let s := s.setLink p { s.link p with state := 0 }
  errInterrupt (logError s 6 8 0 p 0 l.bound) 0

/-- PEER_LINK_DOWN (R394). -/
def execPeerLinkDown (link : Nat) (s : State) : Host.Outcome State Fault Refusal :=
  .next (if (s.link link).state = 0 then s else linkDown s link)

/-- An invalidation of remote translations that a peer has not acknowledged (R168). -/
def Outbound.isInval (o : Outbound) (link : Nat) : Bool := o.link = some link && o.who.isNone && !o.write

/-- Tells the peers of a partition that a range of its physical addresses has changed its meaning (R168). -/
def sendInvals (s : State) (part base size : Nat) : State :=
  (List.range 4).foldl (fun s p =>
    if (s.link p).state = 2 && (s.link p).bound = part then
      s.send { link := some p, line := base / 128, write := false, atomic := false, data := lineWith 0 8 size, mask := 0, who := none
               va := none, tenant := 0, part := part }
    else s) s

/-- REMOTE_INVAL_TIMEOUT (R168, R394): the link is marked failed. -/
def execRemoteInvalTimeout (link : Nat) (s : State) : Host.Outcome State Fault Refusal :=
  .next (if s.outbound.any fun e => e.2.isInval link then linkDown s link else s)

/-- FLIT_REPLAY (R439). -/
def execFlitReplay (link : Nat) (s : State) : Host.Outcome State Fault Refusal :=
  .next (
    let l := s.link link
    if l.state = 0 then s else s.setLink link { l with replays := min 65535 (l.replays + 1) })

end Sys2Proof.Machine
end

