-- ==== Sys2Proof/Machine/Migrate.lean ====
section
/-! DEFINITION. MIGRATE, the control-core command that moves unbacked pages to a peer (04 R108 to R111). -/

namespace Sys2Proof.Machine

/-- The final-stage leaf of an address of a tenant: stage 1 of virtual addresses, or stage 2 of guest-physical ones (R108). -/
def migrateLeaf (s : State) (tenant : Nat) (t : Tenant) (a : Nat) : Res (Option Leaf) :=
  (walkOne s t.part tenant (if t.s2en then 2 else 1) false .read a [] 4 (if t.s2en then t.s2root else t.s1root) 0).bind fun s r =>
    match r with
    | .ok (l, _) => .ok s (some l)
    | .error _ => .ok s none

/-- The pages of a range, or the offset of the first that is not mapped or has UNB = 0 (R108, Table 4.9). -/
def migratePages (s : State) (tenant : Nat) (t : Tenant) (base length : Nat) :
    Nat → Nat → List (Nat × W64 × Nat × Nat) → Res (Except Nat (List (Nat × W64 × Nat × Nat)))
  | 0, _, pages => .ok s (.ok pages)
  | fuel + 1, a, pages =>
    if base + length ≤ a then .ok s (.ok pages)
    else
      (migrateLeaf s tenant t a).bind fun s l =>
        match l with
        | none => .ok s (.error (a - base))
        | some l =>
          if !l.pte.getLsbD 9 then .ok s (.error (a - base))
          else migratePages s tenant t base length fuel (a / l.size * l.size + l.size) (pages ++ [(l.run.1, l.pte, l.base, l.size)])

/-- The command's own conditions: STATUS 1 (Tables 4.7, 4.9). -/
def migrateMalformed (s : State) : Bool :=
  3 < s.cc 6 1 || s.cc 7 1 != 0 || s.cc 8 8 % 4096 != 0 || s.cc 0x10 8 % 4096 != 0 || s.cc 0x10 8 < 4096 || 2 ^ 30 < s.cc 0x10 8
    || (s.tenant? (s.cc 4 2)).isNone

/-- Lines of a migration's pages, in page order. -/
def Migration.lines (m : Migration) : List Nat := m.pages.flatMap fun g => pageLines g.2.2.1 g.2.2.2

/-- A late framing holds a page of the range (R111). -/
def framing (s : State) (part : Nat) (pages : List (Nat × W64 × Nat × Nat)) : Bool :=
  (s.part part).late.any fun j => pages.any fun g => g.2.2.1 / 128 ≤ j.line && j.line < (g.2.2.1 + g.2.2.2) / 128

/-- Steps 1 and 2 of Table 4.8: the checks, then a claim of each page at the peer. -/
def beginMigration (s : State) : State :=
  let tenant := s.cc 4 2
  let link := s.cc 6 1
  let base := s.cc 8 8
  let length := s.cc 0x10 8
  if migrateMalformed s then ccDone (ccDetail s 0x1C 0) 0x18 1
  else
    match s.tenant? tenant with
    | none => s
    | some t =>
      match migratePages s tenant t base length (length / 4096) base [] with
      | .stop s _ => s
      | .ok s (.error off) => ccDone (ccDetail s 0x1C off) 0x18 2
      | .ok s (.ok pages) =>
        if (s.link link).state != 2 || (s.link link).bound != t.part || !(s.part t.part).req.getLsbD (17 + link) then
          ccDone (ccDetail s 0x1C 0) 0x18 3
        else if framing s t.part pages then s
        else
          let s := pages.zipIdx.foldl (fun s g =>
            s.send { link := some link, line := g.2, ev := claimEv, write := false, atomic := false, data := lineWith 0 8 g.1.2.2.2, mask := 0
                     who := some .migration, va := none, tenant := tenant, part := t.part }) s
          let m : Migration :=
            { tenant := tenant, part := t.part, link := link, base := base, length := length, pages := pages, claimed := [], step := 2 }
          { s with migration := some m }

/-- The page of a migration that holds a Lost line. -/
def lostPage (s : State) (m : Migration) : Option Nat :=
  (List.range m.pages.length).find? fun i =>
    (pageLines (m.pages.getD i (0, 0, 0, 0)).2.2.1 (m.pages.getD i (0, 0, 0, 0)).2.2.2).any fun k =>
      s.isLost m.part (s.home m.part (k * 128)).slice k

/-- Step 3: the range's lines go to Leaving, so that every access to them stalls. -/
def leaveLines (s : State) (m : Migration) : State :=
  { s with
    migration := some { m with step := 3 }
    caches := { s.caches with l2 := Tbl.mapVal (fun _ l => if m.holds l then { l with unb := l.unb.map Unb.leave } else l) s.caches.l2 } }

/-- The peer line at which a migrated line arrives: its place in the claimed page. -/
def Migration.peerLines (m : Migration) : List (Nat × Nat) :=
  m.pages.zipIdx.flatMap fun g => (pageLines g.1.2.2.1 g.1.2.2.2).zipIdx.map fun k =>
    (k.1, peerLine m.link (Tbl.getD m.claimed g.2 0) + k.2)

/-- Step 4: every line is sent to its claimed place, Written with its data (the mask says so), others as zero. -/
def sendLines (s : State) (m : Migration) : State :=
  let s := m.peerLines.foldl (fun s k =>
    let written := (Tbl.find? s.caches.l2 (lineKey m.part k.1 false)).bind fun l => if l.unb = some (.leaving true false) then some l.data else none
    s.send { link := some m.link, line := k.2, ev := lineEv, write := true, atomic := false, data := written.getD 0
             mask := if written.isSome then BitVec.allOnes 128 else 0, who := some .migration, va := none, tenant := m.tenant, part := m.part }) s
  { s with migration := some { m with step := 4 } }

/-- Steps 3 and 4: the lines are closed, their data is pulled into L2, and every line is sent to its claimed place. What has to wait is tried
again with the lines closed. -/
def sendMigration (s : State) (m : Migration) : State :=
  match lostPage s m with
  | some i => abortMigration s 5 (m.offset i)
  | none =>
    match Res.forEach (leaveLines s m) (fun s k => (pullLine s m.part k).bind fun s _ => .ok s ()) m.lines with
    | .stop s _ => s
    | .ok s _ => sendLines s { m with step := 3 }

/-- Step 5: the entries of a page's run name the peer aperture. -/
def pointAway (s : State) (m : Migration) (i : Nat) : Res Unit :=
  let g := m.pages.getD i (0, 0, 0, 0)
  let pfn := ((m.link + 1) * 0x4000000000 + Tbl.getD m.claimed i 0) / 4096
  let n := runLen (fld g.2.1 11 2)
  let unit := g.2.2.2 / 4096 / n
  Res.forEach s (fun s j =>
    (readPhys s m.part (g.1 + 8 * j) 8).bind fun s v =>
      writePhys s m.part (g.1 + 8 * j) 8 (setFld (w64 v) 16 40 (pfn + j * unit) &&& ~~~0x600#64).toNat) (List.range n)

/-- Steps 5 and 6: every leaf is rewritten, and every translation of the pages is invalidated, here and at the peers. -/
def commitMigration (s : State) (m : Migration) : State :=
  match Res.forEach s (fun s i => pointAway s m i) (List.range m.pages.length) with
  | .stop s _ => s
  | .ok s _ =>
    let s := m.pages.foldl (fun s g =>
      sendInvals (dropTlb s (fun e => e.pa < g.2.2.1 + g.2.2.2 && g.2.2.1 < e.pa + e.size
        && ((s.tenant? e.tenant).map (·.part)) = some m.part) fun _ => false) m.part g.2.2.1 g.2.2.2) s
    { s with migration := some { m with step := 6 } }

/-- Step 7: the source lines return to Absent, the peer is told that the migration is complete (R111), and the command completes. -/
def endMigration (s : State) (m : Migration) : State :=
  let s := tellClaims s m completeEv
  ccDone (ccDetail ({ releaseLines s m.part m.lines with migration := none }) 0x1C 0) 0x18 0

/-- The migration's peer has answered everything that was sent to it. -/
def State.migrationSettled (s : State) : Bool := s.outbound.all fun e => e.2.who != some .migration

/-- Every peer has acknowledged the invalidations (R168). -/
def State.invalsSettled (s : State) : Bool := s.outbound.all fun e => (List.range 4).all fun p => !e.2.isInval p

/-- What MIGRATE does next, if anything. -/
def migrateStep (s : State) : Option State :=
  if !s.ccIs 0x11 then none
  else
    match s.migration with
    | none => some (beginMigration s)
    | some m =>
      match m.step with
      | 2 | 3 =>
        match m.claimed.find? fun c => 2 ^ 64 ≤ c.2 with
        | some c => some (abortMigration s 4 (m.offset c.1))
        | none => if m.claimed.length = m.pages.length then some (sendMigration s m) else none
      | 4 => if s.migrationSettled then some (commitMigration s m) else none
      | _ => if s.invalsSettled then some (endMigration s m) else none

/-- MIGRATE (R108, R109): as far as it can go now; it goes on when the peer has answered. -/
def execMigrate (s : State) : Host.Outcome State Fault Refusal := .next ((migrateStep s).getD s)

/-- MIGRATE_ACK_TIMEOUT (R110). -/
def execMigrateAckTimeout (s : State) : Host.Outcome State Fault Refusal :=
  .next (match s.migration with
    | some m => if m.step < 6 && !s.migrationSettled then abortMigration s 6 0 else s
    | none => s)

end Sys2Proof.Machine
end

