-- ==== Sys2Proof/Machine/Compare.lean ====
section
/-! DEFINITION. The comparator of a clamp (16 R409 to R417, R456) and the targeted tests of units (16 R423). -/

namespace Sys2Proof.Machine

/-! The injected fault (R456). -/

/-- A byte of an INJECT block. -/
def injectByte (b : Block) (off : Nat) : Nat := fld b (8 * off) 8

/-- Bytes of a store, and where they begin in their line. -/
def GateStore.size (x : GateStore) : Nat := ((List.range 128).filter fun i => x.mask.getLsbD i).length
def GateStore.offset (x : GateStore) : Nat := ((List.range 128).find? fun i => x.mask.getLsbD i).getD 0

/-- The stored number of a lane; a lane that stores nothing gives 0. -/
def GateEntry.laneNum (e : GateEntry) (lane : Nat) : Nat :=
  match e.stores.find? fun x => x.lane = lane with
  | some x => lineField x.data x.offset x.size
  | none => 0

/-- The 64-bit field of a store's data that holds a lane (R424): lanes 2i and 2i + 1 share one up to 4 bytes a lane; a wider lane
has its own. -/
def GateEntry.field (e : GateEntry) (lane : Nat) : W64 :=
  if (e.stores.head?.map (·.size)).getD 0 ≤ 4 then w64 (e.laneNum (lane / 2 * 2) + 2 ^ 32 * e.laneNum (lane / 2 * 2 + 1))
  else w64 (e.laneNum lane)

/-- Where bit `bit` of a lane lies in that field. -/
def GateEntry.fieldBit (e : GateEntry) (lane bit : Nat) : Nat :=
  if (e.stores.head?.map (·.size)).getD 0 ≤ 4 then 32 * (lane % 2) + bit else bit

/-- The entry is an st of the group and core that an armed injection names. -/
def injects (s : State) (b : Block) (e : GateEntry) : Bool :=
  e.kind = 1 && e.stores.any (fun x => !x.disc) && e.core % 8 = injectByte b 5
    && (s.group? e.split.group).any fun g => g.grpid = injectByte b 6

/-- What an injection makes of the trailing copy's st. -/
def injected (b : Block) (e : GateEntry) : TrailFault :=
  let lane := injectByte b 7
  let bit := injectByte b 8
  match e.stores.find? fun x => x.lane = lane with
  | none => .agree
  | some x =>
    if 8 * x.size ≤ bit then .agree
    else .differs 2 lane (e.field lane ^^^ BitVec.twoPow 64 (e.fieldBit lane bit))

/-! Release. -/

/-- Who is told of a failure of a released store. -/
def GateEntry.who (e : GateEntry) : Walker :=
  match e.cmd with
  | some id => .command e.core id
  | none => .split e.split e.core

/-- A store of a released entry is performed at the leading core's L1 (R409), with what a peer has answered to its request for the line. -/
def performStore (s : State) (e : GateEntry) (x : GateStore) (tenant : Nat) : Res Unit :=
  let lk := lineKey x.part x.line x.view
  let known : Option Answer := if (s.remote x.part (x.line * 128)).isSome then (Tbl.find? s.caches.filled lk).join else none
  let s : State := if known.isSome then s.setCaches { s.caches with filled := Tbl.del s.caches.filled lk } else s
  let q : Req :=
    { part := x.part, line := x.line, view := x.view, key := x.key, who := .l1 e.core, answer := known, keep := [], tenant := tenant }
  let who : Walker := e.who
  if x.disc then discLine s e.core q (some who) tenant
  else
    (coreWrite s e.core q x.cls (some who) tenant x.data x.mask).bind fun s _ =>
      .ok (if e.cmd.isNone then tagPosted s e.split e.core x.va else s) ()

/-- A released store that is refused (R82, R98, R306, R315): latched for a split; reported by a command's elements, or, on a page
with LATE = 1, taken back until the page has its frame. -/
def refuseStore (s : State) (e : GateEntry) (x : GateStore) (tenant : Nat) (w : Stop) : State :=
  match e.cmd with
  | none => s.updSplit e.split fun sp => sp.latchErr .writeOnce x.va
  | some id =>
    match w with
    | .unbEvict _ =>
      if x.late then
        let undo (k : Command) : Command := { k with done := k.done.filter fun d => d.2 != x.line }
        let va := ((s.cmd? e.core id).bind fun k => (k.elems.find? fun el => (Tbl.find? k.done el.idx) = some x.line).bind (·.addr)).getD 0
        addLate (s.updCmd e.core id undo) x.part tenant va.toNat x.line (.command e.core id)
      else s.updCmd e.core id fun k => { k with aborted := Tbl.put k.aborted x.line 8 }
    | w => s.updCmd e.core id fun k => { k with aborted := Tbl.put k.aborted x.line (stopCause w).1 }

/-- A released store waits for a line of a peer, and asks for it (R39). -/
def askStore (s : State) (x : GateStore) (tenant : Nat) : Stop → State
  | .remoteRead link line ev => askRemote s (.slice x.part x.line x.view) x.part tenant false link line ev
  | _ => s

/-- The peer has not given the line that a released store needs (R392): the failure is latched for a split, or an element's. -/
def failedStore (s : State) (e : GateEntry) (x : GateStore) : Option State :=
  let lk := lineKey x.part x.line x.view
  if (s.remote x.part (x.line * 128)).isSome && Tbl.find? s.caches.filled lk = some none then
    let s := s.setCaches { s.caches with filled := Tbl.del s.caches.filled lk }
    some (match e.cmd with
      | none => s.updSplit e.split fun sp => sp.latchErr .peer x.va
      | some id => s.updCmd e.core id fun k => { k with aborted := Tbl.put k.aborted x.line causePeerAbort })
  else none

/-- The stores of a released entry in lane order: what has to wait leaves the rest for later. -/
def performStores (s : State) (e : GateEntry) (tenant : Nat) : List GateStore → State × List GateStore
  | [] => (s, [])
  | x :: xs =>
    match failedStore s e x with
    | some s => performStores s e tenant xs
    | none =>
      match performStore s e x tenant with
      | .ok s _ => performStores s e tenant xs
      | .stop s w => if w.fatal then performStores (refuseStore s e x tenant w) e tenant xs else (askStore s x tenant w, x :: xs)

/-- The entry at the head of a gate leaves it. -/
def popGate (s : State) (k : Nat) : State :=
  let p := s.pair k
  s.setPair k { p with gate := p.gate.drop 1 }

/-- A matched act takes effect (R409 to R411, R414): a held one is performed by its split; the stores of any other are performed
here. An entry whose stores have to wait stays, released (kind 0). -/
def releaseEntry (s : State) (k : Nat) (e : GateEntry) : State :=
  if e.held then
    (popGate s k).updSplit e.split fun sp => { sp with matched := true, wait := if sp.wait = .check then .none else sp.wait }
  else
    let r := performStores s e e.tenant e.stores
    if r.2.isEmpty then popGate r.1 k
    else
      let p := r.1.pair k
      r.1.setPair k { p with gate := { e with kind := 0, stores := r.2 } :: p.gate.drop 1 }

/-- The kind with which a difference of an act is reported (Table 16.2): a store's fields are 1 or 2, a fault of one copy is 9. -/
def reportKind (e : GateEntry) (kind : Nat) : Nat :=
  if kind = 9 || (e.kind = 1 && (kind = 1 || kind = 2)) then kind else e.kind

/-- An act of a launch that has ended does not match: it is recorded, and never performed (R415). -/
def mismatchGone (s : State) (pair : Nat) (e : GateEntry) (kind lane : Nat) (lead trail : W64) : State :=
  popGate (noteMismatch s e.core e.grp e.split.split e.launch e.tenant e.pc kind lane (e.core + 8) lead trail) pair

/-- COMPARE_ACT (R412, R456): the trailing copy of the oldest act arrives. An armed injection alters it once. -/
def execCompareAct (pair : Nat) (fault : TrailFault) (s : State) : Host.Outcome State Fault Refusal :=
  .next (
    let p := s.pair pair
    match p.gate with
    | [] => s
    | e :: _ =>
      if e.kind = 0 then releaseEntry s pair e
      else
        let hit := p.inject.any fun b => injects s b e
        let s := if hit then s.setPair pair { p with inject := none } else s
        let fault := if hit && fault = .agree then injected (p.inject.getD 0) e else fault
        match fault with
        | .agree => releaseEntry s pair e
        | .differs kind lane trail =>
          let kind := reportKind e kind
          let lead := if kind = 2 then e.field lane else e.lead
          if (s.ctxOf e.split).isNone then mismatchGone s pair e kind lane lead trail
          else mismatch s e.split e.pc kind lane (e.core + 8) lead trail)

/-- TRAILING_COPY_TIMEOUT (R412): kind 11. -/
def execTrailingCopyTimeout (pair : Nat) (s : State) : Host.Outcome State Fault Refusal :=
  .next (match (s.pair pair).gate with
    | [] => s
    | e :: _ =>
      if e.kind = 0 then s
      else if (s.ctxOf e.split).isNone then mismatchGone s pair e 11 0 e.lead 0
      else mismatch s e.split e.pc 11 0 e.core e.lead 0)

/-! Targeted tests (R423). -/

/-- The memory-side port of a slice, bank or port unit (Table 16.7). -/
def unitPort (u : Nat) : Nat := if u < 192 then (u - 128) / 4 else if u < 208 then u - 192 else u - 208

/-- Nothing uses the unit: no crew on a core or in a pair; for a slice, bank or port, no resident launch in its partition. -/
def State.unitIdle (s : State) (u : Nat) : Bool :=
  if u < 128 then s.crews.all fun e => e.2.saved || (e.2.core != u && !(e.2.core + 8 = u && (s.pair (e.2.core / 16)).mode != 0))
  else if u < 224 then
    s.crews.all fun e => e.2.saved || !((s.launch? e.2.launch).any fun l => (s.part l.part).mem.getLsbD (unitPort u))
  else s.crews.all fun e => e.2.saved || e.2.core / 16 != u - 224

/-- UNIT_TEST_START: the unit has been marked, and it is idle. -/
def execUnitTestStart (unit : Nat) (s : State) : Host.Outcome State Fault Refusal :=
  .next (if Tbl.getD s.dev.testing unit false && s.unitIdle unit then
      s.setDev { s.dev with inTest := Tbl.put s.dev.inTest unit true }
    else s)

/-- UNIT_TEST_DONE: the unit returns to service with score 0, or is retired with the error interrupt. -/
def execUnitTestDone (unit : Nat) (passed : Bool) (s : State) : Host.Outcome State Fault Refusal :=
  .next (
    if !Tbl.getD s.dev.inTest unit false then s
    else
      let d := { s.dev with inTest := Tbl.del s.dev.inTest unit, testing := Tbl.del s.dev.testing unit }
      if passed then s.setDev { d with score := Tbl.del d.score unit }
      else errInterrupt (s.setDev { d with retired := Tbl.put d.retired unit true }) 0)

/-- SCORE_DECAY: every score falls by 1, to no lower than 0. -/
def execScoreDecay (s : State) : Host.Outcome State Fault Refusal :=
  .next (s.setDev { s.dev with score := s.dev.score.foldr (fun e t => if e.2 ≤ 1 then t else (e.1, e.2 - 1) :: t) [] })

end Sys2Proof.Machine
end

