-- ==== Sys2Proof/Machine/Digest.lean ====
section
/-! DEFINITION. The digest and the key wrap that the Collier computes (17 R442, R443): SHA3-256 of FIPS 202, and the AES key wrap of
RFC 3394, whose wrapping key the spec does not give (PRESUMED, log 7). -/

namespace Sys2Proof.Machine

/-- The constants of the 24 rounds. -/
def keccakRounds : List (BitVec 64) :=
  [0x0000000000000001, 0x0000000000008082, 0x800000000000808A, 0x8000000080008000, 0x000000000000808B, 0x0000000080000001,
   0x8000000080008081, 0x8000000000008009, 0x000000000000008A, 0x0000000000000088, 0x0000000080008009, 0x000000008000000A,
   0x000000008000808B, 0x800000000000008B, 0x8000000000008089, 0x8000000000008003, 0x8000000000008002, 0x8000000000000080,
   0x000000000000800A, 0x800000008000000A, 0x8000000080008081, 0x8000000000008080, 0x0000000080000001, 0x8000000080008008]

/-- How far each lane is turned; lane x + 5 y. -/
def keccakTurns : List Nat :=
  [0, 1, 62, 28, 27, 36, 44, 6, 55, 20, 3, 10, 43, 25, 39, 41, 45, 15, 21, 8, 18, 2, 61, 56, 14]

/-- One round over the 25 lanes. -/
def keccakRound (a : List (BitVec 64)) (rc : BitVec 64) : List (BitVec 64) :=
  let columns := (List.range 5).map fun x => (List.range 5).foldl (fun (v : BitVec 64) y => v ^^^ a.getD (x + 5 * y) 0) 0
  let mixed := (List.range 25).map fun i =>
    a.getD i 0 ^^^ columns.getD ((i + 4) % 5) 0 ^^^ (columns.getD ((i + 1) % 5) 0).rotateLeft 1
  let turned := (List.range 25).map fun i =>
    let j := (i % 5 + 3 * (i / 5)) % 5 + 5 * (i % 5)
    (mixed.getD j 0).rotateLeft (keccakTurns.getD j 0)
  (List.range 25).map fun i =>
    let row := i / 5 * 5
    turned.getD i 0 ^^^ (~~~(turned.getD (row + (i + 1) % 5) 0) &&& turned.getD (row + (i + 2) % 5) 0)
      ^^^ (if i = 0 then rc else 0)

/-- Bytes that one permutation absorbs. -/
def sha3Rate : Nat := 136

/-- The message with its end marked and filled to whole blocks. -/
def sha3Pad (m : List Byte) : List Byte :=
  let left := sha3Rate - m.length % sha3Rate
  m ++ (if left = 1 then [0x86#8] else 0x06#8 :: List.replicate (left - 2) 0 ++ [0x80#8])

/-- The lanes after `n` blocks. -/
def sha3Absorb (a : List (BitVec 64)) (m : List Byte) : Nat → List (BitVec 64)
  | 0 => a
  | n + 1 =>
    let block := (List.range 25).map fun i => a.getD i 0 ^^^ BitVec.ofNat 64 (leBytes (((m.take sha3Rate).drop (8 * i)).take 8))
    sha3Absorb (keccakRounds.foldl keccakRound block) (m.drop sha3Rate) n

/-- SHA3-256, as a number whose least significant byte is the first of the digest (R442). -/
def sha3 (m : List Byte) : BitVec 256 :=
  let p := sha3Pad m
  BitVec.ofNat 256
    (leBytes (((sha3Absorb (List.replicate 25 0) p (p.length / sha3Rate)).take 4).flatMap fun v => toBytes 8 v.toNat))

/-- The 48 steps of the unwrap, the last first: the integrity value and the eight 8-byte registers. -/
def unwrapSteps (w : List (List Byte)) (a : List Byte) (r : List (List Byte)) : Nat → List Byte × List (List Byte)
  | 0 => (a, r)
  | t + 1 =>
    let b := aesDecrypt w (xorBytes a (toBytes 8 (t + 1)).reverse ++ r.getD (t % 8) [])
    unwrapSteps w (b.take 8) (r.set (t % 8) (b.drop 8)) t

/-- The pair of keys that 72 wrapped bytes hold under a wrapping key; none when the integrity value is not that of RFC 3394. -/
def unwrapUnder (key : BitVec 256) (d : List Byte) : Option Block :=
  let o := unwrapSteps (aesSchedule (toBytes 32 key.toNat)) (d.take 8) ((List.range 8).map fun i => (d.drop (8 + 8 * i)).take 8) 48
  if o.1 = List.replicate 8 0xA6#8 then some (BitVec.ofNat 512 (leBytes o.2.flatten)) else none

/-- What the Collier unwraps (R443). -/
def unwrapKeys (d : List Byte) : Option Block := unwrapUnder Config.wrapKey d

end Sys2Proof.Machine
end

