-- ==== Sys2Proof/Machine/Collier.lean ====
section
/-! DEFINITION. The commands of the Collier's mailbox (16 R422 to R425; 17 R436, R443; 19 R456). -/

namespace Sys2Proof.Machine

/-- A field of the command block. -/
def State.mb (s : State) (off n : Nat) : Nat := fld s.dev.mbcmd (8 * off) (8 * n)

/-- The command that waits in the mailbox has this OP (R425). -/
def State.mbIs (s : State) (op : Nat) : Bool := s.dev.mbgo && !s.dev.pins.heldReset && s.mb 0 4 = op

/-- The bytes from an offset on are 0, but for STATUS (R425). -/
def State.mbZero (s : State) (off : Nat) : Bool := s.mb off (0x18 - off) = 0 && s.mb 0x1C 0x24 = 0

/-- The command completes: STATUS is written, GO reads 0, and a STATUS that is not 0 raises function 0's error interrupt (R425). -/
def mbDone (s : State) (status : Nat) : State :=
  let s := s.setDev { s.dev with mbcmd := setFld s.dev.mbcmd 0xC0 32 status, mbgo := false }
  if status = 0 then s else errInterrupt s 0

/-! Pairing (R422). -/

/-- Cores of both clusters of a pair, and those of its leading cluster. -/
def pairedCores (k : Nat) : List Nat := (List.range 16).map (16 * k + ·)
def leadingCores (k : Nat) : List Nat := (List.range 8).map (16 * k + ·)

/-- The partition that holds a cluster's port (R426). -/
def State.clusterPart (s : State) (cluster : Nat) : Option Nat := (List.range 16).find? fun p => s.ownsCluster p cluster

/-- Asks for the pre-emption of every crew that is resident on these cores (R395). -/
def preemptCores (s : State) (cores : List Nat) : State :=
  { s with crews := Tbl.mapVal (fun _ c => if cores.contains c.core && !c.saved then { c with preempt := true } else c) s.crews }

/-- No crew is resident on these cores, and no saved crew's lazy state is left on them (R395, R399). -/
def State.coresLeft (s : State) (cores : List Nat) : Bool :=
  s.crews.all fun e => !cores.contains e.2.core || (e.2.saved && e.2.toSave.isEmpty && !s.lazyHere e)

/-- Step 3 of Table 16.5: a core is as after reset, but for the commands and streams that belong to saved crews. -/
def clearCore (s : State) (core : Nat) : State :=
  s.setCore core { Core.reset with cmds := (s.core core).cmds, streams := (s.core core).streams }

/-- The TLBs of both clusters of a pair are invalidated (step 2 of Table 16.5). -/
def dropPairTlb (s : State) (k : Nat) : State :=
  let m := s.mmu
  s.setMmu
    { m with
      l1tlb := m.l1tlb.filter fun e => e.1 / 16 != k, ahead := m.ahead.filter fun e => e.1 / 16 != k
      l2tlb := m.l2tlb.filter fun e => e.1 / 2 != k }

/-- The L1s of a list are written back and emptied, and every core of the pair is cleared (steps 2 to 4 of Table 16.5; steps 2 and 3 of
UNPAIR). -/
def clearPair (s : State) (k : Nat) (flush : List Nat) : Res Unit :=
  let part := (s.clusterPart (2 * k)).getD 0
  (Res.forEach s (fun s c => flushL1 s part c) flush).bind fun s _ => .ok ((pairedCores k).foldl clearCore s) ()

/-- What PAIR does next, if anything (R422, Table 16.5): its checks and step 1, and, once no crew is left, steps 2 to 5. -/
def pairStep (s : State) : Option State :=
  if !s.mbIs 0x31 then none
  else
    let k := s.mb 4 1
    let p := s.pair k
    if 8 ≤ k || !s.mbZero 5 then some (mbDone s 1)
    else if p.mode = 1 then
      if !s.coresLeft (pairedCores k) then none
      else
        some (match clearPair s k (pairedCores k) with
          | .stop s _ => s
          | .ok s _ =>
            mbDone (safePin ((dropPairTlb s k).setPair k
              { s.pair k with mode := 2, apart := false, gate := [], inject := none, mmstat := setFld (s.pair k).mmstat 4 1 0 })) 0)
    else if (s.clusterPart (2 * k)).isNone || s.clusterPart (2 * k) != s.clusterPart (2 * k + 1) then some (mbDone s 2)
    else if p.mode != 0 then some (mbDone s 3)
    else if (pairedCores k).any s.coreRetired then some (mbDone s 4)
    else some (preemptCores (s.setPair k { p with mode := 1 }) (pairedCores k))

/-- PAIR (R422): as far as it can go now; it goes on when the crews have left. -/
def execPair (s : State) : Host.Outcome State Fault Refusal := .next ((pairStep s).getD s)

/-- What UNPAIR does next, if anything (R422). A suspect pair stays suspect, and so unplaceable, until RELEASE. -/
def unpairStep (s : State) : Option State :=
  if !s.mbIs 0x32 then none
  else
    let k := s.mb 4 1
    let p := s.pair k
    if 8 ≤ k || !s.mbZero 5 then some (mbDone s 1)
    else if p.mode = 4 then
      if !s.coresLeft (leadingCores k) || !p.gate.isEmpty then none
      else
        some (match clearPair s k (leadingCores k) with
          | .stop s _ => s
          | .ok s _ => mbDone (safePin (s.setPair k { s.pair k with mode := if p.apart then 3 else 0, gate := [] })) 0)
    else if p.mode != 2 && p.mode != 3 then some (mbDone s 3)
    else
      some (preemptCores (safePin (s.setPair k { p with mode := 4, apart := p.mode = 3, inject := none })) (leadingCores k))

/-- UNPAIR (R422): as far as it can go now; it goes on when the crews have left. -/
def execUnpair (s : State) : Host.Outcome State Fault Refusal := .next ((unpairStep s).getD s)

/-- RELEASE (R425): the suspect mark and the record are cleared. -/
def execRelease (s : State) : Host.Outcome State Fault Refusal :=
  .next (if !s.mbIs 0x33 then s
    else
      let k := s.mb 4 1
      let p := s.pair k
      if 8 ≤ k || !s.mbZero 5 then mbDone s 1
      else if p.mode != 3 then mbDone s 3
      else
        mbDone (safePin (s.setPair k
          { p with mode := if p.apart then 0 else 2, apart := false, mmstat := setFld p.mmstat 4 1 0 })) 0)

/-- LIMITS (R425). -/
def execLimits (s : State) : Host.Outcome State Fault Refusal :=
  .next (if !s.mbIs 0x34 then s
    else
      let p := s.mb 4 1
      let n := s.mb 5 1
      let t := s.mb 6 1
      if 16 ≤ p || n < 20 || 36 < n || (t != 0 && t < 8) || !s.mbZero 7 then mbDone s 1
      else
        let s := s.setPart p { s.part p with wdLog := n }
        mbDone (if t = 0 then s else s.setDev { s.dev with suspth := t }) 0)

/-! The staging region (R431). -/

/-- Size of CCSTAGE. -/
def stageSize : Nat := 0xF0000

def State.stageBytes (s : State) (off n : Nat) : List Byte := readCells s.dev.ccstage off n

def writeStage (s : State) (off : Nat) (bs : List Byte) : State := s.setDev { s.dev with ccstage := writeCells s.dev.ccstage off bs }

/-- KEYLOAD (R443). A wrap that does not open completes with STATUS 1 (DEDUCED, log 24). -/
def execKeyload (s : State) : Host.Outcome State Fault Refusal :=
  .next (if !s.mbIs 0x35 then s
    else
      let id := s.mb 4 1
      let p := s.mb 5 1
      let off := s.mb 8 4
      if id = 0 || 63 < id || 16 ≤ p || stageSize < off + 72 || s.mb 6 2 != 0 || !s.mbZero 0x0C then mbDone s 1
      else
        match unwrapKeys (s.stageBytes off 72) with
        | none => mbDone s 1
        | some m => mbDone (s.setDev { s.dev with keys := Tbl.put s.dev.keys (64 * p + id) m }) 0)

/-- PAIRMODE (Table 16.7). -/
def State.pairMode (s : State) : Nat := ((List.range 8).map fun k => (s.pair k).mode * 16 ^ k).sum

/-- The report that ATTEST signs: MEAS0 to MEAS7, the nonce, the identity, the fuse state and PAIRMODE (R443; the order of the
text, DEDUCED, log 24). -/
def attestReport (s : State) (nonce : Nat) : List Byte :=
  (List.range 8).flatMap (fun i => toBytes 32 (Tbl.getD s.dev.meas i 0).toNat) ++ toBytes 32 nonce
    ++ toBytes 32 s.straps.identity.toNat ++ toBytes 8 s.straps.fuses.toNat ++ toBytes 8 s.pairMode

/-- Bytes of an ML-DSA-65 signature. -/
def signatureSize : Nat := 3309

/-- ATTEST (R443). -/
def execAttest (s : State) : Host.Outcome State Fault Refusal :=
  .next (if !s.mbIs 0x37 then s
    else
      let off := s.mb 8 4
      let r := attestReport s (s.mb 0x20 0x20)
      if stageSize < off + r.length + signatureSize || s.mb 4 4 != 0 || s.mb 0x0C 12 != 0 || s.mb 0x1C 4 != 0 then mbDone s 1
      else mbDone (writeStage s off (r ++ (List.range signatureSize).map (Config.signature (sha3 r)))) 0)

/-- INJECT (R456). -/
def execInject (s : State) : Host.Outcome State Fault Refusal :=
  .next (if !s.mbIs 0x38 then s
    else
      let k := s.mb 4 1
      let p := s.pair k
      if 8 ≤ k || 8 ≤ s.mb 5 1 || 32 ≤ s.mb 6 1 || 64 ≤ s.mb 7 1 || 32 ≤ s.mb 8 1 || !s.mbZero 9 then mbDone s 1
      else if p.mode != 2 then mbDone s 3
      else if p.inject.isSome then mbDone s 4
      else mbDone (s.setPair k { p with inject := some s.dev.mbcmd }) 0)

/-! Partition reset (R436). -/

/-- The tenant is one of a partition. -/
def State.tenantIn (s : State) (p tenant : Nat) : Bool := ((s.tenant? tenant).map (·.part)) = some p

/-- Step 2 of Table 17.6: what is in flight for the partition is dropped. -/
def dropFlight (s : State) (p : Nat) : State :=
  let c := s.caches
  let m := s.mmu
  let port (slice : Nat) : Bool := (s.part p).mem.getLsbD (slice / 4)
  let mine (k : Nat) : Bool := if k < missKey 0 then k / 2 / 2 ^ 46 = p else port (k - missKey 0)
  { s with
    outbound := s.outbound.filter fun e => e.2.part != p
    caches := { c with
      busy := c.busy.filter fun e => e.2.access.part != p, probes := c.probes.filter fun x => x.part != p
      acks := c.acks.filter fun x => x.part != p, waiters := c.waiters.filter fun w => !mine w.1
      filled := c.filled.filter fun e => !mine e.1, zeros := c.zeros.filter fun e => !mine e.1
      misses := c.misses.filter fun e => !port e.1 }
    mmu := { m with
      walks := m.walks.filter fun e => !s.tenantIn p e.2.tenant, requests := m.requests.filter fun r => !s.tenantIn p r.tenant } }

/-- An L1's unwritten bytes of a host or peer line are written back; those of every other line are lost. -/
def scrubL1 (s : State) (p : Nat) (l : L1Line) : State :=
  if l.dirty = 0 then s
  else
    let q : Req := { part := p, line := l.line, view := l.view, key := l.key, who := .l1 l.core, answer := none, keep := [] }
    match s.region p (l.line * 128) with
    | .host => s.writeHostLine (l.line * 128 - 2 ^ 51) l.data l.dirty
    | .peer k =>
      if l.perm = .exclusive then postPeer s q (some k) 3 none 0 l.data (BitVec.allOnes 128) else postPeer s q (some k) 6 none 0 l.data l.dirty
    | _ => s

/-- Step 3: every L2 line is scrubbed, with the L1 lines of the partition's clusters. -/
def scrubLines (s : State) (p : Nat) : State :=
  let mine (e : Nat × L1Line) : Bool := s.ownsCluster p (e.2.core / 8)
  let s := (s.caches.l2.filter fun e => e.2.part = p).foldl (fun s e =>
    if s.region p (e.2.line * 128) = .host && ((s.part p).protoAt (e.2.line * 128)).dirty e.2.state then writeBack s e.2 else s) s
  let s := (s.caches.l1.filter mine).foldl (fun s e => scrubL1 s p e.2) s
  s.setCaches { s.caches with l1 := s.caches.l1.filter fun e => !mine e, l2 := s.caches.l2.filter fun e => e.2.part != p }

/-- Steps 3 and 4 for what the partition itself holds. -/
def clearPart (s : State) (p : Nat) : State :=
  s.setPart p { s.part p with lost := [], lostAll := [], shadow := [], late := [], images := [] }

/-- Step 4: the cores and the translation caches. -/
def resetCores (s : State) (p : Nat) : State :=
  let s := { s with cores := s.cores.filter fun e => !s.ownsCluster p (e.1 / 8) }
  dropTlb s (fun e => s.tenantIn p e.tenant) fun e => s.tenantIn p e.1

/-- Step 5: clamps stay clamps, with an empty gate; injections are disarmed (R456). -/
def disarm (s : State) (p : Nat) : State :=
  (List.range 8).foldl (fun s k =>
    if s.ownsCluster p (2 * k) then
      let s := dropGate s k fun _ => true
      s.setPair k { s.pair k with inject := none }
    else s) s

/-- Step 1 for a launch: its crews are freed without a save, and it completes FAILED with CODE 0x41. Its completion word goes out once the
reset has ended, so that the scrub of step 3 does not take it (DEDUCED, log 67). -/
def resetLaunch (s : State) (l : Nat) : State :=
  let s := (s.crews.filter fun e => e.2.launch = l).foldl (fun s e => freeCrew s e.1) s
  s.updLaunch l fun x =>
    match x.origin with
    | .child _ _ _ => { x with state := .failed 0x41, closing := none }
    | _ => { x with state := .failed 0x41, closing := none, irqDue := x.irq, words := x.words ++ [completionWord 3 0x41 l] }

/-- A partition reset as one step (Table 17.6): every launch ends, what is in flight is dropped, a migration of the partition that has not
been committed, or into it, ends, and the lines, the cores and the gates of its clamps are cleared. -/
def partitionReset (s : State) (p : Nat) : State :=
  let s := (s.launches.filter fun e => e.2.part = p && !e.2.ended).foldl (fun s e => resetLaunch s e.1) s
  let s := dropFlight s p
  let s := if s.migration.any fun m => m.part = p && m.step < 6 then abortMigration s 7 0 else s
  let s := s.setDev { s.dev with links := Tbl.mapVal (fun _ l => if l.bound = p then { l with claims := [] } else l) s.dev.links }
  disarm (resetCores (clearPart (scrubLines s p) p) p) p

/-- PRESET (R436). -/
def execPreset (s : State) : Host.Outcome State Fault Refusal :=
  .next (if !s.mbIs 0x36 then s
    else if 16 ≤ s.mb 4 1 || !s.mbZero 5 then mbDone s 1
    else mbDone (partitionReset s (s.mb 4 1)) 0)

end Sys2Proof.Machine
end

