-- ==== Sys2Proof/Machine/Mailbox.lean ====
section
/-! DEFINITION. The commands of the control core's mailbox but for MIGRATE and RECONF (17 R431, Table 17.3): INVAL (06 R160),
TENANT (06 R146), TRAPSET (13 R357), CTXPOOL (15 R398), BIAS (03 R85, R86), PREEMPT (15 R395) and LINKUP (17 R439). -/

namespace Sys2Proof.Machine

/-! INVAL (R160). -/

/-- The results of walks that have ended and have not been used are discarded for the tenants of a test, so that their accesses walk again
(R160). -/
def forgetWalks (s : State) (t : Nat → Bool) : State :=
  let mine (g : Nat) : Bool := (s.group? g).any fun x => (s.launch? x.launch).any fun l => t l.tenant
  { s with
    launches := Tbl.mapVal (fun _ l => if t l.tenant then { l with faults := [] } else l) s.launches
    groups := Tbl.mapVal (fun h g => if mine h then { g with splits := Tbl.mapVal (fun _ sp => { sp with faults := [] }) g.splits } else g) s.groups
    cores := Tbl.mapVal (fun _ x =>
      { x with
        cmds := Tbl.mapVal (fun _ k => if mine k.group then { k with faults := [] } else k) x.cmds
        streams := Tbl.mapVal (fun _ k => if mine k.group then { k with faults := [] } else k) x.streams }) s.cores }

/-- Removes the images of a partition that a test covers (R377). -/
def dropImages (s : State) (p : Nat) (f : Nat × W64 × Image → Bool) : State :=
  let x := s.part p
  s.setPart p { x with images := x.images.filter fun e => !f e }

/-- Removes the translations of a tenant that a test covers, its non-leaf entries, and the images named. -/
def invalTenantBy (s : State) (tenant : Nat) (f : TlbEntry → Bool) (image : Nat → Nat → Bool) : State :=
  let s := dropTlb s (fun e => e.tenant = tenant && f e) fun e => e.1 = tenant
  dropImages (forgetWalks s fun t => t = tenant) (((s.tenant? tenant).map (·.part)).getD 0) fun e =>
    e.1 = tenant && image e.2.1.toNat e.2.2.length

/-- Two ranges of addresses meet. -/
def meets (a n b m : Nat) : Bool := a < b + m && b < a + n

/-- The partition that a block without a partition field means: the one that function 0 serves (DESIGN CHOICE, log 23). -/
def State.hostPart (s : State) : Nat := (s.func 0).funcpart

/-- Kinds 5 and 6. -/
def invalPart (s : State) (p : Nat) : State :=
  let s := dropTlb s (fun e => s.tenantIn p e.tenant) fun e => s.tenantIn p e.1
  dropImages (forgetWalks s fun t => s.tenantIn p t) p fun _ => true

def invalShadow (s : State) (p base length : Nat) : State :=
  let x := s.part p
  s.setPart p { x with shadow := x.shadow.filter fun e => !(base / 65536 ≤ e.1 && e.1 < (base + length) / 65536) }

/-- What an INVAL of a kind does, once its block has been checked. -/
def invalDo (s : State) (kind tenant base length : Nat) : State :=
  match kind with
  | 0 => invalTenantBy s tenant (fun e => meets e.va e.size base 4096) fun a n => meets a n base 4096
  | 1 => invalTenantBy s tenant (fun e => meets e.va e.size base length) fun a n => meets a n base length
  | 2 => invalTenantBy s tenant (fun e => !e.global) fun _ _ => true
  | 3 => invalTenantBy s tenant (fun _ => true) fun _ _ => true
  | 4 => invalTenantBy s tenant (fun e => meets e.gpa e.gsize base length) fun _ _ => true
  | 5 => invalPart s s.hostPart
  | _ => invalShadow s s.hostPart base length

/-- STATUS 1 of Table 6.8. LENGTH is not looked at where the table says that it is ignored; nor is BASE for kinds 2, 3 and 5, which use no
BASE, though the table does not call it ignored there (DESIGN CHOICE, log 98). -/
def invalMalformed (s : State) : Bool :=
  let kind := s.cc 6 1
  let unit := if kind = 6 then 65536 else 4096
  6 < kind || s.cc 7 1 != 0 || s.cc 0x1C 4 != 0 || ([0, 1, 4, 6].contains kind && s.cc 8 8 % unit != 0)
    || ([1, 4, 6].contains kind && s.cc 0x10 8 % unit != 0)

/-- Accesses of a tenant have been translated and are not performed yet: stores of a clamp's gate, accesses that the host or a peer has
not answered, and writes of its partition's cores whose line waits for a peer's acknowledgement (R160, R74, R409). -/
def State.accessing (s : State) (tenant : Nat) : Bool :=
  let part := (s.tenant? tenant).map (·.part)
  s.dev.pairs.any (fun p => p.2.gate.any fun e => e.tenant = tenant && !e.stores.isEmpty)
    || s.outbound.any (fun e => e.2.tenant = tenant && e.2.who.isSome && e.2.who != some .migration)
    || s.caches.busy.any fun e => part = some e.2.access.part && handsOver e.2.event && e.2.access.who != .control

/-- An access that may have used a translation which the command covers is under way (R160); kind 6 covers none. -/
def State.invalWaits (s : State) (kind tenant : Nat) : Bool :=
  if kind < 5 then s.accessing tenant
  else kind = 5 && s.tenants.any fun t => t.2.part = s.hostPart && s.accessing t.1

/-- An INVAL command that waits in the mailbox: refused, or carried out. Its entries go at once; it completes once the accesses that used
one have been performed (R160). -/
def inval (s : State) : State :=
  let kind := s.cc 6 1
  let tenant := s.cc 4 2
  if invalMalformed s then ccDone s 0x18 1
  else if kind < 5 && (s.tenant? tenant).isNone then ccDone s 0x18 2
  else
    let s := invalDo s kind tenant (s.cc 8 8) (s.cc 0x10 8)
    if s.invalWaits kind tenant then s else ccDone s 0x18 0

/-- The command in the mailbox is an INVAL of a kind. -/
def State.invalIs (s : State) (kind : Nat) : Bool := s.ccIs 0x12 && s.cc 6 1 = kind

/-- INVAL_PAGE (R160). -/
def execInvalPage (s : State) : Host.Outcome State Fault Refusal := .next (if s.invalIs 0 then inval s else s)
/-- INVAL_RANGE (R160). -/
def execInvalRange (s : State) : Host.Outcome State Fault Refusal := .next (if s.invalIs 1 then inval s else s)
/-- INVAL_TENANT (R160). -/
def execInvalTenant (s : State) : Host.Outcome State Fault Refusal := .next (if s.invalIs 2 then inval s else s)
/-- INVAL_TENANT_ALL (R160). -/
def execInvalTenantAll (s : State) : Host.Outcome State Fault Refusal := .next (if s.invalIs 3 then inval s else s)
/-- INVAL_GUEST_RANGE (R160). -/
def execInvalGuestRange (s : State) : Host.Outcome State Fault Refusal := .next (if s.invalIs 4 then inval s else s)
/-- INVAL_PARTITION (R160). -/
def execInvalPartition (s : State) : Host.Outcome State Fault Refusal := .next (if s.invalIs 5 then inval s else s)
/-- INVAL_KEY_SHADOW (R160); a KIND that the table does not give is malformed. -/
def execInvalKeyShadow (s : State) : Host.Outcome State Fault Refusal :=
  .next (if s.ccIs 0x12 && 6 ≤ s.cc 6 1 then inval s else s)

/-! Tenants. -/

/-- A group of the tenant is resident; one whose crew is saved counts, since its context is kept (DEDUCED, log 25). -/
def State.tenantBusy (s : State) (tenant : Nat) : Bool :=
  s.groups.any fun e => (s.launch? e.2.launch).any fun l => l.tenant = tenant

/-- What is cached or in progress under a tenant's old context goes. -/
def dropTenant (s : State) (tenant : Nat) : State :=
  let s := invalTenantBy s tenant (fun _ => true) fun _ _ => true
  s.setMmu
    { s.mmu with
      walks := s.mmu.walks.filter fun e => e.2.tenant != tenant, requests := s.mmu.requests.filter fun r => r.tenant != tenant }

/-- The context in a TENANT block is malformed (R146). R146 gives no function above 63 and lists no refusal for one: it is malformed here
(DESIGN CHOICE, log 98). -/
def contextMalformed (s : State) : Bool :=
  s.cc 0x20 2 != 0 || (s.cc 0x33 1 % 2 = 1 && s.cc 0x28 2 != 0) || 63 < s.cc 0x32 1 || 1 < s.cc 0x33 1 || 2 ^ 20 ≤ s.cc 0x34 4
    || s.cc 0x38 1 = 0 || 32 < s.cc 0x38 1 || s.cc 0x39 7 != 0

/-- The command in the mailbox is a TENANT that sets, or one that deletes. -/
def State.tenantDeletes (s : State) : Bool := s.cc 5 1 = 1

/-- A tenant as a TENANT command leaves it: its handler and context pool are kept. -/
def contextOf (s : State) (old : Option Tenant) : Tenant :=
  let t := old.getD
    { part := 0, s1root := 0, s2root := 0, func := 0, s2en := false, pasid := 0, quota := 1, handler := 0, ring := 0, log2n := 4
      ringSet := false, frames := 0, pool := none, poolUsed := [] }
  { t with
    part := s.cc 4 1, s1root := s.cc 0x20 8, s2root := s.cc 0x28 8, func := s.cc 0x32 1, s2en := s.cc 0x33 1 = 1
    pasid := s.cc 0x34 4, quota := s.cc 0x38 1 }

/-- TENANT_SET (R146, Table 17.3): it also sets FUNCPART of the context's function (R437). -/
def execTenantSet (s : State) : Host.Outcome State Fault Refusal :=
  .next (if !s.ccIs 0x13 || s.tenantDeletes then s
    else
      let id := s.cc 0x30 2
      if s.cc 5 1 != 0 || 16 ≤ s.cc 4 1 || contextMalformed s then ccDone s 8 1
      else if s.tenantBusy id then ccDone s 8 3
      else
        let t := contextOf s (s.tenant? id)
        let s := if (s.tenant? id).isSome then dropTenant s id else s
        let s := { s with tenants := Tbl.put s.tenants id t }
        ccDone (s.setFunc t.func { s.func t.func with funcpart := t.part }) 8 0)

/-- TENANT_DELETE (Table 17.3). -/
def execTenantDelete (s : State) : Host.Outcome State Fault Refusal :=
  .next (if !s.ccIs 0x13 || !s.tenantDeletes then s
    else
      let id := s.cc 0x30 2
      if 16 ≤ s.cc 4 1 then ccDone s 8 1
      else if (s.tenant? id).isNone then ccDone s 8 2
      else if s.tenantBusy id then ccDone s 8 3
      else
        let s := dropTenant s id
        ccDone { s with tenants := Tbl.del s.tenants id } 8 0)

/-- TRAPSET (R357, Table 13.2). -/
def execTrapset (s : State) : Host.Outcome State Fault Refusal :=
  .next (if !s.ccIs 0x14 then s
    else
      let id := s.cc 4 2
      let n := s.cc 6 1
      if n < 4 || 12 < n || s.cc 7 1 != 0 || s.cc 8 8 % 8 != 0 || s.cc 0x10 8 % 4096 != 0 || s.cc 0x1C 4 != 0 then ccDone s 0x18 1
      else if (s.tenant? id).isNone then ccDone s 0x18 2
      else if s.tenantBusy id then ccDone s 0x18 3
      else
        ccDone { s with tenants := Tbl.upd s.tenants id fun t =>
          { t with handler := w64 (s.cc 8 8), ring := w64 (s.cc 0x10 8), log2n := n, ringSet := true } } 0x18 0)

/-- CTXPOOL (R398, Table 15.5). -/
def execCtxpool (s : State) : Host.Outcome State Fault Refusal :=
  .next (if !s.ccIs 0x15 then s
    else
      let id := s.cc 4 2
      let n := s.cc 0x10 8
      if s.cc 6 2 != 0 || s.cc 8 8 % 2 ^ 20 != 0 || n % 2 ^ 20 != 0 || n < 2 ^ 21 || s.cc 0x1C 4 != 0 then ccDone s 0x18 1
      else if (s.tenant? id).isNone then ccDone s 0x18 2
      else if s.tenantBusy id then ccDone s 0x18 3
      else
        ccDone { s with tenants := Tbl.upd s.tenants id fun t => { t with pool := some (w64 (s.cc 8 8), n), poolUsed := [] } } 0x18 0)

/-! BIAS (R85, R86). -/

/-- Copy commands and gather streams of a partition that are under way: what a flip admits (R86 step 1). -/
def State.copies (s : State) (p : Nat) : List Walker :=
  s.cores.flatMap fun e =>
    if s.ownsCluster p (e.1 / 8) then
      ((e.2.cmds.filter fun k => k.2.kind != .drainS && k.2.kind != .drainG).map fun k => Walker.command e.1 k.1)
        ++ e.2.streams.map fun k => Walker.stream e.1 k.1
    else []

/-- An element that a copy has still to transfer lies in a block; one whose address cannot be translated now may lie there (R86 step 2,
DEDUCED, log 97). -/
def Command.touches (s : State) (x : Command) (tenant b : Nat) : Bool :=
  x.elems.any fun el => (Tbl.find? x.done el.idx).isNone && el.addr.any fun a =>
    match walkAll s tenant a.toNat (if x.kind.loads then .engRead else .engWrite) true [] with
    | .ok _ (.ok e, _) => (e.pa + (a.toNat - e.va)) / 2 ^ 21 = b
    | _ => true

/-- Step 2 of Table 3.10 has not ended: an admitted copy command that touches the block is not complete. -/
def State.copying (s : State) (f : BiasFlip) : Bool :=
  f.admitted.any fun w => match w with
    | .command core id => (s.cmd? core id).any fun x => (((s.group? x.group).bind fun g => s.launch? g.launch).map (·.tenant)).any fun t => x.touches s t f.block
    | _ => false

/-- The L2 lines of a 2 MiB block. -/
def State.blockLines (s : State) (p b : Nat) : List Nat :=
  (s.caches.l2.filter fun e => e.2.part = p && e.2.line / 2 ^ 14 = b).map (·.1)

/-- PRG at each of a list of lines: no copy is left, and what is newer than memory is written back (R70, R86). -/
def purgeLines (s : State) (lks : List Nat) : Res Unit :=
  Res.forEach s (fun s lk =>
    match Tbl.find? s.caches.l2 lk with
    | none => .ok s ()
    | some l => forceOut s lk l 14) lks

/-- A back-invalidate snoop for each line of a block (R86). -/
def sendSnoops (s : State) (p b : Nat) : State :=
  (List.range (2 ^ 14)).foldl (fun s i =>
    s.send { link := none, line := b * 2 ^ 14 + i, ev := snoopEv, write := false, atomic := false, data := 0, mask := 0, who := none
             va := none, tenant := 0, part := p }) s

/-- The host has responded to every back-invalidate snoop. -/
def State.snoopsSettled (s : State) : Bool := s.outbound.all fun e => !(e.2.link.isNone && e.2.ev = snoopEv)

/-- Step 1: the block is closed to new device accesses, and what was issued before is admitted. -/
def beginFlip (s : State) (p b : Nat) (toHost : Bool) : State :=
  s.setDev { s.dev with biasFlip := some { part := p, block := b, toHost := toHost, admitted := s.copies p, stalled := [] } }

/-- The last step: the bias bit changes, the stalled accesses resume, and the command completes. -/
def endFlip (s : State) (f : BiasFlip) : State :=
  ccDone (s.setDev { s.dev with
    biasFlip := none, hostBias := Tbl.setD false s.dev.hostBias (2 ^ 32 * f.part + f.block) f.toHost }) 0x18 0

/-- A flip that has begun, as far as it can go now (R86): PRG at every line once the copies are complete and, on the way to device bias on a
CXL 3.x host, the back-invalidate snoops. -/
def flipStep (s : State) (f : BiasFlip) : Option State :=
  if f.toHost && s.copying f then none
  else
    match purgeLines s (s.blockLines f.part f.block) with
    | .stop s _ => some s
    | .ok s _ =>
      if f.toHost || !s.straps.cxl3 then some (endFlip s f)
      else if !f.snooped then some (sendSnoops (s.setDev { s.dev with biasFlip := some { f with snooped := true } }) f.part f.block)
      else if s.snoopsSettled then some (endFlip s f)
      else none

/-- The next part of a BIAS command, if it can go on. -/
def biasStep (s : State) (toHost : Bool) : Option State :=
  if !s.ccIs 0x16 || (s.cc 4 1 = 1) != toHost then none
  else
    let p := s.hostPart
    let a := s.cc 8 8
    if 1 < s.cc 4 1 || a % 2 ^ 21 != 0 || s.localBytes p < a + 2 ^ 21 then some (ccDone s 0x18 1)
    else
      match s.dev.biasFlip with
      | none => some (beginFlip s p (a / 2 ^ 21) toHost)
      | some f => flipStep s f

/-- BIAS_TO_HOST (R86, Table 3.10): as far as it can go now. -/
def execBiasToHost (s : State) : Host.Outcome State Fault Refusal := .next ((biasStep s true).getD s)

/-- BIAS_TO_DEVICE (R86): as far as it can go now. A CXL 3.x host gives its copies back, by writes of its own, before it responds to the
back-invalidate snoops; on a CXL 2.0 host software has flushed them. -/
def execBiasToDevice (s : State) : Host.Outcome State Fault Refusal := .next ((biasStep s false).getD s)

/-! PREEMPT, LINKUP and unknown commands. -/

/-- PREEMPT (R395): a block that names no resident cord of the partition is malformed (DEDUCED, log 25). -/
def execPreempt (s : State) : Host.Outcome State Fault Refusal :=
  .next (if !s.ccIs 0x17 then s
    else
      let l := s.cc 8 4
      let cord := s.cc 0x0C 4
      let mine := (s.launch? l).any fun x => x.part = s.cc 4 1
      if !mine || !((s.crewsOf l cord).any fun e => !e.2.saved) then ccDone s 0x18 1
      else ccDone (askPreempt s l cord) 0x18 0)

/-- LINKUP (R439). -/
def execLinkup (s : State) : Host.Outcome State Fault Refusal :=
  .next (if !s.ccIs 0x18 then s
    else
      let k := s.cc 4 1
      let p := s.cc 5 1
      let l := s.link k
      if 4 ≤ k || 16 ≤ p || l.state != 0 then ccDone s 0x18 1
      else if !l.trains then ccDone s 0x18 2
      else if !l.attests then ccDone s 0x18 3
      else if !(s.part p).req.getLsbD (17 + k) then ccDone s 0x18 4
      else if !l.accepts then ccDone s 0x18 5
      else ccDone (s.setLink k { l with state := 2, bound := p }) 0x18 0)

/-- The OPs of Table 17.3. -/
def ccOps : List Nat := [0x11, 0x12, 0x13, 0x14, 0x15, 0x16, 0x17, 0x18, 0x21]

/-- CC_UNKNOWN_OP (R431). -/
def execCcUnknownOp (s : State) : Host.Outcome State Fault Refusal :=
  .next (if s.dev.ccgo && s.dev.locked && !ccOps.contains (s.cc 0 4) then ccDone s 0x18 1 else s)

end Sys2Proof.Machine
end

