-- ==== Sys2Proof/Machine/Reconf.lean ====
section
/-! DEFINITION. RECONF, the reconfiguration of a partition (17 R432 to R435; 03 R70, R75; 04 R92, R100, R101, R107). -/

namespace Sys2Proof.Machine

/-! Entries (R432, Table 17.4). -/

/-- A 16-byte entry of the list, as a number. -/
def State.listEntry (s : State) (i : Nat) : Nat := leBytes (readCells s.dev.cclist (16 * i) 16)

/-- The entries of the list. -/
def State.listEntries (s : State) (n : Nat) : List Nat := (List.range n).map s.listEntry

def entryType (e : Nat) : Nat := bits e 0 8
/-- Port of ADDREQ, DELREQ and SETCLASS; log2 S of SETPOOL. -/
def entryPort (e : Nat) : Nat := bits e 8 5
/-- Port of ADDMEM and DELMEM; n of SETRANGE. -/
def entryMem (e : Nat) : Nat := bits e 8 4

/-- The fields that Table 17.4 names for an entry: position and width. -/
def entryFields (e : Nat) : List (Nat × Nat) :=
  match entryType e with
  | 1 | 2 => [(8, 5)]
  | 3 | 4 => [(8, 4)]
  | 5 => [(8, 8)]
  | 6 => if bits e 13 1 = 0 then [(8, 6), (14, 4)] else [(8, 6), (18, 28)]
  | 7 => [(16, 13)]
  | 8 => [(8, 5), (64, 52)]
  | 9 => [(8, 8), (16, 36), (52, 36)]
  | 10 => [(8, 3), (32, 32)]
  | _ => []

/-- A TYPE of the table, with every reserved bit 0. -/
def entryWellFormed (e : Nat) : Bool :=
  1 ≤ entryType e && entryType e ≤ 10
    && e == entryType e + ((entryFields e).map fun f => bits e f.1 f.2 * 2 ^ f.1).sum

/-- The image in CCSTAGE that a LOADPROT names. -/
def State.entryImage (s : State) (e : Nat) : List Byte :=
  let off := bits e 32 32
  s.stageBytes off (min 8320 (stageSize - off))

/-- The registers after an entry. -/
def applyEntry (s : State) (p e : Nat) : State :=
  let x := s.part p
  let port := entryPort e
  match entryType e with
  | 1 => s.setPart p { x with req := x.req ||| BitVec.twoPow 24 port }
  | 2 => s.setPart p { x with req := x.req &&& ~~~(BitVec.twoPow 24 port) }
  | 3 => s.setPart p { x with mem := x.mem ||| BitVec.twoPow 16 (entryMem e) }
  | 4 => s.setPart p { x with mem := x.mem &&& ~~~(BitVec.twoPow 16 (entryMem e)) }
  | 5 => s.setPart p { x with share := bits e 8 8 }
  | 6 =>
    if bits e 13 1 = 1 then
      s.setPart p { x with w1 := bits e 18 8, w2 := bits e 26 8, w3 := bits e 34 8, tc0cap := bits e 42 4 }
    else
      s.setPart p
        { x with
          pclass := if port < 16 then setFld x.pclass (2 * port) 2 (bits e 14 2) else x.pclass
          peclass := setFld x.peclass (2 * port) 2 (bits e 16 2) }
  | 7 => s.setPart p { x with resvN := bits e 16 13 }
  | 8 => s.setPart p { x with pool := some (bits e 64 52, port), poolBad := false }
  | 9 =>
    let r : Range := { en := bits e 12 1 = 1, slot := bits e 13 3, base := bits e 16 36, limit := bits e 52 36 }
    s.setPart p { x with ranges := Tbl.put x.ranges (entryMem e) r }
  | _ =>
    match checkImage (s.entryImage e) with
    | .ok q => s.setPart p { x with slots := Tbl.put x.slots (bits e 8 3) q }
    | .error _ => s

/-! Checks (R433, R434). -/

/-- A requester port belongs to a partition other than `p`. -/
def State.reqElsewhere (s : State) (p port : Nat) : Bool := s.parts.any fun x => x.1 != p && x.2.req.getLsbD port
def State.memElsewhere (s : State) (p port : Nat) : Bool := s.parts.any fun x => x.1 != p && x.2.mem.getLsbD port

/-- FREE of UNBFREE. -/
def State.unbFree (s : State) (p : Nat) : Nat := s.unbfree p % 2 ^ 24

/-- Counted lines are held, or lines are lost (R107). -/
def State.unbInUse (s : State) (p : Nat) : Bool :=
  s.caches.l2.any (fun e => e.2.part = p && e.2.unb.isSome) || (s.part p).lost.any (fun e => !e.2.isEmpty) || !(s.part p).lostAll.isEmpty

/-- The partition has a resident crew, or a launch in placement (R434). -/
def State.partBusy (s : State) (p : Nat) : Bool :=
  s.crews.any (fun e => (s.launch? e.2.launch).any fun l => l.part = p)
    || s.launches.any fun e => e.2.part = p && !e.2.ended && 0 < e.2.placedCords && e.2.placedCords < e.2.cords

/-- Requests of the partition are in flight at the host port or a peer port (R434). -/
def State.portFlight (s : State) (p port : Nat) : Bool :=
  s.outbound.any fun e => e.2.part = p && e.2.link = if port = 16 then none else some (port - 17)

/-- The range of an entry meets the unbacked aperture. -/
def meetsUnbacked (base limit : Nat) : Bool := base ≤ 0x2FFFFF && 0x200000 ≤ limit

/-- STATUS and DETAIL of the first refusal of an entry that concerns ports. -/
def checkPorts (s : State) (p e : Nat) : Option (Nat × Nat) :=
  let x := s.part p
  let port := entryPort e
  let m := entryMem e
  match entryType e with
  | 1 => if 20 < port then some (1, 0) else if port != 16 && s.reqElsewhere p port then some (2, port) else none
  | 2 =>
    if 20 < port then some (1, 0)
    else if !x.req.getLsbD port then some (2, port)
    else if 17 ≤ port && (s.migration.any (fun g => g.link = port - 17) || !(s.link (port - 17)).claims.isEmpty) then some (10, 0)
    else if port < 16 && (s.pair (port / 2)).mode != 0 then some (5, port / 2)
    else if (port < 16 && !s.coresLeft ((List.range 8).map (8 * port + ·))) || (16 ≤ port && s.portFlight p port) then some (3, port)
    else none
  | 3 =>
    if s.memElsewhere p m then some (2, m)
    else if Tbl.getD s.dev.retired (scorePort m) false then some (9, m)
    else if s.unbInUse p then some (4, s.unbFree p)
    else if s.partBusy p then some (3, 0xFF) else none
  | 4 =>
    if !x.mem.getLsbD m then some (2, m)
    else if s.unbInUse p then some (4, s.unbFree p)
    else if s.partBusy p then some (3, 0xFF) else none
  | 6 =>
    if 20 < port || (bits e 13 1 = 1 && bits e 42 4 = 0) then some (1, 0)
    else if !x.req.getLsbD port then some (2, port) else none
  | _ => none

/-- The lowest-numbered range entry that names a slot. -/
def Partition.namedBy (x : Partition) (slot : Nat) : Option Nat := (x.ranges.find? fun r => r.2.slot = slot).map (·.1)

/-- STATUS and DETAIL of the first refusal of any other entry. The refusals of a LOADPROT are tried in the order in which R75 lists them, so a
slot that a range entry names is refused with STATUS 7 whatever its image (DEDUCED, log 66). -/
def checkFields (s : State) (p e : Nat) : Option (Nat × Nat) :=
  let x := s.part p
  match entryType e with
  | 5 =>
    let others := ((s.parts.filter fun q => q.1 != p).map fun q => q.2.share).sum
    if 240 < others + bits e 8 8 then some (1, 0) else none
  | 7 =>
    let n := bits e 16 13
    if 4096 < n || n % 16 != 0 then some (1, 0)
    else if (List.range 64).any fun sl => n < s.countedSlice p sl then some (4, s.unbFree p)
    else if !x.late.isEmpty || s.migration.any (fun g => g.part = p) then some (10, 0) else none
  | 8 =>
    let n := entryPort e
    let base := bits e 64 52
    if n < 6 || 16 < n || base % 4096 != 0 || s.localBytes p < base + 0x40 + 8 * 2 ^ n then some (1, 0) else none
  | 9 =>
    let n := entryMem e
    let slot := bits e 13 3
    let base := bits e 16 36
    let limit := bits e 52 36
    match x.proto slot with
    | none => some (7, n)
    | some q =>
      if limit < base || (bits e 12 1 = 1 && meetsUnbacked base limit && q.parking.isNone) then some (7, n) else none
  | 10 =>
    let slot := bits e 8 3
    let off := bits e 32 32
    if slot < 4 || off % 128 != 0 || stageSize ≤ off then some (1, 0)
    else
      match x.namedBy slot with
      | some n => some (7, n)
      | none =>
        match checkImage (s.entryImage e) with
        | .error d => some (6, d)
        | .ok _ => none
  | _ => none

/-- The first refusal of an entry against the state that the earlier entries leave (R433). -/
def checkEntry (s : State) (p e : Nat) : Option (Nat × Nat) :=
  if !entryWellFormed e then some (1, 0) else (checkPorts s p e).orElse fun _ => checkFields s p e

/-- The first entry that fails: STATUS, INDEX and DETAIL. -/
def checkList (s : State) (p : Nat) : Nat → List Nat → Option (Nat × Nat × Nat)
  | _, [] => none
  | i, e :: rest =>
    match checkEntry s p e with
    | some (st, d) => some (st, i, d)
    | none => checkList (applyEntry s p e) p (i + 1) rest

/-! Application (R435). -/

/-- The list changes the partition's memory-side ports. -/
def renumbers (es : List Nat) : Bool := es.any fun e => entryType e = 3 || entryType e = 4

/-- The ranges that a SETRANGE touches, old and new (R70 step 1). -/
def rangesOf (x : Partition) (e : Nat) : List (Nat × Nat) :=
  let old := match Tbl.find? x.ranges (entryMem e) with
    | some r => if r.en then [(r.base, r.limit)] else []
    | none => []
  old ++ if bits e 12 1 = 1 then [(bits e 16 36, bits e 52 36)] else []

/-- A line lies in a range that the list changes. -/
def rangeLine (x : Partition) (es : List Nat) (line : Nat) : Bool :=
  (es.filter fun e => entryType e = 9).any fun e => (rangesOf x e).any fun r => r.1 ≤ line / 512 && line / 512 ≤ r.2

/-- A line that goes through PRG before the registers change: of a changed range, of a ring that SETPOOL names, or any line of
a partition whose memory is renumbered, since the home of each changes. -/
def purged (s : State) (p : Nat) (es : List Nat) (l : L2Line) : Bool :=
  l.part = p && (renumbers es || rangeLine (s.part p) es l.line || es.any fun e => entryType e = 8 && bits e 64 52 / 128 = l.line)

/-- The stall, write-back and purge that an accepted list needs: no L1 or peer keeps a copy of a purged line, its owner's data is taken,
and a backed line goes (R70 step 2). -/
def prepareList (s : State) (p : Nat) (es : List Nat) : Res Unit :=
  let leave := (es.filter fun e => entryType e = 2 && entryPort e < 16).map entryPort
  let clusters := if renumbers es then s.clustersOf p else leave
  (Res.forEach s (fun s c => flushL1 s p c) (clusters.flatMap fun c => (List.range 8).map (8 * c + ·))).bind fun s _ =>
    purgeLines s ((s.caches.l2.filter fun e => purged s p es e.2).map (·.1))

/-- Step 3: local memory is renumbered; its contents are undefined until written, its translations and shadow are gone, and the
peers are told (R168). -/
def renumber (s : State) (p : Nat) (old : List Nat) : State :=
  let ports := (old ++ (s.part p).ports).eraseDups
  let gone (dpa : Nat) : Bool := dpa < 2 ^ 51 && ports.contains (dpa / s.portBytes)
  let s := { s with
    mem := s.mem.filter fun e => !gone e.1
    memKey := s.memKey.filter fun e => !gone (e.1 * 128)
    memSeed := ports.foldl (fun t m => Tbl.put t m s.seed) s.memSeed
    seed := s.seed + 1 }
  let s := invalPart s p
  let s := s.setPart p { s.part p with shadow := [] }
  sendInvals s p 0 0x2000000000

/-- HEAD := TAIL of a ring that SETPOOL names (R101). -/
def emptyPool (s : State) (p e : Nat) : State :=
  let line := bits e 64 52 / 128
  let d := s.readLocal p line 0
  s.writeLocal p line 0 (mergeLine d (lineWith 8 8 (lineField d 0 8)) (byteSpan 8 8))

/-- An unbacked line of a changed range takes the parking state of the program that now selects it (R70, R100). -/
def parkLines (s : State) (p : Nat) (old : Partition) (es : List Nat) : State :=
  let park (l : L2Line) : L2Line :=
    if l.part = p && l.unb.isSome && rangeLine old es l.line then
      { l with state := (((s.part p).protoAt (l.line * 128)).parking).getD 0 }
    else l
  s.setCaches { s.caches with l2 := Tbl.mapVal (fun _ l => park l) s.caches.l2 }

/-- An accepted list takes effect, after its preparation. -/
def applyList (s : State) (p : Nat) (es : List Nat) : State :=
  let old := s.part p
  let s := es.foldl (fun s e => applyEntry s p e) s
  let s := if renumbers es then renumber s p old.ports else s
  let s := parkLines s p old es
  (es.filter fun e => entryType e = 8).foldl (fun s e => emptyPool s p e) s

/-- The block's answer. -/
def reconfDone (s : State) (status index detail : Nat) : State := ccDone (ccDetail (ccDetail s 0x1C index) 0x20 detail) 0x18 status

/-- What RECONF does next, if it can go on: it waits for migrations into the partition (R434), is refused as a whole, or is applied
as a whole. -/
def reconfStep (s : State) : Option State :=
  if !s.ccIs 0x21 then none
  else
    let p := s.cc 4 1
    let n := s.cc 5 1
    if 16 ≤ p || n = 0 || 64 < n then some (reconfDone s 1 0 0)
    else if s.migration.isSome || (List.range 4).any fun k => (s.link k).bound = p && !(s.link k).claims.isEmpty then none
    else
      let es := s.listEntries n
      match checkList s p 0 es with
      | some (st, i, d) => some (reconfDone s st i d)
      | none =>
        some (match prepareList s p es with
          | .stop s _ => s
          | .ok s _ => reconfDone (applyList s p es) 0 0 0)

/-- RECONF (R432 to R435): as far as it can go now. -/
def execReconf (s : State) : Host.Outcome State Fault Refusal := .next ((reconfStep s).getD s)

end Sys2Proof.Machine
end

