-- ==== Sys2Proof/Machine/Device.lean ====
section
/-! DEFINITION. The host's register writes (01 R25; 03 R88; 06 Table 6.11; 14 Table 14.3; 15 Table 15.2; 17 R431, Tables 17.1 and
17.7), and what reaches the device through its pins: resets, power, temperature and clocks (17 R438, R442, R444). -/

namespace Sys2Proof.Machine

/-! Register writes. -/

/-- A naturally aligned write of 4 or 8 bytes (R25), as the aligned 8 bytes that it lies in see it: offset, bits written, value. -/
structure RegWrite where
  off : Nat
  on : W64
  val : W64
  deriving DecidableEq, Repr

/-- A register after a write: bits that are RW take the value, bits that are W1C clear where a 1 is written (R10). -/
def RegWrite.to (w : RegWrite) (old rw w1c : W64) : W64 :=
  ((old &&& ~~~(rw &&& w.on)) ||| (w.val &&& rw &&& w.on)) &&& ~~~(w.val &&& w1c &&& w.on)

/-- The bits [lo + len - 1 : lo]. -/
def ones (lo len : Nat) : W64 := w64 ((2 ^ len - 1) * 2 ^ lo)

/-- The bytes of a write, with the offset of the first. -/
def RegWrite.bytes (w : RegWrite) : List (Nat × Byte) :=
  ((List.range 8).filter fun i => w.on.getLsbD (8 * i)).map fun i => (w.off + i, w.val.extractLsb' (8 * i) 8)

/-- Interrupt registers of a function (Table 17.7). -/
def writeIntReg (s : State) (f : Nat) (w : RegWrite) : State :=
  let x := s.func f
  if w.off = 0 then s.setFunc f { x with intstat := w.to x.intstat 0 (ones 0 31) }
  else if w.off = 8 then s.setFunc f { x with intcfg := w.to x.intcfg (ones 0 36) 0 }
  else s

/-- Page-request block of a function (Table 6.11). -/
def writePrqReg (s : State) (f : Nat) (w : RegWrite) : State :=
  let x := s.func f
  match w.off with
  | 0x00 => s.setFunc f { x with prqbase := w.to x.prqbase (ones 12 52) 0 }
  | 0x08 => s.setFunc f { x with prqcfg := w.to x.prqcfg (ones 0 4 ||| ones 31 1) 0 }
  | 0x18 => s.setFunc f { x with prqhead := (w.to (x.prqhead.setWidth 64) (ones 0 32) 0).setWidth 32 }
  | 0x20 =>
    if w.on.getLsbD 0 then
      match execPrqreply f w.val s with
      | .next s => s
      | _ => s
    else s
  | 0x28 => s.setFunc f { x with badReply := fld (w.to (w64 (x.badReply * 65536)) 0 (ones 16 16)) 16 16 }
  | _ => s

/-- A queue interface (Table 14.3). -/
def writeQueueReg (s : State) (f q : Nat) (w : RegWrite) : State :=
  let x := (s.func f).queue q
  match w.off with
  | 0x00 => s.setQueue f q { x with qbase := w.to x.qbase (ones 12 52) 0 }
  | 0x08 => s.setQueue f q { x with qcfg := w.to x.qcfg (ones 0 6 ||| ones 16 16) 0 }
  | 0x10 => s.setQueue f q { x with qpasid := w.to x.qpasid (ones 0 20 ||| ones 31 1) 0 }
  | 0x20 => s.setQueue f q { x with qirq := w.to x.qirq (ones 0 11 ||| ones 31 1) 0 }
  | 0x28 => s.setQueue f q { x with qstat := w.to x.qstat 0 (ones 8 24) }
  | 0x30 => s.setQueue f q { x with qquota := w.to x.qquota (ones 0 11) 0 }
  | _ => s

/-- The counters of a memory-side port, two to 8 bytes (Table 3.11). -/
def writeCountReg (s : State) (m : Nat) (w : RegWrite) : State :=
  let x := s.portCount m
  let pair (a b : Nat) : W64 := w.to (w64 (a + b * 2 ^ 32)) (ones 0 64) 0
  match w.off with
  | 0x00 => s.setPortCount m { x with prbsent := fld (pair x.prbsent x.prbsup) 0 32, prbsup := fld (pair x.prbsent x.prbsup) 32 32 }
  | 0x08 => s.setPortCount m { x with ownxfer := fld (pair x.ownxfer x.wbcross) 0 32, wbcross := fld (pair x.ownxfer x.wbcross) 32 32 }
  | 0x10 =>
    s.setPortCount m { x with wofault := fld (pair x.wofault x.biasstall) 0 32, biasstall := fld (pair x.wofault x.biasstall) 32 32 }
  | _ => s

/-- A 64-byte command block after a write. -/
def writeBlockReg (b : Block) (w : RegWrite) : Block :=
  setFld b (8 * w.off) 64 (w.to (b.extractLsb' (8 * w.off) 64) (ones 0 64) 0).toNat

/-- Registers of the device in function 0's BAR 0 (Table 1.5). A command block is not written while its command runs (DESIGN
CHOICE, log 26); the control core's mailbox exists once the control core has been started (R442). -/
def writeDeviceReg (s : State) (w : RegWrite) : State :=
  let d := s.dev
  let a := w.off
  let rel (base : Nat) : RegWrite := { w with off := a - base }
  if a = 0x100 then (if d.locked then s else s.setDev { d with fwwin := w.to d.fwwin (ones 12 52) 0 })
  else if 0x1000 ≤ a && a < 0x1020 then writeIntReg s 0 (rel 0x1000)
  else if 0x3000 ≤ a && a < 0x30A8 then
    let r := (a - 0x3000) / 8
    let n := fld (w.to (w64 (Tbl.getD d.refused r 0 * 65536)) 0 (ones 16 16)) 16 16
    s.setDev { d with refused := Tbl.setD 0 d.refused r n }
  else if 0x4000 ≤ a && a < 0x4200 then writeCountReg s ((a - 0x4000) / 0x20) (rel (a / 0x20 * 0x20))
  else if a = 0x5008 then s.setDev { d with errIrqEn := (w.to (if d.errIrqEn then 1 else 0) 1 0).getLsbD 0 }
  else if 0x100000 ≤ a && a < 0x200000 then
    if !d.locked then s
    else if a < 0x100040 then (if d.ccgo then s else s.setDev { d with cccmd := writeBlockReg d.cccmd (rel 0x100000) })
    else if a = 0x100040 then s.setDev { d with ccgo := d.ccgo || (w.on &&& w.val).getLsbD 0 }
    else if 0x101000 ≤ a && a < 0x101400 then
      s.setDev { d with cclist := (rel 0x101000).bytes.foldl (fun t e => Tbl.setD 0 t e.1 e.2) d.cclist }
    else if 0x110000 ≤ a then
      s.setDev { d with ccstage := (rel 0x110000).bytes.foldl (fun t e => Tbl.setD 0 t e.1 e.2) d.ccstage }
    else s
  else if 0x208000 ≤ a && a < 0x208040 then (if d.mbgo then s else s.setDev { d with mbcmd := writeBlockReg d.mbcmd (rel 0x208000) })
  else if a = 0x208040 then s.setDev { d with mbgo := d.mbgo || (w.on &&& w.val).getLsbD 0 }
  else if 0x300000 ≤ a && a < 0x308000 then writeQueueReg s 0 ((a - 0x300000) / 4096) { w with off := a % 4096 }
  else if 0x380000 ≤ a && a < 0x380040 then writePrqReg s 0 (rel 0x380000)
  else s

/-- Registers of a virtual function (Table 1.4). -/
def writeFuncReg (s : State) (f : Nat) (w : RegWrite) : State :=
  if w.off < 0x8000 then writeQueueReg s f (w.off / 4096) { w with off := w.off % 4096 }
  else if w.off < 0x9000 then writePrqReg s f { w with off := w.off - 0x8000 }
  else writeIntReg s f { w with off := w.off - 0x9000 }

/-- A write of a function's BAR 0 (R25): any other size or alignment has no effect. -/
def writeReg (s : State) (func off size : Nat) (value : W64) : State :=
  let at_ := off % 8
  let w : RegWrite := { off := off - at_, on := if size = 8 then ones 0 64 else ones (8 * at_) 32, val := value <<< (8 * at_) }
  if !regAccess off size then s
  else if func = 0 then writeDeviceReg s w
  else if func < 64 && off < 0x10000 then writeFuncReg s func w
  else s

/-- REGISTER_WRITE (R25): a write by the host. FWWIN is an RWL register: before the boot lock only the Collier and the firmware write it, after
it nobody does (R442). -/
def execRegisterWrite (func off size : Nat) (value : BitVec 64) (s : State) : Host.Outcome State Fault Refusal :=
  .next (if func = 0 && off / 8 = 0x20 then s else fromHost s (writeReg s func off size value))

/-! Resets and pins. -/

/-- FLR (R438): a virtual function's queue interfaces are reset. -/
def execFlr (func : Nat) (s : State) : Host.Outcome State Fault Refusal :=
  .next (fromHost s (if 1 ≤ func && func < 64 then s.setFunc func { s.func func with queues := [] } else s))

/-- What a device reset leaves of a link: the facts outside the device. -/
def Link.afterReset (l : Link) : Link :=
  { Link.reset with remote := l.remote, trains := l.trains, attests := l.attests, accepts := l.accepts }

/-- DEVICE_RESET (R442, R444): the whole device is as after reset; memory keeps its stored bytes, and key 0 changes. -/
def execDeviceReset (s : State) : Host.Outcome State Fault Refusal :=
  .next
    { State.reset with
      mem := s.mem, memKey := s.memKey, memSeed := s.memSeed, ws := s.ws, straps := s.straps, steps := s.steps, seed := s.seed
      inputs := s.inputs
      dev := { Device.reset with
        boots := s.dev.boots + 1, msix := s.dev.msix, links := Tbl.mapVal (fun _ l => l.afterReset) s.dev.links } }

def State.setPins (s : State) (p : Pins) : State := s.setDev { s.dev with pins := p }

/-- POWER_GOOD (R444): the Collier releases the device and runs its boot chain (R442). A failed verification lets the host link
train with the control core held; otherwise the link stays held until the firmware is ready. -/
def execPowerGood (s : State) : Host.Outcome State Fault Refusal :=
  .next (
    let p := s.dev.pins
    if !p.heldReset then s
    else if !s.straps.bootOk then s.setPins { p with heldReset := false, linkReset := false }
    else
      let m := sha3 (toBytes 32 (Tbl.getD s.dev.meas 0 0).toNat ++ toBytes 32 s.straps.digest.toNat)
      let s := s.setPins { p with heldReset := false }
      s.setDev { s.dev with meas := Tbl.put s.dev.meas 0 m })

/-- FIRMWARE_READY (R442): the boot lock is set, and the host link may train. -/
def execFirmwareReady (s : State) : Host.Outcome State Fault Refusal :=
  .next (
    let p := s.dev.pins
    if p.heldReset || s.dev.locked || !s.straps.bootOk then s
    else (s.setDev { s.dev with locked := true }).setPins { p with linkReset := false })

/-- PERST (R444): the host link and the queue interfaces. -/
def execPerst (s : State) : Host.Outcome State Fault Refusal :=
  .next (s.setDev { s.dev with funcs := Tbl.mapVal (fun _ f => { f with queues := [] }) s.dev.funcs })

/-- THERMAL_HOLD (R444). -/
def execThermalHold (s : State) : Host.Outcome State Fault Refusal := .next (s.setPins { s.dev.pins with slow := true })

/-- THERMAL_HOLD_END (R444). -/
def execThermalHoldEnd (s : State) : Host.Outcome State Fault Refusal := .next (s.setPins { s.dev.pins with slow := false })

/-- THERMAL_TRIP (R444): outside firmware control. -/
def execThermalTrip (s : State) : Host.Outcome State Fault Refusal :=
  .next (s.setPins { s.dev.pins with thermTrip := true, shutdown := true })

/-- CLOCK_MONITOR_FAIL (R444). -/
def execClockMonitorFail (s : State) : Host.Outcome State Fault Refusal :=
  .next (safePin (s.setPins { s.dev.pins with clockFail := true }))

end Sys2Proof.Machine
end

