-- ==== Sys2Proof/Machine/Vector.lean ====
section
/-! DEFINITION. The V-class integer instructions (10 R254 to R264). -/

namespace Sys2Proof.Machine

/-- VADD, with its SAT form (R255, R257). -/
def execVadd (f : RF) (s : State) : Host.Outcome State Fault Refusal :=
  vectorInt f (fun w sg a b _ => wrapOrSat (f.m 0 1 == 1) w sg (asInt w sg a + asInt w sg b)) s

/-- VSUB, with its SAT form (R255, R257). -/
def execVsub (f : RF) (s : State) : Host.Outcome State Fault Refusal :=
  vectorInt f (fun w sg a b _ => wrapOrSat (f.m 0 1 == 1) w sg (asInt w sg a - asInt w sg b)) s

/-- VMUL (R255). -/
def execVmul (f : RF) (s : State) : Host.Outcome State Fault Refusal :=
  vectorInt f (fun w sg a b _ => opMul w sg a b) s

/-- VMULH (R255). -/
def execVmulh (f : RF) (s : State) : Host.Outcome State Fault Refusal :=
  vectorInt f (fun w sg a b _ => opMulh w sg a b) s

/-- VMAD: SAT clamps the exact a × b + c (R255, R257). -/
def execVmad (f : RF) (s : State) : Host.Outcome State Fault Refusal :=
  vectorInt f (fun w sg a b c => wrapOrSat (f.m 0 1 == 1) w sg (asInt w sg a * asInt w sg b + asInt w sg c)) s

/-- VDIV (R256). -/
def execVdiv (f : RF) (s : State) : Host.Outcome State Fault Refusal :=
  vectorInt f (fun w sg a b _ => opDivRem false w sg a b) s

/-- VREM (R256). -/
def execVrem (f : RF) (s : State) : Host.Outcome State Fault Refusal :=
  vectorInt f (fun w sg a b _ => opDivRem true w sg a b) s

/-- VMIN (R255). -/
def execVmin (f : RF) (s : State) : Host.Outcome State Fault Refusal :=
  vectorInt f (fun w sg a b _ => opMin w sg a b) s

/-- VMAX (R255). -/
def execVmax (f : RF) (s : State) : Host.Outcome State Fault Refusal :=
  vectorInt f (fun w sg a b _ => opMax w sg a b) s

/-- VABS, with its SAT form (R255, R257). -/
def execVabs (f : RF) (s : State) : Host.Outcome State Fault Refusal :=
  vectorInt f (fun w sg a _ _ => wrapOrSat (f.m 0 1 == 1) w sg (asInt w sg a).natAbs) s

/-- VNEG, with its SAT form (R255, R257). -/
def execVneg (f : RF) (s : State) : Host.Outcome State Fault Refusal :=
  vectorInt f (fun w sg a _ _ => wrapOrSat (f.m 0 1 == 1) w sg (-(asInt w sg a))) s

/-- VAND (R255). -/
def execVand (f : RF) (s : State) : Host.Outcome State Fault Refusal :=
  vectorInt f (fun w sg a b _ => opAnd w sg a b) s

/-- VOR (R255). -/
def execVor (f : RF) (s : State) : Host.Outcome State Fault Refusal :=
  vectorInt f (fun w sg a b _ => opOr w sg a b) s

/-- VXOR (R255). -/
def execVxor (f : RF) (s : State) : Host.Outcome State Fault Refusal :=
  vectorInt f (fun w sg a b _ => opXor w sg a b) s

/-- VNOT (R255). -/
def execVnot (f : RF) (s : State) : Host.Outcome State Fault Refusal :=
  vectorInt f (fun w _ a _ _ => opNot w a) s

/-- VSHL (R255). -/
def execVshl (f : RF) (s : State) : Host.Outcome State Fault Refusal :=
  vectorInt f (fun w sg a b _ => opShl w sg a b) s

/-- VSHR (R255). -/
def execVshr (f : RF) (s : State) : Host.Outcome State Fault Refusal :=
  vectorInt f (fun w sg a b _ => opShr w sg a b) s

/-- VROT (R255). -/
def execVrot (f : RF) (s : State) : Host.Outcome State Fault Refusal :=
  vectorInt f (fun w _ a b _ => opRot w a b) s

/-- VBFX: position and length are literals (R262). -/
def execVbfx (f : RF) (s : State) : Host.Outcome State Fault Refusal :=
  vectorInt f (fun w _ a _ _ => { val := bitField w a f.sb.toNat f.sc.toNat (f.m 0 1 == 1) }) s

/-- VBIT (R261). -/
def execVbit (f : RF) (s : State) : Host.Outcome State Fault Refusal :=
  vectorInt f (fun w _ a _ _ => { val := bitOp (f.m 0 2) w a }) s

/-- VCMP: the predicate of each active and helper lane (R259). -/
def execVcmp (f : RF) (s : State) : Host.Outcome State Fault Refusal :=
  withCtx s fun c =>
    let n := intSpan f.ty
    predOp s c f.g f.dst fun l => intCond (f.m 0 4) (tyW f.ty) (tySigned f.ty) (c.va f n l) (c.vb f n l)

/-- VSEL (R260). -/
def execVsel (f : RF) (s : State) : Host.Outcome State Fault Refusal :=
  withCtx s fun c =>
    let n := intSpan f.ty
    laneOp s c f.g f.dst n fun l =>
      { val := if (c.g.pred f.sc.toNat).getLsbD l then c.va f n l else c.vb f n l }

/-- VMOV: a vector, or a scalar in every active lane (R264). -/
def execVmov (f : RF) (s : State) : Host.Outcome State Fault Refusal :=
  withCtx s fun c =>
    let n := intSpan f.ty
    laneOp s c f.g f.dst n fun l => { val := if f.sbs then c.sp.num f.sb.toNat n else c.va f n l }

/-- VMOVI (R264). -/
def execVmovi (f : IF) (s : State) : Host.Outcome State Fault Refusal :=
  withCtx s fun c => laneOp s c f.g f.dst 1 fun _ => { val := f.imm.toNat }

/-- VLEA: under TY 4 a vector index is sign-extended, a scalar one is used whole (R263). -/
def execVlea (f : RF) (s : State) : Host.Outcome State Fault Refusal :=
  withCtx s fun c =>
    let n := intSpan f.ty
    laneOp s c f.g f.dst n fun l =>
      let b : Int := if f.sbs then (c.sp.num f.sb.toNat n : Nat) else asInt 32 (n == 2) (c.va { f with sa := f.sb } 1 l)
      exact (tyW f.ty) (c.va f n l + b * 2 ^ f.m 0 3)

end Sys2Proof.Machine
end

