-- ==== Sys2Proof/Machine/FloatOps.lean ====
section
/-! DEFINITION. The V-class float instructions (10 R276 to R281) and the conversions (09 R246 to R252). -/

namespace Sys2Proof.Machine

/-- FADD (R277). -/
def execFadd (f : RF) (s : State) : Host.Outcome State Fault Refusal :=
  vectorFloat f (fun t r a b _ => fAddElem t r a b) s

/-- FSUB (R277). -/
def execFsub (f : RF) (s : State) : Host.Outcome State Fault Refusal :=
  vectorFloat f (fun t r a b _ => fSubElem t r a b) s

/-- FMUL (R277). -/
def execFmul (f : RF) (s : State) : Host.Outcome State Fault Refusal :=
  vectorFloat f (fun t r a b _ => fMulElem t r a b) s

/-- FFMA (R277). -/
def execFfma (f : RF) (s : State) : Host.Outcome State Fault Refusal :=
  vectorFloat f (fun t r a b c => fFmaElem t r a b c) s

/-- FMIN (R278). -/
def execFmin (f : RF) (s : State) : Host.Outcome State Fault Refusal :=
  vectorFloat f (fun t _ a b _ => fMinMaxElem t false a b) s

/-- FMAX (R278). -/
def execFmax (f : RF) (s : State) : Host.Outcome State Fault Refusal :=
  vectorFloat f (fun t _ a b _ => fMinMaxElem t true a b) s

/-- FABS (R277). -/
def execFabs (f : RF) (s : State) : Host.Outcome State Fault Refusal :=
  vectorFloat f (fun t _ a _ _ => fAbsElem t a) s

/-- FNEG (R277). -/
def execFneg (f : RF) (s : State) : Host.Outcome State Fault Refusal :=
  vectorFloat f (fun t _ a _ _ => fNegElem t a) s

/-- FCMP (R279). -/
def execFcmp (f : RF) (s : State) : Host.Outcome State Fault Refusal :=
  withCtx s fun c =>
    let n := floatSpan f.ty
    predOp s c f.g f.dst fun l => fCmpBit (tyFmt f.ty) (f.m 0 4) (c.va f n l) (c.vb f n l)

/-- FCLASS (R280). -/
def execFclass (f : RF) (s : State) : Host.Outcome State Fault Refusal :=
  withCtx s fun c =>
    let n := floatSpan f.ty
    laneOp s c f.g f.dst 1 fun l => { val := fClassOf (tyFmt f.ty) (c.va f n l) }

/-- FDIV (R277). -/
def execFdiv (f : RF) (s : State) : Host.Outcome State Fault Refusal :=
  vectorFloat f (fun t r a b _ => fDivElem t r a b) s

/-- FSQRT (R277, Table 10.6). -/
def execFsqrt (f : RF) (s : State) : Host.Outcome State Fault Refusal :=
  vectorFloat f (fun t r a _ _ => fSqrtElem t r a) s

/-- FRCP (R277, Table 10.6). -/
def execFrcp (f : RF) (s : State) : Host.Outcome State Fault Refusal :=
  vectorFloat f (fun t r a _ _ => fRcpElem t r a) s

/-- FRSQ: a bounded result, which ignores FMT.RND (R277, Table 10.6). -/
def execFrsq (f : RF) (s : State) : Host.Outcome State Fault Refusal :=
  vectorFloat f (fun t _ a _ _ => fRsqElem t a) s

/-- FEXP2: a bounded result, which ignores FMT.RND (R277, Table 10.6). -/
def execFexp2 (f : RF) (s : State) : Host.Outcome State Fault Refusal :=
  vectorFloat f (fun t _ a _ _ => fExp2Elem t a) s

/-- FLOG2: a bounded result, which ignores FMT.RND (R277, Table 10.6). -/
def execFlog2 (f : RF) (s : State) : Host.Outcome State Fault Refusal :=
  vectorFloat f (fun t _ a _ _ => fLog2Elem t a) s

/-- FSIN: a bounded result, which ignores FMT.RND (R277, Table 10.6). -/
def execFsin (f : RF) (s : State) : Host.Outcome State Fault Refusal :=
  vectorFloat f (fun t _ a _ _ => fSinElem t a) s

/-- FCOS: a bounded result, which ignores FMT.RND (R277, Table 10.6). -/
def execFcos (f : RF) (s : State) : Host.Outcome State Fault Refusal :=
  vectorFloat f (fun t _ a _ _ => fCosElem t a) s

/-- FTANH: a bounded result, which ignores FMT.RND (R277, Table 10.6). -/
def execFtanh (f : RF) (s : State) : Host.Outcome State Fault Refusal :=
  vectorFloat f (fun t _ a _ _ => fTanhElem t a) s

/-- FDOT2: one f32 result per lane (R281). -/
def execFdot2 (f : RF) (s : State) : Host.Outcome State Fault Refusal :=
  withCtx s fun c =>
    floatOp s c f.g fmtF32 f.dst 1 fun l => fDot2Elem (tyFmt f.ty) c.sp.rnd (c.va f 1 l) (c.vb f 1 l) (c.vc f 1 l)

/-! Conversions. -/

/-- A kind of Table 9.9: an integer type, or a float format (`d` is the descriptor of kind 12). -/
inductive Kind where
  | int (w : Nat) (signed : Bool)
  | float (f : FFmt)
  deriving DecidableEq, Repr

def kindOf (k d : Nat) : Kind :=
  match k with
  | 0 => .int 32 true
  | 1 => .int 32 false
  | 2 => .int 64 true
  | 3 => .int 64 false
  | 4 => .int 16 true
  | 5 => .int 16 false
  | 6 => .int 8 true
  | 7 => .int 8 false
  | 8 => .float fmtF32
  | 9 => .float fmtF16
  | 10 => .float fmtBf16
  | 11 => .float fmtF64
  | _ => .float (fmtDesc d)

/-- The format of a float result. -/
def Kind.fmt? : Kind → Option FFmt
  | .int _ _ => none
  | .float f => some f

def Kind.width : Kind → Nat
  | .int w _ => w
  | .float f => f.width

/-- The rounding mode that RM names (Table 9.9). -/
def rmOf (rm rnd : Nat) : Nat := if rm = 0 then rnd else rm - 1

/-- Converts one value from a kind to a kind (R248, R238). -/
def convert (dk sk : Kind) (x rnd : Nat) (sat : Bool) : Elem :=
  match dk, sk with
  | .int w sg, .float f => fToInt w sg (f.decode x) rnd
  | .int w sg, .int v sv => wrapOrSat sat w sg (asInt v sv x)
  | .float t, .float f =>
    let v := f.decode x
    t.round v rnd sat v.isNan v.isInf
  | .float t, .int v sv =>
    let i := asInt v sv x
    t.roundRat (decide (i < 0)) i.natAbs 1 0 rnd sat false false

/-- A result as its destination holds it: i8 and i16 are sign-extended to 32 bits (R248). -/
def Kind.extend : Kind → Nat → Nat
  | .int w true, v => if w < 32 then wrapTo 32 (asInt w true v) else v
  | _, v => v

/-- The element of a source that SEL names (R248). -/
def Kind.select (k : Kind) (x sel : Nat) : Nat := if k.width < 32 then bits x (k.width * sel) k.width else x

/-- CVT (R248). -/
def execCvt (f : RF) (s : State) : Host.Outcome State Fault Refusal :=
  withCtx s fun c =>
    let dk := f.m 0 4
    let sk := f.m 4 4
    let d := kindOf dk f.sb.toNat
    let k := kindOf sk f.sc.toNat
    convOp s c f.g d.fmt? f.dst (kindSpan dk) fun l =>
      let e := convert d k (k.select (c.va f (kindSpan sk) l) (f.m 12 2)) (rmOf (f.m 8 3) c.sp.rnd) (c.sp.sat || f.m 11 1 == 1)
      { e with val := d.extend e.val }

/-- PACK: two 16-bit halves, or two bytes of the lane with the others kept (R249). -/
def execPack (f : RF) (s : State) : Host.Outcome State Fault Refusal :=
  withCtx s fun c =>
    let d := kindOf (f.m 0 4) f.sc.toNat
    let src : Kind := match d with
      | .int _ _ => .int 32 true
      | .float _ => .float fmtF32
    let hi := f.m 12 1
    let lo := if d.width = 16 then 0 else 16 * hi
    let val (l : Nat) : Elem :=
      let cv (x : Nat) := convert d src x (rmOf (f.m 8 3) c.sp.rnd) (c.sp.sat || f.m 11 1 == 1)
      let a := cv (c.va f 1 l)
      let b := cv (c.vb f 1 l)
      let w := d.width
      let pair := a.val % 2 ^ w + b.val % 2 ^ w * 2 ^ w
      let old := (c.g.v f.dst.toNat l).toNat
      { val := if w = 16 then pair else old - bits old (16 * hi) 16 * 2 ^ (16 * hi) + pair * 2 ^ (16 * hi)
        marks := a.marks.join b.marks }
    convOp s c f.g d.fmt? f.dst 1 val lo

/-- An element of a packed lane, exactly, as i32 or f32 (R250). -/
def unpkElem (k : Kind) (x : Nat) : Nat :=
  match k with
  | .int w sg => wrapTo 32 (asInt w sg x)
  | .float f => (fmtF32.round (f.decode x) 0 false true true).val

/-- UNPK: element i goes to register DST + i (R250); no event is counted. -/
def execUnpk (f : RF) (s : State) : Host.Outcome State Fault Refusal :=
  withCtx s fun c =>
    let k := kindOf (f.m 4 4) f.sc.toNat
    if !c.any f.g then s.retire c.r
    else
      let lanes := lanesOf (c.active f.g)
      let val (i l : Nat) : Nat := unpkElem k (bits (c.va f 1 l) (k.width * i) k.width)
      let write (s : State) : State := s.updGroup c.r.group fun g =>
        (List.range (32 / k.width)).foldl (fun g i => g.writeLanes lanes (f.dst.toNat + i) 1 (val i)) g
      match k with
      | .int _ _ => (write s).retire c.r
      | .float _ => withShadow s c (c.active f.g) fmtF32 (c.firstOf f.g (val 0)) fun s => (write s).retire c.r

/-- FSCL: the exponent is i32, or i16 per packed element (R251). -/
def execFscl (f : RF) (s : State) : Host.Outcome State Fault Refusal :=
  withCtx s fun c =>
    let n := floatSpan f.ty
    let t := tyFmt f.ty
    let w := if tyFCount f.ty = 2 then 16 else 32
    convOp s c f.g (some t) f.dst n fun l =>
      mapElems t.width (tyFCount f.ty) (fun a b _ => fSclElem t c.sp.rnd c.sp.sat a (asInt w true (b % 2 ^ w)))
        (c.va f n l) (c.vb f 1 l) 0

/-- FROUND: no event, no STICKY bit (R252). -/
def execFround (f : RF) (s : State) : Host.Outcome State Fault Refusal :=
  withCtx s fun c =>
    let n := floatSpan f.ty
    let t := tyFmt f.ty
    convOp s c f.g (some t) f.dst n fun l =>
      mapElems t.width (tyFCount f.ty) (fun a _ _ => fRoundElem t (rmOf (f.m 8 3) c.sp.rnd) a) (c.va f n l) 0 0

end Sys2Proof.Machine
end

