-- ==== Sys2Proof/Machine/Dispatch.lean ====
section
/-! DEFINITION. The dispatch: one arm per constructor of `Instr`, each one direct call of that instruction's meaning. -/

namespace Sys2Proof.Machine

/-- What an instruction does in a state. -/
def exec (i : Instr) (s : State) : Host.Outcome State Fault Refusal :=
  match i with
  | .clauseHeader r => Sys2Proof.Machine.execClauseHeader r s
  | .clauseWaitEnd r => Sys2Proof.Machine.execClauseWaitEnd r s
  | .pauseExpiry r => Sys2Proof.Machine.execPauseExpiry r s
  | .yieldTimeout r => Sys2Proof.Machine.execYieldTimeout r s
  | .priorityLift r => Sys2Proof.Machine.execPriorityLift r s
  | .nop f => Sys2Proof.Machine.execNop f s
  | .sadd f => Sys2Proof.Machine.execSadd f s
  | .ssub f => Sys2Proof.Machine.execSsub f s
  | .smul f => Sys2Proof.Machine.execSmul f s
  | .smulh f => Sys2Proof.Machine.execSmulh f s
  | .sdiv f => Sys2Proof.Machine.execSdiv f s
  | .srem f => Sys2Proof.Machine.execSrem f s
  | .sand f => Sys2Proof.Machine.execSand f s
  | .sor f => Sys2Proof.Machine.execSor f s
  | .sxor f => Sys2Proof.Machine.execSxor f s
  | .sshl f => Sys2Proof.Machine.execSshl f s
  | .sshr f => Sys2Proof.Machine.execSshr f s
  | .smin f => Sys2Proof.Machine.execSmin f s
  | .smax f => Sys2Proof.Machine.execSmax f s
  | .scmp f => Sys2Proof.Machine.execScmp f s
  | .smov f => Sys2Proof.Machine.execSmov f s
  | .smovi f => Sys2Proof.Machine.execSmovi f s
  | .smovhi f => Sys2Proof.Machine.execSmovhi f s
  | .slea f => Sys2Proof.Machine.execSlea f s
  | .ssel f => Sys2Proof.Machine.execSsel f s
  | .sbit f => Sys2Proof.Machine.execSbit f s
  | .sbfx f => Sys2Proof.Machine.execSbfx f s
  | .srd f => Sys2Proof.Machine.execSrd f s
  | .swr f => Sys2Proof.Machine.execSwr f s
  | .sfmt f => Sys2Proof.Machine.execSfmt f s
  | .sfmtRnd f => Sys2Proof.Machine.execSfmtRnd f s
  | .sfmtSat f => Sys2Proof.Machine.execSfmtSat f s
  | .sfmtAtb f => Sys2Proof.Machine.execSfmtAtb f s
  | .vote f => Sys2Proof.Machine.execVote f s
  | .bra f => Sys2Proof.Machine.execBra f s
  | .brx f => Sys2Proof.Machine.execBrx f s
  | .call f => Sys2Proof.Machine.execCall f s
  | .ret f => Sys2Proof.Machine.execRet f s
  | .rcvp f => Sys2Proof.Machine.execRcvp f s
  | .join f => Sys2Proof.Machine.execJoin f s
  | .bsync f => Sys2Proof.Machine.execBsync f s
  | .exit f => Sys2Proof.Machine.execExit f s
  | .pause f => Sys2Proof.Machine.execPause f s
  | .loop f => Sys2Proof.Machine.execLoop f s
  | .launch f => Sys2Proof.Machine.execLaunch f s
  | .bar f => Sys2Proof.Machine.execBar f s
  | .barArv f => Sys2Proof.Machine.execBarArv f s
  | .cbar f => Sys2Proof.Machine.execCbar f s
  | .rget f => Sys2Proof.Machine.execRget f s
  | .rput f => Sys2Proof.Machine.execRput f s
  | .vadd f => Sys2Proof.Machine.execVadd f s
  | .vsub f => Sys2Proof.Machine.execVsub f s
  | .vmul f => Sys2Proof.Machine.execVmul f s
  | .vmulh f => Sys2Proof.Machine.execVmulh f s
  | .vmad f => Sys2Proof.Machine.execVmad f s
  | .vdiv f => Sys2Proof.Machine.execVdiv f s
  | .vrem f => Sys2Proof.Machine.execVrem f s
  | .vmin f => Sys2Proof.Machine.execVmin f s
  | .vmax f => Sys2Proof.Machine.execVmax f s
  | .vabs f => Sys2Proof.Machine.execVabs f s
  | .vneg f => Sys2Proof.Machine.execVneg f s
  | .vand f => Sys2Proof.Machine.execVand f s
  | .vor f => Sys2Proof.Machine.execVor f s
  | .vxor f => Sys2Proof.Machine.execVxor f s
  | .vnot f => Sys2Proof.Machine.execVnot f s
  | .vshl f => Sys2Proof.Machine.execVshl f s
  | .vshr f => Sys2Proof.Machine.execVshr f s
  | .vrot f => Sys2Proof.Machine.execVrot f s
  | .vbfx f => Sys2Proof.Machine.execVbfx f s
  | .vbit f => Sys2Proof.Machine.execVbit f s
  | .vcmp f => Sys2Proof.Machine.execVcmp f s
  | .vsel f => Sys2Proof.Machine.execVsel f s
  | .vmov f => Sys2Proof.Machine.execVmov f s
  | .vmovi f => Sys2Proof.Machine.execVmovi f s
  | .vlea f => Sys2Proof.Machine.execVlea f s
  | .fadd f => Sys2Proof.Machine.execFadd f s
  | .fsub f => Sys2Proof.Machine.execFsub f s
  | .fmul f => Sys2Proof.Machine.execFmul f s
  | .ffma f => Sys2Proof.Machine.execFfma f s
  | .fmin f => Sys2Proof.Machine.execFmin f s
  | .fmax f => Sys2Proof.Machine.execFmax f s
  | .fabs f => Sys2Proof.Machine.execFabs f s
  | .fneg f => Sys2Proof.Machine.execFneg f s
  | .fcmp f => Sys2Proof.Machine.execFcmp f s
  | .fclass f => Sys2Proof.Machine.execFclass f s
  | .fdiv f => Sys2Proof.Machine.execFdiv f s
  | .fsqrt f => Sys2Proof.Machine.execFsqrt f s
  | .frcp f => Sys2Proof.Machine.execFrcp f s
  | .frsq f => Sys2Proof.Machine.execFrsq f s
  | .fexp2 f => Sys2Proof.Machine.execFexp2 f s
  | .flog2 f => Sys2Proof.Machine.execFlog2 f s
  | .fsin f => Sys2Proof.Machine.execFsin f s
  | .fcos f => Sys2Proof.Machine.execFcos f s
  | .ftanh f => Sys2Proof.Machine.execFtanh f s
  | .fact f => Sys2Proof.Machine.execFact f s
  | .fdot2 f => Sys2Proof.Machine.execFdot2 f s
  | .cvt f => Sys2Proof.Machine.execCvt f s
  | .pack f => Sys2Proof.Machine.execPack f s
  | .unpk f => Sys2Proof.Machine.execUnpk f s
  | .fscl f => Sys2Proof.Machine.execFscl f s
  | .fround f => Sys2Proof.Machine.execFround f s
  | .vexpr f toks => Sys2Proof.Machine.execVexpr f toks s
  | .qswz f => Sys2Proof.Machine.execQswz f s
  | .qbcast f => Sys2Proof.Machine.execQbcast f s
  | .lxchg f => Sys2Proof.Machine.execLxchg f s
  | .lshfl f => Sys2Proof.Machine.execLshfl f s
  | .lrot f => Sys2Proof.Machine.execLrot f s
  | .lscan f => Sys2Proof.Machine.execLscan f s
  | .lred f => Sys2Proof.Machine.execLred f s
  | .lidx f => Sys2Proof.Machine.execLidx f s
  | .qhelp f => Sys2Proof.Machine.execQhelp f s
  | .atload f => Sys2Proof.Machine.execAtload f s
  | .atbind f => Sys2Proof.Machine.execAtbind f s
  | .ld f => Sys2Proof.Machine.execLd f s
  | .st f => Sys2Proof.Machine.execSt f s
  | .lateFraming part => Sys2Proof.Machine.execLateFraming part s
  | .lds f => Sys2Proof.Machine.execLds f s
  | .sts f => Sys2Proof.Machine.execSts f s
  | .ldw f => Sys2Proof.Machine.execLdw f s
  | .atom f => Sys2Proof.Machine.execAtom f s
  | .cas f => Sys2Proof.Machine.execCas f s
  | .atoms f => Sys2Proof.Machine.execAtoms f s
  | .fenceAcq f => Sys2Proof.Machine.execFenceAcq f s
  | .fenceRel f => Sys2Proof.Machine.execFenceRel f s
  | .fenceFull f => Sys2Proof.Machine.execFenceFull f s
  | .dcf f => Sys2Proof.Machine.execDcf f s
  | .disc f => Sys2Proof.Machine.execDisc f s
  | .prf f => Sys2Proof.Machine.execPrf f s
  | .wback f => Sys2Proof.Machine.execWback f s
  | .sinv f => Sys2Proof.Machine.execSinv f s
  | .cpl f => Sys2Proof.Machine.execCpl f s
  | .cps f => Sys2Proof.Machine.execCps f s
  | .cpt f => Sys2Proof.Machine.execCpt f s
  | .cptw f => Sys2Proof.Machine.execCptw f s
  | .tload f => Sys2Proof.Machine.execTload f s
  | .tbinit f => Sys2Proof.Machine.execTbinit f s
  | .tbarr f => Sys2Proof.Machine.execTbarr f s
  | .tbexp f => Sys2Proof.Machine.execTbexp f s
  | .tbtest f => Sys2Proof.Machine.execTbtest f s
  | .gset f => Sys2Proof.Machine.execGset f s
  | .gget f => Sys2Proof.Machine.execGget f s
  | .gstop f => Sys2Proof.Machine.execGstop f s
  | .copyComplete core id => Sys2Proof.Machine.execCopyComplete core id s
  | .gatherFetchComplete core stream pos => Sys2Proof.Machine.execGatherFetchComplete core stream pos s
  | .oclaim f => Sys2Proof.Machine.execOclaim f s
  | .orel f => Sys2Proof.Machine.execOrel f s
  | .mmul f => Sys2Proof.Machine.execMmul f s
  | .mmulz f => Sys2Proof.Machine.execMmulz f s
  | .mdrainV f => Sys2Proof.Machine.execMdrainV f s
  | .mdrainS f => Sys2Proof.Machine.execMdrainS f s
  | .mdrainG f => Sys2Proof.Machine.execMdrainG f s
  | .mbyp f => Sys2Proof.Machine.execMbyp f s
  | .mzero f => Sys2Proof.Machine.execMzero f s
  | .msclRow f => Sys2Proof.Machine.execMsclRow f s
  | .msclCol f => Sys2Proof.Machine.execMsclCol f s
  | .mprog f => Sys2Proof.Machine.execMprog f s
  | .gangLatchRelease core key => Sys2Proof.Machine.execGangLatchRelease core key s
  | .gangLatchTimeout core key => Sys2Proof.Machine.execGangLatchTimeout core key s
  | .cordLatchRelease launch cord => Sys2Proof.Machine.execCordLatchRelease launch cord s
  | .matrixOpComplete core id => Sys2Proof.Machine.execMatrixOpComplete core id s
  | .drainCommandComplete core id => Sys2Proof.Machine.execDrainCommandComplete core id s
  | .emulationComplete core id => Sys2Proof.Machine.execEmulationComplete core id s
  | .trap f => Sys2Proof.Machine.execTrap f s
  | .tret f => Sys2Proof.Machine.execTret f s
  | .brk f => Sys2Proof.Machine.execBrk f s
  | .fpcnt f => Sys2Proof.Machine.execFpcnt f s
  | .fpcntClr f => Sys2Proof.Machine.execFpcntClr f s
  | .fpcntClrall f => Sys2Proof.Machine.execFpcntClrall f s
  | .yield f => Sys2Proof.Machine.execYield f s
  | .syncEng f => Sys2Proof.Machine.execSyncEng f s
  | .syncErr f => Sys2Proof.Machine.execSyncErr f s
  | .syncCode f => Sys2Proof.Machine.execSyncCode f s
  | .rep f => Sys2Proof.Machine.execRep f s
  | .rd a => Sys2Proof.Machine.execRd a s
  | .rdx a => Sys2Proof.Machine.execRdx a s
  | .upg a => Sys2Proof.Machine.execUpg a s
  | .wb a => Sys2Proof.Machine.execWb a s
  | .evc a => Sys2Proof.Machine.execEvc a s
  | .rds a => Sys2Proof.Machine.execRds a s
  | .wrs a => Sys2Proof.Machine.execWrs a s
  | .atx a => Sys2Proof.Machine.execAtx a s
  | .atr a => Sys2Proof.Machine.execAtr a s
  | .xrd a => Sys2Proof.Machine.execXrd a s
  | .xwr a => Sys2Proof.Machine.execXwr a s
  | .snp a => Sys2Proof.Machine.execSnp a s
  | .probe a => Sys2Proof.Machine.execProbe a s
  | .probeAck a => Sys2Proof.Machine.execProbeAck a s
  | .walkStart tenant => Sys2Proof.Machine.execWalkStart tenant s
  | .walkComplete walk => Sys2Proof.Machine.execWalkComplete walk s
  | .walkAhead core id page => Sys2Proof.Machine.execWalkAhead core id page s
  | .pageRequestWrite func => Sys2Proof.Machine.execPageRequestWrite func s
  | .prqreply func value => Sys2Proof.Machine.execPrqreply func value s
  | .launchWindowArm func queue pos record => Sys2Proof.Machine.execLaunchWindowArm func queue pos record s
  | .qtailWrite func queue tail => Sys2Proof.Machine.execQtailWrite func queue tail s
  | .packetLaunch func queue => Sys2Proof.Machine.execPacketLaunch func queue s
  | .packetNop func queue => Sys2Proof.Machine.execPacketNop func queue s
  | .packetOtherOp func queue => Sys2Proof.Machine.execPacketOtherOp func queue s
  | .imageCheck launch => Sys2Proof.Machine.execImageCheck launch s
  | .childRecordReceive launch => Sys2Proof.Machine.execChildRecordReceive launch s
  | .preloadStart launch => Sys2Proof.Machine.execPreloadStart launch s
  | .preloadComplete launch => Sys2Proof.Machine.execPreloadComplete launch s
  | .cordPlace part => Sys2Proof.Machine.execCordPlace part s
  | .candidateBlocking launch => Sys2Proof.Machine.execCandidateBlocking launch s
  | .groupRetire group => Sys2Proof.Machine.execGroupRetire group s
  | .preemption launch cord blocks => Sys2Proof.Machine.execPreemption launch cord blocks s
  | .lazySave crew => Sys2Proof.Machine.execLazySave crew s
  | .crewResume launch cord => Sys2Proof.Machine.execCrewResume launch cord s
  | .watchdogFire launch => Sys2Proof.Machine.execWatchdogFire launch s
  | .uncorrectableError e => Sys2Proof.Machine.execUncorrectableError e s
  | .correctedError e => Sys2Proof.Machine.execCorrectedError e s
  | .patrolScrub e found => Sys2Proof.Machine.execPatrolScrub e found s
  | .refreshStart bank => Sys2Proof.Machine.execRefreshStart bank s
  | .refreshEnd bank => Sys2Proof.Machine.execRefreshEnd bank s
  | .peerAbort req => Sys2Proof.Machine.execPeerAbort req s
  | .peerAccessTimeout req => Sys2Proof.Machine.execPeerAccessTimeout req s
  | .hostAbort req => Sys2Proof.Machine.execHostAbort req s
  | .hostCompletionTimeout req => Sys2Proof.Machine.execHostCompletionTimeout req s
  | .peerLinkDown link => Sys2Proof.Machine.execPeerLinkDown link s
  | .remoteInvalidation link lo hi => Sys2Proof.Machine.execRemoteInvalidation link lo hi s
  | .remoteInvalTimeout link => Sys2Proof.Machine.execRemoteInvalTimeout link s
  | .hdmRead addr len => Sys2Proof.Machine.execHdmRead addr len s
  | .hdmWrite addr bytes => Sys2Proof.Machine.execHdmWrite addr bytes s
  | .compareAct pair fault => Sys2Proof.Machine.execCompareAct pair fault s
  | .trailingCopyTimeout pair => Sys2Proof.Machine.execTrailingCopyTimeout pair s
  | .unitTestStart unit => Sys2Proof.Machine.execUnitTestStart unit s
  | .unitTestDone unit passed => Sys2Proof.Machine.execUnitTestDone unit passed s
  | .registerWrite func off size value => Sys2Proof.Machine.execRegisterWrite func off size value s
  | .flr func => Sys2Proof.Machine.execFlr func s
  | .lineMissComplete slice => Sys2Proof.Machine.execLineMissComplete slice s
  | .peerAnswer req reply => Sys2Proof.Machine.execPeerAnswer req reply s
  | .hostCompletion req => Sys2Proof.Machine.execHostCompletion req s
  | .migrationClaim m => Sys2Proof.Machine.execMigrationClaim m s
  | .migrationLine link addr written data => Sys2Proof.Machine.execMigrationLine link addr written data s
  | .flitReplay link => Sys2Proof.Machine.execFlitReplay link s
  | .migrateAckTimeout => Sys2Proof.Machine.execMigrateAckTimeout s
  | .scoreDecay => Sys2Proof.Machine.execScoreDecay s
  | .pair => Sys2Proof.Machine.execPair s
  | .unpair => Sys2Proof.Machine.execUnpair s
  | .release => Sys2Proof.Machine.execRelease s
  | .limits => Sys2Proof.Machine.execLimits s
  | .keyload => Sys2Proof.Machine.execKeyload s
  | .preset => Sys2Proof.Machine.execPreset s
  | .attest => Sys2Proof.Machine.execAttest s
  | .inject => Sys2Proof.Machine.execInject s
  | .migrate => Sys2Proof.Machine.execMigrate s
  | .invalPage => Sys2Proof.Machine.execInvalPage s
  | .invalRange => Sys2Proof.Machine.execInvalRange s
  | .invalTenant => Sys2Proof.Machine.execInvalTenant s
  | .invalTenantAll => Sys2Proof.Machine.execInvalTenantAll s
  | .invalGuestRange => Sys2Proof.Machine.execInvalGuestRange s
  | .invalPartition => Sys2Proof.Machine.execInvalPartition s
  | .invalKeyShadow => Sys2Proof.Machine.execInvalKeyShadow s
  | .tenantSet => Sys2Proof.Machine.execTenantSet s
  | .tenantDelete => Sys2Proof.Machine.execTenantDelete s
  | .trapset => Sys2Proof.Machine.execTrapset s
  | .ctxpool => Sys2Proof.Machine.execCtxpool s
  | .biasToHost => Sys2Proof.Machine.execBiasToHost s
  | .biasToDevice => Sys2Proof.Machine.execBiasToDevice s
  | .preempt => Sys2Proof.Machine.execPreempt s
  | .linkup => Sys2Proof.Machine.execLinkup s
  | .reconf => Sys2Proof.Machine.execReconf s
  | .ccUnknownOp => Sys2Proof.Machine.execCcUnknownOp s
  | .deviceReset => Sys2Proof.Machine.execDeviceReset s
  | .powerGood => Sys2Proof.Machine.execPowerGood s
  | .firmwareReady => Sys2Proof.Machine.execFirmwareReady s
  | .perst => Sys2Proof.Machine.execPerst s
  | .thermalHold => Sys2Proof.Machine.execThermalHold s
  | .thermalTrip => Sys2Proof.Machine.execThermalTrip s
  | .clockMonitorFail => Sys2Proof.Machine.execClockMonitorFail s
  | .thermalHoldEnd => Sys2Proof.Machine.execThermalHoldEnd s

end Sys2Proof.Machine
end

