-- ==== Sys2Proof/Machine/Schedule.lean ====
section
/-! DEFINITION. What the device does next (07 R190 to R192, R205; 17 R442): the moves that are possible in a state, and the
effect of one. Where several are possible no rule says which comes first, and a free choice decides (log 2). -/

namespace Sys2Proof.Machine

/-- One move of the device. -/
inductive Move where
  /-- A row of the opcode table that no split issues. -/
  | event (i : Instr)
  /-- A split issues the clause header at which it stands. -/
  | head (r : SplitRef)
  /-- A split issues the next word of its clause. -/
  | word (r : SplitRef)
  /-- The monitor releases the oldest armed window position of a queue interface (R372). -/
  | window (func queue : Nat)
  /-- A completion word that waits is written (R371). -/
  | push (launch : Nat)
  /-- A launch that has ended but for its release goes on with it (R138). -/
  | close (launch : Nat)
  /-- A context of a halted crew is written (R396 step 7). -/
  | context (crew : Nat)
  /-- A trap whose frame waited is delivered (R361). -/
  | redeliver (r : SplitRef)
  deriving DecidableEq, Repr

/-! Which split issues. -/

/-- The ready splits that their quarters may issue: each quarter's first, and, where that one is of a group of width 16, the first of the
width-16 groups in the other half of the pipe (R191, R387). -/
def State.issuable (s : State) : List Ctx :=
  let ready := s.allCtx.filter (readyCtx s)
  let first (among : Ctx → Bool) (c : Ctx) : Bool := !(ready.any fun d => among d && sameQuarter c d && servedBefore s.cycle d c)
  ready.filter fun c => first (fun _ => true) c
    || ready.any fun b => first (fun _ => true) b && sameQuarter b c && otherHalf b c && first (otherHalf b) c

/-- The move of a split that issues: its header, or the next word of its clause. -/
def issueMove (c : Ctx) : Move := if c.sp.clause.isNone then .head c.r else .word c.r

/-- The steps of each split that time or another step allows, beside issuing: the end of a clause wait, of a pause or of a yield, and the
delivery of a trap whose frame had to wait. -/
def splitMoves (s : State) (c : Ctx) : List Move :=
  let free := c.crew.running && c.sp.pendingTrap.isNone && !s.failing c.g.launch
  (match c.sp.wait with
    | .clause k a => if waitDone s c k a && free then [Move.event (.clauseWaitEnd c.r)] else []
    | _ => [])
    ++ (if c.sp.paused then [.event (.pauseExpiry c.r)] else [])
    ++ (if c.sp.wait = .yield && !c.sp.yieldOn.isEmpty && !c.crew.preempt then [.event (.yieldTimeout c.r)] else [])
    ++ (match c.sp.pendingTrap with
      | some t =>
        if !t.done && waitOver s c && (t.fails.isSome || (c.crew.running && !s.failing c.g.launch)) then [.redeliver c.r] else []
      | none => [])

/-- A ready split that its quarter does not serve rises in priority after each 65,536 cycles (R192). -/
def liftMoves (s : State) : List Move :=
  let ready := s.allCtx.filter fun c => readyCtx s c && !c.sp.paused && c.sp.wait = .none
  (ready.filter fun c =>
    c.priority < 255 && (c.sp.readyAt.any fun t => 65536 * (c.sp.lift + 1) ≤ s.cycle - t)
      && ready.any fun d => sameQuarter c d && servedBefore s.cycle d c).map
    fun c => .event (.priorityLift c.r)

/-! Steps of the units. -/

/-- Walks, walk-ahead and page-request records (R161, R162, R167). -/
def mmuMoves (s : State) : List Move :=
  (s.tenants.filter fun e => s.nextWalk e.1).map (fun e => Move.event (.walkStart e.1))
    ++ (s.mmu.walks.filter fun e => e.2.running.isSome).map (fun e => .event (.walkComplete e.1))
    ++ (((s.mmu.requests.filter fun r => !r.written).map (·.func)).eraseDups.filter fun f =>
      let x := s.func f
      x.prqcfg.getLsbD 31 && (x.prqtail - x.prqhead).toNat < 2 ^ x.prqLog).map fun f => .event (.pageRequestWrite f)

/-- A crew whose engines run (R396 step 4). -/
def crewRuns (s : State) (h : Nat) : Bool := (s.crew? h).any fun c => !c.saved

/-- The engines, latches, array and drain unit of a core (R313, R325, R336, R338, R349). -/
def coreMoves (s : State) (e : Nat × Core) : List Move :=
  let core := e.1
  let x := e.2
  ((x.cmds.filter fun k => crewRuns s k.2.crew).map fun k =>
      if k.2.kind = .drainS || k.2.kind = .drainG then Move.event (.drainCommandComplete core k.1) else .event (.copyComplete core k.1))
    ++ (x.cmds.filter fun k => (k.2.kind = .cpt || k.2.kind = .cptw) && crewRuns s k.2.crew).flatMap (fun k =>
      ((k.2.pagesLeft.drop 1).take 8).map fun p => .event (.walkAhead core k.1 p))
    ++ (x.streams.filter fun k => (s.group? k.2.group).any fun g => crewRuns s g.crew).flatMap (fun k =>
      ((List.range 16).filter fun i => k.2.rows.any fun r => !k.2.has (k.2.pos + i) r.1).map fun i =>
        .event (.gatherFetchComplete core k.1 (k.2.pos + i)))
    ++ (x.latches.filter fun k => (x.gangAt k.1 k.2).isSome).map (fun k => .event (.gangLatchRelease core k.1))
    ++ (x.ops.filter fun k => x.canEnd k.1 k.2 && crewRuns s k.2.crew).map fun k =>
      if k.2.emulated then .event (.emulationComplete core k.1) else .event (.matrixOpComplete core k.1)

/-- The packets of a queue interface and its window (R372, R374). -/
def queueMoves (s : State) (f q : Nat) : List Move :=
  (match s.packet? f q with
    | none => []
    | some pkt =>
      match numAt pkt 0 1 with
      | 0 => [Move.event (.packetNop f q)]
      | 1 => [.event (.packetLaunch f q)]
      | _ => [.event (.packetOtherOp f q)])
    ++ (if ((s.func f).queue q).armed.isEmpty then [] else [.window f q])

/-- A launch that nothing else moves: no split of it can issue, and no work of it is under way (R403). -/
def launchStuck (s : State) (id : Nat) : Bool :=
  !s.launchBusy id && s.allCtx.all fun c => c.g.launch != id || !readyCtx s c

/-- The distributor's steps for a launch (R377 to R384, R371, R400, R404). -/
def launchMoves (s : State) (e : Nat × Launch) : List Move :=
  let id := e.1
  let l := e.2
  let cords := ((s.crews.filter fun c => c.2.launch = id).map (·.2.cord)).eraseDups
  (if l.state = .accepted && !s.asking (.launch id) then [Move.event (.imageCheck id)] else [])
    ++ (if l.state = .received then [.event (.childRecordReceive id)] else [])
    ++ (if canPreload s l then [.event (.preloadStart id)] else [])
    ++ (if l.state = .preloading && !s.asking (.launch id) then [.event (.preloadComplete id)] else [])
    ++ (if isCandidate s l && !l.blocking && (placeStep s l.part).isNone then [.event (.candidateBlocking id)] else [])
    ++ (if !l.words.isEmpty && !s.asking (.word id) then [.push id] else [])
    ++ (if l.closing.isSome then [.close id] else [])
    ++ ((l.cordLatch.map fun k => k.1 / 16).eraseDups.filter (cordFull s id l)).map (fun c => .event (.cordLatchRelease id c))
    ++ (cords.filter fun c => s.canHalt id c).map (fun c => .event (.preemption id c (Config.pick (s.steps + c) % 1024)))
    ++ (cords.filter fun c => (resumeStep s id c).isSome).map (fun c => .event (.crewResume id c))
    ++ (if launchStuck s id && (s.groups.any fun g => g.2.launch = id && (s.splitsOf g.1).any s.eligible) then [.event (.watchdogFire id)] else [])

/-- A gang that has not arrived whole, or a cord that has not, when its launch cannot go on (R336, R342). -/
def latchMoves (s : State) (e : Nat × Core) : List Move :=
  (e.2.latches.filter fun k => (e.2.gangAt k.1 k.2).isNone
      && (s.group? k.2.member.group).any fun g => launchStuck s g.launch).map (fun k => .event (.gangLatchTimeout e.1 k.1))

/-- Cords held at the cord latch, when their launch cannot go on (R342). -/
def cordTimeouts (s : State) : List Move :=
  (s.launches.filter fun e => launchStuck s e.1).flatMap fun e =>
    (e.2.cordLatch.filter fun k => !cordFull s e.1 e.2 (k.1 / 16)).filterMap fun k =>
      (s.ctxOf k.2.member).map fun c => .event (.gangLatchTimeout c.crew.core (32 * c.g.crew + c.g.grpid))

/-- Saved crews whose lazy state another crew's placement or resumption, or an unpairing, waits for (R399). -/
def lazyMoves (s : State) : List Move :=
  let wanted := s.launches.any (fun e => isCandidate s e.2) || s.crews.any (fun e => e.2.saved && e.2.toSave.isEmpty)
    || s.dev.pairs.any fun p => p.2.mode = 1 || p.2.mode = 4
  if wanted then (s.crews.filter fun e => (lazyStep s e.1).isSome).map fun e => .event (.lazySave e.1) else []

/-- The coherence fabric: probes that this device answers itself, acknowledgements, and misses (R66, R37). -/
def fabricMoves (s : State) : List Move :=
  ((s.caches.probes.filter fun p => p.target < 16 || (s.link (p.target - 16)).state != 2).map fun p => Move.event (.probe p))
    ++ s.caches.acks.map (fun a => .event (.probeAck a))
    ++ (s.caches.misses.filter fun e => 0 < e.2).map fun e => .event (.lineMissComplete e.1)

/-- What holds an event back at a line or for a miss entry is over. -/
def eventOpen (s : State) (k : Nat) : Bool :=
  if missKey 0 ≤ k then s.missEntries (k - missKey 0) < 256
  else ((Tbl.find? s.caches.busy k).all fun b => b.targets.isEmpty) && s.lineFree k

/-- Events that wait at a slice and may be tried again (R37, R67). -/
def eventMoves (s : State) : List Move :=
  ((s.caches.waiters.filterMap fun w => match w.2 with
    | .event i => if s.caches.waiters.all fun x => x.2 != w.2 || eventOpen s x.1 then some i else none
    | _ => none).eraseDups).map .event

/-- Requests over a link that is not Up get an abort (R394). -/
def abortMoves (s : State) : List Move :=
  (s.outbound.filter fun e => e.2.link.any fun p => (s.link p).state != 2).map fun e => .event (.peerAbort e.1)

/-- Lines that still stand in a retired way: the scrubber comes to it again (R59, log 96). -/
def wayMoves (s : State) : List Move :=
  (s.caches.l2.filter fun e => s.wayRetired e.2.slice e.2.set e.2.way).map fun e =>
    .event (.patrolScrub
      { unit := .l2, index := e.2.slice, set := e.2.set, way := e.2.way, part := e.2.part, line := e.2.line, view := e.2.view, consumer := none }
      .clean)

/-- A mailbox command that can go on: the control core's, once it has been started (R431, R442), and the Collier's (R425). -/
def mailboxMoves (s : State) : List Move :=
  let may (i : Instr) : Bool := match i with
    | .migrate => (migrateStep s).isSome
    | .biasToHost => (biasStep s true).isSome
    | .biasToDevice => (biasStep s false).isSome
    | .reconf => (reconfStep s).isSome
    | .pair => (pairStep s).isSome
    | .unpair => (unpairStep s).isSome
    | _ => true
  let cc : List Move :=
    if s.dev.ccgo && s.dev.locked then
      let i := if ccOps.contains (s.cc 0 4) then decodeBlock s.dev.cccmd else .ccUnknownOp
      if may i then [.event i] else []
    else []
  let mb : List Move :=
    if s.dev.mbgo && !s.dev.pins.heldReset && 0x31 ≤ s.mb 0 4 && s.mb 0 4 ≤ 0x38 then
      let i := decodeBlock s.dev.mbcmd
      if may i then [.event i] else []
    else []
  cc ++ mb

/-- The checking blocks: the oldest act of each gate meets its trailing copy (R409). -/
def gateMoves (s : State) : List Move :=
  (s.dev.pairs.filter fun e => !e.2.gate.isEmpty).map fun e => .event (.compareAct e.1 .agree)

/-- Everything that the device may do next. -/
def State.moves (s : State) : List Move :=
  s.issuable.map issueMove
    ++ s.allCtx.flatMap (splitMoves s) ++ liftMoves s ++ mmuMoves s
    ++ s.cores.flatMap (fun e => coreMoves s e ++ latchMoves s e)
    ++ s.dev.funcs.flatMap (fun f => f.2.queues.flatMap fun q => queueMoves s f.1 q.1)
    ++ s.launches.flatMap (launchMoves s) ++ cordTimeouts s
    ++ ((s.parts.filter fun p => !p.2.late.isEmpty).map fun p => .event (.lateFraming p.1))
    ++ ((s.parts.filter fun p => (placeStep s p.1).isSome).map fun p => .event (.cordPlace p.1))
    ++ ((s.groups.filter fun e => s.canRetire e.1).map fun e => .event (.groupRetire e.1))
    ++ ((s.crews.filter fun e => !e.2.toSave.isEmpty && !s.asking (.launch e.2.launch)).map fun e => .context e.1)
    ++ lazyMoves s ++ fabricMoves s ++ eventMoves s ++ abortMoves s ++ wayMoves s ++ gateMoves s ++ mailboxMoves s

/-! One step. -/

/-- When a split last became ready, as the next step finds it: age counts from there (R191). -/
def State.ready (s : State) (r : SplitRef) (sp : Split) : Split :=
  { sp with readyAt := if (s.ctxOf r).any (readyCtx s) then some (sp.readyAt.getD s.cycle) else none }

/-- Time goes on, by an amount that is left open (log 3), and no split issues yet. Who waits no more leaves the queues. -/
def State.tick (s : State) : State :=
  let t : State := { s with steps := s.steps + 1, cycle := s.cycle + Config.cyclesOf s.steps, cur := none }
  { t with
    groups := Tbl.mapVal (fun gh g => { g with splits := Tbl.mapVal (fun n sp => t.ready { group := gh, split := n } sp) g.splits }) t.groups
    caches := { t.caches with
      waiters := t.caches.waiters.filter fun w => (t.waiterTag w.1 w.2).isSome
      zeros := t.caches.zeros.filter t.zeroHeld } }

/-- A split issues: its wait is over, its age and its priority begin anew (R191, R192), and no other split yields to it any more (R367). -/
def State.issue (s : State) (r : SplitRef) : State :=
  let drop (x : SplitRef) (sp : Split) : Split :=
    if x = r then { sp with wait := .none, lift := 0, readyAt := none } else { sp with yieldOn := sp.yieldOn.erase r }
  { s with
    cur := some r
    groups := Tbl.mapVal (fun gh g => { g with splits := Tbl.mapVal (fun n sp => drop { group := gh, split := n } sp) g.splits }) s.groups }

/-- An instruction names a vector register. -/
def usesVector (i : Instr) : Bool :=
  let u := i.uses
  [u.dst, u.sa, u.sb, u.sc].any fun x => match x with
    | .reg (.v _) => true
    | _ => false

/-- The bytes of its group's region that an instruction reaches by a spill or a refill of a vector row: none while the group's reservation
holds every register of its image (R386, R398; log 42). -/
def spillOffs (s : State) (c : Ctx) (i : Instr) : List Nat :=
  if c.launch.peak < c.g.regs && usesVector i then (Config.spillRow s.steps).toList.map fun k => 0x8000 + 256 * (k % 256) else []

/-- What a split has to do before it issues an instruction: wait for a scalar whose token is still to come (R205); make the acquire of .dev
scope with which the first read of a child's token begins (R138, R273); reach its region for a spill (R386). -/
def beforeIssue (s : State) (c : Ctx) (i : Instr) : Option State :=
  match c.sp.held i with
  | some k => some (s.waitFor c.r (.token k))
  | none =>
    if (scalarsOf i).any c.sp.fresh.contains then
      some (withAcquire (s.issue c.r) c true 3 fun s =>
        s.updSplit c.r fun sp => { sp with fresh := sp.fresh.filter fun r => !(scalarsOf i).contains r })
    else regionMiss (s.issue c.r) c (spillOffs s c i)

/-- A split issues the next word of its clause: what the word decodes to is executed, once the acquire that is still due has been made
(R137, R187, R188). -/
def issueNext (s : State) (r : SplitRef) : Host.Outcome State Fault Refusal :=
  match s.ctxOf r with
  | none => .next s
  | some c =>
    if c.sp.acquire != 0 then .next (withDue (s.issue r) c id)
    else
      match c.nextInstr with
      | .error _ => .next (raise (s.issue r) c causeIllegal c.sp.mask)
      | .ok i =>
        match beforeIssue s c i with
        | some s => .next s
        | none => exec i (s.issue r)

/-- Delivers a trap whose frame could not be written before (R361), or writes a last frame (R359). -/
def redeliver (s : State) (r : SplitRef) : State :=
  let s : State := { s.waitFor r .none with cur := some r }
  match s.ctxOf r with
  | none => s
  | some c =>
    match c.sp.pendingTrap with
    | none => s
    | some t =>
      if t.fails.isSome then lastFrame s r
      else deliverTrap s c t.pc { cause := t.cause, mask := t.mask, addr := t.addr, detail := t.detail }

/-- The effect of a move. -/
def runMove (s : State) : Move → Host.Outcome State Fault Refusal
  | .event i => exec i s
  | .head r => exec (.clauseHeader r) (s.issue r)
  | .word r => issueNext s r
  | .window f q => .next (releaseWindow s f q)
  | .push l => .next (pushWord s l)
  | .close l => .next (tryClose s l)
  | .context h => .next (writeContext s h)
  | .redeliver r => .next (redeliver s r)

/-- The move that comes next: the only one, or a free choice among several. -/
def State.nextMove (s : State) : Option Move :=
  if s.dev.pins.heldReset then none
  else
    match s.moves with
    | [] => none
    | [m] => some m
    | ms => ms[Config.pick s.steps % ms.length]?

/-- A step of the device itself; with nothing to do only time goes on. -/
def deviceStep (s : State) : Host.Outcome State Fault Refusal :=
  match s.nextMove with
  | some m => runMove s.tick m
  | none => .next s.tick

/-- What comes next: an input of the outside world whose time has come, or a step of the device. -/
def advance (s : State) : Host.Outcome State Fault Refusal :=
  match s.inputs with
  | (0, i) :: rest => exec i { s.tick with inputs := rest }
  | (n + 1, i) :: rest => deviceStep { s with inputs := (n, i) :: rest }
  | [] => deviceStep s

/-! A program comes from outside: a launch brings its image (R371, R377). What follows stands for that load (log 27). -/

/-- A tenant of partition 0 with empty tables and no handler. -/
def loadTenant : Tenant :=
  { part := 0, s1root := 0, s2root := 0, func := 0, s2en := false, pasid := 0, quota := 1, handler := 0, ring := 0, log2n := 4
    ringSet := false, frames := 0, pool := none, poolUsed := [] }

/-- A word that another word has to follow: a wide instruction, or a prefix. -/
def wantsNext (w : W64) : Bool := w.toNat % 256 = 0x7D || w.toNat % 256 = 0xF8

/-- The level of an image in which a word is an instruction (R218). -/
def loadLevel (w next : W64) : Bool :=
  match decodeWord true w (some next), decodeWord false w none with
  | .error _, .ok _ => false
  | _, _ => true

/-- An image of one group of 32 lanes that may run any class of the word. -/
def loadImage (w next : W64) : Image :=
  { level3 := loadLevel w next, width := 32, crew := 1, cord := 1, regs := 256, integ := 0, rings := [4], scratch := 65536, fmt0 := 0
    code := 0x1000, codeLen := 64, groups := [(0, if opcodeClass (w.toNat % 256) = 4 then .matrix else .general)], safe := [], headers := [0]
    length := 0x1040 }

/-- The launch of that image. -/
def loadLaunch (w next : W64) : Launch :=
  { Launch.blank 0 1 0 (.window 0 0 0) with
    image := 0x10000, threads := 32, cords := 1, peak := 256, state := .placed, placedCords := 1, img := some (loadImage w next) }

/-- Its split: the clause that holds the word has been fetched, and the word issues next (R200, R205). -/
def loadSplit (w next : W64) : Split :=
  let eng := opcodeClass (w.toNat % 256)
  { Split.first (loadLaunch w next) (loadImage w next) 0 0xFFFFFFFF#64 with
    pc := 0x11008, acquire := 0
    clause := some { header := 0x11000, eng := if eng = 6 then 0 else eng, words := if wantsNext w then [w, next] else [w], next := 0 } }

/-- The device has been released from reset, and the control core has been started (R442, R444). -/
def started (s : State) : State :=
  { s with
    inputs := []
    dev := { s.dev with locked := true, pins := { s.dev.pins with heldReset := false, linkReset := false } } }

/-- A launch whose one resident split issues the word next. -/
def loadWord (s : State) (w next : W64) : State :=
  let g : Group :=
    { launch := 1, cord := 0, crew := 1, grpid := 0, width := 32, regs := 256, role := ((loadImage w next).groups.getD 0 (0, .general)).2
      splits := [(0, loadSplit w next)], vregs := [], vseed := [], preds := [], exited := 0, off := 0, gang := 0, skew := 0, sticky := 0
      region := 0, region2 := 0 }
  let c : Crew :=
    { launch := 1, cord := 0, crewid := 0, core := 0, scratchBase := 0, scratchSize := 65536, rings := [4], ringPhase := [], bars := []
      cbarLanes := [], saved := false, toSave := [], lazySlot := none, preempt := false }
  { started s with
    tenants := Tbl.put s.tenants 1 loadTenant, launches := [(1, loadLaunch w next)], crews := [(1, c)], groups := [(1, g)] }

/-- A command block that waits in the mailbox to which its OP belongs (R425, R431). -/
def loadBlock (s : State) (b : Block) : State :=
  let s := started s
  if 0x31 ≤ blkOp b && blkOp b ≤ 0x38 then s.setDev { s.dev with mbcmd := b, mbgo := true, ccgo := false }
  else s.setDev { s.dev with cccmd := b, ccgo := true, mbgo := false }

/-- The state in which the instruction whose bits are given runs next. -/
def loadTableWord (s : State) (nbits w : Nat) : State :=
  if 128 < nbits then loadBlock s (BitVec.ofNat 512 w) else loadWord s (w64 w) (w64 (w / 2 ^ 64))

end Sys2Proof.Machine
end

