-- ==== Sys2Proof/Machine/Step.lean ====
section
/-! DEFINITION. One step of the device, and how the host's table words are placed for it. -/

namespace Sys2Proof.Machine

/-- One step: an input of the outside world, or the device's next move. -/
def step (s : State) : Host.Outcome State Fault Refusal := advance s

/-- The state with an instruction placed where the next step takes it (log 27). -/
def State.withFetchWord (s : State) (nbits w : Nat) : State := loadTableWord s nbits w

end Sys2Proof.Machine
end

