-- ==== Sys2Proof/Machine/RegRead.lean ====
section
/-! DEFINITION. What a host read of a device register returns (01 R25; 03 Tables 3.3 and 3.11; 06 Table 6.11; 14 Table 14.3;
15 Table 15.2; 16 Table 16.7; 17 R431, R439, R441, Tables 17.1 and 17.7). No register read changes the machine. -/

namespace Sys2Proof.Machine

/-- A flag as a register's bit. -/
def bitOf (b : Bool) : Nat := if b then 1 else 0

/-- The interrupt registers of a function (Table 17.7). -/
def readIntReg (s : State) (f a : Nat) : Nat :=
  match a with
  | 0x00 => (s.func f).intstat.toNat
  | 0x08 => (s.func f).intcfg.toNat
  | 0x10 => (s.func f).fplaunch % 2 ^ 32
  | 0x18 => (s.func f).funcpart % 16
  | _ => 0

/-- The page-request block of a function (Table 6.11); PRQREPLY reads as 0. -/
def readPrqReg (s : State) (f a : Nat) : Nat :=
  let x := s.func f
  match a with
  | 0x00 => x.prqbase.toNat
  | 0x08 => (setFld x.prqcfg 0 4 x.prqLog).toNat
  | 0x10 => x.prqtail.toNat
  | 0x18 => x.prqhead.toNat
  | 0x28 => (s.mmu.requests.filter fun q => q.func = f).length % 512 + x.badReply * 2 ^ 16
  | 0x30 => x.fltinfo.toNat
  | 0x38 => x.fltaddr.toNat
  | _ => 0

/-- A queue interface (Table 14.3); a LOG2N that is out of range reads as 4, and CQUOTA as the quota that it stands for. -/
def readQueueReg (s : State) (f q a : Nat) : Nat :=
  let x := (s.func f).queue q
  match a with
  | 0x00 => x.qbase.toNat
  | 0x08 => (setFld x.qcfg 0 4 x.logN).toNat
  | 0x10 => x.qpasid.toNat
  | 0x18 => x.qhead.toNat
  | 0x20 => x.qirq.toNat
  | 0x28 => x.qstat.toNat
  | 0x30 => max 1 (min 1024 (fld x.qquota 0 11))
  | _ => 0

/-- The registers of partition p (Table 17.1). -/
def readPartReg (s : State) (p a : Nat) : Nat :=
  let x := s.part p
  match a with
  | 0x00 => x.req.toNat
  | 0x08 => x.mem.toNat
  | 0x10 => x.share % 256 + x.w1 % 256 * 2 ^ 8 + x.w2 % 256 * 2 ^ 16 + x.w3 % 256 * 2 ^ 24 + x.tc0cap % 16 * 2 ^ 32
  | 0x18 => x.pclass.toNat
  | 0x20 => x.peclass.toNat
  | 0x28 => x.pstate % 4 + x.resvN % 2 ^ 13 * 2 ^ 8
  | _ => 0

/-- XCONN row of requester port r (R427): bit m says that ports r and m share a partition; rows 21 and 22 are all ones. -/
def State.xconnRow (s : State) (r : Nat) : Nat :=
  if r = 21 || r = 22 then 0xFFFF
  else ((List.range 16).map fun m =>
    bitOf ((List.range 16).any fun p => (s.part p).req.getLsbD r && (s.part p).mem.getLsbD m) * 2 ^ m).sum

/-- The counters of memory-side port m, two to 8 bytes (Table 3.11). -/
def readCountReg (s : State) (m a : Nat) : Nat :=
  let x := s.portCount m
  match a with
  | 0x00 => x.prbsent + x.prbsup * 2 ^ 32
  | 0x08 => x.ownxfer + x.wbcross * 2 ^ 32
  | 0x10 => x.wofault + x.biasstall * 2 ^ 32
  | _ => 0

/-- Slot n of the error log (Table 15.2). -/
def readErrReg (s : State) (n a : Nat) : Nat :=
  match Tbl.find? s.dev.errlog n with
  | none => 0
  | some e =>
    match a with
    | 0x00 => e.kind.toNat
    | 0x08 => e.addr.toNat
    | 0x10 => e.time.toNat
    | 0x18 => e.part
    | _ => 0

/-- Range entry n of partition p (R69, Table 3.3). -/
def readRangeReg (s : State) (p n : Nat) (hi : Bool) : Nat :=
  match Tbl.find? (s.part p).ranges n with
  | none => 0
  | some r => if hi then r.limit * 2 ^ 16 else bitOf r.en + r.slot * 2 + r.base * 2 ^ 16

/-- The registers of pair k (Table 16.7). -/
def readPairReg (s : State) (k a : Nat) : Nat :=
  let x := s.pair k
  match a with
  | 0x00 => x.mmstat.toNat
  | 0x08 => x.mmpc.toNat
  | 0x10 => x.mmlead.toNat
  | 0x18 => x.mmtrail.toNat
  | 0x20 => x.mmcnt + x.mmroll * 2 ^ 32
  | _ => 0

/-- SCORE of unit u (Table 16.7). -/
def readScore (s : State) (u : Nat) : Nat :=
  Tbl.getD s.dev.score u 0 + bitOf (Tbl.getD s.dev.testing u false) * 2 ^ 8 + bitOf (Tbl.getD s.dev.retired u false) * 2 ^ 9

/-- The aligned 8 bytes at an offset of function 0's BAR 0 (Table 1.5). The control core's mailbox exists once the control core has
been started (R442), as for writes; before, it reads as 0 (log 26). -/
def readDeviceReg (s : State) (a : Nat) : Nat :=
  let d := s.dev
  let blockAt (b : Block) (o : Nat) : Nat := fld b (8 * o) 64
  let bytesAt (t : List (Nat × Byte)) (o : Nat) : Nat := leBytes ((List.range 8).map fun i => Tbl.getD t (o + i) 0)
  if a = 0x100 then d.fwwin.toNat
  else if 0x1000 ≤ a && a < 0x1020 then readIntReg s 0 (a - 0x1000)
  else if 0x2000 ≤ a && a < 0x2400 then readPartReg s ((a - 0x2000) / 0x40) (a % 0x40)
  else if 0x3000 ≤ a && a < 0x30C0 then
    let r := (a - 0x3000) / 8
    s.xconnRow r + Tbl.getD d.refused r 0 * 2 ^ 16
  else if 0x4000 ≤ a && a < 0x4200 then readCountReg s ((a - 0x4000) / 0x20) (a % 0x20)
  else if a = 0x5000 then d.errcnt % 2 ^ 32
  else if a = 0x5008 then bitOf d.errIrqEn
  else if 0x5100 ≤ a && a < 0x5900 then readErrReg s ((a - 0x5100) / 0x20) (a % 0x20)
  else if 0x6000 ≤ a && a < 0x6020 then
    let l := s.link ((a - 0x6000) / 8)
    l.state + l.bound * 2 ^ 2 + l.remote * 2 ^ 6 + l.replays * 2 ^ 16
  else if 0x7000 ≤ a && a < 0x8000 then readRangeReg s ((a - 0x7000) / 0x100) (a % 0x100 / 16) (a % 16 = 8)
  else if 0x100000 ≤ a && a < 0x200000 then
    if !d.locked then 0
    else if a < 0x100040 then blockAt d.cccmd (a - 0x100000)
    else if a = 0x100040 then bitOf d.ccgo
    else if 0x101000 ≤ a && a < 0x101400 then bytesAt d.cclist (a - 0x101000)
    else if 0x110000 ≤ a then bytesAt d.ccstage (a - 0x110000)
    else 0
  else if a = 0x200000 then 0x00010000 + bitOf d.locked * 2 ^ 32
  else if a = 0x200008 then ((List.range 8).map fun k => (s.pair k).mode * 16 ^ k).sum
  else if a = 0x200010 then d.suspth % 256
  else if 0x200040 ≤ a && a < 0x200240 then readPairReg s ((a - 0x200040) / 0x40) (a % 0x40)
  else if 0x201000 ≤ a && a < 0x2013A0 then readScore s ((a - 0x201000) / 4) + readScore s ((a - 0x201000) / 4 + 1) * 2 ^ 32
  else if 0x208000 ≤ a && a < 0x208040 then blockAt d.mbcmd (a - 0x208000)
  else if a = 0x208040 then bitOf d.mbgo
  else if 0x300000 ≤ a && a < 0x308000 then readQueueReg s 0 ((a - 0x300000) / 4096) (a % 4096)
  else if 0x380000 ≤ a && a < 0x380040 then readPrqReg s 0 (a - 0x380000)
  else 0

/-- The aligned 8 bytes at an offset of a virtual function's BAR 0 (Table 1.4). -/
def readFuncReg (s : State) (f a : Nat) : Nat :=
  if a < 0x8000 then readQueueReg s f (a / 4096) (a % 4096)
  else if a < 0x9000 then readPrqReg s f (a - 0x8000)
  else if a < 0xA000 then readIntReg s f (a - 0x9000)
  else 0

/-- A host read of `size` bytes of function `func`'s BAR 0 (R25): the value, or none where the read completes with an
unsupported-request status. -/
def State.readReg (s : State) (func off size : Nat) : Option Nat :=
  if !regAccess off size then none
  else
    let a := off / 8 * 8
    let v := if func = 0 then readDeviceReg s a else if func < 64 then readFuncReg s func a else 0
    some (v / 2 ^ (8 * (off % 8)) % 2 ^ (8 * size))

/-! The device-register region (R21). -/

/-- The offset in function 0's BAR 0 of an address in the device-register region that requester port 21 or 22 names (R21, Table 1.3). -/
def windowOffset (port pa : Nat) : Option Nat :=
  if (port = 21 || port = 22) && 0x14000000000 ≤ pa && pa < 0x14004000000 then some (pa - 0x14000000000) else none

/-- A read by a requester port of a physical address in the device-register region: the control core and the Collier reach function 0's BAR 0
registers there; nobody else does (R21). -/
def State.readWindow (s : State) (port pa size : Nat) : Option Nat := (windowOffset port pa).bind fun o => s.readReg 0 o size

/-- A write by a requester port of a physical address in the device-register region (R21). -/
def State.writeWindow (s : State) (port pa size : Nat) (value : W64) : State :=
  match windowOffset port pa with
  | some o => writeReg s 0 o size value
  | none => s

end Sys2Proof.Machine
end

