-- ==== Sys2Proof/Safety.lean ====
section
/-! DEFINITION. What counts as a safe run, and the words in which the statements speak: what a reader sees of a state, what an
instruction leaves unchanged, and the numbers that operands stand for. -/

namespace Sys2Proof.Machine

/-- Main and host memory and the weight store are in canonical form: addresses strictly rising, and no entry equal to the 0 that
an unlisted byte reads as. Equal contents are then equal data. -/
def State.wf (s : State) : Prop := Memory.wf s.mem ∧ Memory.wf s.ws

/-- A step gives a next state that satisfies a property: it neither faults nor refuses. -/
def NextSat (o : Host.Outcome State Fault Refusal) (p : State → Prop) : Prop :=
  match o with
  | .next s => p s
  | _ => False

/-! Reading. -/

/-- Scalar register n of a split. -/
def State.sregAt (s : State) (r : SplitRef) (n : Nat) : W64 := ((s.split? r).map fun sp => sp.s n).getD 0

/-- Lane l of vector register n of a group. -/
def State.vregAt (s : State) (g n l : Nat) : W32 := ((s.group? g).map fun x => x.v n l).getD 0

/-- Lane l's operand in `span` registers from n on. -/
def State.vnumAt (s : State) (g n l span : Nat) : Nat := ((s.group? g).map fun x => x.num n l span).getD 0

/-- Predicate p of a group. -/
def State.predAt (s : State) (g p : Nat) : LaneMask := ((s.group? g).map fun x => x.pred p).getD 0

/-- STICKY of a group. -/
def State.stickyAt (s : State) (g : Nat) : W64 := ((s.group? g).map (·.sticky)).getD 0

/-- Counter i of a launch (R242, R258). -/
def State.counterAt (s : State) (l i : Nat) : Nat := ((s.launch? l).map fun x => x.counter i).getD 0

/-- A byte of main memory at its device address, or of host memory at 2^51 + its address. -/
def State.byteAt (s : State) (a : Nat) : Byte := readCell s.mem a

/-- A byte of the weight store. -/
def State.wsByteAt (s : State) (a : Nat) : Byte := readCell s.ws a

/-! What stays. -/

/-- Everything outside the groups is as before, but for the counters of one launch and for what their interrupt writes in the
function's registers (R242 to R244). -/
structure OutsideKept (s t : State) (launch : Nat) : Prop where
  memory : ∀ a, t.byteAt a = s.byteAt a
  weights : ∀ a, t.wsByteAt a = s.wsByteAt a
  cores : t.cores = s.cores
  caches : t.caches = s.caches
  mmu : t.mmu = s.mmu
  parts : t.parts = s.parts
  tenants : t.tenants = s.tenants
  crews : t.crews = s.crews
  lazy : t.lazy = s.lazy
  outbound : t.outbound = s.outbound
  migration : t.migration = s.migration
  straps : t.straps = s.straps
  cycle : t.cycle = s.cycle
  inputs : t.inputs = s.inputs
  launches : ∀ l, l ≠ launch → t.launch? l = s.launch? l
  launch : ∀ l, s.launch? launch = some l → ∃ k, t.launch? launch = some { l with counters := k }
  device : ∃ fs ms, t.dev = { s.dev with funcs := fs, msix := ms }

/-- Every group but one, and every split of that group but one, is as before. -/
structure OthersKept (s t : State) (r : SplitRef) : Prop where
  groups : ∀ h, h ≠ r.group → t.group? h = s.group? h
  splits : ∀ n, n ≠ r.split → t.split? { group := r.group, split := n } = s.split? { group := r.group, split := n }

/-- A split whose instruction is over: nothing of it is carried on, and outside trap level REPCNT and MPROG read 0 (R295, R365). -/
def Split.ended (sp : Split) : Split :=
  { sp with unfinished := none, faults := [], answers := [], aborted := none, matched := false, back := false
            repcnt := if sp.trap.isSome then sp.repcnt else 0, mprog := if sp.trap.isSome then sp.mprog else 0 }

/-- Of a split, only the scalars, the program counter and the place in its clause may have changed: its mask, FMT, stack, tensor
records, trap registers and waits are as before (Table 8.9), and its instruction is over. -/
def SplitKept (sp sp' : Split) : Prop :=
  sp' = { sp.ended with sregs := sp'.sregs, pc := sp'.pc, clause := sp'.clause, resume := sp'.resume, rep := sp'.rep }

/-- Of a group, only the splits, the vector registers, the predicates and STICKY may have changed. -/
def GroupKept (g g' : Group) : Prop := g' = { g with splits := g'.splits, vregs := g'.vregs, preds := g'.preds, sticky := g'.sticky }

/-- What a register instruction leaves unchanged beside registers and flags. -/
structure RegFrame (s t : State) (c : Ctx) : Prop where
  outside : OutsideKept s t c.g.launch
  others : OthersKept s t c.r
  split : ∃ sp, t.split? c.r = some sp ∧ SplitKept c.sp sp
  group : ∃ g, t.group? c.r.group = some g ∧ GroupKept c.g g

/-- No scalar register is written. -/
def ScalarsKept (s t : State) (c : Ctx) : Prop := ∀ n, t.sregAt c.r n = s.sregAt c.r n
/-- No vector register is written. -/
def VectorsKept (s t : State) (c : Ctx) : Prop := ∀ n l, t.vregAt c.r.group n l = s.vregAt c.r.group n l
/-- No predicate is written. -/
def PredsKept (s t : State) (c : Ctx) : Prop := ∀ p, t.predAt c.r.group p = s.predAt c.r.group p
/-- STICKY and the counters stand. -/
def FlagsKept (s t : State) (c : Ctx) : Prop :=
  t.stickyAt c.r.group = s.stickyAt c.r.group ∧ ∀ i, t.counterAt c.g.launch i = s.counterAt c.g.launch i

/-! Numbers (R227, R253, Table 8.7). -/

/-- The number that a scalar operand stands for under TY. -/
def scalarIn (ty : BitVec 3) (x : W64) : Int :=
  match ty.toNat with
  | 0 => (x.setWidth 32).toInt
  | 1 => (x.setWidth 32).toNat
  | 4 => x.toInt
  | _ => x.toNat

/-- The register value of an exact result under TY: wrapped to the width, and to 64 bits by sign for i32, by zeros for n32. -/
def scalarOut (ty : BitVec 3) (x : Int) : W64 :=
  match ty.toNat with
  | 0 => (BitVec.ofInt 32 x).signExtend 64
  | 1 => (BitVec.ofInt 32 x).setWidth 64
  | _ => BitVec.ofInt 64 x

/-- The types that a scalar instruction takes (R253). -/
def scalarTy (ty : BitVec 3) : Bool := ty = 0 || ty = 1 || ty = 4 || ty = 5

/-- Element k of an operand of TY, as the number that it stands for (R254). -/
def elemIn (ty : BitVec 3) (x k : Nat) : Int := asInt (tyW ty) (tySigned ty) (bits x (tyW ty * k) (tyW ty))

/-- Element k of a lane's `x` is the exact result `v` of TY, wrapped to its width (R255). -/
def ElemIs (ty : BitVec 3) (x k : Nat) (v : Int) : Prop := (bits x (tyW ty * k) (tyW ty) : Int) = v % 2 ^ tyW ty

/-- The result `v` of a bit operation on the `w` bits of `x` (R261): ones, leading zeros, trailing zeros, reversal. -/
def BitResult (op w x v : Nat) : Prop :=
  match op with
  | 0 => v = ((List.range w).filter fun i => x.testBit i).length
  | 1 => v ≤ w ∧ (∀ i, i < w → w - v ≤ i → x.testBit i = false) ∧ (v < w → x.testBit (w - 1 - v) = true)
  | 2 => v ≤ w ∧ (∀ i, i < v → x.testBit i = false) ∧ (v < w → x.testBit v = true)
  | _ => v < 2 ^ w ∧ ∀ i, i < w → v.testBit i = x.testBit (w - 1 - i)

/-- An integer condition of Table 10.3. -/
def intHolds (cond : Nat) (a b : Int) : Bool :=
  match cond with
  | 0 => a = b
  | 1 => a ≠ b
  | 2 => a < b
  | 3 => a ≤ b
  | 4 => a > b
  | _ => a ≥ b

/-- The quotient and the remainder of R256, before they are wrapped to the width. -/
def quotient (a b : Int) : Int := if b = 0 then -1 else a.tdiv b
def remainder (a b : Int) : Int := if b = 0 then a else a.tmod b

/-- The STICKY bits of a division of TY (R256): DIVZ, or DIVOVF for the most negative value by -1. -/
def divSticky (ty : BitVec 3) (a b : Int) : W64 :=
  if b = 0 then 1 else if tySigned ty = true ∧ a = -2 ^ (tyW ty - 1) ∧ b = -1 then 2 else 0

/-- An exact result clamped to the range of TY, and whether it had to be (R257). -/
def clamped (ty : BitVec 3) (x : Int) : Int := max (intMin (tyW ty) (tySigned ty)) (min x (intMax (tyW ty) (tySigned ty)))
def clips (ty : BitVec 3) (x : Int) : Bool := clamped ty x ≠ x

/-! Results. -/

/-- A scalar instruction wrote `v` to scalar `dst`, unless that is s0, and no other register. -/
structure ScalarWritten (s t : State) (c : Ctx) (dst : BitVec 8) (v : W64) : Prop where
  result : ∀ n, t.sregAt c.r n = if n = dst.toNat ∧ n ≠ 0 then v else s.sregAt c.r n
  frame : RegFrame s t c
  vectors : VectorsKept s t c
  preds : PredsKept s t c

/-- A per-lane instruction wrote `span` registers from `dst` on in the lanes of `m`, each lane's value as `val` says, and no other
register. -/
structure LanesWritten (s t : State) (c : Ctx) (m : LaneMask) (dst : BitVec 8) (span : Nat) (val : Nat → Nat → Prop) : Prop where
  result : ∀ l, l < 64 → m.getLsbD l = true → val l (t.vnumAt c.r.group dst.toNat l span)
  kept : ∀ n l, l < 64 → ¬(m.getLsbD l = true ∧ dst.toNat ≤ n ∧ n < dst.toNat + span) →
    t.vregAt c.r.group n l = s.vregAt c.r.group n l
  frame : RegFrame s t c
  scalars : ScalarsKept s t c
  preds : PredsKept s t c

/-- An instruction wrote the lanes of `m` in predicate `dst`, unless that is p0, and no other register. -/
structure PredWritten (s t : State) (c : Ctx) (m : LaneMask) (dst : BitVec 8) (val : Nat → Bool) : Prop where
  result : ∀ p l, l < 64 → (t.predAt c.r.group p).getLsbD l =
    if p = dst.toNat ∧ p ≠ 0 ∧ m.getLsbD l = true then val l else (s.predAt c.r.group p).getLsbD l
  frame : RegFrame s t c
  scalars : ScalarsKept s t c
  vectors : VectorsKept s t c

/-- STICKY and the counters rose by the marks `m`, event by event (R242, R243, R258). -/
structure Marked (s t : State) (c : Ctx) (m : Marks) : Prop where
  sticky : t.stickyAt c.r.group = s.stickyAt c.r.group ||| m.sticky.setWidth 64
  counters : ∀ i, t.counterAt c.g.launch i = (m.events.filter fun e => e = i).foldl (fun n _ => sat32 n) (s.counterAt c.g.launch i)

/-- The shadow units find no divergence: they are off at integrity level 0, and nothing disturbs this split (R245). -/
def unshadowed (s : State) (c : Ctx) : Bool := c.launch.il = 0 || s.shadowErr.all fun e => e.1 != c.r

/-- A per-lane instruction completed: each lane of `m` took the value of its element, and the active lanes' marks were counted. -/
def LanesGive (s : State) (c : Ctx) (q : Guard) (m : LaneMask) (i : Instr) (dst : BitVec 8) (n : Nat) (val : Nat → Elem) : Prop :=
  ∃ t, exec i s = .next t ∧ LanesWritten s t c m dst n (fun l v => v = (val l).val % 2 ^ (32 * n))
    ∧ Marked s t c (marksOf (lanesOf (c.active q)) val)

/-- The value of a magnitude code with an unbounded exponent (R228, R235 step 1). -/
def FFmt.codeValue (f : FFmt) (c : Nat) : Rat :=
  match f.mag false c with
  | .fin _ m e => m * (2 : Rat) ^ e
  | _ => 0

/-- The IEEE formats of the vector float instructions (Table 8.7). -/
def floatFormats : List FFmt := [fmtF32, fmtF16, fmtBf16, fmtF64]

/-! Memory (11 R297 to R303). -/

/-- Registers that a memory operand of TY takes in each lane (R297). -/
def memRegs (ty : BitVec 3) : Nat := if ty = 5 then 2 else if ty = 6 then 4 else 1

/-- Register i of a loaded value, extended as TY says (Table 8.7). -/
def loadReg (ty : BitVec 3) (v i : Nat) : W32 :=
  if ty = 1 then (BitVec.ofNat 8 v).signExtend 32 else if ty = 3 then (BitVec.ofNat 16 v).signExtend 32
  else BitVec.ofNat 32 (v / 2 ^ (32 * i))

/-- A load wrote `val l` to the lanes of `ls`, and no other register, flag, mask or place. -/
structure LoadsWritten (s t : State) (c : Ctx) (ty : BitVec 3) (dst : BitVec 8) (ls : List Nat) (val : Nat → Nat) : Prop where
  result : ∀ l ∈ ls, ∀ i, i < memRegs ty → t.vregAt c.r.group (dst.toNat + i) l = loadReg ty (val l) i
  kept : ∀ n l, l < 64 → ¬(l ∈ ls ∧ dst.toNat ≤ n ∧ n < dst.toNat + memRegs ty) → t.vregAt c.r.group n l = s.vregAt c.r.group n l
  others : OthersKept s t c.r
  split : ∃ sp, t.split? c.r = some sp ∧ SplitKept c.sp sp
  group : ∃ g, t.group? c.r.group = some g ∧ GroupKept c.g g
  scalars : ScalarsKept s t c
  preds : PredsKept s t c
  flags : FlagsKept s t c

/-- Every write that a core has handed to a home slice is performed (R74, R120). -/
def writesDone (s : State) (core : Nat) : Prop := ∀ e ∈ s.caches.busy, reqTag e.2.access.who = core → handsOver e.2.event = false

/-- An acquire or a release of a core has nothing to write back, to drop or to wait for (R128): its L1 holds no SINV line. -/
def noSinv (s : State) (core : Nat) : Prop := (∀ e ∈ s.caches.l1, e.2.core = core → e.2.perm ≠ .sinv) ∧ writesDone s core

/-- No earlier store of the split waits in the store gate of a clamp (R409). -/
def gateClear (s : State) (c : Ctx) : Prop := c.checked = true → ∀ e ∈ gateStores s c.crew.core, e.split ≠ c.r

/-- A line that no lost line closes: it is not an unbacked one of a slice in LOSTALL (R104). -/
def notLost (s : State) (part pa : Nat) : Prop :=
  s.region part pa = .unbacked → (s.home part pa).slice ∉ (s.part part).lostAll

/-- No lane of the split is attached to a page request (R163). -/
def unattached (s : State) (c : Ctx) : Prop := ∀ q ∈ s.mmu.requests, ∀ a ∈ q.lanes, a.split ≠ c.r

/-- A lane's address translates in the core's L1 TLB, for a page of class DIR, and the core's L1 holds the line `l` (R38, R39, R158). -/
structure InL1 (s : State) (c : Ctx) (acc : Access) (va : W64) (x : Xlated) (l : L1Line) : Prop where
  page : xlate s c.crew.core c.launch.tenant va acc c.sp.faults = .ok x
  near : ∃ e ∈ State.tlbOf s.mmu.l1tlb c.crew.core, e.serves c.launch.tenant va.toNat acc = true
  free : unattached s c
  sound : notLost s c.part (x.pa / 128 * 128)
  cls : x.cls = .dir
  line : Tbl.find? s.caches.l1 (lineKey c.crew.core (x.pa / 128) x.view) = some l
  perm : l.perm ≠ .sinv
  whole : l.valid = BitVec.allOnes 128

/-- Nothing but the pseudo-LRU bits of the cores' L1s may differ outside the groups (R38). -/
def OnlyPlru (s t : State) (launch : Nat) : Prop :=
  OutsideKept { s with cores := t.cores } t launch ∧ ∀ k, ∃ p, t.core k = { s.core k with plru := p }

/-- The value of a place of `n` bytes once lanes have acted on it, in the order of the list (R302). -/
def actsOn (act : LaneAct) (n v : Nat) (ls : List Nat) : Nat :=
  ls.foldl (fun v l => (act l v).elim v fun e => e.val % 256 ^ n) v

/-- The lanes of `m` are those that satisfy `p`. -/
def IsMask (m : LaneMask) (p : Nat → Prop) : Prop := ∀ l, l < 64 → (m.getLsbD l = true ↔ p l)

/-- No transition, flip or migration holds a line of the L2 up (R67, R86, R109). -/
def slicesQuiet (s : State) : Prop :=
  s.caches.busy = [] ∧ s.caches.waiters = [] ∧ s.migration = none ∧ s.dev.biasFlip = none

/-- A backed line of the L2 under program INV, in one of its states (R78), that no L1 and no peer shares. -/
structure InvLine (s : State) (part line : Nat) (view : Bool) (state : Nat) (l : L2Line) : Prop where
  held : Tbl.find? s.caches.l2 (lineKey part line view) = some l
  name : l.part = part ∧ l.line = line ∧ l.view = view
  program : (s.part part).protoAt (line * 128) = protoINV
  state : l.state = state
  unshared : l.sharers = 0
  backed : l.unb = none
  once : (s.caches.l2.map (·.1)).Nodup

/-! Words and blocks (08 R206 to R211; 17 Table 17.3). -/

/-- The guard that holds in every lane. -/
def always : Guard := { p := 0, neg := false }

/-- Fields of the formats, unguarded. -/
def rf (ty dst sa sb sc md : Nat) : RF :=
  { g := always, ty := BitVec.ofNat 3 ty, dst := BitVec.ofNat 8 dst, sa := BitVec.ofNat 8 sa, sb := BitVec.ofNat 8 sb
    sc := BitVec.ofNat 8 sc, md := BitVec.ofNat 16 md }
def mf (ty dst sa sb scope ord col off : Nat) : MF :=
  { g := always, ty := BitVec.ofNat 3 ty, dst := BitVec.ofNat 8 dst, sa := BitVec.ofNat 8 sa, sb := BitVec.ofNat 8 sb
    scope := BitVec.ofNat 3 scope, ord := BitVec.ofNat 2 ord, col := BitVec.ofNat 3 col, off := BitVec.ofNat 16 off }
def guarded (p : Nat) (neg : Bool) : Guard := { p := BitVec.ofNat 4 p, neg := neg }

/-! Running (07 R205; 13 R359). -/

/-- Keys of the tables of what is resident rise strictly, so that each handle names one thing. -/
def State.tidy (s : State) : Prop :=
  (s.groups.map (·.1)).Pairwise (· < ·) ∧ (s.crews.map (·.1)).Pairwise (· < ·) ∧ (s.launches.map (·.1)).Pairwise (· < ·)
    ∧ ∀ e ∈ s.groups, (e.2.splits.map (·.1)).Pairwise (· < ·)

/-- A launch that has not ended. -/
def LaunchState.live : LaunchState → Bool
  | .done | .failed _ | .refused _ => false
  | _ => true

/-! Control (07 R175 to R189; 08 R200 to R204). -/

/-- The clause at header address `h` is fetched without a wait, from the core's fetched clauses or its L1; `s'` is the state after. -/
def ClauseAt (s : State) (c : Ctx) (h : W64) (s' : State) (w : W64) (ws : List W64) : Prop :=
  ∀ k : State → W64 → List W64 → State, withClause s c h k = k s' w ws

/-- Nothing but splits of one group has changed. -/
def OnlySplits (s t : State) (g : Nat) : Prop :=
  t = { s with groups := t.groups } ∧ (∀ h, h ≠ g → t.group? h = s.group? h)
    ∧ ∃ x y, s.group? g = some x ∧ t.group? g = some y ∧ y = { x with splits := y.splits }

/-- A transfer of a split sends its lanes `m` to `pc`, with the registers of `regs`, and changes nothing else of it. -/
def Split.sentTo (regs : Split) (m : LaneMask) (pc : W64) : Split :=
  { regs.ended with mask := m, pc := pc, clause := none, resume := none, rep := none }

/-! Engine commands (11 R312 to R326). -/

/-- The byte at `a` once `n`-byte values have been written to places in the order of a list. -/
def bytesAfter (old : Nat → Byte) (n : Nat) (writes : List (Nat × Nat)) (a : Nat) : Byte :=
  match (writes.filter fun p => p.1 ≤ a && a < p.1 + n).getLast? with
  | some p => BitVec.ofNat 8 (p.2 / 256 ^ (a - p.1))
  | none => old a

/-- Command `id` of a core is that of a group, crew and launch that are resident and running, and it has performed nothing yet. -/
structure FreshCommand (s : State) (core id : Nat) (x : Command) (g : Group) (cr : Crew) (l : Launch) : Prop where
  queued : s.cmd? core id = some x
  group : s.group? x.group = some g
  crew : s.crew? x.crew = some cr
  launch : s.launch? g.launch = some l
  running : cr.saved = false
  member : g.crew = x.crew
  plain : l.il < 2
  none_done : x.done = [] ∧ x.got = [] ∧ x.fail = none ∧ x.aborted = []
  unordered : x.acq = false ∧ x.rel = false
  settled : ∀ o ∈ s.outbound, o.2.who ≠ some (.command core id)
  ungated : ∀ g ∈ (s.pair (pairOf core)).gate, ¬(g.core = core ∧ g.cmd = some id)
  unattached : ∀ q ∈ s.mmu.requests, ∀ a ∈ q.engines, a.who ≠ .command core id
  unqueued : ∀ w ∈ s.caches.waiters, w.2 ≠ .unit (.command core id)
  once : ((s.core core).cmds.map (·.1)).Pairwise (· < ·)

/-- What the engine reads for an address of a tenant's memory that the core's L1 holds whole (R38), or of the weight store. -/
def engineFinds (s : State) (core : Nat) (l : Launch) (faults : List (Nat × XFault)) (ws : Bool) (a : W64) (n v : Nat) : Prop :=
  if ws then Tbl.getD s.dev.refresh (wsHome (s.part l.part).ports a.toNat).1 false = false ∧ v = s.readWs l.part a.toNat n
  else
    ∃ y x, xlate s core l.tenant a .engRead faults = .ok y
      ∧ (∃ e ∈ State.tlbOf s.mmu.l1tlb core, e.serves l.tenant a.toNat .engRead = true) ∧ notLost s l.part (y.pa / 128 * 128)
      ∧ Tbl.find? s.caches.l1 (lineKey core (y.pa / 128) y.view) = some x ∧ x.valid = BitVec.allOnes 128
      ∧ v = lineField x.data (y.pa % 128) n

/-! Matrix operations (12 R328 to R352). -/

/-- A released operation of one member that may end now: it has started, its claims are free, and no shadow unit has found a
divergence (R338, R340, R245). -/
structure Ending (s : State) (core id : Nat) (op : MatrixOp) (c : Ctx) : Prop where
  released : Tbl.find? (s.core core).ops id = some op
  member : op.members = [c.r]
  ctx : s.ctxOf c.r = some c
  alone : op.cord = false
  may : (s.core core).canEnd id op = true
  undisturbed : ∀ e ∈ s.shadowErr, e.1 ≠ c.r
  once : ((s.core core).ops.map (·.1)).Pairwise (· < ·)

/-- A member of a joint operation that has ended goes on (R338). -/
def Split.pastJoint (sp : Split) (sealed : Bool) : Split :=
  let t : Split := { sp.advance 1 with wait := .none, mprog := 0 }
  if sealed then { t with sealed := true } else t

/-- Of a core, only the accumulator and its tags may have changed; only the scales; only the operand slots. -/
def AccOnly (x y : Core) : Prop := ∃ ops, y = { x with acc := y.acc, tagI := y.tagI, ops := ops }
def ScaleOnly (x y : Core) : Prop := ∃ ops, y = { x with scale := y.scale, ops := ops }
def SlotsOnly (x y : Core) : Prop := ∃ ops, y = { x with operand := y.operand, ops := ops }

/-! Launches (14 R370 to R382). -/

/-- QSTAT once a record has been refused with a status: STATUS, and REFUSALS saturating (Table 14.3). -/
def qstatRefused (q : W64) (status : Nat) : W64 := setFld (setFld q 0 8 status) 24 8 (min 255 (fld q 24 8 + 1))

/-- A byte of memory holds the byte of the `n`-byte number `v` stored at `a`, and any other byte is as before. -/
def StoredAt (s t : State) (a n v : Nat) : Prop :=
  ∀ p, t.byteAt p = if a ≤ p ∧ p < a + n then BitVec.ofNat 8 (v / 256 ^ (p - a)) else s.byteAt p

/-- Every queue interface but one is as before. -/
def OtherQueuesKept (s t : State) (f q : Nat) : Prop := ∀ g r, (g ≠ f ∨ r ≠ q) → (t.func g).queue r = (s.func g).queue r

/-- A launch holds what a host record asks for (Table 14.1). -/
def AsksFor (l : Launch) (r : LineData) : Prop :=
  l.tenant = lineField r 4 2 ∧ l.il = lineField r 3 1 ∧ l.prio = lineField r 2 1 ∧ l.image = w64 (lineField r 8 8)
    ∧ l.args = w64 (lineField r 0x10 8) ∧ l.threads = lineField r 0x18 6 ∧ l.cords = lineField r 0x20 4 ∧ l.thresh = lineField r 0x24 4
    ∧ l.peak = lineField r 6 2 ∧ l.seq = lineField r 0x34 4 ∧ l.preload = w64 (lineField r 0x28 8) ∧ l.npreload = lineField r 0x30 2
    ∧ l.deps = (((List.range 4).map (depField r)).filter (·.getLsbD 35)).map (fun d => .seq (fld d 32 3) (fld d 0 32))
    ∧ l.state = .accepted ∧ l.placedCords = 0 ∧ l.counters = []

/-- What the checks of R376 that precede acceptance answer for a record of the right version whose fields are in range. -/
def statusAsTold (s : State) (f q : Nat) (r : LineData) (status : Nat) : Prop :=
  match s.tenant? (lineField r 4 2) with
  | none => status = 4
  | some t =>
    if t.func ≠ f ∨ fld ((s.func f).queue q).qcfg 16 16 ≠ lineField r 4 2 then status = 4
    else if 4096 ≤ s.pendingOf f q ∨ s.launchId? = none then status = 7
    else if (fld (s.part t.part).req 0 16 = 0 ∨ (s.part t.part).ports = []) ∨ t.pool = none then status = 9
    else status = 0

/-- What a kernel image holds once every check of R223 to R226 has passed. -/
structure ImageOk (bs : List Byte) (im : Image) : Prop where
  whole : 128 ≤ bs.length ∧ im.length = bs.length ∧ numAt bs 0x5C 4 = bs.length
  magic : numAt bs 0 4 = 0x4E4B5051
  crc : numAt bs 0x60 4 = (crc32c (bs.take 0x60 ++ List.replicate 4 0 ++ bs.drop 0x64)).toNat
  level : numAt bs 4 1 = if im.level3 then 3 else 2
  width : im.width = 16 ∨ im.width = 32 ∨ im.width = 64
  crew : 1 ≤ im.crew ∧ im.crew ≤ 32
  cord : 1 ≤ im.cord ∧ im.cord ≤ 16
  regs : 1 ≤ im.regs ∧ im.regs ≤ 256
  integ : im.integ ≤ 3
  rings : im.rings.length ≤ 8 ∧ ∀ k ∈ im.rings, 1 ≤ k ∧ k ≤ 8
  scratch : im.scratch ≤ 262144
  code : im.code % 8 = 0 ∧ im.code + im.codeLen ≤ im.length
  groups : im.groups.length = im.crew ∧ ∀ g ∈ im.groups, g.1 ∈ im.safe.map (·.1)
  safe : ∀ e ∈ im.safe, e.1 ∈ im.headers ∧ bitCount e.2.1 ≤ 16 ∧ bitCount e.2.2 ≤ 16 ∧ e.2.2.getLsbD 0 = false
  headers : ∀ h ∈ im.headers, h % 8 = 0 ∧ h < im.codeLen
    ∧ let x := Header.ofWord (w64 (numAt bs (im.code + h) 8))
      x.sig = levelSig im.level3 ∧ x.eng ≤ 5 ∧ 1 ≤ x.count ∧ x.count ≤ 16 ∧ (x.billet = true ↔ h ∈ im.safe.map (·.1))

/-! Translation (06). -/

/-- A walker's upper-level cache holds an entry of a table (R158). -/
def Knows (up : Upper) (tenant stage entry : Nat) (pte : W64) : Prop :=
  ∃ e, up.find? (fun e => e.1 = tenant && e.2.1 = stage && e.2.2.1 = entry) = some e ∧ e.2.2.2 = pte

/-- An entry that leads to the next table: V = 1, LEAF = 0, well formed (R148, R149). -/
def Leads (pte : W64) (level idx : Nat) : Prop := pte.getLsbD 0 = true ∧ pte.getLsbD 1 = false ∧ malformed pte level idx false = false

/-- Which late framings of a partition end with that of job `j`: those of its page. -/
def ofPage (l : Leaf) (j : LateJob) : Bool := l.base / 128 ≤ j.line && j.line < (l.base + l.size) / 128

/-! Coherence (03). -/

/-- The events that reach a home slice from outside a core's own accesses, with their codes (Table 3.1). -/
def sliceInstrs (a : SliceAccess) : List (Instr × Nat) :=
  [(.rd a, 0), (.rdx a, 1), (.upg a, 2), (.wb a, 3), (.evc a, 4), (.rds a, 5), (.wrs a, 6), (.atx a, 7), (.atr a, 8), (.xrd a, 9)
  , (.xwr a, 10), (.snp a, 11)]

/-- The requester may reach the slice: a peer needs a link that is Up and bound to the partition, whose XCONN holds the link's port, and an
address of local memory or the unbacked aperture (R22). -/
def mayReach (s : State) (a : SliceAccess) : Prop :=
  ∀ l, a.who = .peer l → (s.link l).state = 2 ∧ (s.link l).bound = a.part ∧ (s.part a.part).req.getLsbD (17 + l) = true
    ∧ (s.region a.part (a.line * 128) = .local ∨ s.region a.part (a.line * 128) = .unbacked)

/-- A line of the L2, backed, that no L1 and no peer is recorded for. -/
structure HeldAlone (s : State) (a : SliceAccess) (l : L2Line) : Prop where
  held : Tbl.find? s.caches.l2 (lineKey a.part a.line a.view) = some l
  name : l.part = a.part ∧ l.line = a.line ∧ l.view = a.view
  alone : l.sharers = 0 ∧ l.owner = 31
  backed : l.unb = none
  sound : notLost s a.part (a.line * 128)
  once : (s.caches.l2.map (·.1)).Nodup

/-- SHARERS and OWNER after a transition of a line that nobody held (R74 step 7). -/
def sharersAfter (t : Trans) (who : Requester) : BitVec 20 :=
  if (t.addsh = true ∨ t.setown = true) ∧ requesterBit who < 20 then BitVec.twoPow 20 (requesterBit who) else 0
def ownerAfter (t : Trans) (who : Requester) : Nat := if t.setown && !t.clrown then requesterBit who else 31

/-! Placement (14 R381 to R386; 07 R198). -/

/-- Handles of crews and groups that will be made are free (the seeds rise). -/
def State.freshSeed (s : State) : Prop := (∀ e ∈ s.crews, e.1 < s.seed) ∧ ∀ e ∈ s.groups, e.1 < s.seed

/-- A group as its first instruction finds it (R169, R172, R213): its one split starts at its entry with the lanes below the thread count. -/
structure Started (g : Group) (l : Launch) (lid : Nat) (im : Image) (crew cord crewid n : Nat) : Prop where
  place : g.launch = lid ∧ g.cord = cord ∧ g.crew = crew ∧ g.grpid = n ∧ g.width = im.width ∧ g.regs = im.regs
  role : g.role = (im.groups.getD n (0, .general)).2
  zero : g.vregs = [] ∧ g.vseed = [] ∧ g.preds = [] ∧ g.exited = 0 ∧ g.gang = 0 ∧ g.skew = 0 ∧ g.sticky = 0
  split : ∃ sp, g.splits = [(0, sp)] ∧ sp.pc = l.image + w64 (im.code + (im.groups.getD n (0, .general)).1) ∧ sp.fmt = im.fmt0
    ∧ (∀ k, sp.s k = if k = 1 then l.image else if k = 2 then l.args else 0) ∧ (∀ k, sp.trec k = 0) ∧ sp.stack = [] ∧ sp.trap = none
    ∧ sp.wait = .none ∧ sp.clause = none ∧ sp.rep = none ∧ sp.mprog = 0 ∧ sp.repcnt = 0 ∧ sp.latch = none
    ∧ ∀ i, i < 64 → (sp.mask.getLsbD i = true ↔ i < im.width ∧ ((cord * im.cord + crewid) * im.crew + n) * im.width + i < l.threads)

/-! Errors of outbound accesses (15 R391 to R394). -/

/-- A record of this kind, for this address, has been added to the error log. -/
def Logged (s t : State) (kind unit tenant index addr part : Nat) : Prop :=
  Tbl.find? t.dev.errlog (s.dev.errcnt % 64) = some
    { kind := w64 (kind + unit * 256 + tenant * 65536 + index * 2 ^ 32), addr := w64 addr, time := w64 s.cycle, part := part }

/-! Checked execution and the mailboxes (16; 17). -/

/-- The oldest act of a pair's gate is that of a running split of an IL2 or IL3 launch. -/
structure Oldest (s : State) (pair : Nat) (e : GateEntry) (rest : List GateEntry) (c : Ctx) : Prop where
  gate : (s.pair pair).gate = e :: rest
  ctx : s.ctxOf e.split = some c
  here : pairOf c.crew.core = pair
  plain : (s.pair pair).inject = none
  acts : e.kind ≠ 0
  ids : c.g.grpid < 32 ∧ e.split.split < 4

/-- The fields of MMSTAT after a mismatch (Table 16.7). -/
def MismatchRecorded (t : State) (pair : Nat) (c : Ctx) (r : SplitRef) (pc : W64) (kind lane : Nat) (lead trail : W64) : Prop :=
  let p := t.pair pair
  fld p.mmstat 0 4 = kind ∧ p.mmstat.getLsbD 4 = true ∧ fld p.mmstat 6 3 = c.crew.core % 8 ∧ fld p.mmstat 9 5 = c.g.grpid % 32
    ∧ fld p.mmstat 14 2 = r.split % 4 ∧ fld p.mmstat 16 6 = lane % 64 ∧ fld p.mmstat 32 16 = c.g.launch % 65536
    ∧ fld p.mmstat 48 16 = c.launch.tenant % 65536 ∧ p.mmpc = pc ∧ p.mmlead = lead ∧ p.mmtrail = trail

/-- A command of the Collier's mailbox has completed: STATUS, GO = 0, and the error interrupt if STATUS is not 0 (R425). -/
def MbDone (s t : State) (status : Nat) : Prop :=
  t.dev.mbgo = false ∧ fld t.dev.mbcmd 0xC0 32 = status ∧ fld t.dev.mbcmd 0 0xC0 = fld s.dev.mbcmd 0 0xC0
    ∧ (status ≠ 0 → (t.func 0).intstat.getLsbD 22 = true)

/-- It has been refused: nothing else but the error interrupt has changed. -/
def MbRefused (s t : State) (status : Nat) : Prop :=
  MbDone s t status ∧ t = { s with dev := { s.dev with mbcmd := t.dev.mbcmd, mbgo := false, funcs := t.dev.funcs, msix := t.dev.msix } }

/-- A command of the control core's mailbox has completed, with STATUS at byte `off` of its block (R431). -/
def CcDone (t : State) (off status : Nat) : Prop :=
  t.dev.ccgo = false ∧ fld t.dev.cccmd (8 * off) 32 = status ∧ (status ≠ 0 → (t.func 0).intstat.getLsbD 22 = true)

/-- It has been refused: nothing else but the error interrupt has changed. -/
def CcRefused (s t : State) (off status : Nat) : Prop :=
  CcDone t off status ∧ t = { s with dev := { s.dev with cccmd := t.dev.cccmd, ccgo := false, funcs := t.dev.funcs, msix := t.dev.msix } }

end Sys2Proof.Machine
end

