-- ==== Sys2Proof/Certificates/Slice0/Obligations.lean ====
section
/-! DEFINITION. The statements for the provers: what the instructions, the events and the machine do, in the words of Safety.lean. -/

open Sys2Proof Sys2Proof.Machine

/-- R253, R255, R263: the scalar arithmetic of Table 10.1, and slea. Exact results, wrapped to the width of TY and extended.

R260 to R262, R264: moves, select, bit operations and bit fields on scalars.

R259, R267: scmp writes its predicate in every lane of the mask; vote reads a predicate in the active lanes. -/
def Obligations.ScalarResults : Prop :=
  (∀ (f : RF) (s : State) (c : Ctx), s.ctx? = some c → c.any f.g = true → scalarTy f.ty = true →
      let a := scalarIn f.ty (c.sp.s f.sa.toNat)
      let b := scalarIn f.ty (c.sB f)
      let gives (i : Instr) (x : Int) : Prop :=
        ∃ t, exec i s = .next t ∧ ScalarWritten s t c f.dst (scalarOut f.ty x) ∧ FlagsKept s t c
      gives (.sadd f) (a + b) ∧ gives (.ssub f) (a - b) ∧ gives (.smul f) (a * b)
        ∧ gives (.smulh f) (a * b / 2 ^ tyW f.ty) ∧ gives (.smin f) (min a b) ∧ gives (.smax f) (max a b)
        ∧ gives (.sand f) (c.sp.s f.sa.toNat &&& c.sB f).toNat ∧ gives (.sor f) (c.sp.s f.sa.toNat ||| c.sB f).toNat
        ∧ gives (.sxor f) (c.sp.s f.sa.toNat ^^^ c.sB f).toNat
        ∧ gives (.sshl f) (a * 2 ^ (b % tyW f.ty).toNat) ∧ gives (.sshr f) (a / 2 ^ (b % tyW f.ty).toNat)
        ∧ gives (.slea f) (a + b * 2 ^ (f.sc.toNat % 8)))
  ∧
  (∀ (f : RF) (m : IF) (s : State) (c : Ctx) (l : Nat), s.ctx? = some c → c.any f.g = true → c.any m.g = true →
      scalarTy f.ty = true → scalarTy m.ty = true → lowLane c.sp.mask = some l →
      let a := c.sp.s f.sa.toNat
      let gives (i : Instr) (dst : BitVec 8) (v : W64) : Prop :=
        ∃ t, exec i s = .next t ∧ ScalarWritten s t c dst v ∧ FlagsKept s t c
      gives (.smov f) f.dst (scalarOut f.ty (scalarIn f.ty a))
        ∧ gives (.smovi m) m.dst (if m.ty = 0 ∨ m.ty = 4 then m.imm.signExtend 64 else m.imm.setWidth 64)
        ∧ gives (.smovhi m) m.dst (m.imm ++ (c.sp.s m.dst.toNat).setWidth 32)
        ∧ gives (.ssel f) f.dst
            (scalarOut f.ty (scalarIn f.ty (if (c.g.pred f.sc.toNat).getLsbD l then a else c.sp.s f.sb.toNat)))
        ∧ (∃ v : Nat, BitResult (f.m 0 2) (tyW f.ty) (a.toNat % 2 ^ tyW f.ty) v ∧ gives (.sbit f) f.dst (scalarOut f.ty v))
        ∧ (1 ≤ f.sc.toNat → f.sb.toNat + f.sc.toNat ≤ tyW f.ty →
            gives (.sbfx f) f.dst (scalarOut f.ty (asInt f.sc.toNat (f.m 0 1 = 1) (a.toNat / 2 ^ f.sb.toNat % 2 ^ f.sc.toNat)))))
  ∧
  (∀ (f : RF) (s : State) (c : Ctx), s.ctx? = some c → c.any f.g = true →
      let act := c.active f.g
      let hold := act &&& c.g.pred f.sa.toNat
      let votes (k : Nat) (v : W64) : Prop :=
        f.m 0 2 = k → ∃ t, exec (.vote f) s = .next t ∧ ScalarWritten s t c f.dst v ∧ FlagsKept s t c
      (scalarTy f.ty = true → f.sc.toNat ≤ 5 → ∃ t, exec (.scmp f) s = .next t ∧ FlagsKept s t c
        ∧ PredWritten s t c c.sp.mask f.dst
            fun _ => intHolds f.sc.toNat (scalarIn f.ty (c.sp.s f.sa.toNat)) (scalarIn f.ty (c.sB f)))
        ∧ votes 0 (if hold = 0 then 0 else 1) ∧ votes 1 (if hold = act then 1 else 0)
        ∧ votes 2 hold ∧ votes 3 (w64 ((List.range 64).filter fun l => hold.getLsbD l).length))

/-- R256, R258: sdiv and srem, with STICKY and the division counter; they never trap.

R256, R258: vdiv and vrem decide each lane alone; only active lanes set STICKY and count, one event each. -/
def Obligations.IntegerDivisionResults : Prop :=
  (∀ (f : RF) (s : State) (c : Ctx), s.ctx? = some c → c.any f.g = true → scalarTy f.ty = true →
      let a := scalarIn f.ty (c.sp.s f.sa.toNat)
      let b := scalarIn f.ty (c.sB f)
      let gives (i : Instr) (x : Int) : Prop :=
        ∃ t, exec i s = .next t ∧ ScalarWritten s t c f.dst (scalarOut f.ty x)
          ∧ t.stickyAt c.r.group = s.stickyAt c.r.group ||| divSticky f.ty a b
          ∧ t.counterAt c.g.launch divCounter =
              (if divSticky f.ty a b = 0 then s.counterAt c.g.launch divCounter else sat32 (s.counterAt c.g.launch divCounter))
          ∧ ∀ i, i ≠ divCounter → t.counterAt c.g.launch i = s.counterAt c.g.launch i
      gives (.sdiv f) (quotient a b) ∧ gives (.srem f) (remainder a b))
  ∧
  (∀ (f : RF) (s : State) (c : Ctx), s.ctx? = some c → c.any f.g = true → scalarTy f.ty = true →
      let n := intSpan f.ty
      let a (l : Nat) : Int := elemIn f.ty (c.va f n l) 0
      let b (l : Nat) : Int := elemIn f.ty (c.vb f n l) 0
      let mark (l : Nat) : W64 := divSticky f.ty (a l) (b l)
      let act := lanesOf (c.active f.g)
      let gives (i : Instr) (op : Int → Int → Int) : Prop :=
        ∃ t, exec i s = .next t
          ∧ LanesWritten s t c (c.vactive f.g) f.dst n (fun l v => ElemIs f.ty v 0 (op (a l) (b l)))
          ∧ t.stickyAt c.r.group = act.foldl (fun m l => m ||| mark l) (s.stickyAt c.r.group)
          ∧ t.counterAt c.g.launch divCounter = (act.filter fun l => mark l != 0).foldl (fun n _ => sat32 n) (s.counterAt c.g.launch divCounter)
          ∧ ∀ i, i ≠ divCounter → t.counterAt c.g.launch i = s.counterAt c.g.launch i
      gives (.vdiv f) quotient ∧ gives (.vrem f) remainder)

/-- R214, R265: every row of Table 8.9 as srd reads it. WSREF and UNBFREE read what R52 and R97 define. -/
def Obligations.SpecialRegisterReads : Prop :=
  ∀ (f : RF) (s : State) (c : Ctx), s.ctx? = some c → c.any f.g = true →
    let reads (i : Nat) (v : W64) : Prop :=
      f.sa.toNat = i → ∃ t, exec (.srd f) s = .next t ∧ ScalarWritten s t c f.dst v ∧ FlagsKept s t c
    let lanes (i : Nat) (v : Nat → Nat) : Prop :=
      f.sa.toNat = i → ∃ t, exec (.srd f) s = .next t ∧ LanesWritten s t c (c.active f.g) f.dst 1 (fun l x => x = v l)
        ∧ FlagsKept s t c
    lanes 0 (fun l => l) ∧ lanes 1 (fun l => l / 4) ∧ reads 2 (w64 c.g.grpid) ∧ reads 3 (w64 c.r.split)
      ∧ reads 4 (w64 c.crew.crewid) ∧ reads 5 (w64 c.g.cord) ∧ reads 6 (w64 (c.g.launch % 65536)) ∧ reads 7 (w64 c.crew.core)
      ∧ reads 8 (w64 (c.crew.core / 8)) ∧ reads 9 (w64 c.g.width) ∧ reads 0xA c.sp.fmt ∧ reads 0xB c.g.gang ∧ reads 0xC c.g.skew
      ∧ reads 0xD (w64 s.cycle) ∧ reads 0xE (w64 (s.wsref c.part)) ∧ reads 0xF (w64 (s.unbfree c.part)) ∧ reads 0x10 (w64 c.launch.il)
      ∧ reads 0x11 (s.stickyAt c.r.group) ∧ reads 0x12 c.sp.trapCause ∧ reads 0x13 c.sp.trapPc ∧ reads 0x14 c.sp.trapMask
      ∧ reads 0x15 c.sp.trapAddr ∧ reads 0x16 (w64 c.sp.repcnt) ∧ reads 0x17 (w64 c.sp.mprog)

/-- R215, R239, R265: what swr writes, register by register, and that nothing else changes.

R215, R363: an swr to TRAPPC, TRAPMASK, REPCNT or MPROG outside trap level raises PRIV, whatever its guard.

R266: sfmt and its three field forms change FMT and nothing else. -/
def Obligations.SpecialRegisterWrites : Prop :=
  (∀ (f : RF) (s : State) (c : Ctx), s.ctx? = some c → c.any f.g = true →
      let v := c.sp.s f.sa.toNat
      let split (i : Nat) (k : Split → Split) : Prop :=
        f.dst.toNat = i → exec (.swr f) s = .next ((s.updSplit c.r k).retire c.r)
      let group (i : Nat) (k : Group → Group) : Prop :=
        f.dst.toNat = i → exec (.swr f) s = .next ((s.updGroup c.r.group k).retire c.r)
      split 0xA (fun sp => { sp with fmt := v &&& 0x3FFFFFFF#64 }) ∧ group 0xB (fun g => { g with gang := v &&& 0x1FFFFFFFF#64 })
        ∧ group 0xC (fun g => { g with skew := v &&& 0xFFF3FF80#64 }) ∧ group 0x11 (fun g => { g with sticky := g.sticky &&& ~~~v })
        ∧ (c.sp.trap.isSome = true →
            split 0x13 (fun sp => { sp with trapPc := v }) ∧ split 0x14 (fun sp => { sp with trapMask := v })
              ∧ split 0x16 (fun sp => { sp with repcnt := v.toNat % 64 }) ∧ split 0x17 (fun sp => { sp with mprog := v.toNat % 65536 })))
  ∧
  (∀ (f : RF) (s : State) (c : Ctx), s.ctx? = some c → c.sp.trap = none →
      f.dst.toNat = 0x13 ∨ f.dst.toNat = 0x14 ∨ f.dst.toNat = 0x16 ∨ f.dst.toNat = 0x17 →
      exec (.swr f) s = .next (raise s c 3 c.sp.mask))
  ∧
  (∀ (f : RF) (s : State) (c : Ctx), s.ctx? = some c → c.any f.g = true →
      let fmt (i : Instr) (k : W64 → W64) : Prop :=
        exec i s = .next ((s.updSplit c.r fun sp => { sp with fmt := k sp.fmt }).retire c.r)
      fmt (.sfmt f) (fun _ => c.sp.s f.sa.toNat &&& 0x3FFFFFFF#64)
        ∧ (∃ k, fmt (.sfmtRnd f) k ∧ ∀ x, fld (k x) 24 2 = f.m 4 2 ∧ k x &&& ~~~0x3000000#64 = x &&& ~~~0x3000000#64)
        ∧ (∃ k, fmt (.sfmtSat f) k ∧ ∀ x, fld (k x) 26 1 = f.m 4 1 ∧ k x &&& ~~~0x4000000#64 = x &&& ~~~0x4000000#64)
        ∧ (∃ k, fmt (.sfmtAtb f) k ∧ ∀ x, fld (k x) 29 1 = f.m 4 1 ∧ k x &&& ~~~0x20000000#64 = x &&& ~~~0x20000000#64)
        ∧ (∃ k, fmt (.atbind f) k ∧ ∀ x, fld (k x) 29 1 = f.m 0 1 ∧ k x &&& ~~~0x20000000#64 = x &&& ~~~0x20000000#64))

/-- R207: an instruction whose guard holds in no lane of the split only retires. -/
def Obligations.GuardedOffOnlyRetires : Prop :=
  ∀ (f : RF) (m : IF) (s : State) (c : Ctx), s.ctx? = some c → c.any f.g = false → c.any m.g = false →
    (∀ i ∈ [Instr.sadd f, .ssub f, .smul f, .smulh f, .sdiv f, .srem f, .sand f, .sor f, .sxor f, .sshl f, .sshr f, .smin f, .smax f
            , .scmp f, .smov f, .smovi m, .smovhi m, .slea f, .ssel f, .sbit f, .sbfx f, .srd f, .sfmt f, .sfmtRnd f, .sfmtSat f
            , .sfmtAtb f, .vote f, .vadd f, .vsub f, .vmul f, .vmulh f, .vmad f, .vdiv f, .vrem f, .vmin f, .vmax f, .vabs f, .vneg f
            , .vand f, .vor f, .vxor f, .vnot f, .vshl f, .vshr f, .vrot f, .vbfx f, .vbit f, .vcmp f, .vsel f, .vmov f, .vmovi m
            , .vlea f, .fadd f, .fsub f, .fmul f, .ffma f, .fmin f, .fmax f, .fabs f, .fneg f, .fcmp f, .fclass f, .fdiv f, .fsqrt f
            , .frcp f, .frsq f, .fexp2 f, .flog2 f, .fsin f, .fcos f, .ftanh f, .fdot2 f, .cvt f, .pack f, .unpk f, .fscl f, .fround f
            , .fact f, .qswz f, .qbcast f, .lxchg f, .lshfl f, .lrot f, .lscan f, .lred f, .lidx f, .qhelp f, .atload f, .atbind f
            , .trap m, .brk m, .fpcnt f, .fpcntClr f, .fpcntClrall f, .yield f, .syncEng f, .syncErr f, .syncCode f, .rget f, .rput f
            , .pause m, .gset f, .gget f, .gstop f, .launch f, .exit f, .cpt f, .cptw f], exec i s = .next (s.retire c.r))
      ∧ (c.sp.trap.isSome = true → exec (.swr f) s = .next (s.retire c.r) ∧ exec (.tret f) s = .next (s.retire c.r))

/-- R254, R255, R263: the vector arithmetic of Table 10.1 without SAT, element by element in the active and helper lanes.

R255: the bitwise operations and the rotation of Table 10.1, bit by bit.

R257: with MOD[0] the exact result is clamped to the range of the type, and STICKY.SAT records a clamp in an active lane.

R259 to R264: compare, select, bit operations, bit fields, moves and addresses per lane. -/
def Obligations.VectorIntegerResults : Prop :=
  (∀ (f : RF) (s : State) (c : Ctx), s.ctx? = some c → c.any f.g = true → f.m 0 1 = 0 →
      let n := intSpan f.ty
      let gives (i : Instr) (op : Int → Int → Int → Int) : Prop :=
        ∃ t, exec i s = .next t ∧ FlagsKept s t c ∧ LanesWritten s t c (c.vactive f.g) f.dst n fun l v =>
          ∀ k, k < tyCount f.ty → ElemIs f.ty v k (op (elemIn f.ty (c.va f n l) k) (elemIn f.ty (c.vb f n l) k) (elemIn f.ty (c.vc f n l) k))
      let w := tyW f.ty
      gives (.vadd f) (fun a b _ => a + b) ∧ gives (.vsub f) (fun a b _ => a - b) ∧ gives (.vmul f) (fun a b _ => a * b)
        ∧ gives (.vmulh f) (fun a b _ => a * b / 2 ^ w) ∧ gives (.vmad f) (fun a b c => a * b + c)
        ∧ gives (.vmin f) (fun a b _ => min a b) ∧ gives (.vmax f) (fun a b _ => max a b) ∧ gives (.vabs f) (fun a _ _ => a.natAbs)
        ∧ gives (.vneg f) (fun a _ _ => -a) ∧ gives (.vshl f) (fun a b _ => a * 2 ^ (b % w).toNat)
        ∧ gives (.vshr f) (fun a b _ => a / 2 ^ (b % w).toNat))
  ∧
  (∀ (f : RF) (s : State) (c : Ctx), s.ctx? = some c → c.any f.g = true →
      let n := intSpan f.ty
      let w := tyW f.ty
      let bit (x k i : Nat) : Bool := x.testBit (w * k + i)
      let gives (i : Instr) (op : Nat → Nat → Nat → Nat → Bool) : Prop :=
        ∃ t, exec i s = .next t ∧ FlagsKept s t c ∧ LanesWritten s t c (c.vactive f.g) f.dst n fun l v =>
          ∀ k j, k < tyCount f.ty → j < w → bit v k j = op (c.va f n l) (c.vb f n l) k j
      gives (.vand f) (fun a b k j => bit a k j && bit b k j) ∧ gives (.vor f) (fun a b k j => bit a k j || bit b k j)
        ∧ gives (.vxor f) (fun a b k j => bit a k j != bit b k j) ∧ gives (.vnot f) (fun a _ k j => !bit a k j)
        ∧ gives (.vrot f) (fun a b k j => bit a k ((j + w - bits b (w * k) w % w) % w)))
  ∧
  (∀ (f : RF) (s : State) (c : Ctx), s.ctx? = some c → c.any f.g = true → f.m 0 1 = 1 →
      let n := intSpan f.ty
      let gives (i : Instr) (op : Int → Int → Int → Int) : Prop :=
        let x (l k : Nat) : Int := op (elemIn f.ty (c.va f n l) k) (elemIn f.ty (c.vb f n l) k) (elemIn f.ty (c.vc f n l) k)
        ∃ t, exec i s = .next t
          ∧ LanesWritten s t c (c.vactive f.g) f.dst n (fun l v => ∀ k, k < tyCount f.ty → ElemIs f.ty v k (clamped f.ty (x l k)))
          ∧ ((∃ l k, l < 64 ∧ (c.active f.g).getLsbD l = true ∧ k < tyCount f.ty ∧ clips f.ty (x l k) = true) →
              t.stickyAt c.r.group = s.stickyAt c.r.group ||| 4#64)
          ∧ ((∀ l k, l < 64 → (c.active f.g).getLsbD l = true → k < tyCount f.ty → clips f.ty (x l k) = false) →
              t.stickyAt c.r.group = s.stickyAt c.r.group)
          ∧ ∀ i, t.counterAt c.g.launch i = s.counterAt c.g.launch i
      gives (.vadd f) (fun a b _ => a + b) ∧ gives (.vsub f) (fun a b _ => a - b) ∧ gives (.vmad f) (fun a b c => a * b + c)
        ∧ gives (.vabs f) (fun a _ _ => a.natAbs) ∧ gives (.vneg f) (fun a _ _ => -a))
  ∧
  (∀ (f : RF) (m : IF) (s : State) (c : Ctx), s.ctx? = some c → c.any f.g = true → c.any m.g = true → scalarTy f.ty = true →
      let n := intSpan f.ty
      let w := tyW f.ty
      let gives (i : Instr) (q : Guard) (dst : BitVec 8) (n : Nat) (val : Nat → Nat → Prop) : Prop :=
        ∃ t, exec i s = .next t ∧ FlagsKept s t c ∧ LanesWritten s t c (c.vactive q) dst n val
      (f.m 0 4 ≤ 5 → ∃ t, exec (.vcmp f) s = .next t ∧ FlagsKept s t c ∧ PredWritten s t c (c.vactive f.g) f.dst
          fun l => intHolds (f.m 0 4) (elemIn f.ty (c.va f n l) 0) (elemIn f.ty (c.vb f n l) 0))
        ∧ gives (.vsel f) f.g f.dst n (fun l v => v = if (c.g.pred f.sc.toNat).getLsbD l then c.va f n l else c.vb f n l)
        ∧ gives (.vbit f) f.g f.dst n (fun l v => BitResult (f.m 0 2) w (c.va f n l) v)
        ∧ (1 ≤ f.sc.toNat → f.sb.toNat + f.sc.toNat ≤ w → gives (.vbfx f) f.g f.dst n fun l v =>
            ElemIs f.ty v 0 (asInt f.sc.toNat (f.m 0 1 = 1) (c.va f n l / 2 ^ f.sb.toNat % 2 ^ f.sc.toNat)))
        ∧ gives (.vmov f) f.g f.dst n (fun l v => v = if f.sbs then c.sp.num f.sb.toNat n else c.va f n l)
        ∧ gives (.vmovi m) m.g m.dst 1 (fun _ v => v = m.imm.toNat)
        ∧ gives (.vlea f) f.g f.dst n (fun l v => (v : Int) = (c.va f n l + 2 ^ f.m 0 3 *
            (if f.sbs then (c.sp.num f.sb.toNat n : Int) else if n = 2 then (c.g.v f.sb.toNat l).toInt else (c.g.v f.sb.toNat l).toNat)) % 2 ^ w))

/-- R276, R277: the arithmetic of Table 10.5 completes in every lane, element by element, with each element's events. -/
def Obligations.FloatArithmeticResults : Prop :=
  ∀ (f : RF) (s : State) (c : Ctx), s.ctx? = some c → c.any f.g = true → unshadowed s c = true →
    let n := floatSpan f.ty
    let t := tyFmt f.ty
    let r := c.sp.rnd
    let gives (i : Instr) (op : Nat → Nat → Nat → Elem) : Prop :=
      LanesGive s c f.g (c.vactive f.g) i f.dst n fun l => mapElems t.width (tyFCount f.ty) op (c.va f n l) (c.vb f n l) (c.vc f n l)
    let num (x : Nat) : FVal := t.decode x
    let rounds (v : FVal) (ins : List FVal) : Elem := t.round v r false (ins.any (·.isNan)) (ins.any (·.isInf))
    gives (.fadd f) (fun a b _ => rounds ((num a).add (num b) r) [num a, num b])
      ∧ gives (.fsub f) (fun a b _ => rounds ((num a).add (num b).neg r) [num a, num b])
      ∧ gives (.fmul f) (fun a b _ => rounds ((num a).mul (num b)) [num a, num b])
      ∧ gives (.ffma f) (fun a b d => rounds (((num a).mul (num b)).add (num d) r) [num a, num b, num d])
      ∧ gives (.fdiv f) (fun a b _ => fDivVal t r (num a) (num b)) ∧ gives (.frcp f) (fun a _ _ => fDivVal t r (.fin false 1 0) (num a))
      ∧ gives (.fsqrt f) (fun a _ _ => fSqrtElem t r a) ∧ gives (.fmin f) (fun a b _ => fMinMaxElem t false a b)
      ∧ gives (.fmax f) (fun a b _ => fMinMaxElem t true a b) ∧ gives (.fabs f) (fun a _ _ => { val := a % 2 ^ (t.width - 1) })
      ∧ gives (.fneg f) (fun a _ _ => { val := a.xor (2 ^ (t.width - 1)) })
      ∧ gives (.frsq f) (fun a _ _ => fRsqElem t a) ∧ gives (.fexp2 f) (fun a _ _ => fExp2Elem t a)
      ∧ gives (.flog2 f) (fun a _ _ => fLog2Elem t a) ∧ gives (.fsin f) (fun a _ _ => fSinElem t a)
      ∧ gives (.fcos f) (fun a _ _ => fCosElem t a) ∧ gives (.ftanh f) (fun a _ _ => fTanhElem t a)
      ∧ LanesGive s c f.g (c.vactive f.g) (.fdot2 f) f.dst 1
          (fun l => fDot2Elem t r (c.va f 1 l) (c.vb f 1 l) (c.vc f 1 l))

/-- R235: the code that rounding starts from is the greatest one at or below the value in magnitude, the inexact bit says whether
the value lies above it, and the comparison with one half is exact; so each mode of Table 9.4 chooses between the two neighbours.

R228, R232, R235: a value that the format holds is delivered as it is, whatever the mode, and nothing is counted. -/
def Obligations.RoundingIsExact : Prop :=
  (∀ f ∈ floatFormats, ∀ (n d : Nat) (e : Int), 0 < n → 0 < d →
      let x : Rat := (n : Rat) / d * (2 : Rat) ^ e
      let r := f.floorCode n d e
      f.codeValue r.1 ≤ x ∧ x < f.codeValue (r.1 + 1) ∧ (r.2.1 = true ↔ f.codeValue r.1 < x)
        ∧ (r.2.2 = .lt ↔ 2 * x < f.codeValue r.1 + f.codeValue (r.1 + 1)) ∧ (r.2.2 = .eq ↔ 2 * x = f.codeValue r.1 + f.codeValue (r.1 + 1)))
  ∧
  (∀ f ∈ floatFormats, ∀ (x rnd : Nat) (sat : Bool), x < 2 ^ f.width → (f.decode x).isNan = false →
      f.round (f.decode x) rnd sat false (f.decode x).isInf = { val := x })

/-- R278, Table 10.7, R280: fmin and fmax deliver one of their inputs and order -0 below +0; the conditions of fcmp; fclass sets
exactly one bit.

Table 10.6: the special values of the functions, in every format. -/
def Obligations.FloatSpecialCases : Prop :=
  (∀ f ∈ floatFormats, ∀ a b : Nat,
      let x := f.decode a
      let y := f.decode b
      let mn := fMinMaxElem f false a b
      let mx := fMinMaxElem f true a b
      (x.isNan = true → y.isNan = true → mn = { val := f.nan } ∧ mx = { val := f.nan })
        ∧ (x.isNan = true → y.isNan = false → mn = { val := b } ∧ mx = { val := b })
        ∧ (x.isNan = false → y.isNan = true → mn = { val := a } ∧ mx = { val := a })
        ∧ (x.isNan = false → y.isNan = false → (mn = { val := a } ∧ mx = { val := b }) ∨ (mn = { val := b } ∧ mx = { val := a }))
        ∧ fMinMaxElem f false 0 (2 ^ (f.width - 1)) = { val := 2 ^ (f.width - 1) } ∧ fMinMaxElem f true 0 (2 ^ (f.width - 1)) = { val := 0 }
        ∧ (fCmpBit f 7 a b = (x.isNan || y.isNan)) ∧ (fCmpBit f 6 a b = !(x.isNan || y.isNan))
        ∧ (fCmpBit f 1 a b = !fCmpBit f 0 a b) ∧ (fCmpBit f 3 a b = (fCmpBit f 2 a b || fCmpBit f 0 a b))
        ∧ (fCmpBit f 5 a b = (fCmpBit f 4 a b || fCmpBit f 0 a b)) ∧ (fCmpBit f 4 a b = fCmpBit f 2 b a)
        ∧ fCmpBit f 0 0 (2 ^ (f.width - 1)) = true ∧ (∃ k, k < 10 ∧ fClassOf f a = 2 ^ k)
        ∧ (fCmpBit f 2 a b = true → mn = { val := a } ∧ mx = { val := b }) ∧ (fCmpBit f 2 b a = true → mn = { val := b } ∧ mx = { val := a })
        ∧ (∀ n m e n' m' e', x = .fin n m e → y = .fin n' m' e' →
            let v : Rat := (if n then -(m : Rat) else m) * (2 : Rat) ^ e
            let w : Rat := (if n' then -(m' : Rat) else m') * (2 : Rat) ^ e'
            (fCmpBit f 0 a b = true ↔ v = w) ∧ (fCmpBit f 2 a b = true ↔ v < w))
        ∧ (y.isNan = false → y ≠ x → (x = .inf true → fCmpBit f 2 a b = true) ∧ (x = .inf false → fCmpBit f 4 a b = true)))
  ∧
  (∀ f ∈ floatFormats, ∀ rnd : Nat,
      let pz := 0
      let nz := 2 ^ (f.width - 1)
      let pinf := f.inf false
      let ninf := f.inf true
      let one := (f.round (.fin false 1 0) 0 false false false).val
      let mone := (f.round (.fin true 1 0) 0 false false false).val
      let row (op : Nat → Elem) (a b c d : Nat) : Prop :=
        (op pz).val = a ∧ (op nz).val = b ∧ (op pinf).val = c ∧ (op ninf).val = d ∧ (op f.nan).val = f.nan
      row (fSqrtElem f rnd) pz nz pinf f.nan ∧ row (fRcpElem f rnd) pinf ninf pz nz ∧ row (fRsqElem f) pinf ninf pz f.nan
        ∧ row (fExp2Elem f) one one pinf pz ∧ row (fLog2Elem f) ninf ninf pinf f.nan ∧ row (fSinElem f) pz nz f.nan f.nan
        ∧ row (fCosElem f) one one f.nan f.nan ∧ row (fTanhElem f) pz nz one mone)

/-- R246 to R252, R279, R280: compares, classes and conversions complete in every lane. -/
def Obligations.ConversionResults : Prop :=
  ∀ (f : RF) (s : State) (c : Ctx), s.ctx? = some c → c.any f.g = true → unshadowed s c = true →
    let n := floatSpan f.ty
    let t := tyFmt f.ty
    let rm := rmOf (f.m 8 3) c.sp.rnd
    let sat := c.sp.sat || f.m 11 1 == 1
    let dk := kindOf (f.m 0 4) f.sb.toNat
    let sk := kindOf (f.m 4 4) f.sc.toNat
    (∃ t', exec (.fcmp f) s = .next t' ∧ FlagsKept s t' c ∧ PredWritten s t' c (c.vactive f.g) f.dst
        fun l => fCmpBit t (f.m 0 4) (c.va f n l) (c.vb f n l))
      ∧ LanesGive s c f.g (c.vactive f.g) (.fclass f) f.dst 1 (fun l => { val := fClassOf t (c.va f n l) })
      ∧ LanesGive s c f.g (c.active f.g) (.cvt f) f.dst (kindSpan (f.m 0 4)) (fun l =>
          let e := convert dk sk (sk.select (c.va f (kindSpan (f.m 4 4)) l) (f.m 12 2)) rm sat
          { e with val := dk.extend e.val })
      ∧ LanesGive s c f.g (c.active f.g) (.fscl f) f.dst n (fun l =>
          mapElems t.width (tyFCount f.ty) (fun a b _ => fSclElem t c.sp.rnd c.sp.sat a
            (asInt (if tyFCount f.ty = 2 then 16 else 32) true (b % 2 ^ (if tyFCount f.ty = 2 then 16 else 32)))) (c.va f n l) (c.vb f 1 l) 0)
      ∧ LanesGive s c f.g (c.active f.g) (.fround f) f.dst n (fun l =>
          mapElems t.width (tyFCount f.ty) (fun a _ _ => fRoundElem t rm a) (c.va f n l) 0 0)
      ∧ LanesGive s c f.g (c.active f.g) (.pack f) f.dst 1 (fun l =>
          let d := kindOf (f.m 0 4) f.sc.toNat
          let src : Kind := match d with
            | .int _ _ => .int 32 true
            | .float _ => .float fmtF32
          let a := convert d src (c.va f 1 l) rm sat
          let b := convert d src (c.vb f 1 l) rm sat
          let w := d.width
          let pair := a.val % 2 ^ w + b.val % 2 ^ w * 2 ^ w
          let old := (c.g.v f.dst.toNat l).toNat
          { val := if w = 16 then pair else if f.m 12 1 = 0 then old / 2 ^ 16 * 2 ^ 16 + pair else old % 2 ^ 16 + pair * 2 ^ 16
            marks := a.marks.join b.marks })
      ∧ ∃ t', exec (.unpk f) s = .next t' ∧ FlagsKept s t' c ∧ RegFrame s t' c ∧ ScalarsKept s t' c ∧ PredsKept s t' c
          ∧ (∀ i l, i < 32 / sk.width → l < 64 → (c.active f.g).getLsbD l = true →
              (t'.vregAt c.r.group (f.dst.toNat + i) l).toNat = unpkElem sk (bits (c.va f 1 l) (sk.width * i) sk.width) % 2 ^ 32)
          ∧ ∀ k l, l < 64 → ((c.active f.g).getLsbD l = false ∨ k < f.dst.toNat ∨ f.dst.toNat + 32 / sk.width ≤ k) →
              t'.vregAt c.r.group k l = s.vregAt c.r.group k l

/-- R245: at level 1 the shadow unit recomputes every float result. A disturbance has changed the bits `d` of its result for the first element
of the lowest active lane; the main result `m` is what the instruction gives undisturbed. Where the two agree the instruction completes, where they
diverge SHADOW is raised precisely: no register is written, and the core is charged. They agree when both are NaN, both infinite with one sign, or
both finite with one sign and leading bits that differ by at most 1. -/
def Obligations.ShadowDivergenceTraps : Prop :=
  (∀ (f : RF) (s t₀ : State) (c : Ctx) (l d : Nat), s.ctx? = some c → lowLane (c.active f.g) = some l → c.launch.il = 1 →
    s.shadowErr.find? (fun e => e.1 = c.r) = some (c.r, d) →
    let s₀ : State := { s with shadowErr := s.shadowErr.filter fun e => e.1 != c.r }
    let core := s.core c.crew.core
    let t := tyFmt f.ty
    let w := kindOf (f.m 0 4) f.sb.toNat
    let p := kindOf (f.m 0 4) f.sc.toNat
    let checks (i : Instr) (t : FFmt) (n lo : Nat) : Prop := exec i s₀ = .next t₀ →
      let m := t₀.vnumAt c.r.group f.dst.toNat l n / 2 ^ lo % 2 ^ t.width
      exec i s = .next (if shadowAgrees t m (m ^^^ (d % 2 ^ t.width)) then t₀
        else raise (charge s₀ (scoreCore c.crew.core) 8) c 0x0F (c.active f.g))
    (∀ i ∈ [Instr.fadd f, .fsub f, .fmul f, .ffma f, .fmin f, .fmax f, .fabs f, .fneg f, .fdiv f, .fsqrt f, .frcp f, .frsq f, .fexp2 f
          , .flog2 f, .fsin f, .fcos f, .ftanh f, .fscl f, .fround f], checks i t (floatSpan f.ty) 0)
      ∧ checks (.fdot2 f) fmtF32 1 0 ∧ (core.bankLoading c.sp.atb = false → checks (.fact f) t 1 0)
      ∧ (6 ≤ f.m 0 4 → f.m 5 1 = 0 → checks (.lred f) fmtF32 1 0)
      ∧ (∀ x, w = .float x → checks (.cvt f) x (kindSpan (f.m 0 4)) 0)
      ∧ (∀ x, p = .float x → checks (.pack f) x 1 (if x.width = 16 then 0 else 16 * f.m 12 1))
      ∧ (∀ x, kindOf (f.m 4 4) f.sc.toNat = .float x → checks (.unpk f) fmtF32 1 0)
      ∧ ∀ toks, (vexprProgram toks).any (fun k => 4 ≤ k && k ≤ 13) = true →
          ((vexprProgram toks).contains 13 = true → core.bankLoading c.sp.atb = false) → checks (.vexpr f toks) fmtF32 1 0)
  ∧
  (∀ f ∈ floatFormats, ∀ m h : Nat, m < 2 ^ f.width → h < 2 ^ f.width →
    let lead (x : Nat) : Int := x % 2 ^ (f.width - 1) / 2 ^ (f.prec - 8)
    (shadowAgrees f m h = true ↔
      ((f.decode m).isNan = true ∧ (f.decode h).isNan = true)
        ∨ (∃ b, f.decode m = .inf b ∧ f.decode h = .inf b)
        ∨ ((f.decode m).isNan = false ∧ (f.decode h).isNan = false ∧ (f.decode m).isInf = false ∧ (f.decode h).isInf = false
            ∧ (m / 2 ^ (f.width - 1) = h / 2 ^ (f.width - 1)) ∧ |lead m - lead h| ≤ 1)))

/-- R290, R292, Table 10.10: what each lane receives; a source lane that is not usable gives 0.

R291: scans and reductions combine the active lanes in ascending order, from the identity of Table 10.11. -/
def Obligations.CrossLaneResults : Prop :=
  (∀ (f : RF) (s : State) (c : Ctx), s.ctx? = some c → c.any f.g = true →
      let n := intSpan f.ty
      let act := c.active f.g
      let quad := act ||| c.helpers
      let src (usable : LaneMask) (l : Nat) : Nat := if usable.getLsbD l then c.va f n l else 0
      let gives (i : Instr) (m : LaneMask) (n : Nat) (val : Nat → Nat) : Prop :=
        ∃ t, exec i s = .next t ∧ FlagsKept s t c ∧ LanesWritten s t c m f.dst n fun l v => v = val l
      gives (.qswz f) (c.vactive f.g) n (fun l => src quad (4 * (l / 4) + f.m (2 * (l % 4)) 2))
        ∧ gives (.qbcast f) (c.vactive f.g) n (fun l => src quad (4 * (l / 4) + f.m 0 2))
        ∧ gives (.lxchg f) act n (fun l => src act (l ^^^ 2 ^ f.m 0 3))
        ∧ gives (.lshfl f) act n (fun l => src act (c.vb f 1 l % c.g.width))
        ∧ gives (.lrot f) act n (fun l => src act ((l + if f.sbs then (c.sp.s f.sb.toNat).toNat else f.m 0 6) % c.g.width))
        ∧ gives (.qhelp f) (c.vactive f.g) n (fun l =>
            if act.getLsbD l then c.va f n l
            else ((List.range 4).find? fun i => act.getLsbD (4 * (l / 4) + i)).elim 0 fun i => c.va f n (4 * (l / 4) + i))
        ∧ gives (.lidx f) act 1 (fun l =>
            ((List.range l).filter fun k => act.getLsbD k && (f.m 0 1 == 1 || (c.g.pred f.sa.toNat).getLsbD k)).length))
  ∧
  (∀ (f : RF) (s : State) (c : Ctx), s.ctx? = some c → c.any f.g = true → f.m 0 4 ≤ 8 → unshadowed s c = true →
      let n := intSpan f.ty
      let w := tyW f.ty
      let op := f.m 0 4
      let act := lanesOf (c.active f.g)
      let step (a : Elem) (l : Nat) : Elem :=
        let e := scanCombine op w (tySigned f.ty) c.sp.rnd a.val (c.va f n l)
        { e with marks := a.marks.join e.marks }
      let upTo (ls : List Nat) : Elem := ls.foldl step { val := scanIdentity op w (tySigned f.ty) }
      let before (l : Nat) : Elem := upTo (act.filter fun k => k < l)
      let through (l : Nat) : Elem := upTo (act.filter fun k => k ≤ l)
      (∃ t, exec (.lscan f) s = .next t ∧ Marked s t c (upTo act).marks ∧ LanesWritten s t c (c.active f.g) f.dst n fun l v =>
          v = (if f.m 4 1 = 1 then (before l).val else (through l).val) % 2 ^ (32 * n))
        ∧ (f.m 5 1 = 0 → ∃ t, exec (.lred f) s = .next t ∧ Marked s t c (upTo act).marks
            ∧ LanesWritten s t c (c.active f.g) f.dst n fun _ v => v = (upTo act).val % 2 ^ (32 * n))
        ∧ (f.m 5 1 = 1 → ∃ t, exec (.lred f) s = .next t ∧ Marked s t c (upTo act).marks
            ∧ ScalarWritten s t c f.dst (if 6 ≤ op then w64 (upTo act).val else extendS f.ty (upTo act).val)))

/-- R284 to R289: fact and vexpr evaluate, unless the bound bank is loading; atload waits for its bank and then takes a whole well-formed image. -/
def Obligations.ActivationResults : Prop :=
  ∀ (f : RF) (toks : W64) (s : State) (c : Ctx), s.ctx? = some c → c.any f.g = true → unshadowed s c = true →
    let core := s.core c.crew.core
    let bank := core.bankFor c.sp.atb c.launch.tenant
    let t := tyFmt f.ty
    let ins (l n : Nat) : Nat := if n = 0 then c.va f 1 l else if n = 1 then c.vb f 1 l else if n = 2 then c.vc f 1 l else (c.g.v (f.m 0 8) l).toNat
    let prog := (vexprTokens toks).takeWhile fun k => k != 15
    let run (l : Nat) : Elem :=
      let r := prog.foldl (vexprTok c.sp.rnd bank (ins l)) ([], {})
      { val := r.1.headD 0, marks := r.2 }
    (core.bankLoading c.sp.atb = false → LanesGive s c f.g (c.vactive f.g) (.fact f) f.dst 1
        fun l => mapElems t.width (tyFCount f.ty) (fun a _ _ => factElem t bank c.sp.rnd a) (c.va f 1 l) 0 0)
      ∧ (core.bankLoading c.sp.atb = true → exec (.fact f) s = .next (s.waitFor c.r (.bank c.sp.atb)))
      ∧ ((prog.contains 13 = true → core.bankLoading c.sp.atb = false) → LanesGive s c f.g (c.vactive f.g) (.vexpr f toks) f.dst 1 run)
      ∧ (let b := f.m 0 1
         let a := c.sp.s f.sa.toNat
         let mine : Prop := ∃ k, Tbl.find? core.banks b = some k ∧ k.loading = some c.r
         let unbound : Prop := bindCount s c.crew.core b = (if c.sp.atb = b then 1 else 0)
         let free : Prop := mine ∨ unbound ∧ ∀ k, Tbl.find? core.banks b = some k → k.loading = none
         (a.toNat % 64 ≠ 0 → exec (.atload f) s = .next (raise s c 4 c.sp.mask (sector a)))
           ∧ (a.toNat % 64 = 0 → ¬free → exec (.atload f) s = .next (s.waitFor c.r (.bankFree b)))
           ∧ ∀ (y : Nat → Xlated) (l : Nat → L1Line) (k : Bank), a.toNat % 64 = 0 → free → c.checked = false → c.sp.aborted = none →
               let pieces := linePieces a.toNat 4161 4160
               let image := pieces.flatMap fun p => toBytes p.2.2 (lineField (l p.1).data ((y p.1).pa % 128) p.2.2)
               (∀ p ∈ pieces, InL1 s c .read (w64 p.1) (y p.1) (l p.1)) → c.sp.wait = .none → parseBank image c.launch.tenant = some k →
               ∃ t, exec (.atload f) s = .next t ∧ Tbl.find? (t.core c.crew.core).banks b = some k
                 ∧ k.valid = true ∧ k.tenant = c.launch.tenant ∧ k.lo = BitVec.ofNat 32 (leBytes ((image.drop 4).take 4))
                 ∧ k.scale = BitVec.ofNat 32 (leBytes ((image.drop 8).take 4))
                 ∧ (∀ n, n < 1024 → Tbl.find? k.coef n = some (BitVec.ofNat 32 (leBytes ((image.drop (64 + 4 * n)).take 4))))
                 ∧ (∃ sp, t.split? c.r = some sp ∧ SplitKept c.sp sp) ∧ ScalarsKept s t c ∧ VectorsKept s t c ∧ PredsKept s t c
                 ∧ FlagsKept s t c ∧ OthersKept s t c.r ∧ ∀ p, t.byteAt p = s.byteAt p)

/-- R15, R26, R33, R300, R390: a misaligned lane raises ALIGN, and a scratchpad or weight-store access that leaves its bound raises
XLATE_PERM with reason 7 or 8, before any lane performs; the mask names those lanes, the address is the lowest one's sector, and the fault registers take that lane's
address (R166). -/
def Obligations.MemoryAddressTraps : Prop :=
  ∀ (f : MF) (s : State) (c : Ctx), s.ctx? = some c →
    let n := memSize f.ty
    let wide (i : Instr) (off : W64) : Prop := ∀ (m : LaneMask) (l : Nat) (a : W64),
      IsMask m (fun l => ∃ a, (l, a) ∈ c.addrs f n off ∧ a.toNat % n ≠ 0) → lowLane m = some l → (l, a) ∈ c.addrs f n off →
        exec i s = .next (raise s c 4 m (sector a))
    let out (i : Instr) (off : W64) (dg : Bool) (acc : Access) : Prop := ∀ (m : LaneMask) (l : Nat) (a : W64),
      (∀ p ∈ c.addrs f n off, p.2.toNat % n = 0) →
        IsMask m (fun l => ∃ a, (l, a) ∈ c.scratchAddrs f n off dg ∧ c.crew.scratchSize < a.toNat + n) → lowLane m = some l →
        (l, a) ∈ c.scratchAddrs f n off dg → exec i s = .next (raiseVa s c 6 m a (detailWord 7 0 0 false acc))
    let o := f.off.signExtend 64
    let o' := off12 f
    wide (.ld f) o ∧ wide (.st f) o ∧ wide (.lds f) o ∧ wide (.sts f) o ∧ wide (.ldw f) o ∧ wide (.cas f) o ∧ wide (.atom f) o'
      ∧ wide (.atoms f) o' ∧ out (.lds f) o (f.col.getLsbD 0) .read ∧ out (.sts f) o (f.col.getLsbD 0) .write
      ∧ out (.atoms f) o' false .atomic
      ∧ ∀ (m : LaneMask) (l : Nat) (a : W64), (∀ p ∈ c.addrs f n o, p.2.toNat % n = 0) →
          IsMask m (fun l => ∃ a, (l, a) ∈ c.addrs f n o ∧ s.wsBytes c.part < a.toNat + n) → lowLane m = some l → (l, a) ∈ c.addrs f n o →
          exec (.ldw f) s = .next (raiseVa s c 6 m a (detailWord 8 0 0 false .read))

/-- R41, R43, R116, R299: lds and sts in the crew's scratchpad: little-endian bytes, swizzled by SKEW for .dg, and where lanes overlap the
highest lane's bytes stand.

R50, R53, R300: ldw reads the partition's weight store; a lane whose bank is in refresh holds the split. -/
def Obligations.ScratchpadAndWeightStore : Prop :=
  (∀ (f : MF) (s : State) (c : Ctx), s.ctx? = some c → f.ty ≠ 7 → noSinv s c.crew.core → gateClear s c →
      let n := memSize f.ty
      let k := c.crew.core
      let base := c.crew.scratchBase
      let at_ := c.scratchAddrs f n (f.off.signExtend 64) (f.col.getLsbD 0)
      at_ ≠ [] → (∀ p ∈ c.addrs f n (f.off.signExtend 64), p.2.toNat % n = 0) → (∀ p ∈ at_, p.2.toNat + n ≤ c.crew.scratchSize) →
      (∃ t, exec (.lds f) s = .next t ∧ OutsideKept s t c.g.launch ∧ LoadsWritten s t c f.ty f.dst (at_.map (·.1)) fun l =>
          (s.core k).scratchNum (base + (addrOf at_ l).toNat) n)
        ∧ ∃ x, exec (.sts f) s = .next ((s.setCore k x).retire c.r) ∧ x = { s.core k with scratch := x.scratch }
            ∧ ∀ a, x.scratchByte a =
                match (at_.filter fun p => base + p.2.toNat ≤ a && a < base + p.2.toNat + n).getLast? with
                | some p => BitVec.ofNat 8 (laneData c.g f.dst.toNat p.1 n / 256 ^ (a - (base + p.2.toNat)))
                | none => (s.core k).scratchByte a)
  ∧
  (∀ (f : MF) (s : State) (c : Ctx), s.ctx? = some c → f.ty ≠ 7 →
      let n := memSize f.ty
      let at_ := c.addrs f n (f.off.signExtend 64)
      let ports := (s.part c.part).ports
      let busy (p : Nat × W64) : Bool := Tbl.getD s.dev.refresh (wsHome ports p.2.toNat).1 false
      at_ ≠ [] → (∀ p ∈ at_, p.2.toNat % n = 0 ∧ p.2.toNat + n ≤ s.wsBytes c.part) →
      ((∀ p ∈ at_, busy p = false) → ∃ t, exec (.ldw f) s = .next t ∧ OutsideKept s t c.g.launch
          ∧ LoadsWritten s t c f.ty f.dst (at_.map (·.1)) fun l =>
              leBytes ((List.range n).map fun i => s.wsByteAt (wsHome ports ((addrOf at_ l).toNat + i)).2))
        ∧ ((∃ p ∈ at_, busy p = true) → ∃ b, Tbl.getD s.dev.refresh b false = true ∧ exec (.ldw f) s = .next (s.waitFor c.r (.refresh b))))

/-- R38, R39, R299: a load whose lanes all hit in the L1 reads the lines' bytes and changes nothing else but the pseudo-LRU bits.
R32: in a cache-backed region of the tenant a lane finds an undefined value, a free one.

R39, R116, R299: a store whose lanes all find their line exclusive in the L1 changes those lines' bytes there, marks them dirty,
and changes no other byte of any cache or memory. -/
def Obligations.CachedLoadsAndStores : Prop :=
  (∀ (f : MF) (s : State) (c : Ctx) (x : Nat → Xlated) (l1 : Nat → L1Line), s.ctx? = some c → f.ty ≠ 7 → noSinv s c.crew.core →
      c.checked = false → c.sp.aborted = none →
      let n := memSize f.ty
      let at_ := c.addrs f n (f.off.signExtend 64)
      at_ ≠ [] → (∀ p ∈ at_, p.2.toNat % n = 0 ∧ InL1 s c .read p.2 (x p.1) (l1 p.1)) →
      ∃ t, exec (.ld f) s = .next t ∧ OnlyPlru s t c.g.launch
        ∧ LoadsWritten s t c f.ty f.dst (at_.map (·.1)) fun l =>
            if s.inRegion c.launch.tenant n (addrOf at_ l) then
              leBytes ((List.range n).map fun i => Config.freeByte s.steps (2 ^ 64 * (l + 1) + (addrOf at_ l).toNat + i))
            else lineField (l1 l).data ((x l).pa % 128) n)
  ∧
  (∀ (f : MF) (s : State) (c : Ctx) (x : Nat → Xlated) (l1 : Nat → L1Line), s.ctx? = some c → noSinv s c.crew.core →
      c.checked = false → c.sp.aborted = none → c.sp.latch = none →
      (∀ e ∈ s.outbound, e.2.who ≠ some (.split c.r c.crew.core)) →
      let n := memSize f.ty
      let at_ := c.addrs f n (f.off.signExtend 64)
      let key (p : Nat × W64) : Nat := lineKey c.crew.core ((x p.1).pa / 128) (x p.1).view
      let covers (k i : Nat) (p : Nat × W64) : Bool := key p = k && (x p.1).pa % 128 ≤ i && i < (x p.1).pa % 128 + n
      at_ ≠ [] → (∀ p ∈ at_, p.2.toNat % n = 0 ∧ InL1 s c .write p.2 (x p.1) (l1 p.1) ∧ (l1 p.1).perm = .exclusive
        ∧ (x p.1).unb = false) →
      ∃ t cores l1', exec (.st f) s = .next t
        ∧ t = ({ s with cores := cores, caches := { s.caches with l1 := l1' } } : State).retire c.r
        ∧ (∀ k, ∃ p, t.core k = { s.core k with plru := p })
        ∧ ∀ k, match Tbl.find? s.caches.l1 k with
            | none => Tbl.find? l1' k = none
            | some l => ∃ d m, Tbl.find? l1' k = some { l with data := d, dirty := m } ∧ ∀ i, i < 128 →
                match (at_.filter (covers k i)).getLast? with
                | some p => lineByte d i = BitVec.ofNat 8 (laneData c.g f.dst.toNat p.1 n / 256 ^ (i - (x p.1).pa % 128))
                    ∧ m.getLsbD i = true
                | none => lineByte d i = lineByte l.data i ∧ m.getLsbD i = l.dirty.getLsbD i)

/-- R83, R116, R302, R303: atom, cas and atoms: the lanes act one after another in ascending order, each on what the lanes before it
left at its place; each active lane receives what it found.

R302, Table 11.2: what each atomic operation makes of the value in memory and the lane's operand. -/
def Obligations.AtomicsActInLaneOrder : Prop :=
  (∀ (f : MF) (s : State) (c : Ctx) (x : Nat → Xlated) (l1 : L1Line), s.ctx? = some c → noSinv s c.crew.core → c.checked = false →
      c.sp.aborted = none → c.sp.latch = none → (∀ e ∈ s.outbound, e.2.who ≠ some (.split c.r c.crew.core)) →
      let n := memSize f.ty
      let k := c.crew.core
      let ends (t : State) (vals : List (Nat × Nat)) (m : Marks) : State :=
        (((writeLoads c f t vals).note c.r.group c.g.launch m).seal c.r).retire c.r
      let marks (act : LaneAct) (ls : List Nat) (found : Nat → Nat) : Marks := marksOf ls fun l => (act l (found l)).getD { val := 0 }
      let generic (i : Instr) (op : LaneAct) (off : W64) : Prop :=
        let at_ := c.addrs f n off
        let act : LaneAct := fun l v => op l (observed s c n at_ l v)
        let ls := at_.map (·.1)
        let same (l j : Nat) : Bool := (x j).pa = (x l).pa
        let found (l : Nat) : Nat :=
          observed s c n at_ l (actsOn act n (lineField l1.data ((x l).pa % 128) n) (ls.filter fun j => j < l && same l j))
        at_ ≠ [] → (∀ p ∈ at_, p.2.toNat % n = 0 ∧ (x p.1).pa % n = 0 ∧ InL1 s c .atomic p.2 (x p.1) l1 ∧ l1.perm = .exclusive) →
        (∀ p ∈ at_, ∀ q ∈ at_, (x p.1).pa / 128 = (x q.1).pa / 128 ∧ (x p.1).view = (x q.1).view) →
        ∃ key l1' cores, exec i s = .next (ends { s.setL1 key l1' with cores := cores } (ls.map fun l => (l, found l)) (marks act ls found))
          ∧ (∀ k, ∃ p, ({ s with cores := cores } : State).core k = { s.core k with plru := p })
          ∧ Tbl.find? s.caches.l1 key = some l1 ∧ l1' = { l1 with data := l1'.data, dirty := l1'.dirty }
          ∧ (∀ l ∈ ls, lineField l1'.data ((x l).pa % 128) n
              = actsOn act n (lineField l1.data ((x l).pa % 128) n) (ls.filter fun j => same l j))
          ∧ ∀ i, i < 128 → (∀ l ∈ ls, i < (x l).pa % 128 ∨ (x l).pa % 128 + n ≤ i) → lineByte l1'.data i = lineByte l1.data i
              ∧ l1'.dirty.getLsbD i = l1.dirty.getLsbD i
      generic (.atom f) (atomAct c f n) (off12 f) ∧ generic (.cas f) (casAct c f n) (f.off.signExtend 64)
        ∧ (let at_ := c.addrs f n (off12 f)
           let ls := at_.map (·.1)
           let place (l : Nat) : Nat := c.crew.scratchBase + (addrOf at_ l).toNat
           let act := atomAct c f n
           let found (l : Nat) : Nat := actsOn act n ((s.core k).scratchNum (place l) n) (ls.filter fun j => j < l && place j = place l)
           at_ ≠ [] → (∀ p ∈ at_, p.2.toNat % n = 0 ∧ p.2.toNat + n ≤ c.crew.scratchSize) →
           ∃ y, exec (.atoms f) s = .next (ends (s.setCore k y) (ls.map fun l => (l, found l)) (marks act ls found))
             ∧ y = { s.core k with scratch := y.scratch }
             ∧ (∀ l ∈ ls, y.scratchNum (place l) n = actsOn act n ((s.core k).scratchNum (place l) n) (ls.filter fun j => place j = place l))
             ∧ ∀ a, (∀ l ∈ ls, a < place l ∨ place l + n ≤ a) → y.scratchByte a = (s.core k).scratchByte a))
  ∧
  (∀ (w a b : Nat), w = 32 ∨ w = 64 → a < 2 ^ w → b < 2 ^ w →
      let s (x : Nat) : Int := asInt w true x
      let is (op v : Nat) : Prop := (atomCombine op w a b).val % 2 ^ w = v
      is 0 b ∧ is 1 ((a + b) % 2 ^ w) ∧ is 2 ((a + 2 ^ w - b) % 2 ^ w) ∧ is 3 (a &&& b) ∧ is 4 (a ||| b) ∧ is 5 (a ^^^ b)
        ∧ is 6 (if s a ≤ s b then a else b) ∧ is 7 (if s a ≤ s b then b else a) ∧ is 8 (min a b) ∧ is 9 (max a b)
        ∧ is 10 (if b ≤ a then 0 else a + 1) ∧ is 11 (if a = 0 ∨ b < a then b else a - 1)
        ∧ (let f := if w = 64 then fmtF64 else fmtF32
           atomCombine 12 w a b = f.round ((f.decode a).add (f.decode b) 0) 0 false ((f.decode a).isNan || (f.decode b).isNan)
               ((f.decode a).isInf || (f.decode b).isInf)
             ∧ atomCombine 13 w a b = fMinMaxElem f false a b ∧ atomCombine 14 w a b = fMinMaxElem f true a b))

/-- R128, R304 to R306: the fences. An acquire drops the SINV lines of the core's L1; a release raises a latched error that its
scope reaches as SERR, and clears the latch. In a clamp a release and a full fence wait until the split's stores have left the gate (R120). -/
def Obligations.FencesAndStoreErrors : Prop :=
  ∀ (f : RF) (s : State) (c : Ctx), s.ctx? = some c → c.any f.g = true →
    (∀ e ∈ s.caches.l1, e.2.core = c.crew.core → e.2.perm = .sinv → e.2.dirty = 0) → writesDone s c.crew.core →
    let scope := f.m 2 3
    let dropped (e : Nat × L1Line) : Bool := 1 ≤ scope && e.2.core = c.crew.core && e.2.perm = .sinv
    let acquired : State := { s with caches := { s.caches with l1 := s.caches.l1.filter fun e => !dropped e } }
    let reached (k : LatchKind) : Prop := scope = 4 ∨ 1 ≤ scope ∧ (k = .writeOnce ∨ k = .lostUpdate)
    let waits : Host.Outcome State Fault Refusal := .next (s.waitFor c.r (.gate none))
    exec (.fenceAcq f) s = .next (acquired.retire c.r)
      ∧ (gateClear s c → (∀ k a, c.sp.latch = some (k, a) → ¬reached k) → exec (.fenceRel f) s = .next (s.retire c.r)
          ∧ exec (.fenceFull f) s = .next (acquired.retire c.r))
      ∧ (gateClear s c → ∀ k a, c.sp.latch = some (k, a) → reached k →
          let s' := s.updSplit c.r fun sp => { sp with latch := none }
          let t := raise s' { c with sp := { c.sp with latch := none } } 0x0E c.sp.mask a
          exec (.fenceRel f) s = .next t ∧ exec (.fenceFull f) s = .next t)
      ∧ (¬gateClear s c → exec (.fenceFull f) s = waits ∧ (1 ≤ scope → exec (.fenceRel f) s = waits))

/-- R307 to R311, R153: the maintenance instructions on one lane's line. dcf writes a dirty line of its block back and drops it; disc
drops every copy without write-back; wback writes a dirty line back and keeps it; sinv drops the L1's clean copy; prf of a line that the
L1 holds, and prf and wback of an address without translation or permission, do nothing. -/
def Obligations.CacheMaintenance : Prop :=
  ∀ (f : MF) (s : State) (c : Ctx) (l : Nat) (a : W64) (x : Xlated) (l2 : L2Line) (l1 : L1Line), s.ctx? = some c → slicesQuiet s →
    noSinv s c.crew.core → c.sp.aborted = none → c.sp.latch = none → c.checked = false → unattached s c →
    (∀ e ∈ s.outbound, e.2.who ≠ some (.split c.r c.crew.core)) → c.addrs f 1 (f.off.signExtend 64) = [(l, a)] →
    let line := x.pa / 128
    let page (acc : Access) : XRes := xlate s c.crew.core c.launch.tenant a acc c.sp.faults
    let filled (acc : Access) : State := fillTlb s c.crew.core c.launch.tenant a acc
    let lk := lineKey c.part line x.view
    let touched (s : State) : State := touchL2 s l2.slice l2.set l2.way
    notLost s c.part (line * 128) →
    (page .read = .ok x → page .write = .ok x → s.region c.part x.pa = .local → x.pa < s.metaAddr c.part 0 →
        x.view = false → InvLine s c.part line false 2 l2 →
        (∀ n v, (n / 8 = line / 8 ∨ n = s.metaAddr c.part x.pa / 128) → lineKey c.part n v ≠ lk →
          Tbl.find? s.caches.l2 (lineKey c.part n v) = none) →
        (∀ e ∈ s.caches.l1, e.2.line / 8 ≠ line / 8 ∧ e.2.line ≠ s.metaAddr c.part x.pa / 128) →
        exec (.dcf f) s = .next (((writeBack s l2).delL2 lk).retire c.r))
      ∧ (page .write = .ok x → x.unb = false → s.remote c.part (line * 128) = none → ∀ st, st = 1 ∨ st = 2 →
          InvLine s c.part line x.view st l2 →
          exec (.disc f) s = .next (((touched (dropCopies (filled .write) c.part line x.view true)).delL2 lk).retire c.r))
      ∧ (page .read = .ok x → x.cls = .dir → s.remote c.part (line * 128) = none → InvLine s c.part line x.view 2 l2 →
          exec (.wback f) s = .next (((writeBack (touched s) l2).setL2 lk { l2 with state := 1 }).retire c.r))
      ∧ (page .read = .ok x → x.cls ≠ .unc → Tbl.find? s.caches.l1 (lineKey c.crew.core line x.view) = some l1 → l1.dirty = 0 →
          l1.perm ≠ .exclusive → exec (.sinv f) s = .next (((filled .read).delL1 (lineKey c.crew.core line x.view)).retire c.r))
      ∧ (InL1 s c .read a x l1 → f.col.getLsbD 0 = false → exec (.prf f) s = .next ((touchL1 s c.crew.core line l1.way).retire c.r))
      ∧ ∀ e, page .read = .fault e → exec (.prf f) s = .next (s.retire c.r) ∧ exec (.wback f) s = .next (s.retire c.r)

/-- R319, Table 11.5: tload reads one record at the lowest active lane's address into its t register; a bad record raises ILLEGAL, and an
address that is not a multiple of 64 ALIGN.

R314, R323, Tables 11.4 and 11.6: what each update makes of a transaction barrier's fields, and the barrier instructions on a
barrier in the scratchpad. -/
def Obligations.RecordsAndTransactionBarriers : Prop :=
  (∀ (f : MF) (s : State) (c : Ctx) (l : Nat) (x : Xlated) (l1 : L1Line), s.ctx? = some c → lowLane (c.active f.g) = some l →
      let a := laneAddr c f 1 (f.off.signExtend 64) l
      let record : Block := BitVec.ofNat 512 (lineField l1.data (x.pa % 128) 64)
      let s' := touchL1 s c.crew.core (x.pa / 128) l1.way
      (a.toNat % 64 ≠ 0 → exec (.tload f) s = .next (raise s c 4 (c.active f.g) (sector a)))
        ∧ (a.toNat % 64 = 0 → InL1 s c .read a x l1 → c.checked = false → c.sp.aborted = none →
            (recordOk record = true → exec (.tload f) s = .next ((s'.updSplit c.r fun sp => sp.setTrec f.dst.toNat record).retire c.r))
              ∧ (recordOk record = false → exec (.tload f) s = .next (raise s' c 1 (c.active f.g) (sector a)))))
  ∧
  ((∀ b n : Nat, b < 2 ^ 128 → n < 2 ^ 32 →
      let phase := bits b 0 4
      let err := bits b 4 1
      let expect := bits b 16 16
      let arrive := bits b 32 16
      let sect := bits b 64 32
      let is (b' phase err prev expect arrive sect : Nat) : Prop :=
        bits b' 0 4 = phase ∧ bits b' 4 1 = err ∧ bits b' 5 1 = prev ∧ bits b' 16 16 = expect ∧ bits b' 32 16 = arrive
          ∧ bits b' 64 32 = sect
      let after (b' err arrive sect : Nat) : Prop :=
        if arrive = 0 ∧ sect = 0 then is b' ((phase + 1) % 16) 0 err expect expect 0 else is b' phase err (bits b 5 1) expect arrive sect
      (0 < n → n < 65536 → is (tbNew n) 0 0 0 n n 0)
        ∧ (arrive = 0 → is (tbArrive b n) phase 1 (bits b 5 1) expect arrive sect)
        ∧ (arrive ≠ 0 → after (tbArrive b n) err (arrive - 1) ((sect + n) % 2 ^ 32))
        ∧ after (tbEval (tbSect b n)) err arrive ((sect + n) % 2 ^ 32)
        ∧ after (tbComplete b n false) err arrive ((sect + 2 ^ 32 - n) % 2 ^ 32)
        ∧ after (tbComplete b n true) 1 arrive ((sect + 2 ^ 32 - n) % 2 ^ 32))
    ∧ ∀ (f : MF) (s : State) (c : Ctx) (l : Nat), s.ctx? = some c → lowLane (c.active f.g) = some l →
      let a := laneAddr c f 1 (f.off.signExtend 64) l
      let at_ := c.crew.scratchBase + a.toNat
      let b := (s.core c.crew.core).scratchNum at_ 16
      let v := (c.sp.s f.dst.toNat).toNat
      (v = 0 ∨ 65536 ≤ v → exec (.tbinit f) s = .next (raise s c 1 c.sp.mask))
        ∧ (f.col.getLsbD 0 = true → a.toNat % 16 = 0 → a.toNat + 16 ≤ c.crew.scratchSize → noSinv s c.crew.core → gateClear s c →
            let sets (i : Instr) (v : Nat) : Prop :=
              ∃ x, exec i s = .next (((s.setCore c.crew.core x).seal c.r).retire c.r) ∧ x = { s.core c.crew.core with scratch := x.scratch }
                ∧ x.scratchNum at_ 16 = v % 2 ^ 128
                ∧ ∀ p, p < at_ ∨ at_ + 16 ≤ p → x.scratchByte p = (s.core c.crew.core).scratchByte p
            (0 < v → v < 65536 → sets (.tbinit f) (tbNew v)) ∧ sets (.tbarr f) (tbArrive b (v % 2 ^ 32))
              ∧ sets (.tbexp f) (tbEval (tbSect b (v % 2 ^ 32)))
              ∧ exec (.tbtest f) s = .next ((s.updSplit c.r fun sp => sp.setS f.dst.toNat (w64 b)).retire c.r)))

/-- R206 to R211: words that the spec writes out decode to the instructions that it writes them for; a command block is known by its
OP and the byte of its form (Tables 6.8, 16.8, 17.3). -/
def Obligations.SampleWordsDecode : Prop :=
  let reads (w : W64) (i : Instr) : Prop := decodeWord true w none = .ok i
  reads 0x0000010000058010#64 (.smovi { g := always, ty := 4, dst := 5, sa := 0, imm := 0x100 })
    ∧ reads 0x00100001020480A0#64 (.ld (mf 4 4 2 1 0 0 0 0x10))
    ∧ reads 0xFFF85301030481A1#64 (.st { mf 4 4 3 1 3 2 2 0xFFF8 with g := guarded 1 false })
    ∧ reads 0x0000000000000026#64 (.exit (rf 0 0 0 0 0 0))
    ∧ reads 0x020E0000000000A8#64 (.fenceRel (rf 0 0 0 0 0 0x020E))
    ∧ reads 0x3001_1C00_020E_86A5#64 (.atom { mf 4 14 2 0 4 3 0 0x3001 with g := guarded 6 false })
    ∧ reads 0x008B_070A_0205_00B2#64 (.cpt (rf 0 5 2 10 7 0x008B))
    ∧ reads 0x0000_0000_5014_00D3#64
        (.mmulz { reg := { acc := 0, mc := 1, nc := 1 }, aslot := 0, bslot := 4, ksM1 := 1, arow := 0, brow := 0, cord := false, rgl := 0 })
    ∧ reads 0xFC00_0000_0814_00D4#64
        (.mdrainV { reg := { acc := 0, mc := 1, nc := 1 }, rega := 8, regb := 0, regc := 0, hi := 0xFC00 })
    ∧ reads 0x0000_0C0B_0A58_00D4#64
        (.mdrainS { reg := { acc := 0, mc := 2, nc := 1 }, rega := 10, regb := 11, regc := 12, hi := 0 })
    ∧ reads 0x0000_002A_0000_00E0#64 (.trap { g := always, ty := 0, dst := 0, sa := 0, imm := 0x2A })
    ∧ reads 0x0005_0000_0405_0082#64 (.lxchg (rf 0 5 4 0 0 5)) ∧ reads 0x8000_0004_090A_2043#64 (.vmulh (rf 1 10 9 4 0 0x8000))
    ∧ reads 0x8000_0003_0404_0241#64 (.vsub { rf 0 4 4 3 0 0x8000 with g := guarded 2 false })
    ∧ reads 0x0098_0000_0203_0078#64 (.cvt (rf 0 3 2 0 0 0x98)) ∧ reads 0x0000_0302_0405_0063#64 (.ffma (rf 0 5 4 2 3 0))
    ∧ reads 0xFFFF_FFFC_0600_0028#64 (.loop { g := always, ty := 0, dst := 0, sa := 6, off := 0xFFFFFFFC })
    ∧ reads 0x0000_0000_00C3_00F8#64 (.rep { countM1 := 3, step := 3, stride2 := false })
    ∧ decodeWord true 0x0007_0605_040A_007D#64 (some 0x00FF_FFFF_F834_2610#64) = .ok (.vexpr (rf 0 10 4 5 6 7) 0x00FFFFFFF8342610#64)
    ∧ (∀ b : Block,
        let op (n : Nat) (i : Instr) : Prop := blkOp b = n → decodeBlock b = i
        let form (n at_ k : Nat) (i : Instr) : Prop := blkOp b = n → blkByte b at_ = k → decodeBlock b = i
        op 0x11 .migrate ∧ form 0x12 6 0 .invalPage ∧ form 0x12 6 1 .invalRange ∧ form 0x12 6 2 .invalTenant ∧ form 0x12 6 3 .invalTenantAll
          ∧ form 0x12 6 4 .invalGuestRange ∧ form 0x12 6 5 .invalPartition ∧ form 0x12 6 6 .invalKeyShadow ∧ form 0x13 5 0 .tenantSet
          ∧ form 0x13 5 1 .tenantDelete ∧ op 0x14 .trapset ∧ op 0x15 .ctxpool ∧ form 0x16 4 0 .biasToDevice ∧ form 0x16 4 1 .biasToHost
          ∧ op 0x17 .preempt ∧ op 0x18 .linkup ∧ op 0x21 .reconf ∧ op 0x31 .pair ∧ op 0x32 .unpair ∧ op 0x33 .release ∧ op 0x34 .limits
          ∧ op 0x35 .keyload ∧ op 0x36 .preset ∧ op 0x37 .attest ∧ op 0x38 .inject)

/-- R200, R206 to R211: for every instruction, with every operand at every value that its encoding admits, decoding the encoded words
gives the instruction back. -/
def Obligations.EncodeDecodeAgree : Prop :=
  ∀ (l3 : Bool) (i : Instr) (w : W64) (next : Option W64), i.wf l3 = true → encode i = some (w, next) → decodeWord l3 w next = .ok i

/-- R204 checks 5 and 6: a word that decodes is the encoding of what it decodes to, bit for bit; every word with a reserved bit set, or
with a field that its instruction does not use, is therefore refused.

R216 to R218: the opcodes that the opcode map reserves at a level are refused, whatever the rest of the word. -/
def Obligations.DecodedWordsKeepEveryBit : Prop :=
  (∀ (l3 : Bool) (w : W64) (next : Option W64) (i : Instr), decodeWord l3 w next = .ok i →
      i.wf l3 = true ∧ (encode i = some (w, none) ∨ encode i = some (w, next)))
  ∧
  (∀ (w : W64) (next : Option W64) (l3 : Bool),
      let opc := w.toNat % 256
      let within (a b : Nat) : Prop := a ≤ opc ∧ opc ≤ b
      within 0x1A 0x1F ∨ within 0x2F 0x3F ∨ within 0x59 0x5F ∨ within 0x75 0x77 ∨ within 0x7E 0x7F ∨ within 0x8B 0x9F ∨ within 0xAE 0xAF
        ∨ within 0xBC 0xCF ∨ within 0xD9 0xDF ∨ within 0xE6 0xF7 ∨ within 0xF9 0xFF
        ∨ (l3 = true ∧ opc = 0x2E) ∨ (l3 = false ∧ (opc = 0x7D ∨ opc = 0x88)) →
      decodeWord l3 w next = .error .reservedOpcode)

/-- R204, R205: the step of a split whose word decodes to an instruction is that instruction's execution by that split, after the tick of
the clock; the split waits for nothing, and no other split yields to it any more. A word that does not decode raises ILLEGAL; one that
touches a scalar whose token is still to come waits. An acquire that is still due, after a barrier or before the read of a child's token, is
made first (R137, R187, R273); a group whose reservation is smaller than its image's registers may spill a row before the instruction
(R386, log 42), which the statement leaves out.

Inputs and events (log 2, log 3): an input whose time has come is executed at once; otherwise the device makes a move, and with none
only time goes on. A device held in reset makes none (R442, R444). -/
def Obligations.StepRunsTheDecodedInstruction : Prop :=
  (∀ (s : State) (r : SplitRef) (c : Ctx), s.inputs = [] → s.nextMove = some (.word r) → s.tick.ctxOf r = some c →
      let t := s.tick
      let word := match c.sp.rep with
        | some (f, i) => repWord f c.word i
        | none => c.word
      let next := c.sp.clause.bind fun k => k.words[k.next + 1]?
      let reads (i : Instr) : Prop := c.sp.acquire = 0 ∧ decodeWord c.level3 word next = .ok i
      let come (i : Instr) : Prop := ∀ k ∈ scalarsOf i, k ∉ c.sp.pend
      (∀ i, reads i → come i → (∀ k ∈ scalarsOf i, k ∉ c.sp.fresh) → c.g.regs ≤ c.launch.peak ∨ usesVector i = false →
          step s = exec i (t.issue r))
        ∧ (∀ i, reads i → ¬come i → ∃ k ∈ c.sp.pend, step s = .next (t.waitFor r (.token k)))
        ∧ (∀ i, reads i → come i → (∃ k ∈ scalarsOf i, k ∈ c.sp.fresh) → noSinv t c.crew.core →
            step s = .next ((t.issue r).updSplit r fun sp => { sp with fresh := sp.fresh.filter fun k => !(scalarsOf i).contains k }))
        ∧ (∀ e, c.sp.acquire = 0 → decodeWord c.level3 word next = .error e → step s = .next (raise (t.issue r) c 1 c.sp.mask))
        ∧ (c.sp.acquire ≠ 0 → noSinv t c.crew.core → step s = .next ((t.issue r).updSplit r fun sp => { sp with acquire := 0 }))
        ∧ (t.issue r).cur = some r
        ∧ (t.issue r).split? r = some { c.sp with wait := .none, lift := 0, readyAt := none }
        ∧ ∀ x, x ≠ r → (t.issue r).split? x = (t.split? x).map fun sp => { sp with yieldOn := sp.yieldOn.erase r })
  ∧
  (∀ (s : State) (i : Instr) (rest : List (Nat × Instr)) (n : Nat),
      (s.inputs = (0, i) :: rest → step s = exec i { s.tick with inputs := rest })
        ∧ (s.inputs = (n + 1, i) :: rest → step s = deviceStep { s with inputs := (n, i) :: rest })
        ∧ (s.inputs = [] → s.nextMove = some (.event i) → step s = exec i s.tick)
        ∧ (s.inputs = [] → s.dev.pins.heldReset = true ∨ s.moves = [] → step s = .next s.tick)
        ∧ s.tick.steps = s.steps + 1 ∧ s.cycle ≤ s.tick.cycle
        ∧ (∃ gs ws zs, s.tick = { s with steps := s.tick.steps, cycle := s.tick.cycle, cur := none, groups := gs
                                         caches := { s.caches with waiters := ws, zeros := zs } })
        ∧ ∀ r sp, s.split? r = some sp → ∃ at_, s.tick.split? r = some { sp with readyAt := at_ })

/-- R359, R214: a trap at normal level with a handler: the split's trap registers are set, its PC, mask, FMT and stack depth are saved,
and it goes to HANDLER with its mask, FMT, stack and registers unchanged; nothing else changes but FLTINFO and FLTADDR of the function.

R361, Table 13.3: with a frame ring, frame COUNT mod 2^LOG2N receives the eight words and COUNT rises by 1 before the split enters the
handler.

R359, R360, R402: with HANDLER 0 a trap ends the launch with its cause; any trap at trap level ends it with DOUBLE. The launch's
groups are gone. -/
def Obligations.TrapEntry : Prop :=
  (∀ (s : State) (c : Ctx) (tn : Tenant) (cause : Nat) (mask : LaneMask) (addr : W64) (detail : BitVec 32) (va : Option W64),
      s.ctx? = some c → s.tenant? c.launch.tenant = some tn → tn.handler ≠ 0 → tn.ringSet = false → c.sp.trap = none → c.checked = false →
      let t := raise s c cause mask addr detail va
      OutsideKept (detachSplit s c.r) t c.g.launch ∧ OthersKept s t c.r
        ∧ (∃ g, t.group? c.r.group = some g ∧ g = { c.g with splits := g.splits })
        ∧ (∃ fs, t.dev = { s.dev with funcs := fs })
        ∧ (cause = 6 ∨ cause = 7 → let f := t.func (s.funcOf c.launch.tenant)
            f = { s.func (s.funcOf c.launch.tenant) with fltinfo := detail, fltaddr := va.getD addr })
        ∧ (cause ≠ 6 → cause ≠ 7 → t.dev = s.dev)
        ∧ ∃ sp, t.split? c.r = some sp
          ∧ sp.trapCause = detail ++ BitVec.ofNat 32 cause ∧ sp.trapMask = mask ∧ sp.trapAddr = addr
          ∧ sp.trapPc = (if c.sp.rep.isSome then c.sp.pc - 8 else c.sp.pc) ∧ sp.repcnt = (c.sp.rep.elim 0 fun p => p.2) ∧ sp.mprog = 0
          ∧ sp.pc = tn.handler ∧ sp.clause = none ∧ sp.mask = c.sp.mask ∧ sp.fmt = c.sp.fmt ∧ sp.stack = c.sp.stack
          ∧ sp.sregs = c.sp.sregs ∧ sp.trecs = c.sp.trecs ∧ sp.latch = c.sp.latch ∧ sp.wait = .none
          ∧ ∃ k, sp.trap = some k ∧ k.pc = sp.trapPc ∧ k.mask = c.sp.mask ∧ k.fmt = c.sp.fmt ∧ k.depth = c.sp.stack.length)
  ∧
  (∀ (s : State) (c : Ctx) (tn : Tenant) (cause : Nat) (mask : LaneMask) (addr : W64) (detail : BitVec 32) (x y : Xlated) (lx ly : L1Line),
      s.ctx? = some c → s.tenant? c.launch.tenant = some tn → tn.handler ≠ 0 → tn.ringSet = true → c.sp.trap = none →
      c.checked = false → cause < 32 → cause ≠ 6 → cause ≠ 7 → noSinv s c.crew.core →
      let n := tn.frames
      let slot := w64 (tn.ring.toNat + 64 + 64 * (n % 2 ^ tn.log2n))
      let held (va : W64) (acc : Access) (x : Xlated) (l : L1Line) : Prop :=
        xlate s c.crew.core c.launch.tenant va acc [] = .ok x
          ∧ (∃ e ∈ State.tlbOf s.mmu.l1tlb c.crew.core, e.serves c.launch.tenant va.toNat acc = true) ∧ x.cls = .dir ∧ notLost s c.part (x.pa / 128 * 128)
          ∧ Tbl.find? s.caches.l1 (lineKey c.crew.core (x.pa / 128) x.view) = some l ∧ l.perm = .exclusive ∧ l.valid = BitVec.allOnes 128
      held tn.ring .write x lx → held slot .write y ly → x.pa % 128 = 0 → y.pa % 64 = 0 →
      tn.ring.toNat + 64 + 64 * 2 ^ tn.log2n < 2 ^ 52 → slot.toNat % 128 = y.pa % 128 →
      (x.pa / 128 = y.pa / 128 ∧ x.view = y.view → y.pa % 128 = 64) →
      let t := raise s c cause mask addr detail
      (∃ sp, t.split? c.r = some sp ∧ sp.pc = tn.handler ∧ sp.trap.isSome = true)
        ∧ (∃ l, Tbl.find? t.caches.l1 (lineKey c.crew.core (x.pa / 128) x.view) = some l ∧ lineField l.data 0 8 = (n + 1) % 2 ^ 64)
        ∧ (t.tenant? c.launch.tenant).map (·.frames) = some ((n + 1) % 2 ^ 64)
        ∧ ∃ l, Tbl.find? t.caches.l1 (lineKey c.crew.core (y.pa / 128) y.view) = some l ∧
          let word (i : Nat) : W64 := w64 (lineField l.data (y.pa % 128 + 8 * i) 8)
          word 0 = (if c.sp.rep.isSome then c.sp.pc - 8 else c.sp.pc) ∧ word 1 = addr ∧ word 2 = mask ∧ word 3 = c.sp.mask
            ∧ (c.r.split < 4 → fld (word 4) 0 8 = cause ∧ fld (word 4) 8 2 = c.r.split ∧ fld (word 4) 10 6 = 0
                ∧ fld (word 4) 16 6 = (c.sp.rep.elim 0 fun p => p.2) % 64 ∧ fld (word 4) 22 10 = 0 ∧ fld (word 4) 32 32 = detail.toNat)
            ∧ (c.g.grpid < 32 → c.crew.crewid < 16 → c.launch.tenant < 65536 → fld (word 5) 0 16 = 0
                ∧ fld (word 5) 16 16 = c.g.launch % 65536 ∧ fld (word 5) 32 5 = c.g.grpid ∧ fld (word 5) 37 3 = 0
                ∧ fld (word 5) 40 4 = c.crew.crewid ∧ fld (word 5) 44 4 = 0 ∧ fld (word 5) 48 16 = c.launch.tenant)
            ∧ (c.crew.core < 128 → fld (word 6) 0 32 = c.g.cord % 2 ^ 32 ∧ fld (word 6) 32 7 = c.crew.core ∧ fld (word 6) 39 1 = 0
                ∧ fld (word 6) 40 1 = 0 ∧ fld (word 6) 41 1 = 1 ∧ fld (word 6) 42 22 = 0)
            ∧ word 7 = w64 s.cycle)
  ∧
  (∀ (s : State) (c : Ctx) (tn : Tenant) (cause : Nat) (mask : LaneMask) (addr : W64) (detail : BitVec 32), s.ctx? = some c →
      s.tenant? c.launch.tenant = some tn → tn.ringSet = false → s.tidy → c.launch.state.live = true → c.crew.launch = c.g.launch →
      c.launch.closing = none → (∀ e ∈ s.groups, ∀ p ∈ e.2.splits, p.2.pendingTrap = none) → (∀ e ∈ s.caches.l1, e.2.perm ≠ .sinv) →
      (∀ p ∈ s.dev.pairs, p.2.gate = []) → (∀ o ∈ s.outbound, o.2.write = false) →
      let t := raise s c cause mask addr detail
      let ended (code : Nat) : Prop :=
        ((t.launch? c.g.launch).map (·.state)) = some (.failed code) ∧ t.group? c.r.group = none ∧ t.crew? c.g.crew = none
      (tn.handler = 0 → c.sp.trap = none → ended cause) ∧ (c.sp.trap.isSome = true → ended 0x12))

/-- R354 to R369, R264: the system instructions. trap and brk raise their causes with the code as DETAIL; tret gives the saved mask, FMT
and stack depth back and resumes at TRAPPC; fpcnt reads, or reads and clears; yield, sync and nop. -/
def Obligations.SystemInstructionResults : Prop :=
  ∀ (f : RF) (m : IF) (s : State) (c : Ctx), s.ctx? = some c → c.any f.g = true → c.any m.g = true →
    let report (cause : Nat) : Report := { cause := cause, mask := c.active m.g, addr := 0, detail := m.imm }
    let core := c.crew.core
    let sealed (s : State) : State := (s.updSplit c.r fun sp => { sp with sealed := true }).retire c.r
    exec (.nop f) s = .next (s.retire c.r)
      ∧ exec (.trap m) s = .next (raiseAt (s.seal c.r) c (c.sp.pc + 8) (report 0x17) 0)
      ∧ exec (.brk m) s = .next (raiseAt (s.seal c.r) c c.sp.pc (report 0x16) 0)
      ∧ (c.sp.trap = none → exec (.tret f) s = .next (raise s c 3 c.sp.mask))
      ∧ (∀ k, c.sp.trap = some k → c.checked = false → c.sp.trapPc.toNat % 8 ≠ 0 →
          exec (.tret f) s = .next (raise s c 4 c.sp.mask (sector c.sp.trapPc)))
      ∧ (∀ k, c.sp.trap = some k → c.checked = false → c.sp.trapPc.toNat % 8 = 0 →
          ∃ t sp, exec (.tret f) s = .next t ∧ t.split? c.r = some sp ∧ sp.trap = none ∧ sp.mask = k.mask &&& ~~~c.g.exited ∧ sp.fmt = k.fmt
            ∧ sp.stack = c.sp.stack.drop (c.sp.stack.length - k.depth) ∧ sp.pc = c.sp.trapPc ∧ sp.sregs = c.sp.sregs ∧ sp.back = true
            ∧ sp.clause = none ∧ (∃ h, sp.resume = some (h, c.sp.trapPc))
            ∧ sp.repcnt = c.sp.repcnt ∧ sp.mprog = c.sp.mprog ∧ OutsideKept s t c.g.launch ∧ OthersKept s t c.r
            ∧ ∃ g, t.group? c.r.group = some g ∧ g = { c.g with splits := g.splits })
      ∧ (∃ t, exec (.fpcnt f) s = .next t ∧ FlagsKept s t c
          ∧ ScalarWritten s t { c with sp := { c.sp with sealed := true } } f.dst (w64 (s.counterAt c.g.launch (f.m 0 5))))
      ∧ ((c.launch.counters.map (·.1)).Nodup → ∃ t, exec (.fpcntClr f) s = .next t ∧ OthersKept s t c.r ∧ VectorsKept s t c ∧ PredsKept s t c
          ∧ (∀ n, t.sregAt c.r n = if n = f.dst.toNat ∧ n ≠ 0 then w64 (s.counterAt c.g.launch (f.m 0 5)) else s.sregAt c.r n)
          ∧ OutsideKept s t c.g.launch ∧ t.stickyAt c.r.group = s.stickyAt c.r.group
          ∧ (∃ sp, t.split? c.r = some sp ∧ SplitKept { c.sp with sealed := true } sp)
          ∧ ∀ i, t.counterAt c.g.launch i = if i = f.m 0 5 then 0 else s.counterAt c.g.launch i)
      ∧ (∃ t v, exec (.fpcntClrall f) s = .next t ∧ OthersKept s t c.r ∧ VectorsKept s t c ∧ PredsKept s t c
          ∧ (∀ n, t.sregAt c.r n = if n = f.dst.toNat ∧ n ≠ 0 then v else s.sregAt c.r n) ∧ OutsideKept s t c.g.launch
          ∧ t.stickyAt c.r.group = s.stickyAt c.r.group
          ∧ (∃ sp, t.split? c.r = some sp ∧ SplitKept { c.sp with sealed := true } sp)
          ∧ (∀ i, i < 64 → (v.getLsbD i = true ↔ i < 21 ∧ s.counterAt c.g.launch i ≠ 0))
          ∧ ∀ i, t.counterAt c.g.launch i = 0)
      ∧ (s.preempting core = false → exec (.yield f) s = .next ((s.updSplit c.r fun sp =>
          { sp with sealed := true
                    yieldOn := (s.quarter core (c.g.grpid % 4)).filter fun r => r != c.r && (s.ctxOf r).any (readyCtx s) }).retire c.r))
      ∧ (s.preempting core = true → s.tidy → ∃ t, exec (.yield f) s = .next t
          ∧ t.split? c.r = some { c.sp.advance 1 with sealed := true, yieldOn := [c.r] }
          ∧ OnlySplits s { t with crews := s.crews } c.r.group
          ∧ ∀ h, t.crew? h = (s.crew? h).map fun x =>
              if x.launch = c.g.launch ∧ x.cord = c.g.cord then { x with preempt := true } else x)
      ∧ ((∀ e ∈ (s.core core).cmds, e.2.byGroup c.r.group = false) → (s.core core).fetching c.r.group = false →
          exec (.syncEng f) s = .next (sealed s))
      ∧ ((∃ e ∈ (s.core core).cmds, e.2.byGroup c.r.group = true) → exec (.syncEng f) s = .next (s.waitFor c.r (.sync 0)))
      ∧ (s.unsettled c = false → c.sp.latch = none → exec (.syncErr f) s = .next (sealed s))
      ∧ (s.unsettled c = false → ∀ k a, c.sp.latch = some (k, a) →
          exec (.syncErr f) s = .next (raise (s.updSplit c.r fun sp => { sp with latch := none })
            { c with sp := { c.sp with latch := none } } 0x0E c.sp.mask a))
      ∧ (s.unsettled c = true → exec (.syncErr f) s = .next (s.waitFor c.r (.sync 1)))
      ∧ ∃ t, exec (.syncCode f) s = .next t ∧ t.core core = { s.core core with code := [] }
          ∧ t.part c.part = { s.part c.part with images := (s.part c.part).images.filter fun e => e.1 != c.launch.tenant }
          ∧ t = { sealed s with cores := t.cores, parts := t.parts, groups := t.groups }
          ∧ ∀ r sp g cr, (sealed s).split? r = some sp → s.group? r.group = some g → s.crew? g.crew = some cr →
              t.split? r = some (match sp.clause with
                | some k => if cr.core = core ∧ cr.saved = false then { sp with clause := none, resume := some (k.header, sp.pc) } else sp
                | none => sp)

/-- R177, R268 to R270: bra, brx, call, ret and loop. With every lane choosing one PC the split goes there. With two PCs it divides: the
lower PC keeps the split, the other lanes take a free split, or a P entry of the stack when none is free; at trap level that is ILLEGAL. -/
def Obligations.ControlTransfers : Prop :=
  ∀ (b : BF) (f : RF) (s : State) (c : Ctx), s.ctx? = some c → c.checked = false → c.sp.mask ≠ 0 →
    c.sp.stack.length ≤ 1024 →
    let fall := c.sp.pc + 8
    let header := (c.sp.clause.map (·.header)).getD c.sp.pc
    let target := header + 8 * b.off.signExtend 64
    let goes (i : Instr) (act : LaneMask) (dest : W64) (taken kept : Split) : Prop :=
      let lo := if dest < fall then dest else fall
      let hi := if dest < fall then fall else dest
      let regs (pc : W64) : Split := if pc = dest then taken else kept
      let lanes (pc : W64) : LaneMask := if pc = dest then act else c.sp.mask &&& ~~~act
      (act = c.sp.mask ∨ act ≠ 0 ∧ dest = fall ∧ taken = kept → exec i s = .next (s.updSplit c.r fun _ => taken.sentTo c.sp.mask dest))
        ∧ (act = 0 → exec i s = .next (s.updSplit c.r fun _ => kept.sentTo c.sp.mask fall))
        ∧ (act ≠ 0 → act ≠ c.sp.mask → dest ≠ fall → c.sp.trap = none → c.sp.pend = [] →
            (∀ n, n < 4 → (Tbl.find? c.g.splits n).isNone = true → (∀ k, k < n → (Tbl.find? c.g.splits k).isSome = true) →
              ∃ t sp, exec i s = .next t
                ∧ t.split? c.r = some { (regs lo).sentTo (lanes lo) lo with billet := c.sp.billet.map fun n => n.forLanes (lanes lo) }
                ∧ t.split? { group := c.r.group, split := n } = some sp
                ∧ sp.mask = lanes hi ∧ sp.pc = hi ∧ sp.fmt = c.sp.fmt ∧ sp.stack = c.sp.stack ∧ sp.sregs = (regs hi).sregs ∧ sp.clause = none
                ∧ sp.trap = none ∧ sp.wait = .none ∧ sp.latch = none
                ∧ (∀ k, k ≠ n → k ≠ c.r.split → t.split? { group := c.r.group, split := k } = s.split? { group := c.r.group, split := k }))
            ∧ ((∀ n, n < 4 → (Tbl.find? c.g.splits n).isSome = true) → c.sp.stack.length < 16 →
              exec i s = .next (s.updSplit c.r fun _ =>
                { taken.sentTo (lanes lo) lo with
                  billet := c.sp.billet.map fun n => n.forLanes (lanes lo ||| lanes hi)
                  stack := { join := false, mask := lanes hi, pc := hi, fmt := c.sp.fmt, arr := 0 } :: c.sp.stack })))
        ∧ (act ≠ 0 → act ≠ c.sp.mask → dest ≠ fall → c.sp.trap.isSome = true → exec i s = .next (raise s c 1 c.sp.mask))
    let act := c.active b.g
    let ret := c.sp.s f.sa.toNat
    let n := c.sp.s b.sa.toNat - 1
    goes (.bra b) act target c.sp c.sp ∧ goes (.call b) act target (c.sp.setS b.dst.toNat fall) c.sp
      ∧ (∀ v, (∀ l, l < 64 → c.g.v f.sa.toNat l = v) →
          goes (.brx f) (c.active f.g) (header + 8 * v.signExtend 64) c.sp c.sp)
      ∧ (ret.toNat % 8 = 0 → goes (.ret f) (c.active f.g) ret c.sp c.sp)
      ∧ (ret.toNat % 8 ≠ 0 → c.active f.g ≠ 0 → exec (.ret f) s = .next (raise s c 4 (c.active f.g) (sector ret)))
      ∧ (act ≠ 0 → n ≠ 0 → goes (.loop b) act target (c.sp.setS b.sa.toNat n) (c.sp.setS b.sa.toNat n))
      ∧ (act ≠ 0 → n = 0 → exec (.loop b) s = .next (s.updSplit c.r fun _ => (c.sp.setS b.sa.toNat n).sentTo c.sp.mask fall))
      ∧ (act = 0 → exec (.loop b) s = .next (s.updSplit c.r fun _ => c.sp.sentTo c.sp.mask fall))

/-- R176, R178, R180, R218: rcvp pushes a J entry for its target; join (bsync at level 2) at another header, or with no J entry, does
nothing; over a P entry it takes up the lanes that wait there; with every lane of the entry arrived or exited it pops the entry and goes
on with its mask and FMT; otherwise it waits.

R179, R271, R306: exit ends its lanes: the split goes on with the others, or ends, or takes up the lanes of its top P entry; a
latched error is raised first. -/
def Obligations.ConvergenceResults : Prop :=
  (∀ (b : BF) (f : RF) (s : State) (c : Ctx), s.ctx? = some c → c.checked = false → c.sp.wait = .none → c.r.split < 4 → s.tidy →
      let header := (c.sp.clause.map (·.header)).getD c.sp.pc
      let push : StackEntry := { join := true, mask := c.sp.mask, pc := header + 8 * b.off.signExtend 64, fmt := c.sp.fmt, arr := 0 }
      (c.sp.trap = none → c.sp.stack.length < 16 →
          exec (.rcvp b) s = .next ((s.updSplit c.r fun sp => { sp with stack := push :: c.sp.stack }).retire c.r))
        ∧ (c.sp.trap.isSome = true → exec (.rcvp b) s = .next (raise s c 1 c.sp.mask))
        ∧ ∀ i ∈ [Instr.join f, .bsync f],
            ((∀ e, c.sp.stack.find? (·.join) = some e → e.pc ≠ header) → exec i s = .next (s.retire c.r))
              ∧ ∀ e, c.sp.stack.find? (·.join) = some e → e.pc = header →
                (c.sp.trap.isSome = true → exec i s = .next (raise s c 1 c.sp.mask))
                ∧ (c.sp.trap = none → (∀ p ∈ c.g.splits, p.1 ≠ c.r.split → p.2.wait ≠ .join) →
                  ∀ top rest, c.sp.stack = top :: rest →
                    (top.join = false → ∃ t sp, exec i s = .next t ∧ OnlySplits s t c.r.group ∧ t.split? c.r = some sp
                      ∧ sp.mask = top.mask ∧ sp.pc = top.pc ∧ sp.fmt = top.fmt ∧ sp.clause = none ∧ sp.wait = .none
                      ∧ sp.stack.length = rest.length ∧ sp.sregs = c.sp.sregs
                      ∧ (sp.stack.find? (·.join)).map (·.arr) = some (e.arr ||| c.sp.mask))
                    ∧ (top.join = true → e.mask &&& ~~~(e.arr ||| c.sp.mask ||| c.g.exited) = 0 → ∃ t sp, exec i s = .next t
                      ∧ OnlySplits s t c.r.group ∧ t.split? c.r = some sp ∧ sp.mask = e.mask &&& ~~~c.g.exited ∧ sp.fmt = e.fmt
                      ∧ sp.stack = rest ∧ sp.wait = .none ∧ sp.sregs = c.sp.sregs ∧ (c.sp.rep = none → sp.pc = c.sp.pc + 8))
                    ∧ (top.join = true → e.mask &&& ~~~(e.arr ||| c.sp.mask ||| c.g.exited) ≠ 0 → ∃ t sp, exec i s = .next t
                      ∧ OnlySplits s t c.r.group ∧ t.split? c.r = some sp
                      ∧ sp = { c.sp with stack := { e with arr := e.arr ||| c.sp.mask } :: rest, wait := .join })))
  ∧
  (∀ (f : RF) (s : State) (c : Ctx), s.ctx? = some c → c.checked = false →
      let act := c.active f.g
      (act = 0 → exec (.exit f) s = .next (s.retire c.r))
        ∧ (act ≠ 0 → c.sp.trap = none → ∀ k a, c.sp.latch = some (k, a) →
            exec (.exit f) s = .next (raise (s.updSplit c.r fun sp => { sp with latch := none })
              { c with sp := { c.sp with latch := none } } 0x0E c.sp.mask a))
        ∧ (act ≠ 0 → c.sp.trap = none → c.sp.latch = none → (∀ p ∈ c.g.splits, p.2.wait ≠ .join) →
            (c.g.splits.map (·.1)).Nodup → (∀ e ∈ s.crews, e.2.bars = [] ∧ e.2.cbarLanes = []) →
            ∃ t g, exec (.exit f) s = .next t ∧ t = { s with groups := t.groups } ∧ (∀ h, h ≠ c.r.group → t.group? h = s.group? h)
              ∧ t.group? c.r.group = some g ∧ g = { c.g with splits := g.splits, exited := c.g.exited ||| act }
              ∧ (∀ n, n ≠ c.r.split → Tbl.find? g.splits n = Tbl.find? c.g.splits n)
              ∧ (act ≠ c.sp.mask → ∃ sp, Tbl.find? g.splits c.r.split = some sp ∧ sp.mask = c.sp.mask &&& ~~~act ∧ sp.sregs = c.sp.sregs
                  ∧ sp.stack = c.sp.stack ∧ sp.fmt = c.sp.fmt ∧ (c.sp.rep = none → sp.pc = c.sp.pc + 8))
              ∧ (act = c.sp.mask → (∀ e ∈ c.sp.stack.head?, e.join = true) → Tbl.find? g.splits c.r.split = none)
              ∧ (act = c.sp.mask → ∀ e rest, c.sp.stack = e :: rest → e.join = false →
                  ∃ sp, Tbl.find? g.splits c.r.split = some sp ∧ sp.mask = e.mask ∧ sp.pc = e.pc ∧ sp.fmt = e.fmt ∧ sp.stack = rest)))

/-- R186 to R188, R274: bar, bar.arv and cbar. An arrival that does not complete the phase is counted, and the split waits, or with
bar.arv goes on; the arrival that completes it advances the phase and releases every waiting split past its instruction, with the acquire
of its scope still due before the split's next one. -/
def Obligations.BarrierResults : Prop :=
  ∀ (f : RF) (s : State) (c : Ctx), s.ctx? = some c → c.checked = false → noSinv s c.crew.core → s.tidy →
    let b := f.m 0 4
    let x := c.crew.bar b
    let count := x.count.getD (f.m 4 6)
    let need := if count = 0 then (s.groupsOf c.g.crew).length else count
    let all : Prop := c.g.alive &&& ~~~(Tbl.getD x.lanes c.g.grpid 0 ||| c.sp.mask) = 0 ∧ Tbl.getD x.lanes c.g.grpid 0 ||| c.sp.mask ≠ 0
      ∧ c.g.grpid ∉ x.came
    let past (scope : Nat) (sp : Split) : Split := { sp.advance 1 with wait := .none, acquire := max sp.acquire scope }
    (all → x.came.length + 1 < need →
        (∃ t cr, exec (.bar f) s = .next t ∧ t.crew? c.g.crew = some cr
          ∧ cr.bar b = { phase := x.phase, count := some count, came := c.g.grpid :: x.came, lanes := (cr.bar b).lanes }
          ∧ OnlySplits s { t with crews := s.crews } c.r.group
          ∧ t.split? c.r = some { c.sp with wait := .bar b x.phase, sealed := true })
        ∧ ∃ t cr sp, exec (.barArv f) s = .next t ∧ t.crew? c.g.crew = some cr
          ∧ cr.bar b = { phase := x.phase, count := some count, came := c.g.grpid :: x.came, lanes := (cr.bar b).lanes }
          ∧ OnlySplits s { t with crews := s.crews } c.r.group ∧ t.split? c.r = some sp ∧ Tbl.find? sp.arv b = some x.phase ∧ sp.wait = c.sp.wait
          ∧ (c.sp.rep = none → sp.pc = c.sp.pc + 8))
      ∧ (c.g.grpid ∈ x.came → ∃ t cr, exec (.bar f) s = .next t ∧ t.crew? c.g.crew = some cr ∧ (cr.bar b).phase = x.phase
          ∧ (cr.bar b).came = x.came ∧ t.split? c.r = some { c.sp with wait := .bar b x.phase, sealed := true })
      ∧ (all → need ≤ x.came.length + 1 → ∃ t cr, exec (.bar f) s = .next t ∧ t.crew? c.g.crew = some cr
          ∧ cr.bar b = { phase := x.phase + 1, count := none, came := [], lanes := [] }
          ∧ t.split? c.r = some (past 1 { c.sp with wait := .bar b x.phase, sealed := true })
          ∧ ∀ r sp, r ≠ c.r → s.split? r = some sp → t.split? r = some (
              if ((s.group? r.group).map (·.crew)) = some c.g.crew ∧ sp.wait = .bar b x.phase then past 1 sp else sp))
      ∧ (let b := f.m 0 2
         let phase := Tbl.getD c.launch.cordPhase (4 * c.g.cord + b) 0
         (∀ e ∈ s.crewsOf c.g.launch c.g.cord, e.1 = c.g.crew) → c.crew.launch = c.g.launch → c.crew.cord = c.g.cord →
         (∀ e ∈ s.groupsOf c.g.crew, e.1 = c.r.group) → c.crew.cbarLanes = [] →
         (c.g.alive &&& ~~~c.sp.mask = 0 → c.sp.mask ≠ 0 → ∃ t, exec (.cbar f) s = .next t
             ∧ (t.launch? c.g.launch).map (fun l => Tbl.getD l.cordPhase (4 * c.g.cord + b) 0) = some (phase + 1)
             ∧ t.split? c.r = some (past 3 { c.sp with wait := .cbar b phase, sealed := true }))
           ∧ (c.g.alive &&& ~~~c.sp.mask ≠ 0 → ∃ t cr, exec (.cbar f) s = .next t ∧ t.crew? c.g.crew = some cr
             ∧ cr.cbarOf c.g.grpid b = c.sp.mask ∧ t.launches = s.launches
             ∧ t.split? c.r = some { c.sp with wait := .cbar b phase, sealed := true }))

/-- R184, R185, R189, R275, R294: rget of a slot in the wanted phase goes on, otherwise it waits; rput changes the slot's phase; pause
lowers the split; rep runs the word after it COUNT times, from 0, or from REPCNT where tret has come back to it. -/
def Obligations.RingPauseAndRepeatResults : Prop :=
  ∀ (f : RF) (m : IF) (p : PF) (s : State) (c : Ctx), s.ctx? = some c → c.any f.g = true → c.any m.g = true → c.checked = false →
    noSinv s c.crew.core →
    let r := f.m 0 3
    let slot := (c.sp.s f.sa.toNat).toNat % max 1 (c.crew.rings.getD r 1)
    let wanted := f.m 3 1 == 1
    (c.crew.phase r slot = wanted → exec (.rget f) s = .next (s.retire c.r))
      ∧ (c.crew.phase r slot ≠ wanted → exec (.rget f) s = .next (s.waitFor c.r (.ring r slot wanted)))
      ∧ ((c.crew.ringPhase.map (·.1)).Nodup → ∃ t cr, exec (.rput f) s = .next t ∧ t.crew? c.g.crew = some cr ∧ OnlySplits s { t with crews := s.crews } c.r.group
          ∧ cr = { c.crew with ringPhase := cr.ringPhase }
          ∧ (∀ q k, q < 8 → k < 8 → slot < 8 → cr.phase q k = if q = r ∧ k = slot then !(c.crew.phase r slot) else c.crew.phase q k)
          ∧ (t.split? c.r).map (·.pc) = some ((c.sp.advance 1).pc))
      ∧ exec (.pause m) s = .next ((s.updSplit c.r fun sp => { sp with paused := true }).retire c.r)
      ∧ (let start := if c.sp.back then c.sp.repcnt else 0
         (start ≤ p.countM1.toNat →
            exec (.rep p) s = .next (s.updSplit c.r fun _ => { (c.sp.advance 1) with rep := some (p, start) }))
          ∧ (p.countM1.toNat < start → exec (.rep p) s = .next (s.updSplit c.r fun _ => c.sp.advance 2)))
      ∧ ∀ i, c.sp.rep = some (p, i) → (s.retire c.r).split? c.r = some (
          if i < p.countM1.toNat then
            { c.sp.ended with rep := some (p, i + 1) }
          else ({ c.sp with rep := none } : Split).advance 1)

/-- R189 to R193, R200 to R204, R367: clause headers. A clause that fails a check of Table 8.3 raises ILLEGAL at its header or at the
first bad word, one that the role does not permit ROLE; a wait that does not hold yet stops the split; otherwise the clause's words issue
from the first on. Pause, yield and priority events. -/
def Obligations.ClauseHeaderResults : Prop :=
  ∀ (r : SplitRef) (s : State) (c : Ctx), s.ctxOf r = some c → c.sp.pendingTrap = none → c.crew.saved = false → c.crew.preempt = false →
    c.sp.acquire = 0 →
    let h := c.sp.pc
    let issues (i : Instr) (s : State) (c : Ctx) (run : State) : Prop :=
      ∀ (s' : State) (w : W64) (ws : List W64), c.sp.resume = none → c.sp.yieldOn = [] → ClauseAt s c h s' w ws →
        let hd := Header.ofWord w
        let headOk : Prop := headerOk c.level3 w = true ∧ (hd.waitk = 1 → fld hd.waitarg 0 3 < c.crew.rings.length)
        let bad := clauseFault c.level3 hd.eng c.imageCtx 17 0 none ws
        let trap (pc : W64) (cause : Nat) : State := raiseAt s' c pc { cause := cause, mask := c.sp.mask, addr := 0, detail := 0 } 0
        let clean : Prop := headOk ∧ bad = none ∧ roleAllows c.g.role hd.eng = true
        (¬headOk → exec i run = .next (trap h 1)) ∧ (headOk → ∀ n, bad = some n → exec i run = .next (trap (h + w64 (8 * (n + 1))) 1))
          ∧ (headOk → bad = none → roleAllows c.g.role hd.eng = false → exec i run = .next (trap h 2))
          ∧ (clean → waitDone s' c hd.waitk hd.waitarg = false → exec i run = .next (s'.waitFor r (.clause hd.waitk hd.waitarg)))
          ∧ (clean → waitDone s' c hd.waitk hd.waitarg = true → noSinv s' c.crew.core → hd.billet = false ∨ c.sp.trap.isSome = true →
              exec i run = .next (s'.updSplit r fun sp =>
                { sp.ended with pc := h + 8, clause := some { header := h, eng := hd.eng, words := ws, next := 0 }, resume := none
                                issuedAt := s'.cycle, lift := 0, wait := .none }))
          ∧ (clean → waitDone s' c hd.waitk hd.waitarg = true → noSinv s' c.crew.core → hd.billet = true → c.sp.trap = none →
              c.launch.il < 2 → (s'.split? r).isSome = true → snapRows c.g r.split (takeSnapshot s' c h) ≤ 16 → ∃ t sp, exec i run = .next t ∧ t.split? r = some sp ∧ sp.pc = h + 8
                ∧ sp.billet = some (takeSnapshot s' c h) ∧ sp.sealed = false
                ∧ sp.clause = some { header := h, eng := hd.eng, words := ws, next := 0 })
    (c.sp.clause = none → c.sp.wait = .none → issues (.clauseHeader r) s c s)
      ∧ (∀ k a, c.sp.wait = .clause k a → waitDone s c k a = true →
          issues (.clauseWaitEnd r) (s.waitFor r .none) { c with sp := { c.sp with wait := .none } } s)
      ∧ (∀ k a, c.sp.wait = .clause k a → waitDone s c k a = false → exec (.clauseWaitEnd r) s = .next s)
      ∧ exec (.pauseExpiry r) s = .next (s.updSplit r fun sp => { sp with paused := false, readyAt := none })
      ∧ exec (.yieldTimeout r) s = .next (s.updSplit r fun sp => { sp with yieldOn := [], wait := if sp.wait = .yield then .none else sp.wait })
      ∧ (c.sp.wait = .none → c.sp.paused = false →
          exec (.priorityLift r) s = .next (s.updSplit r fun sp => { sp with lift := min (sp.lift + 1) (255 - c.launch.prio) }))

/-- R313, R317, R318, R320, R321: cpl, cps, cpt and cptw check their operands, and hand one command with its completion object to the
engine; the token's register waits from then on. A failed check takes no queue entry. -/
def Obligations.CopyCommandsIssue : Prop :=
  ∀ (m : MF) (f : RF) (s : State) (c : Ctx), s.ctx? = some c → c.checked = false → c.any f.g = true → c.active m.g ≠ 0 →
    let core := s.core c.crew.core
    let issued (i : Instr) (x : Command) : Prop :=
      exec i s = .next (((({ s.setCore c.crew.core { core with cmds := Tbl.put core.cmds s.seed x } with seed := s.seed + 1 } : State).updSplit
        c.r fun sp => { sp with pend := sp.pend ++ x.token.toList })).retire c.r)
    let object (x : Command) (reg : Nat) (tb sp : Bool) : Prop :=
      x.tb = (if tb then some (c.sp.s reg, sp) else none) ∧ x.token = if tb = false ∧ reg ≠ 0 then some reg else none
    let new (x : Command) : Prop := x.group = c.r.group ∧ x.split = c.r.split ∧ x.crew = c.g.crew ∧ x.also = [] ∧ x.done = [] ∧ x.got = []
      ∧ x.fail = none ∧ x.aborted = []
    (let n := memSize m.ty
     let lanes := (lanesOf (c.active m.g)).map fun l => (l, laneAddr c m n 0 l, (c.g.v m.dst.toNat l).setWidth 64)
     let reg := fld m.off 0 8
     let tb := m.off.getLsbD 8
     let tbsp := m.off.getLsbD 9
     let goes (i : Instr) (kind : CmdKind) : Prop :=
       ((∃ e ∈ lanes, e.2.1.toNat % n ≠ 0 ∨ e.2.2.toNat % n ≠ 0) → ∃ mask a, exec i s = .next (raise s c 4 mask a)
           ∧ IsMask mask fun l => ∃ e ∈ lanes, e.1 = l ∧ (e.2.1.toNat % n ≠ 0 ∨ e.2.2.toNat % n ≠ 0))
         ∧ ((∀ e ∈ lanes, e.2.1.toNat % n = 0 ∧ e.2.2.toNat % n = 0) → (tb = true → (c.sp.s reg).toNat % 16 = 0) →
            (tb = true → tbsp = true → (c.sp.s reg).toNat + 16 ≤ c.crew.scratchSize) →
            (if m.off.getLsbD 10 then ∀ e ∈ lanes, e.2.2.toNat < 196608 ∧ core.slotClaimed c.g.crew (e.2.2.toNat / 12288) = true
             else ∀ e ∈ lanes, e.2.2.toNat + n ≤ c.crew.scratchSize) →
            (core.queued (kind = .cps) < 16 → ∃ x, issued i x ∧ new x ∧ object x reg tb tbsp ∧ x.kind = kind ∧ x.size = n ∧ x.lanes = lanes
                ∧ x.oslot = m.off.getLsbD 10 ∧ x.acq = m.ord.getLsbD 0 ∧ x.rel = m.ord.getLsbD 1 ∧ x.scope = m.scope.toNat)
              ∧ (16 ≤ core.queued (kind = .cps) → exec i s = .next (s.waitFor c.r (.queue (if kind = .cps then 1 else 0)))))
     goes (.cpl m) .cpl ∧ goes (.cps m) .cps)
    ∧ (let rec_ := c.sp.trec f.sa.toNat
       let t := Record.of rec_
       let dest := c.sp.s f.dst.toNat
       let reg := f.sc.toNat
       let tb := f.m 0 1 == 1
       let tbsp := f.m 1 1 == 1
       let oslot := f.m 2 1 == 1
       let goes (i : Instr) (kind : CmdKind) : Prop :=
         (recordOk rec_ = false ∨ boxShapeOk t dest oslot = false → exec i s = .next (raise s c 1 c.sp.mask))
           ∧ (recordOk rec_ = true → boxShapeOk t dest oslot = true → oslot = false → dest.toNat % (if t.swz then 128 else 16) ≠ 0 →
              exec i s = .next (raise s c 4 c.sp.mask (sector dest)))
           ∧ (recordOk rec_ = true → boxShapeOk t dest oslot = true →
              (oslot = false → dest.toNat % (if t.swz then 128 else 16) = 0 ∧ dest.toNat + t.boxBytes ≤ c.crew.scratchSize) →
              (tb = true → (c.sp.s reg).toNat % 16 = 0 ∧ (tbsp = true → (c.sp.s reg).toNat + 16 ≤ c.crew.scratchSize)) →
              (t.space = 1 → kind = .cptw → exec i s = .next (raise s c 0x15 c.sp.mask))
              ∧ ((t.space = 1 → kind = .cpt ∧ t.inWs (s.wsBytes c.part) = true) →
                (oslot = true → ∀ k, k < t.row / 48 → core.slotClaimed c.g.crew (fld dest 0 4 + k) = true) →
                core.queued (kind = .cptw) < 16 → ∃ x, issued i x ∧ new x ∧ object x reg tb tbsp ∧ x.kind = kind ∧ x.size = t.elem
                  ∧ x.record = rec_ ∧ x.box = c.sp.s f.sb.toNat ∧ x.dest = dest ∧ x.oslot = oslot))
       goes (.cpt f) .cpt ∧ goes (.cptw f) .cptw)

/-- R313 to R316, R320, R322: a command that reads memory into the scratchpad delivers every element, 0 for one outside the extent, the
highest-numbered last, and then its token reads DONE or its barrier is updated; a cps or a generic drain whose lines the L1 owns writes
them there; a scratchpad drain writes the scratchpad; a translation fault ends a one-lane cpl with STATUS 1, the cause and the lane. -/
def Obligations.CopyCompletion : Prop :=
  ∀ (s : State) (core id : Nat) (x : Command) (g : Group) (cr : Crew) (l : Launch), FreshCommand s core id x g cr l → x.oslot = false →
    let ref : SplitRef := { group := x.group, split := x.split }
    let ws : Bool := x.kind = .cpt ∧ (Record.of x.record).space = 1
    let old (a : Nat) : Byte := (s.core core).scratchByte a
    let token (t : State) (w : W64) : Prop := ∀ r sp, x.token = some r → r ≠ 0 → s.split? ref = some sp → r ∈ sp.pend → t.sregAt ref r = w
    (∀ val : Nat → Nat, x.kind = .cpl ∨ x.kind = .cpt → (x.elems.map (·.idx)).Nodup →
        (∀ el ∈ x.elems, match el.addr with
          | some a => engineFinds s core l x.faults ws a x.size (val el.idx)
          | none => val el.idx = 0) →
        let writes := x.elems.map fun el => (cr.scratchBase + el.at_, val el.idx % 256 ^ x.size)
        let filled := bytesAfter old x.size writes
        (x.tb = none → ∃ t, exec (.copyComplete core id) s = .next t ∧ token t 0 ∧ t.cmd? core id = none ∧ t.caches = s.caches
            ∧ (∀ a, t.byteAt a = s.byteAt a) ∧ ∀ a, (t.core core).scratchByte a = filled a)
          ∧ ∀ a, x.tb = some (a, true) → ∃ t, exec (.copyComplete core id) s = .next t ∧ t.cmd? core id = none ∧ t.caches = s.caches
            ∧ let at_ := cr.scratchBase + a.toNat
              let b := leBytes ((List.range 16).map fun i => filled (at_ + i))
              ∀ p, (t.core core).scratchByte p = bytesAfter filled 16 [(at_, tbComplete b x.sectors false)] p)
      ∧ (∀ (i : Instr) (y : Nat → Xlated) (l1 : Nat → L1Line) (src : Nat → Nat), x.tb = none → (x.elems.map (·.idx)).Nodup →
          (i = .copyComplete core id ∧ x.kind = .cps ∧ ∀ el ∈ x.elems, src el.idx = (s.core core).scratchNum (cr.scratchBase + el.at_) x.size)
            ∨ (i = .drainCommandComplete core id ∧ x.kind = .drainG ∧ ∀ n, src n = (x.data.getD n 0).toNat) →
          (∀ el ∈ x.elems, ∃ a, el.addr = some a ∧ xlate s core l.tenant a .engWrite x.faults = .ok (y el.idx)
            ∧ (∃ e ∈ State.tlbOf s.mmu.l1tlb core, e.serves l.tenant a.toNat .engWrite = true) ∧ notLost s l.part ((y el.idx).pa / 128 * 128)
            ∧ Tbl.find? s.caches.l1 (lineKey core ((y el.idx).pa / 128) (y el.idx).view) = some (l1 el.idx)
            ∧ (l1 el.idx).perm = .exclusive) →
          let covers (k i : Nat) (el : CopyElem) : Bool :=
            lineKey core ((y el.idx).pa / 128) (y el.idx).view = k && (y el.idx).pa % 128 ≤ i && i < (y el.idx).pa % 128 + x.size
          ∃ t, exec i s = .next t ∧ token t 0 ∧ t.cmd? core id = none ∧ t.caches.l2 = s.caches.l2
            ∧ (∀ a, t.byteAt a = s.byteAt a) ∧ (∀ a, (t.core core).scratchByte a = old a)
            ∧ ∀ k b, Tbl.find? s.caches.l1 k = some b → ∃ b', Tbl.find? t.caches.l1 k = some b' ∧ b'.perm = b.perm ∧ ∀ i, i < 128 →
                match (x.elems.filter (covers k i)).getLast? with
                | some el => lineByte b'.data i = BitVec.ofNat 8 (src el.idx / 256 ^ (i - (y el.idx).pa % 128)) ∧ b'.dirty.getLsbD i = true
                | none => lineByte b'.data i = lineByte b.data i ∧ b'.dirty.getLsbD i = b.dirty.getLsbD i)
      ∧ (x.kind = .drainS → x.tb = none → ∃ t, exec (.drainCommandComplete core id) s = .next t ∧ token t 0 ∧ t.cmd? core id = none
          ∧ t.caches = s.caches ∧ ∀ a, (t.core core).scratchByte a =
              bytesAfter old x.size (x.elems.map fun el => (cr.scratchBase + el.at_, (x.data.getD el.idx 0).toNat % 256 ^ x.size)) a)
      ∧ ∀ lane a d cause detail, x.kind = .cpl → x.tb = none → x.lanes = [(lane, a, d)] →
          xlate s core l.tenant a .engRead x.faults = .fault (.trap cause detail) → cause < 256 →
          ∃ t w, exec (.copyComplete core id) s = .next t ∧ token t w ∧ fld w 0 8 = 1 ∧ fld w 8 8 = cause
            ∧ fld w 16 5 = (if cause = 6 then fld detail 0 5 else 0) ∧ fld w 32 32 = lane % 2 ^ 32
            ∧ t.cmd? core id = none ∧ ∀ a, (t.core core).scratchByte a = old a

/-- R324 to R326: gset opens a stream, the engine fetches its elements ahead, gget delivers the next elements of each lane (0 outside the
extent) or waits for them, and gstop ends it. With another group's stream, or registers that the elements do not fit, gget raises ILLEGAL
(for 64-bit elements this is the model's choice, log 91). -/
def Obligations.GatherStreams : Prop :=
  ∀ (f : RF) (s : State) (c : Ctx), s.ctx? = some c → c.any f.g = true → c.checked = false → noSinv s c.crew.core →
    let core := c.crew.core
    let g := f.m 0 2
    let rec_ := c.sp.trec f.sa.toNat
    let t := Record.of rec_
    let found := Tbl.find? (s.core core).streams g
    let n := f.m 2 3 + 1
    let lanes := lanesOf (c.active f.g)
    let wide (x : Stream) : Prop := (Record.of x.record).esize = 3
    let fits (x : Stream) : Prop := x.group = c.r.group
      ∧ (wide x → f.dst.toNat % 2 = 0 ∧ f.dst.toNat + 2 * n ≤ c.g.regs) ∧ (¬wide x → f.dst.toNat + n ≤ c.g.regs)
    (recordOk rec_ = false ∨ t.ndim ≠ 2 ∨ t.esize < 2 → exec (.gset f) s = .next (raise s c 1 c.sp.mask))
      ∧ (recordOk rec_ = true → t.ndim = 2 → 2 ≤ t.esize → (t.space = 1 → t.inWs (s.wsBytes c.part) = true) →
          (∀ x, found = some x → x.group = c.r.group) → ∃ x, exec (.gset f) s = .next ((s.setStream core g x).retire c.r)
            ∧ x.group = c.r.group ∧ x.split = c.r.split ∧ x.record = rec_ ∧ x.rows = lanes.map (fun l => (l, (c.g.v f.sb.toNat l).toNat))
            ∧ x.col = (c.sp.s f.sc.toNat).toNat % 2 ^ 32 ∧ x.pos = 0 ∧ x.fetched = [] ∧ x.failed = [])
      ∧ (found = none → exec (.gget f) s = .next (raise s c 1 c.sp.mask))
      ∧ (∀ x, found = some x → ¬fits x → exec (.gget f) s = .next (raise s c 1 c.sp.mask))
      ∧ (∀ x, found = some x → fits x → (∃ i l, i < n ∧ l ∈ lanes ∧ x.has (x.pos + i) l = false) →
          exec (.gget f) s = .next (s.waitFor c.r (.gather g)))
      ∧ (∀ x, found = some x → fits x → (∀ i l, i < n → l ∈ lanes → x.has (x.pos + i) l = true
            ∧ Tbl.find? x.failed (64 * (x.pos + i) + l) = none) →
          let span := if (Record.of x.record).esize = 3 then 2 else 1
          ∃ y, exec (.gget f) s = .next y
            ∧ Tbl.find? (y.core core).streams g = some { x with pos := x.pos + n }
            ∧ (∀ i l, i < n → l ∈ lanes → y.vnumAt c.r.group (f.dst.toNat + span * i) l span = (x.value (x.pos + i) l).toNat % 2 ^ (32 * span))
            ∧ (∀ k l, l < 64 → (l ∉ lanes ∨ k < f.dst.toNat ∨ f.dst.toNat + span * n ≤ k) → y.vregAt c.r.group k l = s.vregAt c.r.group k l)
            ∧ ScalarsKept s y c ∧ PredsKept s y c ∧ OthersKept s y c.r)
      ∧ (let mine := found.any fun x => x.group = c.r.group
         exec (.gstop f) s = .next ((((if mine then s.delStream core g else s)).seal c.r).retire c.r))
      ∧ ∀ (x : Stream) (pos : Nat) (val : Nat → Nat), found = some x → x.group = c.r.group → c.crew.saved = false → x.pos ≤ pos →
          pos < x.pos + 16 → (x.rows.map (·.1)).Nodup → (∀ e ∈ x.rows, e.1 < 64) → x.aborted = [] →
          (∀ q ∈ s.mmu.requests, ∀ a ∈ q.engines, a.who ≠ .stream core g) →
          (∀ e ∈ x.rows, ∀ a, x.has pos e.1 = false → x.addr pos e.1 = some a →
            engineFinds s core c.launch x.faults ((Record.of x.record).space = 1) a (Record.of x.record).elem (val e.1)) →
          ∃ y x', exec (.gatherFetchComplete core g pos) s = .next y ∧ Tbl.find? (y.core core).streams g = some x'
            ∧ x' = { x with fetched := x'.fetched }
            ∧ (∀ e ∈ x.rows, x'.has pos e.1 = true ∧ (x.has pos e.1 = false → x'.value pos e.1 = w64 (val e.1)))
            ∧ ∀ k l, l < 64 → k ≠ pos → x'.has k l = x.has k l

/-- R335, R336, R351: every X-class instruction but mprog arrives at the latch of its gang and waits there; an invalid GANG, or a group
that is split, raises ILLEGAL. mprog reads the progress of the core's array. -/
def Obligations.MatrixArrivals : Prop :=
  ∀ (fc : ClaimF) (fm : MmulF) (fd : MdrainF) (fb : MbypF) (fz : MzeroF) (fs : MsclF) (fp : MprogF) (s : State) (c : Ctx),
    s.ctx? = some c → c.checked = false →
    let x := s.core c.crew.core
    let key := 32 * c.g.crew + c.g.grpid
    (∀ i ∈ [Instr.oclaim fc, .orel fc, .mmul fm, .mmulz fm, .mdrainV fd, .mdrainS fd, .mdrainG fd, .mbyp fb, .mzero fz, .msclRow fs, .msclCol fs],
      (c.gangOk = true → c.g.splits.length = 1 →
        let a : Arrival := { member := c.r, word := c.word, gang := c.g.gang, fmt := c.sp.fmt,
                             mprog := if c.sp.back then c.sp.mprog else 0, instr := i }
        exec i s = .next ((s.setCore c.crew.core { x with latches := Tbl.put x.latches key a }).waitFor c.r (.latch key)))
      ∧ (c.gangOk = false ∨ c.g.splits.length ≠ 1 → exec i s = .next (raise s c 1 c.sp.mask)))
    ∧ ∃ t v, exec (.mprog fp) s = .next t ∧ ScalarWritten s t c fp.dst v ∧ FlagsKept s t c ∧ (x.ops = [] → v = 0)
      ∧ ∀ id op, x.ops = [(id, op)] → onArray op.instr = true → op.emulated = false → fld v 0 16 = op.blocks % 65536 ∧ fld v 16 1 = 1
          ∧ fld v 17 1 = 0 ∧ fld v 18 3 = 0 ∧ fld v 21 5 = op.keyGrp % 32 ∧ fld v 26 1 = if op.crew = c.g.crew then 1 else 0

/-- R336 to R338, R342: the latch lets a gang through once every member has arrived with the same word, GANG, FMT and MPROG; otherwise each
member raises GANG, as after a timeout. A check of R337 that fails is raised in every member; a gang that passes becomes one operation
for which its members wait. A cord form goes on to the cord latch, which lets a cord through once every crew of the image has passed its
own latch, with the same word, FMT and MPROG; a failure in one crew is raised in every arrived member of the cord.

R332, R337, R339, R342, R349: what the checks of a released operation find: a slot that the gang has not claimed raises SLOT, tiles of
different or wrong tags ILLEGAL, a bad address ALIGN or XLATE_PERM with reason 7. -/
def Obligations.LatchReleases : Prop :=
  (∀ (s : State) (core key : Nat) (a a0 : Arrival) (rest : List Arrival), Tbl.find? (s.core core).latches key = some a →
      (s.core core).gangAt key a = some (a0 :: rest) →
      let refs := (a0 :: rest).map (·.member)
      let x := s.core core
      let s' := s.setCore core { x with latches := x.latches.filter fun e => !refs.contains e.2.member }
      let same : Prop := ∀ b ∈ rest, b.word = a0.word ∧ b.gang = a0.gang ∧ b.fmt = a0.fmt ∧ b.mprog = a0.mprog ∧ b.instr = a0.instr
      let gang : Bad := { cause := 0x14, addr := 0, detail := 0 }
      (∀ g, ¬same → s.group? a0.member.group = some g → exec (.gangLatchRelease core key) s = .next (
          if (a0 :: rest).any (fun e => cordForm e.instr) then breakCord s' g.launch g.cord refs else raiseAll s' refs gang))
        ∧ (∀ c, same → s'.ctxOf a0.member = some c → (opOf c a0 refs).cord = false →
            (gangCheck s' c a0.instr a0.fmt true = none →
              exec (.gangLatchRelease core key) s = .next { releaseOp s' core s.seed (opOf c a0 refs) with seed := s.seed + 1 })
            ∧ ∀ b, gangCheck s' c a0.instr a0.fmt true = some b → exec (.gangLatchRelease core key) s = .next (raiseAll s' refs b))
        ∧ (∀ c, same → s'.ctxOf a0.member = some c → (opOf c a0 refs).cord = true →
            ∃ t, exec (.gangLatchRelease core key) s = .next t
              ∧ (∀ l, s.launch? c.g.launch = some l → (t.launch? c.g.launch).map (fun l => Tbl.find? l.cordLatch (16 * c.g.cord + c.crew.crewid)) = some (some a0)))
        ∧ (let ms := (gangMembers a.gang (key % 32)).filterMap fun m => (Tbl.find? x.latches (key / 32 * 32 + m)).map (·.member)
           (cordForm a.instr = false → exec (.gangLatchTimeout core key) s =
              .next (raiseAll (s.setCore core { x with latches := x.latches.filter fun e => !ms.contains e.2.member }) ms gang))
            ∧ ∀ g, cordForm a.instr = true → s.group? a.member.group = some g →
                exec (.gangLatchTimeout core key) s = .next (breakCord s g.launch g.cord ms)))
  ∧
  (∀ (s : State) (launch cord k0 : Nat) (l : Launch) (a0 : Arrival) (rest : List (Nat × Arrival)), s.launch? launch = some l →
      l.cordLatch.filter (fun e => e.1 / 16 = cord) = (k0, a0) :: rest →
      (cordFull s launch l cord = false → exec (.cordLatchRelease launch cord) s = .next s)
        ∧ (cordFull s launch l cord = true →
          let t : State := s.updLaunch launch fun l => { l with cordLatch := l.cordLatch.filter fun e => e.1 / 16 != cord }
          let refs := cordRefs s l cord
          let same : Prop := ∀ e ∈ rest, e.2.word = a0.word ∧ e.2.fmt = a0.fmt ∧ e.2.mprog = a0.mprog
          let rgl := match a0.instr with
            | .mmul f | .mmulz f => f.rgl.toNat
            | _ => 0
          let readsB (c : Ctx) : Bool := c.crew.crewid < (l.img.map (·.cord)).getD 1 / 2 ^ rgl
          let parts := ((k0, a0) :: rest).filterMap fun e => (t.ctxOf e.2.member).map fun c => (e.2, c)
          (¬same → exec (.cordLatchRelease launch cord) s = .next (raiseAll t refs { cause := 0x14, addr := 0, detail := 0 }))
            ∧ (same → (∀ p ∈ parts, gangCheck t p.2 p.1.instr p.1.fmt (readsB p.2) = none) →
                exec (.cordLatchRelease launch cord) s = .next (parts.foldl
                  (fun u p => releaseOp u p.2.crew.core s.seed (opOf p.2 p.1 (gangRefs t p.2.g.crew p.1.gang p.2.g.grpid)))
                  { t with seed := s.seed + 1 }))
            ∧ ∀ before p after b, same → parts = before ++ p :: after →
                (∀ q ∈ before, gangCheck t q.2 q.1.instr q.1.fmt (readsB q.2) = none) →
                gangCheck t p.2 p.1.instr p.1.fmt (readsB p.2) = some b →
                exec (.cordLatchRelease launch cord) s = .next (raiseAll t refs b)))
  ∧
  (∀ (s : State) (c : Ctx) (f : MmulF) (d : MdrainF) (o : ClaimF) (m : MsclF) (fmt : W64) (readsB : Bool),
      let x := s.core c.crew.core
      let key := 32 * c.g.crew + (gangMembers c.g.gang c.g.grpid).headD 0
      let owns (k : Nat) : Prop := Tbl.find? x.claims k = some key
      let cause (i : Instr) (n : Nat) : Prop := ∃ b, gangCheck s c i fmt readsB = some b ∧ b.cause = n
      let isInt := (descA fmt).isInt && (descB fmt).isInt
      let a := c.sp.s d.rega.toNat
      let p := c.sp.s d.regb.toNat
      (f.cord = false → (∃ k, k ≤ f.ksM1.toNat ∧ ¬owns (f.aslot.toNat + k)) → cause (.mmulz f) 0x13)
        ∧ (f.cord = false → readsB = true → (∃ k, k ≤ f.ksM1.toNat ∧ ¬owns (f.bslot.toNat + k)) → cause (.mmulz f) 0x13)
        ∧ (f.cord = false → (∃ t ∈ f.reg.tiles, x.tagAhead t ≠ isInt) → cause (.mmul f) 1)
        ∧ (f.cord = false → (∀ k, k ≤ f.ksM1.toNat → owns (f.aslot.toNat + k) ∧ owns (f.bslot.toNat + k)) →
            (descA fmt).ok 0 5 = true → (descB fmt).ok 0 5 = true → gangCheck s c (.mmulz f) fmt readsB = none
              ∧ ((∀ t ∈ f.reg.tiles, x.tagAhead t = isInt) → gangCheck s c (.mmul f) fmt readsB = none))
        ∧ ((∃ t ∈ d.reg.tiles, ∃ u ∈ d.reg.tiles, x.tagAhead t ≠ x.tagAhead u) →
            cause (.mdrainV d) 1 ∧ cause (.mdrainS d) 1 ∧ cause (.mdrainG d) 1)
        ∧ ((∀ t ∈ d.reg.tiles, ∀ u ∈ d.reg.tiles, x.tagAhead t = x.tagAhead u) →
            (a.toNat % 16 ≠ 0 ∨ p.toNat % 16 ≠ 0 ∨ p.toNat < d.reg.n * outSize fmt → cause (.mdrainS d) 4 ∧ cause (.mdrainG d) 4)
            ∧ (a.toNat % 16 = 0 → p.toNat % 16 = 0 → d.reg.n * outSize fmt ≤ p.toNat → (d.hi.getLsbD 0 = false) →
                (∃ i, i < d.reg.m ∧ c.crew.scratchSize < (a + w64 i * p).toNat + d.reg.n * outSize fmt) →
                gangCheck s c (.mdrainS d) fmt readsB =
                  some { cause := 6, addr := sector a, detail := detailWord 7 0 0 false .engWrite, va := some a })
            ∧ (outOk fmt = true → gangCheck s c (.mdrainV d) fmt readsB = none) ∧ (outOk fmt = false → cause (.mdrainV d) 1))
        ∧ ((∀ k ∈ o.slots, owns k) → gangCheck s c (.orel o) fmt readsB = none) ∧ ((∃ k ∈ o.slots, ¬owns k) → cause (.orel o) 0x13)
        ∧ gangCheck s c (.oclaim o) fmt readsB = none
        ∧ ((c.sp.s m.sa.toNat).toNat % 4 ≠ 0 → cause (.msclRow m) 4 ∧ cause (.msclCol m) 4))

/-- R328 to R331, R341, R352: a product ends: each element of its region, from the first block that is left, takes on its steps one after
another, from 0 for mmulz; mmulz tags the region's tiles; nothing else of the core changes, and the member goes on. A native pair runs on
the array, another on the control core, with the same result. An integer step is exact modulo 2^32. -/
def Obligations.MatrixProducts : Prop :=
  (∀ (f : MmulF) (s : State) (core id : Nat) (op : MatrixOp) (c : Ctx) (z : Bool), Ending s core id op c → f.reg.ok = true →
    op.instr = (if z then .mmulz f else .mmul f) →
    let x := s.core core
    let a := descA op.fmt
    let b := descB op.fmt
    let r := f.reg
    let left (i j : Nat) : Prop := op.blocks ≤ i / 8 * (r.n / 8) + j / 8
    let value (i j : Nat) : W32 := (List.range f.ks).foldl (fun v k =>
      BitVec.ofNat 32 (stepElem a b v (operandElems x a (f.aslot.toNat + k) (8 * f.arow.toNat + i))
        (operandElems x b (f.bslot.toNat + k) (8 * f.brow.toNat + j))).val) (if z then 0 else x.accAt (r.r0 + i) (r.c0 + j))
    let i := if op.emulated then Instr.emulationComplete core id else .matrixOpComplete core id
    ∃ t, exec i s = .next t ∧ AccOnly x (t.core core) ∧ Tbl.find? (t.core core).ops id = none
      ∧ (∀ i j, i < r.m → j < r.n → (left i j → (t.core core).accAt (r.r0 + i) (r.c0 + j) = value i j)
          ∧ (¬left i j → (t.core core).accAt (r.r0 + i) (r.c0 + j) = x.accAt (r.r0 + i) (r.c0 + j)))
      ∧ (∀ p q, q < 256 → (p < r.r0 ∨ r.r0 + r.m ≤ p ∨ q < r.c0 ∨ r.c0 + r.n ≤ q) → (t.core core).accAt p q = x.accAt p q)
      ∧ (∀ k, (t.core core).tag k = if z = true ∧ k ∈ r.tiles then a.isInt && b.isInt else x.tag k)
      ∧ (t.split? c.r = some (c.sp.pastJoint false)) ∧ (∀ p, t.byteAt p = s.byteAt p) ∧ t.caches = s.caches)
  ∧ ∀ (a b : Desc) (acc : W32) (av bv : List Nat), a.isInt = true → b.isInt = true →
      ((stepElem a b acc av bv).val : Int) % 2 ^ 32 =
        (acc.toInt + ((av.zip bv).map fun p => asInt 8 (a.kind == 1) p.1 * asInt 8 (b.kind == 1) p.2).sum) % 2 ^ 32

/-- R340, R344, R345, R348 to R350: the other joint operations end. oclaim and orel take and give up slots; mzero clears and tags; mscl loads
scales from the scratchpad; mbyp puts converted elements into slots; mdrain converts into lane registers, or queues a drain command. -/
def Obligations.MatrixMemoryResults : Prop :=
  ∀ (s : State) (core id : Nat) (op : MatrixOp) (c : Ctx), Ending s core id op c → op.emulated = false →
    let x := s.core core
    let ends (claim : Bool) (p : State → Core → Prop) : Prop := ∃ t, exec (.matrixOpComplete core id) s = .next t
      ∧ Tbl.find? (t.core core).ops id = none ∧ t.split? c.r = some (c.sp.pastJoint claim) ∧ p t (t.core core)
    let converted (r : RegionF) (i j : Nat) : Nat := (drainElem op.fmt (x.tag (2 * ((r.r0 + i) / 128) + (r.c0 + j) / 128))
      (x.accAt (r.r0 + i) (r.c0 + j)) (x.scaleAt (r.r0 + i)) (x.scaleAt (256 + (r.c0 + j)))).val
    (∀ f, op.instr = .oclaim f → ends true fun _ y => ∀ k, Tbl.find? y.claims k =
        if k ∈ f.slots then some (32 * op.crew + op.keyGrp) else Tbl.find? x.claims k)
      ∧ (∀ f, op.instr = .orel f → (x.claims.map (·.1)).Nodup → ends true fun _ y => ∀ k, Tbl.find? y.claims k =
          if k ∈ f.slots then none else Tbl.find? x.claims k)
      ∧ (∀ f, op.instr = .mzero f → f.reg.ok = true → ends false fun _ y => AccOnly x y ∧ ∀ p q, q < 256 → y.accAt p q =
          if f.reg.r0 ≤ p ∧ p < f.reg.r0 + f.reg.m ∧ f.reg.c0 ≤ q ∧ q < f.reg.c0 + f.reg.n then 0 else x.accAt p q)
      ∧ (∀ f, op.instr = .mzero f → ends false fun _ y => ∀ k, y.tag k = if k ∈ f.reg.tiles then f.int else x.tag k)
      ∧ (∀ f (col : Bool), op.instr = (if col then .msclCol f else .msclRow f) → ends false fun _ y => ScaleOnly x y ∧
          let base := (if col then 256 else 0) + 8 * f.first8.toNat
          ∀ n, y.scaleAt n = if base ≤ n ∧ n < base + 8 * (f.countM1.toNat + 1)
            then BitVec.ofNat 32 (x.scratchNum (c.crew.scratchBase + op.ra.toNat + 4 * (n - base)) 4) else x.scaleAt n)
      ∧ (∀ f, op.instr = .mbyp f → op.blocks = 0 → f.reg.ok = true → 8 * f.orow.toNat + f.reg.m ≤ 256 → ends false fun _ y => SlotsOnly x y ∧
          let e := outSize op.fmt
          (∀ i o, i < f.reg.m → o < pieces f op.fmt * 48 → y.operandByte (f.oslot.toNat + o / 48) (8 * f.orow.toNat + i) (o % 48) =
              if o < f.reg.n * e then BitVec.ofNat 8 (converted f.reg i (o / e) / 256 ^ (o % e)) else 0)
            ∧ ∀ slot row b, row < 256 → b < 48 → (row < 8 * f.orow.toNat ∨ 8 * f.orow.toNat + f.reg.m ≤ row ∨ slot < f.oslot.toNat
                ∨ f.oslot.toNat + pieces f op.fmt ≤ slot) → y.operandByte slot row b = x.operandByte slot row b)
      ∧ (∀ f, op.instr = .mdrainV f → op.blocks = 0 → f.reg.ok = true → ends false fun t y => (∃ ops, y = { x with ops := ops }) ∧
          let e := outSize op.fmt
          ∀ l k, l < 64 → c.g.alive.getLsbD l = true → 8 * fld f.hi 0 5 + l < f.reg.m → k ≤ fld f.hi 10 6 → ∀ b, b < 4 / e →
            let col := 8 * fld f.hi 5 5 + 4 / e * k + b
            bits (t.vregAt c.r.group (f.rega.toNat + k) l).toNat (8 * e * b) (8 * e) =
              if col < f.reg.n then converted f.reg (8 * fld f.hi 0 5 + l) col % 2 ^ (8 * e) else 0)
      ∧ ∀ f kind, (op.instr = .mdrainS f ∧ kind = .drainS) ∨ (op.instr = .mdrainG f ∧ kind = .drainG) → f.reg.ok = true →
          ∃ t y cmd, exec (.matrixOpComplete core id) s = .next t ∧ t.core core = y ∧ y.cmds = Tbl.put x.cmds id cmd
            ∧ cmd.kind = kind ∧ cmd.group = c.r.group ∧ cmd.split = c.r.split ∧ cmd.dest = op.ra ∧ cmd.pitch = op.rb ∧ cmd.cols = f.reg.n ∧ cmd.skip = op.blocks
            ∧ cmd.size = outSize op.fmt ∧ cmd.done = [] ∧ cmd.tb = (if f.hi.getLsbD 0 then some (op.rc, f.hi.getLsbD 1) else none)
            ∧ cmd.token = (if f.hi.getLsbD 0 = true ∨ f.regc = 0 then none else some f.regc.toNat)
            ∧ (∀ i j, i < f.reg.m → j < f.reg.n → op.blocks ≤ i / 8 * (f.reg.n / 8) + j / 8 → (cmd.data.getD (i * f.reg.n + j) 0).toNat = converted f.reg i j % 2 ^ 32)
            ∧ ∃ sp, t.split? c.r = some sp ∧ sp.wait = .none ∧ (∀ r, cmd.token = some r → r ∈ sp.pend)

/-- R370 to R376: the host submits launches. An armed window position is checked in order and its launch accepted, or refused with the
status that QSTAT notes; a position armed twice and a line without the arming byte are only counted. A packet is consumed, and its launch
accepted, or its refusal written to STATUSADDR; a NOP packet is only consumed. -/
def Obligations.HostLaunchSubmission : Prop :=
  ∀ (f q : Nat) (s : State), s.hostUp = true → s.wf →
    let qu := (s.func f).queue q
    (∀ tail, ∃ t, exec (.qtailWrite f q tail) s = .next t ∧ (t.func f).queue q = { qu with qtail := tail } ∧ OtherQueuesKept s t f q
      ∧ t.launches = s.launches ∧ ∀ p, t.byteAt p = s.byteAt p)
    ∧ (∀ (pos : Nat) (r : LineData),
        let counts (lo : Nat) : Prop := ∃ t, exec (.launchWindowArm f q pos r) s = .next t ∧ t.launches = s.launches ∧ OtherQueuesKept s t f q
          ∧ (t.func f).queue q = { qu with qstat := setFld qu.qstat lo 8 (min 255 (fld qu.qstat lo 8 + 1)) }
        let refused (st : Nat) : Prop := ∃ t, exec (.launchWindowArm f q pos r) s = .next t ∧ t.launches = s.launches ∧ OtherQueuesKept s t f q
          ∧ (t.func f).queue q = { qu with window := Tbl.put qu.window pos r, armed := qu.armed ++ [(pos, st)], qstat := qstatRefused qu.qstat st }
        let accepted : Prop := ∃ t l id, exec (.launchWindowArm f q pos r) s = .next t ∧ s.launchId? = some id ∧ t.launch? id = some l ∧ AsksFor l r
          ∧ l.origin = .window f q (w64 (lineField r 0x58 8)) ∧ OtherQueuesKept s t f q
          ∧ (t.func f).queue q = { qu with window := Tbl.put qu.window pos r, armed := qu.armed ++ [(pos, 0)], lastSeq := some (lineField r 0x34 4) }
        let twice : Bool := qu.armed.any fun e => e.1 = pos
        (qu.qcfg.getLsbD 5 = false ∨ lineField r 0x7F 1 ≠ 0xA5 → counts 8)
          ∧ (qu.qcfg.getLsbD 5 = true → lineField r 0x7F 1 = 0xA5 →
              (twice = true → counts 16)
              ∧ (twice = false →
                  (qu.qcfg.getLsbD 4 = false → refused 8)
                  ∧ (qu.qcfg.getLsbD 4 = true → qu.qpasid.getLsbD 31 = true → refused 6)
                  ∧ (qu.qcfg.getLsbD 4 = true → qu.qpasid.getLsbD 31 = false →
                      (lineField r 0 1 ≠ 2 → refused 2)
                      ∧ (lineField r 0 1 = 2 → recordFieldsOk r true q qu.lastSeq = false → refused 1)
                      ∧ (lineField r 0 1 = 2 → recordFieldsOk r true q qu.lastSeq = true →
                          (∀ st, st ≠ 0 → statusAsTold s f q r st → refused st) ∧ (statusAsTold s f q r 0 → accepted))))))
    ∧ (qu.qcfg.getLsbD 4 = true → qu.qcfg.getLsbD 5 = false → qu.qhead ≠ qu.qtail →
        let base := qu.qbase.toNat / 4096 * 4096 + 64 * (qu.qhead.toNat % 2 ^ qu.logN)
        let pkt := (List.range 64).map fun i => s.byteAt (2 ^ 51 + base + i)
        let op := numAt pkt 0 1
        let pasid := numAt pkt 4 4 % 2 ^ 20
        let a := numAt pkt 0x10 8
        let statusWritten (t : State) (st : Nat) : Prop :=
          if a % 8 = 0 ∧ s.hostRefuses a 8 = false then StoredAt s t (2 ^ 51 + a) 8 (4 + 256 * st) else ∀ p, t.byteAt p = s.byteAt p
        let refused (i : Instr) (st : Nat) : Prop := ∃ t, exec i s = .next t ∧ t.launches = s.launches ∧ OtherQueuesKept s t f q
          ∧ (t.func f).queue q = { qu with qhead := qu.qhead + 1, qstat := qstatRefused qu.qstat st } ∧ statusWritten t st
        (op = 0 → ∃ t, exec (.packetNop f q) s = .next t ∧ (t.func f).queue q = { qu with qhead := qu.qhead + 1 } ∧ OtherQueuesKept s t f q
            ∧ t.launches = s.launches ∧ ∀ p, t.byteAt p = s.byteAt p)
          ∧ (1 < op → refused (.packetOtherOp f q) 1)
          ∧ (op = 1 →
              (qu.qpasid.getLsbD 31 = true → refused (.packetLaunch f q) 6)
              ∧ (qu.qpasid.getLsbD 31 = false → pasid ≠ fld qu.qpasid 0 20 →
                  let known := ∃ i, i < 8 ∧ ((s.func f).queue i).qpasid.getLsbD 31 = false ∧ fld ((s.func f).queue i).qpasid 0 20 = pasid
                  (¬known → refused (.packetLaunch f q) 6) ∧ (known → refused (.packetLaunch f q) 4))
              ∧ (qu.qpasid.getLsbD 31 = false → pasid = fld qu.qpasid 0 20 → q < 8 →
                  let wrong := numAt pkt 1 3 ≠ 0 ∨ numAt pkt 4 4 / 2 ^ 20 ≠ 0 ∨ numAt pkt 8 8 % 128 ≠ 0 ∨ a % 8 ≠ 0 ∨ numAt pkt 0x18 40 ≠ 0
                  let r := lineOf ((List.range 128).map fun i => s.byteAt (2 ^ 51 + numAt pkt 8 8 + i))
                  (wrong → refused (.packetLaunch f q) 1)
                  ∧ (¬wrong →
                      (s.hostRefuses (numAt pkt 8 8) 128 = true → refused (.packetLaunch f q) 3)
                    ∧ (s.hostRefuses (numAt pkt 8 8) 128 = false →
                    (lineField r 0 1 ≠ 1 → refused (.packetLaunch f q) 2)
                      ∧ (lineField r 0 1 = 1 → recordFieldsOk r false q qu.lastSeq = false → refused (.packetLaunch f q) 1)
                      ∧ (lineField r 0 1 = 1 → recordFieldsOk r false q qu.lastSeq = true →
                          (∀ st, st ≠ 0 → statusAsTold s f q r st → refused (.packetLaunch f q) st)
                          ∧ (statusAsTold s f q r 0 → ∃ t l id, exec (.packetLaunch f q) s = .next t ∧ s.launchId? = some id
                              ∧ t.launch? id = some l ∧ AsksFor l r ∧ l.origin = .packet f q a ∧ l.words = [] ∧ (s.hostRefuses a 8 = false → StoredAt s t (2 ^ 51 + a) 8 1) ∧ OtherQueuesKept s t f q
                              ∧ (t.func f).queue q = { qu with qhead := qu.qhead + 1, lastSeq := some (lineField r 0x34 4) })))))))

/-- R273, R376 to R380, R223 to R226: launch hands the 64-byte record over and makes its token wait; a spent quota, a record whose own
fields are out of range, and a misaligned address are answered at once. The distributor checks a child record, reads and checks the image, and the launch becomes a candidate or is refused
with the status of the first check that fails. An image passes only if it has the layout of R223 to R226. -/
def Obligations.ImagesAndChildren : Prop :=
  (∀ (bs : List Byte) (im : Image), kernelImage bs = some im → ImageOk bs im)
    ∧ (∀ (f : RF) (s : State) (c : Ctx) (y : Xlated) (l1 : L1Line), s.ctx? = some c → c.any f.g = true → c.checked = false →
        noSinv s c.crew.core → c.sp.latch = none → c.sp.aborted = none → c.launch.state.live = true →
        let a := c.sp.s f.sa.toNat
        let spent : Prop := s.cquota c.launch.tenant ≤ s.children c.launch.tenant ∨ s.launchId? = none
        let record : Block := BitVec.ofNat 512 (lineField l1.data (y.pa % 128) 64)
        let n (off len : Nat) : Nat := record.toNat / 2 ^ (8 * off) % 2 ^ (8 * len)
        let fits : Prop := n 0 8 % 128 = 0 ∧ n 0x17 1 = 0 ∧ 1 ≤ n 0x18 4 ∧ n 0x18 4 ≤ 2 ^ 24 ∧ n 0x28 2 ≤ 256 ∧ n 0x2A 22 = 0
        let token (s : State) (v : W64) : State := (s.updSplit c.r fun sp =>
          { (sp.setS f.dst.toNat v) with fresh := sp.fresh.erase f.dst.toNat, sealed := true }).retire c.r
        (spent → exec (.launch f) s = .next (token s 0x101#64))
          ∧ (¬spent → a.toNat % 64 ≠ 0 → exec (.launch f) s = .next (raise s c 4 c.sp.mask (sector a)))
          ∧ (¬spent → a.toNat % 64 = 0 → InL1 s c .read a y l1 → y.pa % 64 = 0 → ¬fits →
              exec (.launch f) s = .next (token (touchL1 s c.crew.core (y.pa / 128) l1.way) 0x201#64))
          ∧ (¬spent → a.toNat % 64 = 0 → InL1 s c .read a y l1 → y.pa % 64 = 0 → fits →
              ∃ t l sp id, exec (.launch f) s = .next t ∧ s.launchId? = some id ∧ t.launch? id = some l ∧ l.state = .received
                ∧ l.record = record ∧ l.tenant = c.launch.tenant ∧ l.part = c.launch.part
                ∧ l.il = c.launch.il ∧ l.prio = c.launch.prio ∧ l.origin = .child c.r.group c.r.split f.dst.toNat
                ∧ t.split? c.r = some sp ∧ sp.sregs = c.sp.sregs
                ∧ sp.pend = c.sp.pend ++ (if f.dst = 0 then [] else [f.dst.toNat])
                ∧ SplitKept { c.sp with sealed := true, pend := sp.pend, fresh := sp.fresh } sp ∧ OthersKept s t c.r ∧ (∀ p, t.byteAt p = s.byteAt p)
                ∧ VectorsKept s t c ∧ PredsKept s t c ∧ FlagsKept s t c))
    ∧ (∀ (launch : Nat) (s : State) (x : Launch), s.launch? launch = some x → x.state = .received →
        let n (off len : Nat) : Nat := x.record.toNat / 2 ^ (8 * off) % 2 ^ (8 * len)
        let placed : Prop := fld (s.part x.part).req 0 16 ≠ 0 ∧ (s.part x.part).ports ≠ [] ∧ ∃ t p, s.tenant? x.tenant = some t ∧ t.pool = some p
        let fits : Prop := n 0 8 % 128 = 0 ∧ n 0x17 1 = 0 ∧ 1 ≤ n 0x18 4 ∧ n 0x18 4 ≤ 2 ^ 24 ∧ n 0x28 2 ≤ 256 ∧ n 0x2A 22 = 0
        (fits → placed → exec (.childRecordReceive launch) s = .next (s.updLaunch launch fun x =>
            { x with state := .accepted, image := w64 (n 0 8), args := w64 (n 8 8), threads := n 0x10 6, prio := min (n 0x16 1) x.prio
                     cords := n 0x18 4, thresh := n 0x1C 4, peak := n 0x28 2
                     deps := ([n 0x20 4, n 0x24 4].filter (· != 0)).map .launch }))
          ∧ (¬fits ∨ ¬placed → ∀ g sp r, x.origin = .child g sp r → ∃ t, exec (.childRecordReceive launch) s = .next t
              ∧ (t.launch? launch).map (·.state) = some (.refused 1)
              ∧ ∀ p, s.split? { group := g, split := sp } = some p → r ∈ p.pend → r ≠ 0 →
                  (∀ x c, s.group? g = some x → s.crew? x.crew = some c → c.saved = false) → t.sregAt { group := g, split := sp } r = 0x201#64))
    ∧ ∀ (launch : Nat) (s : State) (x : Launch), s.launch? launch = some x → x.state = .accepted → s.asking (.launch launch) = false →
        let ends (st : LaunchState) : Prop := ∃ t l, exec (.imageCheck launch) s = .next t ∧ t.launch? launch = some l ∧ l.state = st
        let answer (s1 : State) (im : Image) : Prop :=
          let per := im.cord * im.crew * im.width
          let peak := if x.peak = 0 then im.regs else x.peak
          let threads : Prop := (x.cords - 1) * per < x.threads ∧ x.threads ≤ x.cords * per
          let checked : Prop := im.integ ≤ x.il ∧ (2 ≤ x.il → im.cord ≤ 8)
          (¬threads → ends (.refused 1)) ∧ (threads → ¬checked → ends (.refused 5))
            ∧ (threads → checked → s1.neverFits x im peak = true → ends (.refused 9))
            ∧ (threads → checked → s1.neverFits x im peak = false → ∃ t, exec (.imageCheck launch) s = .next t
                ∧ t.launch? launch = some { x with img := some im, peak := peak, state := .candidate, answers := [], aborted := [], faults := [] }
                ∧ (t.part x.part).image? x.tenant x.image = some im)
        (∀ im, (s.part x.part).image? x.tenant x.image = some im → answer s im)
          ∧ ((s.part x.part).image? x.tenant x.image = none → ∀ s1 h, launchRead s launch x .read x.image.toNat 128 = (s1, .bytes h) →
              (numAt h 0x5C 4 < 128 ∨ numAt h 0 4 ≠ 0x4E4B5051 → ends (.refused 3))
              ∧ (128 ≤ numAt h 0x5C 4 → numAt h 0 4 = 0x4E4B5051 → ∀ s2 bs,
                  launchRead s1 launch x .read x.image.toNat (numAt h 0x5C 4) = (s2, .bytes bs) →
                  (kernelImage bs = none → ends (.refused 3)) ∧ ∀ im, kernelImage bs = some im → answer s2 im))

/-- R147 to R157: a walk follows the tables from the root, one index of Table 6.3 at each level, to a leaf, or stops at the entry that is
absent, malformed, or in the wrong region; a leaf gives its translation only if every check of Table 6.4 passes, and otherwise the
fault of the first that fails. -/
def Obligations.WalksFollowTheTables : Prop :=
  (∀ (s : State) (p tenant root va : Nat) (acc : Access) (up : Upper) (e0 e1 e2 : W64),
      let i (n : Nat) : Nat := if n = 0 then va / 2 ^ 39 % 2 ^ 13 else va / 2 ^ (39 - 9 * n) % 2 ^ 9
      let t1 := fld e0 16 40 * 4096
      let t2 := fld e1 16 40 * 4096
      let t3 := fld e2 16 40 * 4096
      let at0 := root + 8 * i 0
      let at1 := t1 + 8 * i 1
      let at2 := t2 + 8 * i 2
      let at3 := t3 + 8 * i 3
      let walk := walkOne s p tenant 1 false acc va up 4 root 0
      (∀ e ∈ [at0, at1, at2, at3], s.region p e = .local) → Knows up tenant 1 at0 e0 →
        (e0.getLsbD 0 = false → walk = .ok s (.error (.absent 1 0 false at0 va)))
        ∧ (e0.getLsbD 0 = true → malformed e0 0 (i 0) false = true → walk = .ok s (.error (xperm 13 1 0 false acc)))
        ∧ (Leads e0 0 (i 0) → (∀ e ∈ [at1, at2, at3], e ≠ at0) → Knows up tenant 1 at1 e1 →
            (e1.getLsbD 0 = false → walk = .ok s (.error (.absent 1 1 false at1 va)))
            ∧ (Leads e1 1 (i 1) → (∀ e ∈ [at2, at3], e ≠ at1) → Knows up tenant 1 at2 e2 → Leads e2 2 (i 2) → at3 ≠ at2 →
                ∀ e3, Knows up tenant 1 at3 e3 →
                  (e3.getLsbD 0 = false → walk = .ok s (.error (.absent 1 3 false at3 va)))
                  ∧ (e3.getLsbD 0 = true → e3.getLsbD 1 = true → malformed e3 3 (i 3) false = false →
                      ∃ l up', walk = .ok s (.ok (l, up')) ∧ l.pte = e3 ∧ l.entry = at3 ∧ l.level = 3
                        ∧ (fld e3 11 2 = 0 → l.base = fld e3 16 40 * 4096 ∧ l.size = 4096)
                        ∧ (fld e3 11 2 = 1 → l.base + i 3 % 4 * 4096 = fld e3 16 40 * 4096 ∧ l.size = 16384 ∧ l.base % 16384 = 0)
                        ∧ (fld e3 11 2 = 2 → l.base + i 3 % 16 * 4096 = fld e3 16 40 * 4096 ∧ l.size = 65536 ∧ l.base % 65536 = 0)))))
    ∧ ∀ (s : State) (p tenant va : Nat) (acc : Access) (l : Leaf) (t : Tenant), s.tenant? tenant = some t → t.s2en = false →
        fld l.pte 5 2 ≠ 3 →
        let answer := checkLeaf s p tenant va acc true l none
        let reason := regionCheck s p l.base l.size (l.pte.getLsbD 9) (fld l.pte 5 2)
        let refused (r : Nat) : Prop := answer = .ok s (.error (xperm r 1 l.level false acc))
        let unbBad : Prop := l.pte.getLsbD 9 = true ∧ (fld l.pte 5 2 ≠ 0 ∨ (l.pte.getLsbD 10 = true ∧ 65536 < l.size))
        let isLocal : Prop := l.base < 0x2000000000
        let viewBad : Prop := l.pte.getLsbD 13 = true ∧
          (l.pte.getLsbD 9 = true ∨ ¬isLocal ∨ s.localBytes p - s.localBytes p / 1024 < l.base + l.size)
        let unloaded : Prop := isLocal ∧ s.keyTag p (fld l.pte 56 6) = none
        let aliased : Prop := isLocal ∧ shadowCheck (s.part p).shadow (fld l.pte 56 6) (framesOf l.base l.size) = none
        let allowed := permitted acc (l.pte.getLsbD 2) (l.pte.getLsbD 3) (l.pte.getLsbD 4)
        (reason ≠ 0 → refused reason)
          ∧ (reason = 0 → (unbBad → refused 12)
            ∧ (¬unbBad → (viewBad → refused 9)
              ∧ (¬viewBad → (unloaded → refused 10)
                ∧ (¬unloaded → (aliased → answer = .ok s (.error (.trap 7 (detailWord 0 1 l.level false acc))))
                  ∧ (¬aliased → (allowed = false → refused 14)
                    ∧ (allowed = true → s.downAt p l.base = true → answer = .ok s (.error (.trap 0xD 0)))
                    ∧ (allowed = true → s.downAt p l.base = false → acc = .atomic → fld l.pte 5 2 = 2 → answer = .ok s (.error (.trap 0xA 0)))
                    ∧ (allowed = true → s.downAt p l.base = false → ¬(acc = .atomic ∧ fld l.pte 5 2 = 2) → 0 < l.size → ∃ t e, answer = .ok t (.ok e) ∧ e.tenant = tenant
                        ∧ e.va = va / l.size * l.size ∧ e.size = l.size ∧ e.pa = l.base ∧ e.cls = clsOf (fld l.pte 5 2)
                        ∧ e.r = l.pte.getLsbD 2 ∧ e.w = l.pte.getLsbD 3 ∧ e.x = l.pte.getLsbD 4 ∧ e.unb = l.pte.getLsbD 9
                        ∧ e.view = l.pte.getLsbD 13 ∧ e.global = l.pte.getLsbD 14 ∧ e.unused = true
                        ∧ t = s.setPart p { s.part p with shadow := (t.part p).shadow }))))))

/-- R160 to R168: a walker goes to the tenant that had one least recently; an ended walk gives its translation to every
waiter, or its fault to those of the same access; walk-ahead queues a walk whose translation goes to the engine's own TLB; a page request is written to the function's ring; a remote invalidation drops
the translations of its range. -/
def Obligations.WalksAndPageRequests : Prop :=
  (∀ (tenant i k : Nat) (w : Walk) (rest : List (Nat × Walk)) (s : State) (tn : Tenant), s.tenant? tenant = some tn →
      s.mmu.queued tenant = (i, w) :: rest → (s.mmu.running tenant).length < tn.quota →
      k < 32 → (∀ e ∈ s.mmu.walks, e.2.running ≠ some k) → (∀ j, j < k → ∃ e ∈ s.mmu.walks, e.2.running = some j) →
      (∀ e ∈ s.tenants, e.1 ≠ tenant → s.walkable e.1 = true → Tbl.getD s.mmu.lastGiven tenant 0 ≤ Tbl.getD s.mmu.lastGiven e.1 0) →
      ∃ t, exec (.walkStart tenant) s = .next t ∧ Tbl.find? t.mmu.walks i = some { w with running := some k }
        ∧ (∀ j, j ≠ i → Tbl.find? t.mmu.walks j = Tbl.find? s.mmu.walks j) ∧ Tbl.getD t.mmu.lastGiven tenant 0 = s.steps + 1
        ∧ t = { s with mmu := { s.mmu with walks := t.mmu.walks, lastGiven := t.mmu.lastGiven } })
    ∧ (∀ (walk k : Nat) (w : Walk) (s s1 : State) (o : WalkOut) (up : Upper), Tbl.find? s.mmu.walks walk = some w → w.running = some k →
        (s.mmu.walks.map (·.1)).Nodup →
        walkAll s w.tenant (w.page * 4096) w.ask.1 w.ask.2 (Tbl.getD s.mmu.upper k []) = .ok s1 (o, up) →
        ∃ t, exec (.walkComplete walk) s = .next t ∧ Tbl.find? t.mmu.walks walk = none ∧ t.mem = s1.mem ∧ t.caches = s1.caches
          ∧ (∀ e, o = .ok e →
              (∀ r core a, (.split r core, a) ∈ w.waiters →
                ({ e with unused := false } ∈ State.tlbOf t.mmu.l1tlb core ∧ { e with unused := false } ∈ State.tlbOf t.mmu.l2tlb (core / 8))
                ∧ ∀ sp, s1.split? r = some sp → sp.wait = .walk → t.split? r = some { sp with wait := .none })
              ∧ ∀ core id a, (.ahead core id, a) ∈ w.waiters → s1.recordCmd core id = true →
                ∃ x ∈ State.tlbOf t.mmu.ahead core, x.tenant = e.tenant ∧ x.va = e.va ∧ x.size = e.size ∧ x.pa = e.pa)
          ∧ (∀ f, o = .error f →
              t.mmu.l1tlb = s1.mmu.l1tlb ∧ (∀ r core, (.split r core, w.ask.1) ∈ w.waiters → ∀ sp, s1.split? r = some sp → sp.wait = .walk →
                ∃ sp', t.split? r = some sp' ∧ sp'.wait = .none ∧ Tbl.find? sp'.faults w.page = some f ∧ sp' = { sp with wait := .none, faults := sp'.faults })
              ∧ ∀ r, (∃ core a, (.split r core, a) ∈ w.waiters) → (∀ core, (.split r core, w.ask.1) ∉ w.waiters) →
                  ∀ sp, s1.split? r = some sp → sp.wait = .walk → t.split? r = some { sp with wait := .none }))
    ∧ (∀ (core id page : Nat) (s : State) (x : Command) (g : Group) (l : Launch), s.cmd? core id = some x →
        s.group? x.group = some g → s.launch? g.launch = some l → x.kind = .cpt ∨ x.kind = .cptw → (Record.of x.record).space = 0 →
        (Record.of x.record).spans page = true → page ∈ (x.pagesLeft.drop 1).take 8 → page < 2 ^ 40 →
        let holds (ts : List (Nat × List TlbEntry)) (k : Nat) : Prop := ∃ e ∈ State.tlbOf ts k, e.covers l.tenant (page * 4096) = true
        (holds s.mmu.ahead core ∨ holds s.mmu.l1tlb core ∨ holds s.mmu.l2tlb (core / 8) → exec (.walkAhead core id page) s = .next s)
          ∧ (¬(holds s.mmu.ahead core ∨ holds s.mmu.l1tlb core ∨ holds s.mmu.l2tlb (core / 8)) → exec (.walkAhead core id page) s =
              .next (queueWalk s l.tenant page (if x.kind = .cpt then .engRead else .engWrite) (.ahead core id))))
    ∧ (∀ (func : Nat) (s : State) (r : PageReq), s.wf → let f := s.func func
        s.mmu.requests.find? (fun r => r.func = func && !r.written) = some r → f.prqcfg.getLsbD 31 = true →
        (f.prqtail - f.prqhead).toNat < 2 ^ f.prqLog →
        let at_ := f.prqbase.toNat / 4096 * 4096 + 32 * (f.prqtail.toNat % 2 ^ f.prqLog)
        ∃ t, exec (.pageRequestWrite func) s = .next t ∧ (t.func func).prqtail = f.prqtail + 1 ∧ (t.func func).intstat.getLsbD 21 = true
          ∧ (∀ p, t.byteAt p = if 2 ^ 51 + at_ ≤ p ∧ p < 2 ^ 51 + at_ + 32 then (prqRecord s r).getD (p - (2 ^ 51 + at_)) 0 else s.byteAt p)
          ∧ (∀ x ∈ t.mmu.requests, x.func = func → x.slot = r.slot → x.gen = r.gen → x.written = true)
          ∧ t.mmu.requests.length = s.mmu.requests.length)
    ∧ (∀ (s : State) (r : PageReq), r.slot < 256 → r.gen < 256 → r.tenant < 65536 → r.stage < 256 → r.level < 256 →
        let bs := prqRecord s r
        bs.length = 32 ∧ numAt bs 0 1 = r.slot ∧ numAt bs 1 1 = r.gen ∧ numAt bs 2 2 = r.tenant ∧ numAt bs 16 1 = r.stage
          ∧ numAt bs 17 1 = r.level ∧ (r.addr < 2 ^ 64 → numAt bs 8 8 = r.addr) ∧ (r.entry < 2 ^ 64 → numAt bs 24 8 = r.entry))
    ∧ ∀ (link lo hi : Nat) (s : State), (s.link link).state = 2 → hi ≤ 0x4000000000 →
        let base := (link + 1) * 0x4000000000
        let hit (e : TlbEntry) : Prop := e.pa < base + hi ∧ base + lo < e.pa + e.size
        ∃ t, exec (.remoteInvalidation link lo hi) s = .next t ∧ t = { s with mmu := t.mmu } ∧ t.mmu.walks = s.mmu.walks
          ∧ t.mmu.requests = s.mmu.requests
          ∧ ∀ k e, (e ∈ State.tlbOf t.mmu.l1tlb k ↔ e ∈ State.tlbOf s.mmu.l1tlb k ∧ ¬hit e)
            ∧ (e ∈ State.tlbOf t.mmu.l2tlb k ↔ e ∈ State.tlbOf s.mmu.l2tlb k ∧ ¬hit e)
            ∧ (e ∈ State.tlbOf t.mmu.ahead k ↔ e ∈ State.tlbOf s.mmu.ahead k ∧ ¬hit e)

/-- R101 to R103: late framing. With no frame to be had the waiting accesses report UNB_EVICT; otherwise the lines go into the frame, the
leaf names it with UNB and LATE clear and A and D set, HEAD advances, the page's translations and lines are gone, and those who waited go on. -/
def Obligations.LateFraming : Prop :=
  (∀ (part : Nat) (s s1 : State) (j : LateJob) (rest : List LateJob) (l : Leaf), (s.part part).late = j :: rest →
      finalLeaf s j.tenant j.va = .ok s1 (some l) → l.pte.getLsbD 9 = true → l.pte.getLsbD 10 = true → s1.migration = none →
      s1.keyTag part (fld l.pte 56 6) ≠ none →
      let key := fld l.pte 56 6
      let p := s1.part part
      let goesOn (t : State) (mark : Split → Split → Prop) : Prop := (t.part part).late = p.late.filter (fun x => !ofPage l x)
        ∧ ∀ x ∈ p.late, ofPage l x = true → ∀ r core, .split r core ∈ x.who → ∀ sp k, s1.split? r = some sp → sp.wait = .line k →
            ∃ sp', t.split? r = some sp' ∧ sp'.wait = .none ∧ sp' = { sp with wait := .none, aborted := sp'.aborted } ∧ mark sp sp'
      let refused (cause : Nat) : Prop := ∃ t, exec (.lateFraming part) s = .next t ∧ (goesOn t fun _ _ => True)
        ∧ ∀ x xs r core ws, p.late.filter (fun x => ofPage l x) = x :: xs → x.who = .split r core :: ws → ∀ sp k, s1.split? r = some sp →
            sp.wait = .line k → (t.split? r).map (·.aborted) = some (some (cause, x.line * 128))
            ∧ ∀ r' sp', r' ≠ r → s1.split? r' = some sp' → (t.split? r').map (·.aborted) = some sp'.aborted
      (p.pool = none ∨ p.poolBad = true → refused 8)
        ∧ ∀ ring n sa sb sc tail head v, p.pool = some (ring, n) → p.poolBad = false → readPhys s1 part ring 8 = .ok sa tail →
            readPhys sa part (ring + 8) 8 = .ok sb head → readPhys sb part (ring + 64 + 8 * (head % 2 ^ n)) 8 = .ok sc v →
            sc.part part = p → sc.groups = s1.groups →
            (head = tail → refused 8)
              ∧ (head ≠ tail → ∀ frame sh, sc.poolEntry part v = some frame → shadowCheck p.shadow key [frame / 16] = some sh →
                  (∀ k ∈ pageLines l.base l.size, sc.isLost part (sc.home part (k * 128)).slice k = false) →
                  ∀ s2 s3 s4 s5 s6, frameLines sc part key frame (pageLines l.base l.size) = .ok s2 () →
                    takePhys s2 part (ring + 8) = .ok s3 () → takePhys s3 part l.run.1 = .ok s4 () →
                    rewriteRun s4 part l.run.1 l.run.2 frame = .ok s5 () → writePhys s5 part (ring + 8) 8 (head + 1) = .ok s6 () →
                    (s6.caches.l2.map (·.1)).Nodup → s6.part part = p → s6.groups = s1.groups → l.size % 128 = 0 → l.base % 128 = 0 →
                    ∃ t, exec (.lateFraming part) s = .next t ∧ (goesOn t fun sp sp' => sp'.aborted = sp.aborted)
                      ∧ (t.part part).shadow = sh
                      ∧ (∀ k, l.base ≤ k * 128 → k * 128 < l.base + l.size → Tbl.find? t.caches.l2 (lineKey part k false) = none)
                      ∧ (∀ c, ∀ e ∈ State.tlbOf t.mmu.l1tlb c ++ State.tlbOf t.mmu.l2tlb c, (s6.tenant? e.tenant).map (·.part) = some part →
                          e.pa + e.size ≤ l.base ∨ l.base + l.size ≤ e.pa)
                      ∧ t.mem = s6.mem))
    ∧ ∀ (s s1 : State) (part first frame v : Nat), frame < 2 ^ 40 → readPhys s part first 8 = .ok s1 v → v < 2 ^ 64 →
        ∃ new : W64, rewriteRun s part first 1 frame = (writePhys s1 part first 8 new.toNat).bind (fun s _ => .ok s ())
          ∧ fld new 16 40 = frame ∧ new.getLsbD 9 = false ∧ new.getLsbD 10 = false ∧ new.getLsbD 7 = true ∧ new.getLsbD 8 = true
          ∧ ∀ i, (i < 7 ∨ (10 < i ∧ i < 16) ∨ (56 ≤ i ∧ i < 64)) → new.getLsbD i = (w64 v).getLsbD i

/-- R64 to R74, R82: an event at the home slice of a line that nobody else holds does what the program's entry says: the data is merged, the
directory and the state move on, the requester's L1 receives what is granted, memory is written only by WBM, and FAULT drops the access.

R75 to R81, Tables 3.7 to 3.9: the programs of the ROM pass the checker, and their rows do what the tables say: a read shares, a write takes
the line whole or merges into it, a discard drops it unwritten, an eviction of a dirty line writes it back, and WONCE refuses a second write. -/
def Obligations.CoherenceTransitions : Prop :=
  (∀ (a : SliceAccess) (s : State) (l : L2Line) (i : Instr) (ev : Nat), (i, ev) ∈ sliceInstrs a → slicesQuiet s → s.wf → HeldAlone s a l →
      mayReach s a → let q := (s.part a.part).protoAt (a.line * 128)
      let t := q.entry l.state ev
      t.fill = false →
      let lk := lineKey a.part a.line a.view
      let data := if t.merge then mergeLine l.data a.data a.mask else l.data
      let copies (s t : State) : Prop := ∀ k, (∀ core, a.who = .l1 core → k ≠ lineKey core a.line a.view) → Tbl.find? t.caches.l1 k = Tbl.find? s.caches.l1 k
      let port := (s.home a.part (a.line * 128)).port
      (t.fault = true → ∃ u, exec i s = .next u ∧ Tbl.find? u.caches.l2 lk = some l ∧ copies s u ∧ (∀ p, u.byteAt p = s.byteAt p)
          ∧ (u.portCount port).wofault = sat32 (s.portCount port).wofault)
        ∧ (t.fault = false → (∀ core, a.who = .l1 core → (s.l1Set core (a.line % 128)).length < 4 ∧ (s.caches.l1.map (·.1)).Nodup) →
            ∃ u, exec i s = .next u ∧ copies s u
              ∧ (∀ k, k ≠ lk → Tbl.find? u.caches.l2 k = Tbl.find? s.caches.l2 k)
              ∧ Tbl.find? u.caches.l2 lk = (if t.drop = true ∨ t.next = 0 then none else
                  some { l with data := data, sharers := sharersAfter t a.who, owner := ownerAfter t a.who, state := t.next })
              ∧ (∀ core, a.who = .l1 core → t.grant ≠ 0 → ∃ x, Tbl.find? u.caches.l1 (lineKey core a.line a.view) = some x ∧ x.data = data
                  ∧ x.perm = permOf t.grant ∧ x.dirty = 0 ∧ x.valid = BitVec.allOnes 128 ∧ x.line = a.line ∧ x.core = core)
              ∧ (∀ core, a.who = .l1 core → t.grant = 0 → (ev = 3 ∨ ev = 4 ∨ ev = 8) → Tbl.find? u.caches.l1 (lineKey core a.line a.view) = none)
              ∧ ((ev = 11 → a.mask = 0) → t.wbm = false → ∀ p, u.byteAt p = s.byteAt p)
              ∧ ((ev = 11 → a.mask = 0) → t.wbm = true → s.region a.part (a.line * 128) = .local → a.view = false →
                  let base := (s.home a.part (a.line * 128)).dpa / 128 * 128
                  ∀ p, u.byteAt p = if base ≤ p ∧ p < base + 128 then lineByte data (p - base) else s.byteAt p)))
  ∧
  ((∀ q ∈ [protoINV, protoUPD, protoMIG, protoWONCE], q.firstBroken = none ∧ q.parking = some 2)
      ∧ (∀ (q : Proto) (st ev : Nat), q.firstBroken = none → st < q.attr.length → ev < 16 →
          let t := q.entry st ev
          t.next < q.attr.length ∧ t.probe ≠ 3 ∧ t.pkind ≠ 3 ∧ (t.drop = true → t.next = 0)
            ∧ (t.grant = 2 → t.clrsh = true ∧ t.setown = true ∧ q.owned t.next = true)
            ∧ (t.grant = 2 → st ≠ 0 → t.pkind = 0 ∧ t.probe = if q.owned st then 1 else 2)
            ∧ (q.dirty st = true → q.dirty t.next = false → t.wbm = true ∨ ev = 15)
            ∧ (q.owned t.next = true → t.next ≠ st → t.grant = 2)
            ∧ (q.owned st = true → t.next ≠ st → ev ≠ 3 → ev ≠ 8 → ev ≠ 4 → ev ≠ 15 → t.pdata = true ∧ t.probe = 1))
      ∧ (∀ st, 1 ≤ st → st ≤ 2 → (protoINV.entry st 0).grant = 1 ∧ (protoINV.entry st 0).addsh = true ∧ (protoINV.entry st 0).next = st
          ∧ (protoINV.entry st 1).grant = 2 ∧ (protoINV.entry st 1).next = 3 ∧ (protoINV.entry st 6).merge = true
          ∧ (protoINV.entry st 6).next = 2 ∧ (protoINV.entry st 15).drop = true ∧ (protoINV.entry st 15).wbm = false
          ∧ ((protoINV.entry st 12).wbm = true ↔ st = 2))
      ∧ (protoINV.entry 0 0).fill = true ∧ (protoINV.entry 0 0).next = 1 ∧ (protoINV.entry 3 3).merge = true ∧ (protoINV.entry 3 3).next = 2
      ∧ (∀ st, st < 4 → (protoUPD.entry st 1).grant = 3 ∧ protoMIG.attr = protoINV.attr
          ∧ ∀ ev, ev < 16 → protoMIG.entry st ev = protoINV.entry st (if ev = 0 then 1 else ev))
      ∧ ∀ st ∈ [2, 3, 4], ∀ ev ∈ [1, 2, 6, 10], (protoWONCE.entry st ev).fault = true)

/-- R37, R66, R67, R74, R88: a probe takes, lowers or updates the copies of its cluster and answers the owner's data; a peer whose write-back is
in flight answers with the write-back's data, which is consumed and counted; the last acknowledgement ends the transition, or leaves
that to the requester that still waits for it; a finished miss frees its entry.

R20 to R24, R47, R84, R85: the host's accesses of device memory. The home of a local address gives back the address; a read or write of
device memory in device bias is the slice's own event, and is answered with the line; in host bias a write goes straight to memory; an
address of no partition is refused and counted. The host's write that follows a snoop of its memory is what memory then holds. A peer's request
over a link that is not bound to the partition, or for no memory of it, is refused with an abort. -/
def Obligations.ProbesAndHostAccesses : Prop :=
  ((∀ (a : ProbeMsg) (s : State), s.region a.part (a.line * 128) = .local → a.target < 16 → (s.caches.l1.map (·.1)).Nodup →
        let key (core : Nat) : Nat := lineKey core a.line a.view
        let inside (core : Nat) : Prop := 8 * a.target ≤ core ∧ core < 8 * a.target + 8
        ∃ t d, exec (.probe a) s = .next t ∧ t.caches.acks = s.caches.acks ++ [{ a with data := d }] ∧ t.caches.probes = s.caches.probes.erase a
          ∧ (∀ k, (∀ core, inside core → k ≠ key core) → Tbl.find? t.caches.l1 k = Tbl.find? s.caches.l1 k)
          ∧ (∀ core l, inside core → Tbl.find? s.caches.l1 (key core) = some l → l.perm ≠ .sinv →
              Tbl.find? t.caches.l1 (key core) = (match a.kind with
                | .invalidate => none
                | .downgrade => some { l with perm := .shared, dirty := 0 }
                | .update => some { l with data := a.data.getD 0 }))
          ∧ (∀ core l, inside core → Tbl.find? s.caches.l1 (key core) = some l → l.perm = .exclusive → a.kind ≠ .update →
              (∀ c x, inside c → c ≠ core → Tbl.find? s.caches.l1 (key c) = some x → x.perm ≠ .exclusive) → d = some l.data)
          ∧ t.caches.l2 = s.caches.l2 ∧ ∀ p, t.byteAt p = s.byteAt p)
      ∧ (∀ (a : ProbeMsg) (s : State) (b : Busy) (l : L2Line), let lk := lineKey a.part a.line a.view
          (∀ p, s.region a.part (a.line * 128) ≠ .peer p) → Tbl.find? s.caches.busy lk = some b → a.target ∈ b.targets → b.targets.Nodup → (s.caches.busy.map (·.1)).Nodup →
          (b.targets ≠ [a.target] → ∃ t, exec (.probeAck a) s = .next t ∧ t.caches.l2 = s.caches.l2
              ∧ Tbl.find? t.caches.busy lk = some { b with targets := b.targets.erase a.target, data := a.data.orElse fun _ => b.data })
            ∧ (b.targets = [a.target] → handsOver b.event = false → s.awaited lk b = true → ∃ t, exec (.probeAck a) s = .next t
                ∧ t.caches.l2 = s.caches.l2
                ∧ Tbl.find? t.caches.busy lk = some { b with targets := [], data := a.data.orElse fun _ => b.data })
            ∧ (b.targets = [a.target] → handsOver b.event = true ∨ s.awaited lk b = false → b.update = false →
                (∀ core, b.access.who ≠ .l1 core) → Tbl.find? s.caches.l2 lk = some l → l.unb = none →
                let e := Trans.ofWord b.entry
                e.drop = false → e.wbm = false →
                let kept := b.fill.getD (if e.pdata then ((a.data.orElse fun _ => b.data).getD l.data) else l.data)
                let bit := requesterBit b.access.who
                let cleared := if e.clrsh then 0 else l.sharers
                ∃ t, exec (.probeAck a) s = .next t ∧ Tbl.find? t.caches.busy lk = none ∧ Tbl.find? t.caches.l2 lk = if e.next = 0 then none else some
                  { l with data := if e.merge then mergeLine kept b.access.data b.access.mask else kept
                           sharers := if (e.addsh || e.setown) && bit < 20 then cleared ||| BitVec.twoPow 20 bit else cleared
                           owner := if e.clrown then 31 else if e.setown then bit else l.owner
                           state := e.next }))
      ∧ (∀ (a : ProbeMsg) (s : State) (n : Nat) (w : SliceAccess) (rest : List (Nat × Instr)), s.region a.part (a.line * 128) = .local →
          16 ≤ a.target → a.target < 20 → (s.link (a.target - 16)).state = 2 → s.inputs = (n, .wb w) :: rest → w.part = a.part → w.line = a.line →
          w.view = a.view → requesterBit w.who = a.target →
          let port := (s.home a.part (a.line * 128)).port
          ∃ t, exec (.probe a) s = .next t ∧ t.inputs = rest ∧ t.caches.acks = s.caches.acks ++ [{ a with data := some w.data }]
            ∧ (t.portCount port).wbcross = sat32 (s.portCount port).wbcross ∧ t.caches.l1 = s.caches.l1 ∧ t.caches.l2 = s.caches.l2)
      ∧ ∀ (slice : Nat) (s : State), Tbl.canon 0 0 s.caches.misses = true → ∃ t, exec (.lineMissComplete slice) s = .next t ∧ Tbl.getD t.caches.misses slice 0 = Tbl.getD s.caches.misses slice 0 - 1
          ∧ (∀ k, k ≠ slice → Tbl.getD t.caches.misses k 0 = Tbl.getD s.caches.misses k 0)
          ∧ t = { s with caches := { s.caches with misses := t.caches.misses } })
  ∧
  ((∀ (s : State) (p pa : Nat), pa < s.localBytes p → let h := s.home p pa
        s.paOf p h.dpa = pa ∧ h.port ∈ (s.part p).ports ∧ h.dpa / s.portBytes = h.port ∧ h.slice / 4 = h.port ∧ h.set < 512
          ∧ ∀ pb, pb < s.localBytes p → (s.home p pb).dpa = h.dpa → pb = pa)
      ∧ ∀ (addr n : Nat) (bytes : List Byte) (s : State), s.hostUp = true → s.wf → 0 < n → addr % 128 + n ≤ 128 → bytes.length = n →
          (s.hdmPart addr = none →
            ∃ t, exec (.hdmRead addr n) s = .next t ∧ exec (.hdmWrite addr bytes) s = .next t
              ∧ t = { s with dev := { s.dev with
                        refused := t.dev.refused
                        replied := { who := .host, addr := addr, ok := false, grant := 0, data := 0 } :: s.dev.replied } }
              ∧ Tbl.getD t.dev.refused 16 0 = min 65535 (Tbl.getD s.dev.refused 16 0 + 1))
          ∧ ∀ p, s.hdmPart addr = some p → let line := s.paOf p addr / 128
              let a : SliceAccess := { part := p, line := line, view := false, who := .host, data := 0, mask := 0 }
              let w := { a with data := lineWith (addr % 128) n (leBytes bytes), mask := byteSpan (addr % 128) n }
              let served (t : State) (i : Instr) (at_ grant : Nat) (d : LineData) : Prop :=
                exec i s = .next ((t.eventServed i).answerTo .host at_ true grant d)
              (s.inHostBias p line = false → s.waitingEvents (lineKey p line false) = [] →
                (∀ t r, sliceEvent s (reqFrom s a) 9 0 0 = .ok t r →
                    served t (.hdmRead addr n) addr 0 r.data ∧ served t (.xrd a) (line * 128) r.grant r.data)
                ∧ (∀ t r, sliceEvent s (reqFrom s w) 10 w.data w.mask = .ok t r →
                    served t (.hdmWrite addr bytes) addr 0 0 ∧ served t (.xwr w) (line * 128) r.grant r.data)
                ∧ (∀ t r, sliceEvent s (reqFrom s w) 11 w.data w.mask = .ok t r →
                    exec (.snp w) s = .next (hostFollows ((t.eventServed (.snp w)).answerTo .host (line * 128) true r.grant r.data) w)))
              ∧ (s.inHostBias p line = true →
                  exec (.hdmRead addr n) s = .next (s.answerTo .host addr true 0 (s.readLocal p line (s.frameKey p line)))
                  ∧ ∃ t, exec (.hdmWrite addr bytes) s = .next t ∧ t.caches = s.caches
                    ∧ let base := (s.home p (line * 128)).dpa / 128 * 128
                      let old := s.readLocal p line (s.frameKey p line)
                      ∀ q, t.byteAt q = if base ≤ q ∧ q < base + 128 then
                          (if addr % 128 ≤ q - base ∧ q - base < addr % 128 + n then bytes.getD (q - base - addr % 128) 0 else lineByte old (q - base))
                        else s.byteAt q))
  ∧
  ((∀ (s : State) (a : SliceAccess), s.wf → s.region a.part (a.line * 128) = .host → a.mask ≠ 0 →
        ∀ p, (hostFollows s a).byteAt p = if a.line * 128 ≤ p ∧ p < a.line * 128 + 128 ∧ a.mask.getLsbD (p - a.line * 128) = true
          then lineByte a.data (p - a.line * 128) else s.byteAt p)
      ∧ ∀ (s : State) (a : SliceAccess) (l : Nat) (i : Instr) (ev : Nat), (i, ev) ∈ sliceInstrs a → a.who = .peer l → (s.link l).state = 2 →
          ¬mayReach s a → exec i s = .next (refusePeer s a l))

/-- R169 to R172, R213, R381 to R386: the first candidate that fits has its next cord placed: a crew on each chosen core, its groups at their
entries with s1 and s2 set, everything else zero; a candidate may become blocking; a broken dependence ends the launch with 0x40; a group that is
done retires, and with it its crew, cord and launch. -/
def Obligations.PlacementAndRetirement : Prop :=
  (∀ (p lid : Nat) (s : State) (l : Launch) (rest : List (Nat × Launch)) (im : Image) (cores : List (Nat × Nat)),
      (s.part p).pstate ≠ 2 → s.underTest p = false → (∀ e ∈ s.launches, e.2.part = p → depBroken s e.2 = false) →
      s.candidates p = (lid, l) :: rest → s.launch? lid = some l → l.img = some im → l.il < 2 →
      im.cord * im.crew ≤ (((s.tenant? l.tenant).map (·.freeSlots.length)).getD 0) →
      s.cordPlace p l.il im.cord (needOf l im) = some cores → l.part = p → s.freshSeed → 0 < im.width → im.width ≤ 64 →
      (∀ c g, c < im.cord → g < im.crew → ((l.placedCords * im.cord + c) * im.crew + g) * im.width < l.threads) →
      (∀ e ∈ s.groups, e.2.launch = lid → e.2.cord ≠ l.placedCords) →
      ∃ t, exec (.cordPlace p) s = .next t
        ∧ (∃ l', t.launch? lid = some l' ∧ l' = { l with placedCords := l.placedCords + 1, blocking := false
                                                         state := if l.placedCords + 1 = l.cords then .placed else l.state })
        ∧ cores.length = im.cord
        ∧ (∀ i c, cores[i]? = some c → ∃ h cr, t.crew? h = some cr ∧ cr.launch = lid ∧ cr.cord = l.placedCords ∧ cr.crewid = i
            ∧ cr.core = c.1 ∧ cr.scratchBase = c.2 ∧ cr.scratchSize = (im.scratch + 1023) / 1024 * 1024 ∧ cr.rings = im.rings
            ∧ cr.ringPhase = [] ∧ cr.bars = [] ∧ cr.saved = false
            ∧ ∀ n, n < im.crew → ∃ gh g, t.group? gh = some g ∧ Started g l lid im h l.placedCords i n)
        ∧ (∀ h, h < s.seed → t.crew? h = s.crew? h ∧ t.group? h = s.group? h))
    ∧ (∀ (p lid : Nat) (s : State) (l : Launch), (s.part p).pstate ≠ 2 → s.underTest p = false →
        s.launches.find? (fun e => e.2.part = p && !e.2.ended && e.2.placedCords = 0 && e.2.state != .received && depBroken s e.2) = some (lid, l) →
        s.launch? lid = some l → l.closing = none → (∀ e ∈ s.crews, e.2.launch ≠ lid) → s.unreleased lid l = false →
        ∃ t, exec (.cordPlace p) s = .next t ∧ (t.launch? lid).map (·.state) = some (.failed 0x40))
    ∧ (∀ (lid : Nat) (s : State) (l : Launch), s.launch? lid = some l → isCandidate s l = true →
        exec (.candidateBlocking lid) s = .next (s.updLaunch lid fun l => { l with blocking := true }))
    ∧ ∀ (gh : Nat) (s : State) (g : Group) (cr : Crew) (l : Launch), s.group? gh = some g → s.crew? g.crew = some cr →
        s.launch? g.launch = some l → g.alive = 0 → cr.saved = false → s.busyGroup gh = false →
        (∀ p ∈ s.dev.pairs, ∀ e ∈ p.2.gate, e.split.group ≠ gh) → s.tidy → (s.core cr.core).latches = [] → noSinv s cr.core →
        cr.launch = g.launch → cr.cord = g.cord →
        ∃ t, exec (.groupRetire gh) s = .next t ∧ t.group? gh = none
          ∧ ((∃ e ∈ s.groups, e.1 ≠ gh ∧ e.2.crew = g.crew) → (t.crew? g.crew).isSome = true
              ∧ (t.launch? g.launch).map (·.state) = some l.state)
          ∧ ((∀ e ∈ s.groups, e.1 ≠ gh → e.2.crew ≠ g.crew) → t.crew? g.crew = none
              ∧ ((∀ e ∈ s.crews, e.1 ≠ g.crew → ¬(e.2.launch = g.launch ∧ e.2.cord = g.cord)) → ∃ l', t.launch? g.launch = some l'
                ∧ l'.retiredCords = l.retiredCords + 1
                ∧ (l.state.live = true → l.closing = none → s.unreleased g.launch l = false →
                    l'.state = if l.retiredCords + 1 = l.cords then .done else l.state)))

/-- R163 to R167, R371, R383, R50: a reply to a page request resumes the splits whose lanes are attached to it and no other, or raises
XLATE_PERM with reason 16 in them, with the access that was attached; a reply that answers no request is counted. Preloads start once every
earlier launch has ended; done, the launch is ready; a bad entry ends it with 0x42, at once or when its writes have been made. Bytes preloaded
into the weight store read back. -/
def Obligations.RepliesAndPreloads : Prop :=
  (∀ (func : Nat) (value : BitVec 64) (s : State), s.hostUp = true →
      let tag := fld value 0 16
      let status := fld value 16 2
      let found := s.mmu.requests.find? fun r => r.func = func && r.slot + 256 * r.gen = tag
      (found = none ∨ 2 ≤ status → ∃ t, exec (.prqreply func value) s = .next t ∧ t.mmu = s.mmu ∧ t.groups = s.groups
          ∧ t.func func = { s.func func with badReply := min 65535 ((s.func func).badReply + 1) })
        ∧ (∀ r, found = some r → status = 0 → r.engines = [] → ∃ t, exec (.prqreply func value) s = .next t
            ∧ (∀ x, x ∈ t.mmu.requests ↔ x ∈ s.mmu.requests ∧ ¬(x.func = func ∧ x.slot = r.slot))
            ∧ (∀ e ∈ r.lanes, ∀ c, s.ctxOf e.split = some c → c.sp.wait = .parked → t.split? e.split = some { c.sp with wait := .none })
            ∧ (∀ x sp, (∀ e ∈ r.lanes, e.split ≠ x) → s.split? x = some sp → t.split? x = some sp)
            ∧ t = { s with groups := t.groups, mmu := t.mmu })
        ∧ ∀ r e c, found = some r → status = 1 → r.engines = [] → r.lanes = [e] → s.ctxOf e.split = some c →
            c.sp.pendingTrap = none → exec (.prqreply func value) s = .next
              (raiseVa (s.setMmu { s.mmu with requests := s.mmu.requests.filter fun x => !(x.func = func && x.slot = r.slot) })
                c 6 e.lanes e.addr (detailWord 16 r.stage r.level r.table e.access)))
    ∧ (∀ (lid : Nat) (s : State) (l : Launch), s.launch? lid = some l →
        (l.state = .candidate → l.npreload ≠ 0 → depsMet s l = true → depBroken s l = false → queueOk s l = true →
            (∀ e ∈ s.launches, e.2.part = l.part → e.2.age < l.age → e.2.ended = true) →
            exec (.preloadStart lid) s = .next (s.updLaunch lid fun l => { l with state := .preloading }))
          ∧ (l.state = .preloading → s.asking (.launch lid) = false → ∀ s1 bs,
              launchRead s lid l .engRead l.preload.toNat (16 * l.npreload) = (s1, .bytes bs) →
              (∀ s2, preloadRun s1 lid l (preloadEntries l bs) = (s2, .done) → ∃ t, exec (.preloadComplete lid) s = .next t
                  ∧ t.launch? lid = some { l with state := .ready, answers := [], aborted := [], faults := [] } ∧ t.ws = s2.ws ∧ t.mem = s2.mem)
                ∧ (0 < l.npreload → l.closing = none → numAt bs 8 4 % 16 ≠ 0 ∨ numAt bs 0 8 % 64 ≠ 0 ∨ numAt bs 12 4 ≠ 0 →
                    ∃ t l', exec (.preloadComplete lid) s = .next t ∧ t.launch? lid = some l'
                      ∧ (l'.state = .failed 0x42 ∨ l'.closing.map (·.1) = some 0x42))))
    ∧ ∀ (s : State) (p w i : Nat) (bs : List Byte), s.wf → w + bs.length ≤ s.wsBytes p → i < s.wsBytes p →
        (s.writeWs p w bs).readWsByte p i = if w ≤ i ∧ i < w + bs.length then bs.getD (i - w) 0 else s.readWsByte p i

/-- R193 to R196, R395 to R397, R404: a pre-empted crew is saved with its splits at their billets' starts, or in their barrier wait, and its
matrix operations gone; the watchdog ends a launch that has an eligible split and no work under way, with cause WATCHDOG.

R398 to R400, Table 15.6: a group's context holds its state at the offsets of the table; the lazy state of a saved crew keeps its scratchpad
bytes, slots and array, and takes a free slot of the pool; a cord resumes whole, with its contexts read
back; of a context, system software may change PC, FMT, the scalar values and the snapshot rows, and a change to any other byte leaves no
defined state. -/
def Obligations.PreemptionAndContexts : Prop :=
  ((∀ (launch cord blocks h : Nat) (s : State) (cr : Crew), s.cordCrews launch cord = [(h, cr)] → s.crew? h = some cr → cr.preempt = true →
        cr.saved = false → s.tidy → noSinv s cr.core →
        s.failing launch = false → (∀ p ∈ s.dev.pairs, ∀ e ∈ p.2.gate, ∀ g, s.group? e.split.group = some g → g.crew ≠ h) →
        (∀ e ∈ (s.core cr.core).ops, e.2.crew = h → ∀ k x op, (k, x) ∈ s.cores → Tbl.find? x.ops e.1 = some op →
          op.crew = h ∧ ∀ m ∈ op.members, ∀ g, s.group? m.group = some g → g.crew = h) →
        ∃ t, exec (.preemption launch cord blocks) s = .next t
          ∧ t.crew? h = some { cr with saved := true, preempt := false, toSave := (s.groupsOf h).map (·.1) }
          ∧ (∀ e ∈ (t.core cr.core).ops, e.2.crew ≠ h) ∧ (∀ p, t.byteAt p = s.byteAt p)
          ∧ (∀ gh g, s.group? gh = some g → g.crew ≠ h → t.group? gh = some g)
          ∧ (∀ r c n, s.ctxOf r = some c → c.g.crew = h →
              (c.sp.trap = none ∧ c.sp.waitHeader = none ∧ c.sp.clause.isSome = true ∧ c.sp.billet = some n)
                ∨ (∃ tr, c.sp.trap = some tr ∧ (tr.billet.orElse fun _ => c.sp.billet) = some n) → (∀ e ∈ (s.core cr.core).cmds, e.2.byGroup r.group = false) →
              ∃ sp, t.split? r = some sp ∧ sp.pc = n.header ∧ sp.mask = n.mask ∧ sp.fmt = n.fmt ∧ sp.trecs = n.trecs ∧ sp.sregs = n.sregs
                ∧ sp.stack = c.sp.stack.drop (c.sp.stack.length - n.depth) ∧ sp.trap = none ∧ sp.wait = .none ∧ sp.clause = none
                ∧ sp.mprog = 0 ∧ sp.repcnt = 0 ∧ sp.billet = some n)
          ∧ (∀ r c w, s.ctxOf r = some c → c.g.crew = h → c.sp.waitHeader = some w → c.sp.trap = none → ∃ sp, t.split? r = some sp
              ∧ sp.wait = c.sp.wait ∧ sp.pc = c.sp.pc ∧ sp.mask = c.sp.mask ∧ sp.fmt = c.sp.fmt
              ∧ ∀ k, (((c.launch.safeAt w).getD (0, 0)).2).getLsbD k = true → k < 64 → sp.s k = c.sp.s k))
      ∧ ∀ (launch : Nat) (s : State) (l : Launch) (r : SplitRef) (g : Group), s.launch? launch = some l → l.state.live = true →
          (s.launchBusy launch = true → exec (.watchdogFire launch) s = .next s)
            ∧ (s.launchBusy launch = false → s.tidy → s.group? r.group = some g → g.launch = launch → s.eligible r = true →
                s.failing launch = false → l.closing = none → (∀ t, s.tenant? l.tenant = some t → t.ringSet = false) →
                s.unreleased launch l = false → (∀ e ∈ s.crews, e.2.launch = launch → e.2.saved = false → noSinv s e.2.core) →
                (∀ e ∈ s.groups, e.2.launch = launch → ∃ c, s.crew? e.2.crew = some c ∧ c.launch = launch) →
                ∃ t, exec (.watchdogFire launch) s = .next t ∧ (t.launch? launch).map (·.state) = some (.failed 0x18)
                  ∧ (∀ gh x, t.group? gh = some x → x.launch ≠ launch) ∧ ∀ h c, t.crew? h = some c → c.launch ≠ launch))
  ∧
  ((∀ (l : Launch) (g : Group) (n : Nat) (sp : Split), Tbl.find? g.splits n = some sp → (∀ e ∈ g.splits, e.1 < 4) →
        (g.splits.map (·.1)).Nodup →
        let ws := contextWords l g
        let at_ (off : Nat) : W64 := ws.getD (off / 8) 0
        let o := 0x300 * n
        ws.length = 1056 ∧ (∀ i, i < 64 → ((at_ 0).getLsbD i = true ↔ ∃ e ∈ g.splits, e.1 = i)) ∧ at_ 8 = g.skew ∧ at_ 0x10 = g.gang
          ∧ at_ 0x18 = g.sticky ∧ (∀ k, 1 ≤ k → k ≤ 15 → at_ (0x18 + 8 * k) = g.pred k) ∧ at_ (0x100 + o) = sp.pc ∧ at_ (0x108 + o) = sp.mask
          ∧ at_ (0x110 + o) = sp.fmt ∧ (sp.stack.length < 2048 → fld (at_ (0x118 + o)) 0 11 = sp.stack.length ∧ fld (at_ (0x118 + o)) 11 2 = n)
          ∧ (∀ k, k < 64 → ((at_ (0x120 + o)).getLsbD k = true ↔ k ∈ contextScalars l sp))
          ∧ (∀ i, (h : i < (contextScalars l sp).length) → at_ (0x128 + o + 8 * i) = sp.s ((contextScalars l sp)[i]))
          ∧ (∀ k j, k < 8 → j < 8 → at_ (0x1A8 + o + 64 * k + 8 * j) = (sp.trec k).extractLsb' (64 * j) 64)
          ∧ ∀ i, (h : i < (contextRows l g).length) → ∀ j, j < 32 →
              at_ (0x1000 + 0x110 * i + 16 + 8 * j) = g.v ((contextRows l g)[i]) (2 * j + 1) ++ g.v ((contextRows l g)[i]) (2 * j))
      ∧ (∀ (h k : Nat) (s : State) (cr : Crew) (tn : Tenant), s.crew? h = some cr → cr.saved = true → cr.toSave = [] →
          Tbl.find? s.lazy h = none → s.tenant? (s.tenantOf cr) = some tn → tn.freeMega = some k →
          let x := s.core cr.core
          ∃ t z, exec (.lazySave h) s = .next t ∧ Tbl.find? t.lazy h = some z ∧ t.crew? h = some { cr with lazySlot := some k }
            ∧ (t.tenant? (s.tenantOf cr)).map (·.poolUsed) = some (tn.poolUsed ++ [4 * k, 4 * k + 1, 4 * k + 2, 4 * k + 3])
            ∧ (∀ a v, a < cr.scratchSize → (Tbl.find? x.scratch (cr.scratchBase + a) = some v ↔ Tbl.find? z.scratch a = some v))
            ∧ (∀ e ∈ (t.core cr.core).claims, e.2 / 32 ≠ h)
            ∧ (s.hasMatrix h = true → z.acc = x.acc ∧ z.tagI = x.tagI ∧ z.scale = x.scale ∧ ∀ e, e ∈ z.claims ↔ e ∈ x.claims ∧ e.2 / 32 = h)
            ∧ (∀ p, t.byteAt p = s.byteAt p))
      ∧ (∀ (launch cord h core base : Nat) (s s1 : State) (l : Launch) (cr : Crew) (gs : List (Nat × Group)), s.cordCrews launch cord = [(h, cr)] →
          s.crew? h = some cr → s.launch? launch = some l → cr.saved = true → cr.toSave = [] → (s.part l.part).pstate ≠ 2 →
          s.asking (.launch launch) = false → s.turnBack l = true →
          (List.range 8).findSome? (fun k => s.planBack (s.pairCores l.part l.il k) [(h, cr)] []) = some [(h, core, base)] →
          (readContexts s launch l (s.groupsOf h) = (s1, .bytes [], gs, true) → exec (.crewResume launch cord) s = .fault .contextChanged)
          ∧ (readContexts s launch l (s.groupsOf h) = (s1, .bytes [], gs, false) → (gs.map (·.1)).Nodup →
            (∀ e ∈ gs, ∀ p ∈ e.2.splits, p.2.tokens = []) → ∃ t, exec (.crewResume launch cord) s = .next t
            ∧ t.crew? h = some { cr with saved := false, core := core, scratchBase := base, lazySlot := none }
            ∧ (∀ e ∈ gs, (s1.group? e.1).isSome = true →
                t.group? e.1 = some { e.2 with splits := Tbl.mapVal (fun _ sp => { sp with acquire := 3 }) e.2.splits })
            ∧ t.launch? launch = some { l with answers := [], aborted := [], faults := [] }))
      ∧ ∀ (l : Launch) (g : Group) (ws : List W64), ws.length = 1056 → (contextChanged (contextWords l g) ws = true ↔
          ∃ i, i < 1056 ∧ ws.getD i 0 ≠ (contextWords l g).getD i 0
            ∧ (∀ n j, n < 4 → j < 16 → 8 * i ≠ 0x100 + 0x300 * n ∧ 8 * i ≠ 0x110 + 0x300 * n ∧ 8 * i ≠ 0x128 + 0x300 * n + 8 * j)
            ∧ ∀ j k, j < 16 → k < 32 → 8 * i ≠ 0x1010 + 0x110 * j + 8 * k))

/-- R58, R59, R104, R390, R423: an uncorrectable error is logged as kind 1 and charged 32 to its unit; a clean L1 line is only fetched again,
a counted L2 line becomes Lost, and who consumes the data is aborted with ECC_ABORT. A corrected error is counted and charged 1; a scrub acts as the
error that it finds, and one that finds none changes nothing but in a retired way of the L2 that still holds a line. At most two weight-store banks are in refresh. -/
def Obligations.ErrorsAndRefresh : Prop :=
  (∀ (e : ErrorSite) (s : State),
      let u := unitScore e
      let score (t : State) (n : Nat) : Prop := Tbl.getD t.dev.score u 0 = min 255 (Tbl.getD s.dev.score u 0 + n)
        ∧ (s.dev.suspth ≤ min 255 (Tbl.getD s.dev.score u 0 + n) → Tbl.getD s.dev.retired u false = false → Tbl.getD t.dev.testing u false = true)
      let logged (t : State) : Prop := Tbl.find? t.dev.errlog (s.dev.errcnt % 64) = some
        { kind := w64 (1 + unitCode e.unit * 256 + s.consumerTenant e * 65536 + e.index * 2 ^ 32), addr := w64 (e.line * 128)
          time := w64 s.cycle, part := e.part }
      let l1k := lineKey e.index e.line e.view
      (s.dev.errcnt < 2 ^ 32 → e.consumer = none → ∃ t, exec (.uncorrectableError e) s = .next t ∧ logged t ∧ score t 32
          ∧ t.groups = s.groups ∧ (t.func 0).intstat.getLsbD 22 = true
          ∧ (e.unit = .l1 → (s.caches.l1.map (·.1)).Nodup → Tbl.find? t.caches.l1 l1k = none)
          ∧ (∀ l, e.unit = .l2 → Tbl.find? s.caches.l2 (lineKey e.part e.line false) = some l → e.view = false → l.unb.isSome = true →
              (∀ b, 16 ≤ b → b < 20 → l.sharers.getLsbD b = false ∧ l.owner ≠ b) →
              (s.caches.l2.map (·.1)).Nodup → (t.isLost e.part l.slice e.line = true ∧ Tbl.find? t.caches.l2 (lineKey e.part e.line false) = none)))
        ∧ (∀ l, e.unit = .l1 → Tbl.find? s.caches.l1 l1k = some l → l.dirty = 0 → ∃ t, exec (.uncorrectableError e) s = .next t ∧ logged t
            ∧ t.groups = s.groups ∧ t.cores = s.cores)
        ∧ (∀ r c, e.consumer = some (.split r) → s.ctxOf r = some c → c.checked = false →
            (e.unit = .l2 ∨ e.unit = .mainMemory ∨ (e.unit = .l1 ∧ Tbl.find? s.caches.l1 l1k = none) →
              ∃ t, exec (.uncorrectableError e) s = .next t ∧ t.split? r = some { c.sp with aborted := some (0x0B, e.line * 128) } ∧ score t 32)
            ∧ (e.unit ≠ .l1 → e.unit ≠ .l2 → e.unit ≠ .mainMemory → ∃ s', s' = { s with dev := s'.dev } ∧ score s' 32 ∧ logged s'
                ∧ exec (.uncorrectableError e) s = .next (raise s' c 0x0B c.sp.mask (w64 (e.line * 128)))))
        ∧ (let twice : Prop := e.unit = .l2 ∧ Tbl.getD s.dev.wayErrors ((e.index * 512 + (s.home e.part (e.line * 128)).set) * 16 + e.way) 0 = 1
           ∃ t, exec (.correctedError e) s = .next t ∧ score t 1 ∧ Tbl.getD t.dev.corrected u 0 = Tbl.getD s.dev.corrected u 0 + 1
             ∧ (¬twice → t = { s with dev := t.dev })
             ∧ (twice → t.wayRetired e.index (s.home e.part (e.line * 128)).set e.way = true))
        ∧ (let set := (s.home e.part (e.line * 128)).set
           ¬(e.unit = .l2 ∧ s.wayRetired e.index set e.way = true ∧ ∃ x ∈ s.setLines e.index set, x.2.way = e.way) →
             exec (.patrolScrub e .clean) s = .next s)
        ∧ (e.unit = .l2 ∨ e.unit = .weightStore ∨ e.unit = .mainMemory →
            exec (.patrolScrub e .corrected) s = exec (.correctedError e) s
            ∧ exec (.patrolScrub e .uncorrectable) s = exec (.uncorrectableError { e with consumer := none }) s))
    ∧ ∀ (bank : Nat) (s : State), bank < 16 →
        (s.dev.refresh.length < 2 → ∃ t, exec (.refreshStart bank) s = .next t ∧ Tbl.getD t.dev.refresh bank false = true
            ∧ t = { s with dev := { s.dev with refresh := t.dev.refresh } } ∧ t.dev.refresh.length ≤ 2)
          ∧ (2 ≤ s.dev.refresh.length → exec (.refreshStart bank) s = .next s)
          ∧ ((s.dev.refresh.map (·.1)).Nodup → ∃ t, exec (.refreshEnd bank) s = .next t ∧ Tbl.getD t.dev.refresh bank false = false
              ∧ (∀ b, b ≠ bank → Tbl.getD t.dev.refresh b false = Tbl.getD s.dev.refresh b false)
              ∧ t = { s with dev := { s.dev with refresh := t.dev.refresh } })

/-- R392, R393, R306, R64, R85: an outbound read that is answered gives its split the line, with what a peer's home grants, and lets it go on; one that fails reports PEER_ABORT or
HOST_ABORT, with a record of its kind; a posted store that fails sets the latch of its split. A request of the other kind is left alone. -/
def Obligations.OutboundAnswers : Prop :=
  ∀ (req : Nat) (reply : PeerReply) (s : State) (o : Outbound) (r : SplitRef) (core : Nat) (sp : Split), Tbl.find? s.outbound req = some o →
    (s.outbound.map (·.1)).Nodup → o.who = some (.split r core) → s.split? r = some sp →
    let gone (t : State) : Prop := Tbl.find? t.outbound req = none ∧ ∀ k, k ≠ req → Tbl.find? t.outbound k = Tbl.find? s.outbound k
    let goesOn (sp' : Split) : Prop := sp'.wait = if sp.wait = .answer then .none else sp.wait
    let answers (i : Instr) (d : Answer) : Prop := ∃ t sp', exec i s = .next t ∧ gone t ∧ t.split? r = some sp' ∧ goesOn sp'
      ∧ Tbl.find? sp'.answers o.line = some d ∧ sp' = { sp with wait := sp'.wait, answers := sp'.answers } ∧ (∀ p, t.byteAt p = s.byteAt p)
    let fails (i : Instr) (cause kind : Nat) : Prop := ∃ t sp', exec i s = .next t ∧ gone t ∧ t.split? r = some sp'
      ∧ Logged s t kind (if o.link.isSome then 8 else 9) o.tenant (o.link.getD 0) (o.line * 128) o.part ∧ (t.func 0).intstat.getLsbD 22 = true
      ∧ (o.write = false → goesOn sp' ∧ sp'.aborted = some (cause, o.line * 128) ∧ sp' = { sp with wait := sp'.wait, aborted := sp'.aborted })
      ∧ (o.write = true → let failed : LatchKind × W64 := (if o.link.isSome then .peer else .host, o.va.getD (w64 (o.line * 128)))
          sp' = { sp with latch := if sp.latch.isSome then sp.latch else some failed })
    let ignored (i : Instr) : Prop := exec i s = .next s
    let settled (i : Instr) : Prop := exec i s = .next { s with outbound := Tbl.del s.outbound req }
    (o.link.isSome = true → (o.write = false → answers (.peerAnswer req reply) { grant := reply.grant, data := reply.data })
        ∧ (o.write = true → settled (.peerAnswer req reply)) ∧ fails (.peerAbort req) 0x0C 4
        ∧ fails (.peerAccessTimeout req) 0x0C 5 ∧ ignored (.hostAbort req) ∧ ignored (.hostCompletion req) ∧ ignored (.hostCompletionTimeout req))
      ∧ (o.link = none → (o.write = false → s.region o.part (o.line * 128) = .host →
            answers (.hostCompletion req)
              { grant := 0, data := lineOf ((List.range 128).map fun i => s.byteAt (2 ^ 51 + (o.line * 128 - 2 ^ 51) + i)) })
        ∧ (o.write = false → s.region o.part (o.line * 128) = .local →
            answers (.hostCompletion req) { grant := 0, data := s.readLocal o.part o.line (s.frameKey o.part o.line) })
        ∧ (o.write = true → settled (.hostCompletion req))
        ∧ fails (.hostAbort req) 0x19 8 ∧ (o.write = false → fails (.hostCompletionTimeout req) 0x19 8)
        ∧ (o.write = true → ignored (.hostCompletionTimeout req))
        ∧ ignored (.peerAnswer req reply) ∧ ignored (.peerAbort req) ∧ ignored (.peerAccessTimeout req))

/-- R394, Table 15.3, R168, R439: a link that goes down is Down; its remote translations are dropped, what was in flight on it has failed, no line
here has its peer as owner or sharer, and a record of kind 6 is logged with the error interrupt. A remote invalidation that is not acknowledged takes
the link down. A replayed flit is counted.

R109 steps 2, 4 and 5: a peer's claim closes every line of the page, or none where a slice has no room, and is answered; a claim that is
released gives them back; a line that arrives opens its place with the data and is acknowledged; the claim ends when the peer says that the
migration is complete. -/
def Obligations.PeerLinksAndClaims : Prop :=
  (∀ (link : Nat) (s : State), link < 4 →
      let up := (s.link link).state ≠ 0
      (up → s.migration = none → (s.outbound.map (·.1)).Nodup → (s.caches.l2.map (·.1)).Nodup → (s.link link).claims = [] →
          ∃ t, exec (.peerLinkDown link) s = .next t ∧ (t.link link).state = 0 ∧ (∀ p, p ≠ link → t.link p = s.link p)
            ∧ (∀ k e, e ∈ State.tlbOf t.mmu.l1tlb k ++ State.tlbOf t.mmu.l2tlb k ++ State.tlbOf t.mmu.ahead k →
                e.pa + e.size ≤ (link + 1) * 0x4000000000 ∨ (link + 2) * 0x4000000000 ≤ e.pa)
            ∧ (∀ k o, Tbl.find? t.outbound k = some o ↔ Tbl.find? s.outbound k = some o ∧ o.link ≠ some link)
            ∧ (∀ k x, Tbl.find? s.caches.l2 k = some x → ∃ y, Tbl.find? t.caches.l2 k = some y ∧ y.data = x.data ∧ y.state = x.state
                ∧ (x.part = (s.link link).bound → y.sharers = x.sharers &&& ~~~(BitVec.twoPow 20 (16 + link)) ∧ y.owner ≠ 16 + link
                  ∧ (x.owner ≠ 16 + link → y.owner = x.owner))
                ∧ (x.part ≠ (s.link link).bound → y = x))
            ∧ (∃ i x, Tbl.find? t.dev.errlog i = some x ∧ fld x.kind 0 8 = 6 ∧ fld x.kind 32 32 = link) ∧ (t.func 0).intstat.getLsbD 22 = true)
        ∧ (¬up → exec (.peerLinkDown link) s = .next s)
        ∧ ((∃ e ∈ s.outbound, e.2.isInval link = true) → up → exec (.remoteInvalTimeout link) s = exec (.peerLinkDown link) s)
        ∧ ((∀ e ∈ s.outbound, e.2.isInval link = false) → exec (.remoteInvalTimeout link) s = .next s)
        ∧ (up → ∃ t, exec (.flitReplay link) s = .next t ∧ t.link link = { s.link link with replays := min 65535 ((s.link link).replays + 1) }
            ∧ (∀ p, p ≠ link → t.link p = s.link p) ∧ t = { s with dev := { s.dev with links := t.dev.links } }))
  ∧
  ((∀ (m : ClaimMsg) (s : State), (s.link m.link).state = 2 →
        let l := s.link m.link
        let page := pageLines m.addr m.size
        let ok : Prop := 0x2000000000 ≤ m.addr ∧ m.addr + m.size ≤ 0x3000000000 ∧ m.size ∈ pageSizes ∧ m.addr % m.size = 0
        let room := page.foldl (fun (o : Option State) k => o.bind fun s => claimLine s l.bound k) (some s)
        let told (s : State) (ok : Bool) : State := s.answerTo (.peer m.link) m.addr ok 0 0
        (m.release = false → m.complete = true → ∃ t, exec (.migrationClaim m) s = .next t
              ∧ (t.link m.link).claims = l.claims.erase (m.addr, m.size) ∧ t.caches = s.caches)
          ∧ (m.release = false → m.complete = false → (¬ok ∨ room = none → exec (.migrationClaim m) s = .next (told s false))
          ∧ (ok → ∀ s1, room = some s1 → ∃ t, exec (.migrationClaim m) s = .next t
              ∧ (t.link m.link).claims = (s1.link m.link).claims ++ [(m.addr, m.size)] ∧ t.caches = s1.caches
              ∧ ∀ k ∈ page, ∃ x, Tbl.find? t.caches.l2 (lineKey l.bound k false) = some x ∧ x.unb = some (.leaving false true)))
          ∧ (m.release = true → l.claims.contains (m.addr, m.size) = false → exec (.migrationClaim m) s = .next s)
          ∧ (m.release = true → (m.addr, m.size) ∈ l.claims → (s.caches.l2.map (·.1)).Nodup → ∃ t, exec (.migrationClaim m) s = .next t
              ∧ (t.link m.link).claims = l.claims.erase (m.addr, m.size)
              ∧ ∀ k ∈ page, Tbl.find? t.caches.l2 (lineKey l.bound k false) = none))
      ∧ ∀ (link addr : Nat) (written : Bool) (data : LineData) (s : State) (x : L2Line) (c : Nat × Nat), (s.link link).state = 2 →
          let l := s.link link
          let lk := lineKey l.bound (addr / 128) false
          c ∈ l.claims → c.1 ≤ addr → addr < c.1 + c.2 → Tbl.find? s.caches.l2 lk = some x → x.unb = some (.leaving false true) →
          ∃ t y, exec (.migrationLine link addr written data) s = .next t ∧ Tbl.find? t.caches.l2 lk = some y
            ∧ y = { x with unb := some (if written then .written else .zero), data := if written then data else 0, state := y.state }
            ∧ (∀ k, k ≠ lk → Tbl.find? t.caches.l2 k = Tbl.find? s.caches.l2 k)
            ∧ (t.link link).claims = l.claims ∧ t.dev.replied = { who := .peer link, addr := addr, ok := true, grant := 0, data := 0 } :: s.dev.replied)

/-- R407 to R417, R423: an act whose copies agree takes effect: its split goes on, or its store is performed at the leading L1. One that differs, or
whose copy does not come (kind 11), is recorded and charged; an IL2 launch then fails with CHECK_FAIL, at once or when its writes have been made,
and an IL3 cord goes back to its billets.

R423: a marked unit that is idle is tested; a unit that passes returns with score 0, one that fails is retired with the error interrupt; every
score falls by one at a decay. -/
def Obligations.ComparedActs : Prop :=
  (∀ (pair : Nat) (s : State) (e : GateEntry) (rest : List GateEntry) (c : Ctx), Oldest s pair e rest c →
      (e.held = true → ∃ t, exec (.compareAct pair .agree) s = .next t ∧ (t.pair pair).gate = rest
          ∧ t.split? e.split = some { c.sp with matched := true, wait := if c.sp.wait = .check then .none else c.sp.wait }
          ∧ t.caches = s.caches ∧ t.mem = s.mem)
        ∧ (∀ x l, e.held = false → e.stores = [x] → x.disc = false → x.cls = .dir → s.remote x.part (x.line * 128) = none →
            notLost s x.part (x.line * 128) → Tbl.find? s.caches.l1 (lineKey e.core x.line x.view) = some l → l.perm = .exclusive →
            ∃ t, exec (.compareAct pair .agree) s = .next t ∧ (t.pair pair).gate = rest
              ∧ Tbl.find? t.caches.l1 (lineKey e.core x.line x.view) =
                  some { l with data := mergeLine l.data x.data x.mask, dirty := l.dirty ||| x.mask }
              ∧ (∀ k, k ≠ lineKey e.core x.line x.view → Tbl.find? t.caches.l1 k = Tbl.find? s.caches.l1 k) ∧ t.caches.l2 = s.caches.l2
              ∧ t.mem = s.mem ∧ t.groups = s.groups)
        ∧ ∀ (i : Instr) (kind lane : Nat) (lead trail : W64),
            (∃ k, i = .compareAct pair (.differs k lane trail) ∧ kind = reportKind e k ∧ lead = (if kind = 2 then e.field lane else e.lead))
              ∨ (i = .trailingCopyTimeout pair ∧ kind = 11 ∧ lane = 0 ∧ lead = e.lead ∧ trail = 0) →
            kind < 16 → kind ≠ 9 → ((s.pair pair).mmstat.getLsbD 4 = false ∨ (s.pair pair).mmstat.getLsbD 5 = false) →
            let noted (t : State) : Prop := MismatchRecorded t pair c e.split e.pc kind lane lead trail
              ∧ (t.pair pair).mmcnt = sat32 (s.pair pair).mmcnt
            let charged (t : State) : Prop := ∀ u, u = c.crew.core ∨ u = c.crew.core + 8 → Tbl.getD t.dev.score u 0 = min 255 (Tbl.getD s.dev.score u 0 + 16)
            (c.launch.il = 2 → c.launch.state.live = true → c.launch.closing = none → ∃ t l', exec i s = .next t ∧ noted t ∧ charged t
                ∧ t.launch? c.g.launch = some l' ∧ (l'.state = .failed 0x10 ∨ l'.closing.map (·.1) = some 0x10))
              ∧ (∀ n, c.launch.il = 3 → c.sp.billet = some n → c.sp.retry ≠ some n.header → ¬(kind = 7 ∧ c.sp.sealed = true) → s.tidy →
                  ∃ t sp, exec i s = .next t ∧ noted t ∧ charged t ∧ (t.pair pair).mmroll = sat32 (s.pair pair).mmroll
                    ∧ t.split? e.split = some sp ∧ sp.pc = n.header ∧ sp.mask = n.mask ∧ sp.fmt = n.fmt ∧ sp.wait = .none ∧ sp.retry = some n.header
                    ∧ (∀ x ∈ (t.pair pair).gate, ∀ g, s.group? x.split.group = some g → ¬(g.launch = c.g.launch ∧ g.cord = c.g.cord))))
  ∧
  (∀ (u : Nat) (s : State),
      (Tbl.getD s.dev.testing u false = true → s.unitIdle u = true → ∃ t, exec (.unitTestStart u) s = .next t
          ∧ Tbl.getD t.dev.inTest u false = true ∧ t = { s with dev := { s.dev with inTest := t.dev.inTest } })
        ∧ (Tbl.getD s.dev.testing u false = false ∨ s.unitIdle u = false → exec (.unitTestStart u) s = .next s)
        ∧ (u < 128 → (s.unitIdle u = true ↔ ∀ e ∈ s.crews, e.2.saved = false →
            e.2.core ≠ u ∧ ¬(e.2.core + 8 = u ∧ (s.pair (e.2.core / 16)).mode ≠ 0)))
        ∧ (Tbl.getD s.dev.inTest u false = true → (s.dev.inTest.map (·.1)).Nodup → (s.dev.testing.map (·.1)).Nodup →
            (s.dev.score.map (·.1)).Nodup → ∀ passed, ∃ t, exec (.unitTestDone u passed) s = .next t
              ∧ Tbl.getD t.dev.inTest u false = false ∧ Tbl.getD t.dev.testing u false = false
              ∧ (passed = true → Tbl.getD t.dev.score u 0 = 0 ∧ t.dev.retired = s.dev.retired)
              ∧ (passed = false → Tbl.getD t.dev.retired u false = true ∧ (t.func 0).intstat.getLsbD 22 = true))
        ∧ ((s.dev.score.map (·.1)).Nodup → ∃ t, exec .scoreDecay s = .next t ∧ t = { s with dev := { s.dev with score := t.dev.score } }
            ∧ ∀ v, Tbl.getD t.dev.score v 0 = Tbl.getD s.dev.score v 0 - 1))

/-- R25, R163, R373, R437 and the register tables: the host writes registers in 4 or 8 aligned bytes: RW bits take the value, W1C bits clear, the
others stay, and a write of any other size or alignment does nothing.

R438, R442, R444: resets, power, temperature and clocks. A device reset leaves everything as after reset but the stored bytes of memory, under a
new key 0; a good supply lets the Collier measure and run its firmware; the ready firmware locks the boot chain and lets the host in. -/
def Obligations.RegisterWritesAndResets : Prop :=
  (∀ (f q off size : Nat) (v : BitVec 64) (s : State), s.hostUp = true → q < 8 →
      let fn := s.func f
      let qu := fn.queue q
      let vf : Prop := 1 ≤ f ∧ f < 64
      let qoff : Nat := if f = 0 then 0x300000 + 4096 * q else 4096 * q
      let poff : Nat := if f = 0 then 0x380000 else 0x8000
      let ioff : Nat := if f = 0 then 0x1000 else 0x9000
      let wr (o : Nat) : Instr := .registerWrite f o 8 v
      let setsQ (o : Nat) (x : Queue) : Prop := exec (wr (qoff + o)) s = .next (s.setQueue f q x)
      let setsF (o : Nat) (x : Func) : Prop := exec (wr o) s = .next (s.setFunc f x)
      let take (old : W64) (rw : W64) : W64 := (old &&& ~~~rw) ||| (v &&& rw)
      (size ≠ 4 → size ≠ 8 → exec (.registerWrite f off size v) s = .next s)
        ∧ (off % size ≠ 0 → exec (.registerWrite f off size v) s = .next s)
        ∧ (f = 0 ∨ vf →
            setsQ 0x00 { qu with qbase := take qu.qbase (ones 12 52) } ∧ setsQ 0x08 { qu with qcfg := take qu.qcfg (ones 0 6 ||| ones 16 16) }
              ∧ setsQ 0x10 { qu with qpasid := take qu.qpasid (ones 0 20 ||| ones 31 1) }
              ∧ setsQ 0x20 { qu with qirq := take qu.qirq (ones 0 11 ||| ones 31 1) }
              ∧ setsQ 0x28 { qu with qstat := qu.qstat &&& ~~~(v &&& ones 8 24) }
              ∧ setsQ 0x30 { qu with qquota := take qu.qquota (ones 0 11) }
              ∧ setsF poff { fn with prqbase := take fn.prqbase (ones 12 52) }
              ∧ setsF (poff + 8) { fn with prqcfg := take fn.prqcfg (ones 0 4 ||| ones 31 1) }
              ∧ setsF (poff + 0x18) { fn with prqhead := v.setWidth 32 }
              ∧ exec (wr (poff + 0x20)) s = exec (.prqreply f v) s
              ∧ setsF ioff { fn with intstat := fn.intstat &&& ~~~(v &&& ones 0 31) }
              ∧ setsF (ioff + 8) { fn with intcfg := take fn.intcfg (ones 0 36) }
              ∧ ∃ t x, exec (.registerWrite f (ioff + 12) 4 v) s = .next t ∧ t = s.setFunc f x ∧ fld x.intcfg 0 32 = fld fn.intcfg 0 32
                  ∧ fld x.intcfg 32 4 = fld v 0 4 ∧ x = { fn with intcfg := x.intcfg })
        ∧ (exec (.registerWrite 0 0x5008 8 v) s = .next (s.setDev { s.dev with errIrqEn := v.getLsbD 0 }))
        ∧ (s.dev.locked = false → exec (.registerWrite 0 0x100040 8 v) s = .next s)
        ∧ (s.dev.locked = true → exec (.registerWrite 0 0x100040 8 v) s = .next (s.setDev { s.dev with ccgo := s.dev.ccgo || v.getLsbD 0 }))
        ∧ (exec (.registerWrite 0 0x208040 8 v) s = .next (s.setDev { s.dev with mbgo := s.dev.mbgo || v.getLsbD 0 }))
        ∧ (s.dev.mbgo = true → exec (.registerWrite 0 0x208000 8 v) s = .next s)
        ∧ ∀ k, k < 8 → s.dev.mbgo = false → ∃ t, exec (.registerWrite 0 (0x208000 + 8 * k) 8 v) s = .next t
            ∧ t.dev.mbcmd.extractLsb' (64 * k) 64 = v ∧ (∀ j, j < 8 → j ≠ k → t.dev.mbcmd.extractLsb' (64 * j) 64 = s.dev.mbcmd.extractLsb' (64 * j) 64))
  ∧
  (∀ (f : Nat) (s : State), let p := s.dev.pins
      (s.hostUp = true → 1 ≤ f → f < 64 → ∃ t, exec (.flr f) s = .next t ∧ t.func f = { s.func f with queues := [] } ∧ (∀ g, g ≠ f → t.func g = s.func g)
          ∧ t = { s with dev := { s.dev with funcs := t.dev.funcs } })
        ∧ (∃ t, exec .deviceReset s = .next t ∧ t.mem = s.mem ∧ t.ws = s.ws ∧ t.dev.boots = s.dev.boots + 1 ∧ t.launches = [] ∧ t.crews = []
            ∧ t.groups = [] ∧ t.cores = [] ∧ t.tenants = [] ∧ t.parts = State.reset.parts ∧ t.caches = Caches.reset ∧ t.mmu = Mmu.reset
            ∧ t.dev.keys = [] ∧ t.dev.funcs = [] ∧ t.dev.pins = Device.reset.pins ∧ t.dev.locked = false ∧ t.cycle = 0
            ∧ ∀ q k, k = 0 → t.keyTag q k = some (.zero (s.dev.boots + 1)))
        ∧ (p.heldReset = true → s.straps.bootOk = true → ∃ t, exec .powerGood s = .next t ∧ t.dev.pins = { p with heldReset := false }
            ∧ t.dev.meas = Tbl.put s.dev.meas 0 (sha3 (toBytes 32 (Tbl.getD s.dev.meas 0 0).toNat ++ toBytes 32 s.straps.digest.toNat))
            ∧ t = { s with dev := { s.dev with pins := t.dev.pins, meas := t.dev.meas } })
        ∧ (p.heldReset = true → s.straps.bootOk = false →
            exec .powerGood s = .next (s.setDev { s.dev with pins := { p with heldReset := false, linkReset := false } }))
        ∧ (p.heldReset = false → s.dev.locked = false → s.straps.bootOk = true →
            exec .firmwareReady s = .next (s.setDev { s.dev with locked := true, pins := { p with linkReset := false } }))
        ∧ (p.heldReset = true ∨ s.dev.locked = true ∨ s.straps.bootOk = false → exec .firmwareReady s = .next s)
        ∧ (∃ t, exec .perst s = .next t ∧ t = { s with dev := { s.dev with funcs := t.dev.funcs } }
            ∧ ∀ g, (t.func g).queues = [] ∧ t.func g = { s.func g with queues := [] })
        ∧ exec .thermalHold s = .next (s.setDev { s.dev with pins := { p with slow := true } })
        ∧ exec .thermalHoldEnd s = .next (s.setDev { s.dev with pins := { p with slow := false } })
        ∧ exec .thermalTrip s = .next (s.setDev { s.dev with pins := { p with thermTrip := true, shutdown := true } })
        ∧ exec .clockMonitorFail s = .next (s.setDev { s.dev with pins := { p with clockFail := true, safeLow := true } }))

/-- R422, R425, R436, R443, R456: the Collier's commands. Each checks its block and its pair, and is refused with the STATUS of the first check
that fails, or takes effect; pairing asks the crews to leave and goes on once none is left. -/
def Obligations.CollierCommands : Prop :=
  ∀ (s : State), s.dev.mbgo = true → s.dev.pins.heldReset = false →
    let k := s.mb 4 1
    let p := s.pair k
    let op (n : Nat) : Prop := s.mb 0 4 = n
    let refused (i : Instr) (st : Nat) : Prop := ∃ t, exec i s = .next t ∧ MbRefused s t st
    let zero : Prop := s.mbZero 5 = true
    let becomes (i : Instr) (x : Pair) : Prop := ∃ t, exec i s = .next t ∧ MbDone s t 0 ∧ t.pair k = x ∧ (∀ j, j ≠ k → t.pair j = s.pair j)
      ∧ t.mem = s.mem ∧ t.launches = s.launches
    let asked (i : Instr) (cores : List Nat) (x : Pair) : Prop := ∃ t, exec i s = .next t ∧ t.dev.mbgo = true ∧ t.pair k = x
      ∧ ∀ h c, s.crew? h = some c → t.crew? h = some { c with preempt := c.preempt || (cores.contains c.core && !c.saved) }
    (op 0x31 → (8 ≤ k ∨ ¬zero → refused .pair 1)
        ∧ (k < 8 → zero → p.mode ≠ 1 →
            let parts : Prop := (s.clusterPart (2 * k)).isSome = true ∧ s.clusterPart (2 * k) = s.clusterPart (2 * k + 1)
            (¬parts → refused .pair 2) ∧ (parts → p.mode ≠ 0 → refused .pair 3)
              ∧ (parts → p.mode = 0 → (∃ c ∈ pairedCores k, s.coreRetired c = true) → refused .pair 4)
              ∧ (parts → p.mode = 0 → (∀ c ∈ pairedCores k, s.coreRetired c = false) → asked .pair (pairedCores k) { p with mode := 1 }))
        ∧ (k < 8 → zero → p.mode = 1 → (s.coresLeft (pairedCores k) = false → exec .pair s = .next s)
            ∧ ∀ s1, s.coresLeft (pairedCores k) = true → clearPair s k (pairedCores k) = .ok s1 () → s1.dev = s.dev →
                ∃ t, exec .pair s = .next t ∧ MbDone s t 0 ∧ t.pair k =
                  { p with mode := 2, apart := false, gate := [], inject := none, mmstat := setFld p.mmstat 4 1 0 }))
      ∧ (op 0x32 → (8 ≤ k ∨ ¬zero → refused .unpair 1) ∧ (k < 8 → zero → p.mode = 0 ∨ p.mode = 1 → refused .unpair 3)
          ∧ (k < 8 → zero → p.mode = 2 ∨ p.mode = 3 →
              asked .unpair (leadingCores k) { p with mode := 4, apart := decide (p.mode = 3), inject := none })
          ∧ (k < 8 → zero → p.mode = 4 → (s.coresLeft (leadingCores k) = false ∨ p.gate ≠ [] → exec .unpair s = .next s)
              ∧ ∀ s1, s.coresLeft (leadingCores k) = true → p.gate = [] → clearPair s k (leadingCores k) = .ok s1 () → s1.dev = s.dev →
                  ∃ t, exec .unpair s = .next t ∧ MbDone s t 0 ∧ t.pair k = { p with mode := if p.apart then 3 else 0, gate := [] }))
      ∧ (op 0x33 → (8 ≤ k ∨ ¬zero → refused .release 1) ∧ (k < 8 → zero → p.mode ≠ 3 → refused .release 3)
          ∧ (k < 8 → zero → p.mode = 3 →
              becomes .release { p with mode := if p.apart then 0 else 2, apart := false, mmstat := setFld p.mmstat 4 1 0 }))
      ∧ (op 0x34 → let n := s.mb 5 1
          let th := s.mb 6 1
          let ok : Prop := k < 16 ∧ 20 ≤ n ∧ n ≤ 36 ∧ (th = 0 ∨ 8 ≤ th) ∧ s.mbZero 7 = true
          (¬ok → refused .limits 1) ∧ (ok → ∃ t, exec .limits s = .next t ∧ MbDone s t 0 ∧ t.part k = { s.part k with wdLog := n }
            ∧ t.dev.suspth = if th = 0 then s.dev.suspth else th))
      ∧ (op 0x35 → let id := s.mb 4 1
          let q := s.mb 5 1
          let off := s.mb 8 4
          let ok : Prop := 1 ≤ id ∧ id ≤ 63 ∧ q < 16 ∧ off + 72 ≤ stageSize ∧ s.mb 6 2 = 0 ∧ s.mbZero 0x0C = true
          (¬ok ∨ unwrapKeys (s.stageBytes off 72) = none → refused .keyload 1)
            ∧ ∀ m, ok → unwrapKeys (s.stageBytes off 72) = some m → ∃ t, exec .keyload s = .next t ∧ MbDone s t 0
                ∧ t.keyTag q id = some (.loaded m) ∧ ∀ a b, b ≠ 0 → b < 64 → (a ≠ q ∨ b ≠ id) → t.keyTag a b = s.keyTag a b)
      ∧ (op 0x36 → (16 ≤ k ∨ ¬zero → refused .preset 1)
          ∧ (k < 16 → zero → s.tidy → ∃ t, exec .preset s = .next t ∧ MbDone s t 0 ∧ (∀ j, (t.tenant? j).isSome = (s.tenant? j).isSome)
              ∧ (∀ l x, s.launch? l = some x → x.part = k → x.state.live = true → (t.launch? l).map (·.state) = some (.failed 0x41))
              ∧ (∀ h c l, s.crew? h = some c → s.launch? c.launch = some l → l.part = k → l.state.live = true → t.crew? h = none)
              ∧ (t.part k).lost = [] ∧ (t.part k).lostAll = [] ∧ (t.part k).req = (s.part k).req
              ∧ (t.part k).mem = (s.part k).mem ∧ (t.part k).ranges = (s.part k).ranges ∧ (t.part k).pool = (s.part k).pool))
      ∧ (op 0x37 → let off := s.mb 8 4
          let r := attestReport s (s.mb 0x20 0x20)
          let ok : Prop := off + r.length + 3309 ≤ stageSize ∧ s.mb 4 4 = 0 ∧ s.mb 0x0C 12 = 0 ∧ s.mb 0x1C 4 = 0
          r.length = 336 ∧ (¬ok → refused .attest 1)
            ∧ (ok → Memory.wf s.dev.ccstage → ∃ t, exec .attest s = .next t ∧ MbDone s t 0 ∧ t.stageBytes off r.length = r
              ∧ (∀ i, i < 3309 → readCell t.dev.ccstage (off + r.length + i) = Config.signature (sha3 r) i)))
      ∧ (op 0x38 → let ok : Prop := k < 8 ∧ s.mb 5 1 < 8 ∧ s.mb 6 1 < 32 ∧ s.mb 7 1 < 64 ∧ s.mb 8 1 < 32 ∧ s.mbZero 9 = true
          (¬ok → refused .inject 1) ∧ (ok → p.mode ≠ 2 → refused .inject 3) ∧ (ok → p.mode = 2 → p.inject.isSome = true → refused .inject 4)
            ∧ (ok → p.mode = 2 → p.inject = none → becomes .inject { p with inject := some s.dev.mbcmd }))

/-- R160, R146, R86, R357, R398, R395, R439, R431: the commands of the control core. INVAL drops exactly the translations that its kind names, and
completes once the accesses that were translated before are performed; TENANT, TRAPSET and CTXPOOL set a context that no resident group uses; BIAS
closes a block, waits for the copies that it has admitted, and moves the block once its lines are purged and a CXL 3.x host has answered the
snoops; PREEMPT asks a cord to leave; LINKUP brings a link up; each is refused with the STATUS of the first check that fails. An OP that Table 17.3
does not give is refused. -/
def Obligations.ControlCoreCommands : Prop :=
  ∀ (s : State), s.dev.ccgo = true → s.dev.locked = true →
    let op (n : Nat) : Prop := s.cc 0 4 = n
    let refused (i : Instr) (off st : Nat) : Prop := ∃ t, exec i s = .next t ∧ CcRefused s t off st
    let tenant := s.cc 4 2
    let known (t : Nat) : Prop := (s.tenant? t).isSome = true
    let lo := s.cc 8 8
    let len := s.cc 0x10 8
    (op 0x12 →
        let kind := s.cc 6 1
        let hit (e : TlbEntry) : Prop :=
          if kind = 5 then (s.tenant? e.tenant).map (·.part) = some (s.func 0).funcpart
          else e.tenant = tenant ∧ match kind with
            | 0 => e.va < lo + 4096 ∧ lo < e.va + e.size
            | 1 => e.va < lo + len ∧ lo < e.va + e.size
            | 2 => e.global = false
            | 3 => True
            | _ => e.gpa < lo + len ∧ lo < e.gpa + e.gsize
        let waits : Prop := s.invalWaits kind tenant = true
        let drops (i : Instr) : Prop := ∃ t, exec i s = .next t ∧ (waits → t.dev = s.dev) ∧ (¬waits → CcDone t 0x18 0) ∧ t.mem = s.mem
          ∧ t.caches = s.caches ∧ t.outbound = s.outbound ∧ (∀ l x, s.launch? l = some x → ∃ fs, t.launch? l = some { x with faults := fs })
          ∧ t.mmu.walks = s.mmu.walks ∧ ∀ c e,
            (e ∈ State.tlbOf t.mmu.l1tlb c ↔ e ∈ State.tlbOf s.mmu.l1tlb c ∧ ¬hit e)
            ∧ (e ∈ State.tlbOf t.mmu.l2tlb c ↔ e ∈ State.tlbOf s.mmu.l2tlb c ∧ ¬hit e)
        let does (i : Instr) : Prop := (invalMalformed s = true → refused i 0x18 1)
          ∧ (invalMalformed s = false → kind < 5 → ¬known tenant → refused i 0x18 2)
          ∧ (invalMalformed s = false → kind < 5 → known tenant → drops i)
        (kind = 0 → does .invalPage) ∧ (kind = 1 → does .invalRange) ∧ (kind = 2 → does .invalTenant) ∧ (kind = 3 → does .invalTenantAll)
          ∧ (kind = 4 → does .invalGuestRange) ∧ (kind = 5 → invalMalformed s = false → drops .invalPartition)
          ∧ (6 < kind → refused .invalKeyShadow 0x18 1)
          ∧ (kind = 6 → invalMalformed s = false → let p := (s.func 0).funcpart
              ∃ t, exec .invalKeyShadow s = .next t ∧ CcDone t 0x18 0 ∧ t.mmu = s.mmu
                ∧ ∀ f b, (f, b) ∈ (t.part p).shadow ↔ (f, b) ∈ (s.part p).shadow ∧ ¬(lo / 65536 ≤ f ∧ f < (lo + len) / 65536)))
      ∧ (op 0x13 → let id := s.cc 0x30 2
          let deletes : Prop := s.cc 5 1 = 1
          (¬deletes → (s.cc 5 1 ≠ 0 ∨ 16 ≤ s.cc 4 1 ∨ contextMalformed s = true → refused .tenantSet 8 1)
            ∧ (s.cc 5 1 = 0 → s.cc 4 1 < 16 → contextMalformed s = false →
                (s.tenantBusy id = true → refused .tenantSet 8 3)
                ∧ (s.tenantBusy id = false → ∃ t x, exec .tenantSet s = .next t ∧ CcDone t 8 0 ∧ t.tenant? id = some x ∧ x.part = s.cc 4 1
                    ∧ x.s1root = s.cc 0x20 8 ∧ x.s2root = s.cc 0x28 8 ∧ x.func = s.cc 0x32 1 ∧ x.s2en = decide (s.cc 0x33 1 = 1)
                    ∧ x.pasid = s.cc 0x34 4 ∧ x.quota = s.cc 0x38 1 ∧ (t.func x.func).funcpart = x.part
                    ∧ (∀ y, s.tenant? id = some y → x.handler = y.handler ∧ x.ring = y.ring ∧ x.pool = y.pool)
                    ∧ ∀ j, j ≠ id → t.tenant? j = s.tenant? j)))
          ∧ (deletes → (16 ≤ s.cc 4 1 → refused .tenantDelete 8 1) ∧ (s.cc 4 1 < 16 → ¬known id → refused .tenantDelete 8 2)
            ∧ (s.cc 4 1 < 16 → known id → s.tenantBusy id = true → refused .tenantDelete 8 3)
            ∧ (s.cc 4 1 < 16 → known id → s.tenantBusy id = false → (s.tenants.map (·.1)).Nodup →
                ∃ t, exec .tenantDelete s = .next t ∧ CcDone t 8 0 ∧ t.tenant? id = none ∧ (∀ j, j ≠ id → t.tenant? j = s.tenant? j)
                  ∧ ∀ c e, e ∈ State.tlbOf t.mmu.l1tlb c ++ State.tlbOf t.mmu.l2tlb c → e.tenant ≠ id)))
      ∧ (let sets (i : Instr) (ok : Prop) (f : Tenant → Tenant) : Prop := (¬ok → refused i 0x18 1) ∧ (ok → ¬known tenant → refused i 0x18 2)
           ∧ (ok → known tenant → s.tenantBusy tenant = true → refused i 0x18 3)
           ∧ (ok → s.tenantBusy tenant = false → ∀ x, s.tenant? tenant = some x → ∃ t, exec i s = .next t ∧ CcDone t 0x18 0
               ∧ t.tenant? tenant = some (f x) ∧ (∀ j, j ≠ tenant → t.tenant? j = s.tenant? j) ∧ t.groups = s.groups ∧ t.mem = s.mem)
         (op 0x14 → let n := s.cc 6 1
             sets .trapset (4 ≤ n ∧ n ≤ 12 ∧ s.cc 7 1 = 0 ∧ lo % 8 = 0 ∧ len % 4096 = 0 ∧ s.cc 0x1C 4 = 0) fun x =>
               { x with handler := w64 lo, ring := w64 len, log2n := n, ringSet := true })
           ∧ (op 0x15 → sets .ctxpool (s.cc 6 2 = 0 ∧ lo % 2 ^ 20 = 0 ∧ len % 2 ^ 20 = 0 ∧ 2 ^ 21 ≤ len ∧ s.cc 0x1C 4 = 0) fun x =>
               { x with pool := some (w64 lo, len), poolUsed := [] }))
      ∧ (op 0x16 → let p := (s.func 0).funcpart
          let b := lo / 2 ^ 21
          let ok : Prop := lo % 2 ^ 21 = 0 ∧ lo + 2 ^ 21 ≤ s.localBytes p
          let does (i : Instr) (host : Bool) : Prop := (¬ok → refused i 0x18 1)
            ∧ (ok → s.dev.biasFlip = none → ∃ t f, exec i s = .next t ∧ t = { s with dev := { s.dev with biasFlip := some f } } ∧ f.part = p
                ∧ f.block = b ∧ f.toHost = host ∧ f.admitted = s.copies p ∧ f.stalled = [] ∧ f.snooped = false)
            ∧ ∀ f, ok → s.dev.biasFlip = some f → f.part = p → f.block = b → f.toHost = host →
                (host = true → s.copying f = true → exec i s = .next s)
                  ∧ ∀ s1, ¬(host = true ∧ s.copying f = true) → purgeLines s (s.blockLines p b) = .ok s1 () →
                    let ends : Prop := ∃ t, exec i s = .next t ∧ CcDone t 0x18 0 ∧ t.dev.biasFlip = none ∧ t.mem = s1.mem ∧ t.caches = s1.caches
                      ∧ (Tbl.canon false 0 s.dev.hostBias = true → s1.dev.hostBias = s.dev.hostBias →
                          (∀ line, line / 2 ^ 14 = b → t.inHostBias p line = host)
                            ∧ ∀ line, line / 2 ^ 14 ≠ b → b < 2 ^ 32 → line / 2 ^ 14 < 2 ^ 32 → t.inHostBias p line = s.inHostBias p line)
                    (host = true ∨ s1.straps.cxl3 = false → ends)
                      ∧ (host = false → s1.straps.cxl3 = true →
                          (f.snooped = false → ∃ t, exec i s = .next t ∧ t.dev.biasFlip = some { f with snooped := true } ∧ t.caches = s1.caches
                            ∧ ∀ j, j < 2 ^ 14 → ∃ k o, Tbl.find? t.outbound k = some o ∧ o.link = none ∧ o.ev = snoopEv ∧ o.line = b * 2 ^ 14 + j)
                          ∧ (f.snooped = true → s1.snoopsSettled = false → exec i s = .next s)
                          ∧ (f.snooped = true → s1.snoopsSettled = true → ends))
          (s.cc 4 1 = 1 → does .biasToHost true) ∧ (s.cc 4 1 = 0 → does .biasToDevice false) ∧ (1 < s.cc 4 1 → refused .biasToDevice 0x18 1))
      ∧ (op 0x17 → let l := s.cc 8 4
          let cord := s.cc 0x0C 4
          let named : Prop := (∃ x, s.launch? l = some x ∧ x.part = s.cc 4 1) ∧ ∃ e ∈ s.crewsOf l cord, e.2.saved = false
          (¬named → refused .preempt 0x18 1) ∧ (named → ∃ t, exec .preempt s = .next t ∧ CcDone t 0x18 0 ∧ ∀ h c, s.crew? h = some c →
            t.crew? h = some { c with preempt := c.preempt || (c.launch = l && c.cord = cord && !c.saved) }))
      ∧ (op 0x18 → let k := s.cc 4 1
          let p := s.cc 5 1
          let l := s.link k
          let ok : Prop := k < 4 ∧ p < 16 ∧ l.state = 0
          let mine : Prop := (s.part p).req.getLsbD (17 + k) = true
          (¬ok → refused .linkup 0x18 1) ∧ (ok → l.trains = false → refused .linkup 0x18 2)
            ∧ (ok → l.trains = true → l.attests = false → refused .linkup 0x18 3)
            ∧ (ok → l.trains = true → l.attests = true → ¬mine → refused .linkup 0x18 4)
            ∧ (ok → l.trains = true → l.attests = true → mine → l.accepts = false → refused .linkup 0x18 5)
            ∧ (ok → l.trains = true → l.attests = true → mine → l.accepts = true → ∃ t, exec .linkup s = .next t ∧ CcDone t 0x18 0
                ∧ t.link k = { l with state := 2, bound := p } ∧ ∀ j, j ≠ k → t.link j = s.link j))
      ∧ ((∀ n ∈ [0x11, 0x12, 0x13, 0x14, 0x15, 0x16, 0x17, 0x18, 0x21], ¬op n) → refused .ccUnknownOp 0x18 1)

/-- R108 to R111: MIGRATE checks its block and its pages, claims room at the peer, moves the lines to Leaving and sends each to its claimed place once
every page has been granted, points the leaves at the peer once all have arrived, and completes when every peer has dropped the old translations; a refusal, a Lost line or a missing answer ends it with
its STATUS and the pages stay. -/
def Obligations.MigrationSteps : Prop :=
  ∀ (s : State), s.dev.ccgo = true → s.dev.locked = true → s.cc 0 4 = 0x11 →
    let ends (i : Instr) (s0 : State) (st detail : Nat) : Prop := ∃ t, exec i s = .next t ∧ CcDone t 0x18 st
      ∧ fld t.dev.cccmd (8 * 0x1C) 32 = detail % 2 ^ 32 ∧ t.migration = none ∧ t.mem = s0.mem ∧ t.groups = s0.groups
    (s.migration = none → migrateMalformed s = true → ends .migrate s 1 0)
      ∧ (∀ t, s.migration = none → migrateMalformed s = false → s.tenant? (s.cc 4 2) = some t →
          let link := s.cc 6 1
          let base := s.cc 8 8
          let length := s.cc 0x10 8
          let pages := migratePages s (s.cc 4 2) t base length (length / 4096) base []
          (∀ s1 off, pages = .ok s1 (.error off) → s1.migration = none → ends .migrate s1 2 off)
            ∧ ∀ s1 ps, pages = .ok s1 (.ok ps) → s1.migration = none → s1.dev = s.dev → s1.parts = s.parts →
                let up : Prop := (s.link link).state = 2 ∧ (s.link link).bound = t.part ∧ (s.part t.part).req.getLsbD (17 + link) = true
                (¬up → ends .migrate s1 3 0)
                  ∧ (up → framing s1 t.part ps = true → exec .migrate s = .next s1)
                  ∧ (up → framing s1 t.part ps = false → ∃ u m, exec .migrate s = .next u ∧ u.migration = some m ∧ m.tenant = s.cc 4 2
                      ∧ m.part = t.part ∧ m.link = link ∧ m.pages = ps ∧ m.claimed = [] ∧ m.step = 2 ∧ u.dev.ccgo = true
                      ∧ (∀ i, i < ps.length → ∃ k o, Tbl.find? u.outbound k = some o ∧ o.link = some link ∧ o.line = i
                          ∧ o.who = some .migration ∧ o.write = false)))
      ∧ (∀ m, s.migration = some m → m.step = 2 ∨ m.step = 3 →
          (∀ c, m.claimed.find? (fun c => 2 ^ 64 ≤ c.2) = some c → ends .migrate s 4 (m.offset c.1))
            ∧ (m.claimed.find? (fun c => 2 ^ 64 ≤ c.2) = none →
                (m.claimed.length ≠ m.pages.length → exec .migrate s = .next s)
                ∧ (m.claimed.length = m.pages.length → (∀ i, lostPage s m = some i → ends .migrate s 5 (m.offset i))
                    ∧ ∀ s1, lostPage s m = none →
                        Res.forEach (leaveLines s m) (fun s k => (pullLine s m.part k).bind fun s _ => .ok s ()) m.lines = .ok s1 () →
                        ∃ t, exec .migrate s = .next t ∧ t.migration = some { m with step := 4 } ∧ t.mem = s1.mem ∧ t.caches = s1.caches
                          ∧ ∀ i j g, m.pages[i]? = some g → j < g.2.2.2 / 128 → ∃ n o, Tbl.find? t.outbound n = some o ∧ o.link = some m.link
                              ∧ o.line = ((m.link + 1) * 0x4000000000 + Tbl.getD m.claimed i 0) / 128 + j ∧ o.write = true
                              ∧ o.who = some .migration
                              ∧ (∀ l, Tbl.find? s1.caches.l2 (lineKey m.part (g.2.2.1 / 128 + j) false) = some l →
                                  l.unb = some (.leaving true false) → o.data = l.data ∧ o.mask = BitVec.allOnes 128))
                  ∧ (leaveLines s m).mem = s.mem
                  ∧ ∀ k l, Tbl.find? s.caches.l2 k = some l → m.holds l = true → Tbl.find? (leaveLines s m).caches.l2 k =
                      some { l with unb := l.unb.map fun u => if u = .written then .leaving true false else if u = .zero then .leaving false false else u }))
      ∧ (∀ m, s.migration = some m → m.step = 4 → (s.migrationSettled = false → exec .migrate s = .next s
              ∧ ends .migrateAckTimeout s 6 0)
            ∧ ∀ s1, s.migrationSettled = true → Res.forEach s (fun s i => pointAway s m i) (List.range m.pages.length) = .ok s1 () →
                ∃ t, exec .migrate s = .next t ∧ t.migration = some { m with step := 6 } ∧ t.mem = s1.mem
                  ∧ ∀ c e, e ∈ State.tlbOf t.mmu.l1tlb c ++ State.tlbOf t.mmu.l2tlb c → (s1.tenant? e.tenant).map (·.part) = some m.part →
                      ∀ g ∈ m.pages, e.pa + e.size ≤ g.2.2.1 ∨ g.2.2.1 + g.2.2.2 ≤ e.pa)
      ∧ ∀ m, s.migration = some m → m.step = 6 → (s.invalsSettled = false → exec .migrate s = .next s)
          ∧ (s.invalsSettled = true → (s.caches.l2.map (·.1)).Nodup → ends .migrate s 0 0
              ∧ ∃ t, exec .migrate s = .next t ∧ ∀ k ∈ m.lines, Tbl.find? t.caches.l2 (lineKey m.part k false) = none)

/-- R432 to R435, Table 17.4: RECONF refuses a list as a whole, with the STATUS, INDEX and DETAIL of its first failing entry and no register
changed; an accepted list changes exactly what its entries name, in order, and completes with STATUS 0. -/
def Obligations.Reconfiguration : Prop :=
  (∀ (s : State), s.dev.ccgo = true → s.dev.locked = true → s.cc 0 4 = 0x21 →
      let p := s.cc 4 1
      let n := s.cc 5 1
      let answered (t : State) (st i d : Nat) : Prop := CcDone t 0x18 st ∧ fld t.dev.cccmd (8 * 0x1C) 32 = i % 2 ^ 32
        ∧ fld t.dev.cccmd (8 * 0x20) 32 = d % 2 ^ 32
      let ok : Prop := p < 16 ∧ 1 ≤ n ∧ n ≤ 64
      let waits : Prop := s.migration.isSome = true ∨ ∃ k, k < 4 ∧ (s.link k).bound = p ∧ (s.link k).claims ≠ []
      let es := s.listEntries n
      (¬ok → ∃ t, exec .reconf s = .next t ∧ answered t 1 0 0 ∧ t.parts = s.parts ∧ t.mem = s.mem)
        ∧ (ok → waits → exec .reconf s = .next s)
        ∧ (∀ st i d, ok → ¬waits → checkList s p 0 es = some (st, i, d) → ∃ t, exec .reconf s = .next t ∧ answered t st i d
            ∧ t.parts = s.parts ∧ t.mem = s.mem ∧ t.caches = s.caches)
        ∧ ∀ s1, ok → ¬waits → checkList s p 0 es = none → prepareList s p es = .ok s1 () → renumbers es = false →
            (∀ e ∈ es, entryType e ≠ 8) → ∃ t, exec .reconf s = .next t ∧ answered t 0 0 0 ∧ t.mem = s1.mem
              ∧ t.parts = (es.foldl (fun s e => applyEntry s p e) s1).parts ∧ t.launches = s1.launches)
    ∧ ∀ (s : State) (p e : Nat), let x := s.part p
        let y := (applyEntry s p e).part p
        let port := bits e 8 5
        (entryType e = 1 → port < 24 → (∀ i, i < 24 → (y.req.getLsbD i = true ↔ x.req.getLsbD i = true ∨ i = port)) ∧ y = { x with req := y.req })
          ∧ (entryType e = 2 → port < 24 → (∀ i, i < 24 → (y.req.getLsbD i = true ↔ x.req.getLsbD i = true ∧ i ≠ port)) ∧ y = { x with req := y.req })
          ∧ (entryType e = 3 → (∀ i, i < 16 → (y.mem.getLsbD i = true ↔ x.mem.getLsbD i = true ∨ i = bits e 8 4)) ∧ y = { x with mem := y.mem })
          ∧ (entryType e = 4 → (∀ i, i < 16 → (y.mem.getLsbD i = true ↔ x.mem.getLsbD i = true ∧ i ≠ bits e 8 4)) ∧ y = { x with mem := y.mem })
          ∧ (entryType e = 5 → y = { x with share := bits e 8 8 })
          ∧ (entryType e = 7 → y = { x with resvN := bits e 16 13 })
          ∧ (entryType e = 8 → y = { x with pool := some (bits e 64 52, port), poolBad := false })
          ∧ (entryType e = 9 → ∃ r, Tbl.find? y.ranges (bits e 8 4) = some r ∧ r.slot = bits e 13 3 ∧ r.base = bits e 16 36
              ∧ r.limit = bits e 52 36 ∧ r.en = decide (bits e 12 1 = 1) ∧ y = { x with ranges := y.ranges })
          ∧ (∀ i, i ≠ p → (applyEntry s p e).part i = s.part i)
          ∧ (checkEntry s p e = none → 1 ≤ entryType e ∧ entryType e ≤ 10
              ∧ (entryType e = 1 → port ≤ 20 ∧ (port ≠ 16 → ∀ q ∈ s.parts, q.1 ≠ p → q.2.req.getLsbD port = false))
              ∧ (entryType e = 2 → x.req.getLsbD port = true) ∧ (entryType e = 4 → x.mem.getLsbD (bits e 8 4) = true)
              ∧ (entryType e = 3 → ∀ q ∈ s.parts, q.1 ≠ p → q.2.mem.getLsbD (bits e 8 4) = false)
              ∧ (entryType e = 7 → bits e 16 13 ≤ 4096 ∧ bits e 16 13 % 16 = 0)
              ∧ (entryType e = 10 → 4 ≤ bits e 8 3 ∧ ∃ q, checkImage (s.entryImage e) = .ok q ∧ q.firstBroken = none))

/-- R10, R25 and the reset column of the register tables; R56, R68, R85, R91, R282, R404, R423, R426, R442, R444: the state at device reset; and R212:
s0 reads zero and p0 holds in every lane, whatever is written to them. -/
def Obligations.ResetAndHardWiredValues : Prop :=
  (let s := State.reset
   (∀ p : Partition, p = s.part 0 → p.ports = List.range 16 ∧ (∀ i, i < 24 → (p.req.getLsbD i = true ↔ i ≤ 20)))
    ∧ (∀ n, 1 ≤ n → (s.part n).ports = [] ∧ (s.part n).req = 0)
    ∧ (∀ n, (s.part n).w1 = 4 ∧ (s.part n).w2 = 2 ∧ (s.part n).w3 = 1 ∧ (s.part n).tc0cap = 4 ∧ (s.part n).pclass = 0x55555555#64
        ∧ (s.part n).peclass = 0x2AAAAAAAAAA#64 ∧ (s.part n).resvN = 0 ∧ (s.part n).pool = none ∧ (s.part n).lostAll = []
        ∧ (s.part n).ranges = [] ∧ (s.part n).wdLog = 28 ∧ (s.part n).shadow = [])
    ∧ (∀ f, (s.func f).intstat = 0 ∧ (s.func f).intcfg = 0 ∧ (s.func f).prqcfg = 6 ∧ (s.func f).prqtail = 0 ∧ (s.func f).prqhead = 0
        ∧ ∀ q, ((s.func f).queue q).qcfg = 4 ∧ ((s.func f).queue q).qquota = 64 ∧ ((s.func f).queue q).qhead = 0
          ∧ ((s.func f).queue q).qtail = 0 ∧ ((s.func f).queue q).qstat = 0)
    ∧ (∀ k, (s.pair k).mode = 0 ∧ (s.pair k).gate = []) ∧ s.dev.suspth = 64 ∧ s.dev.errcnt = 0 ∧ s.dev.errIrqEn = true
    ∧ (∀ k, (s.link k).state = 0) ∧ (∀ p line, s.inHostBias p line = false) ∧ s.dev.locked = false ∧ s.dev.pins.heldReset = true
    ∧ (∀ c b, (Tbl.getD (s.core c).banks b Bank.reset).valid = false) ∧ s.caches = Caches.reset ∧ s.mmu = Mmu.reset ∧ s.cycle = 0
    ∧ (∀ p, s.keyTag p 0 = some (.zero 0)) ∧ (∀ p k, 1 ≤ k → k < 64 → s.keyTag p k = none)
    ∧ s.groups = [] ∧ s.crews = [] ∧ s.launches = [] ∧ s.tenants = [])
  ∧ (∀ (sp : Split) (v : W64) (n : Nat), sp.s 0 = 0 ∧ (sp.setS 0 v).s n = sp.s n)
  ∧ ∀ (g : Group) (l : Nat), l < 64 → (g.pred 0).getLsbD l = true

/-- The reset state's memories are in canonical form, and nothing is listed: the model's own representation (log 8). -/
def Obligations.ResetIsCanonical : Prop := State.reset.wf ∧ ∀ a, State.reset.byteAt a = 0 ∧ State.reset.wsByteAt a = 0

/-- Every step, of any state, keeps memory and the weight store in canonical form: addresses strictly rising, and no entry equal to what an
unlisted byte reads as. So equal contents stay equal data, whatever instruction, event or input the step runs. -/
def Obligations.StepKeepsMemoryCanonical : Prop := ∀ s t : State, s.wf → step s = .next t → t.wf
end

