-- ==== Sys2Proof/Laws/Encoding.lean ====
section
/-! SUPPORT. Decoding an encoded word: the fields of each format come back, and each opcode is its instruction's. -/

namespace Sys2Proof

/-! Fields of a concatenation. -/

theorem ext_lo {a b : Nat} (x : BitVec a) (y : BitVec b) (s n : Nat) (h : s + n ≤ b) :
    (x ++ y).extractLsb' s n = y.extractLsb' s n := by
  apply BitVec.eq_of_getLsbD_eq; intro i hi
  simp only [BitVec.getLsbD_extractLsb', BitVec.getLsbD_append, hi, decide_true, Bool.true_and]
  rw [if_pos (by omega)]

theorem ext_hi {a b : Nat} (x : BitVec a) (y : BitVec b) (s n : Nat) (h : b ≤ s) :
    (x ++ y).extractLsb' s n = x.extractLsb' (s - b) n := by
  apply BitVec.eq_of_getLsbD_eq; intro i hi
  simp only [BitVec.getLsbD_extractLsb', BitVec.getLsbD_append, hi, decide_true, Bool.true_and]
  rw [if_neg (by omega)]; congr 1; omega

theorem ext_all {a : Nat} (x : BitVec a) : x.extractLsb' 0 a = x := by simp

theorem bit_lo {a b : Nat} (x : BitVec a) (y : BitVec b) (s : Nat) (h : s < b) : (x ++ y).getLsbD s = y.getLsbD s := by
  rw [BitVec.getLsbD_append, if_pos h]

theorem bit_hi {a b : Nat} (x : BitVec a) (y : BitVec b) (s : Nat) (h : b ≤ s) :
    (x ++ y).getLsbD s = x.getLsbD (s - b) := by rw [BitVec.getLsbD_append, if_neg (by omega)]

theorem bit_bool (b : Bool) : (BitVec.ofBool b).getLsbD 0 = b := by cases b <;> rfl

theorem app_toNat {a b : Nat} (x : BitVec a) (y : BitVec b) : (x ++ y).toNat = x.toNat * 2 ^ b + y.toNat := by
  rw [BitVec.toNat_append, ← Nat.shiftLeft_add_eq_or_of_lt y.isLt, Nat.shiftLeft_eq]

theorem app_mod {a b : Nat} (x : BitVec a) (y : BitVec b) (k : Nat) (h : k ≤ b) : (x ++ y).toNat % 2 ^ k = y.toNat % 2 ^ k := by
  rw [app_toNat, Nat.add_mod, Nat.mul_mod, (Nat.mod_eq_zero_of_dvd (Nat.pow_dvd_pow 2 h) : 2 ^ b % 2 ^ k = 0)]
  simp

theorem app_div {a b : Nat} (x : BitVec a) (y : BitVec b) : (x ++ y).toNat / 2 ^ b = x.toNat := by
  rw [app_toNat, Nat.add_comm, Nat.add_mul_div_right _ _ (Nat.two_pow_pos b), Nat.div_eq_of_lt y.isLt, Nat.zero_add]

theorem app_zero {a b : Nat} (y : BitVec b) : ((0 : BitVec a) ++ y).toNat / 2 ^ b = 0 := by rw [app_div]; rfl

/-! Each format's fields come back. -/

theorem RF.ofWord_toWord (opc : BitVec 8) (f : RF) : RF.ofWord (RF.toWord opc f) = f := by
  obtain ⟨⟨p, neg⟩, ty, dst, sa, sb, sc, md⟩ := f
  simp only [RF.ofWord, RF.toWord, Guard.ofWord, Guard.toBits, RF.mk.injEq, Guard.mk.injEq]
  refine ⟨⟨?_, ?_⟩, ?_, ?_, ?_, ?_, ?_, ?_⟩
  all_goals (repeat (first
    | refine (ext_lo _ _ _ _ (by omega)).trans ?_ | refine (ext_hi _ _ _ _ (by omega)).trans ?_
    | refine (bit_lo _ _ _ (by omega)).trans ?_ | refine (bit_hi _ _ _ (by omega)).trans ?_))
  all_goals first | exact ext_all _ | exact bit_bool _

theorem IF.ofWord_toWord (opc : BitVec 8) (f : IF) : IF.ofWord (IF.toWord opc f) = f := by
  obtain ⟨⟨p, neg⟩, ty, dst, sa, imm⟩ := f
  simp only [IF.ofWord, IF.toWord, Guard.ofWord, Guard.toBits, IF.mk.injEq, Guard.mk.injEq]
  refine ⟨⟨?_, ?_⟩, ?_, ?_, ?_, ?_⟩
  all_goals (repeat (first
    | refine (ext_lo _ _ _ _ (by omega)).trans ?_ | refine (ext_hi _ _ _ _ (by omega)).trans ?_
    | refine (bit_lo _ _ _ (by omega)).trans ?_ | refine (bit_hi _ _ _ (by omega)).trans ?_))
  all_goals first | exact ext_all _ | exact bit_bool _

theorem BF.ofWord_toWord (opc : BitVec 8) (f : BF) : BF.ofWord (BF.toWord opc f) = f := by
  obtain ⟨⟨p, neg⟩, ty, dst, sa, off⟩ := f
  simp only [BF.ofWord, BF.toWord, Guard.ofWord, Guard.toBits, BF.mk.injEq, Guard.mk.injEq]
  refine ⟨⟨?_, ?_⟩, ?_, ?_, ?_, ?_⟩
  all_goals (repeat (first
    | refine (ext_lo _ _ _ _ (by omega)).trans ?_ | refine (ext_hi _ _ _ _ (by omega)).trans ?_
    | refine (bit_lo _ _ _ (by omega)).trans ?_ | refine (bit_hi _ _ _ (by omega)).trans ?_))
  all_goals first | exact ext_all _ | exact bit_bool _

theorem MF.ofWord_toWord (opc : BitVec 8) (f : MF) : MF.ofWord (MF.toWord opc f) = f := by
  obtain ⟨⟨p, neg⟩, ty, dst, sa, sb, scope, ord, col, off⟩ := f
  simp only [MF.ofWord, MF.toWord, Guard.ofWord, Guard.toBits, MF.mk.injEq, Guard.mk.injEq]
  refine ⟨⟨?_, ?_⟩, ?_, ?_, ?_, ?_, ?_, ?_, ?_, ?_⟩
  all_goals (repeat (first
    | refine (ext_lo _ _ _ _ (by omega)).trans ?_ | refine (ext_hi _ _ _ _ (by omega)).trans ?_
    | refine (bit_lo _ _ _ (by omega)).trans ?_ | refine (bit_hi _ _ _ (by omega)).trans ?_))
  all_goals first | exact ext_all _ | exact bit_bool _

theorem PF.ofWord_toWord (f : PF) : PF.ofWord (PF.toWord f) = some f := by
  obtain ⟨n, step, s2⟩ := f
  have h1 : (PF.toWord ⟨n, step, s2⟩).extractLsb' 8 8 = 0 := by
    simp only [PF.toWord]
    repeat (first
      | refine (ext_lo _ _ _ _ (by omega)).trans ?_ | refine (ext_hi _ _ _ _ (by omega)).trans ?_
      | refine (bit_lo _ _ _ (by omega)).trans ?_ | refine (bit_hi _ _ _ (by omega)).trans ?_)
    exact ext_all _
  have h2 : (PF.toWord ⟨n, step, s2⟩).extractLsb' 27 37 = 0 := by
    simp only [PF.toWord]
    repeat (first
      | refine (ext_lo _ _ _ _ (by omega)).trans ?_ | refine (ext_hi _ _ _ _ (by omega)).trans ?_
      | refine (bit_lo _ _ _ (by omega)).trans ?_ | refine (bit_hi _ _ _ (by omega)).trans ?_)
    exact ext_all _
  simp only [PF.ofWord, h1, h2, BEq.rfl, Bool.and_self, if_true, Option.some.injEq, PF.mk.injEq]
  refine ⟨?_, ?_, ?_⟩ <;> simp only [PF.toWord]
  all_goals (repeat (first
    | refine (ext_lo _ _ _ _ (by omega)).trans ?_ | refine (ext_hi _ _ _ _ (by omega)).trans ?_
    | refine (bit_lo _ _ _ (by omega)).trans ?_ | refine (bit_hi _ _ _ (by omega)).trans ?_))
  all_goals first | exact ext_all _ | exact bit_bool _

theorem ClaimF.ofWord_toWord (opc : BitVec 8) (f : ClaimF) : ClaimF.ofWord (ClaimF.toWord opc f) = some f := by
  obtain ⟨first, n⟩ := f
  have h : xClear (ClaimF.toWord opc ⟨first, n⟩) 24 = true := by
    simp only [xClear, Bool.and_eq_true, beq_iff_eq]
    refine ⟨?_, ?_⟩ <;> simp only [ClaimF.toWord, xLow]
    · repeat (first
        | refine (ext_lo _ _ _ _ (by omega)).trans ?_ | refine (ext_hi _ _ _ _ (by omega)).trans ?_
        | refine (bit_lo _ _ _ (by omega)).trans ?_ | refine (bit_hi _ _ _ (by omega)).trans ?_)
      exact ext_all _
    · exact app_zero _
  simp only [ClaimF.ofWord, h, if_true, Option.some.injEq, ClaimF.mk.injEq]
  refine ⟨?_, ?_⟩ <;> simp only [ClaimF.toWord, xLow]
  all_goals (repeat (first
    | refine (ext_lo _ _ _ _ (by omega)).trans ?_ | refine (ext_hi _ _ _ _ (by omega)).trans ?_
    | refine (bit_lo _ _ _ (by omega)).trans ?_ | refine (bit_hi _ _ _ (by omega)).trans ?_))
  all_goals exact ext_all _

theorem MmulF.ofWord_toWord (opc : BitVec 8) (f : MmulF) : MmulF.ofWord (MmulF.toWord opc f) = some f := by
  obtain ⟨⟨acc, mc, nc⟩, a, b, k, ar, br, cord, rgl⟩ := f
  have h : xClear (MmulF.toWord opc ⟨⟨acc, mc, nc⟩, a, b, k, ar, br, cord, rgl⟩) 47 = true := by
    simp only [xClear, Bool.and_eq_true, beq_iff_eq]
    refine ⟨?_, ?_⟩ <;> simp only [MmulF.toWord, xLow]
    · repeat (first
        | refine (ext_lo _ _ _ _ (by omega)).trans ?_ | refine (ext_hi _ _ _ _ (by omega)).trans ?_
        | refine (bit_lo _ _ _ (by omega)).trans ?_ | refine (bit_hi _ _ _ (by omega)).trans ?_)
      exact ext_all _
    · exact app_zero _
  simp only [MmulF.ofWord, h, if_true, Option.some.injEq, MmulF.mk.injEq, RegionF.ofWord, RegionF.mk.injEq]
  refine ⟨⟨?_, ?_, ?_⟩, ?_, ?_, ?_, ?_, ?_, ?_, ?_⟩ <;> simp only [MmulF.toWord, RegionF.toBits, xLow]
  all_goals (repeat (first
    | refine (ext_lo _ _ _ _ (by omega)).trans ?_ | refine (ext_hi _ _ _ _ (by omega)).trans ?_
    | refine (bit_lo _ _ _ (by omega)).trans ?_ | refine (bit_hi _ _ _ (by omega)).trans ?_))
  all_goals first | exact ext_all _ | exact bit_bool _

theorem MbypF.ofWord_toWord (opc : BitVec 8) (f : MbypF) : MbypF.ofWord (MbypF.toWord opc f) = some f := by
  obtain ⟨⟨acc, mc, nc⟩, o, r⟩ := f
  have h : xClear (MbypF.toWord opc ⟨⟨acc, mc, nc⟩, o, r⟩) 31 = true := by
    simp only [xClear, Bool.and_eq_true, beq_iff_eq]
    refine ⟨?_, ?_⟩ <;> simp only [MbypF.toWord, xLow]
    · repeat (first
        | refine (ext_lo _ _ _ _ (by omega)).trans ?_ | refine (ext_hi _ _ _ _ (by omega)).trans ?_
        | refine (bit_lo _ _ _ (by omega)).trans ?_ | refine (bit_hi _ _ _ (by omega)).trans ?_)
      exact ext_all _
    · exact app_zero _
  simp only [MbypF.ofWord, h, if_true, Option.some.injEq, MbypF.mk.injEq, RegionF.ofWord, RegionF.mk.injEq]
  refine ⟨⟨?_, ?_, ?_⟩, ?_, ?_⟩ <;> simp only [MbypF.toWord, RegionF.toBits, xLow]
  all_goals (repeat (first
    | refine (ext_lo _ _ _ _ (by omega)).trans ?_ | refine (ext_hi _ _ _ _ (by omega)).trans ?_
    | refine (bit_lo _ _ _ (by omega)).trans ?_ | refine (bit_hi _ _ _ (by omega)).trans ?_))
  all_goals exact ext_all _

theorem MzeroF.ofWord_toWord (opc : BitVec 8) (f : MzeroF) : MzeroF.ofWord (MzeroF.toWord opc f) = some f := by
  obtain ⟨⟨acc, mc, nc⟩, i⟩ := f
  have h : xClear (MzeroF.toWord opc ⟨⟨acc, mc, nc⟩, i⟩) 23 = true := by
    simp only [xClear, Bool.and_eq_true, beq_iff_eq]
    refine ⟨?_, ?_⟩ <;> simp only [MzeroF.toWord, xLow]
    · repeat (first
        | refine (ext_lo _ _ _ _ (by omega)).trans ?_ | refine (ext_hi _ _ _ _ (by omega)).trans ?_
        | refine (bit_lo _ _ _ (by omega)).trans ?_ | refine (bit_hi _ _ _ (by omega)).trans ?_)
      exact ext_all _
    · exact app_zero _
  simp only [MzeroF.ofWord, h, if_true, Option.some.injEq, MzeroF.mk.injEq, RegionF.ofWord, RegionF.mk.injEq]
  refine ⟨⟨?_, ?_, ?_⟩, ?_⟩ <;> simp only [MzeroF.toWord, RegionF.toBits, xLow]
  all_goals (repeat (first
    | refine (ext_lo _ _ _ _ (by omega)).trans ?_ | refine (ext_hi _ _ _ _ (by omega)).trans ?_
    | refine (bit_lo _ _ _ (by omega)).trans ?_ | refine (bit_hi _ _ _ (by omega)).trans ?_))
  all_goals first | exact ext_all _ | exact bit_bool _

theorem MsclF.ofWord_toWord (col : Bool) (f : MsclF) : MsclF.ofWord (MsclF.toWord col f) = some f := by
  obtain ⟨sa, first8, n⟩ := f
  have h : xClear (MsclF.toWord col ⟨sa, first8, n⟩) 35 = true := by
    simp only [xClear, Bool.and_eq_true, beq_iff_eq]
    refine ⟨?_, ?_⟩ <;> simp only [MsclF.toWord, xLow]
    · repeat (first
        | refine (ext_lo _ _ _ _ (by omega)).trans ?_ | refine (ext_hi _ _ _ _ (by omega)).trans ?_
        | refine (bit_lo _ _ _ (by omega)).trans ?_ | refine (bit_hi _ _ _ (by omega)).trans ?_)
      exact ext_all _
    · exact app_zero _
  simp only [MsclF.ofWord, h, if_true, Option.some.injEq, MsclF.mk.injEq]
  refine ⟨?_, ?_, ?_⟩ <;> simp only [MsclF.toWord, xLow]
  all_goals (repeat (first
    | refine (ext_lo _ _ _ _ (by omega)).trans ?_ | refine (ext_hi _ _ _ _ (by omega)).trans ?_
    | refine (bit_lo _ _ _ (by omega)).trans ?_ | refine (bit_hi _ _ _ (by omega)).trans ?_))
  all_goals exact ext_all _

theorem MprogF.ofWord_toWord (opc : BitVec 8) (f : MprogF) : MprogF.ofWord (MprogF.toWord opc f) = some f := by
  obtain ⟨dst⟩ := f
  have h : xClear (MprogF.toWord opc ⟨dst⟩) 24 = true := by
    simp only [xClear, Bool.and_eq_true, beq_iff_eq]
    refine ⟨?_, ?_⟩ <;> simp only [MprogF.toWord, xLow]
    · repeat (first
        | refine (ext_lo _ _ _ _ (by omega)).trans ?_ | refine (ext_hi _ _ _ _ (by omega)).trans ?_
        | refine (bit_lo _ _ _ (by omega)).trans ?_ | refine (bit_hi _ _ _ (by omega)).trans ?_)
      exact ext_all _
    · exact app_zero _
  simp only [MprogF.ofWord, h, if_true, Option.some.injEq, MprogF.mk.injEq]
  simp only [MprogF.toWord, xLow]
  all_goals (repeat (first
    | refine (ext_lo _ _ _ _ (by omega)).trans ?_ | refine (ext_hi _ _ _ _ (by omega)).trans ?_
    | refine (bit_lo _ _ _ (by omega)).trans ?_ | refine (bit_hi _ _ _ (by omega)).trans ?_))
  all_goals exact ext_all _

theorem MdrainF.ofWord_toWord (dk : BitVec 2) (f : MdrainF) : MdrainF.ofWord (MdrainF.toWord dk f) = some f := by
  obtain ⟨⟨acc, mc, nc⟩, ra, rb, rc, hi⟩ := f
  have h : (MdrainF.toWord dk ⟨⟨acc, mc, nc⟩, ra, rb, rc, hi⟩).extractLsb' 8 8 = 0 := by
    simp only [MdrainF.toWord, xLow]
    repeat (first
      | refine (ext_lo _ _ _ _ (by omega)).trans ?_ | refine (ext_hi _ _ _ _ (by omega)).trans ?_
      | refine (bit_lo _ _ _ (by omega)).trans ?_ | refine (bit_hi _ _ _ (by omega)).trans ?_)
    exact ext_all _
  simp only [MdrainF.ofWord, h, BEq.rfl, if_true, Option.some.injEq, MdrainF.mk.injEq, RegionF.ofWord, RegionF.mk.injEq]
  refine ⟨⟨?_, ?_, ?_⟩, ?_, ?_, ?_, ?_⟩ <;> simp only [MdrainF.toWord, RegionF.toBits, xLow]
  all_goals (repeat (first
    | refine (ext_lo _ _ _ _ (by omega)).trans ?_ | refine (ext_hi _ _ _ _ (by omega)).trans ?_
    | refine (bit_lo _ _ _ (by omega)).trans ?_ | refine (bit_hi _ _ _ (by omega)).trans ?_))
  all_goals exact ext_all _

/-! The opcode, and the bits that tell the forms of one opcode apart. -/

theorem RF.opcode (opc : BitVec 8) (f : RF) : (RF.toWord opc f).toNat % 256 = opc.toNat := by
  simp only [RF.toWord]
  repeat (refine (app_mod _ _ 8 (by omega)).trans ?_)
  exact Nat.mod_eq_of_lt (BitVec.isLt _)

theorem IF.opcode (opc : BitVec 8) (f : IF) : (IF.toWord opc f).toNat % 256 = opc.toNat := by
  simp only [IF.toWord]
  repeat (refine (app_mod _ _ 8 (by omega)).trans ?_)
  exact Nat.mod_eq_of_lt (BitVec.isLt _)

theorem BF.opcode (opc : BitVec 8) (f : BF) : (BF.toWord opc f).toNat % 256 = opc.toNat := by
  simp only [BF.toWord]
  repeat (refine (app_mod _ _ 8 (by omega)).trans ?_)
  exact Nat.mod_eq_of_lt (BitVec.isLt _)

theorem MF.opcode (opc : BitVec 8) (f : MF) : (MF.toWord opc f).toNat % 256 = opc.toNat := by
  simp only [MF.toWord]
  repeat (refine (app_mod _ _ 8 (by omega)).trans ?_)
  exact Nat.mod_eq_of_lt (BitVec.isLt _)

theorem PF.opcode (f : PF) : (PF.toWord f).toNat % 256 = 0xF8 := by
  simp only [PF.toWord]
  repeat (refine (app_mod _ _ 8 (by omega)).trans ?_)
  exact Nat.mod_eq_of_lt (BitVec.isLt _)

theorem ClaimF.opcode (opc : BitVec 8) (f : ClaimF) : (ClaimF.toWord opc f).toNat % 256 = opc.toNat := by
  simp only [ClaimF.toWord, xLow]
  repeat (refine (app_mod _ _ 8 (by omega)).trans ?_)
  exact Nat.mod_eq_of_lt (BitVec.isLt _)

theorem MmulF.opcode (opc : BitVec 8) (f : MmulF) : (MmulF.toWord opc f).toNat % 256 = opc.toNat := by
  simp only [MmulF.toWord, xLow]
  repeat (refine (app_mod _ _ 8 (by omega)).trans ?_)
  exact Nat.mod_eq_of_lt (BitVec.isLt _)

theorem MbypF.opcode (opc : BitVec 8) (f : MbypF) : (MbypF.toWord opc f).toNat % 256 = opc.toNat := by
  simp only [MbypF.toWord, xLow]
  repeat (refine (app_mod _ _ 8 (by omega)).trans ?_)
  exact Nat.mod_eq_of_lt (BitVec.isLt _)

theorem MzeroF.opcode (opc : BitVec 8) (f : MzeroF) : (MzeroF.toWord opc f).toNat % 256 = opc.toNat := by
  simp only [MzeroF.toWord, xLow]
  repeat (refine (app_mod _ _ 8 (by omega)).trans ?_)
  exact Nat.mod_eq_of_lt (BitVec.isLt _)

theorem MprogF.opcode (opc : BitVec 8) (f : MprogF) : (MprogF.toWord opc f).toNat % 256 = opc.toNat := by
  simp only [MprogF.toWord, xLow]
  repeat (refine (app_mod _ _ 8 (by omega)).trans ?_)
  exact Nat.mod_eq_of_lt (BitVec.isLt _)

theorem MdrainF.opcode (dk : BitVec 2) (f : MdrainF) : (MdrainF.toWord dk f).toNat % 256 = 0xD4 := by
  simp only [MdrainF.toWord, xLow]
  repeat (refine (app_mod _ _ 8 (by omega)).trans ?_)
  exact Nat.mod_eq_of_lt (BitVec.isLt _)

theorem MsclF.opcode (col : Bool) (f : MsclF) : (MsclF.toWord col f).toNat % 256 = 0xD7 := by
  simp only [MsclF.toWord, xLow]
  repeat (refine (app_mod _ _ 8 (by omega)).trans ?_)
  exact Nat.mod_eq_of_lt (BitVec.isLt _)

/-- MOD of an R-format word. -/
theorem RF.modulus (opc : BitVec 8) (f : RF) : (RF.toWord opc f).toNat / 2 ^ 48 = f.md.toNat := by
  simp only [RF.toWord]
  exact app_div _ _

/-- A bit of MOD of an R-format word. -/
theorem RF.modBit (opc : BitVec 8) (f : RF) (k : Nat) : (RF.toWord opc f).getLsbD (48 + k) = f.md.getLsbD k := by
  simp only [RF.toWord]
  refine (bit_hi _ _ _ (by omega)).trans ?_
  congr 1; omega

/-- A bit outside the mask of MOD is 0. -/
theorem RF.mdBit (f : RF) (mask k : Nat) (h : f.mdIn mask = true) (hk : mask.testBit k = false) : f.md.getLsbD k = false := by
  simp only [RF.mdIn, beq_iff_eq] at h
  have := congrArg (fun v : BitVec 16 => v.getLsbD k) h
  simp only [BitVec.getLsbD_and, BitVec.getLsbD_not, BitVec.getLsbD_ofNat, hk, Bool.and_false, Bool.not_false,
    Bool.and_true] at this
  by_cases hlt : k < 16
  · simpa [hlt] using this
  · exact BitVec.getLsbD_of_ge _ _ (by omega)

/-- DK of mdrain (Table 12.3). -/
theorem MdrainF.kind (dk : BitVec 2) (f : MdrainF) : (MdrainF.toWord dk f).toNat / 2 ^ 22 % 4 = dk.toNat := by
  have h : (MdrainF.toWord dk f).extractLsb' 22 2 = dk := by
    simp only [MdrainF.toWord]
    repeat (first
      | refine (ext_lo _ _ _ _ (by omega)).trans ?_ | refine (ext_hi _ _ _ _ (by omega)).trans ?_
      | refine (bit_lo _ _ _ (by omega)).trans ?_ | refine (bit_hi _ _ _ (by omega)).trans ?_)
    exact ext_all _
  rw [← congrArg BitVec.toNat h, BitVec.extractLsb'_toNat, Nat.shiftRight_eq_div_pow]

/-- COL of mscl (Table 12.3). -/
theorem MsclF.col (col : Bool) (f : MsclF) : (MsclF.toWord col f).getLsbD 24 = col := by
  simp only [MsclF.toWord]
  repeat (first
      | refine (ext_lo _ _ _ _ (by omega)).trans ?_ | refine (ext_hi _ _ _ _ (by omega)).trans ?_
      | refine (bit_lo _ _ _ (by omega)).trans ?_ | refine (bit_hi _ _ _ (by omega)).trans ?_)
  exact bit_bool _

/-- A word decodes to a well-formed instruction that its opcode reads. -/
theorem decode_of {l3 : Bool} {w : BitVec 64} {next : Option (BitVec 64)} {i : Instr}
    (hop : opcodeDefined l3 (w.toNat % 256) = true) (hr : rawDecode w next = some i) (hw : i.wf l3 = true) :
    decodeWord l3 w next = .ok i := by
  simp only [decodeWord, hop, hr, hw, Bool.not_true, Bool.false_eq_true, if_false, if_true]

end Sys2Proof
end

