-- ==== Sys2Proof/Laws/Fetch.lean ====
section
/-! SUPPORT. A fetch and a clause whose bytes lie in one line that the core's L1 holds whole (R200). -/

namespace Sys2Proof.Machine

theorem linePieces_within {va n : Nat} (h : 0 < n) (k : va % 128 + n ≤ 128) : linePieces va (n + 1) n = [(va, va % 128, n)] := by
  have m : min n (128 - va % 128) = n := by omega
  cases n with
  | zero => omega
  | succ n => simp [linePieces, m]

/-- A hit in the core's L1 TLB changes no TLB. -/
theorem fillTlb_near {s : State} {core tenant : Nat} {va : W64} {acc : Access}
    (h : ∃ e ∈ State.tlbOf s.mmu.l1tlb core, e.serves tenant va.toNat acc = true) : fillTlb s core tenant va acc = s := by
  have : (State.tlbOf s.mmu.l1tlb core).any (fun e => e.serves tenant va.toNat acc) = true := List.any_eq_true.mpr h
  simp [fillTlb, this]

/-- A sound line stops no access. -/
theorem lostStop_none {s : State} {q : Req} (h : notLost s q.part (q.line * 128)) : lostStop s q = none := by
  unfold lostStop
  have : ¬(s.region q.part (q.line * 128) = .unbacked ∧ (s.home q.part (q.line * 128)).slice ∈ (s.part q.part).lostAll) :=
    fun k => h k.1 k.2
  simp only [Bool.and_eq_true, decide_eq_true_eq, List.contains_eq_mem]
  rw [if_neg this]

theorem withFetch_within {s : State} {c : Ctx} {va n : Nat} {x : Xlated} {l : L1Line} (h : 0 < n) (k : va % 128 + n ≤ 128)
    (hx : xlate s c.crew.core c.launch.tenant (w64 va) .fetch c.sp.faults = .ok x) (ha : c.sp.aborted = none)
    (near : ∃ e ∈ State.tlbOf s.mmu.l1tlb c.crew.core, e.serves c.launch.tenant (w64 va).toNat .fetch = true)
    (sound : notLost s c.part (x.pa / 128 * 128))
    (hl : Tbl.find? s.caches.l1 (lineKey c.crew.core (x.pa / 128) x.view) = some l) (hv : l.valid = BitVec.allOnes 128)
    (f : State → List Byte → State) : withFetch s c va n f = f s (toBytes n (lineField l.data (x.pa % 128) n)) := by
  have hs (q : Req) (hp : q.part = c.part) (hq : q.line = x.pa / 128) : lostStop s q = none := lostStop_none (by rw [hp, hq]; exact sound)
  simp [withFetch, withBytesOf, linePieces_within h k, hx, worst, ha, Res.bind, engineRead, laneReq, reqOf, hl, hv, fillTlb_near near, hs]

/-- The clause's words, in a line that the core holds; the core has fetched no clause before. -/
theorem clauseAt_within {s : State} {c : Ctx} {h : W64} {x : Xlated} {l : L1Line}
    (hx : xlate s c.crew.core c.launch.tenant (w64 h.toNat) .fetch c.sp.faults = .ok x) (ha : c.sp.aborted = none)
    (near : ∃ e ∈ State.tlbOf s.mmu.l1tlb c.crew.core, e.serves c.launch.tenant (w64 h.toNat).toNat .fetch = true)
    (sound : notLost s c.part (x.pa / 128 * 128))
    (hl : Tbl.find? s.caches.l1 (lineKey c.crew.core (x.pa / 128) x.view) = some l) (hv : l.valid = BitVec.allOnes 128)
    (hc : (s.core c.crew.core).code = [])
    (hn : (Header.ofWord (w64 (leBytes (toBytes 8 (lineField l.data (x.pa % 128) 8))))).count ≤ 15)
    (hh : h.toNat % 128 + 128 ≤ 128) :
    let w := w64 (leBytes (toBytes 8 (lineField l.data (x.pa % 128) 8)))
    let n := (Header.ofWord w).count
    let ws := wordsOf ((toBytes (8 * (n + 1)) (lineField l.data (x.pa % 128) (8 * (n + 1)))).drop 8) n
    ClauseAt s c h (s.setCore c.crew.core { s.core c.crew.core with code := [(c.launch.tenant * 2 ^ 52 + h.toNat, w :: ws)] }) w ws := by
  intro w n ws k
  have h1 := fun f => withFetch_within (s := s) (c := c) (va := h.toNat) (n := 8) (x := x) (l := l) (by decide) (by omega) hx ha near sound hl hv f
  have h2 := fun f => withFetch_within (s := s) (c := c) (va := h.toNat) (n := 8 * (n + 1)) (x := x) (l := l) (by omega)
    (by have : n ≤ 15 := hn; omega) hx ha near sound hl hv f
  have n16 : n ≤ 16 := Nat.le_succ_of_le hn
  unfold withClause
  simp only [hc]
  have hf : (if (decide (h.toNat < 2 ^ 52) && Config.codeKept s.steps c.crew.core) = true then Tbl.find? ([] : List (Nat × List W64)) (c.launch.tenant * 2 ^ 52 + h.toNat)
      else none) = none := by split <;> rfl
  rw [hf]
  have e : (Header.ofWord (w64 (leBytes (toBytes 8 (lineField l.data (x.pa % 128) 8))))).count ≤ 16 := n16
  simp only [h1, e, if_true]
  rw [h2, hc]
  rfl

end Sys2Proof.Machine
end

