-- ==== Sys2Proof/Laws/Table.lean ====
section
/-! SUPPORT. The laws of finite tables: what a key reads after an update, and that every update keeps the canonical form. -/

namespace Sys2Proof.Machine

variable {α : Type}

@[simp] theorem Tbl.find?_nil (n : Nat) : Tbl.find? ([] : List (Nat × α)) n = none := rfl

theorem Tbl.find?_put (l : List (Nat × α)) (n m : Nat) (x : α) :
    Tbl.find? (Tbl.put l n x) m = if m = n then some x else Tbl.find? l m := by
  induction l with
  | nil => by_cases h : n = m <;> simp [Tbl.put, Tbl.find?, h, eq_comm]
  | cons p t ih =>
    obtain ⟨k, v⟩ := p
    simp only [Tbl.put]
    by_cases h1 : n < k
    · by_cases h : m = n
      · simp [h1, Tbl.find?, h]
      · have h' : ¬ n = m := fun e => h e.symm
        simp [h1, Tbl.find?, h, h']
    · by_cases h2 : k = n
      · subst h2
        by_cases h : m = k <;> simp [Tbl.find?, h, eq_comm]
      · simp only [h1, h2, if_false, Tbl.find?, ih]
        by_cases h3 : k = m
        · subst h3; simp [h2]
        · simp [h3]

@[simp] theorem Tbl.find?_put_same (l : List (Nat × α)) (n : Nat) (x : α) : Tbl.find? (Tbl.put l n x) n = some x := by
  simp [Tbl.find?_put]

theorem Tbl.find?_put_other (l : List (Nat × α)) {n m : Nat} (x : α) (h : m ≠ n) :
    Tbl.find? (Tbl.put l n x) m = Tbl.find? l m := by simp [Tbl.find?_put, h]

@[simp] theorem Tbl.getD_put_same (l : List (Nat × α)) (n : Nat) (x d : α) : Tbl.getD (Tbl.put l n x) n d = x := by
  simp [Tbl.getD]

theorem Tbl.getD_put_other (l : List (Nat × α)) {n m : Nat} (x d : α) (h : m ≠ n) :
    Tbl.getD (Tbl.put l n x) m d = Tbl.getD l m d := by simp [Tbl.getD, Tbl.find?_put_other l x h]

theorem Tbl.find?_upd (l : List (Nat × α)) (n m : Nat) (f : α → α) :
    Tbl.find? (Tbl.upd l n f) m = if m = n then (Tbl.find? l n).map f else Tbl.find? l m := by
  unfold Tbl.upd
  cases h : Tbl.find? l n with
  | none =>
    by_cases hm : m = n
    · subst hm; simp [h]
    · simp [hm]
  | some v => simp [Tbl.find?_put]

@[simp] theorem Tbl.find?_upd_same (l : List (Nat × α)) (n : Nat) (f : α → α) :
    Tbl.find? (Tbl.upd l n f) n = (Tbl.find? l n).map f := by simp [Tbl.find?_upd]

theorem Tbl.find?_upd_other (l : List (Nat × α)) {n m : Nat} (f : α → α) (h : m ≠ n) :
    Tbl.find? (Tbl.upd l n f) m = Tbl.find? l m := by simp [Tbl.find?_upd, h]

@[simp] theorem Tbl.find?_mapVal (f : Nat → α → α) (l : List (Nat × α)) (n : Nat) :
    Tbl.find? (Tbl.mapVal f l) n = (Tbl.find? l n).map (f n) := by
  induction l with
  | nil => rfl
  | cons p t ih =>
    obtain ⟨k, v⟩ := p
    simp only [Tbl.mapVal, List.map_cons, Tbl.find?] at ih ⊢
    by_cases h : k = n
    · subst h; simp
    · simp only [h, if_false]; exact ih

section Canon
variable [DecidableEq α] {d : α}

theorem Tbl.canon_mono {l : List (Nat × α)} {a b : Nat} (h : Tbl.canon d b l = true) (hab : a ≤ b) : Tbl.canon d a l = true := by
  cases l with
  | nil => rfl
  | cons p t =>
    obtain ⟨k, v⟩ := p
    simp only [Tbl.canon, Bool.and_eq_true, decide_eq_true_eq] at h ⊢
    exact ⟨⟨by omega, h.1.2⟩, h.2⟩

/-- Putting a value other than the default keeps the canonical form. -/
theorem Tbl.canon_put {l : List (Nat × α)} {lo n : Nat} {x : α} (h : Tbl.canon d lo l = true) (hn : lo ≤ n) (hx : x ≠ d) :
    Tbl.canon d lo (Tbl.put l n x) = true := by
  induction l generalizing lo with
  | nil => simp [Tbl.put, Tbl.canon, hn, hx]
  | cons p t ih =>
    obtain ⟨k, v⟩ := p
    simp only [Tbl.canon, Bool.and_eq_true, decide_eq_true_eq] at h
    simp only [Tbl.put]
    by_cases h1 : n < k
    · simp only [h1, if_true, Tbl.canon, Bool.and_eq_true, decide_eq_true_eq]
      exact ⟨⟨hn, hx⟩, ⟨by omega, h.1.2⟩, h.2⟩
    · by_cases h2 : k = n
      · subst h2
        simp only [h1, if_false, if_true, Tbl.canon, Bool.and_eq_true, decide_eq_true_eq]
        exact ⟨⟨hn, hx⟩, h.2⟩
      · simp only [h1, h2, if_false, Tbl.canon, Bool.and_eq_true, decide_eq_true_eq]
        exact ⟨h.1, ih h.2 (by omega)⟩

/-- Removing a key keeps the canonical form. -/
theorem Tbl.canon_del {l : List (Nat × α)} {lo : Nat} (n : Nat) (h : Tbl.canon d lo l = true) : Tbl.canon d lo (Tbl.del l n) = true := by
  induction l generalizing lo with
  | nil => rfl
  | cons p t ih =>
    obtain ⟨k, v⟩ := p
    simp only [Tbl.canon, Bool.and_eq_true, decide_eq_true_eq] at h
    simp only [Tbl.del]
    by_cases h1 : k = n
    · simp only [h1, if_true]
      exact Tbl.canon_mono h.2 (by omega)
    · simp only [h1, if_false, Tbl.canon, Bool.and_eq_true, decide_eq_true_eq]
      exact ⟨h.1, ih h.2⟩

/-- Setting a key of a sparse table keeps the canonical form. -/
theorem Tbl.canon_setD {l : List (Nat × α)} (n : Nat) (x : α) (h : Tbl.canon d 0 l = true) :
    Tbl.canon d 0 (Tbl.setD d l n x) = true := by
  unfold Tbl.setD
  by_cases hx : x = d
  · simp only [hx, if_true]; exact Tbl.canon_del n h
  · simp only [hx, if_false]; exact Tbl.canon_put h (Nat.zero_le n) hx

/-- Below its first key a canonical table lists nothing. -/
theorem Tbl.find?_below {l : List (Nat × α)} {lo m : Nat} (h : Tbl.canon d lo l = true) (hm : m < lo) : Tbl.find? l m = none := by
  induction l generalizing lo with
  | nil => rfl
  | cons p t ih =>
    obtain ⟨k, v⟩ := p
    simp only [Tbl.canon, Bool.and_eq_true, decide_eq_true_eq] at h
    simp only [Tbl.find?]
    rw [if_neg (by omega)]
    exact ih h.2 (by omega)

/-- In a canonical table a removed key is not listed, and every other key reads as before. -/
theorem Tbl.find?_del {l : List (Nat × α)} {lo : Nat} (n m : Nat) (h : Tbl.canon d lo l = true) :
    Tbl.find? (Tbl.del l n) m = if m = n then none else Tbl.find? l m := by
  induction l generalizing lo with
  | nil => simp [Tbl.del]
  | cons p t ih =>
    obtain ⟨k, v⟩ := p
    simp only [Tbl.canon, Bool.and_eq_true, decide_eq_true_eq] at h
    simp only [Tbl.del]
    by_cases h1 : k = n
    · subst h1
      simp only [if_true, Tbl.find?]
      by_cases h2 : m = k
      · subst h2; simp only [if_true]; exact Tbl.find?_below h.2 (by omega)
      · simp [h2, eq_comm]
    · simp only [h1, if_false, Tbl.find?]
      by_cases h2 : k = m
      · subst h2; simp [h1]
      · simp only [h2, if_false]; exact ih h.2

/-- Read after write: the key written reads the value, every other key reads as before. -/
theorem Tbl.getD_setD {l : List (Nat × α)} (n m : Nat) (x : α) (h : Tbl.canon d 0 l = true) :
    Tbl.getD (Tbl.setD d l n x) m d = if m = n then x else Tbl.getD l m d := by
  unfold Tbl.setD Tbl.getD
  by_cases hx : x = d
  · subst hx
    simp only [if_true, Tbl.find?_del n m h]
    by_cases hm : m = n <;> simp [hm]
  · simp only [hx, if_false, Tbl.find?_put]
    by_cases hm : m = n <;> simp [hm]

/-- Canonical tables that read alike at every key are equal. -/
theorem Tbl.canon_ext {l l' : List (Nat × α)} {lo lo' : Nat} (h : Tbl.canon d lo l = true) (h' : Tbl.canon d lo' l' = true)
    (he : ∀ m, Tbl.getD l m d = Tbl.getD l' m d) : l = l' := by
  induction l generalizing l' lo lo' with
  | nil =>
    cases l' with
    | nil => rfl
    | cons p t =>
      obtain ⟨k, v⟩ := p
      simp only [Tbl.canon, Bool.and_eq_true, decide_eq_true_eq] at h'
      have := he k
      simp [Tbl.getD, Tbl.find?] at this
      exact absurd this.symm h'.1.2
  | cons p t ih =>
    obtain ⟨k, v⟩ := p
    simp only [Tbl.canon, Bool.and_eq_true, decide_eq_true_eq] at h
    cases l' with
    | nil =>
      have := he k
      simp [Tbl.getD, Tbl.find?] at this
      exact absurd this h.1.2
    | cons p' t' =>
      obtain ⟨k', v'⟩ := p'
      simp only [Tbl.canon, Bool.and_eq_true, decide_eq_true_eq] at h'
      have hk : k = k' := by
        rcases Nat.lt_trichotomy k k' with hlt | heq | hgt
        · have e := he k
          simp only [Tbl.getD, Tbl.find?, if_true] at e
          rw [if_neg (by omega), Tbl.find?_below h'.2 (by omega)] at e
          exact absurd e h.1.2
        · exact heq
        · have e := he k'
          simp only [Tbl.getD, Tbl.find?, if_true] at e
          rw [if_neg (by omega), Tbl.find?_below h.2 (by omega)] at e
          exact absurd e.symm h'.1.2
      subst hk
      have hv : v = v' := by simpa [Tbl.getD, Tbl.find?] using he k
      subst hv
      rw [ih h.2 h'.2 fun m => ?_]
      by_cases hm : m = k
      · subst hm
        rw [Tbl.getD, Tbl.getD, Tbl.find?_below h.2 (by omega), Tbl.find?_below h'.2 (by omega)]
      · have e := he m
        have hm' : ¬ k = m := fun h => hm h.symm
        simpa [Tbl.getD, Tbl.find?, hm'] using e

end Canon

end Sys2Proof.Machine
end

