-- ==== Sys2Proof/Laws/State.lean ====
section
/-! SUPPORT. What each named update of the state leaves unchanged, field by field, and what it reads back as. -/

namespace Sys2Proof.Machine

set_option Elab.async false

/-! Each update changes one field. -/

@[simp] theorem State.setPart_mem (s : State) (p : Nat) (x : Partition) : (s.setPart p x).mem = s.mem := rfl
@[simp] theorem State.setPart_memKey (s : State) (p : Nat) (x : Partition) : (s.setPart p x).memKey = s.memKey := rfl
@[simp] theorem State.setPart_memSeed (s : State) (p : Nat) (x : Partition) : (s.setPart p x).memSeed = s.memSeed := rfl
@[simp] theorem State.setPart_ws (s : State) (p : Nat) (x : Partition) : (s.setPart p x).ws = s.ws := rfl
@[simp] theorem State.setPart_tenants (s : State) (p : Nat) (x : Partition) : (s.setPart p x).tenants = s.tenants := rfl
@[simp] theorem State.setPart_launches (s : State) (p : Nat) (x : Partition) : (s.setPart p x).launches = s.launches := rfl
@[simp] theorem State.setPart_crews (s : State) (p : Nat) (x : Partition) : (s.setPart p x).crews = s.crews := rfl
@[simp] theorem State.setPart_groups (s : State) (p : Nat) (x : Partition) : (s.setPart p x).groups = s.groups := rfl
@[simp] theorem State.setPart_cores (s : State) (p : Nat) (x : Partition) : (s.setPart p x).cores = s.cores := rfl
@[simp] theorem State.setPart_lazy (s : State) (p : Nat) (x : Partition) : (s.setPart p x).lazy = s.lazy := rfl
@[simp] theorem State.setPart_caches (s : State) (p : Nat) (x : Partition) : (s.setPart p x).caches = s.caches := rfl
@[simp] theorem State.setPart_mmu (s : State) (p : Nat) (x : Partition) : (s.setPart p x).mmu = s.mmu := rfl
@[simp] theorem State.setPart_dev (s : State) (p : Nat) (x : Partition) : (s.setPart p x).dev = s.dev := rfl
@[simp] theorem State.setPart_outbound (s : State) (p : Nat) (x : Partition) : (s.setPart p x).outbound = s.outbound := rfl
@[simp] theorem State.setPart_migration (s : State) (p : Nat) (x : Partition) : (s.setPart p x).migration = s.migration := rfl
@[simp] theorem State.setPart_straps (s : State) (p : Nat) (x : Partition) : (s.setPart p x).straps = s.straps := rfl
@[simp] theorem State.setPart_cycle (s : State) (p : Nat) (x : Partition) : (s.setPart p x).cycle = s.cycle := rfl
@[simp] theorem State.setPart_steps (s : State) (p : Nat) (x : Partition) : (s.setPart p x).steps = s.steps := rfl
@[simp] theorem State.setPart_seed (s : State) (p : Nat) (x : Partition) : (s.setPart p x).seed = s.seed := rfl
@[simp] theorem State.setPart_cur (s : State) (p : Nat) (x : Partition) : (s.setPart p x).cur = s.cur := rfl
@[simp] theorem State.setPart_shadowErr (s : State) (p : Nat) (x : Partition) : (s.setPart p x).shadowErr = s.shadowErr := rfl
@[simp] theorem State.setPart_inputs (s : State) (p : Nat) (x : Partition) : (s.setPart p x).inputs = s.inputs := rfl

@[simp] theorem State.setCore_mem (s : State) (c : Nat) (x : Core) : (s.setCore c x).mem = s.mem := rfl
@[simp] theorem State.setCore_memKey (s : State) (c : Nat) (x : Core) : (s.setCore c x).memKey = s.memKey := rfl
@[simp] theorem State.setCore_memSeed (s : State) (c : Nat) (x : Core) : (s.setCore c x).memSeed = s.memSeed := rfl
@[simp] theorem State.setCore_ws (s : State) (c : Nat) (x : Core) : (s.setCore c x).ws = s.ws := rfl
@[simp] theorem State.setCore_parts (s : State) (c : Nat) (x : Core) : (s.setCore c x).parts = s.parts := rfl
@[simp] theorem State.setCore_tenants (s : State) (c : Nat) (x : Core) : (s.setCore c x).tenants = s.tenants := rfl
@[simp] theorem State.setCore_launches (s : State) (c : Nat) (x : Core) : (s.setCore c x).launches = s.launches := rfl
@[simp] theorem State.setCore_crews (s : State) (c : Nat) (x : Core) : (s.setCore c x).crews = s.crews := rfl
@[simp] theorem State.setCore_groups (s : State) (c : Nat) (x : Core) : (s.setCore c x).groups = s.groups := rfl
@[simp] theorem State.setCore_lazy (s : State) (c : Nat) (x : Core) : (s.setCore c x).lazy = s.lazy := rfl
@[simp] theorem State.setCore_caches (s : State) (c : Nat) (x : Core) : (s.setCore c x).caches = s.caches := rfl
@[simp] theorem State.setCore_mmu (s : State) (c : Nat) (x : Core) : (s.setCore c x).mmu = s.mmu := rfl
@[simp] theorem State.setCore_dev (s : State) (c : Nat) (x : Core) : (s.setCore c x).dev = s.dev := rfl
@[simp] theorem State.setCore_outbound (s : State) (c : Nat) (x : Core) : (s.setCore c x).outbound = s.outbound := rfl
@[simp] theorem State.setCore_migration (s : State) (c : Nat) (x : Core) : (s.setCore c x).migration = s.migration := rfl
@[simp] theorem State.setCore_straps (s : State) (c : Nat) (x : Core) : (s.setCore c x).straps = s.straps := rfl
@[simp] theorem State.setCore_cycle (s : State) (c : Nat) (x : Core) : (s.setCore c x).cycle = s.cycle := rfl
@[simp] theorem State.setCore_steps (s : State) (c : Nat) (x : Core) : (s.setCore c x).steps = s.steps := rfl
@[simp] theorem State.setCore_seed (s : State) (c : Nat) (x : Core) : (s.setCore c x).seed = s.seed := rfl
@[simp] theorem State.setCore_cur (s : State) (c : Nat) (x : Core) : (s.setCore c x).cur = s.cur := rfl
@[simp] theorem State.setCore_shadowErr (s : State) (c : Nat) (x : Core) : (s.setCore c x).shadowErr = s.shadowErr := rfl
@[simp] theorem State.setCore_inputs (s : State) (c : Nat) (x : Core) : (s.setCore c x).inputs = s.inputs := rfl

@[simp] theorem State.setDev_mem (s : State) (d : Device) : (s.setDev d).mem = s.mem := rfl
@[simp] theorem State.setDev_memKey (s : State) (d : Device) : (s.setDev d).memKey = s.memKey := rfl
@[simp] theorem State.setDev_memSeed (s : State) (d : Device) : (s.setDev d).memSeed = s.memSeed := rfl
@[simp] theorem State.setDev_ws (s : State) (d : Device) : (s.setDev d).ws = s.ws := rfl
@[simp] theorem State.setDev_parts (s : State) (d : Device) : (s.setDev d).parts = s.parts := rfl
@[simp] theorem State.setDev_tenants (s : State) (d : Device) : (s.setDev d).tenants = s.tenants := rfl
@[simp] theorem State.setDev_launches (s : State) (d : Device) : (s.setDev d).launches = s.launches := rfl
@[simp] theorem State.setDev_crews (s : State) (d : Device) : (s.setDev d).crews = s.crews := rfl
@[simp] theorem State.setDev_groups (s : State) (d : Device) : (s.setDev d).groups = s.groups := rfl
@[simp] theorem State.setDev_cores (s : State) (d : Device) : (s.setDev d).cores = s.cores := rfl
@[simp] theorem State.setDev_lazy (s : State) (d : Device) : (s.setDev d).lazy = s.lazy := rfl
@[simp] theorem State.setDev_caches (s : State) (d : Device) : (s.setDev d).caches = s.caches := rfl
@[simp] theorem State.setDev_mmu (s : State) (d : Device) : (s.setDev d).mmu = s.mmu := rfl
@[simp] theorem State.setDev_outbound (s : State) (d : Device) : (s.setDev d).outbound = s.outbound := rfl
@[simp] theorem State.setDev_migration (s : State) (d : Device) : (s.setDev d).migration = s.migration := rfl
@[simp] theorem State.setDev_straps (s : State) (d : Device) : (s.setDev d).straps = s.straps := rfl
@[simp] theorem State.setDev_cycle (s : State) (d : Device) : (s.setDev d).cycle = s.cycle := rfl
@[simp] theorem State.setDev_steps (s : State) (d : Device) : (s.setDev d).steps = s.steps := rfl
@[simp] theorem State.setDev_seed (s : State) (d : Device) : (s.setDev d).seed = s.seed := rfl
@[simp] theorem State.setDev_cur (s : State) (d : Device) : (s.setDev d).cur = s.cur := rfl
@[simp] theorem State.setDev_shadowErr (s : State) (d : Device) : (s.setDev d).shadowErr = s.shadowErr := rfl
@[simp] theorem State.setDev_inputs (s : State) (d : Device) : (s.setDev d).inputs = s.inputs := rfl

@[simp] theorem State.setFunc_mem (s : State) (f : Nat) (x : Func) : (s.setFunc f x).mem = s.mem := rfl
@[simp] theorem State.setFunc_memKey (s : State) (f : Nat) (x : Func) : (s.setFunc f x).memKey = s.memKey := rfl
@[simp] theorem State.setFunc_memSeed (s : State) (f : Nat) (x : Func) : (s.setFunc f x).memSeed = s.memSeed := rfl
@[simp] theorem State.setFunc_ws (s : State) (f : Nat) (x : Func) : (s.setFunc f x).ws = s.ws := rfl
@[simp] theorem State.setFunc_parts (s : State) (f : Nat) (x : Func) : (s.setFunc f x).parts = s.parts := rfl
@[simp] theorem State.setFunc_tenants (s : State) (f : Nat) (x : Func) : (s.setFunc f x).tenants = s.tenants := rfl
@[simp] theorem State.setFunc_launches (s : State) (f : Nat) (x : Func) : (s.setFunc f x).launches = s.launches := rfl
@[simp] theorem State.setFunc_crews (s : State) (f : Nat) (x : Func) : (s.setFunc f x).crews = s.crews := rfl
@[simp] theorem State.setFunc_groups (s : State) (f : Nat) (x : Func) : (s.setFunc f x).groups = s.groups := rfl
@[simp] theorem State.setFunc_cores (s : State) (f : Nat) (x : Func) : (s.setFunc f x).cores = s.cores := rfl
@[simp] theorem State.setFunc_lazy (s : State) (f : Nat) (x : Func) : (s.setFunc f x).lazy = s.lazy := rfl
@[simp] theorem State.setFunc_caches (s : State) (f : Nat) (x : Func) : (s.setFunc f x).caches = s.caches := rfl
@[simp] theorem State.setFunc_mmu (s : State) (f : Nat) (x : Func) : (s.setFunc f x).mmu = s.mmu := rfl
@[simp] theorem State.setFunc_outbound (s : State) (f : Nat) (x : Func) : (s.setFunc f x).outbound = s.outbound := rfl
@[simp] theorem State.setFunc_migration (s : State) (f : Nat) (x : Func) : (s.setFunc f x).migration = s.migration := rfl
@[simp] theorem State.setFunc_straps (s : State) (f : Nat) (x : Func) : (s.setFunc f x).straps = s.straps := rfl
@[simp] theorem State.setFunc_cycle (s : State) (f : Nat) (x : Func) : (s.setFunc f x).cycle = s.cycle := rfl
@[simp] theorem State.setFunc_steps (s : State) (f : Nat) (x : Func) : (s.setFunc f x).steps = s.steps := rfl
@[simp] theorem State.setFunc_seed (s : State) (f : Nat) (x : Func) : (s.setFunc f x).seed = s.seed := rfl
@[simp] theorem State.setFunc_cur (s : State) (f : Nat) (x : Func) : (s.setFunc f x).cur = s.cur := rfl
@[simp] theorem State.setFunc_shadowErr (s : State) (f : Nat) (x : Func) : (s.setFunc f x).shadowErr = s.shadowErr := rfl
@[simp] theorem State.setFunc_inputs (s : State) (f : Nat) (x : Func) : (s.setFunc f x).inputs = s.inputs := rfl

@[simp] theorem State.setQueue_mem (s : State) (f q : Nat) (x : Queue) : (s.setQueue f q x).mem = s.mem := rfl
@[simp] theorem State.setQueue_memKey (s : State) (f q : Nat) (x : Queue) : (s.setQueue f q x).memKey = s.memKey := rfl
@[simp] theorem State.setQueue_memSeed (s : State) (f q : Nat) (x : Queue) : (s.setQueue f q x).memSeed = s.memSeed := rfl
@[simp] theorem State.setQueue_ws (s : State) (f q : Nat) (x : Queue) : (s.setQueue f q x).ws = s.ws := rfl
@[simp] theorem State.setQueue_parts (s : State) (f q : Nat) (x : Queue) : (s.setQueue f q x).parts = s.parts := rfl
@[simp] theorem State.setQueue_tenants (s : State) (f q : Nat) (x : Queue) : (s.setQueue f q x).tenants = s.tenants := rfl
@[simp] theorem State.setQueue_launches (s : State) (f q : Nat) (x : Queue) : (s.setQueue f q x).launches = s.launches := rfl
@[simp] theorem State.setQueue_crews (s : State) (f q : Nat) (x : Queue) : (s.setQueue f q x).crews = s.crews := rfl
@[simp] theorem State.setQueue_groups (s : State) (f q : Nat) (x : Queue) : (s.setQueue f q x).groups = s.groups := rfl
@[simp] theorem State.setQueue_cores (s : State) (f q : Nat) (x : Queue) : (s.setQueue f q x).cores = s.cores := rfl
@[simp] theorem State.setQueue_lazy (s : State) (f q : Nat) (x : Queue) : (s.setQueue f q x).lazy = s.lazy := rfl
@[simp] theorem State.setQueue_caches (s : State) (f q : Nat) (x : Queue) : (s.setQueue f q x).caches = s.caches := rfl
@[simp] theorem State.setQueue_mmu (s : State) (f q : Nat) (x : Queue) : (s.setQueue f q x).mmu = s.mmu := rfl
@[simp] theorem State.setQueue_outbound (s : State) (f q : Nat) (x : Queue) : (s.setQueue f q x).outbound = s.outbound := rfl
@[simp] theorem State.setQueue_migration (s : State) (f q : Nat) (x : Queue) : (s.setQueue f q x).migration = s.migration := rfl
@[simp] theorem State.setQueue_straps (s : State) (f q : Nat) (x : Queue) : (s.setQueue f q x).straps = s.straps := rfl
@[simp] theorem State.setQueue_cycle (s : State) (f q : Nat) (x : Queue) : (s.setQueue f q x).cycle = s.cycle := rfl
@[simp] theorem State.setQueue_steps (s : State) (f q : Nat) (x : Queue) : (s.setQueue f q x).steps = s.steps := rfl
@[simp] theorem State.setQueue_seed (s : State) (f q : Nat) (x : Queue) : (s.setQueue f q x).seed = s.seed := rfl
@[simp] theorem State.setQueue_cur (s : State) (f q : Nat) (x : Queue) : (s.setQueue f q x).cur = s.cur := rfl
@[simp] theorem State.setQueue_shadowErr (s : State) (f q : Nat) (x : Queue) : (s.setQueue f q x).shadowErr = s.shadowErr := rfl
@[simp] theorem State.setQueue_inputs (s : State) (f q : Nat) (x : Queue) : (s.setQueue f q x).inputs = s.inputs := rfl

@[simp] theorem State.setPair_mem (s : State) (k : Nat) (x : Pair) : (s.setPair k x).mem = s.mem := rfl
@[simp] theorem State.setPair_memKey (s : State) (k : Nat) (x : Pair) : (s.setPair k x).memKey = s.memKey := rfl
@[simp] theorem State.setPair_memSeed (s : State) (k : Nat) (x : Pair) : (s.setPair k x).memSeed = s.memSeed := rfl
@[simp] theorem State.setPair_ws (s : State) (k : Nat) (x : Pair) : (s.setPair k x).ws = s.ws := rfl
@[simp] theorem State.setPair_parts (s : State) (k : Nat) (x : Pair) : (s.setPair k x).parts = s.parts := rfl
@[simp] theorem State.setPair_tenants (s : State) (k : Nat) (x : Pair) : (s.setPair k x).tenants = s.tenants := rfl
@[simp] theorem State.setPair_launches (s : State) (k : Nat) (x : Pair) : (s.setPair k x).launches = s.launches := rfl
@[simp] theorem State.setPair_crews (s : State) (k : Nat) (x : Pair) : (s.setPair k x).crews = s.crews := rfl
@[simp] theorem State.setPair_groups (s : State) (k : Nat) (x : Pair) : (s.setPair k x).groups = s.groups := rfl
@[simp] theorem State.setPair_cores (s : State) (k : Nat) (x : Pair) : (s.setPair k x).cores = s.cores := rfl
@[simp] theorem State.setPair_lazy (s : State) (k : Nat) (x : Pair) : (s.setPair k x).lazy = s.lazy := rfl
@[simp] theorem State.setPair_caches (s : State) (k : Nat) (x : Pair) : (s.setPair k x).caches = s.caches := rfl
@[simp] theorem State.setPair_mmu (s : State) (k : Nat) (x : Pair) : (s.setPair k x).mmu = s.mmu := rfl
@[simp] theorem State.setPair_outbound (s : State) (k : Nat) (x : Pair) : (s.setPair k x).outbound = s.outbound := rfl
@[simp] theorem State.setPair_migration (s : State) (k : Nat) (x : Pair) : (s.setPair k x).migration = s.migration := rfl
@[simp] theorem State.setPair_straps (s : State) (k : Nat) (x : Pair) : (s.setPair k x).straps = s.straps := rfl
@[simp] theorem State.setPair_cycle (s : State) (k : Nat) (x : Pair) : (s.setPair k x).cycle = s.cycle := rfl
@[simp] theorem State.setPair_steps (s : State) (k : Nat) (x : Pair) : (s.setPair k x).steps = s.steps := rfl
@[simp] theorem State.setPair_seed (s : State) (k : Nat) (x : Pair) : (s.setPair k x).seed = s.seed := rfl
@[simp] theorem State.setPair_cur (s : State) (k : Nat) (x : Pair) : (s.setPair k x).cur = s.cur := rfl
@[simp] theorem State.setPair_shadowErr (s : State) (k : Nat) (x : Pair) : (s.setPair k x).shadowErr = s.shadowErr := rfl
@[simp] theorem State.setPair_inputs (s : State) (k : Nat) (x : Pair) : (s.setPair k x).inputs = s.inputs := rfl

@[simp] theorem State.setLink_mem (s : State) (p : Nat) (x : Link) : (s.setLink p x).mem = s.mem := rfl
@[simp] theorem State.setLink_memKey (s : State) (p : Nat) (x : Link) : (s.setLink p x).memKey = s.memKey := rfl
@[simp] theorem State.setLink_memSeed (s : State) (p : Nat) (x : Link) : (s.setLink p x).memSeed = s.memSeed := rfl
@[simp] theorem State.setLink_ws (s : State) (p : Nat) (x : Link) : (s.setLink p x).ws = s.ws := rfl
@[simp] theorem State.setLink_parts (s : State) (p : Nat) (x : Link) : (s.setLink p x).parts = s.parts := rfl
@[simp] theorem State.setLink_tenants (s : State) (p : Nat) (x : Link) : (s.setLink p x).tenants = s.tenants := rfl
@[simp] theorem State.setLink_launches (s : State) (p : Nat) (x : Link) : (s.setLink p x).launches = s.launches := rfl
@[simp] theorem State.setLink_crews (s : State) (p : Nat) (x : Link) : (s.setLink p x).crews = s.crews := rfl
@[simp] theorem State.setLink_groups (s : State) (p : Nat) (x : Link) : (s.setLink p x).groups = s.groups := rfl
@[simp] theorem State.setLink_cores (s : State) (p : Nat) (x : Link) : (s.setLink p x).cores = s.cores := rfl
@[simp] theorem State.setLink_lazy (s : State) (p : Nat) (x : Link) : (s.setLink p x).lazy = s.lazy := rfl
@[simp] theorem State.setLink_caches (s : State) (p : Nat) (x : Link) : (s.setLink p x).caches = s.caches := rfl
@[simp] theorem State.setLink_mmu (s : State) (p : Nat) (x : Link) : (s.setLink p x).mmu = s.mmu := rfl
@[simp] theorem State.setLink_outbound (s : State) (p : Nat) (x : Link) : (s.setLink p x).outbound = s.outbound := rfl
@[simp] theorem State.setLink_migration (s : State) (p : Nat) (x : Link) : (s.setLink p x).migration = s.migration := rfl
@[simp] theorem State.setLink_straps (s : State) (p : Nat) (x : Link) : (s.setLink p x).straps = s.straps := rfl
@[simp] theorem State.setLink_cycle (s : State) (p : Nat) (x : Link) : (s.setLink p x).cycle = s.cycle := rfl
@[simp] theorem State.setLink_steps (s : State) (p : Nat) (x : Link) : (s.setLink p x).steps = s.steps := rfl
@[simp] theorem State.setLink_seed (s : State) (p : Nat) (x : Link) : (s.setLink p x).seed = s.seed := rfl
@[simp] theorem State.setLink_cur (s : State) (p : Nat) (x : Link) : (s.setLink p x).cur = s.cur := rfl
@[simp] theorem State.setLink_shadowErr (s : State) (p : Nat) (x : Link) : (s.setLink p x).shadowErr = s.shadowErr := rfl
@[simp] theorem State.setLink_inputs (s : State) (p : Nat) (x : Link) : (s.setLink p x).inputs = s.inputs := rfl

@[simp] theorem State.setPortCount_mem (s : State) (m : Nat) (x : PortCount) : (s.setPortCount m x).mem = s.mem := rfl
@[simp] theorem State.setPortCount_memKey (s : State) (m : Nat) (x : PortCount) : (s.setPortCount m x).memKey = s.memKey := rfl
@[simp] theorem State.setPortCount_memSeed (s : State) (m : Nat) (x : PortCount) : (s.setPortCount m x).memSeed = s.memSeed := rfl
@[simp] theorem State.setPortCount_ws (s : State) (m : Nat) (x : PortCount) : (s.setPortCount m x).ws = s.ws := rfl
@[simp] theorem State.setPortCount_parts (s : State) (m : Nat) (x : PortCount) : (s.setPortCount m x).parts = s.parts := rfl
@[simp] theorem State.setPortCount_tenants (s : State) (m : Nat) (x : PortCount) : (s.setPortCount m x).tenants = s.tenants := rfl
@[simp] theorem State.setPortCount_launches (s : State) (m : Nat) (x : PortCount) : (s.setPortCount m x).launches = s.launches := rfl
@[simp] theorem State.setPortCount_crews (s : State) (m : Nat) (x : PortCount) : (s.setPortCount m x).crews = s.crews := rfl
@[simp] theorem State.setPortCount_groups (s : State) (m : Nat) (x : PortCount) : (s.setPortCount m x).groups = s.groups := rfl
@[simp] theorem State.setPortCount_cores (s : State) (m : Nat) (x : PortCount) : (s.setPortCount m x).cores = s.cores := rfl
@[simp] theorem State.setPortCount_lazy (s : State) (m : Nat) (x : PortCount) : (s.setPortCount m x).lazy = s.lazy := rfl
@[simp] theorem State.setPortCount_caches (s : State) (m : Nat) (x : PortCount) : (s.setPortCount m x).caches = s.caches := rfl
@[simp] theorem State.setPortCount_mmu (s : State) (m : Nat) (x : PortCount) : (s.setPortCount m x).mmu = s.mmu := rfl
@[simp] theorem State.setPortCount_outbound (s : State) (m : Nat) (x : PortCount) : (s.setPortCount m x).outbound = s.outbound := rfl
@[simp] theorem State.setPortCount_migration (s : State) (m : Nat) (x : PortCount) : (s.setPortCount m x).migration = s.migration := rfl
@[simp] theorem State.setPortCount_straps (s : State) (m : Nat) (x : PortCount) : (s.setPortCount m x).straps = s.straps := rfl
@[simp] theorem State.setPortCount_cycle (s : State) (m : Nat) (x : PortCount) : (s.setPortCount m x).cycle = s.cycle := rfl
@[simp] theorem State.setPortCount_steps (s : State) (m : Nat) (x : PortCount) : (s.setPortCount m x).steps = s.steps := rfl
@[simp] theorem State.setPortCount_seed (s : State) (m : Nat) (x : PortCount) : (s.setPortCount m x).seed = s.seed := rfl
@[simp] theorem State.setPortCount_cur (s : State) (m : Nat) (x : PortCount) : (s.setPortCount m x).cur = s.cur := rfl
@[simp] theorem State.setPortCount_shadowErr (s : State) (m : Nat) (x : PortCount) : (s.setPortCount m x).shadowErr = s.shadowErr := rfl
@[simp] theorem State.setPortCount_inputs (s : State) (m : Nat) (x : PortCount) : (s.setPortCount m x).inputs = s.inputs := rfl

@[simp] theorem State.setCaches_mem (s : State) (c : Caches) : (s.setCaches c).mem = s.mem := rfl
@[simp] theorem State.setCaches_memKey (s : State) (c : Caches) : (s.setCaches c).memKey = s.memKey := rfl
@[simp] theorem State.setCaches_memSeed (s : State) (c : Caches) : (s.setCaches c).memSeed = s.memSeed := rfl
@[simp] theorem State.setCaches_ws (s : State) (c : Caches) : (s.setCaches c).ws = s.ws := rfl
@[simp] theorem State.setCaches_parts (s : State) (c : Caches) : (s.setCaches c).parts = s.parts := rfl
@[simp] theorem State.setCaches_tenants (s : State) (c : Caches) : (s.setCaches c).tenants = s.tenants := rfl
@[simp] theorem State.setCaches_launches (s : State) (c : Caches) : (s.setCaches c).launches = s.launches := rfl
@[simp] theorem State.setCaches_crews (s : State) (c : Caches) : (s.setCaches c).crews = s.crews := rfl
@[simp] theorem State.setCaches_groups (s : State) (c : Caches) : (s.setCaches c).groups = s.groups := rfl
@[simp] theorem State.setCaches_cores (s : State) (c : Caches) : (s.setCaches c).cores = s.cores := rfl
@[simp] theorem State.setCaches_lazy (s : State) (c : Caches) : (s.setCaches c).lazy = s.lazy := rfl
@[simp] theorem State.setCaches_mmu (s : State) (c : Caches) : (s.setCaches c).mmu = s.mmu := rfl
@[simp] theorem State.setCaches_dev (s : State) (c : Caches) : (s.setCaches c).dev = s.dev := rfl
@[simp] theorem State.setCaches_outbound (s : State) (c : Caches) : (s.setCaches c).outbound = s.outbound := rfl
@[simp] theorem State.setCaches_migration (s : State) (c : Caches) : (s.setCaches c).migration = s.migration := rfl
@[simp] theorem State.setCaches_straps (s : State) (c : Caches) : (s.setCaches c).straps = s.straps := rfl
@[simp] theorem State.setCaches_cycle (s : State) (c : Caches) : (s.setCaches c).cycle = s.cycle := rfl
@[simp] theorem State.setCaches_steps (s : State) (c : Caches) : (s.setCaches c).steps = s.steps := rfl
@[simp] theorem State.setCaches_seed (s : State) (c : Caches) : (s.setCaches c).seed = s.seed := rfl
@[simp] theorem State.setCaches_cur (s : State) (c : Caches) : (s.setCaches c).cur = s.cur := rfl
@[simp] theorem State.setCaches_shadowErr (s : State) (c : Caches) : (s.setCaches c).shadowErr = s.shadowErr := rfl
@[simp] theorem State.setCaches_inputs (s : State) (c : Caches) : (s.setCaches c).inputs = s.inputs := rfl

@[simp] theorem State.setMmu_mem (s : State) (m : Mmu) : (s.setMmu m).mem = s.mem := rfl
@[simp] theorem State.setMmu_memKey (s : State) (m : Mmu) : (s.setMmu m).memKey = s.memKey := rfl
@[simp] theorem State.setMmu_memSeed (s : State) (m : Mmu) : (s.setMmu m).memSeed = s.memSeed := rfl
@[simp] theorem State.setMmu_ws (s : State) (m : Mmu) : (s.setMmu m).ws = s.ws := rfl
@[simp] theorem State.setMmu_parts (s : State) (m : Mmu) : (s.setMmu m).parts = s.parts := rfl
@[simp] theorem State.setMmu_tenants (s : State) (m : Mmu) : (s.setMmu m).tenants = s.tenants := rfl
@[simp] theorem State.setMmu_launches (s : State) (m : Mmu) : (s.setMmu m).launches = s.launches := rfl
@[simp] theorem State.setMmu_crews (s : State) (m : Mmu) : (s.setMmu m).crews = s.crews := rfl
@[simp] theorem State.setMmu_groups (s : State) (m : Mmu) : (s.setMmu m).groups = s.groups := rfl
@[simp] theorem State.setMmu_cores (s : State) (m : Mmu) : (s.setMmu m).cores = s.cores := rfl
@[simp] theorem State.setMmu_lazy (s : State) (m : Mmu) : (s.setMmu m).lazy = s.lazy := rfl
@[simp] theorem State.setMmu_caches (s : State) (m : Mmu) : (s.setMmu m).caches = s.caches := rfl
@[simp] theorem State.setMmu_dev (s : State) (m : Mmu) : (s.setMmu m).dev = s.dev := rfl
@[simp] theorem State.setMmu_outbound (s : State) (m : Mmu) : (s.setMmu m).outbound = s.outbound := rfl
@[simp] theorem State.setMmu_migration (s : State) (m : Mmu) : (s.setMmu m).migration = s.migration := rfl
@[simp] theorem State.setMmu_straps (s : State) (m : Mmu) : (s.setMmu m).straps = s.straps := rfl
@[simp] theorem State.setMmu_cycle (s : State) (m : Mmu) : (s.setMmu m).cycle = s.cycle := rfl
@[simp] theorem State.setMmu_steps (s : State) (m : Mmu) : (s.setMmu m).steps = s.steps := rfl
@[simp] theorem State.setMmu_seed (s : State) (m : Mmu) : (s.setMmu m).seed = s.seed := rfl
@[simp] theorem State.setMmu_cur (s : State) (m : Mmu) : (s.setMmu m).cur = s.cur := rfl
@[simp] theorem State.setMmu_shadowErr (s : State) (m : Mmu) : (s.setMmu m).shadowErr = s.shadowErr := rfl
@[simp] theorem State.setMmu_inputs (s : State) (m : Mmu) : (s.setMmu m).inputs = s.inputs := rfl

@[simp] theorem State.updLaunch_mem (s : State) (l : Nat) (f : Launch → Launch) : (s.updLaunch l f).mem = s.mem := rfl
@[simp] theorem State.updLaunch_memKey (s : State) (l : Nat) (f : Launch → Launch) : (s.updLaunch l f).memKey = s.memKey := rfl
@[simp] theorem State.updLaunch_memSeed (s : State) (l : Nat) (f : Launch → Launch) : (s.updLaunch l f).memSeed = s.memSeed := rfl
@[simp] theorem State.updLaunch_ws (s : State) (l : Nat) (f : Launch → Launch) : (s.updLaunch l f).ws = s.ws := rfl
@[simp] theorem State.updLaunch_parts (s : State) (l : Nat) (f : Launch → Launch) : (s.updLaunch l f).parts = s.parts := rfl
@[simp] theorem State.updLaunch_tenants (s : State) (l : Nat) (f : Launch → Launch) : (s.updLaunch l f).tenants = s.tenants := rfl
@[simp] theorem State.updLaunch_crews (s : State) (l : Nat) (f : Launch → Launch) : (s.updLaunch l f).crews = s.crews := rfl
@[simp] theorem State.updLaunch_groups (s : State) (l : Nat) (f : Launch → Launch) : (s.updLaunch l f).groups = s.groups := rfl
@[simp] theorem State.updLaunch_cores (s : State) (l : Nat) (f : Launch → Launch) : (s.updLaunch l f).cores = s.cores := rfl
@[simp] theorem State.updLaunch_lazy (s : State) (l : Nat) (f : Launch → Launch) : (s.updLaunch l f).lazy = s.lazy := rfl
@[simp] theorem State.updLaunch_caches (s : State) (l : Nat) (f : Launch → Launch) : (s.updLaunch l f).caches = s.caches := rfl
@[simp] theorem State.updLaunch_mmu (s : State) (l : Nat) (f : Launch → Launch) : (s.updLaunch l f).mmu = s.mmu := rfl
@[simp] theorem State.updLaunch_dev (s : State) (l : Nat) (f : Launch → Launch) : (s.updLaunch l f).dev = s.dev := rfl
@[simp] theorem State.updLaunch_outbound (s : State) (l : Nat) (f : Launch → Launch) : (s.updLaunch l f).outbound = s.outbound := rfl
@[simp] theorem State.updLaunch_migration (s : State) (l : Nat) (f : Launch → Launch) : (s.updLaunch l f).migration = s.migration := rfl
@[simp] theorem State.updLaunch_straps (s : State) (l : Nat) (f : Launch → Launch) : (s.updLaunch l f).straps = s.straps := rfl
@[simp] theorem State.updLaunch_cycle (s : State) (l : Nat) (f : Launch → Launch) : (s.updLaunch l f).cycle = s.cycle := rfl
@[simp] theorem State.updLaunch_steps (s : State) (l : Nat) (f : Launch → Launch) : (s.updLaunch l f).steps = s.steps := rfl
@[simp] theorem State.updLaunch_seed (s : State) (l : Nat) (f : Launch → Launch) : (s.updLaunch l f).seed = s.seed := rfl
@[simp] theorem State.updLaunch_cur (s : State) (l : Nat) (f : Launch → Launch) : (s.updLaunch l f).cur = s.cur := rfl
@[simp] theorem State.updLaunch_shadowErr (s : State) (l : Nat) (f : Launch → Launch) : (s.updLaunch l f).shadowErr = s.shadowErr := rfl
@[simp] theorem State.updLaunch_inputs (s : State) (l : Nat) (f : Launch → Launch) : (s.updLaunch l f).inputs = s.inputs := rfl

@[simp] theorem State.updCrew_mem (s : State) (c : Nat) (f : Crew → Crew) : (s.updCrew c f).mem = s.mem := rfl
@[simp] theorem State.updCrew_memKey (s : State) (c : Nat) (f : Crew → Crew) : (s.updCrew c f).memKey = s.memKey := rfl
@[simp] theorem State.updCrew_memSeed (s : State) (c : Nat) (f : Crew → Crew) : (s.updCrew c f).memSeed = s.memSeed := rfl
@[simp] theorem State.updCrew_ws (s : State) (c : Nat) (f : Crew → Crew) : (s.updCrew c f).ws = s.ws := rfl
@[simp] theorem State.updCrew_parts (s : State) (c : Nat) (f : Crew → Crew) : (s.updCrew c f).parts = s.parts := rfl
@[simp] theorem State.updCrew_tenants (s : State) (c : Nat) (f : Crew → Crew) : (s.updCrew c f).tenants = s.tenants := rfl
@[simp] theorem State.updCrew_launches (s : State) (c : Nat) (f : Crew → Crew) : (s.updCrew c f).launches = s.launches := rfl
@[simp] theorem State.updCrew_groups (s : State) (c : Nat) (f : Crew → Crew) : (s.updCrew c f).groups = s.groups := rfl
@[simp] theorem State.updCrew_cores (s : State) (c : Nat) (f : Crew → Crew) : (s.updCrew c f).cores = s.cores := rfl
@[simp] theorem State.updCrew_lazy (s : State) (c : Nat) (f : Crew → Crew) : (s.updCrew c f).lazy = s.lazy := rfl
@[simp] theorem State.updCrew_caches (s : State) (c : Nat) (f : Crew → Crew) : (s.updCrew c f).caches = s.caches := rfl
@[simp] theorem State.updCrew_mmu (s : State) (c : Nat) (f : Crew → Crew) : (s.updCrew c f).mmu = s.mmu := rfl
@[simp] theorem State.updCrew_dev (s : State) (c : Nat) (f : Crew → Crew) : (s.updCrew c f).dev = s.dev := rfl
@[simp] theorem State.updCrew_outbound (s : State) (c : Nat) (f : Crew → Crew) : (s.updCrew c f).outbound = s.outbound := rfl
@[simp] theorem State.updCrew_migration (s : State) (c : Nat) (f : Crew → Crew) : (s.updCrew c f).migration = s.migration := rfl
@[simp] theorem State.updCrew_straps (s : State) (c : Nat) (f : Crew → Crew) : (s.updCrew c f).straps = s.straps := rfl
@[simp] theorem State.updCrew_cycle (s : State) (c : Nat) (f : Crew → Crew) : (s.updCrew c f).cycle = s.cycle := rfl
@[simp] theorem State.updCrew_steps (s : State) (c : Nat) (f : Crew → Crew) : (s.updCrew c f).steps = s.steps := rfl
@[simp] theorem State.updCrew_seed (s : State) (c : Nat) (f : Crew → Crew) : (s.updCrew c f).seed = s.seed := rfl
@[simp] theorem State.updCrew_cur (s : State) (c : Nat) (f : Crew → Crew) : (s.updCrew c f).cur = s.cur := rfl
@[simp] theorem State.updCrew_shadowErr (s : State) (c : Nat) (f : Crew → Crew) : (s.updCrew c f).shadowErr = s.shadowErr := rfl
@[simp] theorem State.updCrew_inputs (s : State) (c : Nat) (f : Crew → Crew) : (s.updCrew c f).inputs = s.inputs := rfl

@[simp] theorem State.updGroup_mem (s : State) (g : Nat) (f : Group → Group) : (s.updGroup g f).mem = s.mem := rfl
@[simp] theorem State.updGroup_memKey (s : State) (g : Nat) (f : Group → Group) : (s.updGroup g f).memKey = s.memKey := rfl
@[simp] theorem State.updGroup_memSeed (s : State) (g : Nat) (f : Group → Group) : (s.updGroup g f).memSeed = s.memSeed := rfl
@[simp] theorem State.updGroup_ws (s : State) (g : Nat) (f : Group → Group) : (s.updGroup g f).ws = s.ws := rfl
@[simp] theorem State.updGroup_parts (s : State) (g : Nat) (f : Group → Group) : (s.updGroup g f).parts = s.parts := rfl
@[simp] theorem State.updGroup_tenants (s : State) (g : Nat) (f : Group → Group) : (s.updGroup g f).tenants = s.tenants := rfl
@[simp] theorem State.updGroup_launches (s : State) (g : Nat) (f : Group → Group) : (s.updGroup g f).launches = s.launches := rfl
@[simp] theorem State.updGroup_crews (s : State) (g : Nat) (f : Group → Group) : (s.updGroup g f).crews = s.crews := rfl
@[simp] theorem State.updGroup_cores (s : State) (g : Nat) (f : Group → Group) : (s.updGroup g f).cores = s.cores := rfl
@[simp] theorem State.updGroup_lazy (s : State) (g : Nat) (f : Group → Group) : (s.updGroup g f).lazy = s.lazy := rfl
@[simp] theorem State.updGroup_caches (s : State) (g : Nat) (f : Group → Group) : (s.updGroup g f).caches = s.caches := rfl
@[simp] theorem State.updGroup_mmu (s : State) (g : Nat) (f : Group → Group) : (s.updGroup g f).mmu = s.mmu := rfl
@[simp] theorem State.updGroup_dev (s : State) (g : Nat) (f : Group → Group) : (s.updGroup g f).dev = s.dev := rfl
@[simp] theorem State.updGroup_outbound (s : State) (g : Nat) (f : Group → Group) : (s.updGroup g f).outbound = s.outbound := rfl
@[simp] theorem State.updGroup_migration (s : State) (g : Nat) (f : Group → Group) : (s.updGroup g f).migration = s.migration := rfl
@[simp] theorem State.updGroup_straps (s : State) (g : Nat) (f : Group → Group) : (s.updGroup g f).straps = s.straps := rfl
@[simp] theorem State.updGroup_cycle (s : State) (g : Nat) (f : Group → Group) : (s.updGroup g f).cycle = s.cycle := rfl
@[simp] theorem State.updGroup_steps (s : State) (g : Nat) (f : Group → Group) : (s.updGroup g f).steps = s.steps := rfl
@[simp] theorem State.updGroup_seed (s : State) (g : Nat) (f : Group → Group) : (s.updGroup g f).seed = s.seed := rfl
@[simp] theorem State.updGroup_cur (s : State) (g : Nat) (f : Group → Group) : (s.updGroup g f).cur = s.cur := rfl
@[simp] theorem State.updGroup_shadowErr (s : State) (g : Nat) (f : Group → Group) : (s.updGroup g f).shadowErr = s.shadowErr := rfl
@[simp] theorem State.updGroup_inputs (s : State) (g : Nat) (f : Group → Group) : (s.updGroup g f).inputs = s.inputs := rfl

@[simp] theorem State.updSplit_mem (s : State) (r : SplitRef) (f : Split → Split) : (s.updSplit r f).mem = s.mem := rfl
@[simp] theorem State.updSplit_memKey (s : State) (r : SplitRef) (f : Split → Split) : (s.updSplit r f).memKey = s.memKey := rfl
@[simp] theorem State.updSplit_memSeed (s : State) (r : SplitRef) (f : Split → Split) : (s.updSplit r f).memSeed = s.memSeed := rfl
@[simp] theorem State.updSplit_ws (s : State) (r : SplitRef) (f : Split → Split) : (s.updSplit r f).ws = s.ws := rfl
@[simp] theorem State.updSplit_parts (s : State) (r : SplitRef) (f : Split → Split) : (s.updSplit r f).parts = s.parts := rfl
@[simp] theorem State.updSplit_tenants (s : State) (r : SplitRef) (f : Split → Split) : (s.updSplit r f).tenants = s.tenants := rfl
@[simp] theorem State.updSplit_launches (s : State) (r : SplitRef) (f : Split → Split) : (s.updSplit r f).launches = s.launches := rfl
@[simp] theorem State.updSplit_crews (s : State) (r : SplitRef) (f : Split → Split) : (s.updSplit r f).crews = s.crews := rfl
@[simp] theorem State.updSplit_cores (s : State) (r : SplitRef) (f : Split → Split) : (s.updSplit r f).cores = s.cores := rfl
@[simp] theorem State.updSplit_lazy (s : State) (r : SplitRef) (f : Split → Split) : (s.updSplit r f).lazy = s.lazy := rfl
@[simp] theorem State.updSplit_caches (s : State) (r : SplitRef) (f : Split → Split) : (s.updSplit r f).caches = s.caches := rfl
@[simp] theorem State.updSplit_mmu (s : State) (r : SplitRef) (f : Split → Split) : (s.updSplit r f).mmu = s.mmu := rfl
@[simp] theorem State.updSplit_dev (s : State) (r : SplitRef) (f : Split → Split) : (s.updSplit r f).dev = s.dev := rfl
@[simp] theorem State.updSplit_outbound (s : State) (r : SplitRef) (f : Split → Split) : (s.updSplit r f).outbound = s.outbound := rfl
@[simp] theorem State.updSplit_migration (s : State) (r : SplitRef) (f : Split → Split) : (s.updSplit r f).migration = s.migration := rfl
@[simp] theorem State.updSplit_straps (s : State) (r : SplitRef) (f : Split → Split) : (s.updSplit r f).straps = s.straps := rfl
@[simp] theorem State.updSplit_cycle (s : State) (r : SplitRef) (f : Split → Split) : (s.updSplit r f).cycle = s.cycle := rfl
@[simp] theorem State.updSplit_steps (s : State) (r : SplitRef) (f : Split → Split) : (s.updSplit r f).steps = s.steps := rfl
@[simp] theorem State.updSplit_seed (s : State) (r : SplitRef) (f : Split → Split) : (s.updSplit r f).seed = s.seed := rfl
@[simp] theorem State.updSplit_cur (s : State) (r : SplitRef) (f : Split → Split) : (s.updSplit r f).cur = s.cur := rfl
@[simp] theorem State.updSplit_shadowErr (s : State) (r : SplitRef) (f : Split → Split) : (s.updSplit r f).shadowErr = s.shadowErr := rfl
@[simp] theorem State.updSplit_inputs (s : State) (r : SplitRef) (f : Split → Split) : (s.updSplit r f).inputs = s.inputs := rfl

@[simp] theorem State.retire_mem (s : State) (r : SplitRef) (n : Nat) : (s.retire r n).mem = s.mem := rfl
@[simp] theorem State.retire_memKey (s : State) (r : SplitRef) (n : Nat) : (s.retire r n).memKey = s.memKey := rfl
@[simp] theorem State.retire_memSeed (s : State) (r : SplitRef) (n : Nat) : (s.retire r n).memSeed = s.memSeed := rfl
@[simp] theorem State.retire_ws (s : State) (r : SplitRef) (n : Nat) : (s.retire r n).ws = s.ws := rfl
@[simp] theorem State.retire_parts (s : State) (r : SplitRef) (n : Nat) : (s.retire r n).parts = s.parts := rfl
@[simp] theorem State.retire_tenants (s : State) (r : SplitRef) (n : Nat) : (s.retire r n).tenants = s.tenants := rfl
@[simp] theorem State.retire_launches (s : State) (r : SplitRef) (n : Nat) : (s.retire r n).launches = s.launches := rfl
@[simp] theorem State.retire_crews (s : State) (r : SplitRef) (n : Nat) : (s.retire r n).crews = s.crews := rfl
@[simp] theorem State.retire_cores (s : State) (r : SplitRef) (n : Nat) : (s.retire r n).cores = s.cores := rfl
@[simp] theorem State.retire_lazy (s : State) (r : SplitRef) (n : Nat) : (s.retire r n).lazy = s.lazy := rfl
@[simp] theorem State.retire_caches (s : State) (r : SplitRef) (n : Nat) : (s.retire r n).caches = s.caches := rfl
@[simp] theorem State.retire_mmu (s : State) (r : SplitRef) (n : Nat) : (s.retire r n).mmu = s.mmu := rfl
@[simp] theorem State.retire_dev (s : State) (r : SplitRef) (n : Nat) : (s.retire r n).dev = s.dev := rfl
@[simp] theorem State.retire_outbound (s : State) (r : SplitRef) (n : Nat) : (s.retire r n).outbound = s.outbound := rfl
@[simp] theorem State.retire_migration (s : State) (r : SplitRef) (n : Nat) : (s.retire r n).migration = s.migration := rfl
@[simp] theorem State.retire_straps (s : State) (r : SplitRef) (n : Nat) : (s.retire r n).straps = s.straps := rfl
@[simp] theorem State.retire_cycle (s : State) (r : SplitRef) (n : Nat) : (s.retire r n).cycle = s.cycle := rfl
@[simp] theorem State.retire_steps (s : State) (r : SplitRef) (n : Nat) : (s.retire r n).steps = s.steps := rfl
@[simp] theorem State.retire_seed (s : State) (r : SplitRef) (n : Nat) : (s.retire r n).seed = s.seed := rfl
@[simp] theorem State.retire_cur (s : State) (r : SplitRef) (n : Nat) : (s.retire r n).cur = s.cur := rfl
@[simp] theorem State.retire_shadowErr (s : State) (r : SplitRef) (n : Nat) : (s.retire r n).shadowErr = s.shadowErr := rfl
@[simp] theorem State.retire_inputs (s : State) (r : SplitRef) (n : Nat) : (s.retire r n).inputs = s.inputs := rfl

@[simp] theorem State.waitFor_mem (s : State) (r : SplitRef) (w : Wait) : (s.waitFor r w).mem = s.mem := rfl
@[simp] theorem State.waitFor_memKey (s : State) (r : SplitRef) (w : Wait) : (s.waitFor r w).memKey = s.memKey := rfl
@[simp] theorem State.waitFor_memSeed (s : State) (r : SplitRef) (w : Wait) : (s.waitFor r w).memSeed = s.memSeed := rfl
@[simp] theorem State.waitFor_ws (s : State) (r : SplitRef) (w : Wait) : (s.waitFor r w).ws = s.ws := rfl
@[simp] theorem State.waitFor_parts (s : State) (r : SplitRef) (w : Wait) : (s.waitFor r w).parts = s.parts := rfl
@[simp] theorem State.waitFor_tenants (s : State) (r : SplitRef) (w : Wait) : (s.waitFor r w).tenants = s.tenants := rfl
@[simp] theorem State.waitFor_launches (s : State) (r : SplitRef) (w : Wait) : (s.waitFor r w).launches = s.launches := rfl
@[simp] theorem State.waitFor_crews (s : State) (r : SplitRef) (w : Wait) : (s.waitFor r w).crews = s.crews := rfl
@[simp] theorem State.waitFor_cores (s : State) (r : SplitRef) (w : Wait) : (s.waitFor r w).cores = s.cores := rfl
@[simp] theorem State.waitFor_lazy (s : State) (r : SplitRef) (w : Wait) : (s.waitFor r w).lazy = s.lazy := rfl
@[simp] theorem State.waitFor_caches (s : State) (r : SplitRef) (w : Wait) : (s.waitFor r w).caches = s.caches := rfl
@[simp] theorem State.waitFor_mmu (s : State) (r : SplitRef) (w : Wait) : (s.waitFor r w).mmu = s.mmu := rfl
@[simp] theorem State.waitFor_dev (s : State) (r : SplitRef) (w : Wait) : (s.waitFor r w).dev = s.dev := rfl
@[simp] theorem State.waitFor_outbound (s : State) (r : SplitRef) (w : Wait) : (s.waitFor r w).outbound = s.outbound := rfl
@[simp] theorem State.waitFor_migration (s : State) (r : SplitRef) (w : Wait) : (s.waitFor r w).migration = s.migration := rfl
@[simp] theorem State.waitFor_straps (s : State) (r : SplitRef) (w : Wait) : (s.waitFor r w).straps = s.straps := rfl
@[simp] theorem State.waitFor_cycle (s : State) (r : SplitRef) (w : Wait) : (s.waitFor r w).cycle = s.cycle := rfl
@[simp] theorem State.waitFor_steps (s : State) (r : SplitRef) (w : Wait) : (s.waitFor r w).steps = s.steps := rfl
@[simp] theorem State.waitFor_seed (s : State) (r : SplitRef) (w : Wait) : (s.waitFor r w).seed = s.seed := rfl
@[simp] theorem State.waitFor_cur (s : State) (r : SplitRef) (w : Wait) : (s.waitFor r w).cur = s.cur := rfl
@[simp] theorem State.waitFor_shadowErr (s : State) (r : SplitRef) (w : Wait) : (s.waitFor r w).shadowErr = s.shadowErr := rfl
@[simp] theorem State.waitFor_inputs (s : State) (r : SplitRef) (w : Wait) : (s.waitFor r w).inputs = s.inputs := rfl

/-! Reading back. -/

@[simp] theorem State.setPart_part (s : State) (p : Nat) (x : Partition) : (s.setPart p x).part p = x := by
  simp [State.part, State.setPart]

@[simp] theorem State.setCore_core (s : State) (c : Nat) (x : Core) : (s.setCore c x).core c = x := by
  simp [State.core, State.setCore]

theorem State.setCore_core_other (s : State) {c c' : Nat} (x : Core) (h : c' ≠ c) : (s.setCore c x).core c' = s.core c' := by
  simp [State.core, State.setCore, Tbl.getD_put_other _ _ _ h]

@[simp] theorem State.setDev_dev (s : State) (d : Device) : (s.setDev d).dev = d := rfl

@[simp] theorem State.setFunc_func (s : State) (f : Nat) (x : Func) : (s.setFunc f x).func f = x := by
  simp [State.func, State.setFunc, State.setDev]

@[simp] theorem State.setPair_pair (s : State) (k : Nat) (x : Pair) : (s.setPair k x).pair k = x := by
  simp [State.pair, State.setPair, State.setDev]

@[simp] theorem State.setLink_link (s : State) (p : Nat) (x : Link) : (s.setLink p x).link p = x := by
  simp [State.link, State.setLink, State.setDev]

@[simp] theorem State.setCaches_caches (s : State) (c : Caches) : (s.setCaches c).caches = c := rfl

@[simp] theorem State.setMmu_mmu (s : State) (m : Mmu) : (s.setMmu m).mmu = m := rfl

@[simp] theorem State.updGroup_group? (s : State) (g : Nat) (f : Group → Group) :
    (s.updGroup g f).group? g = (s.group? g).map f := by simp [State.group?, State.updGroup]

theorem State.updGroup_group?_other (s : State) {g g' : Nat} (f : Group → Group) (h : g' ≠ g) :
    (s.updGroup g f).group? g' = s.group? g' := by simp [State.group?, State.updGroup, Tbl.find?_upd_other _ _ h]

/-- The split that an update names. -/
@[simp] theorem State.updSplit_split? (s : State) (r : SplitRef) (f : Split → Split) :
    (s.updSplit r f).split? r = (s.split? r).map f := by
  unfold State.split? State.updSplit Group.updSplit
  cases h : s.group? r.group <;> simp [h]

/-- Every other split is as it was. -/
theorem State.updSplit_split?_other (s : State) {r r' : SplitRef} (f : Split → Split) (h : r' ≠ r) :
    (s.updSplit r f).split? r' = s.split? r' := by
  unfold State.split? State.updSplit Group.updSplit
  by_cases hg : r'.group = r.group
  · have hs : r'.split ≠ r.split := fun e => h (by cases r; cases r'; simp_all)
    rw [hg, State.updGroup_group?]
    cases s.group? r.group with
    | none => rfl
    | some g => simp [Tbl.find?_upd_other _ _ hs]
  · rw [State.updGroup_group?_other _ _ hg]

/-- What stands around a split after an update of that split. -/
theorem State.updSplit_ctxOf (s : State) (r : SplitRef) (f : Split → Split) {c : Ctx} (h : s.ctxOf r = some c) :
    ∃ c', (s.updSplit r f).ctxOf r = some c' ∧ c'.sp = f c.sp ∧ c'.crew = c.crew ∧ c'.launch = c.launch := by
  unfold State.ctxOf at h ⊢
  unfold State.updSplit
  cases hg : s.group? r.group with
  | none => simp [hg] at h
  | some g =>
    simp only [hg] at h
    simp only [State.updGroup_group?, hg, Option.map_some, Group.updSplit, Tbl.find?_upd_same]
    cases hs : Tbl.find? g.splits r.split with
    | none => simp [hs] at h
    | some sp =>
      cases hc : s.crew? g.crew with
      | none => simp [hs, hc] at h
      | some cr =>
        cases hl : s.launch? g.launch with
        | none => simp [hs, hc, hl] at h
        | some l =>
          simp only [hs, hc, hl, Option.some.injEq] at h
          subst h
          have hc' : (s.updGroup r.group fun g => { g with splits := Tbl.upd g.splits r.split f }).crew? g.crew = some cr := hc
          have hl' : (s.updGroup r.group fun g => { g with splits := Tbl.upd g.splits r.split f }).launch? g.launch = some l := hl
          simp [hc', hl']

/-- An instruction of a split that issues: its meaning applies to what stands around the split. -/
theorem withCtx_of {s : State} {c : Ctx} (h : s.ctx? = some c) (k : Ctx → State) : withCtx s k = .next (k c) := by
  simp [withCtx, h]

end Sys2Proof.Machine
end

