-- ==== Sys2Proof/Laws/Memory.lean ====
section
/-! SUPPORT. Memory: reading after a write, and that every memory operation keeps the canonical form. -/

namespace Sys2Proof.Machine

/-! Cells. -/

theorem readCell_writeCell {m : List Host.Cell} (h : Memory.wf m) (a b : Nat) (v : Byte) :
    readCell (writeCell m a v) b = if b = a then v else readCell m b := Tbl.getD_setD a b v h

theorem writeCell_wf {m : List Host.Cell} (h : Memory.wf m) (a : Nat) (v : Byte) : Memory.wf (writeCell m a v) :=
  Tbl.canon_setD a v h

theorem writeCells_wf {m : List Host.Cell} (h : Memory.wf m) (a : Nat) (bs : List Byte) : Memory.wf (writeCells m a bs) := by
  induction bs generalizing m a with
  | nil => exact h
  | cons b bs ih => exact ih (writeCell_wf h a b) (a + 1)

/-- A write of bytes leaves every address outside them as it was. -/
theorem readCell_writeCells_other {m : List Host.Cell} (h : Memory.wf m) {a b : Nat} (bs : List Byte)
    (hb : b < a ∨ a + bs.length ≤ b) : readCell (writeCells m a bs) b = readCell m b := by
  induction bs generalizing m a with
  | nil => rfl
  | cons v bs ih =>
    simp only [List.length_cons] at hb
    show readCell (writeCells (writeCell m a v) (a + 1) bs) b = _
    rw [ih (writeCell_wf h a v) (by omega), readCell_writeCell h, if_neg (by omega)]

/-- A byte that was written reads as written. -/
theorem readCell_writeCells {m : List Host.Cell} (h : Memory.wf m) {a i : Nat} (bs : List Byte) (hi : i < bs.length) :
    readCell (writeCells m a bs) (a + i) = bs[i] := by
  induction bs generalizing m a i with
  | nil => simp at hi
  | cons v bs ih =>
    show readCell (writeCells (writeCell m a v) (a + 1) bs) (a + i) = _
    cases i with
    | zero =>
      rw [readCell_writeCells_other (writeCell_wf h a v) bs (by omega), readCell_writeCell h]
      simp
    | succ n =>
      have e : a + (n + 1) = a + 1 + n := by omega
      rw [e, ih (writeCell_wf h a v) (by simpa using hi)]
      rfl

/-- A canonical memory of which entries are removed stays canonical. -/
theorem Tbl.canon_filter {α : Type} [DecidableEq α] {d : α} {l : List (Nat × α)} {lo : Nat} (p : Nat × α → Bool)
    (h : Tbl.canon d lo l = true) : Tbl.canon d lo (l.filter p) = true := by
  induction l generalizing lo with
  | nil => rfl
  | cons e t ih =>
    obtain ⟨k, v⟩ := e
    simp only [Tbl.canon, Bool.and_eq_true, decide_eq_true_eq] at h
    simp only [List.filter_cons]
    split
    · simp only [Tbl.canon, Bool.and_eq_true, decide_eq_true_eq]
      exact ⟨h.1, ih h.2⟩
    · exact Tbl.canon_mono (ih h.2) (by omega)

/-! The operations on the state. -/

theorem State.writeDram_wf {s : State} (h : s.wf) (dpa : Nat) (tag : KeyTag) (d : LineData) : (s.writeDram dpa tag d).wf :=
  ⟨writeCells_wf h.1 _ _, h.2⟩

theorem State.writeLocal_wf {s : State} (h : s.wf) (p line key : Nat) (d : LineData) : (s.writeLocal p line key d).wf :=
  State.writeDram_wf h _ _ _

theorem State.writeHostLine_wf {s : State} (h : s.wf) (a : Nat) (d : LineData) (m : ByteMask) : (s.writeHostLine a d m).wf :=
  ⟨writeCells_wf h.1 _ _, h.2⟩

theorem writeHost_wf {s : State} (h : s.wf) (a : Nat) (bs : List Byte) : (writeHost s a bs).wf := ⟨writeCells_wf h.1 _ _, h.2⟩

theorem State.writeWs_wf {s : State} (h : s.wf) (p w : Nat) (bs : List Byte) : (State.writeWs s p w bs).wf := by
  induction bs generalizing s w with
  | nil => exact h
  | cons b bs ih => exact ih (s := { s with ws := writeCell s.ws _ b }) ⟨h.1, writeCell_wf h.2 _ _⟩ (w + 1)

/-- Memory after reset lists nothing. -/
theorem State.reset_wf : State.reset.wf := ⟨rfl, rfl⟩

end Sys2Proof.Machine
end

