-- ==== Sys2Proof/Laws/Results.lean ====
section
/-! SUPPORT. What a register instruction leaves: the state after an update of the issuing group, its marks and its retirement. -/

namespace Sys2Proof.Machine

set_option Elab.async false

/-! The context of the issuing split. -/

theorem ctxOf_r {s : State} {r : SplitRef} {c : Ctx} (h : s.ctxOf r = some c) : c.r = r := by
  unfold State.ctxOf at h
  repeat' split at h
  · cases h
  · injection h with h; subst h; rfl
  · cases h

theorem ctxOf_group {s : State} {r : SplitRef} {c : Ctx} (h : s.ctxOf r = some c) : s.group? r.group = some c.g := by
  unfold State.ctxOf at h
  split at h
  · cases h
  · rename_i g hg
    split at h
    · injection h with h; subst h; exact hg
    · cases h

theorem ctxOf_split {s : State} {r : SplitRef} {c : Ctx} (h : s.ctxOf r = some c) : Tbl.find? c.g.splits r.split = some c.sp := by
  unfold State.ctxOf at h
  split at h
  · cases h
  · split at h
    · injection h with h; subst h; assumption
    · cases h

theorem ctxOf_crew {s : State} {r : SplitRef} {c : Ctx} (h : s.ctxOf r = some c) : s.crew? c.g.crew = some c.crew := by
  unfold State.ctxOf at h
  split at h
  · cases h
  · split at h
    · injection h with h; subst h; assumption
    · cases h

theorem ctxOf_launch {s : State} {r : SplitRef} {c : Ctx} (h : s.ctxOf r = some c) : s.launch? c.g.launch = some c.launch := by
  unfold State.ctxOf at h
  split at h
  · cases h
  · split at h
    · injection h with h; subst h; assumption
    · cases h

theorem ctx?_ctxOf {s : State} {c : Ctx} (h : s.ctx? = some c) : s.ctxOf c.r = some c := by
  unfold State.ctx? at h
  cases hc : s.cur with
  | none => simp [hc] at h
  | some r =>
    rw [hc] at h
    have h' : s.ctxOf r = some c := h
    rw [ctxOf_r h']
    exact h'

theorem ctx?_group {s : State} {c : Ctx} (h : s.ctx? = some c) : s.group? c.r.group = some c.g := ctxOf_group (ctx?_ctxOf h)
theorem ctx?_splits {s : State} {c : Ctx} (h : s.ctx? = some c) : Tbl.find? c.g.splits c.r.split = some c.sp :=
  ctxOf_split (ctx?_ctxOf h)
theorem ctx?_launch {s : State} {c : Ctx} (h : s.ctx? = some c) : s.launch? c.g.launch = some c.launch := ctxOf_launch (ctx?_ctxOf h)
theorem ctx?_crew {s : State} {c : Ctx} (h : s.ctx? = some c) : s.crew? c.g.crew = some c.crew := ctxOf_crew (ctx?_ctxOf h)

theorem ctx?_split {s : State} {c : Ctx} (h : s.ctx? = some c) : s.split? c.r = some c.sp := by
  simp [State.split?, ctx?_group h, ctx?_splits h]

theorem ctx?_sreg {s : State} {c : Ctx} (h : s.ctx? = some c) (n : Nat) : s.sregAt c.r n = c.sp.s n := by
  simp [State.sregAt, ctx?_split h]

theorem ctx?_vreg {s : State} {c : Ctx} (h : s.ctx? = some c) (n l : Nat) : s.vregAt c.r.group n l = c.g.v n l := by
  simp [State.vregAt, ctx?_group h]

theorem ctx?_pred {s : State} {c : Ctx} (h : s.ctx? = some c) (p : Nat) : s.predAt c.r.group p = c.g.pred p := by
  simp [State.predAt, ctx?_group h]

theorem ctx?_sticky {s : State} {c : Ctx} (h : s.ctx? = some c) : s.stickyAt c.r.group = c.g.sticky := by
  simp [State.stickyAt, ctx?_group h]

theorem ctx?_counter {s : State} {c : Ctx} (h : s.ctx? = some c) (i : Nat) : s.counterAt c.g.launch i = c.launch.counter i := by
  simp [State.counterAt, ctx?_launch h]

/-! Marks. -/

/-- Only counters, and the registers of functions, differ. -/
structure OnlyCounts (s t : State) (launch : Nat) : Prop where
  groups : t.groups = s.groups
  outside : OutsideKept s t launch

theorem OutsideKept.rfl' (s : State) (launch : Nat) : OutsideKept s s launch :=
  ⟨fun _ => rfl, fun _ => rfl, rfl, rfl, rfl, rfl, rfl, rfl, rfl, rfl, rfl, rfl, rfl, rfl, fun _ _ => rfl, fun l h => ⟨l.counters, h⟩,
    ⟨s.dev.funcs, s.dev.msix, rfl⟩⟩

theorem OutsideKept.trans {s t u : State} {launch : Nat} (h : OutsideKept s t launch) (k : OutsideKept t u launch) :
    OutsideKept s u launch := by
  refine ⟨fun a => (k.memory a).trans (h.memory a), fun a => (k.weights a).trans (h.weights a), k.cores.trans h.cores,
    k.caches.trans h.caches, k.mmu.trans h.mmu, k.parts.trans h.parts, k.tenants.trans h.tenants, k.crews.trans h.crews,
    k.lazy.trans h.lazy, k.outbound.trans h.outbound, k.migration.trans h.migration, k.straps.trans h.straps,
    k.cycle.trans h.cycle, k.inputs.trans h.inputs, fun l hl => (k.launches l hl).trans (h.launches l hl), fun l hl => ?_, ?_⟩
  · obtain ⟨n, hn⟩ := h.launch l hl
    obtain ⟨m, hm⟩ := k.launch _ hn
    exact ⟨m, hm⟩
  · obtain ⟨f, m, e⟩ := h.device
    obtain ⟨f', m', e'⟩ := k.device
    exact ⟨f', m', by rw [e', e]⟩

theorem updGroup_outside (s : State) (g : Nat) (f : Group → Group) (launch : Nat) : OutsideKept s (s.updGroup g f) launch := by
  obtain ⟨h1, h2, h3, h4, h5, h6, h7, h8, h9, h10, h11, h12, h13, h14, h15, h16, h17⟩ := OutsideKept.rfl' s launch
  exact ⟨h1, h2, h3, h4, h5, h6, h7, h8, h9, h10, h11, h12, h13, h14, h15, h16, h17⟩

theorem updLaunch_counts (s : State) (l : Nat) (f : Launch → Launch) (h : ∀ x, ∃ k, f x = { x with counters := k }) :
    OnlyCounts s (s.updLaunch l f) l := by
  refine ⟨rfl, fun _ => rfl, fun _ => rfl, rfl, rfl, rfl, rfl, rfl, rfl, rfl, rfl, rfl, rfl, rfl, rfl, fun m hm => ?_, fun x hx => ?_,
    ⟨s.dev.funcs, s.dev.msix, rfl⟩⟩
  · exact Tbl.find?_upd_other _ _ hm
  · obtain ⟨k, e⟩ := h x
    refine ⟨k, ?_⟩
    show Tbl.find? (Tbl.upd _ _ _) _ = _
    rw [Tbl.find?_upd_same]
    show Option.map f (s.launch? l) = _
    rw [hx, Option.map_some, e]

theorem setDev_counts (s : State) (fs : List (Nat × Func)) (ms : List (Nat × Nat)) (l : Nat) :
    OnlyCounts s (s.setDev { s.dev with funcs := fs, msix := ms }) l := by
  obtain ⟨h1, h2, h3, h4, h5, h6, h7, h8, h9, h10, h11, h12, h13, h14, h15, h16, _⟩ := OutsideKept.rfl' s l
  exact ⟨rfl, h1, h2, h3, h4, h5, h6, h7, h8, h9, h10, h11, h12, h13, h14, h15, h16, ⟨fs, ms, rfl⟩⟩

theorem sendMsi_cases (s : State) (f vec : Nat) (en : Bool) :
    sendMsi s f vec en = s ∨ sendMsi s f vec en = s.setDev { s.dev with msix := (f, vec) :: s.dev.msix } := by
  unfold sendMsi
  by_cases h : (en && decide (vec < if f = 0 then 2048 else 64)) = true
  · exact .inr (if_pos h)
  · exact .inl (if_neg h)

theorem fpInterrupt_dev (s : State) (launch tenant i : Nat) :
    ∃ fs ms, fpInterrupt s launch tenant i = s.setDev { s.dev with funcs := fs, msix := ms } := by
  unfold fpInterrupt
  simp only
  rcases sendMsi_cases (s.setFunc (s.funcOf tenant) { s.func (s.funcOf tenant) with
    intstat := (s.func (s.funcOf tenant)).intstat ||| BitVec.twoPow 64 i, fplaunch := launch }) (s.funcOf tenant)
    (fld (s.func (s.funcOf tenant)).intcfg 0 11) ((s.func (s.funcOf tenant)).intcfg.getLsbD 33) with e | e
  · exact ⟨_, s.dev.msix, e⟩
  · exact ⟨_, _, e⟩

/-- Counting an event changes one counter, and perhaps registers of the function (R242 to R244). -/
theorem countEvent_counts (s : State) (l i : Nat) : OnlyCounts s (countEvent s l i) l := by
  unfold countEvent
  cases hl : s.launch? l with
  | none => exact ⟨rfl, .rfl' s l⟩
  | some x =>
    have h1 : OnlyCounts s (s.updLaunch l fun x => x.bump i) l := updLaunch_counts s l _ fun x => ⟨_, rfl⟩
    simp only
    split
    · obtain ⟨fs, ms, e⟩ := fpInterrupt_dev (s.updLaunch l fun x => x.bump i) l x.tenant i
      rw [e]
      have h2 := setDev_counts (s.updLaunch l fun x => x.bump i) fs ms l
      exact ⟨h2.groups.trans h1.groups, h1.outside.trans h2.outside⟩
    · exact h1

theorem countEvents_counts (s : State) (l : Nat) (es : List Nat) : OnlyCounts s (es.foldl (fun s i => countEvent s l i) s) l := by
  induction es generalizing s with
  | nil => exact ⟨rfl, .rfl' s l⟩
  | cons e es ih =>
    have h1 := countEvent_counts s l e
    have h2 := ih (countEvent s l e)
    exact ⟨h2.groups.trans h1.groups, h1.outside.trans h2.outside⟩

/-- Counter i after one event (R242, R258). -/
theorem Launch.bump_counter (l : Launch) (e i : Nat) :
    (l.bump e).counter i = if i = e then sat32 (l.counter e) else l.counter i := by
  have h : sat32 (l.counter e) ≠ 0 := by unfold sat32; omega
  unfold Launch.bump
  show Tbl.getD (Tbl.setD 0 l.counters e (sat32 (l.counter e))) i 0 = _
  simp only [Tbl.setD, h, if_false, Tbl.getD, Tbl.find?_put]
  split <;> rfl

/-- A group's marks set its STICKY bits (Table 8.9). -/
def Group.mark (g : Group) (m : Marks) : Group := if m.sticky = 0 then g else { g with sticky := g.sticky ||| m.sticky.setWidth 64 }

theorem note_outside (s : State) (g l : Nat) (m : Marks) : OutsideKept s (s.note g l m) l := by
  unfold State.note
  simp only
  refine OutsideKept.trans ?_ (countEvents_counts _ l m.events).outside
  split
  · exact .rfl' s l
  · exact updGroup_outside s g _ l

theorem note_group? (s : State) (g l : Nat) (m : Marks) : (s.note g l m).group? g = (s.group? g).map fun x => x.mark m := by
  unfold State.note State.group?
  simp only
  rw [(countEvents_counts _ l m.events).groups]
  split
  · rename_i h
    simp [Group.mark, h]
  · rename_i h
    simp only [Group.mark, h, if_false]
    exact State.updGroup_group? s g _

theorem note_group?_other (s : State) (g l : Nat) (m : Marks) {h : Nat} (hh : h ≠ g) : (s.note g l m).group? h = s.group? h := by
  unfold State.note State.group?
  simp only
  rw [(countEvents_counts _ l m.events).groups]
  split
  · rfl
  · exact State.updGroup_group?_other s _ hh

/-! A register instruction: an update of its group, its marks, its retirement. -/

/-- The state that a register instruction leaves. -/
def regStep (s : State) (c : Ctx) (G : Group → Group) (m : Marks) (n : Nat) : State :=
  ((s.updGroup c.r.group G).note c.r.group c.g.launch m).retire c.r n

/-- The update writes registers only: of the issuing split its scalars, of the group its vectors, predicates and STICKY. -/
structure RegUpdate (c : Ctx) (G : Group → Group) (sp : Split) : Prop where
  kept : GroupKept c.g (G c.g)
  split : Tbl.find? (G c.g).splits c.r.split = some sp
  scalars : sp = { c.sp with sregs := sp.sregs }
  others : ∀ n, n ≠ c.r.split → Tbl.find? (G c.g).splits n = Tbl.find? c.g.splits n

theorem Group.mark_kept (g : Group) (m : Marks) : g.mark m = { g with sticky := (g.mark m).sticky } := by
  unfold Group.mark
  split <;> rfl

theorem Group.mark_splits (g : Group) (m : Marks) : (g.mark m).splits = g.splits := by rw [Group.mark_kept]

theorem regStep_group {s : State} {c : Ctx} (h : s.ctx? = some c) (G : Group → Group) (m : Marks) (n : Nat) :
    (regStep s c G m n).group? c.r.group = some (((G c.g).mark m).updSplit c.r.split fun sp => sp.advance n) := by
  unfold regStep State.retire State.updSplit
  rw [State.updGroup_group?, note_group?, State.updGroup_group?, ctx?_group h]
  rfl

theorem advance_kept (sp : Split) (n : Nat) : SplitKept sp (sp.advance n) := by
  unfold SplitKept Split.advance
  split
  · split <;> rfl
  · rfl

theorem advance_sregs (sp : Split) (n : Nat) : (sp.advance n).sregs = sp.sregs ∧ (sp.advance n).sseed = sp.sseed := by
  unfold Split.advance
  split
  · split <;> exact ⟨rfl, rfl⟩
  · exact ⟨rfl, rfl⟩

theorem advance_s (sp : Split) (n k : Nat) : (sp.advance n).s k = sp.s k := by
  unfold Split.s
  rw [(advance_sregs sp n).1, (advance_sregs sp n).2]

theorem regStep_split {s : State} {c : Ctx} (h : s.ctx? = some c) {G : Group → Group} {sp : Split} (u : RegUpdate c G sp) (m : Marks)
    (n : Nat) : (regStep s c G m n).split? c.r = some (sp.advance n) := by
  unfold State.split?
  rw [regStep_group h]
  simp only [Option.bind_some, Group.updSplit, Tbl.find?_upd_same, Group.mark_splits, u.split, Option.map_some]

theorem retire_outside (s : State) (r : SplitRef) (n launch : Nat) : OutsideKept s (s.retire r n) launch :=
  updGroup_outside s r.group _ launch

/-- What a register instruction leaves unchanged. -/
theorem regStep_frame {s : State} {c : Ctx} (h : s.ctx? = some c) {G : Group → Group} {sp : Split} (u : RegUpdate c G sp) (m : Marks)
    (n : Nat) : RegFrame s (regStep s c G m n) c := by
  refine ⟨?_, ⟨?_, ?_⟩, ⟨_, regStep_split h u m n, ?_⟩, ⟨_, regStep_group h G m n, ?_⟩⟩
  · exact ((updGroup_outside s _ G _).trans (note_outside _ _ _ m)).trans (retire_outside _ _ _ _)
  · intro g hg
    unfold regStep State.retire State.updSplit
    rw [State.updGroup_group?_other _ _ hg, note_group?_other _ _ _ _ hg, State.updGroup_group?_other _ _ hg]
  · intro k hk
    unfold State.split?
    show ((regStep s c G m n).group? c.r.group).bind _ = (s.group? c.r.group).bind _
    rw [regStep_group h, ctx?_group h]
    simp only [Option.bind_some, Group.updSplit, Tbl.find?_upd_other _ _ hk, Group.mark_splits, u.others k hk]
  · have e := advance_kept sp n
    unfold SplitKept at e ⊢
    rw [e, u.scalars]
    rfl
  · have e := u.kept
    unfold GroupKept at e ⊢
    rw [Group.mark_kept, e]
    rfl

theorem regStep_sreg {s : State} {c : Ctx} (h : s.ctx? = some c) {G : Group → Group} {sp : Split} (u : RegUpdate c G sp) (m : Marks)
    (n k : Nat) : (regStep s c G m n).sregAt c.r k = sp.s k := by
  unfold State.sregAt
  rw [regStep_split h u]
  exact advance_s sp n k

theorem regStep_vreg {s : State} {c : Ctx} (h : s.ctx? = some c) (G : Group → Group) (m : Marks) (n k l : Nat) :
    (regStep s c G m n).vregAt c.r.group k l = (G c.g).v k l := by
  unfold State.vregAt
  rw [regStep_group h, Group.mark_kept]
  rfl

theorem regStep_vnum {s : State} {c : Ctx} (h : s.ctx? = some c) (G : Group → Group) (m : Marks) (n k l sp : Nat) :
    (regStep s c G m n).vnumAt c.r.group k l sp = (G c.g).num k l sp := by
  unfold State.vnumAt
  rw [regStep_group h, Group.mark_kept]
  rfl

theorem regStep_pred {s : State} {c : Ctx} (h : s.ctx? = some c) (G : Group → Group) (m : Marks) (n p : Nat) :
    (regStep s c G m n).predAt c.r.group p = (G c.g).pred p := by
  unfold State.predAt
  rw [regStep_group h, Group.mark_kept]
  rfl

theorem regStep_sticky {s : State} {c : Ctx} (h : s.ctx? = some c) (G : Group → Group) (m : Marks) (n : Nat) :
    (regStep s c G m n).stickyAt c.r.group = (G c.g).sticky ||| m.sticky.setWidth 64 := by
  unfold State.stickyAt
  rw [regStep_group h]
  simp only [Option.map_some, Option.getD_some, Group.updSplit]
  unfold Group.mark
  split
  · rename_i e; simp [e]
  · rfl

/-- A launch's counter after events: it rises once for each of them (R242, R258). -/
theorem countEvents_counter (s : State) (l i : Nat) (es : List Nat) (h : (s.launch? l).isSome = true) :
    (es.foldl (fun s e => countEvent s l e) s).counterAt l i
      = (es.filter fun e => e = i).foldl (fun n _ => sat32 n) (s.counterAt l i) := by
  induction es generalizing s with
  | nil => rfl
  | cons e es ih =>
    obtain ⟨x, hx⟩ := Option.isSome_iff_exists.mp h
    have hl : (countEvent s l e).launch? l = some (x.bump e) := by
      have h1 : (s.updLaunch l fun x => x.bump e).launch? l = some (x.bump e) := by
        show Tbl.find? (Tbl.upd s.launches l fun x => x.bump e) l = _
        rw [Tbl.find?_upd_same]
        show Option.map _ (s.launch? l) = _
        rw [hx]
        rfl
      unfold countEvent
      rw [hx]
      simp only
      split
      · obtain ⟨fs, ms, e'⟩ := fpInterrupt_dev (s.updLaunch l fun x => x.bump e) l x.tenant e
        rw [e']
        exact h1
      · exact h1
    rw [List.foldl_cons, ih _ (by simp [hl])]
    have hc : (countEvent s l e).counterAt l i = if i = e then sat32 (s.counterAt l e) else s.counterAt l i := by
      simp only [State.counterAt, hl, hx, Option.map_some, Option.getD_some, Launch.bump_counter]
    rw [hc, List.filter_cons]
    by_cases hi : i = e
    · subst hi; simp
    · simp [hi, Ne.symm hi]

theorem regStep_counter {s : State} {c : Ctx} (h : s.ctx? = some c) (G : Group → Group) (m : Marks) (n i : Nat) :
    (regStep s c G m n).counterAt c.g.launch i
      = (m.events.filter fun e => e = i).foldl (fun n _ => sat32 n) (s.counterAt c.g.launch i) := by
  have hl : s.launch? c.g.launch = some c.launch := ctx?_launch h
  show (State.counterAt (State.note (s.updGroup c.r.group G) c.r.group c.g.launch m) c.g.launch i) = _
  unfold State.note
  simp only
  rw [countEvents_counter]
  · split <;> rfl
  · split <;> exact hl ▸ rfl

/-- Outside the cache-backed regions a load or atomic finds what memory holds (R32). -/
theorem observed_outside {s : State} {c : Ctx} {n : Nat} {addrs : List (Nat × W64)} {l : Nat} (v : Nat)
    (h : s.inRegion c.launch.tenant n (addrOf addrs l) = false) : observed s c n addrs l v = v := by
  simp [observed, h]

/-- A tenant without a context pool has no cache-backed region (R398). -/
theorem inRegion_noPool {s : State} {tenant n : Nat} {va : W64} (h : (s.tenant? tenant).bind (·.pool) = none) :
    s.inRegion tenant n va = false := by
  simp [State.inRegion, h]

end Sys2Proof.Machine
end

