-- ==== Sys2Proof/Laws/Operands.lean ====
section
/-! SUPPORT. The numbers that operands stand for, and what the shared shapes of register instructions do. -/

namespace Sys2Proof.Machine

set_option Elab.async false

/-! Wrapping. -/

theorem ofNat_wrapTo (w : Nat) (x : Int) : BitVec.ofNat w (wrapTo w x) = BitVec.ofInt w x := by
  apply BitVec.eq_of_toNat_eq
  simp only [wrapTo, BitVec.toNat_ofNat, BitVec.toNat_ofInt]
  have h : (0 : Int) < 2 ^ w := by positivity
  have h1 := Int.emod_nonneg x (ne_of_gt h)
  have h2 := Int.emod_lt_of_pos x h
  have e : ((2 ^ w : Nat) : Int) = (2 : Int) ^ w := by push_cast; rfl
  rw [e]
  exact Nat.mod_eq_of_lt (by zify; omega)

theorem wrapTo_lt (w : Nat) (x : Int) : wrapTo w x < 2 ^ w := by
  have h : (0 : Int) < 2 ^ w := by positivity
  have h1 := Int.emod_nonneg x (ne_of_gt h)
  have h2 := Int.emod_lt_of_pos x h
  unfold wrapTo
  zify
  omega

theorem wrapTo_congr {w : Nat} {x y : Int} (h : x ≡ y [ZMOD 2 ^ w]) : wrapTo w x = wrapTo w y := by
  unfold wrapTo
  rw [show x % 2 ^ w = y % 2 ^ w from h]

theorem asInt_mod (w : Nat) (sg : Bool) (x : Nat) : asInt w sg x ≡ x [ZMOD 2 ^ w] := by
  unfold asInt
  split
  · exact (Int.modEq_iff_dvd.mpr ⟨1, by ring⟩)
  · rfl

theorem wrapTo_of_lt {w x : Nat} (h : x < 2 ^ w) : wrapTo w (x : Int) = x := by
  unfold wrapTo
  have : ((x : Int) % 2 ^ w) = x := Int.emod_eq_of_lt (by omega) (by exact_mod_cast h)
  rw [this]
  simp

/-! Scalar operands. -/

theorem scalarTy_cases {ty : BitVec 3} (h : scalarTy ty = true) : ty = 0 ∨ ty = 1 ∨ ty = 4 ∨ ty = 5 := by
  simpa [scalarTy, or_assoc] using h

theorem asInt_narrowS {ty : BitVec 3} (h : scalarTy ty = true) (x : W64) :
    asInt (tyW ty) (tySigned ty) (narrowS ty x) = scalarIn ty x := by
  rcases scalarTy_cases h with rfl | rfl | rfl | rfl <;>
    simp [asInt, tyW, tySigned, narrowS, scalarIn, BitVec.toInt_eq_toNat_cond] <;> (try split) <;> (try split) <;> omega

theorem narrowS_mod {ty : BitVec 3} (h : scalarTy ty = true) (x : W64) :
    (narrowS ty x : Int) ≡ scalarIn ty x [ZMOD 2 ^ tyW ty] := by
  rw [← asInt_narrowS h]
  exact (asInt_mod _ _ _).symm

theorem extendS_wrapTo {ty : BitVec 3} (h : scalarTy ty = true) (x : Int) : extendS ty (wrapTo (tyW ty) x) = scalarOut ty x := by
  rcases scalarTy_cases h with rfl | rfl | rfl | rfl
  · show (BitVec.ofNat 32 (wrapTo 32 x)).signExtend 64 = _
    rw [ofNat_wrapTo]
    rfl
  · show w64 (wrapTo 32 x % 2 ^ 32) = (BitVec.ofInt 32 x).setWidth 64
    rw [← ofNat_wrapTo]
    apply BitVec.eq_of_toNat_eq
    have := wrapTo_lt 32 x
    simp [w64]
    try omega
  · exact ofNat_wrapTo 64 x
  · exact ofNat_wrapTo 64 x

theorem narrowS_lt (ty : BitVec 3) (x : W64) : narrowS ty x < 2 ^ tyW ty := Nat.mod_lt _ (by positivity)

theorem extendS_of_lt {ty : BitVec 3} (h : scalarTy ty = true) {v : Nat} (hv : v < 2 ^ tyW ty) : extendS ty v = scalarOut ty v := by
  rw [← extendS_wrapTo h, wrapTo_of_lt hv]

/-! Shapes. -/

/-- An instruction of a split whose guard holds nowhere only retires (R207). -/
theorem once_none {s : State} {c : Ctx} {q : Guard} (h : c.any q = false) (k : State) : once s c q k = s.retire c.r := by
  simp [once, h]

theorem setS_s (sp : Split) (n k : Nat) (v : W64) : (sp.setS n v).s k = if k = n ∧ k ≠ 0 then v else sp.s k := by
  unfold Split.setS
  by_cases hn : n = 0
  · by_cases hk : k = n ∧ k ≠ 0
    · omega
    · simp [hn]
  · rw [if_neg hn]
    unfold Split.s
    by_cases hk : k = 0
    · simp [hk]
    · simp only [hk, if_false, Tbl.find?_put]
      by_cases hkn : k = n
      · simp [hkn]
        intro h; omega
      · simp [hkn]

theorem setS_kept (sp : Split) (n : Nat) (v : W64) : sp.setS n v = { sp with sregs := (sp.setS n v).sregs } := by
  unfold Split.setS
  split <;> rfl

/-- A scalar instruction whose guard holds, as an update of registers. -/
theorem scalarOp_step {s : State} {c : Ctx} {q : Guard} (h : c.any q = true) (dst : BitVec 8) (e : Elem) (ext : Nat → W64) :
    scalarOp s c q dst e ext
      = regStep s c (fun g => g.updSplit c.r.split fun sp => sp.setS dst.toNat (ext e.val)) e.marks 1 := by
  simp only [scalarOp, once, h, if_true, regStep]
  rfl

theorem updSplit_update {s : State} {c : Ctx} (hc : s.ctx? = some c) (f : Split → Split) (hf : f c.sp = { c.sp with sregs := (f c.sp).sregs }) :
    RegUpdate c (fun g => g.updSplit c.r.split f) (f c.sp) := by
  refine ⟨rfl, ?_, hf, fun n hn => Tbl.find?_upd_other _ _ hn⟩
  show Tbl.find? (Tbl.upd _ _ _) _ = _
  rw [Tbl.find?_upd_same, ctx?_splits hc]
  rfl

theorem updSplit_v (g : Group) (n : Nat) (f : Split → Split) (k l : Nat) : (g.updSplit n f).v k l = g.v k l := rfl
theorem updSplit_pred (g : Group) (n : Nat) (f : Split → Split) (p : Nat) : (g.updSplit n f).pred p = g.pred p := rfl

/-- Once for the split: what a scalar instruction writes. -/
theorem scalarOp_written {s : State} {c : Ctx} (hc : s.ctx? = some c) {q : Guard} (h : c.any q = true) (dst : BitVec 8) (e : Elem)
    (ext : Nat → W64) : ScalarWritten s (scalarOp s c q dst e ext) c dst (ext e.val) := by
  rw [scalarOp_step h]
  have u := updSplit_update hc (fun sp => sp.setS dst.toNat (ext e.val)) (setS_kept _ _ _)
  refine ⟨fun n => ?_, regStep_frame hc u _ _, fun n l => ?_, fun p => ?_⟩
  · rw [regStep_sreg hc u, setS_s, ctx?_sreg hc]
  · rw [regStep_vreg hc, ctx?_vreg hc]; rfl
  · rw [regStep_pred hc, ctx?_pred hc]; rfl

/-- The flags that a scalar instruction leaves. -/
theorem scalarOp_flags {s : State} {c : Ctx} (hc : s.ctx? = some c) {q : Guard} (h : c.any q = true) (dst : BitVec 8) (e : Elem)
    (ext : Nat → W64) :
    (scalarOp s c q dst e ext).stickyAt c.r.group = s.stickyAt c.r.group ||| e.marks.sticky.setWidth 64
      ∧ ∀ i, (scalarOp s c q dst e ext).counterAt c.g.launch i
          = (e.marks.events.filter fun k => k = i).foldl (fun n _ => sat32 n) (s.counterAt c.g.launch i) := by
  rw [scalarOp_step h]
  refine ⟨?_, fun i => regStep_counter hc _ _ _ i⟩
  rw [regStep_sticky hc, ctx?_sticky hc]
  rfl

/-- A scalar instruction that leaves no marks. -/
theorem scalarOp_plain {s : State} {c : Ctx} (hc : s.ctx? = some c) {q : Guard} (h : c.any q = true) (dst : BitVec 8) {v : Nat}
    {ext : Nat → W64} {x : W64} (e : ext v = x) :
    ScalarWritten s (scalarOp s c q dst { val := v } ext) c dst x ∧ FlagsKept s (scalarOp s c q dst { val := v } ext) c := by
  refine ⟨e ▸ scalarOp_written hc h dst { val := v } ext, ?_⟩
  obtain ⟨h1, h2⟩ := scalarOp_flags hc h dst { val := v } ext
  exact ⟨by rw [h1]; simp, fun i => by rw [h2]; rfl⟩

/-- Integer arithmetic on scalars: the exact result, wrapped and extended (R253, R255). -/
theorem scalarInt_plain {f : RF} {op : Nat → Bool → Nat → Nat → Elem} {s : State} {c : Ctx} {x : Int} (hc : s.ctx? = some c)
    (hg : c.any f.g = true) (ht : scalarTy f.ty = true)
    (h : op (tyW f.ty) (tySigned f.ty) (narrowS f.ty (c.sp.s f.sa.toNat)) (narrowS f.ty (c.sB f)) = { val := wrapTo (tyW f.ty) x }) :
    ∃ t, scalarInt f op s = .next t ∧ ScalarWritten s t c f.dst (scalarOut f.ty x) ∧ FlagsKept s t c := by
  refine ⟨_, withCtx_of hc _, ?_⟩
  rw [h]
  exact scalarOp_plain hc hg f.dst (extendS_wrapTo ht x)

/-! Lanes. -/

theorem mem_lanesOf {m : LaneMask} {l : Nat} : l ∈ lanesOf m ↔ l < 64 ∧ m.getLsbD l = true := by
  simp [lanesOf]

theorem setV_v (g : Group) {r l r' l' : Nat} (v : W32) (h : l < 64) (h' : l' < 64) :
    (g.setV r l v).v r' l' = if r' = r ∧ l' = l then v else g.v r' l' := by
  unfold Group.v Group.setV
  simp only [Tbl.find?_put]
  by_cases e : r' = r ∧ l' = l
  · obtain ⟨rfl, rfl⟩ := e
    simp
  · have : ¬ 64 * r' + l' = 64 * r + l := by omega
    simp [this, e]

/-- A group whose vector registers alone may differ. -/
def VectorsOnly (g g' : Group) : Prop := g' = { g with vregs := g'.vregs }

theorem VectorsOnly.rfl' (g : Group) : VectorsOnly g g := rfl

theorem VectorsOnly.trans {a b c : Group} (h : VectorsOnly a b) (k : VectorsOnly b c) : VectorsOnly a c := by
  unfold VectorsOnly at *
  rw [k, h]

theorem VectorsOnly.pred {a b : Group} (h : VectorsOnly a b) (p : Nat) : b.pred p = a.pred p := by rw [h]; rfl
theorem VectorsOnly.sticky {a b : Group} (h : VectorsOnly a b) : b.sticky = a.sticky := by rw [h]

theorem setV_only (g : Group) (r l : Nat) (v : W32) : VectorsOnly g (g.setV r l v) := rfl

theorem setNum_only (g : Group) (r l n v : Nat) : VectorsOnly g (g.setNum r l n v) := by
  unfold Group.setNum
  split
  · exact (setV_only g r l _).trans (setV_only _ _ _ _)
  · exact setV_only g r l _

theorem setNum_v (g : Group) {r l n v r' l' : Nat} (h : l < 64) (h' : l' < 64) (hr : ¬(l' = l ∧ r ≤ r' ∧ r' < r + (if n = 2 then 2 else 1))) :
    (g.setNum r l n v).v r' l' = g.v r' l' := by
  unfold Group.setNum
  split
  · rename_i e
    simp only [e, if_true] at hr
    unfold Group.setV64
    rw [setV_v _ _ h h', if_neg (by omega), setV_v _ _ h h', if_neg (by omega)]
  · rename_i e
    simp only [e, if_false] at hr
    rw [setV_v _ _ h h', if_neg (by omega)]

theorem setNum_num (g : Group) {r l n v : Nat} (h : l < 64) :
    (g.setNum r l n v).num r l n = v % 2 ^ (if n = 2 then 64 else 32) := by
  unfold Group.setNum Group.num
  split
  · unfold Group.setV64 Group.v64
    rw [setV_v _ _ h h, if_pos ⟨rfl, rfl⟩, setV_v _ _ h h, if_neg (by omega), setV_v _ _ h h, if_pos ⟨rfl, rfl⟩]
    have : (w64 v).extractLsb' 32 32 ++ (w64 v).extractLsb' 0 32 = w64 v := by
      rw [BitVec.extractLsb'_append_extractLsb'_eq_extractLsb' (by rfl)]
      simp
    rw [this]
    simp [w64]
  · rw [setV_v _ _ h h, if_pos ⟨rfl, rfl⟩]
    simp

theorem num_congr {g g' : Group} {r l n : Nat} (h : ∀ k, k = r ∨ (n = 2 ∧ k = r + 1) → g'.v k l = g.v k l) : g'.num r l n = g.num r l n := by
  unfold Group.num Group.v64
  split
  · rename_i e
    rw [h r (.inl rfl), h (r + 1) (.inr ⟨e, rfl⟩)]
  · rw [h r (.inl rfl)]

theorem writeLanes_only (g : Group) (ls : List Nat) (r n : Nat) (val : Nat → Nat) : VectorsOnly g (g.writeLanes ls r n val) := by
  unfold Group.writeLanes
  induction ls generalizing g with
  | nil => rfl
  | cons l ls ih => exact (setNum_only g r l n _).trans (ih _)

theorem writeLanes_v (g : Group) {ls : List Nat} {r n k l : Nat} (val : Nat → Nat) (hl : ∀ x ∈ ls, x < 64) (h : l < 64)
    (hr : ¬(l ∈ ls ∧ r ≤ k ∧ k < r + (if n = 2 then 2 else 1))) : (g.writeLanes ls r n val).v k l = g.v k l := by
  unfold Group.writeLanes
  induction ls generalizing g with
  | nil => rfl
  | cons x ls ih =>
    rw [List.foldl_cons, ih _ (fun y hy => hl y (List.mem_cons_of_mem _ hy)) (fun e => hr ⟨List.mem_cons_of_mem _ e.1, e.2⟩)]
    exact setNum_v g (hl x (List.mem_cons_self ..)) h fun e => hr ⟨e.1 ▸ List.mem_cons_self .., e.2⟩

theorem writeLanes_num (g : Group) {ls : List Nat} {r n l : Nat} (val : Nat → Nat) (hl : ∀ x ∈ ls, x < 64) (h : l ∈ ls) :
    (g.writeLanes ls r n val).num r l n = val l % 2 ^ (if n = 2 then 64 else 32) := by
  unfold Group.writeLanes
  induction ls generalizing g with
  | nil => cases h
  | cons x ls ih =>
    rw [List.foldl_cons]
    by_cases hx : l ∈ ls
    · exact ih _ (fun y hy => hl y (List.mem_cons_of_mem _ hy)) hx
    · have e : l = x := by
        rcases List.mem_cons.mp h with e | e
        · exact e
        · exact absurd e hx
      subst e
      have h64 : l < 64 := hl l (List.mem_cons_self ..)
      have : (List.foldl (fun g l => g.setNum r l n (val l)) (g.setNum r l n (val l)) ls).num r l n
          = (g.setNum r l n (val l)).num r l n := by
        refine num_congr fun k _ => ?_
        exact writeLanes_v (g.setNum r l n (val l)) val (fun y hy => hl y (List.mem_cons_of_mem _ hy)) h64 fun e => hx e.1
      rw [this]
      exact setNum_num g h64

theorem vectors_update {c : Ctx} {s : State} (hc : s.ctx? = some c) {G : Group → Group} (h : VectorsOnly c.g (G c.g)) :
    RegUpdate c G c.sp := by
  have hs : (G c.g).splits = c.g.splits := by rw [h]
  refine ⟨?_, ?_, rfl, fun n _ => by rw [hs]⟩
  · unfold GroupKept
    rw [h]
  · rw [hs, ctx?_splits hc]

/-- Lanes of a group are written, and nothing else. -/
theorem lanes_written {s : State} {c : Ctx} (hc : s.ctx? = some c) (m : LaneMask) (dst : BitVec 8) {n : Nat} (hn : n = 1 ∨ n = 2)
    (val : Nat → Nat) (mk : Marks) (k : Nat) :
    LanesWritten s (regStep s c (fun g => g.writeLanes (lanesOf m) dst.toNat n val) mk k) c m dst n
      fun l v => v = val l % 2 ^ (32 * n) := by
  have hl : ∀ x ∈ lanesOf m, x < 64 := fun x hx => (mem_lanesOf.mp hx).1
  have hv : VectorsOnly c.g ((fun g => g.writeLanes (lanesOf m) dst.toNat n val) c.g) := writeLanes_only _ _ _ _ _
  have u := vectors_update hc (G := fun g => g.writeLanes (lanesOf m) dst.toNat n val) hv
  refine ⟨fun l h1 h2 => ?_, fun k l h1 h2 => ?_, regStep_frame hc u _ _, fun k => ?_, fun p => ?_⟩
  · rw [regStep_vnum hc, writeLanes_num c.g val hl (mem_lanesOf.mpr ⟨h1, h2⟩)]
    rcases hn with rfl | rfl <;> rfl
  · rw [regStep_vreg hc, ctx?_vreg hc]
    refine writeLanes_v c.g val hl h1 fun e => h2 ⟨(mem_lanesOf.mp e.1).2, e.2.1, ?_⟩
    have := e.2.2
    rcases hn with rfl | rfl <;> simpa using this
  · rw [regStep_sreg hc u, ctx?_sreg hc]
  · rw [regStep_pred hc, ctx?_pred hc]
    exact hv.pred p

/-- Per lane: what an instruction that writes vector registers leaves. -/
theorem laneOpOn_step {s : State} {c : Ctx} {q : Guard} (h : c.any q = true) (m : LaneMask) (dst : BitVec 8) (n : Nat) (val : Nat → Elem) :
    laneOpOn s c q m dst n val
      = regStep s c (fun g => g.writeLanes (lanesOf m) dst.toNat n fun l => (val l).val) (marksOf (lanesOf (c.active q)) val) 1 := by
  simp only [laneOpOn, h, Bool.not_true, Bool.false_eq_true, if_false, regStep]

theorem laneOpOn_written {s : State} {c : Ctx} (hc : s.ctx? = some c) {q : Guard} (h : c.any q = true) (m : LaneMask) (dst : BitVec 8)
    {n : Nat} (hn : n = 1 ∨ n = 2) (val : Nat → Elem) :
    LanesWritten s (laneOpOn s c q m dst n val) c m dst n fun l v => v = (val l).val % 2 ^ (32 * n) := by
  rw [laneOpOn_step h]
  exact lanes_written hc _ dst hn _ _ _

theorem laneOp_written {s : State} {c : Ctx} (hc : s.ctx? = some c) {q : Guard} (h : c.any q = true) (dst : BitVec 8) {n : Nat}
    (hn : n = 1 ∨ n = 2) (val : Nat → Elem) :
    LanesWritten s (laneOp s c q dst n val) c (c.vactive q) dst n fun l v => v = (val l).val % 2 ^ (32 * n) :=
  laneOpOn_written hc h _ dst hn val

theorem LanesWritten.imp {s t : State} {c : Ctx} {m : LaneMask} {dst : BitVec 8} {n : Nat} {p q : Nat → Nat → Prop}
    (h : LanesWritten s t c m dst n p) (k : ∀ l v, l < 64 → m.getLsbD l = true → p l v → q l v) : LanesWritten s t c m dst n q :=
  ⟨fun l h1 h2 => k l _ h1 h2 (h.result l h1 h2), h.kept, h.frame, h.scalars, h.preds⟩

theorem marksOf_none {ls : List Nat} {val : Nat → Elem} (h : ∀ l ∈ ls, (val l).marks = {}) : marksOf ls val = {} := by
  unfold marksOf
  suffices ∀ m : Marks, m = {} → ls.foldl (fun m l => m.join (val l).marks) m = {} from this _ rfl
  induction ls with
  | nil => intro m hm; exact hm
  | cons l ls ih =>
    intro m hm
    rw [List.foldl_cons]
    refine ih (fun x hx => h x (List.mem_cons_of_mem _ hx)) _ ?_
    rw [hm, h l (List.mem_cons_self ..)]
    rfl

theorem laneOpOn_noFlags {s : State} {c : Ctx} (hc : s.ctx? = some c) {q : Guard} (h : c.any q = true) (m : LaneMask) (dst : BitVec 8)
    (n : Nat) {val : Nat → Elem} (hm : ∀ l, (val l).marks = {}) : FlagsKept s (laneOpOn s c q m dst n val) c := by
  rw [laneOpOn_step h, marksOf_none fun l _ => hm l]
  refine ⟨?_, fun i => regStep_counter hc _ _ _ i⟩
  rw [regStep_sticky hc, ctx?_sticky hc]
  show Group.sticky (Group.writeLanes _ _ _ _ _) ||| _ = _
  rw [(writeLanes_only _ _ _ _ _).sticky]
  simp

theorem laneOp_noFlags {s : State} {c : Ctx} (hc : s.ctx? = some c) {q : Guard} (h : c.any q = true) (dst : BitVec 8) (n : Nat)
    {val : Nat → Elem} (hm : ∀ l, (val l).marks = {}) : FlagsKept s (laneOp s c q dst n val) c :=
  laneOpOn_noFlags hc h _ dst n hm

theorem laneOpOn_marked {s : State} {c : Ctx} (hc : s.ctx? = some c) {q : Guard} (h : c.any q = true) (m : LaneMask) (dst : BitVec 8)
    (n : Nat) (val : Nat → Elem) : Marked s (laneOpOn s c q m dst n val) c (marksOf (lanesOf (c.active q)) val) := by
  rw [laneOpOn_step h]
  refine ⟨?_, fun i => regStep_counter hc _ _ _ i⟩
  rw [regStep_sticky hc, ctx?_sticky hc]
  show Group.sticky (Group.writeLanes _ _ _ _ _) ||| _ = _
  rw [(writeLanes_only _ _ _ _ _).sticky]

/-- A per-lane instruction completes: values and marks. -/
theorem laneOpOn_gives {s : State} {c : Ctx} (hc : s.ctx? = some c) {q : Guard} (h : c.any q = true) {m : LaneMask} {i : Instr}
    {dst : BitVec 8} {n : Nat} (hn : n = 1 ∨ n = 2) {val : Nat → Elem} (e : exec i s = .next (laneOpOn s c q m dst n val)) :
    LanesGive s c q m i dst n val :=
  ⟨_, e, laneOpOn_written hc h m dst hn val, laneOpOn_marked hc h m dst n val⟩

theorem laneOp_gives {s : State} {c : Ctx} (hc : s.ctx? = some c) {q : Guard} (h : c.any q = true) {i : Instr} {dst : BitVec 8}
    {n : Nat} (hn : n = 1 ∨ n = 2) {val : Nat → Elem} (e : exec i s = .next (laneOp s c q dst n val)) :
    LanesGive s c q (c.vactive q) i dst n val :=
  laneOpOn_gives hc h hn e

/-- A result that the shadow units pass. -/
theorem withShadow_unshadowed {s : State} {c : Ctx} (u : unshadowed s c = true) (m : LaneMask) (t : FFmt) (x : Nat) (k : State → State) :
    withShadow s c m t x k = k s := by
  simp only [unshadowed, Bool.or_eq_true, decide_eq_true_eq] at u
  unfold withShadow
  rcases u with u | u
  · rw [if_pos u]
  · split
    · rfl
    · have none : s.shadowOf c.r t x = .none := by
        simp only [State.shadowOf, Option.map_eq_none_iff, List.find?_eq_none, decide_eq_true_eq]
        intro e he
        simpa using List.all_eq_true.mp u e he
      rw [none]

theorem convOp_unshadowed {s : State} {c : Ctx} {q : Guard} (h : c.any q = true) (u : unshadowed s c = true) (t : Option FFmt)
    (dst : BitVec 8) (n : Nat) (val : Nat → Elem) (lo : Nat) : convOp s c q t dst n val lo = laneOpOn s c q (c.active q) dst n val := by
  cases t <;> simp only [convOp, h, Bool.not_true, Bool.false_eq_true, if_false, withShadow_unshadowed u]

/-- A float instruction that the shadow units pass. -/
theorem floatOp_unshadowed {s : State} {c : Ctx} {q : Guard} (h : c.any q = true) (u : unshadowed s c = true) (t : FFmt) (dst : BitVec 8)
    (n : Nat) (val : Nat → Elem) : floatOp s c q t dst n val = laneOp s c q dst n val := by
  simp only [floatOp, h, Bool.not_true, Bool.false_eq_true, if_false, withShadow_unshadowed u]

theorem floatSpan_cases (ty : BitVec 3) : floatSpan ty = 1 ∨ floatSpan ty = 2 := by
  unfold floatSpan; split <;> simp

theorem intSpan_cases (ty : BitVec 3) : intSpan ty = 1 ∨ intSpan ty = 2 := by
  unfold intSpan; split <;> simp

theorem vectorFloat_gives {f : RF} {op : FFmt → Nat → Nat → Nat → Nat → Elem} {s : State} {c : Ctx} {i : Instr} (hc : s.ctx? = some c)
    (h : c.any f.g = true) (u : unshadowed s c = true) (e : exec i s = vectorFloat f op s) :
    LanesGive s c f.g (c.vactive f.g) i f.dst (floatSpan f.ty) fun l =>
      mapElems (tyFmt f.ty).width (tyFCount f.ty) (op (tyFmt f.ty) c.sp.rnd) (c.va f (floatSpan f.ty) l) (c.vb f (floatSpan f.ty) l)
        (c.vc f (floatSpan f.ty) l) :=
  laneOp_gives hc h (floatSpan_cases _) (e.trans ((withCtx_of hc _).trans (congrArg _ (floatOp_unshadowed h u _ _ _ _))))

/-- A predicate's lanes are written, and nothing else. -/
theorem getLsbD_maskOf (p : Nat → Bool) {l : Nat} (h : l < 64) : (maskOf p).getLsbD l = p l := by
  unfold maskOf
  suffices ∀ n, n ≤ 64 → ((List.range n).foldl (fun m k => if p k then m ||| BitVec.twoPow 64 k else m) (0 : BitVec 64)).getLsbD l
      = (decide (l < n) && p l) by
    rw [this 64 (Nat.le_refl _)]
    simp [h]
  intro n
  induction n with
  | zero => intro _; simp
  | succ n ih =>
    intro hn
    rw [List.range_succ, List.foldl_append, List.foldl_cons, List.foldl_nil]
    by_cases hp : p n
    · rw [if_pos hp, BitVec.getLsbD_or, ih (by omega), BitVec.getLsbD_twoPow]
      by_cases e : n = l
      · subst e; simp [hp]; omega
      · have : (decide (l < n + 1)) = decide (l < n) := by simp; omega
        rw [this]; simp [e]
    · rw [if_neg hp, ih (by omega)]
      by_cases e : n = l
      · subst e; simp [hp]
      · have : (decide (l < n + 1)) = decide (l < n) := by simp; omega
        rw [this]

theorem setPred_pred (g : Group) (p q l : Nat) (m v : LaneMask) (h : l < 64) :
    ((g.setPred p m v).pred q).getLsbD l = if q = p ∧ q ≠ 0 ∧ m.getLsbD l = true then v.getLsbD l else (g.pred q).getLsbD l := by
  unfold Group.setPred
  by_cases hp : p = 0
  · subst hp
    by_cases hq : q = 0
    · simp [hq]
    · simp [hq]
  · rw [if_neg hp]
    unfold Group.pred
    by_cases hq : q = 0
    · subst hq
      simp
    · simp only [hq, if_false]
      by_cases e : q = p
      · subst e
        rw [Tbl.getD_put_same]
        by_cases hm : m.getLsbD l = true
        · have hm' : m[l] = true := by simpa [BitVec.getLsbD_eq_getElem h] using hm
          simp [h, hq, hm']
        · have hm' : m[l] = false := by simpa [BitVec.getLsbD_eq_getElem h] using hm
          simp [h, hp, hm']
      · rw [Tbl.getD_put_other _ _ _ e]
        simp [e]

/-- The result of a compare: a predicate in the lanes of a mask. -/
theorem pred_written {s : State} {c : Ctx} (hc : s.ctx? = some c) (m : LaneMask) (dst : BitVec 8) (v : LaneMask) :
    PredWritten s ((s.updGroup c.r.group fun g => g.setPred dst.toNat m v).retire c.r) c m dst (fun l => v.getLsbD l)
      ∧ FlagsKept s ((s.updGroup c.r.group fun g => g.setPred dst.toNat m v).retire c.r) c := by
  have e : (s.updGroup c.r.group fun g => g.setPred dst.toNat m v).retire c.r = regStep s c (fun g => g.setPred dst.toNat m v) {} 1 := rfl
  have k : ∀ g : Group, g.setPred dst.toNat m v = { g with preds := (g.setPred dst.toNat m v).preds } := by
    intro g; unfold Group.setPred; split <;> rfl
  have u : RegUpdate c (fun g => g.setPred dst.toNat m v) c.sp := by
    have hs : (c.g.setPred dst.toNat m v).splits = c.g.splits := by rw [k]
    refine ⟨?_, ?_, rfl, fun n _ => by rw [hs]⟩
    · show GroupKept c.g (c.g.setPred dst.toNat m v)
      unfold GroupKept; rw [k]
    · show Tbl.find? (c.g.setPred dst.toNat m v).splits _ = _
      rw [hs, ctx?_splits hc]
  rw [e]
  refine ⟨⟨fun p l hl => ?_, regStep_frame hc u _ _, fun n => ?_, fun n l => ?_⟩, ?_, fun i => regStep_counter hc _ _ _ i⟩
  · rw [regStep_pred hc, ctx?_pred hc, setPred_pred _ _ _ _ _ _ hl]
  · rw [regStep_sreg hc u, ctx?_sreg hc]
  · rw [regStep_vreg hc, ctx?_vreg hc]
    show Group.v (Group.setPred _ _ _ _) _ _ = _
    rw [k]; rfl
  · rw [regStep_sticky hc, ctx?_sticky hc]
    show Group.sticky (Group.setPred _ _ _ _) ||| _ = _
    rw [k]
    simp

theorem predOp_written {s : State} {c : Ctx} (hc : s.ctx? = some c) {q : Guard} (h : c.any q = true) (dst : BitVec 8) (val : Nat → Bool) :
    PredWritten s (predOp s c q dst val) c (c.vactive q) dst val ∧ FlagsKept s (predOp s c q dst val) c := by
  simp only [predOp, h, Bool.not_true, Bool.false_eq_true, if_false]
  obtain ⟨h1, h2⟩ := pred_written hc (c.vactive q) dst (maskOf val)
  refine ⟨⟨fun p l hl => ?_, h1.frame, h1.scalars, h1.vectors⟩, h2⟩
  rw [h1.result p l hl, getLsbD_maskOf val hl]

/-- A cross-lane instruction that writes the active lanes. -/
theorem activeOp_written {s : State} {c : Ctx} (hc : s.ctx? = some c) {q : Guard} (h : c.any q = true) (dst : BitVec 8) {n : Nat}
    (hn : n = 1 ∨ n = 2) (val : Nat → Nat) :
    LanesWritten s (activeOp s c q dst n val) c (c.active q) dst n (fun l v => v = val l % 2 ^ (32 * n))
      ∧ FlagsKept s (activeOp s c q dst n val) c := by
  have e : activeOp s c q dst n val = regStep s c (fun g => g.writeLanes (lanesOf (c.active q)) dst.toNat n val) {} 1 := by
    simp only [activeOp, h, Bool.not_true, Bool.false_eq_true, if_false, regStep]
    rfl
  rw [e]
  refine ⟨lanes_written hc _ dst hn val {} 1, ?_, fun i => regStep_counter hc _ _ _ i⟩
  rw [regStep_sticky hc, ctx?_sticky hc]
  show Group.sticky (Group.writeLanes _ _ _ _ _) ||| _ = _
  rw [(writeLanes_only _ _ _ _ _).sticky]
  simp

/-! Elements of a lane. -/

/-- The elements of a lane's result (R254). -/
theorem bits_mapElems (w n : Nat) (op : Nat → Nat → Nat → Elem) (a b c k : Nat) (hk : k < n) :
    bits (mapElems w n op a b c).val (w * k) w = (op (bits a (w * k) w) (bits b (w * k) w) (bits c (w * k) w)).val % 2 ^ w := by
  suffices ∀ m, (mapElems w m op a b c).val < 2 ^ (w * m) ∧ ∀ k, k < m →
      bits (mapElems w m op a b c).val (w * k) w = (op (bits a (w * k) w) (bits b (w * k) w) (bits c (w * k) w)).val % 2 ^ w from
    (this n).2 k hk
  intro m
  induction m with
  | zero => exact ⟨by simp [mapElems], fun k hk => absurd hk (by omega)⟩
  | succ m ih =>
    have e : (mapElems w (m + 1) op a b c).val = (mapElems w m op a b c).val
        + (op (bits a (w * m) w) (bits b (w * m) w) (bits c (w * m) w)).val % 2 ^ w * 2 ^ (w * m) := by
      unfold mapElems
      rw [List.range_succ, List.foldl_append, List.foldl_cons, List.foldl_nil]
    rw [e]
    generalize hv : (op (bits a (w * m) w) (bits b (w * m) w) (bits c (w * m) w)).val % 2 ^ w = v
    have hlt : v < 2 ^ w := hv ▸ Nat.mod_lt _ (by positivity)
    refine ⟨?_, fun k hk => ?_⟩
    · rw [Nat.mul_succ, Nat.pow_add]
      have h1 := ih.1
      nlinarith [Nat.two_pow_pos (w * m), Nat.two_pow_pos w]
    · unfold bits
      by_cases h : k = m
      · subst h
        rw [Nat.add_mul_div_right _ _ (by positivity), Nat.div_eq_of_lt ih.1, Nat.zero_add, Nat.mod_eq_of_lt hlt, ← hv]
        rfl
      · have hk' : k < m := by omega
        refine Eq.trans ?_ (ih.2 k hk')
        unfold bits
        obtain ⟨j, rfl⟩ : ∃ j, m = k + 1 + j := ⟨m - k - 1, by omega⟩
        have : v * 2 ^ (w * (k + 1 + j)) = (v * 2 ^ (w * j)) * 2 ^ w * 2 ^ (w * k) := by
          rw [Nat.mul_add, Nat.mul_add, Nat.pow_add, Nat.pow_add, Nat.mul_one]; ring
        rw [this, Nat.add_mul_div_right _ _ (by positivity), Nat.add_mul_mod_self_right]

end Sys2Proof.Machine
end

