-- ==== Sys2Proof/Laws/PerInstr.lean ====
section
/-! SUPPORT. Statements made for every instruction, one lemma for each constructor of `Instr`.

RoundTrip: the words that the encoder gives for a well-formed instruction decode to that instruction (08 R200, R206 to R211). -/

namespace Sys2Proof.Laws

set_option Elab.async false

/-- Decoding the encoded words of a well-formed instruction gives it back, at the level at which it is well formed. A row that
is no instruction word has no encoding. -/
def RoundTrip.Statement (i : Instr) : Prop :=
  ∀ (l3 : Bool) (w : BitVec 64) (next : Option (BitVec 64)),
    i.wf l3 = true → encode i = some (w, next) → decodeWord l3 w next = .ok i

/-- A row with no encoding. -/
theorem RoundTrip.noWord {i : Instr} (h : encode i = none) : RoundTrip.Statement i := by
  intro l3 w next _ he
  rw [h] at he
  cases he

/-- An instruction whose word has an opcode of its table row. -/
theorem RoundTrip.ofRaw {i : Instr} {w : BitVec 64} {next : Option (BitVec 64)} {opc : Nat} (he : encode i = some (w, next))
    (ho : w.toNat % 256 = opc) (hop : ∀ l3, i.wf l3 = true → opcodeDefined l3 opc = true)
    (hr : ∀ l3, i.wf l3 = true → decodeOpcode opc w next = some i) : RoundTrip.Statement i := by
  intro l3 w' next' hw he'
  rw [he] at he'
  cases he'
  exact decode_of (by rw [ho]; exact hop l3 hw) (by rw [rawDecode, ho]; exact hr l3 hw) hw

/-! The opcodes that several rows share. -/

theorem decode18 (w : BitVec 64) (next : Option (BitVec 64)) {k : Nat} (h : w.toNat / 2 ^ 48 % 8 = k) :
    decodeOpcode 0x18 w next = match (generalizing := false) k with
      | 0 => some (.sfmt (RF.ofWord w))
      | 1 => some (.sfmtRnd (RF.ofWord w))
      | 2 => some (.sfmtSat (RF.ofWord w))
      | 3 => some (.sfmtAtb (RF.ofWord w))
      | _ => none := by subst h; rfl

theorem decodeA8 (w : BitVec 64) (next : Option (BitVec 64)) {k : Nat} (h : w.toNat / 2 ^ 48 % 4 = k) :
    decodeOpcode 0xA8 w next = match (generalizing := false) k with
      | 1 => some (.fenceAcq (RF.ofWord w))
      | 2 => some (.fenceRel (RF.ofWord w))
      | 3 => some (.fenceFull (RF.ofWord w))
      | _ => none := by subst h; rfl

theorem decodeE5 (w : BitVec 64) (next : Option (BitVec 64)) {k : Nat} (h : w.toNat / 2 ^ 48 % 4 = k) :
    decodeOpcode 0xE5 w next = match (generalizing := false) k with
      | 0 => some (.syncEng (RF.ofWord w))
      | 1 => some (.syncErr (RF.ofWord w))
      | 2 => some (.syncCode (RF.ofWord w))
      | _ => none := by subst h; rfl

theorem decode2A (w : BitVec 64) (next : Option (BitVec 64)) {b : Bool} (h : w.getLsbD 58 = b) :
    decodeOpcode 0x2A w next = some (if b then .barArv (RF.ofWord w) else .bar (RF.ofWord w)) := by subst h; rfl

theorem decodeE3 (w : BitVec 64) (next : Option (BitVec 64)) {a b : Bool} (ha : w.getLsbD 53 = a) (hb : w.getLsbD 54 = b) :
    decodeOpcode 0xE3 w next = some (if b then .fpcntClrall (RF.ofWord w)
      else if a then .fpcntClr (RF.ofWord w) else .fpcnt (RF.ofWord w)) := by subst ha; subst hb; rfl

theorem decodeD4 (w : BitVec 64) (next : Option (BitVec 64)) {k : Nat} (h : w.toNat / 2 ^ 22 % 4 = k) :
    decodeOpcode 0xD4 w next = match (generalizing := false) k with
      | 0 => (MdrainF.ofWord w).map .mdrainV
      | 1 => (MdrainF.ofWord w).map .mdrainS
      | 2 => (MdrainF.ofWord w).map .mdrainG
      | _ => none := by subst h; rfl

theorem decodeD7 (w : BitVec 64) (next : Option (BitVec 64)) {b : Bool} (h : w.getLsbD 24 = b) :
    decodeOpcode 0xD7 w next = (MsclF.ofWord w).map fun f => if b then .msclCol f else .msclRow f := by subst h; rfl

/-! One lemma for each constructor. -/

theorem RoundTrip.clauseHeader (r : SplitRef) : RoundTrip.Statement (.clauseHeader r) := RoundTrip.noWord rfl

theorem RoundTrip.clauseWaitEnd (r : SplitRef) : RoundTrip.Statement (.clauseWaitEnd r) := RoundTrip.noWord rfl

theorem RoundTrip.pauseExpiry (r : SplitRef) : RoundTrip.Statement (.pauseExpiry r) := RoundTrip.noWord rfl

theorem RoundTrip.yieldTimeout (r : SplitRef) : RoundTrip.Statement (.yieldTimeout r) := RoundTrip.noWord rfl

theorem RoundTrip.priorityLift (r : SplitRef) : RoundTrip.Statement (.priorityLift r) := RoundTrip.noWord rfl

theorem RoundTrip.nop (f : RF) : RoundTrip.Statement (.nop f) :=
  RoundTrip.ofRaw rfl (RF.opcode _ f) (fun l3 _ => by cases l3 <;> rfl) (fun _ _ => congrArg (some ∘ Instr.nop) (RF.ofWord_toWord _ f))

theorem RoundTrip.sadd (f : RF) : RoundTrip.Statement (.sadd f) :=
  RoundTrip.ofRaw rfl (RF.opcode _ f) (fun l3 _ => by cases l3 <;> rfl) (fun _ _ => congrArg (some ∘ Instr.sadd) (RF.ofWord_toWord _ f))

theorem RoundTrip.ssub (f : RF) : RoundTrip.Statement (.ssub f) :=
  RoundTrip.ofRaw rfl (RF.opcode _ f) (fun l3 _ => by cases l3 <;> rfl) (fun _ _ => congrArg (some ∘ Instr.ssub) (RF.ofWord_toWord _ f))

theorem RoundTrip.smul (f : RF) : RoundTrip.Statement (.smul f) :=
  RoundTrip.ofRaw rfl (RF.opcode _ f) (fun l3 _ => by cases l3 <;> rfl) (fun _ _ => congrArg (some ∘ Instr.smul) (RF.ofWord_toWord _ f))

theorem RoundTrip.smulh (f : RF) : RoundTrip.Statement (.smulh f) :=
  RoundTrip.ofRaw rfl (RF.opcode _ f) (fun l3 _ => by cases l3 <;> rfl) (fun _ _ => congrArg (some ∘ Instr.smulh) (RF.ofWord_toWord _ f))

theorem RoundTrip.sdiv (f : RF) : RoundTrip.Statement (.sdiv f) :=
  RoundTrip.ofRaw rfl (RF.opcode _ f) (fun l3 _ => by cases l3 <;> rfl) (fun _ _ => congrArg (some ∘ Instr.sdiv) (RF.ofWord_toWord _ f))

theorem RoundTrip.srem (f : RF) : RoundTrip.Statement (.srem f) :=
  RoundTrip.ofRaw rfl (RF.opcode _ f) (fun l3 _ => by cases l3 <;> rfl) (fun _ _ => congrArg (some ∘ Instr.srem) (RF.ofWord_toWord _ f))

theorem RoundTrip.sand (f : RF) : RoundTrip.Statement (.sand f) :=
  RoundTrip.ofRaw rfl (RF.opcode _ f) (fun l3 _ => by cases l3 <;> rfl) (fun _ _ => congrArg (some ∘ Instr.sand) (RF.ofWord_toWord _ f))

theorem RoundTrip.sor (f : RF) : RoundTrip.Statement (.sor f) :=
  RoundTrip.ofRaw rfl (RF.opcode _ f) (fun l3 _ => by cases l3 <;> rfl) (fun _ _ => congrArg (some ∘ Instr.sor) (RF.ofWord_toWord _ f))

theorem RoundTrip.sxor (f : RF) : RoundTrip.Statement (.sxor f) :=
  RoundTrip.ofRaw rfl (RF.opcode _ f) (fun l3 _ => by cases l3 <;> rfl) (fun _ _ => congrArg (some ∘ Instr.sxor) (RF.ofWord_toWord _ f))

theorem RoundTrip.sshl (f : RF) : RoundTrip.Statement (.sshl f) :=
  RoundTrip.ofRaw rfl (RF.opcode _ f) (fun l3 _ => by cases l3 <;> rfl) (fun _ _ => congrArg (some ∘ Instr.sshl) (RF.ofWord_toWord _ f))

theorem RoundTrip.sshr (f : RF) : RoundTrip.Statement (.sshr f) :=
  RoundTrip.ofRaw rfl (RF.opcode _ f) (fun l3 _ => by cases l3 <;> rfl) (fun _ _ => congrArg (some ∘ Instr.sshr) (RF.ofWord_toWord _ f))

theorem RoundTrip.smin (f : RF) : RoundTrip.Statement (.smin f) :=
  RoundTrip.ofRaw rfl (RF.opcode _ f) (fun l3 _ => by cases l3 <;> rfl) (fun _ _ => congrArg (some ∘ Instr.smin) (RF.ofWord_toWord _ f))

theorem RoundTrip.smax (f : RF) : RoundTrip.Statement (.smax f) :=
  RoundTrip.ofRaw rfl (RF.opcode _ f) (fun l3 _ => by cases l3 <;> rfl) (fun _ _ => congrArg (some ∘ Instr.smax) (RF.ofWord_toWord _ f))

theorem RoundTrip.scmp (f : RF) : RoundTrip.Statement (.scmp f) :=
  RoundTrip.ofRaw rfl (RF.opcode _ f) (fun l3 _ => by cases l3 <;> rfl) (fun _ _ => congrArg (some ∘ Instr.scmp) (RF.ofWord_toWord _ f))

theorem RoundTrip.smov (f : RF) : RoundTrip.Statement (.smov f) :=
  RoundTrip.ofRaw rfl (RF.opcode _ f) (fun l3 _ => by cases l3 <;> rfl) (fun _ _ => congrArg (some ∘ Instr.smov) (RF.ofWord_toWord _ f))

theorem RoundTrip.smovi (f : IF) : RoundTrip.Statement (.smovi f) :=
  RoundTrip.ofRaw rfl (IF.opcode _ f) (fun l3 _ => by cases l3 <;> rfl) (fun _ _ => congrArg (some ∘ Instr.smovi) (IF.ofWord_toWord _ f))

theorem RoundTrip.smovhi (f : IF) : RoundTrip.Statement (.smovhi f) :=
  RoundTrip.ofRaw rfl (IF.opcode _ f) (fun l3 _ => by cases l3 <;> rfl) (fun _ _ => congrArg (some ∘ Instr.smovhi) (IF.ofWord_toWord _ f))

theorem RoundTrip.slea (f : RF) : RoundTrip.Statement (.slea f) :=
  RoundTrip.ofRaw rfl (RF.opcode _ f) (fun l3 _ => by cases l3 <;> rfl) (fun _ _ => congrArg (some ∘ Instr.slea) (RF.ofWord_toWord _ f))

theorem RoundTrip.ssel (f : RF) : RoundTrip.Statement (.ssel f) :=
  RoundTrip.ofRaw rfl (RF.opcode _ f) (fun l3 _ => by cases l3 <;> rfl) (fun _ _ => congrArg (some ∘ Instr.ssel) (RF.ofWord_toWord _ f))

theorem RoundTrip.sbit (f : RF) : RoundTrip.Statement (.sbit f) :=
  RoundTrip.ofRaw rfl (RF.opcode _ f) (fun l3 _ => by cases l3 <;> rfl) (fun _ _ => congrArg (some ∘ Instr.sbit) (RF.ofWord_toWord _ f))

theorem RoundTrip.sbfx (f : RF) : RoundTrip.Statement (.sbfx f) :=
  RoundTrip.ofRaw rfl (RF.opcode _ f) (fun l3 _ => by cases l3 <;> rfl) (fun _ _ => congrArg (some ∘ Instr.sbfx) (RF.ofWord_toWord _ f))

theorem RoundTrip.srd (f : RF) : RoundTrip.Statement (.srd f) :=
  RoundTrip.ofRaw rfl (RF.opcode _ f) (fun l3 _ => by cases l3 <;> rfl) (fun _ _ => congrArg (some ∘ Instr.srd) (RF.ofWord_toWord _ f))

theorem RoundTrip.swr (f : RF) : RoundTrip.Statement (.swr f) :=
  RoundTrip.ofRaw rfl (RF.opcode _ f) (fun l3 _ => by cases l3 <;> rfl) (fun _ _ => congrArg (some ∘ Instr.swr) (RF.ofWord_toWord _ f))

theorem RoundTrip.sfmt (f : RF) : RoundTrip.Statement (.sfmt f) :=
  RoundTrip.ofRaw rfl (RF.opcode _ f) (fun l3 _ => by cases l3 <;> rfl) (fun _ hw => by
    simp only [Instr.wf, Instr.static, Bool.and_eq_true, beq_iff_eq] at hw
    have hm : (RF.toWord 0x18 f).toNat / 2 ^ 48 % 8 = 0 := by
      rw [RF.modulus]; exact by rw [hw.2.2]; rfl
    exact (decode18 _ none hm).trans (congrArg (some ∘ Instr.sfmt) (RF.ofWord_toWord _ f)))

theorem RoundTrip.sfmtRnd (f : RF) : RoundTrip.Statement (.sfmtRnd f) :=
  RoundTrip.ofRaw rfl (RF.opcode _ f) (fun l3 _ => by cases l3 <;> rfl) (fun _ hw => by
    simp only [Instr.wf, Instr.static, Bool.and_eq_true, beq_iff_eq] at hw
    have hm : (RF.toWord 0x18 f).toNat / 2 ^ 48 % 8 = 1 := by
      rw [RF.modulus]; exact by simpa [RF.m] using hw.2.2
    exact (decode18 _ none hm).trans (congrArg (some ∘ Instr.sfmtRnd) (RF.ofWord_toWord _ f)))

theorem RoundTrip.sfmtSat (f : RF) : RoundTrip.Statement (.sfmtSat f) :=
  RoundTrip.ofRaw rfl (RF.opcode _ f) (fun l3 _ => by cases l3 <;> rfl) (fun _ hw => by
    simp only [Instr.wf, Instr.static, Bool.and_eq_true, beq_iff_eq] at hw
    have hm : (RF.toWord 0x18 f).toNat / 2 ^ 48 % 8 = 2 := by
      rw [RF.modulus]; exact by simpa [RF.m] using hw.2.2
    exact (decode18 _ none hm).trans (congrArg (some ∘ Instr.sfmtSat) (RF.ofWord_toWord _ f)))

theorem RoundTrip.sfmtAtb (f : RF) : RoundTrip.Statement (.sfmtAtb f) :=
  RoundTrip.ofRaw rfl (RF.opcode _ f) (fun l3 _ => by cases l3 <;> rfl) (fun _ hw => by
    simp only [Instr.wf, Instr.static, Bool.and_eq_true, beq_iff_eq] at hw
    have hm : (RF.toWord 0x18 f).toNat / 2 ^ 48 % 8 = 3 := by
      rw [RF.modulus]; exact by simpa [RF.m] using hw.2.2
    exact (decode18 _ none hm).trans (congrArg (some ∘ Instr.sfmtAtb) (RF.ofWord_toWord _ f)))

theorem RoundTrip.vote (f : RF) : RoundTrip.Statement (.vote f) :=
  RoundTrip.ofRaw rfl (RF.opcode _ f) (fun l3 _ => by cases l3 <;> rfl) (fun _ _ => congrArg (some ∘ Instr.vote) (RF.ofWord_toWord _ f))

theorem RoundTrip.bra (f : BF) : RoundTrip.Statement (.bra f) :=
  RoundTrip.ofRaw rfl (BF.opcode _ f) (fun l3 _ => by cases l3 <;> rfl) (fun _ _ => congrArg (some ∘ Instr.bra) (BF.ofWord_toWord _ f))

theorem RoundTrip.brx (f : RF) : RoundTrip.Statement (.brx f) :=
  RoundTrip.ofRaw rfl (RF.opcode _ f) (fun l3 _ => by cases l3 <;> rfl) (fun _ _ => congrArg (some ∘ Instr.brx) (RF.ofWord_toWord _ f))

theorem RoundTrip.call (f : BF) : RoundTrip.Statement (.call f) :=
  RoundTrip.ofRaw rfl (BF.opcode _ f) (fun l3 _ => by cases l3 <;> rfl) (fun _ _ => congrArg (some ∘ Instr.call) (BF.ofWord_toWord _ f))

theorem RoundTrip.ret (f : RF) : RoundTrip.Statement (.ret f) :=
  RoundTrip.ofRaw rfl (RF.opcode _ f) (fun l3 _ => by cases l3 <;> rfl) (fun _ _ => congrArg (some ∘ Instr.ret) (RF.ofWord_toWord _ f))

theorem RoundTrip.rcvp (f : BF) : RoundTrip.Statement (.rcvp f) :=
  RoundTrip.ofRaw rfl (BF.opcode _ f) (fun l3 _ => by cases l3 <;> rfl) (fun _ _ => congrArg (some ∘ Instr.rcvp) (BF.ofWord_toWord _ f))

theorem RoundTrip.join (f : RF) : RoundTrip.Statement (.join f) :=
  RoundTrip.ofRaw rfl (RF.opcode _ f) (fun l3 _ => by cases l3 <;> rfl) (fun _ _ => congrArg (some ∘ Instr.join) (RF.ofWord_toWord _ f))

theorem RoundTrip.bsync (f : RF) : RoundTrip.Statement (.bsync f) :=
  RoundTrip.ofRaw rfl (RF.opcode _ f) (fun l3 hw => by
    simp only [Instr.wf, Instr.static, Bool.and_eq_true, Bool.not_eq_true'] at hw
    rw [hw.2.2]; rfl) (fun _ _ => by
    exact congrArg (some ∘ Instr.bsync) (RF.ofWord_toWord _ f))

theorem RoundTrip.exit (f : RF) : RoundTrip.Statement (.exit f) :=
  RoundTrip.ofRaw rfl (RF.opcode _ f) (fun l3 _ => by cases l3 <;> rfl) (fun _ _ => congrArg (some ∘ Instr.exit) (RF.ofWord_toWord _ f))

theorem RoundTrip.pause (f : IF) : RoundTrip.Statement (.pause f) :=
  RoundTrip.ofRaw rfl (IF.opcode _ f) (fun l3 _ => by cases l3 <;> rfl) (fun _ _ => congrArg (some ∘ Instr.pause) (IF.ofWord_toWord _ f))

theorem RoundTrip.loop (f : BF) : RoundTrip.Statement (.loop f) :=
  RoundTrip.ofRaw rfl (BF.opcode _ f) (fun l3 _ => by cases l3 <;> rfl) (fun _ _ => congrArg (some ∘ Instr.loop) (BF.ofWord_toWord _ f))

theorem RoundTrip.launch (f : RF) : RoundTrip.Statement (.launch f) :=
  RoundTrip.ofRaw rfl (RF.opcode _ f) (fun l3 _ => by cases l3 <;> rfl) (fun _ _ => congrArg (some ∘ Instr.launch) (RF.ofWord_toWord _ f))

theorem RoundTrip.bar (f : RF) : RoundTrip.Statement (.bar f) :=
  RoundTrip.ofRaw rfl (RF.opcode _ f) (fun l3 _ => by cases l3 <;> rfl) (fun _ hw => by
    simp only [Instr.wf, Instr.static, Bool.and_eq_true, beq_iff_eq] at hw
    have hb : (RF.toWord 0x2A f).getLsbD 58 = false := (RF.modBit 0x2A f 10).trans (RF.mdBit f 0x3FF 10 hw.2.1.2 (by decide))
    exact (decode2A _ none hb).trans (congrArg (some ∘ Instr.bar) (RF.ofWord_toWord _ f)))

theorem RoundTrip.barArv (f : RF) : RoundTrip.Statement (.barArv f) :=
  RoundTrip.ofRaw rfl (RF.opcode _ f) (fun l3 _ => by cases l3 <;> rfl) (fun _ hw => by
    simp only [Instr.wf, Instr.static, Bool.and_eq_true, beq_iff_eq] at hw
    have hb : (RF.toWord 0x2A f).getLsbD 58 = true := (RF.modBit 0x2A f 10).trans (hw.2.1.2)
    exact (decode2A _ none hb).trans (congrArg (some ∘ Instr.barArv) (RF.ofWord_toWord _ f)))

theorem RoundTrip.cbar (f : RF) : RoundTrip.Statement (.cbar f) :=
  RoundTrip.ofRaw rfl (RF.opcode _ f) (fun l3 _ => by cases l3 <;> rfl) (fun _ _ => congrArg (some ∘ Instr.cbar) (RF.ofWord_toWord _ f))

theorem RoundTrip.rget (f : RF) : RoundTrip.Statement (.rget f) :=
  RoundTrip.ofRaw rfl (RF.opcode _ f) (fun l3 _ => by cases l3 <;> rfl) (fun _ _ => congrArg (some ∘ Instr.rget) (RF.ofWord_toWord _ f))

theorem RoundTrip.rput (f : RF) : RoundTrip.Statement (.rput f) :=
  RoundTrip.ofRaw rfl (RF.opcode _ f) (fun l3 _ => by cases l3 <;> rfl) (fun _ _ => congrArg (some ∘ Instr.rput) (RF.ofWord_toWord _ f))

theorem RoundTrip.vadd (f : RF) : RoundTrip.Statement (.vadd f) :=
  RoundTrip.ofRaw rfl (RF.opcode _ f) (fun l3 _ => by cases l3 <;> rfl) (fun _ _ => congrArg (some ∘ Instr.vadd) (RF.ofWord_toWord _ f))

theorem RoundTrip.vsub (f : RF) : RoundTrip.Statement (.vsub f) :=
  RoundTrip.ofRaw rfl (RF.opcode _ f) (fun l3 _ => by cases l3 <;> rfl) (fun _ _ => congrArg (some ∘ Instr.vsub) (RF.ofWord_toWord _ f))

theorem RoundTrip.vmul (f : RF) : RoundTrip.Statement (.vmul f) :=
  RoundTrip.ofRaw rfl (RF.opcode _ f) (fun l3 _ => by cases l3 <;> rfl) (fun _ _ => congrArg (some ∘ Instr.vmul) (RF.ofWord_toWord _ f))

theorem RoundTrip.vmulh (f : RF) : RoundTrip.Statement (.vmulh f) :=
  RoundTrip.ofRaw rfl (RF.opcode _ f) (fun l3 _ => by cases l3 <;> rfl) (fun _ _ => congrArg (some ∘ Instr.vmulh) (RF.ofWord_toWord _ f))

theorem RoundTrip.vmad (f : RF) : RoundTrip.Statement (.vmad f) :=
  RoundTrip.ofRaw rfl (RF.opcode _ f) (fun l3 _ => by cases l3 <;> rfl) (fun _ _ => congrArg (some ∘ Instr.vmad) (RF.ofWord_toWord _ f))

theorem RoundTrip.vdiv (f : RF) : RoundTrip.Statement (.vdiv f) :=
  RoundTrip.ofRaw rfl (RF.opcode _ f) (fun l3 _ => by cases l3 <;> rfl) (fun _ _ => congrArg (some ∘ Instr.vdiv) (RF.ofWord_toWord _ f))

theorem RoundTrip.vrem (f : RF) : RoundTrip.Statement (.vrem f) :=
  RoundTrip.ofRaw rfl (RF.opcode _ f) (fun l3 _ => by cases l3 <;> rfl) (fun _ _ => congrArg (some ∘ Instr.vrem) (RF.ofWord_toWord _ f))

theorem RoundTrip.vmin (f : RF) : RoundTrip.Statement (.vmin f) :=
  RoundTrip.ofRaw rfl (RF.opcode _ f) (fun l3 _ => by cases l3 <;> rfl) (fun _ _ => congrArg (some ∘ Instr.vmin) (RF.ofWord_toWord _ f))

theorem RoundTrip.vmax (f : RF) : RoundTrip.Statement (.vmax f) :=
  RoundTrip.ofRaw rfl (RF.opcode _ f) (fun l3 _ => by cases l3 <;> rfl) (fun _ _ => congrArg (some ∘ Instr.vmax) (RF.ofWord_toWord _ f))

theorem RoundTrip.vabs (f : RF) : RoundTrip.Statement (.vabs f) :=
  RoundTrip.ofRaw rfl (RF.opcode _ f) (fun l3 _ => by cases l3 <;> rfl) (fun _ _ => congrArg (some ∘ Instr.vabs) (RF.ofWord_toWord _ f))

theorem RoundTrip.vneg (f : RF) : RoundTrip.Statement (.vneg f) :=
  RoundTrip.ofRaw rfl (RF.opcode _ f) (fun l3 _ => by cases l3 <;> rfl) (fun _ _ => congrArg (some ∘ Instr.vneg) (RF.ofWord_toWord _ f))

theorem RoundTrip.vand (f : RF) : RoundTrip.Statement (.vand f) :=
  RoundTrip.ofRaw rfl (RF.opcode _ f) (fun l3 _ => by cases l3 <;> rfl) (fun _ _ => congrArg (some ∘ Instr.vand) (RF.ofWord_toWord _ f))

theorem RoundTrip.vor (f : RF) : RoundTrip.Statement (.vor f) :=
  RoundTrip.ofRaw rfl (RF.opcode _ f) (fun l3 _ => by cases l3 <;> rfl) (fun _ _ => congrArg (some ∘ Instr.vor) (RF.ofWord_toWord _ f))

theorem RoundTrip.vxor (f : RF) : RoundTrip.Statement (.vxor f) :=
  RoundTrip.ofRaw rfl (RF.opcode _ f) (fun l3 _ => by cases l3 <;> rfl) (fun _ _ => congrArg (some ∘ Instr.vxor) (RF.ofWord_toWord _ f))

theorem RoundTrip.vnot (f : RF) : RoundTrip.Statement (.vnot f) :=
  RoundTrip.ofRaw rfl (RF.opcode _ f) (fun l3 _ => by cases l3 <;> rfl) (fun _ _ => congrArg (some ∘ Instr.vnot) (RF.ofWord_toWord _ f))

theorem RoundTrip.vshl (f : RF) : RoundTrip.Statement (.vshl f) :=
  RoundTrip.ofRaw rfl (RF.opcode _ f) (fun l3 _ => by cases l3 <;> rfl) (fun _ _ => congrArg (some ∘ Instr.vshl) (RF.ofWord_toWord _ f))

theorem RoundTrip.vshr (f : RF) : RoundTrip.Statement (.vshr f) :=
  RoundTrip.ofRaw rfl (RF.opcode _ f) (fun l3 _ => by cases l3 <;> rfl) (fun _ _ => congrArg (some ∘ Instr.vshr) (RF.ofWord_toWord _ f))

theorem RoundTrip.vrot (f : RF) : RoundTrip.Statement (.vrot f) :=
  RoundTrip.ofRaw rfl (RF.opcode _ f) (fun l3 _ => by cases l3 <;> rfl) (fun _ _ => congrArg (some ∘ Instr.vrot) (RF.ofWord_toWord _ f))

theorem RoundTrip.vbfx (f : RF) : RoundTrip.Statement (.vbfx f) :=
  RoundTrip.ofRaw rfl (RF.opcode _ f) (fun l3 _ => by cases l3 <;> rfl) (fun _ _ => congrArg (some ∘ Instr.vbfx) (RF.ofWord_toWord _ f))

theorem RoundTrip.vbit (f : RF) : RoundTrip.Statement (.vbit f) :=
  RoundTrip.ofRaw rfl (RF.opcode _ f) (fun l3 _ => by cases l3 <;> rfl) (fun _ _ => congrArg (some ∘ Instr.vbit) (RF.ofWord_toWord _ f))

theorem RoundTrip.vcmp (f : RF) : RoundTrip.Statement (.vcmp f) :=
  RoundTrip.ofRaw rfl (RF.opcode _ f) (fun l3 _ => by cases l3 <;> rfl) (fun _ _ => congrArg (some ∘ Instr.vcmp) (RF.ofWord_toWord _ f))

theorem RoundTrip.vsel (f : RF) : RoundTrip.Statement (.vsel f) :=
  RoundTrip.ofRaw rfl (RF.opcode _ f) (fun l3 _ => by cases l3 <;> rfl) (fun _ _ => congrArg (some ∘ Instr.vsel) (RF.ofWord_toWord _ f))

theorem RoundTrip.vmov (f : RF) : RoundTrip.Statement (.vmov f) :=
  RoundTrip.ofRaw rfl (RF.opcode _ f) (fun l3 _ => by cases l3 <;> rfl) (fun _ _ => congrArg (some ∘ Instr.vmov) (RF.ofWord_toWord _ f))

theorem RoundTrip.vmovi (f : IF) : RoundTrip.Statement (.vmovi f) :=
  RoundTrip.ofRaw rfl (IF.opcode _ f) (fun l3 _ => by cases l3 <;> rfl) (fun _ _ => congrArg (some ∘ Instr.vmovi) (IF.ofWord_toWord _ f))

theorem RoundTrip.vlea (f : RF) : RoundTrip.Statement (.vlea f) :=
  RoundTrip.ofRaw rfl (RF.opcode _ f) (fun l3 _ => by cases l3 <;> rfl) (fun _ _ => congrArg (some ∘ Instr.vlea) (RF.ofWord_toWord _ f))

theorem RoundTrip.fadd (f : RF) : RoundTrip.Statement (.fadd f) :=
  RoundTrip.ofRaw rfl (RF.opcode _ f) (fun l3 _ => by cases l3 <;> rfl) (fun _ _ => congrArg (some ∘ Instr.fadd) (RF.ofWord_toWord _ f))

theorem RoundTrip.fsub (f : RF) : RoundTrip.Statement (.fsub f) :=
  RoundTrip.ofRaw rfl (RF.opcode _ f) (fun l3 _ => by cases l3 <;> rfl) (fun _ _ => congrArg (some ∘ Instr.fsub) (RF.ofWord_toWord _ f))

theorem RoundTrip.fmul (f : RF) : RoundTrip.Statement (.fmul f) :=
  RoundTrip.ofRaw rfl (RF.opcode _ f) (fun l3 _ => by cases l3 <;> rfl) (fun _ _ => congrArg (some ∘ Instr.fmul) (RF.ofWord_toWord _ f))

theorem RoundTrip.ffma (f : RF) : RoundTrip.Statement (.ffma f) :=
  RoundTrip.ofRaw rfl (RF.opcode _ f) (fun l3 _ => by cases l3 <;> rfl) (fun _ _ => congrArg (some ∘ Instr.ffma) (RF.ofWord_toWord _ f))

theorem RoundTrip.fmin (f : RF) : RoundTrip.Statement (.fmin f) :=
  RoundTrip.ofRaw rfl (RF.opcode _ f) (fun l3 _ => by cases l3 <;> rfl) (fun _ _ => congrArg (some ∘ Instr.fmin) (RF.ofWord_toWord _ f))

theorem RoundTrip.fmax (f : RF) : RoundTrip.Statement (.fmax f) :=
  RoundTrip.ofRaw rfl (RF.opcode _ f) (fun l3 _ => by cases l3 <;> rfl) (fun _ _ => congrArg (some ∘ Instr.fmax) (RF.ofWord_toWord _ f))

theorem RoundTrip.fabs (f : RF) : RoundTrip.Statement (.fabs f) :=
  RoundTrip.ofRaw rfl (RF.opcode _ f) (fun l3 _ => by cases l3 <;> rfl) (fun _ _ => congrArg (some ∘ Instr.fabs) (RF.ofWord_toWord _ f))

theorem RoundTrip.fneg (f : RF) : RoundTrip.Statement (.fneg f) :=
  RoundTrip.ofRaw rfl (RF.opcode _ f) (fun l3 _ => by cases l3 <;> rfl) (fun _ _ => congrArg (some ∘ Instr.fneg) (RF.ofWord_toWord _ f))

theorem RoundTrip.fcmp (f : RF) : RoundTrip.Statement (.fcmp f) :=
  RoundTrip.ofRaw rfl (RF.opcode _ f) (fun l3 _ => by cases l3 <;> rfl) (fun _ _ => congrArg (some ∘ Instr.fcmp) (RF.ofWord_toWord _ f))

theorem RoundTrip.fclass (f : RF) : RoundTrip.Statement (.fclass f) :=
  RoundTrip.ofRaw rfl (RF.opcode _ f) (fun l3 _ => by cases l3 <;> rfl) (fun _ _ => congrArg (some ∘ Instr.fclass) (RF.ofWord_toWord _ f))

theorem RoundTrip.fdiv (f : RF) : RoundTrip.Statement (.fdiv f) :=
  RoundTrip.ofRaw rfl (RF.opcode _ f) (fun l3 _ => by cases l3 <;> rfl) (fun _ _ => congrArg (some ∘ Instr.fdiv) (RF.ofWord_toWord _ f))

theorem RoundTrip.fsqrt (f : RF) : RoundTrip.Statement (.fsqrt f) :=
  RoundTrip.ofRaw rfl (RF.opcode _ f) (fun l3 _ => by cases l3 <;> rfl) (fun _ _ => congrArg (some ∘ Instr.fsqrt) (RF.ofWord_toWord _ f))

theorem RoundTrip.frcp (f : RF) : RoundTrip.Statement (.frcp f) :=
  RoundTrip.ofRaw rfl (RF.opcode _ f) (fun l3 _ => by cases l3 <;> rfl) (fun _ _ => congrArg (some ∘ Instr.frcp) (RF.ofWord_toWord _ f))

theorem RoundTrip.frsq (f : RF) : RoundTrip.Statement (.frsq f) :=
  RoundTrip.ofRaw rfl (RF.opcode _ f) (fun l3 _ => by cases l3 <;> rfl) (fun _ _ => congrArg (some ∘ Instr.frsq) (RF.ofWord_toWord _ f))

theorem RoundTrip.fexp2 (f : RF) : RoundTrip.Statement (.fexp2 f) :=
  RoundTrip.ofRaw rfl (RF.opcode _ f) (fun l3 _ => by cases l3 <;> rfl) (fun _ _ => congrArg (some ∘ Instr.fexp2) (RF.ofWord_toWord _ f))

theorem RoundTrip.flog2 (f : RF) : RoundTrip.Statement (.flog2 f) :=
  RoundTrip.ofRaw rfl (RF.opcode _ f) (fun l3 _ => by cases l3 <;> rfl) (fun _ _ => congrArg (some ∘ Instr.flog2) (RF.ofWord_toWord _ f))

theorem RoundTrip.fsin (f : RF) : RoundTrip.Statement (.fsin f) :=
  RoundTrip.ofRaw rfl (RF.opcode _ f) (fun l3 _ => by cases l3 <;> rfl) (fun _ _ => congrArg (some ∘ Instr.fsin) (RF.ofWord_toWord _ f))

theorem RoundTrip.fcos (f : RF) : RoundTrip.Statement (.fcos f) :=
  RoundTrip.ofRaw rfl (RF.opcode _ f) (fun l3 _ => by cases l3 <;> rfl) (fun _ _ => congrArg (some ∘ Instr.fcos) (RF.ofWord_toWord _ f))

theorem RoundTrip.ftanh (f : RF) : RoundTrip.Statement (.ftanh f) :=
  RoundTrip.ofRaw rfl (RF.opcode _ f) (fun l3 _ => by cases l3 <;> rfl) (fun _ _ => congrArg (some ∘ Instr.ftanh) (RF.ofWord_toWord _ f))

theorem RoundTrip.fact (f : RF) : RoundTrip.Statement (.fact f) :=
  RoundTrip.ofRaw rfl (RF.opcode _ f) (fun l3 _ => by cases l3 <;> rfl) (fun _ _ => congrArg (some ∘ Instr.fact) (RF.ofWord_toWord _ f))

theorem RoundTrip.fdot2 (f : RF) : RoundTrip.Statement (.fdot2 f) :=
  RoundTrip.ofRaw rfl (RF.opcode _ f) (fun l3 _ => by cases l3 <;> rfl) (fun _ _ => congrArg (some ∘ Instr.fdot2) (RF.ofWord_toWord _ f))

theorem RoundTrip.cvt (f : RF) : RoundTrip.Statement (.cvt f) :=
  RoundTrip.ofRaw rfl (RF.opcode _ f) (fun l3 _ => by cases l3 <;> rfl) (fun _ _ => congrArg (some ∘ Instr.cvt) (RF.ofWord_toWord _ f))

theorem RoundTrip.pack (f : RF) : RoundTrip.Statement (.pack f) :=
  RoundTrip.ofRaw rfl (RF.opcode _ f) (fun l3 _ => by cases l3 <;> rfl) (fun _ _ => congrArg (some ∘ Instr.pack) (RF.ofWord_toWord _ f))

theorem RoundTrip.unpk (f : RF) : RoundTrip.Statement (.unpk f) :=
  RoundTrip.ofRaw rfl (RF.opcode _ f) (fun l3 _ => by cases l3 <;> rfl) (fun _ _ => congrArg (some ∘ Instr.unpk) (RF.ofWord_toWord _ f))

theorem RoundTrip.fscl (f : RF) : RoundTrip.Statement (.fscl f) :=
  RoundTrip.ofRaw rfl (RF.opcode _ f) (fun l3 _ => by cases l3 <;> rfl) (fun _ _ => congrArg (some ∘ Instr.fscl) (RF.ofWord_toWord _ f))

theorem RoundTrip.fround (f : RF) : RoundTrip.Statement (.fround f) :=
  RoundTrip.ofRaw rfl (RF.opcode _ f) (fun l3 _ => by cases l3 <;> rfl) (fun _ _ => congrArg (some ∘ Instr.fround) (RF.ofWord_toWord _ f))

theorem RoundTrip.vexpr (f : RF) (toks : BitVec 64) : RoundTrip.Statement (.vexpr f toks) :=
  RoundTrip.ofRaw rfl (RF.opcode _ f) (fun l3 hw => by
    simp only [Instr.wf, Instr.static, Bool.and_eq_true] at hw
    rw [hw.2.1.1.1.1]; rfl) (fun _ _ => by
    exact congrArg (fun g => some (Instr.vexpr g toks)) (RF.ofWord_toWord _ f))

theorem RoundTrip.qswz (f : RF) : RoundTrip.Statement (.qswz f) :=
  RoundTrip.ofRaw rfl (RF.opcode _ f) (fun l3 _ => by cases l3 <;> rfl) (fun _ _ => congrArg (some ∘ Instr.qswz) (RF.ofWord_toWord _ f))

theorem RoundTrip.qbcast (f : RF) : RoundTrip.Statement (.qbcast f) :=
  RoundTrip.ofRaw rfl (RF.opcode _ f) (fun l3 _ => by cases l3 <;> rfl) (fun _ _ => congrArg (some ∘ Instr.qbcast) (RF.ofWord_toWord _ f))

theorem RoundTrip.lxchg (f : RF) : RoundTrip.Statement (.lxchg f) :=
  RoundTrip.ofRaw rfl (RF.opcode _ f) (fun l3 _ => by cases l3 <;> rfl) (fun _ _ => congrArg (some ∘ Instr.lxchg) (RF.ofWord_toWord _ f))

theorem RoundTrip.lshfl (f : RF) : RoundTrip.Statement (.lshfl f) :=
  RoundTrip.ofRaw rfl (RF.opcode _ f) (fun l3 _ => by cases l3 <;> rfl) (fun _ _ => congrArg (some ∘ Instr.lshfl) (RF.ofWord_toWord _ f))

theorem RoundTrip.lrot (f : RF) : RoundTrip.Statement (.lrot f) :=
  RoundTrip.ofRaw rfl (RF.opcode _ f) (fun l3 _ => by cases l3 <;> rfl) (fun _ _ => congrArg (some ∘ Instr.lrot) (RF.ofWord_toWord _ f))

theorem RoundTrip.lscan (f : RF) : RoundTrip.Statement (.lscan f) :=
  RoundTrip.ofRaw rfl (RF.opcode _ f) (fun l3 _ => by cases l3 <;> rfl) (fun _ _ => congrArg (some ∘ Instr.lscan) (RF.ofWord_toWord _ f))

theorem RoundTrip.lred (f : RF) : RoundTrip.Statement (.lred f) :=
  RoundTrip.ofRaw rfl (RF.opcode _ f) (fun l3 _ => by cases l3 <;> rfl) (fun _ _ => congrArg (some ∘ Instr.lred) (RF.ofWord_toWord _ f))

theorem RoundTrip.lidx (f : RF) : RoundTrip.Statement (.lidx f) :=
  RoundTrip.ofRaw rfl (RF.opcode _ f) (fun l3 _ => by cases l3 <;> rfl) (fun _ _ => congrArg (some ∘ Instr.lidx) (RF.ofWord_toWord _ f))

theorem RoundTrip.qhelp (f : RF) : RoundTrip.Statement (.qhelp f) :=
  RoundTrip.ofRaw rfl (RF.opcode _ f) (fun l3 hw => by
    simp only [Instr.wf, Instr.static, Bool.and_eq_true] at hw
    rw [hw.2.1.1]; rfl) (fun _ _ => by
    exact congrArg (some ∘ Instr.qhelp) (RF.ofWord_toWord _ f))

theorem RoundTrip.atload (f : RF) : RoundTrip.Statement (.atload f) :=
  RoundTrip.ofRaw rfl (RF.opcode _ f) (fun l3 _ => by cases l3 <;> rfl) (fun _ _ => congrArg (some ∘ Instr.atload) (RF.ofWord_toWord _ f))

theorem RoundTrip.atbind (f : RF) : RoundTrip.Statement (.atbind f) :=
  RoundTrip.ofRaw rfl (RF.opcode _ f) (fun l3 _ => by cases l3 <;> rfl) (fun _ _ => congrArg (some ∘ Instr.atbind) (RF.ofWord_toWord _ f))

theorem RoundTrip.ld (f : MF) : RoundTrip.Statement (.ld f) :=
  RoundTrip.ofRaw rfl (MF.opcode _ f) (fun l3 _ => by cases l3 <;> rfl) (fun _ _ => congrArg (some ∘ Instr.ld) (MF.ofWord_toWord _ f))

theorem RoundTrip.st (f : MF) : RoundTrip.Statement (.st f) :=
  RoundTrip.ofRaw rfl (MF.opcode _ f) (fun l3 _ => by cases l3 <;> rfl) (fun _ _ => congrArg (some ∘ Instr.st) (MF.ofWord_toWord _ f))

theorem RoundTrip.lateFraming (part : Nat) : RoundTrip.Statement (.lateFraming part) := RoundTrip.noWord rfl

theorem RoundTrip.lds (f : MF) : RoundTrip.Statement (.lds f) :=
  RoundTrip.ofRaw rfl (MF.opcode _ f) (fun l3 _ => by cases l3 <;> rfl) (fun _ _ => congrArg (some ∘ Instr.lds) (MF.ofWord_toWord _ f))

theorem RoundTrip.sts (f : MF) : RoundTrip.Statement (.sts f) :=
  RoundTrip.ofRaw rfl (MF.opcode _ f) (fun l3 _ => by cases l3 <;> rfl) (fun _ _ => congrArg (some ∘ Instr.sts) (MF.ofWord_toWord _ f))

theorem RoundTrip.ldw (f : MF) : RoundTrip.Statement (.ldw f) :=
  RoundTrip.ofRaw rfl (MF.opcode _ f) (fun l3 _ => by cases l3 <;> rfl) (fun _ _ => congrArg (some ∘ Instr.ldw) (MF.ofWord_toWord _ f))

theorem RoundTrip.atom (f : MF) : RoundTrip.Statement (.atom f) :=
  RoundTrip.ofRaw rfl (MF.opcode _ f) (fun l3 _ => by cases l3 <;> rfl) (fun _ _ => congrArg (some ∘ Instr.atom) (MF.ofWord_toWord _ f))

theorem RoundTrip.cas (f : MF) : RoundTrip.Statement (.cas f) :=
  RoundTrip.ofRaw rfl (MF.opcode _ f) (fun l3 _ => by cases l3 <;> rfl) (fun _ _ => congrArg (some ∘ Instr.cas) (MF.ofWord_toWord _ f))

theorem RoundTrip.atoms (f : MF) : RoundTrip.Statement (.atoms f) :=
  RoundTrip.ofRaw rfl (MF.opcode _ f) (fun l3 _ => by cases l3 <;> rfl) (fun _ _ => congrArg (some ∘ Instr.atoms) (MF.ofWord_toWord _ f))

theorem RoundTrip.fenceAcq (f : RF) : RoundTrip.Statement (.fenceAcq f) :=
  RoundTrip.ofRaw rfl (RF.opcode _ f) (fun l3 _ => by cases l3 <;> rfl) (fun _ hw => by
    simp only [Instr.wf, Instr.static, Bool.and_eq_true, beq_iff_eq] at hw
    have hm : (RF.toWord 0xA8 f).toNat / 2 ^ 48 % 4 = 1 := by
      rw [RF.modulus]; have := hw.2; simp_all [RF.m]
    exact (decodeA8 _ none hm).trans (congrArg (some ∘ Instr.fenceAcq) (RF.ofWord_toWord _ f)))

theorem RoundTrip.fenceRel (f : RF) : RoundTrip.Statement (.fenceRel f) :=
  RoundTrip.ofRaw rfl (RF.opcode _ f) (fun l3 _ => by cases l3 <;> rfl) (fun _ hw => by
    simp only [Instr.wf, Instr.static, Bool.and_eq_true, beq_iff_eq] at hw
    have hm : (RF.toWord 0xA8 f).toNat / 2 ^ 48 % 4 = 2 := by
      rw [RF.modulus]; have := hw.2; simp_all [RF.m]
    exact (decodeA8 _ none hm).trans (congrArg (some ∘ Instr.fenceRel) (RF.ofWord_toWord _ f)))

theorem RoundTrip.fenceFull (f : RF) : RoundTrip.Statement (.fenceFull f) :=
  RoundTrip.ofRaw rfl (RF.opcode _ f) (fun l3 _ => by cases l3 <;> rfl) (fun _ hw => by
    simp only [Instr.wf, Instr.static, Bool.and_eq_true, beq_iff_eq] at hw
    have hm : (RF.toWord 0xA8 f).toNat / 2 ^ 48 % 4 = 3 := by
      rw [RF.modulus]; have := hw.2; simp_all [RF.m]
    exact (decodeA8 _ none hm).trans (congrArg (some ∘ Instr.fenceFull) (RF.ofWord_toWord _ f)))

theorem RoundTrip.dcf (f : MF) : RoundTrip.Statement (.dcf f) :=
  RoundTrip.ofRaw rfl (MF.opcode _ f) (fun l3 _ => by cases l3 <;> rfl) (fun _ _ => congrArg (some ∘ Instr.dcf) (MF.ofWord_toWord _ f))

theorem RoundTrip.disc (f : MF) : RoundTrip.Statement (.disc f) :=
  RoundTrip.ofRaw rfl (MF.opcode _ f) (fun l3 _ => by cases l3 <;> rfl) (fun _ _ => congrArg (some ∘ Instr.disc) (MF.ofWord_toWord _ f))

theorem RoundTrip.prf (f : MF) : RoundTrip.Statement (.prf f) :=
  RoundTrip.ofRaw rfl (MF.opcode _ f) (fun l3 _ => by cases l3 <;> rfl) (fun _ _ => congrArg (some ∘ Instr.prf) (MF.ofWord_toWord _ f))

theorem RoundTrip.wback (f : MF) : RoundTrip.Statement (.wback f) :=
  RoundTrip.ofRaw rfl (MF.opcode _ f) (fun l3 _ => by cases l3 <;> rfl) (fun _ _ => congrArg (some ∘ Instr.wback) (MF.ofWord_toWord _ f))

theorem RoundTrip.sinv (f : MF) : RoundTrip.Statement (.sinv f) :=
  RoundTrip.ofRaw rfl (MF.opcode _ f) (fun l3 _ => by cases l3 <;> rfl) (fun _ _ => congrArg (some ∘ Instr.sinv) (MF.ofWord_toWord _ f))

theorem RoundTrip.cpl (f : MF) : RoundTrip.Statement (.cpl f) :=
  RoundTrip.ofRaw rfl (MF.opcode _ f) (fun l3 _ => by cases l3 <;> rfl) (fun _ _ => congrArg (some ∘ Instr.cpl) (MF.ofWord_toWord _ f))

theorem RoundTrip.cps (f : MF) : RoundTrip.Statement (.cps f) :=
  RoundTrip.ofRaw rfl (MF.opcode _ f) (fun l3 _ => by cases l3 <;> rfl) (fun _ _ => congrArg (some ∘ Instr.cps) (MF.ofWord_toWord _ f))

theorem RoundTrip.cpt (f : RF) : RoundTrip.Statement (.cpt f) :=
  RoundTrip.ofRaw rfl (RF.opcode _ f) (fun l3 _ => by cases l3 <;> rfl) (fun _ _ => congrArg (some ∘ Instr.cpt) (RF.ofWord_toWord _ f))

theorem RoundTrip.cptw (f : RF) : RoundTrip.Statement (.cptw f) :=
  RoundTrip.ofRaw rfl (RF.opcode _ f) (fun l3 _ => by cases l3 <;> rfl) (fun _ _ => congrArg (some ∘ Instr.cptw) (RF.ofWord_toWord _ f))

theorem RoundTrip.tload (f : MF) : RoundTrip.Statement (.tload f) :=
  RoundTrip.ofRaw rfl (MF.opcode _ f) (fun l3 _ => by cases l3 <;> rfl) (fun _ _ => congrArg (some ∘ Instr.tload) (MF.ofWord_toWord _ f))

theorem RoundTrip.tbinit (f : MF) : RoundTrip.Statement (.tbinit f) :=
  RoundTrip.ofRaw rfl (MF.opcode _ f) (fun l3 _ => by cases l3 <;> rfl) (fun _ _ => congrArg (some ∘ Instr.tbinit) (MF.ofWord_toWord _ f))

theorem RoundTrip.tbarr (f : MF) : RoundTrip.Statement (.tbarr f) :=
  RoundTrip.ofRaw rfl (MF.opcode _ f) (fun l3 _ => by cases l3 <;> rfl) (fun _ _ => congrArg (some ∘ Instr.tbarr) (MF.ofWord_toWord _ f))

theorem RoundTrip.tbexp (f : MF) : RoundTrip.Statement (.tbexp f) :=
  RoundTrip.ofRaw rfl (MF.opcode _ f) (fun l3 _ => by cases l3 <;> rfl) (fun _ _ => congrArg (some ∘ Instr.tbexp) (MF.ofWord_toWord _ f))

theorem RoundTrip.tbtest (f : MF) : RoundTrip.Statement (.tbtest f) :=
  RoundTrip.ofRaw rfl (MF.opcode _ f) (fun l3 _ => by cases l3 <;> rfl) (fun _ _ => congrArg (some ∘ Instr.tbtest) (MF.ofWord_toWord _ f))

theorem RoundTrip.gset (f : RF) : RoundTrip.Statement (.gset f) :=
  RoundTrip.ofRaw rfl (RF.opcode _ f) (fun l3 _ => by cases l3 <;> rfl) (fun _ _ => congrArg (some ∘ Instr.gset) (RF.ofWord_toWord _ f))

theorem RoundTrip.gget (f : RF) : RoundTrip.Statement (.gget f) :=
  RoundTrip.ofRaw rfl (RF.opcode _ f) (fun l3 _ => by cases l3 <;> rfl) (fun _ _ => congrArg (some ∘ Instr.gget) (RF.ofWord_toWord _ f))

theorem RoundTrip.gstop (f : RF) : RoundTrip.Statement (.gstop f) :=
  RoundTrip.ofRaw rfl (RF.opcode _ f) (fun l3 _ => by cases l3 <;> rfl) (fun _ _ => congrArg (some ∘ Instr.gstop) (RF.ofWord_toWord _ f))

theorem RoundTrip.copyComplete (core : Nat) (id : Nat) : RoundTrip.Statement (.copyComplete core id) := RoundTrip.noWord rfl

theorem RoundTrip.gatherFetchComplete (core : Nat) (stream : Nat) (pos : Nat) : RoundTrip.Statement (.gatherFetchComplete core stream pos) := RoundTrip.noWord rfl

theorem RoundTrip.oclaim (f : ClaimF) : RoundTrip.Statement (.oclaim f) :=
  RoundTrip.ofRaw rfl (ClaimF.opcode _ f) (fun l3 _ => by cases l3 <;> rfl) (fun _ _ => congrArg (Option.map Instr.oclaim) (ClaimF.ofWord_toWord _ f))

theorem RoundTrip.orel (f : ClaimF) : RoundTrip.Statement (.orel f) :=
  RoundTrip.ofRaw rfl (ClaimF.opcode _ f) (fun l3 _ => by cases l3 <;> rfl) (fun _ _ => congrArg (Option.map Instr.orel) (ClaimF.ofWord_toWord _ f))

theorem RoundTrip.mmul (f : MmulF) : RoundTrip.Statement (.mmul f) :=
  RoundTrip.ofRaw rfl (MmulF.opcode _ f) (fun l3 _ => by cases l3 <;> rfl) (fun _ _ => congrArg (Option.map Instr.mmul) (MmulF.ofWord_toWord _ f))

theorem RoundTrip.mmulz (f : MmulF) : RoundTrip.Statement (.mmulz f) :=
  RoundTrip.ofRaw rfl (MmulF.opcode _ f) (fun l3 _ => by cases l3 <;> rfl) (fun _ _ => congrArg (Option.map Instr.mmulz) (MmulF.ofWord_toWord _ f))

theorem RoundTrip.mdrainV (f : MdrainF) : RoundTrip.Statement (.mdrainV f) :=
  RoundTrip.ofRaw rfl (MdrainF.opcode _ f) (fun l3 _ => by cases l3 <;> rfl) (fun _ _ => by
    exact (decodeD4 _ none (MdrainF.kind 0 f)).trans (congrArg (Option.map Instr.mdrainV) (MdrainF.ofWord_toWord _ f)))

theorem RoundTrip.mdrainS (f : MdrainF) : RoundTrip.Statement (.mdrainS f) :=
  RoundTrip.ofRaw rfl (MdrainF.opcode _ f) (fun l3 _ => by cases l3 <;> rfl) (fun _ _ => by
    exact (decodeD4 _ none (MdrainF.kind 1 f)).trans (congrArg (Option.map Instr.mdrainS) (MdrainF.ofWord_toWord _ f)))

theorem RoundTrip.mdrainG (f : MdrainF) : RoundTrip.Statement (.mdrainG f) :=
  RoundTrip.ofRaw rfl (MdrainF.opcode _ f) (fun l3 _ => by cases l3 <;> rfl) (fun _ _ => by
    exact (decodeD4 _ none (MdrainF.kind 2 f)).trans (congrArg (Option.map Instr.mdrainG) (MdrainF.ofWord_toWord _ f)))

theorem RoundTrip.mbyp (f : MbypF) : RoundTrip.Statement (.mbyp f) :=
  RoundTrip.ofRaw rfl (MbypF.opcode _ f) (fun l3 _ => by cases l3 <;> rfl) (fun _ _ => congrArg (Option.map Instr.mbyp) (MbypF.ofWord_toWord _ f))

theorem RoundTrip.mzero (f : MzeroF) : RoundTrip.Statement (.mzero f) :=
  RoundTrip.ofRaw rfl (MzeroF.opcode _ f) (fun l3 _ => by cases l3 <;> rfl) (fun _ _ => congrArg (Option.map Instr.mzero) (MzeroF.ofWord_toWord _ f))

theorem RoundTrip.msclRow (f : MsclF) : RoundTrip.Statement (.msclRow f) :=
  RoundTrip.ofRaw rfl (MsclF.opcode _ f) (fun l3 _ => by cases l3 <;> rfl) (fun _ _ => by
    exact (decodeD7 _ none (MsclF.col false f)).trans (congrArg (Option.map Instr.msclRow) (MsclF.ofWord_toWord _ f)))

theorem RoundTrip.msclCol (f : MsclF) : RoundTrip.Statement (.msclCol f) :=
  RoundTrip.ofRaw rfl (MsclF.opcode _ f) (fun l3 _ => by cases l3 <;> rfl) (fun _ _ => by
    exact (decodeD7 _ none (MsclF.col true f)).trans (congrArg (Option.map Instr.msclCol) (MsclF.ofWord_toWord _ f)))

theorem RoundTrip.mprog (f : MprogF) : RoundTrip.Statement (.mprog f) :=
  RoundTrip.ofRaw rfl (MprogF.opcode _ f) (fun l3 _ => by cases l3 <;> rfl) (fun _ _ => congrArg (Option.map Instr.mprog) (MprogF.ofWord_toWord _ f))

theorem RoundTrip.gangLatchRelease (core : Nat) (key : Nat) : RoundTrip.Statement (.gangLatchRelease core key) := RoundTrip.noWord rfl

theorem RoundTrip.gangLatchTimeout (core : Nat) (key : Nat) : RoundTrip.Statement (.gangLatchTimeout core key) := RoundTrip.noWord rfl

theorem RoundTrip.cordLatchRelease (launch : Nat) (cord : Nat) : RoundTrip.Statement (.cordLatchRelease launch cord) := RoundTrip.noWord rfl

theorem RoundTrip.matrixOpComplete (core : Nat) (id : Nat) : RoundTrip.Statement (.matrixOpComplete core id) := RoundTrip.noWord rfl

theorem RoundTrip.drainCommandComplete (core : Nat) (id : Nat) : RoundTrip.Statement (.drainCommandComplete core id) := RoundTrip.noWord rfl

theorem RoundTrip.emulationComplete (core : Nat) (id : Nat) : RoundTrip.Statement (.emulationComplete core id) := RoundTrip.noWord rfl

theorem RoundTrip.trap (f : IF) : RoundTrip.Statement (.trap f) :=
  RoundTrip.ofRaw rfl (IF.opcode _ f) (fun l3 _ => by cases l3 <;> rfl) (fun _ _ => congrArg (some ∘ Instr.trap) (IF.ofWord_toWord _ f))

theorem RoundTrip.tret (f : RF) : RoundTrip.Statement (.tret f) :=
  RoundTrip.ofRaw rfl (RF.opcode _ f) (fun l3 _ => by cases l3 <;> rfl) (fun _ _ => congrArg (some ∘ Instr.tret) (RF.ofWord_toWord _ f))

theorem RoundTrip.brk (f : IF) : RoundTrip.Statement (.brk f) :=
  RoundTrip.ofRaw rfl (IF.opcode _ f) (fun l3 _ => by cases l3 <;> rfl) (fun _ _ => congrArg (some ∘ Instr.brk) (IF.ofWord_toWord _ f))

theorem RoundTrip.fpcnt (f : RF) : RoundTrip.Statement (.fpcnt f) :=
  RoundTrip.ofRaw rfl (RF.opcode _ f) (fun l3 _ => by cases l3 <;> rfl) (fun _ hw => by
    simp only [Instr.wf, Instr.static, Bool.and_eq_true, beq_iff_eq] at hw
    have h5 : (RF.toWord 0xE3 f).getLsbD 53 = false := (RF.modBit 0xE3 f 5).trans (RF.mdBit f 0x1F 5 hw.2.1.2 (by decide))
    have h6 : (RF.toWord 0xE3 f).getLsbD 54 = false := (RF.modBit 0xE3 f 6).trans (RF.mdBit f 0x1F 6 hw.2.1.2 (by decide))
    exact (decodeE3 _ none h5 h6).trans (congrArg (some ∘ Instr.fpcnt) (RF.ofWord_toWord _ f)))

theorem RoundTrip.fpcntClr (f : RF) : RoundTrip.Statement (.fpcntClr f) :=
  RoundTrip.ofRaw rfl (RF.opcode _ f) (fun l3 _ => by cases l3 <;> rfl) (fun _ hw => by
    simp only [Instr.wf, Instr.static, Bool.and_eq_true, beq_iff_eq] at hw
    have h5 : (RF.toWord 0xE3 f).getLsbD 53 = true := (RF.modBit 0xE3 f 5).trans (hw.2.2)
    have h6 : (RF.toWord 0xE3 f).getLsbD 54 = false := (RF.modBit 0xE3 f 6).trans (RF.mdBit f 0x3F 6 hw.2.1.1.2 (by decide))
    exact (decodeE3 _ none h5 h6).trans (congrArg (some ∘ Instr.fpcntClr) (RF.ofWord_toWord _ f)))

theorem RoundTrip.fpcntClrall (f : RF) : RoundTrip.Statement (.fpcntClrall f) :=
  RoundTrip.ofRaw rfl (RF.opcode _ f) (fun l3 _ => by cases l3 <;> rfl) (fun _ hw => by
    simp only [Instr.wf, Instr.static, Bool.and_eq_true, beq_iff_eq] at hw
    have h5 : (RF.toWord 0xE3 f).getLsbD 53 = false := (RF.modBit 0xE3 f 5).trans (by rw [hw.2.2]; rfl)
    have h6 : (RF.toWord 0xE3 f).getLsbD 54 = true := (RF.modBit 0xE3 f 6).trans (by rw [hw.2.2]; rfl)
    exact (decodeE3 _ none h5 h6).trans (congrArg (some ∘ Instr.fpcntClrall) (RF.ofWord_toWord _ f)))

theorem RoundTrip.yield (f : RF) : RoundTrip.Statement (.yield f) :=
  RoundTrip.ofRaw rfl (RF.opcode _ f) (fun l3 _ => by cases l3 <;> rfl) (fun _ _ => congrArg (some ∘ Instr.yield) (RF.ofWord_toWord _ f))

theorem RoundTrip.syncEng (f : RF) : RoundTrip.Statement (.syncEng f) :=
  RoundTrip.ofRaw rfl (RF.opcode _ f) (fun l3 _ => by cases l3 <;> rfl) (fun _ hw => by
    simp only [Instr.wf, Instr.static, Bool.and_eq_true, beq_iff_eq] at hw
    have hm : (RF.toWord 0xE5 f).toNat / 2 ^ 48 % 4 = 0 := by rw [RF.modulus, hw.2.2]; rfl
    exact (decodeE5 _ none hm).trans (congrArg (some ∘ Instr.syncEng) (RF.ofWord_toWord _ f)))

theorem RoundTrip.syncErr (f : RF) : RoundTrip.Statement (.syncErr f) :=
  RoundTrip.ofRaw rfl (RF.opcode _ f) (fun l3 _ => by cases l3 <;> rfl) (fun _ hw => by
    simp only [Instr.wf, Instr.static, Bool.and_eq_true, beq_iff_eq] at hw
    have hm : (RF.toWord 0xE5 f).toNat / 2 ^ 48 % 4 = 1 := by rw [RF.modulus, hw.2.2]; rfl
    exact (decodeE5 _ none hm).trans (congrArg (some ∘ Instr.syncErr) (RF.ofWord_toWord _ f)))

theorem RoundTrip.syncCode (f : RF) : RoundTrip.Statement (.syncCode f) :=
  RoundTrip.ofRaw rfl (RF.opcode _ f) (fun l3 _ => by cases l3 <;> rfl) (fun _ hw => by
    simp only [Instr.wf, Instr.static, Bool.and_eq_true, beq_iff_eq] at hw
    have hm : (RF.toWord 0xE5 f).toNat / 2 ^ 48 % 4 = 2 := by rw [RF.modulus, hw.2.2]; rfl
    exact (decodeE5 _ none hm).trans (congrArg (some ∘ Instr.syncCode) (RF.ofWord_toWord _ f)))

theorem RoundTrip.rep (f : PF) : RoundTrip.Statement (.rep f) :=
  RoundTrip.ofRaw rfl (PF.opcode f) (fun l3 _ => by cases l3 <;> rfl) (fun _ _ => congrArg (Option.map Instr.rep) (PF.ofWord_toWord f))

theorem RoundTrip.rd (a : SliceAccess) : RoundTrip.Statement (.rd a) := RoundTrip.noWord rfl

theorem RoundTrip.rdx (a : SliceAccess) : RoundTrip.Statement (.rdx a) := RoundTrip.noWord rfl

theorem RoundTrip.upg (a : SliceAccess) : RoundTrip.Statement (.upg a) := RoundTrip.noWord rfl

theorem RoundTrip.wb (a : SliceAccess) : RoundTrip.Statement (.wb a) := RoundTrip.noWord rfl

theorem RoundTrip.evc (a : SliceAccess) : RoundTrip.Statement (.evc a) := RoundTrip.noWord rfl

theorem RoundTrip.rds (a : SliceAccess) : RoundTrip.Statement (.rds a) := RoundTrip.noWord rfl

theorem RoundTrip.wrs (a : SliceAccess) : RoundTrip.Statement (.wrs a) := RoundTrip.noWord rfl

theorem RoundTrip.atx (a : SliceAccess) : RoundTrip.Statement (.atx a) := RoundTrip.noWord rfl

theorem RoundTrip.atr (a : SliceAccess) : RoundTrip.Statement (.atr a) := RoundTrip.noWord rfl

theorem RoundTrip.xrd (a : SliceAccess) : RoundTrip.Statement (.xrd a) := RoundTrip.noWord rfl

theorem RoundTrip.xwr (a : SliceAccess) : RoundTrip.Statement (.xwr a) := RoundTrip.noWord rfl

theorem RoundTrip.snp (a : SliceAccess) : RoundTrip.Statement (.snp a) := RoundTrip.noWord rfl

theorem RoundTrip.probe (a : ProbeMsg) : RoundTrip.Statement (.probe a) := RoundTrip.noWord rfl

theorem RoundTrip.probeAck (a : ProbeMsg) : RoundTrip.Statement (.probeAck a) := RoundTrip.noWord rfl

theorem RoundTrip.walkStart (tenant : Nat) : RoundTrip.Statement (.walkStart tenant) := RoundTrip.noWord rfl

theorem RoundTrip.walkComplete (walk : Nat) : RoundTrip.Statement (.walkComplete walk) := RoundTrip.noWord rfl

theorem RoundTrip.walkAhead (core : Nat) (id : Nat) (page : Nat) : RoundTrip.Statement (.walkAhead core id page) := RoundTrip.noWord rfl

theorem RoundTrip.pageRequestWrite (func : Nat) : RoundTrip.Statement (.pageRequestWrite func) := RoundTrip.noWord rfl

theorem RoundTrip.prqreply (func : Nat) (value : BitVec 64) : RoundTrip.Statement (.prqreply func value) := RoundTrip.noWord rfl

theorem RoundTrip.launchWindowArm (func : Nat) (queue : Nat) (pos : Nat) (record : BitVec 1024) : RoundTrip.Statement (.launchWindowArm func queue pos record) := RoundTrip.noWord rfl

theorem RoundTrip.qtailWrite (func : Nat) (queue : Nat) (tail : BitVec 32) : RoundTrip.Statement (.qtailWrite func queue tail) := RoundTrip.noWord rfl

theorem RoundTrip.packetLaunch (func : Nat) (queue : Nat) : RoundTrip.Statement (.packetLaunch func queue) := RoundTrip.noWord rfl

theorem RoundTrip.packetNop (func : Nat) (queue : Nat) : RoundTrip.Statement (.packetNop func queue) := RoundTrip.noWord rfl

theorem RoundTrip.packetOtherOp (func : Nat) (queue : Nat) : RoundTrip.Statement (.packetOtherOp func queue) := RoundTrip.noWord rfl

theorem RoundTrip.imageCheck (launch : Nat) : RoundTrip.Statement (.imageCheck launch) := RoundTrip.noWord rfl

theorem RoundTrip.childRecordReceive (launch : Nat) : RoundTrip.Statement (.childRecordReceive launch) := RoundTrip.noWord rfl

theorem RoundTrip.preloadStart (launch : Nat) : RoundTrip.Statement (.preloadStart launch) := RoundTrip.noWord rfl

theorem RoundTrip.preloadComplete (launch : Nat) : RoundTrip.Statement (.preloadComplete launch) := RoundTrip.noWord rfl

theorem RoundTrip.cordPlace (part : Nat) : RoundTrip.Statement (.cordPlace part) := RoundTrip.noWord rfl

theorem RoundTrip.candidateBlocking (launch : Nat) : RoundTrip.Statement (.candidateBlocking launch) := RoundTrip.noWord rfl

theorem RoundTrip.groupRetire (group : Nat) : RoundTrip.Statement (.groupRetire group) := RoundTrip.noWord rfl

theorem RoundTrip.preemption (launch : Nat) (cord : Nat) (blocks : Nat) : RoundTrip.Statement (.preemption launch cord blocks) := RoundTrip.noWord rfl

theorem RoundTrip.lazySave (crew : Nat) : RoundTrip.Statement (.lazySave crew) := RoundTrip.noWord rfl

theorem RoundTrip.crewResume (launch : Nat) (cord : Nat) : RoundTrip.Statement (.crewResume launch cord) := RoundTrip.noWord rfl

theorem RoundTrip.watchdogFire (launch : Nat) : RoundTrip.Statement (.watchdogFire launch) := RoundTrip.noWord rfl

theorem RoundTrip.uncorrectableError (e : ErrorSite) : RoundTrip.Statement (.uncorrectableError e) := RoundTrip.noWord rfl

theorem RoundTrip.correctedError (e : ErrorSite) : RoundTrip.Statement (.correctedError e) := RoundTrip.noWord rfl

theorem RoundTrip.patrolScrub (e : ErrorSite) (found : ScrubFinding) : RoundTrip.Statement (.patrolScrub e found) := RoundTrip.noWord rfl

theorem RoundTrip.refreshStart (bank : Nat) : RoundTrip.Statement (.refreshStart bank) := RoundTrip.noWord rfl

theorem RoundTrip.refreshEnd (bank : Nat) : RoundTrip.Statement (.refreshEnd bank) := RoundTrip.noWord rfl

theorem RoundTrip.peerAbort (req : Nat) : RoundTrip.Statement (.peerAbort req) := RoundTrip.noWord rfl

theorem RoundTrip.peerAccessTimeout (req : Nat) : RoundTrip.Statement (.peerAccessTimeout req) := RoundTrip.noWord rfl

theorem RoundTrip.hostAbort (req : Nat) : RoundTrip.Statement (.hostAbort req) := RoundTrip.noWord rfl

theorem RoundTrip.hostCompletionTimeout (req : Nat) : RoundTrip.Statement (.hostCompletionTimeout req) := RoundTrip.noWord rfl

theorem RoundTrip.peerLinkDown (link : Nat) : RoundTrip.Statement (.peerLinkDown link) := RoundTrip.noWord rfl

theorem RoundTrip.remoteInvalidation (link : Nat) (lo : Nat) (hi : Nat) : RoundTrip.Statement (.remoteInvalidation link lo hi) := RoundTrip.noWord rfl

theorem RoundTrip.remoteInvalTimeout (link : Nat) : RoundTrip.Statement (.remoteInvalTimeout link) := RoundTrip.noWord rfl

theorem RoundTrip.hdmRead (addr : Nat) (len : Nat) : RoundTrip.Statement (.hdmRead addr len) := RoundTrip.noWord rfl

theorem RoundTrip.hdmWrite (addr : Nat) (bytes : List Byte) : RoundTrip.Statement (.hdmWrite addr bytes) := RoundTrip.noWord rfl

theorem RoundTrip.compareAct (pair : Nat) (fault : TrailFault) : RoundTrip.Statement (.compareAct pair fault) := RoundTrip.noWord rfl

theorem RoundTrip.trailingCopyTimeout (pair : Nat) : RoundTrip.Statement (.trailingCopyTimeout pair) := RoundTrip.noWord rfl

theorem RoundTrip.unitTestStart (unit : Nat) : RoundTrip.Statement (.unitTestStart unit) := RoundTrip.noWord rfl

theorem RoundTrip.unitTestDone (unit : Nat) (passed : Bool) : RoundTrip.Statement (.unitTestDone unit passed) := RoundTrip.noWord rfl

theorem RoundTrip.registerWrite (func : Nat) (off : Nat) (size : Nat) (value : BitVec 64) : RoundTrip.Statement (.registerWrite func off size value) := RoundTrip.noWord rfl

theorem RoundTrip.flr (func : Nat) : RoundTrip.Statement (.flr func) := RoundTrip.noWord rfl

theorem RoundTrip.lineMissComplete (slice : Nat) : RoundTrip.Statement (.lineMissComplete slice) := RoundTrip.noWord rfl

theorem RoundTrip.peerAnswer (req : Nat) (reply : PeerReply) : RoundTrip.Statement (.peerAnswer req reply) := RoundTrip.noWord rfl

theorem RoundTrip.hostCompletion (req : Nat) : RoundTrip.Statement (.hostCompletion req) := RoundTrip.noWord rfl

theorem RoundTrip.migrationClaim (m : ClaimMsg) : RoundTrip.Statement (.migrationClaim m) := RoundTrip.noWord rfl

theorem RoundTrip.migrationLine (link : Nat) (addr : Nat) (written : Bool) (data : BitVec 1024) : RoundTrip.Statement (.migrationLine link addr written data) := RoundTrip.noWord rfl

theorem RoundTrip.flitReplay (link : Nat) : RoundTrip.Statement (.flitReplay link) := RoundTrip.noWord rfl

theorem RoundTrip.migrateAckTimeout : RoundTrip.Statement .migrateAckTimeout := RoundTrip.noWord rfl

theorem RoundTrip.scoreDecay : RoundTrip.Statement .scoreDecay := RoundTrip.noWord rfl

theorem RoundTrip.pair : RoundTrip.Statement .pair := RoundTrip.noWord rfl

theorem RoundTrip.unpair : RoundTrip.Statement .unpair := RoundTrip.noWord rfl

theorem RoundTrip.release : RoundTrip.Statement .release := RoundTrip.noWord rfl

theorem RoundTrip.limits : RoundTrip.Statement .limits := RoundTrip.noWord rfl

theorem RoundTrip.keyload : RoundTrip.Statement .keyload := RoundTrip.noWord rfl

theorem RoundTrip.preset : RoundTrip.Statement .preset := RoundTrip.noWord rfl

theorem RoundTrip.attest : RoundTrip.Statement .attest := RoundTrip.noWord rfl

theorem RoundTrip.inject : RoundTrip.Statement .inject := RoundTrip.noWord rfl

theorem RoundTrip.migrate : RoundTrip.Statement .migrate := RoundTrip.noWord rfl

theorem RoundTrip.invalPage : RoundTrip.Statement .invalPage := RoundTrip.noWord rfl

theorem RoundTrip.invalRange : RoundTrip.Statement .invalRange := RoundTrip.noWord rfl

theorem RoundTrip.invalTenant : RoundTrip.Statement .invalTenant := RoundTrip.noWord rfl

theorem RoundTrip.invalTenantAll : RoundTrip.Statement .invalTenantAll := RoundTrip.noWord rfl

theorem RoundTrip.invalGuestRange : RoundTrip.Statement .invalGuestRange := RoundTrip.noWord rfl

theorem RoundTrip.invalPartition : RoundTrip.Statement .invalPartition := RoundTrip.noWord rfl

theorem RoundTrip.invalKeyShadow : RoundTrip.Statement .invalKeyShadow := RoundTrip.noWord rfl

theorem RoundTrip.tenantSet : RoundTrip.Statement .tenantSet := RoundTrip.noWord rfl

theorem RoundTrip.tenantDelete : RoundTrip.Statement .tenantDelete := RoundTrip.noWord rfl

theorem RoundTrip.trapset : RoundTrip.Statement .trapset := RoundTrip.noWord rfl

theorem RoundTrip.ctxpool : RoundTrip.Statement .ctxpool := RoundTrip.noWord rfl

theorem RoundTrip.biasToHost : RoundTrip.Statement .biasToHost := RoundTrip.noWord rfl

theorem RoundTrip.biasToDevice : RoundTrip.Statement .biasToDevice := RoundTrip.noWord rfl

theorem RoundTrip.preempt : RoundTrip.Statement .preempt := RoundTrip.noWord rfl

theorem RoundTrip.linkup : RoundTrip.Statement .linkup := RoundTrip.noWord rfl

theorem RoundTrip.reconf : RoundTrip.Statement .reconf := RoundTrip.noWord rfl

theorem RoundTrip.ccUnknownOp : RoundTrip.Statement .ccUnknownOp := RoundTrip.noWord rfl

theorem RoundTrip.deviceReset : RoundTrip.Statement .deviceReset := RoundTrip.noWord rfl

theorem RoundTrip.powerGood : RoundTrip.Statement .powerGood := RoundTrip.noWord rfl

theorem RoundTrip.firmwareReady : RoundTrip.Statement .firmwareReady := RoundTrip.noWord rfl

theorem RoundTrip.perst : RoundTrip.Statement .perst := RoundTrip.noWord rfl

theorem RoundTrip.thermalHold : RoundTrip.Statement .thermalHold := RoundTrip.noWord rfl

theorem RoundTrip.thermalTrip : RoundTrip.Statement .thermalTrip := RoundTrip.noWord rfl

theorem RoundTrip.clockMonitorFail : RoundTrip.Statement .clockMonitorFail := RoundTrip.noWord rfl

theorem RoundTrip.thermalHoldEnd : RoundTrip.Statement .thermalHoldEnd := RoundTrip.noWord rfl

end Sys2Proof.Laws
end

