-- ==== Sys2Proof/Tests/Slice0.lean ====
section
/-! SUPPORT. The package's own tests. `witness_<Name>` shows states and operands that meet the hypotheses of Obligations.<Name>, clause by
clause where its clauses differ (witness_ScalarResults serves IntegerDivisionResults too; witness_VectorIntegerResults its vector half;
witness_SpecialRegisters the reads and the writes; witness_GuardedOff GuardedOffOnlyRetires; witness_FloatResults the four statements about
floating point; witness_MatrixResults MatrixProducts and MatrixMemoryResults; witness_Encodings the two about encodings); `smoke_<what>` are
ill-formed terms that WellFormed refuses; `test_decode_<family>` are words written out from the field tables; `test_<what>` are examples of the
spec and values worked out by hand. -/

namespace Sys2Proof.Tests

set_option Elab.async false
open Sys2Proof Sys2Proof.Machine

/-! A small machine: partition 0 with one tenant, one launch, one crew on core 0 and one group of 32 lanes, whose one split with lanes 0
to 3 issues. -/

def demoLaunch : Launch := loadLaunch 0 0
def demoSplit : Split :=
  { loadSplit 0 0 with mask := 0xF#64, sregs := [(1, 0x10000), (3, 7), (4, 0xFFFFFFFFFFFFFFF9#64), (5, 0x80000000#64), (6, 0xFFFFFFFF#64), (8, 0x1000), (10, 0x10000000), (11, 0x40000), (12, 0x40042), (13, 0x10000000000000)] }
def demoCrew : Crew :=
  { launch := 1, cord := 0, crewid := 0, core := 0, scratchBase := 0, scratchSize := 65536, rings := [4], ringPhase := [], bars := []
    cbarLanes := [], saved := false, toSave := [], lazySlot := none, preempt := false }
/-- v4 and v5 hold the operands of Table 10.2, v2 small indices. -/
def demoGroup : Group :=
  { launch := 1, cord := 0, crew := 1, grpid := 0, width := 32, regs := 256, role := .general, splits := [(0, demoSplit)]
    vregs := [(128, 0), (129, 0), (130, 1), (131, 0), (256, 7), (257, 0xFFFFFFF9#32), (258, 5), (259, 0x80000000#32)
             , (320, 2), (321, 2), (322, 0), (323, 0xFFFFFFFF#32)]
    vseed := [], preds := [(1, 0x5#64)], exited := 0, off := 0, gang := 0, skew := 0, sticky := 0, region := 0, region2 := 0 }
def demoTenant : Tenant := { loadTenant with handler := 0x20000#64 }
def ref10 : SplitRef := { group := 1, split := 0 }

/-- The machine with these parts, its split issuing. -/
def demoOf (sp : Split) (g : Group) (cr : Crew) (l : Launch) : State :=
  { started State.reset with
    tenants := [(1, demoTenant)], launches := [(1, l)], crews := [(1, cr)], groups := [(1, { g with splits := [(0, sp)] })], cur := some ref10 }
def ctxWith (sp : Split) (g : Group) (cr : Crew) (l : Launch) : Ctx :=
  { r := ref10, g := { g with splits := [(0, sp)] }, sp := sp, crew := cr, launch := l }
def demo : State := demoOf demoSplit demoGroup demoCrew demoLaunch
def demoCtx : Ctx := ctxWith demoSplit demoGroup demoCrew demoLaunch
/-- The same at trap level. -/
def trapSplit : Split := { demoSplit with trap := some { pc := 0x11008, mask := 0xF#64, fmt := 0, depth := 0, clause := none, billet := none } }
def demoTrap : State := demoOf trapSplit demoGroup demoCrew demoLaunch
def demoTrapCtx : Ctx := ctxWith trapSplit demoGroup demoCrew demoLaunch

def alwaysI (ty dst imm : Nat) : IF := { g := always, ty := BitVec.ofNat 3 ty, dst := BitVec.ofNat 8 dst, sa := 0, imm := BitVec.ofNat 32 imm }

/-! Witnesses: states and operands that meet the hypotheses of the statements. -/

theorem witness_ScalarResults : demo.ctx? = some demoCtx ∧ demoCtx.any always = true ∧ scalarTy (rf 0 9 3 4 0 0).ty = true
    ∧ scalarTy (alwaysI 5 9 0xFFFFFFFF).ty = true ∧ lowLane demoCtx.sp.mask = some 0
    ∧ (1 ≤ (rf 5 9 4 60 4 1).sc.toNat ∧ (rf 5 9 4 60 4 1).sb.toNat + (rf 5 9 4 60 4 1).sc.toNat ≤ tyW (rf 5 9 4 60 4 1).ty)
    ∧ (rf 0 1 3 4 5 0).sc.toNat ≤ 5 ∧ (rf 0 9 1 0 0 3).m 0 2 = 3 ∧ (rf 0 9 1 0 0 0).m 0 2 = 0 := by decide +kernel

theorem witness_SpecialRegisters : demo.ctx? = some demoCtx ∧ demoCtx.any always = true ∧ (rf 0 9 0x17 0 0 0).sa.toNat = 0x17
    ∧ (rf 0 0x11 3 0 0 0).dst.toNat = 0x11 ∧ demoTrap.ctx? = some demoTrapCtx ∧ demoTrapCtx.sp.trap.isSome = true
    ∧ (rf 0 0x17 3 0 0 0).dst.toNat = 0x17 ∧ demoCtx.sp.trap = none ∧ (rf 0 0x13 3 0 0 0).dst.toNat = 0x13 := by decide +kernel

/-- Predicate 2 holds nowhere, and a predicate that holds nowhere at trap level. -/
theorem witness_GuardedOff : demo.ctx? = some demoCtx ∧ demoCtx.any (guarded 2 false) = false ∧ demoTrap.ctx? = some demoTrapCtx
    ∧ demoTrapCtx.any (guarded 2 false) = false ∧ demoTrapCtx.sp.trap.isSome = true := by decide +kernel

theorem witness_VectorIntegerResults : demo.ctx? = some demoCtx ∧ demoCtx.any always = true ∧ (rf 6 9 4 5 0 0).m 0 1 = 0
    ∧ (rf 7 9 4 5 0 1).m 0 1 = 1 ∧ scalarTy (rf 0 9 4 5 0 5).ty = true ∧ (rf 0 9 4 5 0 5).m 0 4 ≤ 5
    ∧ (1 ≤ (rf 0 9 4 31 1 0).sc.toNat ∧ (rf 0 9 4 31 1 0).sb.toNat + (rf 0 9 4 31 1 0).sc.toNat ≤ tyW (rf 0 9 4 31 1 0).ty) := by decide +kernel

/-! A 64 KiB page of the tenant at 0x40000, with frame 0x100000, and lines of it in the L1 of core 0. -/

def demoPage (cls : Cls) (pa : Nat) : TlbEntry :=
  { tenant := 1, va := 0x40000, size := 0x10000, pa := pa, gpa := pa, gsize := 0x10000, r := true, w := true, x := true, cls := cls, unb := false, late := false
    view := false, key := 0, global := false, dirty := true, unused := false }
def demoLine (n way data : Nat) (p : Perm) : Nat × L1Line :=
  (lineKey 0 (0x2000 + n) false,
    { core := 0, line := 0x2000 + n, view := false, data := BitVec.ofNat 1024 data, dirty := 0, perm := p, key := 0, way := way
      valid := BitVec.allOnes 128 })
def withPage (s : State) (lines : List (Nat × L1Line)) : State :=
  { s with mmu := { s.mmu with l1tlb := [(0, [demoPage .dir 0x100000])] }, caches := { s.caches with l1 := lines } }
def demoX (off : Nat) : Xlated := { pa := 0x100000 + off, cls := .dir, key := 0, view := false, unb := false, late := false }

/-! Memory instructions. -/

theorem isMask_of {L : List (Nat × W64)} {p : W64 → Prop} [DecidablePred p] {m : LaneMask}
    (h : ∀ l, l < 64 → m.getLsbD l = L.any fun e => e.1 == l && decide (p e.2)) : IsMask m fun l => ∃ a, (l, a) ∈ L ∧ p a := by
  intro l hl
  rw [h l hl, List.any_eq_true]
  constructor
  · rintro ⟨⟨k, a⟩, hm, he⟩
    simp only [Bool.and_eq_true, beq_iff_eq, decide_eq_true_eq] at he
    exact ⟨a, he.1 ▸ hm, he.2⟩
  · rintro ⟨a, hm, hp⟩
    exact ⟨(l, a), hm, by simp [hp]⟩

def smallCrew : Crew := { demoCrew with scratchSize := 0x1000 }
def demoSmall : State := demoOf demoSplit demoGroup smallCrew demoLaunch
def demoSmallCtx : Ctx := ctxWith demoSplit demoGroup smallCrew demoLaunch

/-- An address one past a boundary in every active lane; a scratchpad access and a weight-store access that end one byte too far. -/
theorem witness_MemoryAddressTraps :
    (demo.ctx? = some demoCtx ∧ lowLane 0xF#64 = some 0 ∧ (0, 0x1001#64) ∈ demoCtx.addrs (mf 4 12 8 0 0 0 0 1) 4 1
        ∧ IsMask 0xF#64 fun l => ∃ a, (l, a) ∈ demoCtx.addrs (mf 4 12 8 0 0 0 0 1) 4 1 ∧ a.toNat % 4 ≠ 0)
      ∧ (demoSmall.ctx? = some demoSmallCtx ∧ (∀ p ∈ demoSmallCtx.addrs (mf 0 12 8 0 0 0 0 0) 1 0, p.2.toNat % 1 = 0)
        ∧ (0, 0x1000#64) ∈ demoSmallCtx.scratchAddrs (mf 0 12 8 0 0 0 0 0) 1 0 false
        ∧ IsMask 0xF#64 fun l => ∃ a, (l, a) ∈ demoSmallCtx.scratchAddrs (mf 0 12 8 0 0 0 0 0) 1 0 false ∧ demoSmallCtx.crew.scratchSize < a.toNat + 1)
      ∧ (∀ p ∈ demoCtx.addrs (mf 0 12 10 0 0 0 0 0) 1 0, p.2.toNat % 1 = 0) ∧ (0, 0x10000000#64) ∈ demoCtx.addrs (mf 0 12 10 0 0 0 0 0) 1 0
        ∧ IsMask 0xF#64 fun l => ∃ a, (l, a) ∈ demoCtx.addrs (mf 0 12 10 0 0 0 0 0) 1 0 ∧ demo.wsBytes demoCtx.part < a.toNat + 1 :=
  ⟨⟨by decide +kernel, by decide +kernel, by decide +kernel, isMask_of (by decide +kernel)⟩,
    ⟨by decide +kernel, by decide +kernel, by decide +kernel, isMask_of (by decide +kernel)⟩,
    by decide +kernel, by decide +kernel, isMask_of (by decide +kernel)⟩

theorem noSinv_demo : noSinv demo 0 := ⟨by decide +kernel, by unfold writesDone; decide +kernel⟩

theorem gateClear_demo (s : State) : gateClear s demoCtx := fun h => absurd h (by decide)

/-- Nothing of the states of these witnesses is attached to a page request; a line that is not unbacked is not lost. -/
theorem inL1_of {s : State} {c : Ctx} {acc : Access} {va : W64} {x : Xlated} {l : L1Line}
    (h : xlate s c.crew.core c.launch.tenant va acc c.sp.faults = .ok x
      ∧ (State.tlbOf s.mmu.l1tlb c.crew.core).any (fun e => e.serves c.launch.tenant va.toNat acc) = true
      ∧ s.mmu.requests = [] ∧ s.region c.part (x.pa / 128 * 128) ≠ .unbacked ∧ x.cls = .dir
      ∧ Tbl.find? s.caches.l1 (lineKey c.crew.core (x.pa / 128) x.view) = some l ∧ l.perm ≠ .sinv ∧ l.valid = BitVec.allOnes 128) :
    InL1 s c acc va x l := by
  obtain ⟨h1, h2, h3, h4, h5, h6, h7, h8⟩ := h
  refine ⟨h1, List.any_eq_true.mp h2, ?_, fun h => absurd h h4, h5, h6, h7, h8⟩
  intro q hq; rw [h3] at hq; cases hq

/-- The last word of the scratchpad; a bank at rest, and a bank in refresh. -/
theorem witness_ScratchpadAndWeightStore :
    (demoSmall.ctx? = some demoSmallCtx ∧ (mf 4 12 8 0 0 0 0 0xFFFC).ty ≠ 7 ∧ noSinv demoSmall demoSmallCtx.crew.core
        ∧ gateClear demoSmall demoSmallCtx
        ∧ demoSmallCtx.scratchAddrs (mf 4 12 8 0 0 0 0 0xFFFC) 4 (BitVec.signExtend 64 0xFFFC#16) false ≠ []
        ∧ (∀ p ∈ demoSmallCtx.addrs (mf 4 12 8 0 0 0 0 0xFFFC) 4 (BitVec.signExtend 64 0xFFFC#16), p.2.toNat % 4 = 0)
        ∧ ∀ p ∈ demoSmallCtx.scratchAddrs (mf 4 12 8 0 0 0 0 0xFFFC) 4 (BitVec.signExtend 64 0xFFFC#16) false, p.2.toNat + 4 ≤ demoSmallCtx.crew.scratchSize)
      ∧ (demoCtx.addrs (mf 4 12 8 0 0 0 0 0) 4 0 ≠ []
        ∧ (∀ p ∈ demoCtx.addrs (mf 4 12 8 0 0 0 0 0) 4 0, p.2.toNat % 4 = 0 ∧ p.2.toNat + 4 ≤ demo.wsBytes demoCtx.part)
        ∧ (∀ p ∈ demoCtx.addrs (mf 4 12 8 0 0 0 0 0) 4 0,
            Tbl.getD demo.dev.refresh (wsHome (demo.part demoCtx.part).ports p.2.toNat).1 false = false)
        ∧ ∃ p ∈ demoCtx.addrs (mf 4 12 8 0 0 0 0 0) 4 0,
            Tbl.getD (demo.setDev { demo.dev with refresh := (List.range 16).map fun b => (b, true) }).dev.refresh
              (wsHome (demo.part demoCtx.part).ports p.2.toNat).1 false = true) := by
  refine ⟨⟨by decide +kernel, by decide +kernel, ⟨by decide +kernel, by unfold writesDone; decide +kernel⟩, fun h => absurd h (by decide), by decide +kernel, by decide +kernel, by decide +kernel⟩, ?_⟩
  decide +kernel

/-- Lane 0 to 3 at one word of a line that the L1 holds exclusive. -/
def demoMem : State := withPage demo [demoLine 0 0 0x11223344 .exclusive]
theorem inL1_demo (acc : Access) (h : acc = .read ∨ acc = .write ∨ acc = .atomic) :
    InL1 demoMem demoCtx acc 0x40000 (demoX 0) (demoLine 0 0 0x11223344 .exclusive).2 := by
  rcases h with rfl | rfl | rfl <;> exact inL1_of (by decide +kernel)

theorem noSinv_demoMem : noSinv demoMem 0 := ⟨by decide +kernel, by unfold writesDone; decide +kernel⟩

theorem witness_CachedLoadsAndStores : demoMem.ctx? = some demoCtx ∧ (mf 4 12 11 0 0 0 0 0).ty ≠ 7 ∧ noSinv demoMem demoCtx.crew.core
    ∧ demoCtx.checked = false ∧ demoCtx.sp.aborted = none ∧ demoCtx.sp.latch = none
    ∧ (∀ e ∈ demoMem.outbound, e.2.who ≠ some (.split demoCtx.r demoCtx.crew.core)) ∧ demoCtx.addrs (mf 4 12 11 0 0 0 0 0) 4 0 ≠ []
    ∧ (∀ p ∈ demoCtx.addrs (mf 4 12 11 0 0 0 0 0) 4 0, p.2.toNat % 4 = 0 ∧ (demoX 0).pa % 4 = 0 ∧ p.2 = 0x40000)
    ∧ (∀ acc, acc = .read ∨ acc = .write ∨ acc = .atomic → InL1 demoMem demoCtx acc 0x40000 (demoX 0) (demoLine 0 0 0x11223344 .exclusive).2)
    ∧ (demoX 0).unb = false :=
  ⟨by decide +kernel, by decide +kernel, noSinv_demoMem, by decide +kernel, by decide +kernel, by decide +kernel, by decide +kernel, by decide +kernel,
    by decide +kernel, inL1_demo, by decide +kernel⟩

/-- Both branches of the load's value: the last word of a group's 256 KiB region, and the word after it. -/
theorem witness_CachedLoadsAndStores_region :
    let s := { demoMem with
      tenants := [(1, { demoTenant with pool := some (0x40000#64, 0x100000) })]
      groups := Tbl.mapVal (fun _ g => { g with region := 0x40000#64 }) demoMem.groups }
    s.inRegion 1 4 0x40000 = true ∧ s.inRegion 1 4 0x7FFFC = true ∧ s.inRegion 1 4 0x80000 = false ∧ s.inRegion 1 4 0x3FFFC = false
      ∧ s.inRegion 2 4 0x40000 = false ∧ demoMem.inRegion 1 4 0x40000 = false := by decide +kernel

/-- The same state and operands serve atom and cas; atoms in the scratchpad. -/
theorem witness_AtomicsActInLaneOrder : demoCtx.addrs (mf 4 12 8 0 0 0 0 1) 4 (off12 (mf 4 12 8 0 0 0 0 1)) ≠ []
    ∧ (∀ p ∈ demoCtx.addrs (mf 4 12 8 0 0 0 0 1) 4 (off12 (mf 4 12 8 0 0 0 0 1)), p.2.toNat % 4 = 0 ∧ p.2.toNat + 4 ≤ demoCtx.crew.scratchSize)
    ∧ demoCtx.addrs (mf 4 12 11 0 0 0 0 1) 4 (off12 (mf 4 12 11 0 0 0 0 1)) ≠ []
    ∧ (∀ p ∈ demoCtx.addrs (mf 4 12 11 0 0 0 0 1) 4 (off12 (mf 4 12 11 0 0 0 0 1)), p.2.toNat % 4 = 0 ∧ p.2 = 0x40000) := by decide +kernel

/-- A clamp at level 2 in whose gate a store of the split still waits. -/
def gatedLaunch : Launch := { demoLaunch with il := 2 }
def gatedState : State :=
  let s := demoOf demoSplit demoGroup demoCrew gatedLaunch
  s.setPair 0 { s.pair 0 with mode := 2, gate := [
    { split := ref10, grp := 0, launch := 1, tenant := 1, core := 0, pc := 0x11008, kind := 1, lead := 0x40000, cmd := none, held := false, stores := [
        { part := 0, line := 0x2000, view := false, cls := .dir, key := 0, late := false, va := 0x40000, lane := 0, data := 0xAB, mask := 1, disc := false }] }] }
def gatedCtx : Ctx := ctxWith demoSplit demoGroup demoCrew gatedLaunch

/-- A latched error that scope .sys reaches, and one that scope .crew does not. -/
theorem witness_FencesAndStoreErrors : demoMem.ctx? = some demoCtx ∧ demoCtx.any always = true
    ∧ (∀ e ∈ demoMem.caches.l1, e.2.core = demoCtx.crew.core → e.2.perm = .sinv → e.2.dirty = 0) ∧ writesDone demoMem demoCtx.crew.core
    ∧ gateClear demoMem demoCtx
    ∧ (let s := { gatedState with caches := demoMem.caches }
       s.ctx? = some gatedCtx ∧ gatedCtx.any always = true ∧ writesDone s 0 ∧ ¬gateClear s gatedCtx)
    ∧ (∀ k a, demoCtx.sp.latch = some (k, a) → False) ∧ (rf 0 0 0 0 0 0x10).m 2 3 = 4
    ∧ (let sp := { demoSplit with latch := some (.host, 0x40000#64) }
       let s := demoOf sp demoGroup demoCrew demoLaunch
       let c := ctxWith sp demoGroup demoCrew demoLaunch
       s.ctx? = some c ∧ c.any always = true ∧ c.sp.latch = some (.host, 0x40000#64)) := by
  refine ⟨by decide +kernel, by decide +kernel, by decide +kernel, noSinv_demoMem.2, gateClear_demo _,
    ⟨by decide +kernel, by decide +kernel, by unfold writesDone; decide +kernel, ?_⟩, ?_, by decide +kernel, by decide +kernel⟩
  · intro h; exact h (by decide +kernel) _ (List.mem_cons_self ..) rfl
  · intro k a h; cases h

/-! Cache maintenance, records, transaction barriers. Lane 0 alone is active, at the first byte of line 0x2000. -/

def demoL2 (st : Nat) : L2Line :=
  { part := 0, line := 0x2000, view := false, key := 0, data := 0x11223344, state := st, sharers := 0, owner := 31, slice := 0, set := 128
    way := 0, unb := none, age := 1, hostCopy := false }
def withL2 (s : State) (ls : List L2Line) : State :=
  { s with caches := { s.caches with l2 := ls.map fun l => (lineKey l.part l.line l.view, l) } }
def oneSplit : Split := { demoSplit with mask := 1 }
def demoOne (lines : List (Nat × L1Line)) (l2 : List L2Line) : State :=
  withL2 (withPage (demoOf oneSplit demoGroup demoCrew demoLaunch) lines) l2
def demoOneCtx : Ctx := ctxWith oneSplit demoGroup demoCrew demoLaunch
def mOne : MF := mf 0 12 11 0 0 0 0 0

theorem invLine_demo (st : Nat) (h : st = 1 ∨ st = 2) : InvLine (demoOne [] [demoL2 st]) 0 0x2000 false st (demoL2 st) := by
  rcases h with rfl | rfl <;> exact ⟨by decide +kernel, ⟨rfl, rfl, rfl⟩, by decide +kernel, rfl, rfl, rfl, by decide +kernel⟩

/-- A dirty and a clean line of the L2 that no L1 holds; a clean line of the L1; a page without translation. -/
theorem witness_CacheMaintenance :
    ((demoOne [] [demoL2 2]).ctx? = some demoOneCtx ∧ slicesQuiet (demoOne [] [demoL2 2]) ∧ noSinv (demoOne [] [demoL2 2]) demoOneCtx.crew.core
        ∧ demoOneCtx.sp.aborted = none ∧ demoOneCtx.sp.latch = none ∧ demoOneCtx.checked = false ∧ (demoOne [] [demoL2 2]).outbound = []
        ∧ (demoOne [] [demoL2 2]).mmu.requests = []
        ∧ demoOneCtx.addrs mOne 1 (mOne.off.signExtend 64) = [(0, 0x40000#64)])
      ∧ ((demoOne [] [demoL2 2]).region 0 (demoX 0).pa = .local ∧ (demoX 0).pa < (demoOne [] [demoL2 2]).metaAddr 0 0
        ∧ (∀ n v, lineKey 0 n v ≠ lineKey 0 0x2000 false → Tbl.find? (demoOne [] [demoL2 2]).caches.l2 (lineKey 0 n v) = none)
        ∧ (demoOne [] [demoL2 2]).caches.l1 = [])
      ∧ (demoOne [] [demoL2 2]).remote 0 (0x2000 * 128) = none
      ∧ InvLine (demoOne [] [demoL2 2]) 0 0x2000 false 2 (demoL2 2) ∧ InvLine (demoOne [] [demoL2 1]) 0 0x2000 false 1 (demoL2 1)
      ∧ (let l := demoLine 0 0 7 .shared
         InL1 (demoOne [l] [demoL2 1]) demoOneCtx .read 0x40000 (demoX 0) l.2 ∧ l.2.dirty = 0 ∧ l.2.perm ≠ .exclusive ∧ mOne.col.getLsbD 0 = false)
      ∧ demoOneCtx.addrs (mf 0 12 13 0 0 0 0 0) 1 0 = [(0, 0x10000000000000#64)]
      ∧ xlate (demoOne [] []) 0 1 0x10000000000000 .read [] = .fault (xperm 15 0 0 false .read) := by
  refine ⟨⟨by decide +kernel, ⟨rfl, rfl, rfl, rfl⟩, ⟨by decide +kernel, by unfold writesDone; decide +kernel⟩, rfl, rfl, rfl, rfl, rfl, by decide +kernel⟩,
    ⟨by decide +kernel, by decide +kernel, ?_, rfl⟩, by decide +kernel, invLine_demo 2 (.inr rfl), invLine_demo 1 (.inl rfl),
    ⟨inL1_of (by decide +kernel), rfl, by decide, by decide⟩, by decide +kernel, by decide +kernel⟩
  intro n v h
  show Tbl.find? [(lineKey 0 0x2000 false, demoL2 2)] _ = none
  simp [Tbl.find?, Ne.symm h]

/-- A record of one dimension of 16 elements of 2 bytes at 0x40000, with a box of 8 (Table 11.5). -/
def goodRecord : Nat := 0x40000 + 1 * 2 ^ 72 + 1 * 2 ^ 80 + 16 * 2 ^ 128 + 1 * 2 ^ 160 + 1 * 2 ^ 192 + 1 * 2 ^ 224 + 7 * 2 ^ 224 * 2 ^ 224
def demoRec (data : Nat) : State := demoOne [demoLine 0 0 data .shared] []

/-- A good record, a record of dimension 0, an address one past a boundary. -/
theorem witness_RecordsAndTransactionBarriers :
    (lowLane (demoOneCtx.active mOne.g) = some 0
        ∧ (laneAddr demoOneCtx (mf 0 5 11 0 0 0 0 1) 1 1 0).toNat % 64 ≠ 0 ∧ laneAddr demoOneCtx mOne 1 (mOne.off.signExtend 64) 0 = 0x40000
        ∧ demoOneCtx.checked = false ∧ demoOneCtx.sp.aborted = none)
      ∧ (∀ d ∈ [goodRecord, 0], (demoRec d).ctx? = some demoOneCtx ∧ noSinv (demoRec d) 0
        ∧ InL1 (demoRec d) demoOneCtx .read 0x40000 (demoX 0) (demoLine 0 0 d .shared).2)
      ∧ recordOk (BitVec.ofNat 512 (lineField (demoLine 0 0 goodRecord .shared).2.data 0 64)) = true
      ∧ recordOk (BitVec.ofNat 512 (lineField (demoLine 0 0 0 .shared).2.data 0 64)) = false
      ∧ ((demoOneCtx.sp.s 6).toNat % 2 ^ 32 ≠ 0 ∧ 65536 ≤ (demoOneCtx.sp.s 6).toNat ∧ (demoOneCtx.sp.s 9).toNat = 0)
      ∧ (let f := mf 0 3 8 0 0 0 1 0xFFF0
         f.col.getLsbD 0 = true ∧ (laneAddr demoOneCtx f 1 (f.off.signExtend 64) 0).toNat % 16 = 0
           ∧ (laneAddr demoOneCtx f 1 (f.off.signExtend 64) 0).toNat + 16 ≤ demoOneCtx.crew.scratchSize
           ∧ 0 < (demoOneCtx.sp.s f.dst.toNat).toNat ∧ (demoOneCtx.sp.s f.dst.toNat).toNat < 65536) := by
  refine ⟨by decide +kernel, ?_, by decide +kernel, by decide +kernel, by decide +kernel, by decide +kernel⟩
  intro d hd
  simp only [List.mem_cons, List.not_mem_nil, or_false] at hd
  rcases hd with rfl | rfl <;>
    exact ⟨by decide +kernel, ⟨by decide +kernel, by unfold writesDone; decide +kernel⟩, inL1_of (by decide +kernel)⟩

/-- Each fixed operation of the lanes; the highest operation of a scan. -/
theorem witness_CrossLaneResults : demo.ctx? = some demoCtx ∧ demoCtx.any always = true ∧ unshadowed demo demoCtx = true
    ∧ (rf 6 9 4 0 0 8).m 0 4 ≤ 8 ∧ (rf 6 9 4 0 0 0x28).m 5 1 = 1 ∧ (rf 6 9 4 0 0 8).m 5 1 = 0 := by decide +kernel

def bankLine (n : Nat) : Nat × L1Line := demoLine n 0 (if n = 0 then 0x54415051 + 0x3F800000 * 2 ^ 64 else 0) .shared
def demoBank : State := withPage demo ((List.range 33).map bankLine)
def loadedBy (r : SplitRef) : State := demo.setCore 0 { demo.core 0 with banks := [(0, { Bank.reset with loading := some r })] }
def loadingBank : State := loadedBy { group := 7, split := 0 }

/-- No bank; a bank that another split loads, and one that this split loads; an image at 0x40000 whose lines the L1 holds; an address one past a boundary. -/
theorem witness_ActivationResults : unshadowed demo demoCtx = true ∧ (demo.core 0).bankLoading demoCtx.sp.atb = false
    ∧ (loadingBank.ctx? = some demoCtx ∧ (loadingBank.core 0).bankLoading demoCtx.sp.atb = true ∧ unshadowed loadingBank demoCtx = true)
    ∧ ((vexprTokens 0x00FFFFFFF8342610#64).takeWhile fun k => k != 15).contains 13 = false
    ∧ ((vexprTokens 0x00FFFFFFFFFFFD00#64).takeWhile fun k => k != 15).contains 13 = true
    ∧ (demoCtx.sp.s 12).toNat % 64 ≠ 0
    ∧ ((demoCtx.sp.s 11).toNat % 64 = 0 ∧ bindCount demoBank 0 0 = (if demoCtx.sp.atb = 0 then 1 else 0)
      ∧ (∀ k, Tbl.find? (demoBank.core 0).banks 0 = some k → k.loading = none ∨ k.loading = some demoCtx.r)
      ∧ (∀ p ∈ linePieces 0x40000 4161 4160, InL1 demoBank demoCtx .read (w64 p.1) (demoX (p.1 - 0x40000)) (bankLine ((p.1 - 0x40000) / 128)).2)
      ∧ demoCtx.sp.wait = .none
      ∧ (parseBank ((linePieces 0x40000 4161 4160).flatMap fun p =>
          toBytes p.2.2 (lineField (bankLine ((p.1 - 0x40000) / 128)).2.data ((demoX (p.1 - 0x40000)).pa % 128) p.2.2)) 1).isSome = true)
    ∧ (∃ k, Tbl.find? (loadingBank.core 0).banks 0 = some k ∧ ¬(k.loading = none ∨ k.loading = some demoCtx.r))
    ∧ ∃ k, Tbl.find? ((loadedBy ref10).core 0).banks 0 = some k ∧ k.loading = some demoCtx.r := by
  refine ⟨by decide +kernel, by decide +kernel, by decide +kernel, by decide +kernel, by decide +kernel, by decide +kernel,
    ⟨by decide +kernel, by decide +kernel, ?_, ?_, rfl, by decide +kernel⟩, ⟨_, rfl, by decide⟩, _, rfl, rfl⟩
  · intro k h; have : Tbl.find? (demoBank.core 0).banks 0 = none := by decide +kernel
    rw [this] at h; cases h
  · have h : ∀ p ∈ linePieces 0x40000 4161 4160, xlate demoBank 0 1 (w64 p.1) .read [] = .ok (demoX (p.1 - 0x40000))
        ∧ (State.tlbOf demoBank.mmu.l1tlb 0).any (fun e => e.serves 1 (w64 p.1).toNat .read) = true
        ∧ demoBank.mmu.requests = [] ∧ demoBank.region 0 ((demoX (p.1 - 0x40000)).pa / 128 * 128) ≠ .unbacked
        ∧ (demoX (p.1 - 0x40000)).cls = .dir
        ∧ Tbl.find? demoBank.caches.l1 (lineKey 0 ((demoX (p.1 - 0x40000)).pa / 128) false) = some (bankLine ((p.1 - 0x40000) / 128)).2
        ∧ (bankLine ((p.1 - 0x40000) / 128)).2.perm ≠ .sinv ∧ (bankLine ((p.1 - 0x40000) / 128)).2.valid = BitVec.allOnes 128 := by decide +kernel
    exact fun p hp => inL1_of (h p hp)

theorem witness_FloatResults : demo.ctx? = some demoCtx ∧ demoCtx.any always = true ∧ unshadowed demo demoCtx = true
    ∧ (fmtF16 ∈ floatFormats ∧ 0x7C00 < 2 ^ fmtF16.width ∧ (fmtF16.decode 0x7C00).isNan = false ∧ (fmtF16.decode 0x7E00).isNan = true)
    ∧ (fmtF32.decode 0x80000000 = .fin true 0 (-149) ∧ fmtF32.decode 1 = .fin false 1 (-149)) := by decide +kernel

/-- Lane 0 adds 1 and -0, whose sum is 1; the shadow's bits differ from it in the last place, where the two agree, and in the exponent, where they
do not. -/
def shadowState (d : Nat) : State :=
  { demoOf demoSplit { demoGroup with vregs := [(256, 0x3F800000#32), (320, 0x80000000#32)] } demoCrew { demoLaunch with il := 1 } with
    shadowErr := [(ref10, d)] }
theorem witness_ShadowDivergenceTraps :
    (∀ d ∈ [1, 0x800000], let s := shadowState d
      let s₀ : State := { s with shadowErr := s.shadowErr.filter fun e => e.1 != ref10 }
      ∃ c t₀, s.ctx? = some c ∧ lowLane (c.active always) = some 0 ∧ c.launch.il = 1
        ∧ s.shadowErr.find? (fun e => e.1 = c.r) = some (c.r, d) ∧ exec (.fadd (rf 0 9 4 5 0 0)) s₀ = .next t₀
        ∧ t₀.vnumAt c.r.group 9 0 1 = 0x3F800000)
      ∧ shadowAgrees fmtF32 0x3F800000 (0x3F800000 ^^^ 1) = true ∧ shadowAgrees fmtF32 0x3F800000 (0x3F800000 ^^^ 0x800000) = false
      ∧ 6 ≤ (rf 0 9 4 0 0 6).m 0 4 ∧ (rf 0 9 4 0 0 6).m 5 1 = 0
      ∧ ((shadowState 1).core 0).bankLoading demoSplit.atb = false ∧ kindOf 10 0 = .float fmtBf16
      ∧ (vexprProgram 0x00FFFFFFF8342610#64).any (fun k => 4 ≤ k && k ≤ 13) = true
      ∧ (vexprProgram 0x00FFFFFFF8342610#64).contains 13 = false
      ∧ (∀ m ∈ [0x7FC00000, 0x7F800000, 0x80000000], m < 2 ^ fmtF32.width) := by
  refine ⟨?_, by decide +kernel⟩
  intro d hd
  simp only [List.mem_cons, List.not_mem_nil, or_false] at hd
  rcases hd with rfl | rfl <;> exact ⟨_, _, rfl, by decide +kernel, by decide +kernel, by decide +kernel, rfl, by decide +kernel⟩

/-! Running, traps and system instructions. -/

def runWith (sp : Split) : State := demoOf sp demoGroup demoCrew demoLaunch
def badSplit : Split := { demoSplit with clause := some { header := 0x11000, eng := 0, words := [0xFF#64], next := 0 } }
def ctxOfSplit (sp : Split) : Ctx := ctxWith sp demoGroup demoCrew demoLaunch
def someInput : Instr := .probeAck { part := 0, line := 0, view := false, target := 0, kind := .invalidate, data := none }

/-- A clause whose word decodes, one whose word waits for a token, one whose word is refused; an input that is due, one that is not; a
device held in reset. -/
theorem witness_StepRunsTheDecodedInstruction :
    (∀ sp ∈ [loadSplit 0x0000010000058010#64 0, { loadSplit 0x0000010000058010#64 0 with pend := [5] }, badSplit],
        (runWith sp).inputs = [] ∧ (runWith sp).nextMove = some (.word ref10)
          ∧ ((runWith sp).tick.ctxOf ref10).map (fun c => { c.sp with readyAt := none }) = some sp)
      ∧ (let i : Instr := .smovi { g := always, ty := 4, dst := 5, sa := 0, imm := 0x100 }
         decodeWord true 0x0000010000058010#64 none = .ok i ∧ (∀ k ∈ scalarsOf i, k ∉ (loadSplit 0x0000010000058010#64 0).pend)
           ∧ 5 ∈ scalarsOf i)
      ∧ (∀ sp ∈ [{ loadSplit 0x0000010000058010#64 0 with fresh := [5] }, { loadSplit 0x0000010000058010#64 0 with acquire := 3 }],
          (runWith sp).nextMove = some (.word ref10)
            ∧ ((runWith sp).tick.ctxOf ref10).map (fun c => { c.sp with readyAt := none }) = some sp
            ∧ (runWith sp).tick.caches.l1 = [] ∧ (runWith sp).tick.caches.busy = [])
      ∧ demoGroup.regs ≤ demoLaunch.peak
      ∧ (ctxOfSplit badSplit).word = 0xFF#64 ∧ decodeWord true 0xFF#64 none = .error .reservedOpcode
      ∧ (∀ n, ({ demo with inputs := [(n, someInput)] } : State).inputs = [(n, someInput)])
      ∧ State.reset.inputs = [] ∧ State.reset.dev.pins.heldReset = true :=
  ⟨by decide +kernel, ⟨rfl, by decide +kernel, by decide +kernel⟩, by decide +kernel, by decide +kernel, rfl, rfl, fun _ => rfl, rfl, rfl⟩

/-- An event that comes next, and a machine with nothing to do. -/
theorem witness_StepEvents :
    (runWith { demoSplit with wait := .join, clause := none }).nextMove = some (.event (.watchdogFire 1))
      ∧ (started State.reset).moves = [] ∧ (started State.reset).inputs = [] := by decide +kernel

def frameTenant : Tenant := { demoTenant with ring := 0x40000, log2n := 4, ringSet := true, frames := 18 }
def ringLines : List (Nat × L1Line) := [demoLine 0 0 18 .exclusive, demoLine 1 0 0 .exclusive]
def demoFrame : State := { withPage demo ringLines with tenants := [(1, frameTenant)] }

/-- A frame ring at 0x40000 whose COUNT is 18, so that slot 2 is next. -/
theorem witness_TrapEntry :
    (demo.ctx? = some demoCtx ∧ demo.tenant? demoCtx.launch.tenant = some demoTenant ∧ demoTenant.handler ≠ 0 ∧ demoTenant.ringSet = false
        ∧ demoCtx.sp.trap = none ∧ demoCtx.checked = false)
      ∧ (demoFrame.ctx? = some demoCtx ∧ demoFrame.tenant? 1 = some frameTenant ∧ frameTenant.handler ≠ 0 ∧ frameTenant.ringSet = true
        ∧ noSinv demoFrame 0
        ∧ frameTenant.frames = 18 ∧ w64 (frameTenant.ring.toNat + 64 + 64 * (18 % 2 ^ frameTenant.log2n)) = 0x400C0
        ∧ xlate demoFrame 0 1 0x40000 .write [] = .ok (demoX 0)
        ∧ xlate demoFrame 0 1 0x400C0 .write [] = .ok (demoX 0xC0)
        ∧ (∀ a ∈ [0x40000, 0x400C0], (State.tlbOf demoFrame.mmu.l1tlb 0).any (fun e => e.serves 1 a .write) = true)
        ∧ (demoX 0).cls = .dir ∧ demoFrame.region 0 (demoX 0).pa = .local ∧ demoFrame.region 0 ((demoX 0xC0).pa / 128 * 128) = .local
        ∧ Tbl.find? demoFrame.caches.l1 (lineKey 0 ((demoX 0).pa / 128) false) = some (demoLine 0 0 18 .exclusive).2
        ∧ Tbl.find? demoFrame.caches.l1 (lineKey 0 ((demoX 0xC0).pa / 128) false) = some (demoLine 1 0 0 .exclusive).2
        ∧ (demoX 0).pa % 128 = 0 ∧ (demoX 0xC0).pa % 64 = 0 ∧ frameTenant.ring.toNat + 64 + 64 * 2 ^ frameTenant.log2n < 2 ^ 52
        ∧ (0x400C0 : Nat) % 128 = (demoX 0xC0).pa % 128 ∧ (demoX 0).pa / 128 ≠ (demoX 0xC0).pa / 128)
      ∧ (let s : State := { demo with tenants := [(1, { demoTenant with handler := 0 })] }
         s.ctx? = some demoCtx ∧ s.tidy ∧ demoCtx.launch.state.live = true ∧ demoCtx.crew.launch = demoCtx.g.launch
           ∧ demoCtx.launch.closing = none ∧ (∀ e ∈ s.groups, ∀ p ∈ e.2.splits, p.2.pendingTrap = none) ∧ s.caches.l1 = []
           ∧ (∀ p ∈ s.dev.pairs, p.2.gate = []) ∧ s.outbound = [])
      ∧ demoTrap.ctx? = some demoTrapCtx ∧ demoTrap.tidy ∧ demoTrapCtx.sp.trap.isSome = true := by
  refine ⟨by decide +kernel, ?_, ⟨by decide +kernel, ⟨by decide +kernel, by decide +kernel, by decide +kernel, by decide +kernel⟩, rfl, rfl, rfl, by decide +kernel, rfl,
      by decide +kernel, rfl⟩,
    by decide +kernel, ⟨by decide +kernel, by decide +kernel, by decide +kernel, by decide +kernel⟩, rfl⟩
  refine ⟨by decide +kernel, by decide +kernel, by decide +kernel, rfl, ?_, by decide +kernel⟩
  exact ⟨by decide +kernel, by unfold writesDone; decide +kernel⟩

def badReturn : Split := { trapSplit with trapPc := 0x11013 }
def latched : Split := { demoSplit with latch := some (.host, 0x40000#64) }
def engineCmd (k : CmdKind) : Command :=
  { kind := k, group := 1, split := 0, crew := 1, also := [], size := 4, lanes := [(2, 0x40004, 0x40), (3, 0x40008, 0x44)], record := 0, box := 0
    dest := 0, oslot := false, pitch := 0, cols := 1, data := [], acq := false, rel := false, scope := 0, tb := none, token := none, done := []
    got := [], fail := none, faults := [], answers := [], aborted := [], colour := 0, pc := 0 }
def withCmd (s : State) (x : Command) : State := s.setCore 0 { s.core 0 with cmds := [(1, x)] }

/-- At normal level and at trap level, with TRAPPC aligned and not; with a command under way; with a latched error. -/
theorem witness_SystemInstructionResults :
    (∀ s c, (s, c) ∈ [(demo, demoCtx), (demoTrap, demoTrapCtx), (runWith badReturn, ctxOfSplit badReturn), (runWith latched, ctxOfSplit latched)] →
        s.ctx? = some c ∧ c.any always = true ∧ c.checked = false)
      ∧ (demo.preempting 0 = false ∧ demo.tidy
        ∧ (let s := demoOf demoSplit demoGroup { demoCrew with preempt := true } demoLaunch
           (s.ctx? = some (ctxWith demoSplit demoGroup { demoCrew with preempt := true } demoLaunch) ∧ s.preempting 0 = true ∧ s.tidy)))
      ∧ demoCtx.sp.trap = none ∧ demoTrapCtx.sp.trap.isSome = true ∧ demoTrapCtx.sp.trapPc.toNat % 8 = 0 ∧ badReturn.trap.isSome = true
      ∧ badReturn.trapPc.toNat % 8 ≠ 0 ∧ (demoCtx.launch.counters.map (·.1)).Nodup
      ∧ ((demo.core 0).cmds = [] ∧ (demo.core 0).fetching demoCtx.r.group = false)
      ∧ ((withCmd demo (engineCmd .cpl)).ctx? = some demoCtx ∧ ∃ e ∈ ((withCmd demo (engineCmd .cpl)).core 0).cmds, e.2.byGroup demoCtx.r.group = true)
      ∧ (demo.unsettled demoCtx = false ∧ demoCtx.sp.latch = none ∧ (runWith latched).unsettled (ctxOfSplit latched) = false
        ∧ latched.latch = some (.host, 0x40000#64)) := by
  unfold State.tidy
  refine ⟨?_, by decide +kernel⟩
  intro s c h
  simp only [List.mem_cons, List.not_mem_nil, or_false, Prod.mk.injEq] at h
  rcases h with ⟨rfl, rfl⟩ | ⟨rfl, rfl⟩ | ⟨rfl, rfl⟩ | ⟨rfl, rfl⟩ <;> decide +kernel

/-! Control. -/

def bf (g : Guard) (sa : Nat) (off : Nat) : BF := { g := g, ty := 0, dst := 9, sa := BitVec.ofNat 8 sa, off := BitVec.ofNat 32 off }
def fourGroup (sp : Split) : Group :=
  { demoGroup with splits := [(0, sp), (1, { sp with mask := 0xF0 }), (2, { sp with mask := 0xF00 }), (3, { sp with mask := 0xF000 })] }
def fourCtx : Ctx := { demoCtx with g := fourGroup demoSplit }
def demoFour : State := { demo with groups := [(1, fourGroup demoSplit)] }
def elsewhere : W64 := 0x11000 + 8 * (5#32).signExtend 64

/-- All lanes, no lane, some lanes to another place and to the next word; with a free split, with none, and at trap level; each register of
targets; the last pass of a loop. -/
theorem witness_ControlTransfers :
    (demo.ctx? = some demoCtx ∧ demoCtx.checked = false ∧ demoCtx.sp.mask ≠ 0 ∧ demoCtx.sp.stack.length ≤ 1024)
      ∧ (demoTrap.ctx? = some demoTrapCtx ∧ demoTrapCtx.checked = false ∧ demoTrapCtx.sp.trap.isSome = true)
      ∧ (demoFour.ctx? = some fourCtx ∧ (∀ n, n < 4 → (Tbl.find? fourCtx.g.splits n).isSome = true) ∧ fourCtx.sp.stack.length < 16)
      ∧ demoCtx.active always = demoCtx.sp.mask ∧ demoCtx.active (guarded 2 false) = 0
      ∧ (∀ c ∈ [demoCtx, demoTrapCtx, fourCtx], c.active (guarded 1 false) ≠ 0 ∧ c.active (guarded 1 false) ≠ c.sp.mask
          ∧ elsewhere ≠ c.sp.pc + 8 ∧ c.sp.pend = [])
      ∧ (0x11000 + 8 * (2#32).signExtend 64 = demoCtx.sp.pc + 8)
      ∧ (demoCtx.sp.trap = none ∧ (∀ n, n < 1 → (Tbl.find? demoCtx.g.splits n).isSome = true) ∧ (Tbl.find? demoCtx.g.splits 1).isNone = true)
      ∧ (∀ l, l < 64 → demoCtx.g.v 30 l = 0) ∧ (demoCtx.sp.s 1).toNat % 8 = 0 ∧ (demoCtx.sp.s 3).toNat % 8 ≠ 0
      ∧ demoCtx.sp.s 3 - 1 ≠ 0 ∧ (demoCtx.sp.setS 3 1).s 3 - 1 = 0 := by
  refine ⟨by decide +kernel, by decide +kernel, by decide +kernel, by decide +kernel, by decide +kernel, by decide +kernel, by decide +kernel,
    by decide +kernel, ?_, by decide +kernel, by decide +kernel, by decide +kernel, by decide +kernel⟩
  decide +kernel

def entryJ (arr : Nat) (pc : W64) : StackEntry := { join := true, mask := 0xFF, pc := pc, fmt := 3, arr := BitVec.ofNat 64 arr }
def entryP : StackEntry := { join := false, mask := 0xF0, pc := 0x11800, fmt := 4, arr := 0 }
def stacked (l : List StackEntry) : Split := { demoSplit with stack := l }

/-- No J entry; one of another header; the header's own under a P entry, with all lanes there, with lanes missing; a full stack but one. -/
theorem witness_ConvergenceResults :
    (∀ l ∈ [[], [entryJ 0 0x11008], [entryP, entryJ 0 0x11000], [entryJ 0xF0 0x11000], [entryJ 0x30 0x11000], List.replicate 15 entryP],
        (runWith (stacked l)).ctx? = some (ctxOfSplit (stacked l)) ∧ (ctxOfSplit (stacked l)).checked = false ∧ (stacked l).wait = .none
          ∧ (stacked l).trap = none ∧ (stacked l).stack.length < 16
          ∧ ∀ p ∈ (ctxOfSplit (stacked l)).g.splits, p.2.wait ≠ .join)
      ∧ (runWith (stacked [])).tidy ∧ demoTrap.tidy ∧ ref10.split < 4
      ∧ ((demoSplit.clause.map (·.header)).getD demoSplit.pc = 0x11000)
      ∧ (∀ e, [entryJ 0 0x11008].find? (·.join) = some e → e.pc ≠ 0x11000)
      ∧ [entryP, entryJ 0 0x11000].find? (·.join) = some (entryJ 0 0x11000)
      ∧ (entryJ 0xF0 0x11000).mask &&& ~~~((entryJ 0xF0 0x11000).arr ||| demoSplit.mask ||| demoGroup.exited) = 0
      ∧ (entryJ 0x30 0x11000).mask &&& ~~~((entryJ 0x30 0x11000).arr ||| demoSplit.mask ||| demoGroup.exited) ≠ 0
      ∧ ((runWith latched).ctx? = some (ctxOfSplit latched) ∧ latched.trap = none ∧ latched.latch = some (.host, 0x40000))
      ∧ (demoCtx.g.splits.map (·.1)).Nodup ∧ (∀ e ∈ demo.crews, e.2.bars = [] ∧ e.2.cbarLanes = [])
      ∧ demoCtx.active (guarded 1 false) ≠ demoCtx.sp.mask ∧ demoCtx.active always = demoCtx.sp.mask := by
  refine ⟨by decide +kernel, ⟨by decide +kernel, by decide +kernel, by decide +kernel, by decide +kernel⟩,
    ⟨by decide +kernel, by decide +kernel, by decide +kernel, by decide +kernel⟩, by decide, by decide +kernel, ?_, by decide +kernel⟩
  intro e h; cases h; decide

/-- Lanes 4 to 31 have not started, so that the split's lanes are all of its group. -/
def wholeGroup : Group := { demoGroup with off := 0xFFFFFFFFFFFFFFF0#64 }
def demoBar (bars : List (Nat × Barrier)) (g : Group) : State × Ctx :=
  (demoOf demoSplit g { demoCrew with bars := bars } demoLaunch, ctxWith demoSplit g { demoCrew with bars := bars } demoLaunch)
def barF : RF := rf 0 0 0 0 0 (2 + 16 * 2)

/-- Two arrivals expected: the first, and the last; every group by COUNT 0; a split that is a part of its group's lanes. -/
theorem witness_BarrierResults :
    (∀ p ∈ [demoBar [] wholeGroup, demoBar [(2, { phase := 7, count := some 2, came := [9], lanes := [] })] wholeGroup, demoBar [] demoGroup],
        p.1.ctx? = some p.2 ∧ p.2.checked = false)
      ∧ noSinv (demoBar [] wholeGroup).1 0 ∧ (demoBar [] wholeGroup).1.tidy
      ∧ (let c := (demoBar [] wholeGroup).2
         c.g.alive &&& ~~~(Tbl.getD (c.crew.bar 2).lanes c.g.grpid 0 ||| c.sp.mask) = 0
           ∧ Tbl.getD (c.crew.bar 2).lanes c.g.grpid 0 ||| c.sp.mask ≠ 0 ∧ (c.crew.bar 2).count.getD (barF.m 4 6) = 2
           ∧ (c.crew.bar 2).came.length + 1 < 2 ∧ c.g.grpid ∉ (c.crew.bar 2).came)
      ∧ (let c := (demoBar [(2, { phase := 7, count := some 2, came := [9], lanes := [] })] wholeGroup).2
         c.g.alive &&& ~~~(Tbl.getD (c.crew.bar 2).lanes c.g.grpid 0 ||| c.sp.mask) = 0 ∧ c.g.grpid ∉ (c.crew.bar 2).came ∧ 2 ≤ (c.crew.bar 2).came.length + 1
           ∧ (demoBar [(2, { phase := 7, count := some 2, came := [0], lanes := [] })] wholeGroup).2.g.grpid ∈ [0])
      ∧ (let s := (demoBar [] wholeGroup).1
         let c := (demoBar [] wholeGroup).2
         (∀ e ∈ s.crewsOf c.g.launch c.g.cord, e.1 = c.g.crew) ∧ c.crew.launch = c.g.launch ∧ c.crew.cord = c.g.cord
           ∧ (∀ e ∈ s.groupsOf c.g.crew, e.1 = c.r.group) ∧ c.crew.cbarLanes = [] ∧ c.g.alive &&& ~~~c.sp.mask = 0)
      ∧ (demoBar [] demoGroup).2.g.alive &&& ~~~(demoBar [] demoGroup).2.sp.mask ≠ 0 := by
  refine ⟨by decide +kernel, ⟨by decide +kernel, by unfold writesDone; decide +kernel⟩,
    ⟨by decide +kernel, by decide +kernel, by decide +kernel, by decide +kernel⟩, ?_⟩
  decide +kernel

theorem witness_RingPauseAndRepeatResults :
    (demo.ctx? = some demoCtx ∧ demoCtx.any always = true ∧ demoCtx.checked = false ∧ (demoCtx.crew.ringPhase.map (·.1)).Nodup)
      ∧ demoCtx.crew.phase 0 ((demoCtx.sp.s 3).toNat % 4) = false ∧ demoCtx.crew.phase 0 ((demoCtx.sp.s 3).toNat % 4) ≠ true
      ∧ (demoCtx.sp.back = false ∧ 0 ≤ (0#6).toNat
        ∧ (let sp : Split := { demoSplit with repcnt := 63, back := true }
           (runWith sp).ctx? = some (ctxOfSplit sp) ∧ (3#6).toNat < (if sp.back then sp.repcnt else 0)))
      ∧ ({ demoSplit with rep := some ({ countM1 := 3, step := 3, stride2 := false }, 3) } : Split).rep = some ({ countM1 := 3, step := 3, stride2 := false }, 3) := by
  decide +kernel

/-! Clauses. The header at 0x11000 and its words lie in one line of the L1. -/

def header (eng count billet waitk arg sig : Nat) : Nat := eng + count * 16 + billet * 512 + waitk * 4096 + arg * 65536 + sig * 2 ^ 56
/-- A header and two words. -/
def demoClause (hd w0 w1 : Nat) (sp : Split) : State :=
  let s := runWith { sp with clause := none, pc := 0x11000 }
  { s with
    mmu := { s.mmu with l1tlb := [(0, [{ demoPage .dir 0x100000 with va := 0x10000 }])] }
    caches := { s.caches with l1 := [demoLine 0x20 0 (hd + w0 * 2 ^ 64 + w1 * 2 ^ 128) .shared] } }
def clauseCtx (sp : Split) : Ctx := ctxOfSplit { sp with clause := none, pc := 0x11000 }
def addWord : Nat := 0x0000010000058010

/-- What the header and words of a clause come to. -/
structure ClauseCase (hd w0 w1 : Nat) (sp : Split) (p : State → Ctx → W64 → List W64 → Prop) : Prop where
  ctx : (demoClause hd w0 w1 sp).ctxOf ref10 = some (clauseCtx sp)
  ready : sp.pendingTrap = none ∧ sp.resume = none ∧ sp.yieldOn = [] ∧ sp.acquire = 0 ∧ demoCrew.saved = false ∧ demoCrew.preempt = false
  clause : ∃ s' w ws, ClauseAt (demoClause hd w0 w1 sp) (clauseCtx sp) 0x11000 s' w ws ∧ p s' (clauseCtx sp) w ws

/-- The L1 gives the words that the line holds. -/
theorem clauseCase {hd w0 w1 : Nat} {sp : Split} {p : State → Ctx → W64 → List W64 → Prop}
    (h1 : (demoClause hd w0 w1 sp).ctxOf ref10 = some (clauseCtx sp))
    (h2 : sp.pendingTrap = none ∧ sp.resume = none ∧ sp.yieldOn = [] ∧ sp.acquire = 0 ∧ demoCrew.saved = false ∧ demoCrew.preempt = false)
    (h3 : sp.faults = [] ∧ sp.aborted = none)
    (h4 : (Header.ofWord (w64 (leBytes (toBytes 8 (lineField (demoLine 0x20 0 (hd + w0 * 2 ^ 64 + w1 * 2 ^ 128) .shared).2.data 0 8))))).count ≤ 15)
    (h5 : xlate (demoClause hd w0 w1 sp) 0 1 0x11000 .fetch [] = .ok (demoX 0x1000)
      ∧ (State.tlbOf (demoClause hd w0 w1 sp).mmu.l1tlb 0).any (fun e => e.serves 1 0x11000 .fetch) = true
      ∧ (demoClause hd w0 w1 sp).region 0 0x101000 = .local
      ∧ Tbl.find? (demoClause hd w0 w1 sp).caches.l1 (lineKey 0 0x2020 false) = some (demoLine 0x20 0 (hd + w0 * 2 ^ 64 + w1 * 2 ^ 128) .shared).2
      ∧ ((demoClause hd w0 w1 sp).core 0).code = [])
    (h6 : let d := (demoLine 0x20 0 (hd + w0 * 2 ^ 64 + w1 * 2 ^ 128) .shared).2.data
      let w := w64 (leBytes (toBytes 8 (lineField d 0 8)))
      let n := (Header.ofWord w).count
      let ws := wordsOf ((toBytes (8 * (n + 1)) (lineField d 0 (8 * (n + 1)))).drop 8) n
      p ((demoClause hd w0 w1 sp).setCore 0 { (demoClause hd w0 w1 sp).core 0 with code := [(1 * 2 ^ 52 + 0x11000, w :: ws)] }) (clauseCtx sp) w ws) :
    ClauseCase hd w0 w1 sp p := by
  refine ⟨h1, h2, _, _, _, clauseAt_within (x := demoX 0x1000) ?_ h3.2 (List.any_eq_true.mp h5.2.1) ?_ h5.2.2.2.1 rfl h5.2.2.2.2 h4 (by decide), h6⟩
  · rw [show (clauseCtx sp).sp.faults = [] from h3.1]
    exact h5.1
  · exact fun h => absurd (h5.2.2.1.symm.trans h) (by decide)

abbrev headOk (c : Ctx) (w : W64) : Prop :=
  headerOk c.level3 w = true ∧ ((Header.ofWord w).waitk = 1 → fld (Header.ofWord w).waitarg 0 3 < c.crew.rings.length)
abbrev cleanIn (c : Ctx) (w : W64) (ws : List W64) : Prop :=
  headOk c w ∧ clauseFault c.level3 (Header.ofWord w).eng c.imageCtx 17 0 none ws = none ∧ roleAllows c.g.role (Header.ofWord w).eng = true

/-- A good clause; one with a wait that holds and one with a wait that does not; a bad signature; a ring that the image has not; a bad second
word; a class that the role does not permit; a billet. -/
theorem witness_ClauseHeaderResults :
    ClauseCase (header 0 2 0 0 0 0xA5) addWord addWord demoSplit (fun s c w ws => cleanIn c w ws
        ∧ waitDone s c (Header.ofWord w).waitk (Header.ofWord w).waitarg = true ∧ (Header.ofWord w).billet = false
        ∧ (∀ e ∈ s.caches.l1, e.2.perm ≠ .sinv) ∧ s.caches.busy = [])
      ∧ ClauseCase (header 0 2 0 1 0 0xA5) addWord addWord demoSplit (fun s c w ws => cleanIn c w ws
        ∧ waitDone s c (Header.ofWord w).waitk (Header.ofWord w).waitarg = true)
      ∧ ClauseCase (header 0 2 0 1 0x200 0xA5) addWord addWord demoSplit (fun s c w ws => cleanIn c w ws
        ∧ waitDone s c (Header.ofWord w).waitk (Header.ofWord w).waitarg = false)
      ∧ ClauseCase (header 0 2 1 0 0 0xA5) addWord addWord demoSplit (fun s c w ws => cleanIn c w ws
        ∧ waitDone s c (Header.ofWord w).waitk (Header.ofWord w).waitarg = true ∧ (Header.ofWord w).billet = true ∧ c.sp.trap = none
        ∧ c.launch.il < 2 ∧ (s.split? ref10).isSome = true ∧ snapRows c.g ref10.split (takeSnapshot s c 0x11000) ≤ 16)
      ∧ ClauseCase (header 0 2 0 0 0 0xA4) addWord addWord demoSplit (fun _ c w _ => ¬headOk c w)
      ∧ ClauseCase (header 0 2 0 1 1 0xA5) addWord addWord demoSplit (fun _ c w _ => ¬headOk c w)
      ∧ ClauseCase (header 0 2 0 0 0 0xA5) addWord 0xFF demoSplit (fun _ c w ws => headOk c w
        ∧ clauseFault c.level3 (Header.ofWord w).eng c.imageCtx 17 0 none ws = some 1)
      ∧ ClauseCase (header 4 1 0 0 0 0xA5) 0x00000000501400D3 0 demoSplit (fun _ c w ws => headOk c w
        ∧ clauseFault c.level3 (Header.ofWord w).eng c.imageCtx 17 0 none ws = none ∧ roleAllows c.g.role (Header.ofWord w).eng = false)
      ∧ (clauseCtx { demoSplit with wait := .clause 1 0 }).sp.wait = .clause 1 0 := by
  refine ⟨clauseCase ?_ ?_ ?_ ?_ ?_ ?_, clauseCase ?_ ?_ ?_ ?_ ?_ ?_, clauseCase ?_ ?_ ?_ ?_ ?_ ?_, clauseCase ?_ ?_ ?_ ?_ ?_ ?_,
    clauseCase ?_ ?_ ?_ ?_ ?_ ?_, clauseCase ?_ ?_ ?_ ?_ ?_ ?_, clauseCase ?_ ?_ ?_ ?_ ?_ ?_,
    clauseCase ?_ ?_ ?_ ?_ ?_ ?_, rfl⟩
  all_goals decide +kernel

/-! Engine commands and streams. -/

/-- A record: elements of 2^esize bytes, extents, strides and box sizes less one (Table 11.5). -/
def recordWith (base space esize ndim : Nat) (ext str box : List Nat) : Block :=
  BitVec.ofNat 512 (leBytes (toBytes 8 base ++ toBytes 1 space ++ toBytes 1 esize ++ toBytes 1 ndim ++ toBytes 5 0
    ++ ext.flatMap (toBytes 4) ++ str.flatMap (toBytes 8) ++ box.flatMap (toBytes 1)))
/-- Two dimensions of words at 0x40000, 4 by 2, rows 0x80 apart, a box of one row; the same in the weight store. -/
def recM : Block := recordWith 0x40000 0 2 2 [4, 2, 1, 1] [0x80, 0, 0] [3, 0, 0, 0]
def recW : Block := recordWith 0 1 2 2 [4, 2, 1, 1] [0x80, 0, 0] [3, 0, 0, 0]
/-- Rows of 48 bytes, for operand slots. -/
def recO : Block := recordWith 0x40000 0 2 2 [12, 2, 1, 1] [0x80, 0, 0] [11, 0, 0, 0]

def recSplit : Split := { demoSplit with trecs := [(1, recM), (2, recW), (3, recO)] }
def recState : State := (runWith recSplit).setCore 0 { Core.reset with claims := [(0, 32)] }
def recCtx : Ctx := ctxOfSplit recSplit
def cplF (dst off : Nat) : MF := mf 4 dst 11 30 0 0 0 off
def laneRefs (m : MF) : List (Nat × W64 × W64) :=
  (lanesOf (recCtx.active m.g)).map fun l => (l, laneAddr recCtx m 4 0 l, (recCtx.g.v m.dst.toNat l).setWidth 64)
def fullQueue (k : CmdKind) : State := (runWith recSplit).setCore 0 { Core.reset with cmds := (List.range 16).map fun n => (n, engineCmd k) }

/-- Operands that pass, with a token, with a barrier in the scratchpad, to an operand slot; a misaligned lane; a full queue; records that are
wrong, misplaced, in the weight store. -/
theorem witness_CopyCommandsIssue :
    (recState.ctx? = some recCtx ∧ recCtx.checked = false ∧ recCtx.any always = true ∧ recCtx.active always ≠ 0)
      ∧ (∃ e ∈ laneRefs (cplF 4 7), e.2.1.toNat % 4 ≠ 0 ∨ e.2.2.toNat % 4 ≠ 0)
      ∧ (∀ off ∈ [7, 0x308, 0x407], (∀ e ∈ laneRefs (cplF 30 off), e.2.1.toNat % 4 = 0 ∧ e.2.2.toNat % 4 = 0)
          ∧ (((cplF 30 off).off.getLsbD 8 = true → (recCtx.sp.s (fld (cplF 30 off).off 0 8)).toNat % 16 = 0
            ∧ (recCtx.sp.s (fld (cplF 30 off).off 0 8)).toNat + 16 ≤ recCtx.crew.scratchSize))
          ∧ if (cplF 30 off).off.getLsbD 10 then ∀ e ∈ laneRefs (cplF 30 off), e.2.2.toNat < 196608
              ∧ (recState.core 0).slotClaimed recCtx.g.crew (e.2.2.toNat / 12288) = true
            else ∀ e ∈ laneRefs (cplF 30 off), e.2.2.toNat + 4 ≤ recCtx.crew.scratchSize)
      ∧ (∀ k ∈ [CmdKind.cpl, .cps, .cpt, .cptw], (recState.core 0).queued (k = .cps ∨ k = .cptw) < 16
          ∧ (fullQueue k).ctx? = some recCtx ∧ 16 ≤ ((fullQueue k).core 0).queued (k = .cps ∨ k = .cptw))
      ∧ (recordOk (recCtx.sp.trec 0) = false ∧ recordOk (recCtx.sp.trec 1) = true ∧ recordOk (recCtx.sp.trec 2) = true
          ∧ recordOk (recCtx.sp.trec 3) = true)
      ∧ (boxShapeOk (Record.of recM) (recCtx.sp.s 9) true = false ∧ boxShapeOk (Record.of recM) (recCtx.sp.s 8) false = true
          ∧ boxShapeOk (Record.of recO) (recCtx.sp.s 9) true = true ∧ (Record.of recO).row / 48 = 1
          ∧ (recState.core 0).slotClaimed 1 (fld (recCtx.sp.s 9) 0 4 + 0) = true)
      ∧ ((recCtx.sp.s 3).toNat % 16 ≠ 0 ∧ (recCtx.sp.s 8).toNat % 16 = 0 ∧ (Record.of recM).swz = false
          ∧ (recCtx.sp.s 8).toNat + (Record.of recM).boxBytes ≤ recCtx.crew.scratchSize)
      ∧ ((Record.of recW).space = 1 ∧ (Record.of recW).inWs (recState.wsBytes recCtx.part) = true ∧ (Record.of recM).space = 0) := by
  decide +kernel

def cmdState (x : Command) (p : Perm) : State := withCmd (withPage demo [demoLine 0 0 0x99887766554433221100 p]) x

theorem freshCommand (k : CmdKind) (x : Command) (h : x = engineCmd k ∨ x = { engineCmd k with tb := some (0x100, true) }
      ∨ x = { engineCmd k with data := [7, 9], dest := 0x40010, pitch := 4, cols := 1 }
      ∨ x = { engineCmd k with lanes := [(5, 0x10000000000000, 0x40)] }) (p : Perm) :
    FreshCommand (cmdState x p) 0 1 x demoGroup demoCrew demoLaunch := by
  rcases h with rfl | rfl | rfl | rfl <;>
    exact ⟨rfl, rfl, rfl, rfl, rfl, rfl, by decide, ⟨rfl, rfl, rfl, rfl⟩, ⟨rfl, rfl⟩, (by intro o h; cases h), (by intro g h; cases h), (by intro q h; cases h),
      (by intro w h; cases h), (by decide : [1].Pairwise (· < ·))⟩

theorem finds_demo (a : W64) (ha : a = 0x40004 ∨ a = 0x40008) :
    engineFinds (cmdState (engineCmd .cpl) .shared) 0 demoLaunch [] false a 4
      (lineField (demoLine 0 0 0x99887766554433221100 .shared).2.data ((demoX (a.toNat - 0x40000)).pa % 128) 4) := by
  rcases ha with rfl | rfl <;> exact ⟨_, (demoLine 0 0 0x99887766554433221100 .shared).2, by decide +kernel,
    List.any_eq_true.mp (by decide +kernel), fun h => absurd h (by decide +kernel), by decide +kernel, rfl, rfl⟩

/-- A load of two words that the L1 holds, with a token and with a barrier in the scratchpad; a store and a drain to a line that the L1 owns; a
scratchpad drain; a load whose one lane faults. -/
theorem witness_CopyCompletion :
    (∀ k p, FreshCommand (cmdState (engineCmd k) p) 0 1 (engineCmd k) demoGroup demoCrew demoLaunch)
      ∧ (let x : Command := { engineCmd .cpl with tb := some (0x100, true) }
         FreshCommand (cmdState x .shared) 0 1 x demoGroup demoCrew demoLaunch)
      ∧ ((engineCmd .cpl).oslot = false ∧ ((engineCmd .cpl).elems.map (·.idx)).Nodup
        ∧ (engineCmd .cpl).elems.map (·.addr) = [some 0x40004, some 0x40008])
      ∧ (∀ a : W64, a = 0x40004 ∨ a = 0x40008 → ∃ v, engineFinds (cmdState (engineCmd .cpl) .shared) 0 demoLaunch [] false a 4 v)
      ∧ (∀ a : W64, a = 0x40004 ∨ a = 0x40008 →
          xlate (cmdState (engineCmd .cps) .exclusive) 0 1 a .engWrite [] = .ok (demoX (a.toNat - 0x40000))
          ∧ (State.tlbOf (cmdState (engineCmd .cps) .exclusive).mmu.l1tlb 0).any (fun e => e.serves 1 a.toNat .engWrite) = true
          ∧ (cmdState (engineCmd .cps) .exclusive).region 0 ((demoX (a.toNat - 0x40000)).pa / 128 * 128) = .local
          ∧ Tbl.find? (cmdState (engineCmd .cps) .exclusive).caches.l1 (lineKey 0 ((demoX (a.toNat - 0x40000)).pa / 128) false)
              = some (demoLine 0 0 0x99887766554433221100 .exclusive).2)
      ∧ (∀ k, k = CmdKind.drainG ∨ k = .drainS → let x : Command := { engineCmd k with data := [7, 9], dest := 0x40010, pitch := 4, cols := 1 }
          FreshCommand (cmdState x .exclusive) 0 1 x demoGroup demoCrew demoLaunch ∧ x.tb = none ∧ (x.elems.map (·.idx)).Nodup
            ∧ x.elems.map (·.addr) = [some 0x40010, some 0x40014])
      ∧ (let x : Command := { engineCmd .cpl with lanes := [(5, 0x10000000000000, 0x40)] }
         FreshCommand (cmdState x .shared) 0 1 x demoGroup demoCrew demoLaunch ∧ x.tb = none
           ∧ xlate (cmdState x .shared) 0 1 0x10000000000000 .engRead [] = .fault (xperm 15 0 0 false .engRead)
           ∧ ∃ cause d, xperm 15 0 0 false .engRead = .trap cause d ∧ cause < 256) := by
  refine ⟨fun k p => freshCommand k _ (.inl rfl) p, freshCommand .cpl _ (.inr (.inl rfl)) _, ⟨rfl, by decide, by decide⟩,
    fun a h => ⟨_, finds_demo a h⟩, ?_, ?_, ⟨freshCommand .cpl _ (.inr (.inr (.inr rfl))) _, rfl, by decide +kernel, _, _, rfl, by decide⟩⟩
  · rintro a (rfl | rfl) <;> decide +kernel
  · rintro k (rfl | rfl) <;> exact ⟨freshCommand _ _ (.inr (.inr (.inl rfl))) _, rfl, by decide, by decide⟩

def openStream : Stream :=
  { group := 1, split := 0, record := recM, rows := [(0, 0), (1, 1)], col := 0, pos := 1, fetched := [(64, 5), (65, 6)], failed := []
    faults := [], answers := [], aborted := [] }
def streamState (x : Stream) : State :=
  (withPage (runWith { recSplit with mask := 3 }) [demoLine 0 0 0x99887766554433221100 .shared, demoLine 1 0 0x55 .shared]).setStream 0 0 x
def streamCtx : Ctx := ctxOfSplit { recSplit with mask := 3 }

/-- A stream of the split whose element is there, one whose element is still to come, and no stream; each kind of record. -/
theorem witness_GatherStreams :
    (recState.ctx? = some recCtx ∧ recCtx.any always = true ∧ recCtx.checked = false ∧ recState.caches.l1 = []
        ∧ Tbl.find? (recState.core 0).streams 0 = none)
      ∧ (recordOk (recCtx.sp.trec 0) = false ∧ recordOk (recCtx.sp.trec 1) = true ∧ (Record.of recM).ndim = 2 ∧ 2 ≤ (Record.of recM).esize
        ∧ (Record.of recM).space ≠ 1 ∧ recordOk (recCtx.sp.trec 2) = true ∧ (Record.of recW).inWs (recState.wsBytes 0) = true)
      ∧ (∀ x ∈ [openStream, { openStream with pos := 2 }], (streamState x).ctx? = some streamCtx
        ∧ Tbl.find? ((streamState x).core 0).streams 0 = some x ∧ x.group = streamCtx.r.group
        ∧ (∀ e ∈ (streamState x).caches.l1, e.2.perm ≠ .sinv) ∧ (streamState x).caches.busy = [] ∧ (streamState x).mmu.requests = []
        ∧ (Record.of x.record).esize ≠ 3 ∧ (rf 0 9 4 0 0 0).dst.toNat + ((rf 0 9 4 0 0 0).m 2 3 + 1) ≤ streamCtx.g.regs
        ∧ ¬(rf 0 255 4 0 0 4).dst.toNat + ((rf 0 255 4 0 0 4).m 2 3 + 1) ≤ streamCtx.g.regs)
      ∧ (∀ l ∈ lanesOf (streamCtx.active always), openStream.has (openStream.pos + 0) l = true ∧ Tbl.find? openStream.failed (64 * openStream.pos + l) = none)
      ∧ (0 ∈ lanesOf (streamCtx.active always) ∧ openStream.has (2 + 0) 0 = false)
      ∧ (streamCtx.crew.saved = false ∧ openStream.pos ≤ 2 ∧ 2 < openStream.pos + 16 ∧ (openStream.rows.map (·.1)).Nodup
        ∧ ∀ e ∈ openStream.rows, e.1 < 64)
      ∧ (openStream.addr 2 0 = some 0x40008 ∧ openStream.addr 2 1 = some 0x40088)
      ∧ (∃ v, engineFinds (streamState openStream) 0 streamCtx.launch openStream.faults false 0x40008 4 v)
      ∧ ∃ v, engineFinds (streamState openStream) 0 streamCtx.launch openStream.faults false 0x40088 4 v := by
  refine ⟨by decide +kernel, by decide +kernel, by decide +kernel, by decide +kernel, by decide +kernel, by decide +kernel, by decide +kernel, ?_, ?_⟩
  · exact ⟨_, demoX 8, (demoLine 0 0 0x99887766554433221100 .shared).2, by decide +kernel, List.any_eq_true.mp (by decide +kernel), fun h => absurd h (by decide +kernel),
      by decide +kernel, rfl, rfl⟩
  · exact ⟨_, demoX 0x88, (demoLine 1 0 0x55 .shared).2, by decide +kernel, List.any_eq_true.mp (by decide +kernel), fun h => absurd h (by decide +kernel),
      by decide +kernel, rfl, rfl⟩

/-! Matrix instructions. -/

def wholeTile : RegionF := { acc := 0, mc := 0, nc := 0 }
def mmF : MmulF := { reg := wholeTile, aslot := 0, bslot := 4, ksM1 := 0, arow := 1, brow := 2, cord := false, rgl := 0 }
def drainF (hi : Nat) : MdrainF := { reg := wholeTile, rega := 8, regb := 13, regc := 7, hi := BitVec.ofNat 16 hi }
/-- Signed bytes times signed bytes; f32 out for OKIND 0. -/
def int8Fmt : W64 := 0x2020
def mxGroup : Group := { demoGroup with role := .matrix }
def mxWith (sp : Split) : State := demoOf sp mxGroup demoCrew demoLaunch
def mxCtx (sp : Split) : Ctx := ctxWith sp mxGroup demoCrew demoLaunch
def opF (i : Instr) : MatrixOp :=
  { instr := i, crew := 1, keyGrp := 0, members := [ref10], fmt := int8Fmt, blocks := 0, array := onArray i, emulated := false, cord := false
    ra := 0x40, rb := 0x100, rc := 0x80 }
def mxCore (op : MatrixOp) : Core := { Core.reset with ops := [(5, op)], acc := [(0, 7), (257, 9)], claims := [(0, 32), (4, 32)], tagI := [(0, true)] }
def waiting : Split := { demoSplit with wait := .matrix 5 }
def mxState (op : MatrixOp) : State := (mxWith waiting).setCore 0 (mxCore op)
def splitGroup : Group := { mxGroup with splits := [(0, demoSplit), (1, { demoSplit with mask := 0xF0 })] }
def splitCtx : Ctx := { mxCtx demoSplit with g := splitGroup }

/-- An empty gang, a gang that names a group that is not there, a split group; an array at rest and one at work. -/
theorem witness_MatrixArrivals :
    (let s := mxWith demoSplit
     let c := mxCtx demoSplit
     s.ctx? = some c ∧ c.checked = false ∧ c.gangOk = true ∧ c.g.splits.length = 1 ∧ (s.core c.crew.core).ops = [])
      ∧ (let g := { mxGroup with gang := 1 }
         let c := ctxWith demoSplit g demoCrew demoLaunch
         (demoOf demoSplit g demoCrew demoLaunch).ctx? = some c ∧ c.gangOk = false)
      ∧ (({ demo with groups := [(1, splitGroup)] } : State).ctx? = some splitCtx ∧ splitCtx.g.splits.length ≠ 1)
      ∧ ((mxState (opF (.mmulz mmF))).core 0).ops = [(5, opF (.mmulz mmF))] ∧ onArray (.mmulz mmF) = true := by decide +kernel

def arrival (i : Instr) : Arrival := { member := ref10, word := 5, gang := 0, fmt := int8Fmt, mprog := 0, instr := i }
def latchSplit : Split := { demoSplit with wait := .latch 32 }
def latchState (l : List (Nat × Arrival)) : State :=
  (mxWith latchSplit).setCore 0 { Core.reset with claims := [(0, 32), (4, 32)], tagI := [(0, true)], latches := l }
def latchCtx : Ctx := mxCtx latchSplit
/-- Two groups of a gang, one of which has brought another word. -/
def gangArrival (n : Nat) (w : W64) : Arrival :=
  { member := { group := 1 + n, split := 0 }, word := w, gang := 0x102, fmt := int8Fmt, mprog := 0, instr := .mmulz mmF }

def cordArrival (f : MmulF) : Arrival := arrival (.mmulz { f with cord := true })
/-- A launch whose image has cords of `n` crews, at the cord latch. -/
def cordState (n : Nat) (l : List (Nat × Arrival)) : State :=
  (latchState []).updLaunch 1 fun x => { x with cordLatch := l, img := some { loadImage 0 0 with cord := n } }
def mxGroupLatch : Group := { mxGroup with splits := [(0, latchSplit)] }

/-- A gang that passes, one that does not agree, one whose check fails, a cord form; a cord whose one crew has come, one that still waits for its
second crew, one whose two crews do not agree; each check of R337 passed and failed. -/
theorem witness_LatchReleases :
    (∀ i ∈ [Instr.mmulz mmF, .mmul { mmF with aslot := 1 }, .mmulz { mmF with cord := true }],
        let s := latchState [(32, arrival i)]
        Tbl.find? (s.core 0).latches 32 = some (arrival i) ∧ (s.core 0).gangAt 32 (arrival i) = some [arrival i]
          ∧ (s.setCore 0 { s.core 0 with latches := [] }).ctxOf ref10 = some latchCtx)
      ∧ (opOf latchCtx (arrival (.mmulz mmF)) [ref10]).cord = false ∧ (opOf latchCtx (arrival (.mmulz { mmF with cord := true })) [ref10]).cord = true
      ∧ (let s := latchState [(32, gangArrival 0 5), (33, gangArrival 1 6)]
         (s.core 0).gangAt 32 (gangArrival 0 5) = some [gangArrival 0 5, gangArrival 1 6] ∧ (gangArrival 0 5).word ≠ (gangArrival 1 6).word)
      ∧ ((cordState 1 [(0, cordArrival mmF)]).group? ref10.group = some mxGroupLatch ∧ cordForm (cordArrival mmF).instr = true ∧ cordForm (.mmulz mmF) = false)
      ∧ (let on := cordState 1 [(0, cordArrival mmF)]
         let two := cordState 2 [(0, cordArrival mmF), (1, { cordArrival mmF with word := 6 })]
         (∃ l, on.launch? 1 = some l ∧ l.cordLatch.filter (fun e => e.1 / 16 = 0) = [(0, cordArrival mmF)] ∧ cordFull on 1 l 0 = true
           ∧ (on.ctxOf (cordArrival mmF).member).isSome = true ∧ gangCheck on latchCtx (cordArrival mmF).instr int8Fmt true = none)
         ∧ (gangCheck on latchCtx (cordArrival { mmF with aslot := 1 }).instr int8Fmt true).isSome = true
         ∧ (∃ l, (cordState 2 [(0, cordArrival mmF)]).launch? 1 = some l ∧ cordFull (cordState 2 [(0, cordArrival mmF)]) 1 l 0 = false)
         ∧ ∃ l, two.launch? 1 = some l ∧ cordFull two 1 l 0 = true
           ∧ l.cordLatch.filter (fun e => e.1 / 16 = 0) = [(0, cordArrival mmF), (1, { cordArrival mmF with word := 6 })])
      ∧ (let s := latchState []
         (gangCheck s latchCtx (.mmulz mmF) int8Fmt true = none ∧ gangCheck s latchCtx (.mmul mmF) int8Fmt true = none)
         ∧ (∀ i ∈ [Instr.mmulz { mmF with aslot := 1 }, .mmulz { mmF with bslot := 1 }, .orel { first := 0, countM1 := 1 }],
            (gangCheck s latchCtx i int8Fmt true).map (·.cause) = some 0x13)
         ∧ (gangCheck s latchCtx (.mmul mmF) 0x6060 true).map (·.cause) = some 1
         ∧ gangCheck s latchCtx (.mdrainV (drainF 0)) int8Fmt true = none ∧ outOk int8Fmt = true ∧ outOk 0x72020 = false
         ∧ ((latchCtx.sp.s 8).toNat % 16 = 0 ∧ (latchCtx.sp.s 3).toNat % 16 ≠ 0 ∧ (latchCtx.sp.s 13).toNat % 16 = 0
            ∧ wholeTile.n * outSize int8Fmt ≤ (latchCtx.sp.s 13).toNat
            ∧ latchCtx.crew.scratchSize < (latchCtx.sp.s 8).toNat + (wholeTile.m - 1) * (latchCtx.sp.s 13).toNat + wholeTile.n * outSize int8Fmt)
         ∧ (latchCtx.sp.s 3).toNat % 4 ≠ 0) := by
  refine ⟨by decide +kernel, by decide +kernel, by decide +kernel, by decide +kernel, by decide +kernel,
    ⟨⟨_, rfl, by decide +kernel⟩, by decide +kernel, ⟨_, rfl, by decide +kernel⟩, _, rfl, by decide +kernel⟩, by decide +kernel⟩

theorem ending_demo (i : Instr) (m : ((mxState (opF i)).core 0).canEnd 5 (opF i) = true) :
    Ending (mxState (opF i)) 0 5 (opF i) (mxCtx waiting) :=
  ⟨rfl, rfl, rfl, rfl, m, (by intro e h; cases h), (by decide : [5].Pairwise (· < ·))⟩

/-- Products from zero and onto what the region holds, all blocks left; the operations that use the slots, the scales and the queue. -/
theorem witness_MatrixResults :
    (∀ i ∈ [Instr.mmulz mmF, .mmul mmF, .oclaim { first := 3, countM1 := 2 }, .orel { first := 0, countM1 := 0 }, .mzero { reg := wholeTile, int := true }
          , .msclRow { sa := 8, first8 := 0, countM1 := 0 }, .msclCol { sa := 8, first8 := 31, countM1 := 0 }
          , .mbyp { reg := wholeTile, oslot := 6, orow := 24 }, .mdrainV (drainF 0xFC00), .mdrainS (drainF 0), .mdrainG (drainF 3)],
        Ending (mxState (opF i)) 0 5 (opF i) (mxCtx waiting) ∧ (opF i).blocks = 0 ∧ (opF i).emulated = false)
      ∧ wholeTile.ok = true ∧ 8 * (24#5).toNat + wholeTile.m ≤ 256 ∧ ((mxCore (opF (.mmulz mmF))).claims.map (·.1)).Nodup
      ∧ (descA int8Fmt).isInt = true ∧ (descB int8Fmt).isInt = true := by
  refine ⟨?_, by decide +kernel⟩
  intro i h
  refine ⟨ending_demo i ?_, rfl, rfl⟩
  simp only [List.mem_cons, List.not_mem_nil, or_false] at h
  rcases h with rfl | rfl | rfl | rfl | rfl | rfl | rfl | rfl | rfl | rfl | rfl <;> decide +kernel

/-! Launches. -/

/-- A host record of Table 14.1, version v: tenant, image 0x20000, 64 threads, one cord, SEQ 9, and its last byte. -/
def hostRecord (v tenant seq last : Nat) : LineData :=
  lineOf (toBytes 4 v ++ toBytes 2 tenant ++ toBytes 2 16 ++ toBytes 8 0x20000 ++ toBytes 8 0x40000 ++ toBytes 8 64 ++ toBytes 4 1 ++ toBytes 4 1
    ++ toBytes 12 0 ++ toBytes 4 seq ++ toBytes 71 0 ++ toBytes 1 last)
def demoQueue (en v2 revoked : Bool) : Queue :=
  { Queue.reset with qcfg := w64 (4 + (if en then 16 else 0) + (if v2 then 32 else 0) + 65536), qpasid := w64 (7 + (if revoked then 2 ^ 31 else 0))
                     qbase := 0x10000, qtail := 1 }
def poolTenant : Tenant := { demoTenant with pool := some (0x80000000, 4) }
/-- A packet of Table 14.4 in the ring, and the record that it names. -/
def packetAt (op pasid record status : Nat) (r : LineData) (s : State) : State :=
  let s := { s with mem := writeCells s.mem (hostCell 0x10000) (toBytes 4 op ++ toBytes 4 pasid ++ toBytes 8 record ++ toBytes 8 status ++ toBytes 40 0) }
  { s with mem := writeCells s.mem (hostCell record) (toBytes 128 r.toNat) }
def hostDemo (qu : Queue) : State :=
  { (demo.setQueue 0 1 qu) with tenants := [(1, poolTenant)], parts := [(0, { demo.part 0 with req := 1 })] }

/-- The status that the rule's order of checks gives, as a number: `statusAsTold` holds of it. -/
def toldStatus (s : State) (f q : Nat) (r : LineData) : Nat :=
  match s.tenant? (lineField r 4 2) with
  | none => 4
  | some t =>
    if t.func ≠ f ∨ fld ((s.func f).queue q).qcfg 16 16 ≠ lineField r 4 2 then 4
    else if 4096 ≤ s.pendingOf f q ∨ s.launchId? = none then 7
    else if (fld (s.part t.part).req 0 16 = 0 ∨ (s.part t.part).ports = []) ∨ t.pool = none then 9
    else 0
theorem told {s : State} {f q : Nat} {r : LineData} {n : Nat} (h : toldStatus s f q r = n) : statusAsTold s f q r n := by
  subst h
  unfold statusAsTold toldStatus
  cases s.tenant? (lineField r 4 2) with
  | none => rfl
  | some t => simp only; repeat' split
              all_goals rfl

def packetState (op : Nat) : State := packetAt op 7 0x20000 0x30000 (hostRecord 1 1 9 0) (hostDemo (demoQueue true false false))

/-- Each way in which an armed record is refused, and one that is accepted; each kind of packet. -/
theorem witness_HostLaunchSubmission :
    (∀ qu ∈ [demoQueue true true false, demoQueue false true false, demoQueue true true true, demoQueue true false false],
        (hostDemo qu).hostUp = true ∧ (hostDemo qu).wf ∧ ((hostDemo qu).func 0).queue 1 = qu)
      ∧ (let s := hostDemo (demoQueue true true false)
         let ok := hostRecord 2 1 9 0xA5
         (lineField ok 0x7F 1 = 0xA5 ∧ lineField ok 0 1 = 2 ∧ recordFieldsOk ok true 1 none = true ∧ toldStatus s 0 1 ok = 0)
           ∧ lineField (hostRecord 2 1 9 0xA4) 0x7F 1 ≠ 0xA5 ∧ lineField (hostRecord 1 1 9 0xA5) 0 1 ≠ 2
           ∧ recordFieldsOk ok true 1 (some 9) = false ∧ recordFieldsOk ok true 1 (some 8) = true
           ∧ toldStatus s 0 1 (hostRecord 2 5 9 0xA5) = 4
           ∧ toldStatus { s with tenants := [(1, demoTenant)] } 0 1 ok = 9
           ∧ ({ demoQueue true true false with armed := [(3, 0)] } : Queue).armed.any (fun e => e.1 = 3) = true)
      ∧ (let qu := demoQueue true false false
         qu.qcfg.getLsbD 4 = true ∧ qu.qcfg.getLsbD 5 = false ∧ qu.qhead ≠ qu.qtail ∧ qu.qpasid.getLsbD 31 = false ∧ fld qu.qpasid 0 20 = 7)
      ∧ (∀ op ∈ [0, 1, 255], (packetState op).wf ∧ numAt (readHost (packetState op) 0x10000 64) 0 1 = op ∧ numAt (readHost (packetState op) 0x10000 64) 4 4 = 7 ∧ numAt (readHost (packetState op) 0x10000 64) 0x10 8 % 8 = 0
            ∧ lineOf (readHost (packetState op) 0x20000 128) = hostRecord 1 1 9 0 ∧ lineField (hostRecord 1 1 9 0) 0 1 = 1
            ∧ recordFieldsOk (hostRecord 1 1 9 0) false 1 none = true ∧ toldStatus (packetState op) 0 1 (hostRecord 1 1 9 0) = 0)
      ∧ (packetState 1).hostRefuses 0x20000 128 = false ∧ (packetState 1).hostRefuses 0x30000 8 = false
      ∧ (let s := { packetState 1 with straps := { (packetState 1).straps with hostHoles := [(0x20000, 64), (0x30004, 4)] } }
         s.hostUp = true ∧ s.wf ∧ s.hostRefuses 0x20000 128 = true ∧ s.hostRefuses 0x30000 8 = true) := by
  unfold State.wf
  decide +kernel

/-- A kernel image of 208 bytes (R223): one group of 32 lanes, a clause of one word at 0x80 that begins a billet. -/
def imageBytes (crc : Nat) : List Byte :=
  toBytes 4 0x4E4B5051 ++ toBytes 1 3 ++ toBytes 1 32 ++ toBytes 1 1 ++ toBytes 1 1 ++ toBytes 2 64 ++ toBytes 6 0 ++ toBytes 16 0
    ++ toBytes 4 0x80 ++ toBytes 4 16 ++ toBytes 16 0 ++ toBytes 4 0x90 ++ toBytes 4 0x98 ++ toBytes 4 1 ++ toBytes 4 0xA0 ++ toBytes 20 0
    ++ toBytes 4 0xD0 ++ toBytes 4 crc ++ toBytes 28 0
    ++ toBytes 8 (header 0 1 1 0 0 0xA5) ++ toBytes 8 addWord ++ toBytes 8 0 ++ toBytes 8 0 ++ toBytes 48 0
def imageCrc : Nat := 268430753
def goodImage : Image :=
  { level3 := true, width := 32, crew := 1, cord := 1, regs := 64, integ := 0, rings := [], scratch := 0, fmt0 := 0, code := 128, codeLen := 16
    groups := [(0, .general)], safe := [(0, 0, 0)], headers := [0], length := 208 }
/-- The CRC of the image with its CRC field zero, after every 26 bytes. -/
def crcAfter (k : Nat) : BitVec 32 := BitVec.ofNat 32 ([4294967295, 1604366069, 1753055043, 1710458528, 1636673162, 1548644093, 1943231819, 3748936396, 4026536542].getD k 0)
theorem crc_chunk : ∀ k ∈ List.range 8, (((imageBytes 0).drop (26 * k)).take 26).foldl crc32cByte (crcAfter k) = crcAfter (k + 1) := by decide +kernel
theorem crc_image : (crc32c (imageBytes 0)).toNat = imageCrc := by
  have whole : ∀ n, n ≤ 8 → ((imageBytes 0).take (26 * n)).foldl crc32cByte 0xFFFFFFFF#32 = crcAfter n := by
    intro n
    induction n with
    | zero => intro _; decide +kernel
    | succ n ih =>
      intro h
      rw [show 26 * (n + 1) = 26 * n + 26 from rfl, List.take_add, List.foldl_append, ih (by omega)]
      exact crc_chunk n (List.mem_range.2 (by omega))
  have all : (imageBytes 0).take (26 * 8) = imageBytes 0 := by decide +kernel
  unfold crc32c
  rw [← all, whole 8 (by omega)]
  decide +kernel
theorem zeroed_image : (imageBytes imageCrc).take 0x60 ++ List.replicate 4 0 ++ (imageBytes imageCrc).drop 0x64 = imageBytes 0
    ∧ (imageBytes 0).take 0x60 ++ List.replicate 4 0 ++ (imageBytes 0).drop 0x64 = imageBytes 0 := by decide +kernel
theorem kernelImage_good : kernelImage (imageBytes imageCrc) = some goodImage ∧ kernelImage (imageBytes 0) = none := by
  unfold kernelImage
  simp only [zeroed_image.1, zeroed_image.2, crc_image]
  decide +kernel

def newLaunch (il threads : Nat) (st : LaunchState) (record : Block) : Launch :=
  { Launch.blank 0 1 il (.child 1 0 7) with image := 0x40000, threads := threads, cords := 1, state := st, record := record }
/-- A child record of Table 14.5: image 0x40000, 32 threads, one cord, and its cords field. -/
def childRecord (cords : Nat) : Block :=
  BitVec.ofNat 512 (leBytes (toBytes 8 0x40000 ++ toBytes 8 0 ++ toBytes 6 32 ++ toBytes 2 0 ++ toBytes 4 cords ++ toBytes 36 0))
def imageLine (n : Nat) : L2Line :=
  { demoL2 1 with line := 0x2000 + n, set := 128 + n, data := BitVec.ofNat 1024 (leBytes ((imageBytes imageCrc).drop (128 * n) |>.take 128)) }
/-- The L2 holds the image at 0x40000, or a string that is none. -/
def launchState (x : Launch) (cached : List (Nat × W64 × Image)) (lines : List L2Line) : State :=
  let s := withL2 (hostDemo (demoQueue true true false)) lines
  { s with
    launches := [(1, demoLaunch), (2, x)]
    mmu := { s.mmu with l1tlb := [(ctlCore, [demoPage .dir 0x100000])] }
    parts := [(0, { s.part 0 with images := cached })] }
def goodLines : List L2Line := [imageLine 0, imageLine 1]
def childDemo : State := { launchState (newLaunch 0 32 .received (childRecord 1)) [] [] with
  groups := [(1, { demoGroup with splits := [(0, { demoSplit with pend := [7] })] })] }

/-- An image that passes; a launch instruction within its quota, one whose quota is spent; child records in and out of range; images that
are cached, read, wrong, too long for the launch's threads, of too high a level. -/
theorem witness_ImagesAndChildren :
    kernelImage (imageBytes imageCrc) = some goodImage ∧ kernelImage (imageBytes 0) = none
      ∧ (demoMem.ctx? = some demoCtx ∧ demoCtx.sp.latch = none ∧ demoCtx.sp.aborted = none ∧ demoCtx.launch.state.live = true
        ∧ ¬(demoMem.cquota 1 ≤ demoMem.children 1) ∧ demoMem.launchId? = some 2 ∧ (demoCtx.sp.s 11).toNat % 64 = 0 ∧ (demoCtx.sp.s 12).toNat % 64 ≠ 0 ∧ (demoX 0).pa % 64 = 0)
      ∧ (let s := (launchState (newLaunch 0 32 .received 0) [] []).setQueue 0 0 { Queue.reset with qquota := 1 }
         s.ctx? = some demoCtx ∧ s.cquota 1 ≤ s.children 1)
      ∧ (∀ n ∈ [1, 0], let x := newLaunch 0 32 .received (childRecord n)
         (launchState x [] []).launch? 2 = some x ∧ x.state = .received ∧ x.origin = .child 1 0 7)
      ∧ ((childRecord 1).toNat / 2 ^ (8 * 0x18) % 2 ^ 32 = 1 ∧ (childRecord 0).toNat / 2 ^ (8 * 0x18) % 2 ^ 32 = 0
        ∧ (childRecord 1).toNat % 128 = 0 ∧ (childRecord 1).toNat / 2 ^ (8 * 0x28) = 0)
      ∧ (fld (childDemo.part 0).req 0 16 ≠ 0 ∧ (childDemo.part 0).ports ≠ [] ∧ childDemo.tenant? 1 = some poolTenant ∧ poolTenant.pool = some (0x80000000, 4)
        ∧ (childDemo.split? ref10).map (·.pend) = some [7]
        ∧ ((childDemo.group? 1).bind fun x => childDemo.crew? x.crew).map (·.saved) = some false)
      ∧ (∀ x ∈ [newLaunch 0 32 .accepted 0, newLaunch 0 33 .accepted 0, newLaunch 3 32 .accepted 0],
          (launchState x [(1, 0x40000, goodImage)] []).launch? 2 = some x ∧ x.state = .accepted
            ∧ (launchState x [(1, 0x40000, goodImage)] []).asking (.launch 2) = false
            ∧ ((launchState x [(1, 0x40000, goodImage)] []).part x.part).image? x.tenant x.image = some goodImage)
      ∧ (let s := launchState (newLaunch 0 32 .accepted 0) [(1, 0x40000, goodImage)] []
         s.neverFits (newLaunch 0 32 .accepted 0) goodImage 64 = false
           ∧ s.neverFits (newLaunch 3 32 .accepted 0) { goodImage with cord := 9 } 64 = true)
      ∧ (let x := newLaunch 0 32 .accepted 0
         let s := launchState x [] goodLines
         (s.part 0).image? 1 0x40000 = none ∧ (launchRead s 2 x .read 0x40000 128).2 = .bytes ((imageBytes imageCrc).take 128)
           ∧ numAt ((imageBytes imageCrc).take 128) 0x5C 4 = 208 ∧ numAt ((imageBytes imageCrc).take 128) 0 4 = 0x4E4B5051
           ∧ (launchRead (launchRead s 2 x .read 0x40000 128).1 2 x .read 0x40000 208).2 = .bytes (imageBytes imageCrc)
           ∧ (launchRead (launchState x [] [demoL2 1]) 2 x .read 0x40000 128).2 = .bytes (toBytes 128 0x11223344)) := by
  refine ⟨kernelImage_good.1, kernelImage_good.2, ?_, ?_, ?_, ?_, ?_, ?_, ?_, ?_⟩ <;> decide +kernel

/-! Translation. Tables at 0x1000, 0x2000, 0x3000 and 0x4000 lead the page of 0x40000 to frame 0x100. -/

def pteNext (frame : Nat) : W64 := w64 (1 + frame * 65536)
/-- A leaf that may be read, written and executed: class, SPAN, UNB and LATE. -/
def pteLeaf (frame cls span : Nat) (unb late : Bool) : W64 :=
  w64 (3 + 28 + cls * 32 + span * 2048 + (if unb then 512 else 0) + (if late then 1024 else 0) + frame * 65536)
def upperOf (leaf : W64) : Upper :=
  [(1, 1, 0x1000, pteNext 2), (1, 1, 0x2000, pteNext 3), (1, 1, 0x3000, pteNext 4), (1, 1, 0x4000 + 8 * 0x40, leaf)]

/-- Entries that lead on, that are absent, that are malformed; leaves of each run; a leaf that passes and one for each check that fails. -/
theorem witness_WalksFollowTheTables :
    (∀ n ∈ [0, 1, 2, 3], let leaf := if n = 3 then 0 else pteLeaf 0x100 0 n false false
        ∀ e ∈ upperOf leaf, (upperOf leaf).find? (fun x => x.1 = 1 && x.2.1 = 1 && x.2.2.1 = e.2.2.1) = some e ∧ demo.region 0 e.2.2.1 = .local)
      ∧ (∀ n ∈ [2, 3, 4], let e := pteNext n
        e.getLsbD 0 = true ∧ e.getLsbD 1 = false ∧ malformed e 0 0 false = false
          ∧ malformed e 1 0 false = false ∧ malformed e 2 0 false = false)
      ∧ ((0#64).getLsbD 0 = false ∧ (5#64).getLsbD 0 = true ∧ malformed 5 0 0 false = true)
      ∧ (∀ n < 3, let e := pteLeaf 0x100 0 n false false
          e.getLsbD 0 = true ∧ e.getLsbD 1 = true ∧ malformed e 3 0x40 false = false ∧ fld e 11 2 = n)
      ∧ (demo.tenant? 1 = some demoTenant ∧ demoTenant.s2en = false)
      ∧ (let leaf (e : W64) (base size : Nat) : Leaf := { pte := e, entry := 0x4200, base := base, size := size, level := 3 }
         let check (e : W64) (l : Leaf) : Nat := regionCheck demo 0 l.base l.size (l.pte.getLsbD 9) (fld e 5 2)
         let good := pteLeaf 0x100 0 0 false false
         (check good (leaf good 0x100000 4096) = 0 ∧ permitted .read (good.getLsbD 2) (good.getLsbD 3) (good.getLsbD 4) = true
           ∧ demo.keyTag 0 (fld good 56 6) ≠ none ∧ shadowCheck (demo.part 0).shadow 0 (framesOf 0x100000 4096) ≠ none
           ∧ ¬(demo.localBytes 0 - demo.localBytes 0 / 1024 < 0x100000 + 4096))
         ∧ check (pteLeaf 0x100 0 0 true false) (leaf (pteLeaf 0x100 0 0 true false) 0x100000 4096) ≠ 0
         ∧ (demo.downAt 0 0x100000 = false ∧ demo.downAt 0 0x8000000000 = true
           ∧ check (pteLeaf 0x8000000 0 0 false false) (leaf (pteLeaf 0x8000000 0 0 false false) 0x8000000000 4096) = 0
           ∧ fld (pteLeaf 0x100 2 0 false false) 5 2 = 2 ∧ check (pteLeaf 0x100 2 0 false false) (leaf (pteLeaf 0x100 2 0 false false) 0x100000 4096) = 0)
         ∧ permitted .read false true true = false ∧ demo.keyTag 0 5 = none
         ∧ shadowCheck [(16, 0x41)] 0 (framesOf 0x100000 4096) = none) := by
  refine ⟨?_, ?_, ?_, ?_, ?_, ?_⟩ <;> decide +kernel

def someWalk (page : Nat) (running : Option Nat) : Walk :=
  { tenant := 1, page := page, access := .read, running := running, waiters := [(.split ref10 0, .read)] }
def walkState (walks : List (Nat × Walk)) (up : Upper) : State :=
  let s := runWith { demoSplit with wait := .walk }
  { s with tenants := [(1, { demoTenant with quota := 2, s1root := 0x1000 })], mmu := { s.mmu with walks := walks, upper := [(0, up)] } }
def pageReq : PageReq :=
  { func := 0, slot := 3, gen := 1, tenant := 1, stage := 1, level := 3, table := false, access := .read, addr := 0x40004, entry := 0x4200
    written := false, lanes := [], engines := [] }
def requestState : State :=
  let s := demo.setFunc 0 { Func.reset with prqcfg := w64 (2 ^ 31 + 6), prqbase := 0x50000 }
  { s with mmu := { s.mmu with requests := [pageReq] } }
def aheadCmd : Command := { engineCmd .cpt with record := recordWith 0x40000 0 2 2 [4, 2, 1, 1] [0x1000, 0, 0] [3, 1, 0, 0] }
def aheadState : State :=
  let s := withCmd (walkState [] []) aheadCmd
  withL2 s ([(0x1000, pteNext 2), (0x2000, pteNext 3), (0x3000, pteNext 4)].map (fun e =>
      { demoL2 1 with line := e.1 / 128, data := BitVec.ofNat 1024 e.2.toNat, set := (s.home 0 e.1).set, slice := (s.home 0 e.1).slice })
    ++ [{ demoL2 1 with line := 0x4200 / 128, set := (s.home 0 0x4200).set, slice := (s.home 0 0x4200).slice
                        data := BitVec.ofNat 1024 ((pteLeaf 0x100 0 0 false false).toNat + (pteLeaf 0x101 0 0 false false).toNat * 2 ^ 64) }])

/-- A queued walk while another runs; running walks that end; pages that the engine walks ahead; a request and a ring with room; a link that is up. -/
theorem witness_WalksAndPageRequests :
    (let s := walkState [(1, someWalk 0x41 (some 0)), (2, someWalk 0x40 none)] []
     s.mmu.queued 1 = [(2, someWalk 0x40 none)] ∧ (s.mmu.running 1).length < 2 ∧ (∀ e ∈ s.mmu.walks, e.2.running ≠ some 1)
       ∧ (∃ e ∈ s.mmu.walks, e.2.running = some 0) ∧ ∀ e ∈ s.tenants, e.1 = 1)
      ∧ (∀ n ∈ [0, 1], let leaf := if n = 1 then 0 else pteLeaf 0x100 0 0 false false
         let s := walkState [(2, someWalk 0x40 (some 0))] (upperOf leaf)
         Tbl.find? s.mmu.walks 2 = some (someWalk 0x40 (some 0)) ∧ (s.mmu.walks.map (·.1)).Nodup ∧ Tbl.getD s.mmu.upper 0 [] = upperOf leaf
           ∧ (s.split? ref10).map (·.wait) = some .walk)
      ∧ (aheadState.cmd? 0 1 = some aheadCmd ∧ aheadState.group? 1 = some { demoGroup with splits := [(0, { demoSplit with wait := .walk })] }
        ∧ aheadState.launch? 1 = some demoLaunch ∧ (Record.of aheadCmd.record).space = 0 ∧ (Record.of aheadCmd.record).spans 0x41 = true
        ∧ 0x41 ∈ (aheadCmd.pagesLeft.drop 1).take 8
        ∧ (∀ ts ∈ [aheadState.mmu.ahead, aheadState.mmu.l1tlb, aheadState.mmu.l2tlb], ¬∃ e ∈ State.tlbOf ts 0, e.covers 1 0x41000 = true)
        ∧ ∃ e ∈ State.tlbOf { aheadState.mmu with ahead := [(0, [{ demoPage .dir 0x100000 with unused := true }])] }.ahead 0, e.covers 1 0x41000 = true)
      ∧ (let w : Walk := { someWalk 0x40 (some 0) with waiters := [(.ahead 0 1, .engRead), (.split ref10 0, .read)] }
         w.ask = (.read, false) ∧ { w with waiters := [(.ahead 0 1, .engRead)] }.ask = (.read, true)
           ∧ (withCmd (walkState [(2, w)] (upperOf (pteLeaf 0x100 0 0 false false))) aheadCmd).recordCmd 0 1 = true)
      ∧ (Memory.wf requestState.mem ∧ Memory.wf requestState.ws ∧ requestState.mmu.requests = [pageReq] ∧ (requestState.func 0).prqcfg.getLsbD 31 = true
        ∧ ((requestState.func 0).prqtail - (requestState.func 0).prqhead).toNat < 2 ^ (requestState.func 0).prqLog
        ∧ pageReq.slot < 256 ∧ pageReq.gen < 256 ∧ pageReq.tenant < 65536)
      ∧ (demo.setLink 3 { demo.link 3 with state := 2 }).link 3 = { demo.link 3 with state := 2 } := by
  refine ⟨?_, ?_, ?_, ?_, ?_, ?_⟩ <;> decide +kernel

/-! Late framing. -/

def okOf {α : Type} : Res α → Bool
  | .ok _ _ => true
  | .stop _ _ => false
def stOf {α : Type} : Res α → State
  | .ok s _ => s
  | .stop s _ => s
def valOf {α : Type} (d : α) : Res α → α
  | .ok _ a => a
  | .stop _ _ => d
/-- What the following witness says of `okOf`, in the words of the statement. -/
theorem ok_is {α : Type} (d : α) {r : Res α} (h : okOf r = true) : r = .ok (stOf r) (valOf d r) := by
  cases r with
  | ok s a => rfl
  | stop s w => cases h

def lateJob : LateJob := { tenant := 1, va := 0x40000, line := 0x40000000, who := [.split ref10 0] }
def lateLine (s : State) (pa data : Nat) : L2Line :=
  { demoL2 1 with line := pa / 128, data := BitVec.ofNat 1024 data, set := (s.home 0 pa).set, slice := (s.home 0 pa).slice }
/-- A page of the tenant in the unbacked aperture that waits for a frame; the pool's ring at 0x8000 holds TAIL and frame 0x200. -/
def lateState (tail : Nat) (pool : Option (Nat × Nat)) : State :=
  let s := runWith { demoSplit with wait := .line (lineKey 0 0x40000000 false) }
  let s := { s with
    tenants := [(1, { demoTenant with s1root := 0x1000 })]
    parts := [(0, { s.part 0 with late := [lateJob], pool := pool, resvN := 1 })] }
  withL2 s ([lateLine s 0x1000 (pteNext 2).toNat, lateLine s 0x2000 (pteNext 3).toNat, lateLine s 0x3000 (pteNext 4).toNat
    , lateLine s 0x4200 (pteLeaf 0x2000000 0 0 true true).toNat, lateLine s 0x8000 (tail + 0x2000000 * 2 ^ 256 * 2 ^ 256)])
def lateLeaf : Leaf := { pte := pteLeaf 0x2000000 0 0 true true, entry := 0x4200, base := 0x2000000000, size := 4096, level := 3 }

/-- Each reading and writing of a late framing in turn, from the page's table walk on; a ring that is empty; no pool. -/
theorem witness_LateFraming :
    (∀ tail pool, tail = 0 ∨ tail = 1 → pool = some (0x8000, 4) ∨ pool = none → ((lateState tail pool).part 0).late = [lateJob])
      ∧ lateLeaf.pte.getLsbD 9 = true ∧ lateLeaf.pte.getLsbD 10 = true ∧ ofPage lateLeaf lateJob = true
      ∧ lateLeaf.size % 128 = 0 ∧ lateLeaf.base % 128 = 0
      ∧ lateJob.who = .split ref10 0 :: []
      ∧ ((lateState 1 none).part 0).pool = none
      ∧ ∀ tail ∈ [0, 1], let s := lateState tail (some (0x8000, 4))
        let r := finalLeaf s 1 0x40000
        let s1 := stOf r
        let ra := readPhys s1 0 0x8000 8
        let rb := readPhys (stOf ra) 0 0x8008 8
        let rc := readPhys (stOf rb) 0 (0x8000 + 64 + 8 * (0 % 2 ^ 4)) 8
        let sc := stOf rc
        (okOf r = true ∧ valOf none r = some lateLeaf ∧ s1.migration = none ∧ (s1.keyTag 0 (fld lateLeaf.pte 56 6)).isSome = true)
          ∧ ((s1.part 0).pool = some (0x8000, 4) ∧ (s1.part 0).poolBad = false ∧ okOf ra = true ∧ valOf 9 ra = tail ∧ okOf rb = true
            ∧ valOf 9 rb = 0 ∧ okOf rc = true ∧ sc.part 0 = s1.part 0 ∧ sc.groups = s1.groups)
          ∧ (s1.split? ref10).map (·.wait) = some (.line (lineKey 0 0x40000000 false)) := by
  refine ⟨?_, by decide +kernel, by decide +kernel, by decide +kernel, by decide +kernel, by decide +kernel, rfl, by decide +kernel, ?_⟩
  · rintro tail pool - -
    rfl
  · decide +kernel

theorem witness_LateFraming_frame :
    let s1 := stOf (finalLeaf (lateState 1 (some (0x8000, 4))) 1 0x40000)
    let rb := readPhys (stOf (readPhys s1 0 0x8000 8)) 0 0x8008 8
    let rc := readPhys (stOf rb) 0 (0x8000 + 64 + 8 * (0 % 2 ^ 4)) 8
    let sc := stOf rc
    let r2 := frameLines sc 0 0 0x200 (pageLines lateLeaf.base lateLeaf.size)
    let r3 := takePhys (stOf r2) 0 0x8008
    let r4 := takePhys (stOf r3) 0 lateLeaf.run.1
    let r5 := rewriteRun (stOf r4) 0 lateLeaf.run.1 lateLeaf.run.2 0x200
    let r6 := writePhys (stOf r5) 0 0x8008 8 (0 + 1)
    sc.poolEntry 0 (valOf 9 rc) = some 0x200 ∧ shadowCheck (s1.part 0).shadow 0 [0x200 / 16] = some [(32, 0x40)]
      ∧ (∀ k ∈ pageLines lateLeaf.base lateLeaf.size, sc.isLost 0 (sc.home 0 (k * 128)).slice k = false)
      ∧ okOf r2 = true ∧ okOf r3 = true ∧ okOf r4 = true ∧ okOf r5 = true ∧ okOf r6 = true
      ∧ ((stOf r6).caches.l2.map (·.1)).Nodup ∧ (stOf r6).part 0 = s1.part 0 ∧ (stOf r6).groups = s1.groups := by
  decide +kernel

/-! Coherence. -/

/-- Main memory's first megabytes under a program of the ROM (slots 0 to 3). -/
def underProgram (slot : Nat) (l1 : List (Nat × L1Line)) (l2 : List L2Line) : State :=
  let s := demoOne l1 l2
  { s with parts := [(0, { s.part 0 with ranges := [(0, { en := true, slot := slot, base := 0, limit := 0x200000 })] })] }
def accessBy (who : Requester) : SliceAccess := { part := 0, line := 0x2000, view := false, who := who, data := 0x5566, mask := 3 }
/-- Link 2 is Up and bound to partition 0, whose XCONN holds its port. -/
def boundTo (st : Nat) (s : State) : State :=
  ({ s with parts := [(0, { s.part 0 with req := BitVec.twoPow 24 19 ||| (s.part 0).req })] }).setLink 2 { demo.link 2 with state := st, bound := 0 }
/-- A line alone in its slice under INV and under WONCE; what reaches it from a core, a peer and the host. -/
theorem witness_CoherenceTransitions :
    (∀ slot ∈ [0, 3], let s := underProgram slot [] [demoL2 2]
        slicesQuiet s ∧ (Memory.wf s.mem ∧ Memory.wf s.ws) ∧ (s.l1Set 1 (0x2000 % 128)).length < 4
          ∧ (Tbl.find? s.caches.l2 (lineKey 0 0x2000 false) = some (demoL2 2) ∧ (s.caches.l2.map (·.1)).Nodup)
          ∧ s.region 0 (0x2000 * 128) = .local)
      ∧ notLost (underProgram 0 [] [demoL2 2]) 0 (0x2000 * 128)
      ∧ (let t := ((underProgram 0 [] [demoL2 2]).part 0).protoAt (0x2000 * 128) |>.entry 2 1
         t.fill = false ∧ t.fault = false ∧ t.grant = 2 ∧ t.wbm = true)
      ∧ (((underProgram 3 [] [demoL2 2]).part 0).protoAt (0x2000 * 128) |>.entry 2 1).fault = true
      ∧ (((underProgram 0 [] [demoL2 2]).part 0).protoAt (0x2000 * 128) |>.entry 2 9).fill = false
      ∧ mayReach (underProgram 0 [] [demoL2 2]) (accessBy (.l1 1))
      ∧ mayReach (boundTo 2 (underProgram 0 [] [demoL2 2])) (accessBy (.peer 2)) := by
  refine ⟨by unfold slicesQuiet; decide +kernel, fun h => absurd h (by decide +kernel), by decide +kernel, by decide +kernel, by decide +kernel,
    (by intro l h; cases h), ?_⟩
  intro l h
  cases h
  decide +kernel

def probeOf (k : ProbeKind) (target : Nat) : ProbeMsg := { part := 0, line := 0x2000, view := false, kind := k, target := target, data := some 0x77 }
def busyOf (targets : List Nat) : Busy :=
  { event := 1, access := accessBy .host, entry := (protoINV.trans.getD 17 0), targets := targets, update := false, data := none, key := 0 }
def busyState (targets : List Nat) : State :=
  let s := demoOne [demoLine 0 0 9 .exclusive] [demoL2 2]
  { s with caches := { s.caches with busy := [(lineKey 0 0x2000 false, busyOf targets)], misses := [(3, 2)] } }
def hdmState (bias : Bool) : State :=
  let s := demoOne [] [demoL2 2]
  { s with parts := [(0, { s.part 0 with req := 0x10001, mem := 0xFFFF })], dev := { s.dev with hostBias := if bias then [(8, true)] else [] } }

/-- The requester of a transition still waits for it. -/
def awaitedState (b : Busy) : State :=
  let s := busyState [0]
  { s with caches := { s.caches with busy := [(lineKey 0 0x2000 false, b)], waiters := [(lineKey 0 0x2000 false, .event (.rdx (accessBy (.peer 2))))] } }
def crossState : State := { (demo.setLink 2 { demo.link 2 with state := 2 }) with inputs := [(1, .wb (accessBy (.peer 2)))] }
/-- A cluster that owns the line; a peer's write-back in flight; an acknowledgement that is not the last, and one that is; host accesses in device bias, in host bias and
outside every partition. -/
theorem witness_ProbesAndHostAccesses :
    (let s := busyState [0, 5]
     s.region 0 (0x2000 * 128) = .local ∧ (s.caches.l1.map (·.1)).Nodup ∧ Tbl.canon 0 0 s.caches.misses = true
       ∧ Tbl.find? s.caches.l1 (lineKey 0 0x2000 false) = some (demoLine 0 0 9 .exclusive).2)
      ∧ (∀ l ∈ [[0, 5], [0]], let s := busyState l
          Tbl.find? s.caches.busy (lineKey 0 0x2000 false) = some (busyOf l) ∧ 0 ∈ (busyOf l).targets ∧ (busyOf l).targets.Nodup
            ∧ (s.caches.busy.map (·.1)).Nodup ∧ s.region 0 (0x2000 * 128) = .local)
      ∧ (let b := { busyOf [0] with access := accessBy (.peer 2) }
         handsOver b.event = false ∧ (awaitedState b).awaited (lineKey 0 0x2000 false) b = true
           ∧ (busyState [0]).awaited (lineKey 0 0x2000 false) (busyOf [0]) = false)
      ∧ (Trans.ofWord (busyOf [0]).entry).drop = false ∧ (Trans.ofWord (busyOf [0]).entry).wbm = false ∧ (busyOf [0]).access.who = .host
      ∧ (∀ b ∈ [0, 1], let s := hdmState (b = 1)
          (Memory.wf s.mem ∧ Memory.wf s.ws) ∧ s.hostUp = true ∧ s.hdmPart (0x100000 + 8) = some 0 ∧ s.inHostBias 0 (s.paOf 0 (0x100000 + 8) / 128) = (b = 1))
      ∧ demo.hdmPart (2 ^ 40) = none ∧ demo.hostUp = true ∧ 0x100000 < demo.localBytes 0
      ∧ (let s := hdmState false
         let a := { accessBy .host with line := s.paOf 0 (0x100000 + 8) / 128, mask := 0, data := 0 }
         okOf (sliceEvent s (reqFrom s a) 9 0 0) = true ∧ s.waitingEvents (lineKey 0 a.line false) = []
           ∧ okOf (sliceEvent s (reqFrom s { a with mask := 3, data := 5 }) 10 5 3) = true
           ∧ okOf (sliceEvent s (reqFrom s { a with mask := 3, data := 5 }) 11 5 3) = true)
      ∧ (demo.region 0 (0x1000000000000 * 8) = .host ∧ (accessBy .host).mask ≠ 0)
      ∧ (∀ l, (accessBy (.peer 2)).who = .peer l → ¬mayReach (demo.setLink 2 { demo.link 2 with state := 2, bound := 1 }) (accessBy (.peer 2)))
      ∧ (crossState.region 0 (0x2000 * 128) = .local ∧ (crossState.link 2).state = 2 ∧ requesterBit (accessBy (.peer 2)).who = 18
        ∧ crossState.wbInFlight (probeOf .invalidate 18) = some (1, accessBy (.peer 2))) := by
  refine ⟨?_, ?_, ?_, ?_, ?_, ?_, ?_, ?_, ?_, ?_, ?_, ?_, ?_, ?_⟩
  case refine_13 =>
    intro l _ h
    exact absurd (h 2 rfl).2.1 (by decide +kernel)
  all_goals decide +kernel

/-! Placement. -/

def placeLaunch : Launch := { newLaunch 0 32 .candidate 0 with img := some goodImage, peak := 64, args := 0x50000, image := 0x40000 }
def placeTenant : Tenant := { demoTenant with pool := some (0x80000000, 2 ^ 20) }
def emptyMachine (ls : List (Nat × Launch)) : State :=
  let s := hostDemo (demoQueue true true false)
  { s with launches := ls, tenants := [(1, placeTenant)], crews := [], groups := [], cur := none, seed := 10 }
def exitedGroup : Group := { demoGroup with exited := 0xFFFFFFFF#64 }
def retireState (others : List (Nat × Group)) (crews : List (Nat × Crew)) : State :=
  { demo with crews := (1, demoCrew) :: crews, groups := (1, exitedGroup) :: others, seed := 10, cur := none }

/-- A launch whose cord fits a core; a launch whose dependence has failed; a group that is done: alone, with another of its crew, and with
another crew of its cord. -/
theorem witness_PlacementAndRetirement :
    (let s := emptyMachine [(2, placeLaunch)]
     (s.part 0).pstate ≠ 2 ∧ s.underTest 0 = false ∧ (∀ e ∈ s.launches, e.2.part = 0 → depBroken s e.2 = false)
       ∧ s.candidates 0 = [(2, placeLaunch)] ∧ s.launch? 2 = some placeLaunch ∧ placeLaunch.img = some goodImage ∧ placeLaunch.il < 2
       ∧ goodImage.cord * goodImage.crew ≤ (((s.tenant? placeLaunch.tenant).map (·.freeSlots.length)).getD 0)
       ∧ s.cordPlace 0 placeLaunch.il goodImage.cord (needOf placeLaunch goodImage) = some [(0, 0)] ∧ placeLaunch.part = 0
       ∧ (∀ e ∈ s.crews, e.1 < s.seed) ∧ (∀ e ∈ s.groups, e.1 < s.seed) ∧ 0 < goodImage.width ∧ goodImage.width ≤ 64
       ∧ (∀ c < goodImage.cord, ∀ g < goodImage.crew,
            ((placeLaunch.placedCords * goodImage.cord + c) * goodImage.crew + g) * goodImage.width < placeLaunch.threads)
       ∧ isCandidate s placeLaunch = true)
      ∧ (let bad := { placeLaunch with deps := [.launch 1], age := 1 }
         let s := emptyMachine [(1, { placeLaunch with state := .failed 3 }), (2, bad)]
         (s.part 0).pstate ≠ 2 ∧ s.underTest 0 = false ∧ s.launch? 2 = some bad ∧ bad.closing = none ∧ s.crews = [] ∧ s.unreleased 2 bad = false
           ∧ s.launches.find? (fun e => e.2.part = 0 && !e.2.ended && e.2.placedCords = 0 && e.2.state != .received && depBroken s e.2) = some (2, bad))
      ∧ (∀ n ∈ [0, 1, 2], let s := retireState (if n = 1 then [(2, demoGroup)] else []) (if n = 2 then [(2, { demoCrew with crewid := 1 })] else [])
         s.group? 1 = some exitedGroup ∧ s.crew? 1 = some demoCrew ∧ s.launch? 1 = some demoLaunch ∧ exitedGroup.alive = 0 ∧ demoCrew.saved = false ∧ s.busyGroup 1 = false
           ∧ (∀ p ∈ s.dev.pairs, ∀ e ∈ p.2.gate, e.split.group ≠ 1) ∧ s.tidy ∧ (s.core 0).latches = [] ∧ (∀ e ∈ s.caches.l1, e.2.core = 0 → e.2.perm ≠ .sinv)
           ∧ s.caches.busy = [] ∧ demoLaunch.closing = none ∧ s.unreleased 1 demoLaunch = false
           ∧ demoCrew.launch = exitedGroup.launch ∧ demoCrew.cord = exitedGroup.cord) := by
  unfold State.tidy
  refine ⟨?_, ?_, ?_⟩ <;> decide +kernel

/-! Replies to page requests, and preloads. -/

def parkedSplit : Split := { demoSplit with wait := .parked }
def parkedReq : PageReq := { pageReq with lanes := [{ split := ref10, lanes := 0xF, addr := 0x40004, access := .write }] }
def replyState : State :=
  let s := runWith parkedSplit
  { s with mmu := { s.mmu with requests := [parkedReq] } }
def replyValue (tag status : Nat) : W64 := w64 (tag + status * 65536)

def preloadLaunch (st : LaunchState) : Launch := { newLaunch 0 32 st 0 with img := some goodImage, peak := 64, preload := 0x40000, npreload := 1 }
/-- A preload list of one entry at 0x40000, the entry's record behind it, and the bytes that it names. -/
def preloadState (st : LaunchState) (src : Nat) : State :=
  let x := preloadLaunch st
  let bytes := toBytes 8 src ++ toBytes 4 0x20 ++ toBytes 4 0 ++ toBytes 48 0 ++ toBytes 64 (goodRecord + 0x80)
  launchState x [] [{ demoL2 1 with data := BitVec.ofNat 1024 (leBytes bytes) }, { imageLine 1 with data := 0xBBAA }]
def preloadDemo : State := { preloadState .candidate 0x40040 with launches := [(2, preloadLaunch .candidate)] }

def bytesOf : Got → List Byte
  | .bytes bs => bs
  | _ => []

/-- A tag that no request has, a status above 1, and both answers to a request that holds four lanes; a list that is about to be read, one that
can be copied, and one with a bad entry; a place in the weight store. -/
theorem witness_RepliesAndPreloads :
    (let s := replyState
     s.hostUp = true ∧ s.mmu.requests.find? (fun r => r.func = 0 && r.slot + 256 * r.gen = fld (replyValue 7 0) 0 16) = none
       ∧ 2 ≤ fld (replyValue 259 2) 16 2 ∧ fld (replyValue 259 0) 16 2 = 0 ∧ fld (replyValue 259 1) 16 2 = 1
       ∧ (∀ n ∈ [0, 1, 2], s.mmu.requests.find? (fun r => r.func = 0 && r.slot + 256 * r.gen = fld (replyValue 259 n) 0 16) = some parkedReq)
       ∧ parkedReq.engines = [] ∧ parkedReq.lanes = [{ split := ref10, lanes := 0xF, addr := 0x40004, access := .write }] ∧ s.ctxOf ref10 = some (ctxOfSplit parkedSplit)
       ∧ parkedSplit.wait = .parked ∧ parkedSplit.pendingTrap = none)
      ∧ (let s := preloadDemo
         let l := preloadLaunch .candidate
         s.launch? 2 = some l ∧ l.state = .candidate ∧ l.npreload ≠ 0 ∧ depsMet s l = true ∧ depBroken s l = false ∧ queueOk s l = true
           ∧ (∀ e ∈ s.launches, e.2.part = l.part → e.2.age < l.age → e.2.ended = true))
      ∧ (∀ src ∈ [0x40040, 0x40041], let s := preloadState .preloading src
         let l := preloadLaunch .preloading
         let r := launchRead s 2 l .engRead l.preload.toNat (16 * l.npreload)
         s.launch? 2 = some l ∧ l.state = .preloading ∧ l.closing = none ∧ s.asking (.launch 2) = false ∧ r.2 = .bytes (bytesOf r.2) ∧ 0 < l.npreload
           ∧ (if src = 0x40040 then preloadRun r.1 2 l (preloadEntries l (bytesOf r.2)) = ((preloadRun r.1 2 l (preloadEntries l (bytesOf r.2))).1, .done)
              else numAt (bytesOf r.2) 0 8 % 64 ≠ 0))
      ∧ (demo.wf ∧ 8 + [1#8, 2#8].length ≤ demo.wsBytes 0 ∧ 9 < demo.wsBytes 0) := by
  unfold State.wf
  refine ⟨?_, ?_, ?_, ?_⟩ <;> decide +kernel

/-! Pre-emption, saved contexts and the watchdog. -/

def snap : Snapshot :=
  { header := 0x11000, mask := 0xF#64, depth := 0, fmt := 3, skew := 0, preds := [(1, 5)], trecs := [], sregs := [(3, 9)], vregs := [], streams := [], start := 5 }
/-- In a billet, past its header; and at crew barrier 0, before the safe point of its image at 0x11000, where s1 and s3 are live. -/
def billetSplit : Split := { demoSplit with billet := some snap }
def waitSplit : Split := { demoSplit with pc := 0x10FF8, wait := .bar 0 0, clause := none }
/-- At trap level, from the header at which its billet ended. -/
def trappedSplit : Split := { trapSplit with trap := trapSplit.trap.map fun k => { k with billet := some snap } }
def safeLaunch : Launch :=
  { demoLaunch with img := some { goodImage with code := 0x1000, safe := [(0, BitVec.twoPow 256 4, 10)] } }
def askedCrew : Crew := { demoCrew with preempt := true }
def savedCrew : Crew := { demoCrew with saved := true }
def matrixGroup : Group := { demoGroup with role := .matrix }
def contextGroup : Group := { demoGroup with splits := [(0, waitSplit)], region := 0x40000 }
def crewState (cr : Crew) (g : Group) : State :=
  let s := demoOf demoSplit g cr safeLaunch
  { s with groups := [(1, g)], tenants := [(1, placeTenant)], parts := [(0, { s.part 0 with req := 1 })]
           mmu := { s.mmu with l1tlb := [(ctlCore, [demoPage .dir 0x100000])] } }
/-- Slot 3 is claimed, the array holds an element, and the scratchpad a byte. -/
def fullCore (s : State) : State :=
  s.setCore 0 { s.core 0 with scratch := [(0x123, 0x77)], claims := [(3, 32)], acc := [(5, 6)] }

/-- A crew whose pre-emption has been asked for, with a split in a billet and one at a barrier; a launch with work under way, and one with
an eligible split; a crew saved, with and without a matrix role. -/
theorem witness_PreemptionAndContexts :
    (∀ sp ∈ [billetSplit, waitSplit, trappedSplit],
        let g := { demoGroup with splits := [(0, sp)] }
        let s := crewState askedCrew g
        s.cordCrews 1 0 = [(1, askedCrew)] ∧ s.crew? 1 = some askedCrew ∧ askedCrew.preempt = true ∧ askedCrew.saved = false ∧ s.tidy
          ∧ (∀ e ∈ s.caches.l1, e.2.core = 0 → e.2.perm ≠ .sinv) ∧ s.caches.busy = [] ∧ s.dev.pairs = [] ∧ s.failing 1 = false ∧ (s.core 0).ops = []
          ∧ s.ctxOf ref10 = some { r := ref10, g := g, sp := sp, crew := askedCrew, launch := safeLaunch } ∧ (s.core 0).cmds = [])
      ∧ (billetSplit.trap = none ∧ ∃ tr, trappedSplit.trap = some tr ∧ (tr.billet.orElse fun _ => trappedSplit.billet) = some snap)
      ∧ (billetSplit.waitHeader = none ∧ billetSplit.clause.isSome = true ∧ billetSplit.billet = some snap ∧ waitSplit.waitHeader = some 0x11000
        ∧ (((safeLaunch.safeAt 0x11000).getD (0, 0)).2).getLsbD 3 = true)
      ∧ ((withCmd demo (engineCmd .cpt)).launchBusy 1 = true ∧ demo.launchBusy 1 = false ∧ demo.tidy ∧ demo.launch? 1 = some demoLaunch
        ∧ demoLaunch.state.live = true ∧ demo.group? 1 = some demoGroup ∧ demoGroup.launch = 1 ∧ demo.eligible ref10 = true
        ∧ demo.failing 1 = false ∧ demoLaunch.closing = none ∧ demoTenant.ringSet = false ∧ demo.unreleased 1 demoLaunch = false
        ∧ demo.caches.l1 = [] ∧ demo.caches.busy = []
        ∧ ∀ e ∈ demo.groups, e.2.launch = 1 → (demo.crew? e.2.crew).map (·.launch) = some 1)
      ∧ (Tbl.find? contextGroup.splits 0 = some waitSplit ∧ (∀ e ∈ contextGroup.splits, e.1 < 4) ∧ (contextGroup.splits.map (·.1)).Nodup
        ∧ waitSplit.stack.length < 2048 ∧ contextScalars safeLaunch waitSplit = [1, 3] ∧ contextRows safeLaunch contextGroup = [4])
      ∧ (∀ g ∈ [contextGroup, matrixGroup], let s := fullCore (crewState savedCrew g)
         s.crew? 1 = some savedCrew ∧ savedCrew.saved = true ∧ savedCrew.toSave = [] ∧ Tbl.find? s.lazy 1 = none
           ∧ s.tenant? (s.tenantOf savedCrew) = some placeTenant ∧ placeTenant.freeMega = some 0)
      ∧ (fullCore (crewState savedCrew matrixGroup)).hasMatrix 1 = true := by
  unfold State.tidy
  refine ⟨?_, ⟨rfl, _, rfl, rfl⟩, ?_, ?_, ?_, ?_, ?_⟩ <;> decide +kernel

/-- The 66 lines of the group's context, from its layout (Table 15.6); in the second form a word that may not change has. -/
def contextLine (bad : Bool) (n : Nat) : Nat :=
  if n = 0 then 0x50000000000000000000000000000000000000000000000000000000000000001
  else if n = 2 then
    0x70000000000010000000000000000000a00000000000820000000000000000000000000000000000f0000000000010ff8
  else if n = 32 then 0x8000000000000005fffffff90000000700000000000000000000000000000104
  else if bad && n = 1 then 1 else 0
/-- A saved crew whose cord can go on, its lazy state in place and its contexts in the L2. -/
def resumeState (bad : Bool) : State :=
  let s := fullCore (crewState savedCrew contextGroup)
  withL2 s ((List.range 66).map fun n =>
    { demoL2 1 with line := 0x2000 + n, set := 128 + n / 4 % 2, slice := n / 8 * 4 + n % 4, data := BitVec.ofNat 1024 (contextLine bad n) })
def resumeRead (bad : Bool) : State × Got × List (Nat × Group) × Bool :=
  readContexts (resumeState bad) 1 safeLaunch ((resumeState bad).groupsOf 1)
/-- One group comes back, with no token due, and whether a word has changed. -/
def resumeReads (r : State × Got × List (Nat × Group) × Bool) : Option Bool :=
  match r with
  | (t, .bytes [], [(1, g)], c) => if (t.group? 1).isSome && g.splits.all fun p => p.2.tokens.isEmpty then some c else none
  | _ => none
theorem witness_PreemptionAndContexts_resume :
    ∀ bad, let s := resumeState bad
    s.cordCrews 1 0 = [(1, savedCrew)] ∧ s.crew? 1 = some savedCrew ∧ s.launch? 1 = some safeLaunch ∧ savedCrew.saved = true ∧ savedCrew.toSave = []
      ∧ (s.part safeLaunch.part).pstate ≠ 2 ∧ s.asking (.launch 1) = false ∧ s.turnBack safeLaunch = true
      ∧ (List.range 8).findSome? (fun k => s.planBack (s.pairCores safeLaunch.part safeLaunch.il k) [(1, savedCrew)] []) = some [(1, 0, 0)]
      ∧ resumeReads (resumeRead bad) = some bad := by
  decide +kernel

/-- The words at the edges of what system software may change: PC, FMT, the scalar values and the rows; and their neighbours. -/
theorem test_contextOpen : ([0x100, 0x110, 0x128, 0x1A0, 0x400, 0xAA0, 0x1010, 0x1108, 0x1120, 0x20F8].all fun a => contextOpen (a / 8)) = true
    ∧ ([0, 8, 0xF8, 0x108, 0x118, 0x120, 0x1A8, 0x3F8, 0xAA8, 0xD00, 0x1000, 0x1008, 0x1110].any fun a => contextOpen (a / 8)) = false
    ∧ contextChanged (List.replicate 1056 0) ((List.replicate 1056 0).set 1 1) = true := by decide +kernel

/-! Errors of the arrays. -/

def errorAt (u : ErrUnit) (c : Option Consumer) (view : Bool) : ErrorSite :=
  { unit := u, index := 0, set := 0, way := 0, part := 0, line := 0x2000, view := view, consumer := c }
/-- A line in an L1 and counted in the L2. -/
def errorState (dirty : Nat) : State :=
  demoOne [(lineKey 0 0x2000 false, { (demoLine 0 0 9 .exclusive).2 with dirty := BitVec.ofNat 128 dirty })] [{ demoL2 2 with unb := some .zero }]
def errorTwice : State :=
  let s := errorState 0
  s.setDev { s.dev with wayErrors := [((s.home 0 (0x2000 * 128)).set * 16, 1)] }

/-- Each of the cases of an error: what it is, and who consumes it; the second error of a way; a bank to refresh with two more under way. -/
theorem witness_ErrorsAndRefresh :
    (let s := errorState 0
     let a := some (Consumer.split ref10)
     s.dev.errcnt < 2 ^ 32 ∧ (errorAt .l1 none false).consumer = none ∧ (s.caches.l1.map (·.1)).Nodup ∧ (s.caches.l2.map (·.1)).Nodup
       ∧ Tbl.find? s.caches.l2 (lineKey 0 0x2000 false) = some { demoL2 2 with unb := some .zero }
       ∧ Tbl.find? s.caches.l1 (lineKey 0 0x2000 false) = some (demoLine 0 0 9 .exclusive).2 ∧ (demoLine 0 0 9 .exclusive).2.dirty = 0
       ∧ s.ctxOf ref10 = some demoOneCtx ∧ demoOneCtx.checked = false ∧ (errorAt .l2 a false).consumer = some (.split ref10)
       ∧ Tbl.find? s.caches.l1 (lineKey 0 0x2000 true) = none
       ∧ (demoL2 2).owner = 31 ∧ (demoL2 2).sharers = 0
       ∧ s.wayRetired 0 (s.home 0 (0x2000 * 128)).set 0 = false)
      ∧ (let s := errorTwice
         Tbl.getD s.dev.wayErrors ((0 * 512 + (s.home 0 (0x2000 * 128)).set) * 16 + 0) 0 = 1)
      ∧ (∀ n ∈ [0, 1, 2], let s := demo.setDev { demo.dev with refresh := (List.range n).map fun i => (i, true) }
          (s.dev.refresh.map (·.1)).Nodup ∧ (if n = 2 then 2 ≤ s.dev.refresh.length else s.dev.refresh.length < 2)) := by
  refine ⟨?_, ?_, ?_⟩ <;> decide +kernel

/-! Answers from outside, and links. -/

def readOut (link : Option Nat) (line : Nat) (write : Bool) : Outbound :=
  { link := link, line := line, write := write, atomic := false, data := 0, mask := 0, who := some (.split ref10 0), va := some 0x40000
    tenant := 1, part := 0 }
def answerState (o : Outbound) : State :=
  { runWith { demoSplit with wait := .answer } with outbound := [(4, o)] }

/-- A read and a posted store, each of a peer and of host memory; a read of a line in host bias. -/
theorem witness_OutboundAnswers :
    (answerState (readOut none 0x2000 false)).region 0 (0x2000 * 128) = .local ∧ ∀ n ∈ [0, 1, 2, 3], let o := readOut (if n < 2 then some 1 else none) (2 ^ 51 / 128) (n % 2 = 1)
      let s := answerState o
      Tbl.find? s.outbound 4 = some o ∧ (s.outbound.map (·.1)).Nodup ∧ o.who = some (.split ref10 0)
        ∧ s.split? ref10 = some { demoSplit with wait := .answer } ∧ o.link.isSome = decide (n < 2) ∧ o.write = (n % 2 = 1)
        ∧ s.region o.part (o.line * 128) = .host := by
  decide +kernel

def linkOf (st : Nat) (claims : List (Nat × Nat)) : Link := { demo.link 1 with state := st, bound := 0, claims := claims }
def peerPage : TlbEntry := { demoPage .dir 0x8000001000 with va := 0x90000 }
/-- Link 1 with a translation into its aperture, a read under way on it, and a line that its peer owns. -/
def linkState (st : Nat) : State :=
  let s := (answerState (readOut (some 1) 0x100000020 false)).setLink 1 (linkOf st [])
  let s := { s with mmu := { s.mmu with l1tlb := [(0, [demoPage .dir 0x100000, peerPage])] }, outbound := [(4, readOut (some 1) 0x100000020 false), (5, { readOut (some 1) 0x100000020 false with who := none })] }
  withL2 s [{ demoL2 2 with owner := 17, sharers := BitVec.twoPow 20 17 }]
def claimMsg (release : Bool) (addr size : Nat) : ClaimMsg := { link := 1, release := release, size := size, addr := addr }
def completeMsg : ClaimMsg := { claimMsg false 0x2000000000 0x1000 with complete := true }
/-- The four lines of a small claim; two lines of a page that has been claimed. -/
def claimState (claims : List (Nat × Nat)) (lines : List Nat) : State :=
  let s := (demo.setPart 0 { demo.part 0 with req := 1, resvN := 4 }).setLink 1 (linkOf 2 claims)
  withL2 s (lines.map fun n => { demoL2 0 with line := 0x40000000 + n, unb := some (.leaving false true), set := (s.home 0 (0x2000000000 + 128 * n)).set
                                               slice := (s.home 0 (0x2000000000 + 128 * n)).slice })

/-- A link that is up, with what is to go, and one that is down; claims that are and are not for the aperture, with and without room, released
by their peer or by nobody, and complete; a line of a claim. -/
theorem witness_PeerLinksAndClaims :
    (∀ st ∈ [0, 2], let s := linkState st
        (s.link 1).state = st ∧ s.migration = none ∧ (s.outbound.map (·.1)).Nodup ∧ (s.caches.l2.map (·.1)).Nodup ∧ (s.link 1).claims = []
          ∧ (∃ e ∈ s.outbound, e.2.isInval 1 = true) ∧ ∀ e ∈ demo.outbound, e.2.isInval 1 = false)
      ∧ (∀ m ∈ [claimMsg false 0x2000000000 0x1000, claimMsg true 0x2000000000 0x1000], m.size ∈ pageSizes
          ∧ 0x2000000000 ≤ m.addr ∧ m.addr + m.size ≤ 0x3000000000 ∧ m.addr % m.size = 0)
      ∧ (claimMsg false 0x2000000000 0x1001).size ∉ pageSizes
      ∧ (claimState [] []).link 1 = linkOf 2 []
      ∧ ((pageLines 0x2000000000 0x1000).foldl (fun (o : Option State) k => o.bind fun s => claimLine s 0 k) (some (claimState [] []))).isSome = true
      ∧ ((pageLines 0x2000000000 0x1000).foldl (fun (o : Option State) k => o.bind fun s => claimLine s 0 k) (some (claimState [] [3]))).isSome = false
      ∧ (completeMsg.complete = true ∧ completeMsg.release = false ∧ (claimMsg false 0x2000000000 0x1000).complete = false)
      ∧ (∀ l ∈ [[0], [0, 1]], let s := claimState [(0x2000000000, 0x1000)] l
          (s.link 1).claims = [(0x2000000000, 0x1000)] ∧ (s.caches.l2.map (·.1)).Nodup
            ∧ (0x2000000000, 0x1000) ∈ (s.link 1).claims
            ∧ (Tbl.find? s.caches.l2 (lineKey 0 0x40000000 false)).map (·.unb) = some (some (.leaving false true))) := by
  refine ⟨?_, ?_, ?_, ?_, ?_, ?_, ?_, ?_⟩ <;> decide +kernel

/-! The comparator, and tests of units. -/

def gateStore : GateStore :=
  { part := 0, line := 0x2000, view := false, cls := .dir, key := 0, late := false, va := 0x40000, lane := 0, data := 0xAB, mask := 1, disc := false }
def actOf (held : Bool) : GateEntry :=
  { split := ref10, grp := 0, launch := 1, tenant := 1, core := 0, pc := 0x11008, kind := 1, lead := 0x40000, cmd := none, held := held, stores := [gateStore] }
def heldSplit : Split := { demoSplit with wait := .check, billet := some snap }
def checkedLaunch (il : Nat) : Launch := { demoLaunch with il := il }
def checkedState (il : Nat) (held : Bool) (mmstat : W64) : State :=
  let s := demoOf heldSplit demoGroup demoCrew (checkedLaunch il)
  let s := s.setPair 0 { s.pair 0 with mode := 2, gate := [actOf held, { actOf true with split := { group := 1, split := 3 } }], mmstat := mmstat }
  { s with caches := { s.caches with l1 := [demoLine 0 0 0x11223344 .exclusive] } }
def unitState (u : Nat) : State :=
  demo.setDev { demo.dev with testing := [(u, true)], score := [(u, 200), (300, 1)], inTest := [(u, true)] }

/-- A held act, a store, and acts that differ, of an IL2 launch and of an IL3 cord in a billet; a unit that is used, one that is idle. -/
theorem witness_ComparedActs :
    (∀ n ∈ [0, 1, 2, 3], let il := 2 + n / 2
        let held := n % 2 = 1
        let s := checkedState il held 0
        let c := ctxWith heldSplit demoGroup demoCrew (checkedLaunch il)
        (s.pair 0).gate = actOf held :: [{ actOf true with split := { group := 1, split := 3 } }] ∧ s.ctxOf ref10 = some c ∧ pairOf c.crew.core = 0
          ∧ (s.pair 0).inject = none ∧ (actOf held).kind ≠ 0 ∧ c.g.grpid < 32 ∧ (s.pair 0).mmstat.getLsbD 4 = false ∧ c.launch.state.live = true
          ∧ c.sp.billet = some snap ∧ c.sp.retry ≠ some snap.header ∧ c.sp.sealed = false ∧ s.tidy)
      ∧ ((actOf true).held = true ∧ (actOf false).held = false ∧ (actOf false).stores = [gateStore] ∧ gateStore.disc = false ∧ gateStore.cls = .dir
        ∧ (checkedState 2 false 0).remote 0 (0x2000 * 128) = none ∧ (checkedState 2 false 0).region 0 (0x2000 * 128) = .local
        ∧ (checkedLaunch 2).closing = none
        ∧ Tbl.find? (checkedState 2 false 0).caches.l1 (lineKey 0 0x2000 false) = some (demoLine 0 0 0x11223344 .exclusive).2)
      ∧ (reportKind (actOf false) 2 = 2 ∧ reportKind { actOf false with kind := 5 } 2 = 5)
      ∧ (∀ u ∈ [0, 1, 130, 8, 225], Tbl.getD (unitState u).dev.testing u false = true ∧ Tbl.getD (unitState u).dev.inTest u false = true
          ∧ ((unitState u).dev.inTest.map (·.1)).Nodup ∧ ((unitState u).dev.testing.map (·.1)).Nodup ∧ ((unitState u).dev.score.map (·.1)).Nodup
          ∧ ((unitState u).unitIdle u = false ↔ u = 0 ∨ u = 130)) := by
  unfold State.tidy
  refine ⟨?_, ?_, ?_, ?_⟩ <;> decide +kernel

/-! Registers of the host, and resets. -/

def pinState (held locked ok : Bool) : State :=
  { demo.setDev { demo.dev with locked := locked, pins := { demo.dev.pins with heldReset := held } } with straps := { demo.straps with bootOk := ok } }

/-- A machine that the host reaches, with both mailboxes idle and busy; a chip held in reset, one that runs its firmware, and one whose boot fails. -/
theorem witness_RegisterWritesAndResets :
    (demo.hostUp = true ∧ (5 : Nat) ≠ 4 ∧ (5 : Nat) ≠ 8 ∧ (0x300004 : Nat) % 8 ≠ 0 ∧ demo.dev.locked = true ∧ State.reset.dev.locked = false
        ∧ demo.dev.mbgo = false ∧ (demo.setDev { demo.dev with mbgo := true }).dev.mbgo = true
        ∧ (demo.setDev { demo.dev with mbgo := true }).hostUp = true ∧ (demo.setDev { demo.dev with locked := false }).hostUp = true)
      ∧ (let s := pinState true false true
         s.dev.pins.heldReset = true ∧ s.straps.bootOk = true)
      ∧ (let s := pinState true false false
         s.dev.pins.heldReset = true ∧ s.straps.bootOk = false)
      ∧ (let s := pinState false false true
         s.dev.pins.heldReset = false ∧ s.dev.locked = false ∧ s.straps.bootOk = true) := by
  decide +kernel

/-! The Collier's mailbox. -/

/-- A command block: OP, the bytes at 4 to 8, and the four at 8. -/
def mbBlock (op b4 b5 b6 b7 w8 : Nat) : Block :=
  BitVec.ofNat 512 (op + b4 * 2 ^ 32 + b5 * 2 ^ 40 + b6 * 2 ^ 48 + b7 * 2 ^ 56 + w8 * 2 ^ 64)
/-- The block waits; the pair of core 0 has this mode, and the demo's crew is there or is not. -/
def mbState (b : Block) (p : Pair) (crew : Bool) : State :=
  let s := demo.setPair 0 p
  { s.setDev { s.dev with mbgo := true, mbcmd := b } with parts := [(0, { s.part 0 with req := 0xFFFF })], crews := if crew then s.crews else [] }
def pairAt (mode : Nat) (apart : Bool) : Pair := { demo.pair 0 with mode := mode, apart := apart }
def retiredCore : State :=
  let s := mbState (mbBlock 0x31 0 0 0 0 0) (pairAt 0 false) false
  s.setDev { s.dev with retired := [(5, true)] }
def splitPart : State :=
  let s := mbState (mbBlock 0x31 0 0 0 0 0) (pairAt 0 false) false
  { s with parts := [(0, { s.part 0 with req := 1 })] }

theorem witness_CollierCommands_pairs :
    (∀ op ∈ [0x31, 0x32, 0x33, 0x34, 0x35, 0x36, 0x37, 0x38], let s := mbState (mbBlock op 0 0 0 0 0) (pairAt 0 false) true
        s.dev.mbgo = true ∧ s.dev.pins.heldReset = false ∧ s.mb 0 4 = op ∧ s.mb 4 1 = 0 ∧ s.mbZero 5 = true)
      ∧ ((mbState (mbBlock 0x31 8 0 0 0 0) (pairAt 0 false) true).mb 4 1 = 8 ∧ (mbState (mbBlock 0x31 7 1 0 0 0) (pairAt 0 false) true).mbZero 5 = false
        ∧ (mbState (mbBlock 0x36 15 0 0 0 0) (pairAt 0 false) true).mb 4 1 = 15 ∧ (mbState (mbBlock 0x36 16 0 0 0 0) (pairAt 0 false) true).mb 4 1 = 16
        ∧ (mbState (mbBlock 0x36 0 0 0 0 0) (pairAt 0 false) true).tidy)
      ∧ (splitPart.clusterPart 0 = some 0 ∧ splitPart.clusterPart 1 = none ∧ retiredCore.clusterPart 0 = retiredCore.clusterPart 1
        ∧ (∃ c ∈ pairedCores 0, retiredCore.coreRetired c = true))
      ∧ (∀ m ∈ [0, 1, 2, 3, 4], let s := mbState (mbBlock 0x31 0 0 0 0 0) (pairAt m false) true
          (s.pair 0).mode = m ∧ s.clusterPart 0 = some 0 ∧ s.clusterPart 1 = some 0 ∧ (∀ c ∈ pairedCores 0, s.coreRetired c = false)
            ∧ s.coresLeft (pairedCores 0) = false ∧ s.coresLeft (leadingCores 0) = false)
      ∧ (∀ m ∈ [1, 4], let s := mbState (mbBlock (if m = 1 then 0x31 else 0x32) 0 0 0 0 0) (pairAt m false) false
          let l := if m = 1 then pairedCores 0 else leadingCores 0
          s.coresLeft l = true ∧ okOf (clearPair s 0 l) = true ∧ (stOf (clearPair s 0 l)).dev = s.dev) := by
  unfold State.tidy
  refine ⟨?_, ?_, ?_, ?_, ?_⟩ <;> decide +kernel

theorem witness_CollierCommands_rest :
    (∀ n ∈ [20, 36, 19, 37], let s := mbState (mbBlock 0x34 15 n 8 0 0) (pairAt 0 false) true
        (s.mb 4 1 < 16 ∧ 8 ≤ s.mb 6 1 ∧ s.mbZero 7 = true) ∧ ((20 ≤ s.mb 5 1 ∧ s.mb 5 1 ≤ 36) ↔ n = 20 ∨ n = 36))
      ∧ (let s := mbState (mbBlock 0x35 1 15 0 0 0xEFFB8) (pairAt 0 false) true
         (1 ≤ s.mb 4 1 ∧ s.mb 4 1 ≤ 63 ∧ s.mb 5 1 < 16 ∧ s.mb 8 4 + 72 ≤ stageSize ∧ s.mb 6 2 = 0 ∧ s.mbZero 0x0C = true)
           ∧ (mbState (mbBlock 0x35 0 15 0 0 0) (pairAt 0 false) true).mb 4 1 = 0)
      ∧ (let s := mbState (mbBlock 0x37 0 0 0 0 0) (pairAt 0 false) true
         (s.mb 8 4 + 336 + 3309 ≤ stageSize ∧ s.mb 4 4 = 0 ∧ s.mb 0x0C 12 = 0 ∧ s.mb 0x1C 4 = 0 ∧ Memory.wf s.dev.ccstage)
           ∧ (mbState (mbBlock 0x37 1 0 0 0 0) (pairAt 0 false) true).mb 4 4 ≠ 0)
      ∧ (∀ p ∈ [pairAt 2 false, pairAt 1 false, { pairAt 2 false with inject := some 0 }],
          let s := mbState (mbBlock 0x38 0 7 31 63 31) p true
          (s.mb 4 1 < 8 ∧ s.mb 5 1 < 8 ∧ s.mb 6 1 < 32 ∧ s.mb 7 1 < 64 ∧ s.mb 8 1 < 32 ∧ s.mbZero 9 = true) ∧ s.pair 0 = p)
      ∧ (mbState (mbBlock 0x38 0 8 31 63 31) (pairAt 2 false) true).mb 5 1 = 8
      ∧ (demo.launch? 1 = some demoLaunch ∧ demoLaunch.part = 0 ∧ demoLaunch.state.live = true ∧ demo.crew? 1 = some demoCrew ∧ demoCrew.launch = 1) := by
  refine ⟨?_, ?_, ?_, ?_, ?_, ?_⟩ <;> decide +kernel
/-- The wrapping key is a free value, and so is whether a wrap opens: each wrap is one of the two cases of KEYLOAD. -/
theorem witness_CollierCommands_keys (s : State) (off : Nat) :
    unwrapKeys (s.stageBytes off 72) = none ∨ ∃ m, unwrapKeys (s.stageBytes off 72) = some m := by
  cases unwrapKeys (s.stageBytes off 72) with
  | none => exact .inl rfl
  | some m => exact .inr ⟨m, rfl⟩

/-! The control core's mailbox. -/

/-- A command block: fields by byte offset and value. -/
def ccBlock (fields : List (Nat × Nat)) : Block := BitVec.ofNat 512 ((fields.map fun e => e.2 * 2 ^ (8 * e.1)).sum)
def ccOn (s : State) (fields : List (Nat × Nat)) : State := s.setDev { s.dev with ccgo := true, cccmd := ccBlock fields }
def ccState (fields : List (Nat × Nat)) (groups : Bool) : State :=
  let s := ccOn demoMem fields
  { s with groups := if groups then s.groups else []
           parts := [(0, { s.part 0 with shadow := [(4, 1), (9, 2)], req := 0xFFFFFF })] }
/-- A TENANT block of the given OPTION and tenant, for partition 0 and function 1. -/
def tenantBlock (opt part id : Nat) : List (Nat × Nat) :=
  [(0, 0x13), (4, part), (5, opt), (0x20, 0x5000000), (0x28, 0), (0x30, id), (0x32, 1), (0x34, 9), (0x38, 2)]
def linkBlock (l : Link) (req : Nat) : State :=
  let s := (ccState [(0, 0x18), (4, 3), (5, 15)] true).setLink 3 l
  { s with parts := [(15, { s.part 15 with req := BitVec.ofNat 24 req })] }

theorem witness_ControlCoreCommands_translations :
    (∀ op ∈ [0x11, 0x12, 0x13, 0x14, 0x15, 0x16, 0x17, 0x18, 0x21, 0x99], let s := ccState [(0, op)] true
        s.dev.ccgo = true ∧ s.dev.locked = true ∧ s.cc 0 4 = op)
      ∧ (∀ kind ∈ [0, 1, 2, 3, 4, 5, 6], let s := ccState [(0, 0x12), (4, 1), (6, kind), (8, 0x40000), (0x10, 0x10000)] true
          s.cc 6 1 = kind ∧ invalMalformed s = false ∧ (s.tenant? (s.cc 4 2)).isSome = true)
      ∧ (∀ kind ∈ [0, 1, 2, 3, 4], (let s := ccState [(0, 0x12), (4, 2), (6, kind), (8, 0x40000), (0x10, 0x10000)] true
          s.cc 6 1 = kind ∧ invalMalformed s = false ∧ (s.tenant? (s.cc 4 2)).isSome = false)
          ∧ (let s := ccState [(0, 0x12), (4, 2), (6, kind), (7, 1)] true
             s.cc 6 1 = kind ∧ invalMalformed s = true))
      ∧ (ccState [(0, 0x12), (4, 1), (6, 7)] true).cc 6 1 = 7
      ∧ (let s := ccState [(0, 0x12), (4, 1), (6, 2)] true
         s.invalWaits 2 1 = false ∧ ({ s with outbound := [(4, readOut (some 1) 0x100000020 true)] } : State).invalWaits 2 1 = true
           ∧ ({ s with outbound := [(4, readOut (some 1) 0x100000020 true)] } : State).invalWaits 6 1 = false) := by
  refine ⟨?_, ?_, ?_, ?_, ?_⟩ <;> decide +kernel

theorem witness_ControlCoreCommands_tenants :
    (∀ id ∈ [1, 2], let s := ccState (tenantBlock 0 15 id) true
        s.cc 5 1 = 0 ∧ s.cc 4 1 < 16 ∧ contextMalformed s = false ∧ s.tenantBusy id = decide (id = 1) ∧ s.cc 0x30 2 = id)
      ∧ (ccState (tenantBlock 2 0 1) true).cc 5 1 = 2 ∧ (ccState (tenantBlock 0 16 1) true).cc 4 1 = 16
      ∧ contextMalformed (ccState ((0x39, 1) :: tenantBlock 0 0 1) true) = true
      ∧ ((ccState (tenantBlock 0 15 1) false).tenantBusy 1 = false ∧ ((ccState (tenantBlock 0 15 1) false).tenant? 1).isSome = true)
      ∧ (∀ id ∈ [1, 2], ∀ gs ∈ [true, false], let s := ccState (tenantBlock 1 0 id) gs
          s.cc 5 1 = 1 ∧ s.cc 4 1 < 16 ∧ (s.tenant? id).isSome = decide (id = 1) ∧ s.tenantBusy id = (decide (id = 1) && gs) ∧ (s.tenants.map (·.1)).Nodup)
      ∧ (ccState (tenantBlock 1 16 1) true).cc 4 1 = 16
      ∧ (∀ n ∈ [3, 4, 12, 13], let s := ccState [(0, 0x14), (4, 1), (6, n), (8, 0x5008), (0x10, 0x6000)] false
          (s.cc 7 1 = 0 ∧ s.cc 8 8 % 8 = 0 ∧ s.cc 0x10 8 % 4096 = 0 ∧ s.cc 0x1C 4 = 0) ∧ ((4 ≤ s.cc 6 1 ∧ s.cc 6 1 ≤ 12) ↔ n = 4 ∨ n = 12)
            ∧ (s.tenant? 1).isSome = true ∧ s.tenantBusy 1 = false)
      ∧ (∀ n ∈ [0x200000, 0x100000], let s := ccState [(0, 0x15), (4, 1), (8, 0x300000), (0x10, n)] false
          (s.cc 6 2 = 0 ∧ s.cc 8 8 % 2 ^ 20 = 0 ∧ s.cc 0x10 8 % 2 ^ 20 = 0 ∧ s.cc 0x1C 4 = 0) ∧ (2 ^ 21 ≤ s.cc 0x10 8 ↔ n = 0x200000)) := by
  refine ⟨?_, ?_, ?_, ?_, ?_, ?_, ?_, ?_, ?_⟩ <;> decide +kernel

/-- A move of the block at 0x200000 that has begun, with what it has admitted. -/
def flipOf (h snooped : Bool) (admitted : List Walker) : BiasFlip :=
  { part := 0, block := 1, toHost := h, admitted := admitted, stalled := [], snooped := snooped }
def flipState (h snooped : Bool) (admitted : List Walker) : State :=
  let s := ccState [(0, 0x16), (4, if h then 1 else 0), (8, 0x200000)] true
  s.setDev { s.dev with biasFlip := some (flipOf h snooped admitted) }
theorem witness_ControlCoreCommands_rest :
    (∀ host ∈ [0, 1, 2], ∀ base ∈ [0x200000, 0x1FFFFFF000], let s := ccState [(0, 0x16), (4, host), (8, base)] true
        s.cc 4 1 = host ∧ s.dev.biasFlip = none ∧ Tbl.canon false 0 s.dev.hostBias = true
          ∧ ((s.cc 8 8 % 2 ^ 21 = 0 ∧ s.cc 8 8 + 2 ^ 21 ≤ s.localBytes 0) ↔ base = 0x200000) ∧ (s.func 0).funcpart = 0)
      ∧ (∀ h ∈ [true, false], ∀ snooped ∈ [true, false], let s := flipState h snooped []
         okOf (purgeLines s (s.blockLines 0 1)) = true ∧ (stOf (purgeLines s (s.blockLines 0 1))).dev.hostBias = s.dev.hostBias
           ∧ s.dev.biasFlip = some (flipOf h snooped []) ∧ (flipOf h snooped []).part = 0 ∧ s.copying (flipOf h snooped []) = false
           ∧ s.straps.cxl3 = true ∧ (stOf (purgeLines s (s.blockLines 0 1))).snoopsSettled = true
           ∧ ({ s with outbound := [(4, { readOut none 0x4000 false with ev := snoopEv })] } : State).snoopsSettled = false)
      ∧ (let s := withCmd (flipState true false [.command 0 1]) { engineCmd .cpl with lanes := [(2, 0x40004, 0x40)] }
         ({ s with mmu := { s.mmu with l1tlb := [] } } : State).copying (flipOf true false [.command 0 1]) = true)
      ∧ (∀ l ∈ [1, 2], let s := ccState [(0, 0x17), (8, l)] true
          s.cc 8 4 = l ∧ (s.launch? l).isSome = decide (l = 1) ∧ (l = 1 → s.launch? 1 = some demoLaunch ∧ demoLaunch.part = s.cc 4 1
            ∧ ∃ e ∈ s.crewsOf 1 0, e.2.saved = false))
      ∧ (∀ b ∈ List.range 5, let l := { demo.link 3 with state := 0, trains := b ≠ 0, attests := b ≠ 1, accepts := b ≠ 3 }
          let s := linkBlock l (if b = 2 then 0 else 0xFFFFFF)
          s.cc 4 1 = 3 ∧ s.cc 5 1 = 15 ∧ s.link 3 = l ∧ (s.part 15).req.getLsbD 20 = decide (b ≠ 2))
      ∧ (linkBlock { demo.link 3 with state := 1 } 0).link 3 = { demo.link 3 with state := 1 } := by
  refine ⟨?_, ?_, ?_, ?_, ?_, ?_⟩ <;> decide +kernel

/-! Migration. -/

def moveBlock (link length : Nat) : List (Nat × Nat) := [(0, 0x11), (4, 1), (6, link), (8, 0x40000), (0x10, length)]
/-- The page of the late framing's demonstration, with or without a framing under way, and link 1 in a state. -/
def moveState (link length linkAt : Nat) (unb late : Bool) : State :=
  let s := lateState 1 none
  let s := ccOn s (moveBlock link length)
  let x := s.part 0
  let s := { s with parts := [(0, { x with req := 0xFFFFFF, late := if late then [lateJob] else [] })] }
  let s := s.setLink 1 { s.link 1 with state := linkAt, bound := 0 }
  withL2 s ([lateLine s 0x1000 (pteNext 2).toNat, lateLine s 0x2000 (pteNext 3).toNat, lateLine s 0x3000 (pteNext 4).toNat
    , lateLine s 0x4200 (pteLeaf 0x2000000 0 0 unb false).toNat
    , { lateLine s 0x2000000000 0x99 with unb := some .written }])
def movePages : List (Nat × W64 × Nat × Nat) := [(0x4200, pteLeaf 0x2000000 0 0 true false, 0x2000000000, 0x1000)]
def moving (step : Nat) (claimed : List (Nat × Nat)) : Migration :=
  { tenant := 1, part := 0, link := 1, base := 0x40000, length := 0x1000, pages := movePages, claimed := claimed, step := step }
def movingState (m : Migration) (out : List (Nat × Outbound)) (lost : Bool) : State :=
  let s := moveState 1 0x1000 2 true false
  let x := s.part 0
  { s with migration := some m, outbound := out
           parts := [(0, { x with lost := if lost then [((s.home 0 0x2000000000).slice, [0x40000000])] else [] })] }
def sentLine : Outbound :=
  { link := some 1, line := 0x40000000, write := true, atomic := false, data := 0x99, mask := BitVec.allOnes 128, who := some .migration, va := none
    tenant := 1, part := 0 }
def someOf {α : Type} (d : α) : Except Nat α → α
  | .ok a => a
  | .error _ => d
def errOf {α : Type} : Except Nat α → Nat
  | .ok _ => 0
  | .error n => n + 1
def pagesRes (s : State) : Res (Except Nat (List (Nat × W64 × Nat × Nat))) :=
  migratePages s 1 { demoTenant with s1root := 0x1000 } 0x40000 (s.cc 0x10 8) (s.cc 0x10 8 / 4096) 0x40000 []

/-- A block that is malformed; a page that is backed; a link that is down; a page in late framing; a range that goes. -/
theorem witness_MigrationSteps_begin :
    (∀ link ∈ [1, 4], let s := moveState link 0x1000 2 true false
        s.dev.ccgo = true ∧ s.dev.locked = true ∧ s.cc 0 4 = 0x11 ∧ s.migration = none ∧ (migrateMalformed s = true ↔ link = 4)
          ∧ s.tenant? (s.cc 4 2) = some { demoTenant with s1root := 0x1000 })
      ∧ (let s := moveState 1 0x1000 2 false false
         okOf (pagesRes s) = true ∧ errOf (valOf (.ok []) (pagesRes s)) = 1 ∧ (stOf (pagesRes s)).migration = none)
      ∧ (∀ n ∈ [0, 1, 2], let s := moveState 1 0x1000 (if n = 1 then 0 else 2) true (n = 2)
         let r := pagesRes s
         okOf r = true ∧ errOf (valOf (.error 9) r) = 0 ∧ someOf [] (valOf (.error 9) r) = movePages ∧ (stOf r).migration = none
           ∧ (stOf r).dev = s.dev ∧ (stOf r).parts = s.parts
           ∧ (((s.link 1).state = 2 ∧ (s.link 1).bound = 0 ∧ (s.part 0).req.getLsbD 18 = true) ↔ n ≠ 1)
           ∧ framing (stOf r) 0 movePages = decide (n = 2)) := by
  refine ⟨?_, ?_, ?_⟩ <;> decide +kernel

/-- Claims that are refused, that are missing, that are granted: with a Lost line, and with none; lines under way and lines that have arrived;
invalidations that are outstanding, and none. -/
theorem witness_MigrationSteps_rest :
    ((moving 2 [(0, 2 ^ 64)]).claimed.find? (fun c => 2 ^ 64 ≤ c.2) = some (0, 2 ^ 64)
        ∧ (moving 2 []).claimed.length ≠ (moving 2 []).pages.length)
      ∧ (∀ lost ∈ [true, false], let m := moving 2 [(0, 0x2000000000)]
         let s := movingState m [] lost
         s.migration = some m ∧ m.step = 2 ∧ m.claimed.find? (fun c => 2 ^ 64 ≤ c.2) = none ∧ m.claimed.length = m.pages.length
           ∧ lostPage s m = if lost then some 0 else none)
      ∧ (∀ n ∈ [2, 3], let m := moving n [(0, 0x2000000000)]
         let s := leaveLines (movingState m [] false) m
         okOf (Res.forEach s (fun s k => (pullLine s m.part k).bind fun s _ => .ok s ()) m.lines) = true
           ∧ ((Tbl.find? s.caches.l2 (lineKey 0 0x40000000 false)).map (·.unb) = some (some (.leaving true false)))
           ∧ ((Tbl.find? (movingState m [] false).caches.l2 (lineKey 0 0x40000000 false)).map m.holds = some true))
      ∧ (∀ n ∈ [0, 1], let m := moving 4 [(0, 0x2000000000)]
         let s := movingState m (if n = 0 then [(7, sentLine)] else []) false
         s.migration = some m ∧ m.step = 4 ∧ s.migrationSettled = decide (n = 1)
           ∧ (n = 1 → okOf (Res.forEach s (fun s i => pointAway s m i) (List.range m.pages.length)) = true))
      ∧ (∀ n ∈ [0, 1], let m := moving 6 [(0, 0x2000000000)]
         let s := movingState m (if n = 0 then [(7, { sentLine with who := none, write := false })] else []) false
         s.migration = some m ∧ m.step = 6 ∧ s.invalsSettled = decide (n = 1) ∧ (s.caches.l2.map (·.1)).Nodup) := by
  refine ⟨?_, ?_, ?_, ?_, ?_⟩ <;> decide +kernel

/-! Reconfiguration. -/

/-- The list that the control core finds in its window. -/
def listState (p n : Nat) (es : List Nat) : State :=
  let s := ccOn demo [(0, 0x21), (4, p), (5, n)]
  s.setDev { s.dev with cclist := writeCells s.dev.cclist 0 (es.flatMap fun e => toBytes 16 e) }
def shareEntry : Nat := 5 + 20 * 2 ^ 8
def addHost : Nat := 1 + 16 * 2 ^ 8
def quotaEntry : Nat := 7 + 32 * 2 ^ 16

/-- Counts out of range; a migration under way, and a peer's claim; a list that fails at its second entry; one that is accepted. -/
theorem witness_Reconfiguration :
    (∀ e ∈ [(16, 1), (15, 1), (0, 0), (0, 64), (0, 65)], let s := listState e.1 e.2 []
        s.dev.ccgo = true ∧ s.dev.locked = true ∧ s.cc 0 4 = 0x21 ∧ s.cc 4 1 = e.1 ∧ s.cc 5 1 = e.2)
      ∧ ({ listState 0 1 [shareEntry] with migration := some (moving 4 []) } : State).migration.isSome = true
      ∧ (let s := (listState 0 1 [shareEntry]).setLink 3 (linkOf 2 [(0x2000000000, 0x1000)])
         (s.link 3).bound = 0 ∧ (s.link 3).claims ≠ [])
      ∧ (let s := listState 0 2 [shareEntry, addHost + 2 ^ 100]
         s.migration = none ∧ (∀ k < 4, (s.link k).claims = []) ∧ s.listEntries 2 = [shareEntry, addHost + 2 ^ 100]
           ∧ checkList s 0 0 (s.listEntries 2) = some (1, 1, 0))
      ∧ (let s := listState 0 3 [shareEntry, addHost, quotaEntry]
         let es := s.listEntries 3
         checkList s 0 0 es = none ∧ okOf (prepareList s 0 es) = true ∧ renumbers es = false ∧ (∀ e ∈ es, entryType e ≠ 8)
           ∧ (∀ e ∈ es, checkEntry s 0 e = none)) := by
  refine ⟨?_, ?_, ?_, ?_, ?_⟩ <;> decide +kernel

/-! Encodings and the step. -/

/-- A word of one instruction and its encoding, one word and two; a reserved opcode at each end of each range. -/
theorem witness_Encodings :
    (Instr.wf true (.smovi { g := always, ty := 4, dst := 5, sa := 0, imm := 0x100 }) = true
        ∧ encode (.smovi { g := always, ty := 4, dst := 5, sa := 0, imm := 0x100 }) = some (0x0000010000058010#64, none)
        ∧ decodeWord true 0x0000010000058010#64 none = .ok (.smovi { g := always, ty := 4, dst := 5, sa := 0, imm := 0x100 }))
      ∧ (Instr.wf true (.vexpr (rf 0 10 4 5 6 7) 0x00FFFFFFF8342610#64) = true
        ∧ encode (.vexpr (rf 0 10 4 5 6 7) 0x00FFFFFFF8342610#64) = some (0x00070605040A007D#64, some 0x00FFFFFFF8342610#64))
      ∧ ∀ n ∈ [0x1A, 0x1F, 0x2F, 0x3F, 0x59, 0x5F, 0x75, 0x77, 0x7E, 0x7F, 0x8B, 0x9F, 0xAE, 0xAF, 0xBC, 0xCF, 0xD9, 0xDF, 0xE6, 0xF7, 0xF9, 0xFF],
          (w64 n).toNat % 256 = n := by
  refine ⟨⟨by decide +kernel, by decide +kernel, rfl⟩, by decide +kernel, by decide +kernel⟩

/-- A canonical memory, in a machine that steps. -/
def oneByte : State := { demo with inputs := [(0, .scoreDecay)], mem := [(5, 7)] }
theorem witness_StepKeepsMemoryCanonical : oneByte.wf ∧ ∃ t, step oneByte = .next t := by
  refine ⟨by unfold State.wf; decide +kernel, ?_⟩
  exact ⟨_, rfl⟩

/-! A word of every instruction, each written out from the field positions of Tables 8.4, 8.5, 8.10 and 12.1 with fields that
differ, and what it decodes to. -/

/-- A word that decodes at level 3. -/
def readsAs (w : W64) (i : Instr) : Prop := decodeWord true w none = .ok i
theorem test_decode_scalar_1 :
    readsAs 0x0000000000000000#64 (.nop (rf 0 0 0 0 0 0x0))
      ∧ readsAs 0x0000003F140A0101#64 (.sadd { rf 0 10 20 63 0 0x0 with g := guarded 1 false })
      ∧ readsAs 0x0000003E150B3302#64 (.ssub { rf 1 11 21 62 0 0x0 with g := guarded 3 true })
      ∧ readsAs 0xFFF200FF023D9F03#64 (.smul { rf 4 61 2 255 0 0xFFF2 with g := guarded 15 true })
      ∧ readsAs 0x0000003C170DA004#64 (.smulh (rf 5 13 23 60 0 0x0))
      ∧ readsAs 0x0000003B180E0605#64 (.sdiv { rf 0 14 24 59 0 0x0 with g := guarded 6 false })
      ∧ readsAs 0xFFF500FF053A2006#64 (.srem (rf 1 58 5 255 0 0xFFF5))
      ∧ readsAs 0x000000391A108107#64 (.sand { rf 4 16 26 57 0 0x0 with g := guarded 1 false })
      ∧ readsAs 0x000000381B11B308#64 (.sor { rf 5 17 27 56 0 0x0 with g := guarded 3 true })
      ∧ readsAs 0xFFF800FF08371F09#64 (.sxor { rf 0 55 8 255 0 0xFFF8 with g := guarded 15 true })
      ∧ readsAs 0x000000361D13200A#64 (.sshl (rf 1 19 29 54 0 0x0))
      ∧ readsAs 0x000000351E14860B#64 (.sshr { rf 4 20 30 53 0 0x0 with g := guarded 6 false })
      ∧ readsAs 0xFFFB00FF0B34A00C#64 (.smin (rf 5 52 11 255 0 0xFFFB))
      ∧ readsAs 0x000000332016010D#64 (.smax { rf 0 22 32 51 0 0x0 with g := guarded 1 false })
      ∧ readsAs 0x0000053F040FB30E#64 (.scmp { rf 5 15 4 63 5 0x0 with g := guarded 3 true })
      ∧ readsAs 0x000000003E079F0F#64 (.smov { rf 4 7 62 0 0 0x0 with g := guarded 15 true })
      ∧ readsAs 0x8000000100052010#64 (.smovi { g := always, ty := 1, dst := 5, sa := 0, imm := 0x80000001 })
      ∧ readsAs 0xFFFFFFFF003F8611#64 (.smovhi { g := guarded 6 false, ty := 4, dst := 63, sa := 0, imm := 0xFFFFFFFF })
      ∧ readsAs 0x0000070504038012#64 (.slea (rf 4 3 4 5 7 0x0))
      ∧ readsAs 0x00000F0504030113#64 (.ssel { rf 0 3 4 5 15 0x0 with g := guarded 1 false }) := by
  refine ⟨rfl, rfl, rfl, rfl, rfl, rfl, rfl, rfl, rfl, rfl, rfl, rfl, rfl, rfl, rfl, rfl, rfl, rfl, rfl, rfl⟩
theorem test_decode_scalar_2 :
    readsAs 0x000300000403B314#64 (.sbit { rf 5 3 4 0 0 0x3 with g := guarded 3 true })
      ∧ readsAs 0x0001011F04033F15#64 (.sbfx { rf 1 3 4 31 1 0x1 with g := guarded 15 true })
      ∧ readsAs 0x0000000017030016#64 (.srd (rf 0 3 23 0 0 0x0))
      ∧ readsAs 0x0000000009130617#64 (.swr { rf 0 19 9 0 0 0x0 with g := guarded 6 false })
      ∧ readsAs 0x0000000009000018#64 (.sfmt (rf 0 0 9 0 0 0x0))
      ∧ readsAs 0x0031000000000118#64 (.sfmtRnd { rf 0 0 0 0 0 0x31 with g := guarded 1 false })
      ∧ readsAs 0x0012000000001318#64 (.sfmtSat { rf 0 0 0 0 0 0x12 with g := guarded 3 true })
      ∧ readsAs 0x0013000000001F18#64 (.sfmtAtb { rf 0 0 0 0 0 0x13 with g := guarded 15 true })
      ∧ readsAs 0x000200000E090019#64 (.vote (rf 0 9 14 0 0 0x2)) := by
  refine ⟨rfl, rfl, rfl, rfl, rfl, rfl, rfl, rfl, rfl⟩
theorem test_decode_control :
    readsAs 0xFFFFFFFE00000620#64 (.bra { g := guarded 6 false, ty := 0, dst := 0, sa := 0, off := 0xFFFFFFFE })
      ∧ readsAs 0x00000000FF000021#64 (.brx (rf 0 0 255 0 0 0x0))
      ∧ readsAs 0x00000009001F0122#64 (.call { g := guarded 1 false, ty := 0, dst := 31, sa := 0, off := 0x9 })
      ∧ readsAs 0x000000001F001323#64 (.ret { rf 0 0 31 0 0 0x0 with g := guarded 3 true })
      ∧ readsAs 0x7FFFFFFF00000024#64 (.rcvp { g := always, ty := 0, dst := 0, sa := 0, off := 0x7FFFFFFF })
      ∧ readsAs 0x0000000000000025#64 (.join (rf 0 0 0 0 0 0x0))
      ∧ readsAs 0x0000000000001F26#64 (.exit { rf 0 0 0 0 0 0x0 with g := guarded 15 true })
      ∧ readsAs 0x00000FFF00000027#64 (.pause { g := always, ty := 0, dst := 0, sa := 0, imm := 0xFFF })
      ∧ readsAs 0xFFFFFFFC06000628#64 (.loop { g := guarded 6 false, ty := 0, dst := 0, sa := 6, off := 0xFFFFFFFC })
      ∧ readsAs 0x000000000B070029#64 (.launch (rf 0 7 11 0 0 0x0))
      ∧ readsAs 0x020F00000000002A#64 (.bar (rf 0 0 0 0 0 0x20F))
      ∧ readsAs 0x041300000000002A#64 (.barArv (rf 0 0 0 0 0 0x413))
      ∧ readsAs 0x000300000000002B#64 (.cbar (rf 0 0 0 0 0 0x3))
      ∧ readsAs 0x000F00000800012C#64 (.rget { rf 0 0 8 0 0 0xF with g := guarded 1 false })
      ∧ readsAs 0x000700000800132D#64 (.rput { rf 0 0 8 0 0 0x7 with g := guarded 3 true }) := by
  refine ⟨rfl, rfl, rfl, rfl, rfl, rfl, rfl, rfl, rfl, rfl, rfl, rfl, rfl, rfl, rfl⟩
theorem test_decode_integer_1 :
    readsAs 0x000000FFC8001F40#64 (.vadd { rf 0 0 200 255 0 0x0 with g := guarded 15 true })
      ∧ readsAs 0x8000003F66028041#64 (.vsub (rf 4 2 102 63 0 0x8000))
      ∧ readsAs 0x000000FDCA022642#64 (.vmul { rf 1 2 202 253 0 0x0 with g := guarded 6 false })
      ∧ readsAs 0x8000003F6A068043#64 (.vmulh (rf 4 6 106 63 0 0x8000))
      ∧ readsAs 0x8001060904028144#64 (.vmad { rf 4 2 4 9 6 0x8001 with g := guarded 1 false })
      ∧ readsAs 0x8000003F6E0A9345#64 (.vdiv { rf 4 10 110 63 0 0x8000 with g := guarded 3 true })
      ∧ readsAs 0x000000F9CE063F46#64 (.vrem { rf 1 6 206 249 0 0x0 with g := guarded 15 true })
      ∧ readsAs 0x8000003F720E8047#64 (.vmin (rf 4 14 114 63 0 0x8000))
      ∧ readsAs 0x000000F7D0080648#64 (.vmax { rf 0 8 208 247 0 0x0 with g := guarded 6 false })
      ∧ readsAs 0x00010000FEFFC049#64 (.vabs (rf 6 255 254 0 0 0x1))
      ∧ readsAs 0x00010000FEFFC14A#64 (.vneg { rf 6 255 254 0 0 0x1 with g := guarded 1 false })
      ∧ readsAs 0x8000003F7A16934B#64 (.vand { rf 4 22 122 63 0 0x8000 with g := guarded 3 true })
      ∧ readsAs 0x000000F3D40C1F4C#64 (.vor { rf 0 12 212 243 0 0x0 with g := guarded 15 true })
      ∧ readsAs 0x8000003F7E1A804D#64 (.vxor (rf 4 26 126 63 0 0x8000))
      ∧ readsAs 0x00000000FEFFC64E#64 (.vnot { rf 6 255 254 0 0 0x0 with g := guarded 6 false })
      ∧ readsAs 0x8000003F821E804F#64 (.vshl (rf 4 30 130 63 0 0x8000))
      ∧ readsAs 0x000000EFD8100150#64 (.vshr { rf 0 16 216 239 0 0x0 with g := guarded 1 false })
      ∧ readsAs 0x8000003F86229351#64 (.vrot { rf 4 34 134 63 0 0x8000 with g := guarded 3 true })
      ∧ readsAs 0x0001182804029F52#64 (.vbfx { rf 4 2 4 40 24 0x1 with g := guarded 15 true })
      ∧ readsAs 0x0002000005032053#64 (.vbit (rf 1 3 5 0 0 0x2)) := by
  refine ⟨rfl, rfl, rfl, rfl, rfl, rfl, rfl, rfl, rfl, rfl, rfl, rfl, rfl, rfl, rfl, rfl, rfl, rfl, rfl, rfl⟩
theorem test_decode_integer_2 :
    readsAs 0x0004000C0A090654#64 (.vcmp { rf 0 9 10 12 0 0x4 with g := guarded 6 false })
      ∧ readsAs 0x0000030C0A090055#64 (.vsel (rf 0 9 10 12 3 0x0))
      ∧ readsAs 0x8000000C00090156#64 (.vmov { rf 0 9 0 12 0 0x8000 with g := guarded 1 false })
      ∧ readsAs 0x3F80000000FF1357#64 (.vmovi { g := guarded 3 true, ty := 0, dst := 255, sa := 0, imm := 0x3F800000 })
      ∧ readsAs 0x000700210A089F58#64 (.vlea { rf 4 8 10 33 0 0x7 with g := guarded 15 true }) := by
  refine ⟨rfl, rfl, rfl, rfl, rfl⟩
theorem test_decode_float_1 :
    readsAs 0x0000000000000060#64 (.fadd (rf 0 0 0 0 0 0x0))
      ∧ readsAs 0x0000000604022661#64 (.fsub { rf 1 2 4 6 0 0x0 with g := guarded 6 false })
      ∧ readsAs 0x0000000C08044062#64 (.fmul (rf 2 4 8 12 0 0x0))
      ∧ readsAs 0x4000030204052163#64 (.ffma { rf 1 5 4 2 3 0x4000 with g := guarded 1 false })
      ∧ readsAs 0x0000001810081364#64 (.fmin { rf 0 8 16 24 0 0x0 with g := guarded 3 true })
      ∧ readsAs 0x0000001E140A3F65#64 (.fmax { rf 1 10 20 30 0 0x0 with g := guarded 15 true })
      ∧ readsAs 0x00000000FA066066#64 (.fabs (rf 3 6 250 0 0 0x0))
      ∧ readsAs 0x00000000FA066667#64 (.fneg { rf 3 6 250 0 0 0x0 with g := guarded 6 false })
      ∧ readsAs 0x00070006040F6068#64 (.fcmp (rf 3 15 4 6 0 0x7))
      ∧ readsAs 0x00000000040F6169#64 (.fclass { rf 3 15 4 0 0 0x0 with g := guarded 1 false })
      ∧ readsAs 0x8000003C0301136A#64 (.fdiv { rf 0 1 3 60 0 0x8000 with g := guarded 3 true })
      ∧ readsAs 0x0000000080001F6B#64 (.fsqrt { rf 0 0 128 0 0 0x0 with g := guarded 15 true })
      ∧ readsAs 0x000000008101206C#64 (.frcp (rf 1 1 129 0 0 0x0))
      ∧ readsAs 0x000000008202466D#64 (.frsq { rf 2 2 130 0 0 0x0 with g := guarded 6 false })
      ∧ readsAs 0x000000008303006E#64 (.fexp2 (rf 0 3 131 0 0 0x0))
      ∧ readsAs 0x000000008404216F#64 (.flog2 { rf 1 4 132 0 0 0x0 with g := guarded 1 false })
      ∧ readsAs 0x0000000085055370#64 (.fsin { rf 2 5 133 0 0 0x0 with g := guarded 3 true })
      ∧ readsAs 0x0000000086061F71#64 (.fcos { rf 0 6 134 0 0 0x0 with g := guarded 15 true })
      ∧ readsAs 0x0000000087072072#64 (.ftanh (rf 1 7 135 0 0 0x0))
      ∧ readsAs 0x0000000088084673#64 (.fact { rf 2 8 136 0 0 0x0 with g := guarded 6 false }) := by
  refine ⟨rfl, rfl, rfl, rfl, rfl, rfl, rfl, rfl, rfl, rfl, rfl, rfl, rfl, rfl, rfl, rfl, rfl, rfl, rfl, rfl⟩
theorem test_decode_float_2 :
    readsAs 0xC000040302014074#64 (.fdot2 (rf 2 1 2 3 4 0xC000))
      ∧ readsAs 0x038C000B02030178#64 (.cvt { rf 0 3 2 11 0 0x38C with g := guarded 1 false })
      ∧ readsAs 0x1007000302011379#64 (.pack { rf 0 1 2 3 0 0x1007 with g := guarded 3 true })
      ∧ readsAs 0x0060000002041F7A#64 (.unpk { rf 0 4 2 0 0 0x60 with g := guarded 15 true })
      ∧ readsAs 0x000000090402607B#64 (.fscl (rf 3 2 4 9 0 0x0))
      ∧ readsAs 0x040000000402067C#64 (.fround { rf 0 2 4 0 0 0x400 with g := guarded 6 false }) := by
  refine ⟨rfl, rfl, rfl, rfl, rfl, rfl⟩
theorem test_decode_lanes :
    readsAs 0x00E4000002010080#64 (.qswz (rf 0 1 2 0 0 0xE4))
      ∧ readsAs 0x0003000004028181#64 (.qbcast { rf 4 2 4 0 0 0x3 with g := guarded 1 false })
      ∧ readsAs 0x0006000003011382#64 (.lxchg { rf 0 1 3 0 0 0x6 with g := guarded 3 true })
      ∧ readsAs 0x8000003C03011F83#64 (.lshfl { rf 0 1 3 60 0 0x8000 with g := guarded 15 true })
      ∧ readsAs 0x003F000003010084#64 (.lrot (rf 0 1 3 0 0 0x3F))
      ∧ readsAs 0x0018000003010685#64 (.lscan { rf 0 1 3 0 0 0x18 with g := guarded 6 false })
      ∧ readsAs 0x00250000033F2086#64 (.lred (rf 1 63 3 0 0 0x25))
      ∧ readsAs 0x0001000000010187#64 (.lidx { rf 0 1 0 0 0 0x1 with g := guarded 1 false })
      ∧ readsAs 0x0000000004029388#64 (.qhelp { rf 4 2 4 0 0 0x0 with g := guarded 3 true })
      ∧ readsAs 0x0001000008001F89#64 (.atload { rf 0 0 8 0 0 0x1 with g := guarded 15 true })
      ∧ readsAs 0x000100000000008A#64 (.atbind (rf 0 0 0 0 0 0x1)) := by
  refine ⟨rfl, rfl, rfl, rfl, rfl, rfl, rfl, rfl, rfl, rfl, rfl⟩
theorem test_decode_memory :
    readsAs 0x800000010208C6A0#64 (.ld { mf 6 8 2 1 0 0 0 0x8000 with g := guarded 6 false })
      ∧ readsAs 0xFFF8B3010304A0A1#64 (.st (mf 5 4 3 1 3 2 5 0xFFF8))
      ∧ readsAs 0x00042A00020881A2#64 (.lds { mf 4 8 2 0 2 1 1 0x4 with g := guarded 1 false })
      ∧ readsAs 0x00010000020813A3#64 (.sts { mf 0 8 2 0 0 0 0 0x1 with g := guarded 3 true })
      ∧ readsAs 0x7FFF000002087FA4#64 (.ldw { mf 3 8 2 0 0 0 0 0x7FFF with g := guarded 15 true })
      ∧ readsAs 0x800EFC00020EA0A5#64 (.atom (mf 5 14 2 0 4 3 7 0x800E))
      ∧ readsAs 0x00080900020CA6A6#64 (.cas { mf 5 12 2 0 1 1 0 0x8 with g := guarded 6 false })
      ∧ readsAs 0x7FF30000020380A7#64 (.atoms (mf 4 3 2 0 0 0 0 0x7FF3))
      ∧ readsAs 0x00110000000001A8#64 (.fenceAcq { rf 0 0 0 0 0 0x11 with g := guarded 1 false })
      ∧ readsAs 0xFF020000000013A8#64 (.fenceRel { rf 0 0 0 0 0 0xFF02 with g := guarded 3 true })
      ∧ readsAs 0x000F000000001FA8#64 (.fenceFull { rf 0 0 0 0 0 0xF with g := guarded 15 true })
      ∧ readsAs 0x00041C00020000A9#64 (.dcf (mf 0 0 2 0 4 3 0 0x4))
      ∧ readsAs 0x00048003020006AA#64 (.disc { mf 0 0 2 3 0 0 4 0x4 with g := guarded 6 false })
      ∧ readsAs 0x00002000020000AB#64 (.prf (mf 0 0 2 0 0 0 1 0x0))
      ∧ readsAs 0x00000000020001AC#64 (.wback { mf 0 0 2 0 0 0 0 0x0 with g := guarded 1 false })
      ∧ readsAs 0xFF800000020013AD#64 (.sinv { mf 0 0 2 0 0 0 0 0xFF80 with g := guarded 3 true }) := by
  refine ⟨rfl, rfl, rfl, rfl, rfl, rfl, rfl, rfl, rfl, rfl, rfl, rfl, rfl, rfl, rfl, rfl⟩
theorem test_decode_copy :
    readsAs 0x033F0A00020880B0#64 (.cpl (mf 4 8 2 0 2 1 0 0x33F))
      ∧ readsAs 0x030553040208C6B1#64 (.cps { mf 6 8 2 4 3 2 2 0x305 with g := guarded 6 false })
      ∧ readsAs 0x009B0C0A070500B2#64 (.cpt (rf 0 5 7 10 12 0x9B))
      ∧ readsAs 0x07890C0A070501B3#64 (.cptw { rf 0 5 7 10 12 0x789 with g := guarded 1 false })
      ∧ readsAs 0x00400000020713B4#64 (.tload { mf 0 7 2 0 0 0 0 0x40 with g := guarded 3 true })
      ∧ readsAs 0x0000200002091FB5#64 (.tbinit { mf 0 9 2 0 0 0 1 0x0 with g := guarded 15 true })
      ∧ readsAs 0x00001200020900B6#64 (.tbarr (mf 0 9 2 0 2 2 0 0x0))
      ∧ readsAs 0x00080000020906B7#64 (.tbexp { mf 0 9 2 0 0 0 0 0x8 with g := guarded 6 false })
      ∧ readsAs 0x00000900020900B8#64 (.tbtest (mf 0 9 2 0 1 1 0 0x0))
      ∧ readsAs 0x003209FF070001B9#64 (.gset { rf 0 0 7 255 9 0x32 with g := guarded 1 false })
      ∧ readsAs 0x001F000000F013BA#64 (.gget { rf 0 240 0 0 0 0x1F with g := guarded 3 true })
      ∧ readsAs 0x0003000000001FBB#64 (.gstop { rf 0 0 0 0 0 0x3 with g := guarded 15 true }) := by
  refine ⟨rfl, rfl, rfl, rfl, rfl, rfl, rfl, rfl, rfl, rfl, rfl, rfl⟩
theorem test_decode_matrix :
    readsAs 0x0000000000C300D0#64 (.oclaim { first := 3, countM1 := 12 })
      ∧ readsAs 0x00000000000F00D1#64 (.orel { first := 15, countM1 := 0 })
      ∧ readsAs 0x00004E21A54600D2#64 (.mmul { reg := { acc := 2, mc := 1, nc := 0 }, aslot := 5, bslot := 9, ksM1 := 6, arow := 16, brow := 24, cord := true, rgl := 4 })
      ∧ readsAs 0x0000000003E800D3#64 (.mmulz { reg := { acc := 0, mc := 2, nc := 2 }, aslot := 15, bslot := 0, ksM1 := 0, arow := 0, brow := 0, cord := false, rgl := 0 })
      ∧ readsAs 0xFC000000C00100D4#64 (.mdrainV { reg := { acc := 1, mc := 0, nc := 0 }, rega := 192, regb := 0, regc := 0, hi := 0xFC00 })
      ∧ readsAs 0x00513C0B0A5800D4#64 (.mdrainS { reg := { acc := 0, mc := 2, nc := 1 }, rega := 10, regb := 11, regc := 60, hi := 0x51 })
      ∧ readsAs 0x03CF02013F9700D4#64 (.mdrainG { reg := { acc := 3, mc := 1, nc := 1 }, rega := 63, regb := 1, regc := 2, hi := 0x3CF })
      ∧ readsAs 0x000000007F9300D5#64 (.mbyp { reg := { acc := 3, mc := 0, nc := 1 }, oslot := 14, orow := 31 })
      ∧ readsAs 0x00000000006400D6#64 (.mzero { reg := { acc := 0, mc := 1, nc := 2 }, int := true })
      ∧ readsAs 0x000000060E2100D7#64 (.msclRow { sa := 33, first8 := 7, countM1 := 24 })
      ∧ readsAs 0x000000003F2100D7#64 (.msclCol { sa := 33, first8 := 31, countM1 := 0 })
      ∧ readsAs 0x00000000003F00D8#64 (.mprog { dst := 63 }) := by
  refine ⟨rfl, rfl, rfl, rfl, rfl, rfl, rfl, rfl, rfl, rfl, rfl, rfl⟩
theorem test_decode_system :
    readsAs 0x0000002A000000E0#64 (.trap { g := always, ty := 0, dst := 0, sa := 0, imm := 0x2A })
      ∧ readsAs 0x00000000000006E1#64 (.tret { rf 0 0 0 0 0 0x0 with g := guarded 6 false })
      ∧ readsAs 0xFFFFFFFF000000E2#64 (.brk { g := always, ty := 0, dst := 0, sa := 0, imm := 0xFFFFFFFF })
      ∧ readsAs 0x00140000000901E3#64 (.fpcnt { rf 0 9 0 0 0 0x14 with g := guarded 1 false })
      ∧ readsAs 0x002F0000000913E3#64 (.fpcntClr { rf 0 9 0 0 0 0x2F with g := guarded 3 true })
      ∧ readsAs 0x0040000000091FE3#64 (.fpcntClrall { rf 0 9 0 0 0 0x40 with g := guarded 15 true })
      ∧ readsAs 0x00000000000000E4#64 (.yield (rf 0 0 0 0 0 0x0))
      ∧ readsAs 0x00000000000006E5#64 (.syncEng { rf 0 0 0 0 0 0x0 with g := guarded 6 false })
      ∧ readsAs 0x00010000000000E5#64 (.syncErr (rf 0 0 0 0 0 0x1))
      ∧ readsAs 0x00020000000001E5#64 (.syncCode { rf 0 0 0 0 0 0x2 with g := guarded 1 false })
      ∧ readsAs 0x0000000006BF00F8#64 (.rep { countM1 := 63, step := 10, stride2 := true }) := by
  refine ⟨rfl, rfl, rfl, rfl, rfl, rfl, rfl, rfl, rfl, rfl, rfl⟩
/-- vexpr takes two words; bsync is an instruction at level 2 alone, and vexpr and qhelp at level 3 alone (R218). -/
theorem test_decode_levels :
    decodeWord true 0x00070605040A007D#64 (some 0x00FFFFFFF8342610#64) = .ok (.vexpr (rf 0 10 4 5 6 7) 0x00FFFFFFF8342610#64)
      ∧ decodeWord true 0x00070605040A007D#64 none = .error .reservedField ∧ decodeWord false 0x2E#64 none = .ok (.bsync (rf 0 0 0 0 0 0))
      ∧ decodeWord true 0x2E#64 none = .error .reservedOpcode ∧ decodeWord false 0x0000000004028088#64 none = .error .reservedOpcode
      ∧ decodeWord false 0x00070605040A007D#64 (some 0x00FFFFFFF8342610#64) = .error .reservedOpcode := by
  refine ⟨rfl, rfl, rfl, rfl, rfl, rfl⟩

/-! Well-formedness: for each check of a word, terms that it refuses (R204, R206 to R211 and the entries of the instructions). -/

def refuses (l : List Instr) : Bool := l.all fun i => !i.wf true
def rty (ty md : Nat) : RF := rf ty 0 0 0 0 md

/-- A reserved TY of each arithmetic and access class, and a TY where none is given. -/
theorem smoke_types : refuses
    [.sadd (rty 2 0), .scmp (rty 6 0), .slea (rty 7 0), .smov (rty 3 0), .ssel (rty 2 0), .sbit (rty 2 0)
    , .sbfx (rf 2 0 0 0 1 0), .vbfx (rf 3 0 0 0 1 0), .vdiv (rty 2 0), .vabs (rty 1 0), .vbit (rty 6 0), .vcmp (rty 2 0), .vsel (rty 1 0)
    , .vmov (rty 1 0), .vlea (rty 5 0), .fadd (rty 4 0), .ffma (rty 5 0), .fneg (rty 6 0), .fexp2 (rty 3 0), .fcmp (rty 1 0), .fclass (rty 2 0)
    , .fdot2 (rty 0 0), .fscl (rty 7 0), .fround (rty 4 0), .qswz (rty 1 0), .qbcast (rty 2 0), .lxchg (rty 3 0), .lshfl (rty 5 0)
    , .lrot (rty 6 0), .qhelp (rty 7 0), .lscan (rty 4 8), .lred (rty 2 0), .ld (mf 7 0 0 0 0 0 0 0), .st (mf 1 0 0 0 0 0 0 0)
    , .lds (mf 7 0 0 0 0 0 0 0), .sts (mf 3 0 0 0 0 0 0 0), .ldw (mf 7 0 0 0 0 0 0 0), .atom (mf 3 0 0 0 0 0 0 0), .cas (mf 6 0 0 0 0 0 0 0)
    , .atoms (mf 0 0 0 0 0 0 0 0), .dcf (mf 1 0 0 0 0 0 0 0), .disc (mf 4 0 0 0 0 0 0 0), .prf (mf 4 0 0 0 0 0 0 0), .wback (mf 4 0 0 0 0 0 0 0)
    , .sinv (mf 4 0 0 0 0 0 0 0), .cpl (mf 3 0 0 0 0 0 0 0), .cps (mf 7 0 0 0 0 0 0 0), .tload (mf 4 0 0 0 0 0 0 0), .tbinit (mf 1 0 0 0 0 0 0 0)
    , .tbarr (mf 4 0 0 0 0 0 0 0), .tbexp (mf 5 0 0 0 0 0 0 0), .tbtest (mf 4 0 0 0 0 0 0 0)
    , .nop (rty 1 0), .srd (rty 1 0), .swr (rf 1 0x0A 0 0 0 0), .sfmt (rty 4 0), .sfmtRnd (rty 1 1), .sfmtSat (rty 1 2), .sfmtAtb (rty 1 3)
    , .vote (rty 1 0), .brx (rty 1 0), .ret (rty 1 0), .join (rty 1 0), .exit (rty 1 0), .launch (rty 1 0), .bar (rty 1 0), .barArv (rty 1 0x400)
    , .cbar (rty 1 0), .rget (rty 1 0), .rput (rty 1 0), .cvt (rty 1 0), .pack (rty 1 4), .unpk (rty 1 0x40), .lidx (rty 1 0), .atload (rty 1 0)
    , .atbind (rty 1 0), .fenceAcq (rty 1 1), .fenceRel (rty 1 0x102), .fenceFull (rty 1 3), .cpt (rty 1 0), .cptw (rty 1 0), .gset (rty 1 0)
    , .gget (rty 1 0), .gstop (rty 1 0), .tret (rty 1 0), .yield (rty 1 0), .fpcnt (rty 1 0), .fpcntClr (rty 1 0x20), .fpcntClrall (rty 1 0x40)
    , .syncEng (rty 1 0), .syncErr (rty 1 1), .syncCode (rty 1 2), .smovi (alwaysI 2 0 0), .smovhi (alwaysI 0 0 0), .vmovi (alwaysI 4 0 0)
    , .pause (alwaysI 1 0 5), .trap (alwaysI 1 0 0), .brk (alwaysI 1 0 0)] = true := by decide +kernel

/-- MOD, a literal or a narrowed field outside what the entry gives. -/
theorem smoke_modifiers : refuses
    [.nop (rty 0 1), .sadd (rty 0 1), .scmp (rf 0 0 0 0 6 0), .slea (rf 0 0 0 0 8 0), .smov (rty 0 1), .ssel (rty 0 1), .sbit (rty 0 4)
    , .sbfx (rf 0 0 0 0 0 0), .sbfx (rf 0 0 0 20 13 0), .vbfx (rf 0 0 0 1 32 0), .srd (rf 0 0 0x18 0 0 0), .swr (rf 0 0x12 0 0 0 0), .swr (rf 0 0x18 0 0 0 0)
    , .sfmt (rty 0 8), .sfmtRnd (rty 0 2), .sfmtSat (rty 0 0x22), .sfmtAtb (rty 0 1), .vote (rty 0 4), .brx (rty 0 1), .ret (rty 0 1), .join (rty 0 1)
    , .exit (rty 0 1), .launch (rty 0 1), .bar (rty 0 0x210), .bar (rty 0 0x400), .barArv (rty 0 0), .cbar (rty 0 4), .rget (rty 0 0x10), .rput (rty 0 8)
    , .vadd (rty 0 2), .vmul (rty 0 1), .vmad (rty 0 2), .vdiv (rty 0 1), .vabs (rty 0 2), .vneg (rty 0 2), .vnot (rty 0 1), .vbit (rty 0 4)
    , .vcmp (rty 0 6), .vsel (rty 0 1), .vmov (rty 0 1), .vlea (rty 0 8), .fadd (rty 0 0x4000), .ffma (rty 0 1), .fabs (rty 0 1), .fexp2 (rty 0 1)
    , .fcmp (rty 0 8), .fclass (rty 0 1), .fdot2 (rty 1 1), .cvt (rty 0 13), .cvt (rty 0 0xD0), .cvt (rty 0 0x500), .cvt (rf 0 0 0 1 0 0)
    , .cvt (rf 0 0 0 0x20 0 0xC), .cvt (rty 0 0x1000), .cvt (rty 0 0x2040), .cvt (rty 0 0x4000), .pack (rty 0 0), .pack (rty 0 0x1004)
    , .unpk (rty 0 0), .unpk (rty 0 0x41), .fscl (rty 0 1), .fround (rty 0 1), .fround (rty 0 0x500), .qswz (rty 0 0x100), .qbcast (rty 0 4)
    , .lxchg (rty 0 8), .lshfl (rty 0 1), .lrot (rty 0 0x8001), .lrot (rty 0 0x40), .qhelp (rty 0 1), .lscan (rty 0 9), .lscan (rty 0 0x20)
    , .lred (rty 0 0x10), .lred (rty 0 9), .lidx (rty 0 2), .atload (rty 0 2), .atbind (rty 0 2), .fenceAcq (rty 0 0x15), .fenceAcq (rty 0 2)
    , .fenceRel (rty 0 2), .fenceRel (rty 0 0x122), .fenceFull (rty 0 0x103), .cpt (rty 0 0x100), .cpt (rty 0 2), .cpt (rty 0 8), .cpt (rty 0 0x800)
    , .cptw (rty 0 4), .gset (rty 0 4), .gset (rty 0 0x34), .gget (rty 0 0x20), .gget (rf 0 249 0 0 0 0x1C), .gstop (rty 0 4)
    , .tret (rty 0 1), .yield (rty 0 1), .fpcnt (rty 0 21), .fpcntClr (rty 0 20), .fpcntClrall (rty 0 0x41), .syncEng (rty 0 3), .syncErr (rty 0 3)
    , .syncCode (rty 0 3), .pause (alwaysI 0 0 0), .pause (alwaysI 0 0 4096), .loop { g := always, ty := 0, dst := 0, sa := 0, off := 0 }
    , .st (mf 4 0 0 0 0 1 0 0), .ld (mf 4 0 0 0 0 2 0 0), .ld (mf 4 0 0 0 1 0 0 0), .ld (mf 4 0 0 0 5 1 0 0), .ld (mf 4 0 0 0 0 0 1 0)
    , .lds (mf 4 0 0 0 0 0 2 0), .lds (mf 5 0 0 0 0 0 1 0), .sts (mf 5 0 0 0 0 0 1 0), .ldw (mf 4 0 0 0 0 1 0 0), .atom (mf 4 0 0 0 0 0 0 15)
    , .atoms (mf 4 0 0 0 0 0 1 0), .atoms (mf 4 0 0 0 0 0 0 15), .cas (mf 4 0 0 0 6 1 0 0), .disc (mf 0 0 0 0 0 1 0 0), .prf (mf 0 0 0 0 0 0 2 0)
    , .wback (mf 0 0 0 0 0 0 1 0), .sinv (mf 0 0 0 0 0 2 0 0), .dcf (mf 0 0 0 0 0 0 1 0), .cpl (mf 4 0 0 0 0 0 1 0), .cpl (mf 4 0 0 0 0 0 0 0x40)
    , .cpl (mf 4 0 0 0 0 0 0 0x800), .cps (mf 4 0 0 0 0 0 0 0x400), .cps (mf 4 0 0 0 0 0 0 0x200), .tload (mf 0 0 0 0 0 1 0 0), .tbinit (mf 0 0 0 0 0 1 0 0)
    , .tbtest (mf 0 0 0 0 0 2 0 0), .tbexp (mf 0 0 0 0 0 0 2 0)] = true := by decide +kernel

/-- A register outside its space, a pair or four that is not aligned, a field that the instruction does not use. -/
theorem smoke_registers : refuses
    [.sadd (rf 0 64 0 0 0 0), .sadd (rf 0 0 64 0 0 0), .sadd (rf 0 0 0 254 0 0), .sadd (rf 0 0 0 0 1 0), .scmp (rf 0 16 0 0 0 0), .ssel (rf 0 0 0 0 16 0)
    , .smov (rf 0 0 0 1 0 0), .srd (rf 0 64 2 0 0 0), .swr (rf 0 0x0A 64 0 0 0), .vote (rf 0 0 16 0 0 0), .brx (rf 0 1 0 0 0 0), .ret (rf 0 0 64 0 0 0)
    , .vadd (rf 4 1 0 0 0 0), .vadd (rf 4 0 1 0 0 0), .vadd (rf 4 0 0 1 0 0), .vadd (rf 0 0 0 64 0 0x8000), .vadd (rf 0 0 0 0 1 0), .vcmp (rf 0 16 0 0 0 0)
    , .vsel (rf 0 0 0 0 16 0), .vmov (rf 0 0 1 0 0 0x8000), .vmov (rf 0 0 0 1 0 0), .fadd (rf 3 0 3 0 0 0), .cvt (rf 0 1 0 0 0 2), .unpk (rf 0 2 0 0 0 0x60)
    , .lred (rf 0 64 0 0 0 0x20), .lidx (rf 0 0 16 0 0 0), .lidx (rf 0 0 1 0 0 1), .ld (mf 6 2 0 0 0 0 0 0), .ld (mf 5 1 0 0 0 0 0 0), .ld (mf 4 0 64 0 0 0 0 0)
    , .cas (mf 5 2 0 0 0 0 0 0), .prf (mf 0 1 0 0 0 0 0 0), .cpt (rf 0 64 0 0 0 0), .cpt (rf 0 0 8 0 0 0), .tload (mf 0 8 0 0 0 0 0 0), .gset (rf 0 1 0 0 0 0)
    , .smovi (alwaysI 0 64 0), .smovi { alwaysI 0 0 0 with sa := 1 }, .mprog { dst := 64 }, .msclRow { sa := 64, first8 := 0, countM1 := 0 }
    , .mdrainS { reg := { acc := 0, mc := 0, nc := 0 }, rega := 64, regb := 0, regc := 0, hi := 0 }] = true := by decide +kernel

/-- A guard on an instruction that takes none; matrix fields out of range; a program of vexpr that R288 refuses; a level's own instructions. -/
theorem smoke_other_words :
    refuses
      ([.nop { rty 0 0 with g := guarded 1 false }, .join { rty 0 0 with g := guarded 0 true }, .bar { rty 0 0 with g := guarded 1 false }
       , .cbar { rty 0 0 with g := guarded 1 false }, .rcvp { g := guarded 1 false, ty := 0, dst := 0, sa := 0, off := 0 }, .bsync (rty 0 0)
       , .bra { g := always, ty := 1, dst := 0, sa := 0, off := 0 }, .call { g := always, ty := 0, dst := 64, sa := 0, off := 0 }
       , .oclaim { first := 8, countM1 := 8 }, .orel { first := 15, countM1 := 1 }, .msclCol { sa := 0, first8 := 31, countM1 := 1 }
       , .mzero { reg := { acc := 0, mc := 3, nc := 0 }, int := false }, .mzero { reg := { acc := 2, mc := 2, nc := 0 }, int := false }
       , .mbyp { reg := { acc := 1, mc := 0, nc := 2 }, oslot := 0, orow := 0 }
       , .mdrainV { reg := { acc := 0, mc := 0, nc := 0 }, rega := 193, regb := 0, regc := 0, hi := 0xFC00 }
       , .mdrainV { reg := { acc := 0, mc := 0, nc := 0 }, rega := 0, regb := 1, regc := 0, hi := 0 }
       , .mdrainS { reg := { acc := 0, mc := 0, nc := 0 }, rega := 0, regb := 0, regc := 0, hi := 0x80 }
       , .mdrainG { reg := { acc := 0, mc := 0, nc := 0 }, rega := 0, regb := 0, regc := 0, hi := 0x400 }
       , .vexpr (rf 0 0 0 0 0 0) 0x00FFFFFFFFFFFFFF#64, .vexpr (rf 0 0 0 0 0 0) 0x00FFFFFFFFFFFF40#64, .vexpr (rf 0 0 0 0 0 0) 0x01FFFFFFFFFFFFF0#64
       , .vexpr (rf 0 0 0 0 0 0) 0x00FFFFFFFFFF0FF0#64, .vexpr (rf 0 0 0 0 0 0) 0x00FFFFFFFFF00000#64] : List Instr) = true
      ∧ (let m : MmulF := { reg := { acc := 0, mc := 1, nc := 1 }, aslot := 0, bslot := 0, ksM1 := 0, arow := 0, brow := 0, cord := false, rgl := 0 }
         (Instr.mmul m).wf true = true
           ∧ refuses [.mmul { m with arow := 17 }, .mmul { m with brow := 17 }, .mmul { m with aslot := 15, ksM1 := 1 }, .mmul { m with bslot := 15, ksM1 := 1 }
                     , .mmulz { m with rgl := 5 }, .mmulz { m with reg := { acc := 3, mc := 2, nc := 0 } }] = true)
      ∧ Instr.wf false (.vexpr (rf 0 0 0 0 0 0) 0x00FFFFFFFFFFFFF0#64) = false ∧ Instr.wf true (.vexpr (rf 0 0 0 0 0 0) 0x00FFFFFFFFFFFFF0#64) = true
      ∧ Instr.wf false (.qhelp (rty 0 0)) = false ∧ Instr.wf false (.bsync (rty 0 0)) = true := by decide +kernel

/-- A row that is no word, with a number that names nothing. -/
theorem smoke_rows :
    (let r : SplitRef := { group := 0, split := 4 }
     refuses [.clauseHeader r, .clauseWaitEnd r, .pauseExpiry r, .yieldTimeout r, .priorityLift r] = true)
      ∧ refuses [.lateFraming 16, .cordPlace 16, .copyComplete 128 0, .matrixOpComplete 128 0, .drainCommandComplete 128 0, .emulationComplete 128 0
                , .gatherFetchComplete 0 4 0, .gatherFetchComplete 128 0 0, .gangLatchRelease 128 0, .gangLatchTimeout 128 0, .walkAhead 128 0 0
                , .pageRequestWrite 64, .flr 64, .prqreply 64 0, .launchWindowArm 64 0 0 0, .launchWindowArm 0 8 0 0, .launchWindowArm 0 0 32 0
                , .qtailWrite 0 8 0, .packetLaunch 64 0, .packetNop 0 8, .packetOtherOp 64 0, .refreshStart 16, .refreshEnd 16, .peerLinkDown 4
                , .remoteInvalTimeout 4, .flitReplay 4, .remoteInvalidation 4 0 0, .migrationLine 4 0 false 0, .migrationClaim (claimMsg false 0 0 |> fun m => { m with link := 4 })
                , .compareAct 8 .agree, .trailingCopyTimeout 8, .unitTestStart 232, .unitTestDone 232 true, .registerWrite 64 0 4 0, .lineMissComplete 64
                , .uncorrectableError { errorAt .l1 none false with part := 16 }, .correctedError { errorAt .l1 none false with part := 16 }
                , .patrolScrub { errorAt .l1 none false with part := 16 } .clean, .probe { probeOf .update 20 with part := 0 }, .probeAck { probeOf .update 0 with part := 16 }] = true
      ∧ (let a := { accessBy .host with part := 16 }
         let b := { accessBy .host with line := 2 ^ 45 }
         refuses [.rd a, .rdx b, .upg a, .wb b, .evc a, .rds b, .wrs a, .atx b, .atr a, .xrd b, .xwr a, .snp b] = true) := by decide +kernel

/-- The checks that need the image: a vector register at REGS, a lane distance at WIDTH, a ring that the crew does not have. -/
theorem smoke_fits :
    (let k : ImageCtx := { regs := 8, width := 16, rings := 2 }
     Instr.fits k (.vadd (rf 0 7 7 7 0 0)) = true ∧ Instr.fits k (.vadd (rf 0 8 7 7 0 0)) = false ∧ Instr.fits k (.vadd (rf 4 6 6 8 0 0)) = false
       ∧ Instr.fits k (.ld (mf 6 8 0 0 0 0 0 0)) = false ∧ Instr.fits k (.gget (rf 0 5 0 0 0 0x0C)) = false
       ∧ Instr.fits k (.lxchg (rf 0 0 0 0 0 3)) = true ∧ Instr.fits k (.lxchg (rf 0 0 0 0 0 4)) = false
       ∧ Instr.fits k (.rget (rf 0 0 0 0 0 1)) = true ∧ Instr.fits k (.rget (rf 0 0 0 0 0 2)) = false ∧ Instr.fits k (.rput (rf 0 0 0 0 0 3)) = false) := by
  decide +kernel

/-! Examples of the spec, and values worked out by hand from its definitions: one step each, on the small machine. -/

/-- A scalar, a predicate or a lane's register after one instruction. -/
def sAfter (i : Instr) (s : State) (n : Nat) : Option W64 :=
  match exec i s with
  | .next t => (t.split? ref10).map (·.s n)
  | _ => none
def vAfter (i : Instr) (s : State) (n : Nat) : List W32 :=
  match exec i s with
  | .next t => ((t.group? 1).map fun g => [0, 1, 2, 3].map (g.v n)).getD []
  | _ => []
def pAfter (i : Instr) (s : State) (n : Nat) : Option LaneMask :=
  match exec i s with
  | .next t => (t.group? 1).map (·.pred n)
  | _ => none
def stickyAfter (i : Instr) (s : State) : Option W64 :=
  match exec i s with
  | .next t => (t.group? 1).map (·.sticky)
  | _ => none
def pcAfter (i : Instr) (s : State) : Option W64 :=
  match exec i s with
  | .next t => (t.split? ref10).map (·.pc)
  | _ => none
/-- The machine with these scalars. -/
def withS (l : List (Nat × W64)) : State := demoOf { demoSplit with sregs := l } demoGroup demoCrew demoLaunch
def withV (l : List (Nat × W32)) (sp : Split) : State := demoOf sp { demoGroup with vregs := l } demoCrew demoLaunch

/-- Table 10.2: v9 and v10 of the four lanes, and the flags DIVZ and DIVOVF. -/
theorem test_table_10_2 :
    vAfter (.vdiv (rf 0 9 4 5 0 0)) demo 9 = [3, 0xFFFFFFFD#32, 0xFFFFFFFF#32, 0x80000000#32]
      ∧ vAfter (.vrem (rf 0 10 4 5 0 0)) demo 10 = [1, 0xFFFFFFFF#32, 5, 0]
      ∧ stickyAfter (.vdiv (rf 0 9 4 5 0 0)) demo = some 3 := by decide +kernel

/-- Scalar arithmetic: i32 wraps and is sign-extended, n32 is zero-extended (R253); shift counts are taken modulo the width (R259). -/
theorem test_scalar_arithmetic :
    let s := withS [(1, 0x7FFFFFFF), (2, 1), (3, 0xFFFFFFFFFFFFFFFF#64), (4, 35), (5, 7), (6, 0xFFFFFFFFFFFFFFF9#64)]
    sAfter (.sadd (rf 0 9 1 2 0 0)) s 9 = some 0xFFFFFFFF80000000#64 ∧ sAfter (.sadd (rf 1 9 1 2 0 0)) s 9 = some 0x80000000
      ∧ sAfter (.ssub (rf 4 9 2 4 0 0)) s 9 = some 0xFFFFFFFFFFFFFFDE#64 ∧ sAfter (.sadd (rf 4 9 2 255 0 0xFFFE)) s 9 = some 0xFFFFFFFFFFFFFFFF#64
      ∧ sAfter (.smul (rf 0 9 5 6 0 0)) s 9 = some 0xFFFFFFFFFFFFFFCF#64 ∧ sAfter (.smulh (rf 5 9 3 3 0 0)) s 9 = some 0xFFFFFFFFFFFFFFFE#64
      ∧ sAfter (.smulh (rf 4 9 3 3 0 0)) s 9 = some 0 ∧ sAfter (.sdiv (rf 4 9 6 2 0 0)) s 9 = some 0xFFFFFFFFFFFFFFF9#64
      ∧ sAfter (.srem (rf 0 9 6 4 0 0)) s 9 = some 0xFFFFFFFFFFFFFFF9#64 ∧ sAfter (.sand (rf 4 9 3 4 0 0)) s 9 = some 35
      ∧ sAfter (.sor (rf 4 9 4 5 0 0)) s 9 = some 39 ∧ sAfter (.sxor (rf 4 9 4 5 0 0)) s 9 = some 36
      ∧ sAfter (.sshl (rf 0 9 5 4 0 0)) s 9 = some 56 ∧ sAfter (.sshr (rf 5 9 3 4 0 0)) s 9 = some 0x1FFFFFFF
      ∧ sAfter (.smin (rf 4 9 6 5 0 0)) s 9 = some 0xFFFFFFFFFFFFFFF9#64 ∧ sAfter (.smax (rf 5 9 6 5 0 0)) s 9 = some 0xFFFFFFFFFFFFFFF9#64 := by
  decide +kernel

/-- sbfx of its entry's example; moves, selection and addresses. -/
theorem test_scalar_moves :
    let s := withS [(3, 0xA000000000000000#64), (4, 0x80000001), (5, 3)]
    sAfter (.sbfx (rf 5 5 3 60 4 1)) s 5 = some 0xFFFFFFFFFFFFFFFA#64 ∧ sAfter (.sbfx (rf 5 5 3 60 4 0)) s 5 = some 0xA
      ∧ sAfter (.smov (rf 0 9 4 0 0 0)) s 9 = some 0xFFFFFFFF80000001#64 ∧ sAfter (.smovi (alwaysI 4 9 0xFFFFFFFE)) s 9 = some 0xFFFFFFFFFFFFFFFE#64
      ∧ sAfter (.smovhi (alwaysI 4 4 7)) s 4 = some 0x780000001 ∧ sAfter (.slea (rf 4 9 5 4 2 0)) s 9 = some 0x200000007
      ∧ sAfter (.ssel (rf 4 9 5 4 1 0)) s 9 = some 3 ∧ pAfter (.scmp (rf 0 2 4 5 2 0)) s 2 = some 0xF
      ∧ sAfter (.sadd (rf 4 0 5 4 0 0)) s 0 = some 0 ∧ sAfter (.vote (rf 0 9 1 0 0 2)) s 9 = some 5 := by decide +kernel

/-- lxchg takes the partner of lane XOR MOD, and 0 where it is not usable (R290); lidx of p1 in lanes 0 and 2 (R292). -/
theorem test_lanes :
    vAfter (.lxchg (rf 0 6 4 0 0 0)) demo 6 = [0xFFFFFFF9#32, 7, 0x80000000#32, 5] ∧ vAfter (.lxchg (rf 0 6 4 0 0 2)) demo 6 = [0, 0, 0, 0]
      ∧ vAfter (.lidx (rf 0 9 1 0 0 0)) demo 9 = [0, 1, 1, 2] ∧ vAfter (.lscan (rf 0 9 5 0 0 0)) demo 9 = [2, 4, 4, 3]
      ∧ vAfter (.lscan (rf 0 9 5 0 0 0x10)) demo 9 = [0, 2, 4, 4] ∧ vAfter (.lred (rf 0 9 5 0 0 0)) demo 9 = [3, 3, 3, 3] := by decide +kernel

/-- Vector arithmetic: packed halves do not carry into each other, .sat clamps and sets STICKY.SAT (R254, R255). -/
theorem test_vector_arithmetic :
    let s := withV [(128, 0x7FFFFFFF), (129, 0xFFFF0001), (130, 0x80008000), (131, 5), (192, 1), (193, 0x0001FFFF), (194, 0xFFFFFFFF), (195, 9)] demoSplit
    vAfter (.vadd (rf 0 9 2 3 0 0)) s 9 = [0x80000000#32, 0x00010000#32, 0x80007FFF#32, 14]
      ∧ vAfter (.vadd (rf 2 9 2 3 0 0)) s 9 = [0x7FFF0000#32, 0x00000000#32, 0x7FFF7FFF#32, 14]
      ∧ vAfter (.vadd (rf 0 9 2 3 0 1)) s 9 = [0x7FFFFFFF#32, 0x00010000#32, 0x80007FFF#32, 14] ∧ stickyAfter (.vadd (rf 0 9 2 3 0 1)) s = some 4
      ∧ vAfter (.vmin (rf 0 9 2 3 0 0)) s 9 = [1, 0xFFFF0001#32, 0x80008000#32, 5] ∧ vAfter (.vmax (rf 1 9 2 3 0 0)) s 9 = [0x7FFFFFFF#32, 0xFFFF0001#32, 0xFFFFFFFF#32, 9]
      ∧ vAfter (.vshr (rf 0 9 2 3 0 0)) s 9 = [0x3FFFFFFF#32, 0xFFFFFFFF#32, 0xFFFFFFFF#32, 0]
      ∧ vAfter (.vrot (rf 0 9 2 3 0 0)) s 9 = [0xFFFFFFFE#32, 0xFFFF8000#32, 0x40004000#32, 0xA00]
      ∧ vAfter (.vmulh (rf 1 9 2 3 0 0)) s 9 = [0, 0x1FFFD#32, 0x80007FFF#32, 0] ∧ vAfter (.vnot (rf 0 9 2 0 0 0)) s 9 = [0x80000000#32, 0xFFFE#32, 0x7FFF7FFF#32, 0xFFFFFFFA#32]
      ∧ pAfter (.vcmp (rf 0 2 2 3 0 2)) s 2 = some 0xE := by decide +kernel

/-- The rows of Table 9.11 that convert x of lane 0, under the descriptor and the mode of each. -/
theorem test_table_9_11 :
    let cv (x : W32) (desc md : Nat) : Option W32 := (vAfter (.cvt (rf 0 9 4 desc 0 md)) (withV [(256, x)] { demoSplit with mask := 1 }) 9).head?
    cv 0x3F800000 0x0C 0x8C = some 0x40 ∧ cv 0x40533333 0x0C 0x8C = some 0x4D ∧ cv 0xBDCCCCCD#32 0x0C 0x8C = some 0xA5
      ∧ cv 0x3BA3D70A 0x0C 0x8C = some 5 ∧ cv 0xB9D1B717#32 0x0C 0x8C = some 0 ∧ cv 0x437A0000 0x0C 0x8C = some 0x80 ∧ cv 0x437A0000 0x0C 0x88C = some 0x7F
      ∧ cv 0x437A0000 0x0C 0x28C = some 0x7F ∧ cv 0x437A0000 0x1C 0x8C = some 0x7F ∧ cv 0x437A0000 0x1C 0x88C = some 0x7E
      ∧ cv 0x437A0000 0x1C 0x28C = some 0x7E ∧ cv 0x437A0000 0x04 0x8C = some 0xC0 ∧ cv 0xC0533333#32 0x04 0x8C = some 0xFF
      ∧ cv 0xC0533333#32 0x04 0x88C = some 0 := by decide +kernel

/-- Floating point: 1.5 + 2.25, 3 / 2, the root of 2, a fused product whose rounding is one, and the conversion of an integer. -/
theorem test_float :
    let s := withV [(256, 0x3FC00000), (257, 0x40400000), (258, 0x7F800000), (320, 0x40100000), (321, 0x40000000), (322, 0xFF800000), (384, 0x40000000)] { demoSplit with mask := 7 }
    (vAfter (.fadd (rf 0 9 4 5 0 0)) s 9).take 3 = [0x40700000#32, 0x40A00000#32, 0x7FC00000#32]
      ∧ (vAfter (.fdiv (rf 0 9 4 5 0 0)) s 9).take 2 = [0x3F2AAAAB#32, 0x3FC00000#32] ∧ (vAfter (.fsqrt (rf 0 9 6 0 0 0)) s 9).head? = some 0x3FB504F3
      ∧ (vAfter (.ffma (rf 0 9 4 5 4 0)) s 9).take 2 = [0x409C0000#32, 0x41100000#32] ∧ (vAfter (.fmax (rf 0 9 4 5 0 0)) s 9).take 3 = [0x40100000#32, 0x40400000#32, 0x7F800000#32]
      ∧ pAfter (.fcmp (rf 0 2 4 5 0 2)) s 2 = some 1 := by decide +kernel

/-- `trap 0x2A` saves the next word's address, and the handler is entered with cause 0x17 and the code as its detail (R356, 13's example). -/
theorem test_trap :
    let t := match exec (.trap (alwaysI 0 0 0x2A)) demo with
      | .next t => t
      | _ => demo
    (t.split? ref10).map (fun sp => (sp.pc, sp.trapCause, sp.trapMask)) = some (0x20000#64, 0x2A00000017#64, 0xF#64)
      ∧ (t.split? ref10).map (·.trapPc) = some 0x11010#64 := by decide +kernel

/-- Control: a branch's offset counts words from the clause header; exit leaves no split; loop counts down. -/
theorem test_control :
    pcAfter (.bra { g := always, ty := 0, dst := 0, sa := 0, off := 0xFFFFFFFE }) demo = some 0x10FF0#64
      ∧ sAfter (.call { g := always, ty := 0, dst := 9, sa := 0, off := 4 }) demo 9 = some 0x11010#64
      ∧ pcAfter (.call { g := always, ty := 0, dst := 9, sa := 0, off := 4 }) demo = some 0x11020#64
      ∧ pcAfter (.ret (rf 0 0 1 0 0 0)) demo = some 0x10000#64
      ∧ pcAfter (.loop { g := always, ty := 0, dst := 0, sa := 3, off := 0 }) demo = some 0x11000#64
      ∧ sAfter (.loop { g := always, ty := 0, dst := 0, sa := 3, off := 0 }) demo 3 = some 6 := by decide +kernel

/-- The home of PA 0x2C80 in a partition of ports 4 to 7 (R47's example), and the skewed element (3, 30) of 02's tile. -/
theorem test_homes :
    homeOf [4, 5, 6, 7] (2 ^ 33) 0x2C80 = { i := 1, port := 5, slice := 23, set := 4, dpa := 0xA00000880 }
      ∧ skewAddr 0x81F01000 0x11F8 = 0x1184 ∧ skewAddr 0x01F01000 0x11F8 = 0x11F8 := by decide +kernel

/-- The ramp 1,000 + 2n is stored in mode 1 (R62's example); CRC-64 over "123456789" (R413); two entries of INV's table (R71). -/
theorem test_codecs :
    (let b := compressBlock (bytesOfSamples ((List.range 512).map fun n => 1000 + 2 * n))
     b.1 = 0x15 ∧ b.2.take 4 = [0xE8, 3, 2, 2] ∧ b.2.length = 640)
      ∧ crc64 [0x31, 0x32, 0x33, 0x34, 0x35, 0x36, 0x37, 0x38, 0x39] = 0x995DC9BBDF1939FA#64
      ∧ protoINV.trans.getD 0 0 = 0x88141 ∧ protoINV.trans.getD 48 0 = 0x485542 := by
  refine ⟨?_, ?_, ?_⟩ <;> decide +kernel

/-- An atomic add of four lanes on one word acts in lane order and returns what it found (R303); where three lanes store to one place, the last wins. -/
theorem test_memory :
    let s := demoOf { demoSplit with sregs := [(2, 0x100)] } demoGroup demoCrew demoLaunch
    vAfter (.atoms (mf 4 5 2 0 0 0 0 1)) s 5 = [0, 2, 4, 4]
      ∧ (match exec (.sts (mf 4 4 2 2 0 0 0 8)) s with
         | .next t => vAfter (.lds (mf 4 9 2 2 0 0 0 8)) t 9
         | _ => []) = [0x80000000#32, 0x80000000#32, 5, 0x80000000#32] := by decide +kernel

/-- The list of R432's example fails at its first entry: port 4 belongs to partition 0. -/
theorem test_reconf_example : checkList (listState 1 1 [0x401]) 1 0 [0x401, 0x501, 0x1001, 0x0203, 0x0303, 0x4005, 0x400007] = some (2, 0, 4) := by decide +kernel

/-! Register reads (R25): the Reset column of Tables 14.3, 15.2, 16.7 and 17.1, reserved offsets, and other sizes. -/

theorem test_register_reads_at_reset :
    let r (off : Nat) := State.reset.readReg 0 off 8
    r 0x2000 = some 0x1FFFFF ∧ r 0x2008 = some 0xFFFF ∧ r 0x2050 = some 0x401020400 ∧ r 0x3000 = some 0xFFFF ∧ r 0x30B8 = some 0
      ∧ r 0x5008 = some 1 ∧ r 0x200000 = some 0x10000 ∧ r 0x200010 = some 64 ∧ r 0x300008 = some 4 ∧ r 0x300030 = some 64
      ∧ r 0x380008 = some 6 ∧ r 0x381000 = some 0 ∧ State.reset.readReg 5 0x8008 4 = some 6 ∧ State.reset.readReg 0 0x2004 8 = none
      ∧ State.reset.readReg 0 0x2000 2 = none := by
  decide +kernel

/-! A guest's walk (R154, R155). Stage 2 is one page of 2 MiB; stage 1 leads the page of 0x5000 to guest frame 0x130. -/

def putWords (s : State) (ws : List (Nat × Nat)) : State :=
  ws.foldl (fun s e => match writePhys s 0 e.1 8 e.2 with | .ok s _ => s | .stop s _ => s) s
def guestState : State :=
  putWords { demo with tenants := [(1, { demoTenant with s2en := true, s1root := 0x100000, s2root := 0x40000 })] }
    [(0x40000, 0x500001), (0x50000, 0x510001), (0x51000, 0x1F), (0x100000, 0x1200001), (0x120000, 0x1210001), (0x121000, 0x1220001)
    , (0x122028, 0x130000F)]
/-- The stage-2 leaf and the stage-1 leaf after a walk, and where it leads, or the detail word of its fault. -/
def guestWalk (va : Nat) (acc : Access) : Nat × Nat × Option Nat × Nat :=
  let look (s : State) (a : Nat) : Nat := valOf 0 (readPhys s 0 a 8)
  match walkAll guestState 1 va acc false [] with
  | .ok s (.ok e, _) => (look s 0x51000, look s 0x122028, some (e.pa + va % e.size), e.size)
  | .ok s (.error (.trap _ d), _) => (look s 0x51000, look s 0x122028, none, d.toNat)
  | .ok s (.error _, _) => (look s 0x51000, look s 0x122028, none, 0)
  | .stop _ _ => (0, 0, none, 0)

theorem test_guest_write_sets_dirty_in_both_stages : guestWalk 0x5123 .write = (0x19F, 0x130018F, some 0x130123, 4096) := by decide +kernel
/-- Stage 1 gives no X: reason 14, stage 1, level 3, ACCESS 3, and no A anywhere. -/
theorem test_guest_fault_sets_nothing : guestWalk 0x5123 .fetch = (0x1F, 0x130000F, none, 14 + 32 + 3 * 128 + 3 * 1024) := by decide +kernel

/-- Example C.3 of FIPS 197 (02 R56). -/
theorem test_aes_example :
    aesEncrypt (aesSchedule ((List.range 32).map fun i => BitVec.ofNat 8 i)) ((List.range 16).map fun i => BitVec.ofNat 8 (17 * i))
      = [0x8e, 0xa2, 0xb7, 0xca, 0x51, 0x67, 0x45, 0xbf, 0xea, 0xfc, 0x49, 0x90, 0x4b, 0x49, 0x60, 0x89] := by decide +kernel
/-- The digest of the bytes "abc" in the examples of FIPS 202, the first byte least significant (17 R442). -/
theorem test_sha3_example :
    sha3 [0x61, 0x62, 0x63] = 0x3215431145e2bf465b529d3e6e085f85bd90d36b2d175c04b225e24fa75d983a#256 := by decide +kernel

end Sys2Proof.Tests
end

section
/-! Every step keeps memory and the weight store canonical (O60).

A step is one call of `exec`, or one of the moves of Schedule.lean, and both are built of functions that take a state to a state, or to a
state with an answer. The invariant is proved along that construction: one lemma `f_wf` for each function `f` that gives a state, in the
order of the model's files, saying that the states it gives are canonical if those it takes are. Only a few functions write memory or the
weight store at all; for these, Laws/Memory.lean has the facts. Every other lemma follows from the lemmas of the functions that its own
function calls, which its proof names. A function that takes a continuation asks the same of the continuation. -/

namespace Sys2Proof.Machine

section

-- The lemmas are many and small: a thread for each would take more memory than there is.
set_option Elab.async false

/-! The invariant for what holds a state, and for the ways in which the model chains its functions. -/

/-- The state of an access's outcome is canonical, whether the access was performed or not. -/
def Res.wf {α : Type} : Res α → Prop
  | .ok s _ => s.wf
  | .stop s _ => s.wf

/-- The next state, if there is one, is canonical. -/
def NextWf : Host.Outcome State Fault Refusal → Prop
  | .next s => s.wf
  | _ => True

/-- The state, if there is one, is canonical. -/
def SomeWf : Option State → Prop
  | some s => s.wf
  | none => True

variable {s : State}

theorem Res.wf_of_ok {α : Type} {r : Res α} {x : α} (e : r = .ok s x) (hr : r.wf) : s.wf := by
  subst e; exact hr

theorem Res.wf_of_stop {α : Type} {r : Res α} {w : Stop} (e : r = .stop s w) (hr : r.wf) : s.wf := by
  subst e; exact hr

theorem Res.bind_wf {α β : Type} {r : Res α} {f : State → α → Res β} (hr : r.wf) (hf : ∀ s x, s.wf → (f s x).wf) :
    (r.bind f).wf := by
  cases r with
  | ok s x => exact hf s x hr
  | stop s w => exact hr

theorem Res.orDrop_wf {r : Res Unit} (hr : r.wf) : r.orDrop.wf := by
  unfold Res.orDrop; grind [Res.wf]

theorem Res.state_wf {α : Type} {r : Res α} (hr : r.wf) : r.state.wf := by
  cases r with
  | ok s x => exact hr
  | stop s w => exact hr

theorem Res.forEach_wf {α : Type} (h : s.wf) {f : State → α → Res Unit} (hf : ∀ s x, s.wf → (f s x).wf) (l : List α) :
    (Res.forEach s f l).wf := by
  induction l generalizing s with
  | nil => exact h
  | cons x xs ih => exact Res.bind_wf (hf s x h) fun _ _ h => ih h

theorem Res.foldl_wf {α β : Type} {f : Res β → α → Res β} {l : List α} {r : Res β} (hr : r.wf) (hf : ∀ r a, r.wf → (f r a).wf) :
    (l.foldl f r).wf :=
  List.foldlRecOn l f hr fun r hr a _ => hf r a hr

theorem State.foldl_wf {α : Type} {f : State → α → State} (hf : ∀ s a, s.wf → (f s a).wf) (l : List α) (h : s.wf) :
    (l.foldl f s).wf :=
  List.foldlRecOn l f h fun s h a _ => hf s a h

theorem State.foldl_fst_wf {α β : Type} {f : State × β → α → State × β} (hf : ∀ b a, b.1.wf → (f b a).1.wf) (l : List α)
    {b : State × β} (h : b.1.wf) : (l.foldl f b).1.wf :=
  List.foldlRecOn (motive := fun b => b.1.wf) l f h fun b h a _ => hf b a h

theorem State.ite_wf {p : Prop} [Decidable p] {a b : State} (ha : a.wf) (hb : b.wf) : (if p then a else b).wf := by
  split
  · exact ha
  · exact hb

theorem Res.ite_wf {α : Type} {p : Prop} [Decidable p] {a b : Res α} (ha : a.wf) (hb : b.wf) : (if p then a else b).wf := by
  split
  · exact ha
  · exact hb

theorem SomeWf.ite {p : Prop} [Decidable p] {a b : Option State} (ha : SomeWf a) (hb : SomeWf b) : SomeWf (if p then a else b) := by
  split
  · exact ha
  · exact hb

theorem SomeWf.getD {o : Option State} (ho : SomeWf o) (h : s.wf) : (o.getD s).wf := by
  cases o with
  | none => exact h
  | some t => exact ho

theorem SomeWf.map {α : Type} {f : α → State} {o : Option α} (hf : ∀ x, (f x).wf) : SomeWf (o.map f) := by
  cases o with
  | none => trivial
  | some x => exact hf x

theorem SomeWf.mapState {f : State → State} {o : Option State} (ho : SomeWf o) (hf : ∀ s, s.wf → (f s).wf) : SomeWf (o.map f) := by
  cases o with
  | none => trivial
  | some s => exact hf s ho

theorem SomeWf.foldl {α : Type} {f : Option State → α → Option State} {l : List α} {o : Option State} (ho : SomeWf o)
    (hf : ∀ o a, SomeWf o → SomeWf (f o a)) : SomeWf (l.foldl f o) :=
  List.foldlRecOn l f ho fun o ho a _ => hf o a ho

/-! Table updates and the issuing split: none of them touches memory or the weight store. -/

theorem State.setPart_wf (h : s.wf) (p x) : (s.setPart p x).wf := h
theorem State.setCore_wf (h : s.wf) (c x) : (s.setCore c x).wf := h
theorem State.setDev_wf (h : s.wf) (d) : (s.setDev d).wf := h
theorem State.setFunc_wf (h : s.wf) (f x) : (s.setFunc f x).wf := State.setDev_wf h ..
theorem State.setQueue_wf (h : s.wf) (f q x) : (s.setQueue f q x).wf := State.setFunc_wf h ..
theorem State.setPair_wf (h : s.wf) (k x) : (s.setPair k x).wf := State.setDev_wf h ..
theorem State.setLink_wf (h : s.wf) (p x) : (s.setLink p x).wf := State.setDev_wf h ..
theorem State.setPortCount_wf (h : s.wf) (m x) : (s.setPortCount m x).wf := State.setDev_wf h ..
theorem State.setCaches_wf (h : s.wf) (c) : (s.setCaches c).wf := h
theorem State.setMmu_wf (h : s.wf) (m) : (s.setMmu m).wf := h
theorem State.updLaunch_wf (h : s.wf) (l f) : (s.updLaunch l f).wf := h
theorem State.updCrew_wf (h : s.wf) (c f) : (s.updCrew c f).wf := h
theorem State.updGroup_wf (h : s.wf) (g f) : (s.updGroup g f).wf := h
theorem State.updSplit_wf (h : s.wf) (r f) : (s.updSplit r f).wf := State.updGroup_wf h ..
theorem fromHost_wf (h : s.wf) {k : State} (hk : k.wf) : (fromHost s k).wf := State.ite_wf hk h
theorem State.retire_wf (h : s.wf) (r n) : (s.retire r n).wf := State.updSplit_wf h ..
theorem State.waitFor_wf (h : s.wf) (r w) : (s.waitFor r w).wf := State.updSplit_wf h ..

theorem withCtx_wf {k : Ctx → State} (hk : ∀ x, (k x).wf) : NextWf (withCtx s k) := by
  unfold withCtx
  split
  · exact trivial
  · exact hk ..

/-! Physical memory. Beside `State.writeDram`, `State.writeHostLine`, `writeHost` and `State.writeWs` (Laws/Memory.lean), whatever writes
memory does so through these. -/

theorem State.writeLocalBytes_wf (h : s.wf) (p base key bs n) : (s.writeLocalBytes p base key bs n).wf := by
  induction n with
  | zero => exact h
  | succ n ih => exact State.writeLocal_wf ih ..

theorem State.writeBlock_wf (h : s.wf) (p line key plain) : (s.writeBlock p line key plain).wf := by
  unfold State.writeBlock
  split
  exact State.writeLocal_wf (State.writeLocalBytes_wf h ..) ..

/-! Interrupts, the error log and the scores. -/

theorem sendMsi_wf (h : s.wf) (f vec en) : (sendMsi s f vec en).wf := State.ite_wf (State.setDev_wf h ..) h
theorem errInterrupt_wf (h : s.wf) (f) : (errInterrupt s f).wf := sendMsi_wf (State.setFunc_wf h ..) ..
theorem prqInterrupt_wf (h : s.wf) (f) : (prqInterrupt s f).wf := sendMsi_wf (State.setFunc_wf h ..) ..
theorem logError_wf (h : s.wf) (kind unit tenant index addr part) : (logError s kind unit tenant index addr part).wf := State.setDev_wf h ..

theorem reportError_wf (h : s.wf) (kind unit tenant index addr part) : (reportError s kind unit tenant index addr part).wf :=
  State.ite_wf (errInterrupt_wf (logError_wf h ..) ..) (errInterrupt_wf (errInterrupt_wf (logError_wf h ..) ..) ..)

theorem reportDrop_wf (h : s.wf) (kind tenant addr part) : (reportDrop s kind tenant addr part).wf := reportError_wf h ..
theorem safePin_wf (h : s.wf) : (safePin s).wf := State.setDev_wf h ..
theorem charge_wf (h : s.wf) (unit n) : (charge s unit n).wf := State.setDev_wf h ..

/-! The home slices and the L1s: an access is a chain of `Res.bind`, and memory is written by `writeBack` alone. -/

theorem State.count_wf (h : s.wf) (port f) : (s.count port f).wf := State.setPortCount_wf h ..
theorem State.setL1_wf (h : s.wf) (k x) : (s.setL1 k x).wf := State.setCaches_wf h ..
theorem State.delL1_wf (h : s.wf) (k) : (s.delL1 k).wf := State.setCaches_wf h ..
theorem State.setL2_wf (h : s.wf) (k x) : (s.setL2 k x).wf := State.setCaches_wf h ..
theorem State.delL2_wf (h : s.wf) (k) : (s.delL2 k).wf := State.setCaches_wf h ..

theorem probeL1_wf (h : s.wf) (core line view kind upd) : (probeL1 s core line view kind upd).1.wf := by
  unfold probeL1
  dsimp only
  split
  · exact h
  · split
    · exact h
    · split
      · exact State.delL1_wf h ..
      · exact State.setL1_wf h ..
      · exact State.setL1_wf h ..

theorem probeCluster_wf (h : s.wf) (cluster skip line view kind upd) : (probeCluster s cluster skip line view kind upd).1.wf := by
  grind [probeCluster, State.foldl_fst_wf, probeL1_wf]

theorem writeBack_wf (h : s.wf) (l) : (writeBack s l).wf := by
  unfold writeBack
  split
  · exact State.ite_wf (State.writeBlock_wf h ..) (State.writeLocal_wf h ..)
  · exact State.writeHostLine_wf h ..
  · exact h

theorem finishTrans_wf (h : s.wf) (lk l t ev who q) : (finishTrans s lk l t ev who q).1.wf := by
  grind [finishTrans, State.setL2_wf, writeBack_wf, State.delL2_wf]

theorem sendProbes_wf (h : s.wf) (port part line view kind targets skip upd) :
    (sendProbes s port part line view kind targets skip upd).1.wf := by
  grind [sendProbes, State.foldl_fst_wf, probeCluster_wf, State.count_wf]

theorem markBusy_wf (h : s.wf) (lk a ev t rest upd d fill key) : (markBusy s lk a ev t rest upd d fill key).wf := State.setCaches_wf h ..
theorem countXfer_wf (h : s.wf) (l t d) : (countXfer s l t d).wf := State.ite_wf (State.count_wf h ..) h

theorem runTrans_wf (h : s.wf) (lk l ev t q a fill) : (runTrans s lk l ev t q a fill).wf := by
  grind [runTrans, Res.wf, finishTrans_wf, State.setL2_wf, sendProbes_wf, markBusy_wf, countXfer_wf, State.count_wf]

theorem finishBusy_wf (h : s.wf) (lk b) : (finishBusy s lk b).1.wf := by
  grind [finishBusy, finishTrans_wf, State.setCaches_wf, countXfer_wf]

theorem forceOut_wf (h : s.wf) (lk l ev) : (forceOut s lk l ev).wf := by
  unfold forceOut
  refine Res.ite_wf h (Res.bind_wf (Res.orDrop_wf (Res.bind_wf (runTrans_wf h ..) fun _ _ h1 => h1)) fun _ _ h1 => ?_)
  split
  · exact h1
  · exact Res.ite_wf h1 (Res.bind_wf (runTrans_wf h1 ..) fun _ _ h2 => h2)

theorem evictL2_wf (h : s.wf) (lk l) : (evictL2 s lk l).wf := forceOut_wf h ..

theorem takeWay_wf (h : s.wf) (slice set) : (takeWay s slice set).wf := by
  unfold takeWay
  dsimp only
  split
  · exact h
  · split
    · exact h
    · split
      · exact h
      · exact Res.bind_wf (evictL2_wf h ..) fun _ _ h1 => h1

theorem touchL2_wf (h : s.wf) (slice set way) : (touchL2 s slice set way).wf := State.setCaches_wf h ..
theorem dropCopies_wf (h : s.wf) (p line view sinv) : (dropCopies s p line view sinv).wf := State.setCaches_wf h ..
theorem dropUnbacked_wf (h : s.wf) (lk l) : (dropUnbacked s lk l).wf := State.delL2_wf (dropCopies_wf h ..) ..

theorem countStall_wf (h : s.wf) (port lk ev who) : (countStall s port lk ev who).wf := by
  unfold countStall
  split
  · exact h
  · exact State.ite_wf h (State.count_wf (State.setDev_wf h ..) ..)

theorem State.queueFor_wf (h : s.wf) (k w) : (s.queueFor k w).wf := State.ite_wf h (State.setCaches_wf h ..)
theorem State.send_wf (h : s.wf) (o) : (s.send o).wf := h

theorem fillHost_wf (h : s.wf) (q h') : (fillHost s q h').wf := by
  unfold fillHost
  dsimp only
  split
  · exact State.setCaches_wf h ..
  · exact State.setCaches_wf h ..
  · exact State.setCaches_wf h ..
  · exact Res.ite_wf h (Res.ite_wf h (Res.ite_wf h (State.send_wf h ..)))

theorem installSiblings_wf (h : s.wf) (q bs) : (installSiblings s q bs).wf := by
  unfold installSiblings
  refine Res.forEach_wf h (fun _ _ h1 => ?_) ..
  refine Res.ite_wf h1 (Res.bind_wf (takeWay_wf h1 ..) fun _ _ h2 => ?_)
  exact State.setL2_wf h2 ..

theorem reportBadBlock_wf (h : s.wf) (q h') : (reportBadBlock s q h').wf := charge_wf (reportError_wf h ..) ..

theorem fillView_wf (h : s.wf) (q h') : (fillView s q h').wf := by
  unfold fillView
  split
  · exact reportBadBlock_wf h ..
  · exact Res.bind_wf (installSiblings_wf h ..) fun _ _ h1 => h1

theorem fillData_wf (h : s.wf) (q h') : (fillData s q h').wf := by
  unfold fillData
  dsimp only
  refine Res.ite_wf (Res.bind_wf (fillHost_wf h ..) fun _ _ h1 => ?_) (Res.ite_wf h (Res.ite_wf (Res.bind_wf (fillView_wf h ..)
    fun _ _ h1 => ?_) (State.setCaches_wf h ..)))
  · exact Res.ite_wf (fillView_wf h1 ..) h1
  · exact State.setCaches_wf h1 ..

theorem fillFor_wf (h : s.wf) (q h' t mask) : (fillFor s q h' t mask).wf := Res.ite_wf (Res.bind_wf (fillData_wf h ..) fun _ _ h1 => h1) h
theorem refuseEvent_wf (h : s.wf) (h' pa) : (refuseEvent s h' pa).wf := State.count_wf h ..

theorem sliceHit_wf (h : s.wf) (q ev mask lk h' l prog a) : (sliceHit s q ev mask lk h' l prog a).wf := by
  unfold sliceHit
  dsimp only
  refine Res.ite_wf h (Res.ite_wf (refuseEvent_wf h ..) (Res.ite_wf (Res.bind_wf (forceOut_wf h ..) fun _ _ h1 => ?_) (Res.bind_wf
    (Res.ite_wf (touchL2_wf h ..) (fillFor_wf (touchL2_wf h ..) ..)) fun _ _ h1 => ?_)))
  · exact h1
  · exact runTrans_wf h1 ..

theorem sliceAbsent_wf (h : s.wf) (q ev lk h' prog a) : (sliceAbsent s q ev lk h' prog a).wf := by
  unfold sliceAbsent
  dsimp only
  refine Res.ite_wf (Res.ite_wf (State.setPart_wf h ..) (Res.ite_wf h h)) (Res.ite_wf h (Res.ite_wf (refuseEvent_wf h ..) (Res.ite_wf
    (Res.bind_wf (takeWay_wf h ..) fun _ _ h1 => ?_) (Res.ite_wf h ?_))))
  · exact runTrans_wf (touchL2_wf h1 ..) ..
  · split
    · exact h
    · refine Res.bind_wf (forceOut_wf h ..) fun _ _ h1 => ?_
      refine Res.bind_wf (takeWay_wf h1 ..) fun _ _ h2 => ?_
      exact runTrans_wf (touchL2_wf h2 ..) ..

theorem sliceMiss_wf (h : s.wf) (q ev mask lk h' prog a) : (sliceMiss s q ev mask lk h' prog a).wf := by
  unfold sliceMiss
  refine Res.ite_wf (refuseEvent_wf h ..) (Res.ite_wf h (Res.bind_wf (fillFor_wf h ..) fun _ _ h1 => ?_))
  refine Res.bind_wf (Res.ite_wf h1 (takeWay_wf h1 ..)) fun _ _ h2 => ?_
  exact runTrans_wf (State.ite_wf h2 (touchL2_wf h2 ..)) ..

theorem sliceOpen_wf (h : s.wf) (q ev data mask) : (sliceOpen s q ev data mask).wf := by
  unfold sliceOpen
  refine Res.ite_wf h (Res.ite_wf h (Res.ite_wf (countStall_wf h ..) (Res.ite_wf h ?_)))
  split
  · exact sliceHit_wf h ..
  · exact Res.ite_wf (sliceAbsent_wf h ..) (sliceMiss_wf h ..)

theorem sliceEvent_wf (h : s.wf) (q ev data mask) : (sliceEvent s q ev data mask).wf := by
  grind [sliceEvent, Res.wf, sliceOpen_wf, finishBusy_wf]

theorem postPeer_wf (h : s.wf) (q link ev who tenant d m) : (postPeer s q link ev who tenant d m).wf :=
  State.send_wf (State.ite_wf (State.writeHostLine_wf h ..) h) ..

theorem homeAsk_wf (h : s.wf) (q ev) : (homeAsk s q ev).wf := by
  unfold homeAsk
  split
  · exact sliceEvent_wf h ..
  · split <;> exact h

theorem homeSend_wf (h : s.wf) (q ev who tenant d m) : (homeSend s q ev who tenant d m).wf := by
  unfold homeSend
  split
  · exact Res.bind_wf (sliceEvent_wf h ..) fun _ _ h1 => h1
  · exact postPeer_wf h ..

theorem tagPosted_wf (h : s.wf) (r core va) : (tagPosted s r core va).wf := h

theorem evictL1_wf (h : s.wf) (part k l) : (evictL1 s part k l).wf := by
  grind [evictL1, Res.wf, homeSend_wf, State.setL1_wf, State.delL1_wf, Res.orDrop_wf]

theorem touchL1_wf (h : s.wf) (core line way) : (touchL1 s core line way).wf := State.setCore_wf h ..

theorem installL1_wf (h : s.wf) (part core l) : (installL1 s part core l).wf := by
  unfold installL1
  dsimp only
  split
  · exact touchL1_wf (State.setL1_wf h ..) ..
  · split
    · exact h
    · split
      · exact touchL1_wf (State.setL1_wf h ..) ..
      · exact Res.bind_wf (evictL1_wf h ..) fun _ _ h1 => touchL1_wf (State.setL1_wf h1 ..) ..

theorem lookupL1_wf (h : s.wf) (core q cls) : (lookupL1 s core q cls).wf := by
  unfold lookupL1
  dsimp only
  split
  · exact h
  · split
    · exact h
    · exact Res.ite_wf (touchL1_wf h ..) (Res.bind_wf (evictL1_wf h ..) fun _ _ h1 => h1)

theorem receiveL1_wf (h : s.wf) (core q r) : (receiveL1 s core q r).wf := Res.ite_wf h (Res.bind_wf (installL1_wf h ..) fun _ _ h1 => h1)

theorem coreRead_wf (h : s.wf) (core q cls need) : (coreRead s core q cls need).wf := by
  unfold coreRead
  dsimp only
  refine Res.bind_wf (lookupL1_wf h ..) fun _ _ h1 => ?_
  split
  · exact h1
  · split
    · exact Res.bind_wf (homeAsk_wf h1 ..) fun _ _ h2 => receiveL1_wf h2 ..
    · refine Res.bind_wf (homeAsk_wf h1 ..) fun _ _ h2 => ?_
      split
      · exact State.setL1_wf h2 ..
      · exact Res.bind_wf (installL1_wf h2 ..) fun _ _ h3 => h3
    · exact Res.bind_wf (homeAsk_wf h1 ..) fun _ _ h2 => h2

theorem writeThrough_wf (h : s.wf) (k q who tenant d m) : (writeThrough s k q who tenant d m).wf := by
  unfold writeThrough
  refine Res.bind_wf (homeSend_wf h ..) fun _ _ h1 => ?_
  split
  · exact State.setL1_wf h1 ..
  · exact h1

theorem coreWrite_wf (h : s.wf) (core q cls who tenant d m) : (coreWrite s core q cls who tenant d m).wf := by
  grind [coreWrite, Res.wf, homeSend_wf, homeAsk_wf, State.setL1_wf, writeThrough_wf, Res.bind_wf, lookupL1_wf, installL1_wf]

theorem coreOwn_wf (h : s.wf) (core q) : (coreOwn s core q).wf := by
  unfold coreOwn
  dsimp only
  split
  · exact h
  · split
    · refine Res.ite_wf (touchL1_wf h ..) (Res.ite_wf (Res.bind_wf (evictL1_wf h ..) fun _ _ h1 => ?_) (Res.bind_wf (homeAsk_wf
        (State.delL1_wf h ..) ..) fun _ _ h1 => ?_))
      · refine Res.bind_wf (homeAsk_wf h1 ..) fun _ _ h2 => ?_
        refine Res.bind_wf (receiveL1_wf h2 ..) fun _ _ h3 => ?_
        exact Res.ite_wf h3 h3
      · refine Res.bind_wf (receiveL1_wf h1 ..) fun _ _ h2 => ?_
        exact Res.ite_wf h2 h2
    · refine Res.bind_wf (homeAsk_wf h ..) fun _ _ h1 => ?_
      refine Res.bind_wf (receiveL1_wf h1 ..) fun _ _ h2 => ?_
      exact Res.ite_wf h2 h2

theorem coreAtomicWrite_wf (h : s.wf) (core q cls who tenant d m) : (coreAtomicWrite s core q cls who tenant d m).wf := by
  grind [coreAtomicWrite, Res.wf, homeSend_wf, State.setL1_wf, State.delL1_wf]

theorem engineRead_wf (h : s.wf) (core q) : (engineRead s core q).wf := by
  unfold engineRead
  split
  · exact h
  · split
    · exact Res.ite_wf h (Res.bind_wf (homeAsk_wf h ..) fun _ _ h1 => h1)
    · exact Res.bind_wf (homeAsk_wf h ..) fun _ _ h1 => h1

theorem engineWrite_wf (h : s.wf) (core q who tenant d m) : (engineWrite s core q who tenant d m).wf := by
  unfold engineWrite
  dsimp only
  split
  · exact h
  · split
    · refine Res.ite_wf (State.setL1_wf h ..) (Res.ite_wf (Res.bind_wf (homeSend_wf h ..) fun _ _ h1 => ?_) (homeSend_wf h ..))
      exact State.setL1_wf h1 ..
    · exact homeSend_wf h ..

theorem cleanSinv_wf (h : s.wf) (part k l) : (cleanSinv s part k l).wf := by
  unfold cleanSinv
  refine Res.bind_wf (Res.orDrop_wf (homeSend_wf h ..)) fun _ _ h1 => ?_
  split
  · exact State.setL1_wf h1 ..
  · exact h1

theorem sinvWriteBack_wf (h : s.wf) (part core) : (sinvWriteBack s part core).wf := by
  unfold sinvWriteBack
  refine Res.forEach_wf h (fun _ _ h1 => ?_) ..
  split
  · exact h1
  · exact cleanSinv_wf h1 ..

theorem sinvInvalidate_wf (h : s.wf) (core) : (sinvInvalidate s core).wf := State.setCaches_wf h ..

theorem releaseL1_wf (h : s.wf) (part core scope) : (releaseL1 s part core scope).wf := by
  unfold releaseL1
  refine Res.ite_wf h (Res.bind_wf (sinvWriteBack_wf h ..) fun _ _ h1 => ?_)
  split <;> exact h1

theorem acquireL1_wf (h : s.wf) (part core scope) : (acquireL1 s part core scope).wf :=
  Res.ite_wf h (Res.bind_wf (sinvWriteBack_wf h ..) fun _ _ h1 => sinvInvalidate_wf h1 ..)

theorem flushL1_wf (h : s.wf) (part core) : (flushL1 s part core).wf := by
  unfold flushL1
  refine Res.forEach_wf h (fun _ _ h1 => ?_) ..
  split
  · exact h1
  · exact evictL1_wf h1 ..

/-! Translation: a walk reads and marks table entries through the slices. -/

theorem readPhys_wf (h : s.wf) (p pa n) : (readPhys s p pa n).wf := Res.bind_wf (sliceEvent_wf h ..) fun _ _ h1 => h1
theorem writePhys_wf (h : s.wf) (p pa n v) : (writePhys s p pa n v).wf := Res.bind_wf (sliceEvent_wf h ..) fun _ _ h1 => h1

theorem readEntry_wf (h : s.wf) (p tenant stage entry up) : (readEntry s p tenant stage entry up).wf := by
  unfold readEntry
  split
  · exact h
  · exact Res.bind_wf (readPhys_wf h ..) fun _ _ h1 => h1

theorem walkOne_wf (h : s.wf) (p tenant stage inTable acc va up fuel table level) :
    (walkOne s p tenant stage inTable acc va up fuel table level).wf := by
  induction fuel generalizing s up table level with
  | zero => exact h
  | succ fuel ih => unfold walkOne; grind [Res.wf, Res.bind_wf, readEntry_wf]

theorem setAD_wf (h : s.wf) (p l dirty) : (setAD s p l dirty).wf := Res.ite_wf h (writePhys_wf h ..)

theorem walkGuest_wf (h : s.wf) (p tenant s2root acc va up tabs fuel table level) :
    (walkGuest s p tenant s2root acc va up tabs fuel table level).wf := by
  induction fuel generalizing s up tabs table level with
  | zero => exact h
  | succ fuel ih =>
    unfold walkGuest
    refine Res.bind_wf (walkOne_wf h ..) fun s r h => ?_
    split
    · exact h
    · grind [Res.wf, Res.bind_wf, readEntry_wf]

theorem checkLeaf_wf (h : s.wf) (p tenant va acc ahead l guest) : (checkLeaf s p tenant va acc ahead l guest).wf := by
  unfold checkLeaf
  dsimp only
  split
  · exact h
  · split
    · exact h
    · refine Res.ite_wf ?_ (Res.ite_wf h (Res.ite_wf h (Res.ite_wf (State.setPart_wf h ..) ?_)))
      · split
        · exact h
        · exact Res.ite_wf h h
      · split
        · refine Res.bind_wf (setAD_wf (State.setPart_wf h ..) ..) fun _ _ h1 => ?_
          exact h1
        · refine Res.bind_wf (Res.forEach_wf (State.setPart_wf h ..) (fun _ _ h1 => ?_) ..) fun _ _ h1 => ?_
          · exact setAD_wf h1 ..
          · refine Res.bind_wf (setAD_wf h1 ..) fun _ _ h2 => ?_
            refine Res.bind_wf (setAD_wf h2 ..) fun _ _ h3 => ?_
            exact h3

theorem keepUpper_wf {r : Res WalkOut} (hr : r.wf) (old up) : (keepUpper old up r).wf := by
  unfold keepUpper
  refine Res.bind_wf hr fun _ _ h1 => ?_
  split <;> exact h1

theorem walkAll_wf (h : s.wf) (tenant va acc ahead up) : (walkAll s tenant va acc ahead up).wf := by
  unfold walkAll
  split
  · exact h
  · refine Res.ite_wf (Res.bind_wf (walkGuest_wf h ..) fun _ _ h1 => ?_) (Res.bind_wf (walkOne_wf h ..) fun _ _ h1 => ?_)
    · split
      · exact h1
      · refine Res.bind_wf (walkOne_wf h1 ..) fun _ _ h2 => ?_
        split
        · exact h2
        · exact keepUpper_wf (checkLeaf_wf h2 ..) ..
    · split
      · exact h1
      · exact keepUpper_wf (checkLeaf_wf h1 ..) ..

theorem installTlb_wf (h : s.wf) (core e) : (installTlb s core e).wf := State.setMmu_wf h ..
theorem dropTlb_wf (h : s.wf) (f g) : (dropTlb s f g).wf := State.setMmu_wf h ..

theorem fillTlb_wf (h : s.wf) (core tenant va acc) : (fillTlb s core tenant va acc).wf := by
  unfold fillTlb
  refine State.ite_wf h ?_
  split
  · exact State.setMmu_wf h ..
  · exact h

theorem dropDenied_wf (h : s.wf) (core tenant page acc) : (dropDenied s core tenant page acc).wf := State.setMmu_wf h ..

theorem queueWalk_wf (h : s.wf) (tenant page acc who) : (queueWalk s tenant page acc who).wf := by
  unfold queueWalk
  grind [dropDenied_wf, State.setMmu_wf]

theorem noteFault_wf (h : s.wf) (tenant detail addr) : (noteFault s tenant detail addr).wf := State.setFunc_wf h ..
theorem noteXlate_wf (h : s.wf) (tenant cause detail addr) : (noteXlate s tenant cause detail addr).wf := State.ite_wf (noteFault_wf h ..) h

theorem attachReq_wf (h : s.wf) (tenant stage level table entry addr acc lanes eng) :
    (attachReq s tenant stage level table entry addr acc lanes eng).1.wf := by
  grind [attachReq, State.setMmu_wf, State.setFunc_wf]

theorem detach_wf (h : s.wf) (lane eng) : (detach s lane eng).wf := State.setMmu_wf h ..
theorem forget_wf (h : s.wf) (mine) : (forget s mine).wf := h
theorem detachSplit_wf (h : s.wf) (r) : (detachSplit s r).wf := detach_wf (forget_wf h ..) ..
theorem detachWho_wf (h : s.wf) (w) : (detachWho s w).wf := detach_wf (forget_wf h ..) ..

theorem xlateNow_wf (h : s.wf) (core tenant va acc known) : (xlateNow s core tenant va acc known).wf := by
  unfold xlateNow
  split
  · exact fillTlb_wf h ..
  · exact h
  · exact h

/-! The device's own accesses of virtual memory. -/

theorem hwRead_wf (h : s.wf) (core part tenant acc known answers va n) :
    (hwRead s core part tenant acc known answers va n).wf := by
  refine Res.foldl_wf h fun r pc hr => Res.bind_wf hr fun s bs h => ?_
  split
  · exact h
  · refine Res.bind_wf (xlateNow_wf h ..) fun s x h => ?_
    split
    · exact h
    · exact Res.bind_wf (engineRead_wf h ..) fun _ _ h => h

theorem hwWrite_wf (h : s.wf) (core part tenant who known answers va bs) :
    (hwWrite s core part tenant who known answers va bs).wf := by
  refine Res.foldl_wf h fun r pc hr => Res.bind_wf hr fun s done h => ?_
  split
  · exact h
  · refine Res.bind_wf (xlateNow_wf h ..) fun s x h => ?_
    split
    · exact h
    · refine Res.bind_wf ?_ fun _ _ h => h
      split
      · exact engineWrite_wf h ..
      · exact coreWrite_wf h ..

theorem askRemote_wf (h : s.wf) (who part tenant atomic link line ev) : (askRemote s who part tenant atomic link line ev).wf :=
  State.ite_wf h (State.send_wf h ..)

theorem waitOn_wf (h : s.wf) (who part tenant w) : (waitOn s who part tenant w).wf := by
  unfold waitOn
  split
  · exact askRemote_wf h ..
  · exact queueWalk_wf h ..
  · exact h

theorem waitStop_wf (h : s.wf) (r part tenant atomic w) : (waitStop s r part tenant atomic w).wf := by
  unfold waitStop
  split
  · exact State.waitFor_wf (State.queueFor_wf h ..) ..
  · exact State.waitFor_wf (State.queueFor_wf h ..) ..
  · exact askRemote_wf (State.waitFor_wf h ..) ..
  · exact State.waitFor_wf (queueWalk_wf h ..) ..
  · exact h

/-! What ends: tokens, completion words, freed resources, launches. -/

theorem writeToken_wf (h : s.wf) (r reg v) : (writeToken s r reg v).wf := State.updSplit_wf h ..
theorem releaseWaiters_wf (h : s.wf) (gh w scope) : (releaseWaiters s gh w scope).wf := State.updGroup_wf h ..

theorem barEval_wf (h : s.wf) (crew b) : (barEval s crew b).wf := by
  grind [barEval, State.foldl_wf, releaseWaiters_wf, State.updCrew_wf]

theorem cbarEval_wf (h : s.wf) (launch cord b) : (cbarEval s launch cord b).wf := by
  grind [cbarEval, State.foldl_wf, releaseWaiters_wf, State.updCrew_wf, State.updLaunch_wf]

theorem freeSlot_wf (h : s.wf) (tenant region) : (freeSlot s tenant region).wf := h

theorem freeGroup_wf (h : s.wf) (gh) : (freeGroup s gh).wf := by
  unfold freeGroup
  dsimp only
  split
  · exact h
  · split
    · exact h
    · exact State.ite_wf (freeSlot_wf (detach_wf (State.setCore_wf h ..) ..) ..) (freeSlot_wf (freeSlot_wf (detach_wf
        (State.setCore_wf h ..) ..) ..) ..)

theorem freeCrew_wf (h : s.wf) (ch) : (freeCrew s ch).wf := by
  grind [freeCrew, State.wf, State.foldl_wf, freeGroup_wf, detach_wf, State.setCore_wf]

theorem queueInterrupt_wf (h : s.wf) (f q) : (queueInterrupt s f q).wf := sendMsi_wf (State.setFunc_wf h ..) ..

theorem finishWords_wf (h : s.wf) (l) : (finishWords s l).wf := by
  unfold finishWords
  split
  · exact h
  · refine State.ite_wf ?_ h
    split
    · exact queueInterrupt_wf (State.updLaunch_wf h ..) ..
    · exact queueInterrupt_wf (State.updLaunch_wf h ..) ..
    · exact State.updLaunch_wf h ..

theorem dropWord_wf (h : s.wf) (l x addr) : (dropWord s l x addr).wf := finishWords_wf (State.updLaunch_wf (reportDrop_wf h ..) ..) ..

theorem pushWord_wf (h : s.wf) (l) : (pushWord s l).wf := by
  unfold pushWord
  split
  · exact h
  · split
    · exact h
    · split
      · grind [noteXlate_wf, finishWords_wf, writeHost_wf, dropWord_wf, State.updLaunch_wf]
      · grind [Res.wf, noteXlate_wf, finishWords_wf, attachReq_wf, dropWord_wf, State.updLaunch_wf, waitOn_wf, hwWrite_wf]
      · exact h

theorem addWord_wf (h : s.wf) (l w) : (addWord s l w).wf := by
  unfold addWord
  split
  · exact h
  · exact State.ite_wf (pushWord_wf (State.updLaunch_wf h ..) ..) (State.updLaunch_wf h ..)

theorem childToken_wf (h : s.wf) (r reg v) : (childToken s r reg v).wf :=
  State.ite_wf (State.updSplit_wf (writeToken_wf h ..) ..) (writeToken_wf h ..)

theorem endLaunch_wf (h : s.wf) (l code) : (endLaunch s l code).wf := by
  unfold endLaunch
  dsimp only
  split
  · exact h
  · split
    · exact h
    · exact h
    · exact h
    · split
      · exact childToken_wf (State.updLaunch_wf h ..) ..
      · exact addWord_wf (State.updLaunch_wf h ..) ..

theorem refuseLaunch_wf (h : s.wf) (l status) : (refuseLaunch s l status).wf := by
  unfold refuseLaunch
  split
  · exact h
  · split
    · exact writeToken_wf (State.updLaunch_wf h ..) ..
    · exact addWord_wf (State.setQueue_wf (State.updLaunch_wf h ..) ..) ..
    · exact addWord_wf (State.setQueue_wf (State.updLaunch_wf h ..) ..) ..

theorem tryClose_wf (h : s.wf) (l) : (tryClose s l).wf := by
  grind [tryClose, Res.wf, State.updLaunch_wf, endLaunch_wf, sinvWriteBack_wf, Res.forEach_wf]

theorem closeLaunch_wf (h : s.wf) (l code cores) : (closeLaunch s l code cores).wf := tryClose_wf (State.updLaunch_wf h ..) ..

theorem abortLaunch_wf (h : s.wf) (l code) : (abortLaunch s l code).wf := by
  grind [abortLaunch, State.foldl_wf, closeLaunch_wf, State.setDev_wf, freeCrew_wf]

/-! Traps, parking, and the retirement of a group. -/

theorem pushGate_wf (h : s.wf) (c e) : (pushGate s c e).wf := State.setPair_wf h ..
theorem countFrame_wf (h : s.wf) (tenant) : (countFrame s tenant).wf := h

theorem writeFrame_wf (h : s.wf) (c words) : (writeFrame s c words).wf := by
  unfold writeFrame
  dsimp only
  split
  · exact h
  · refine Res.ite_wf h ?_
    split
    · exact h
    · refine Res.bind_wf (sinvWriteBack_wf h ..) fun _ _ h1 => ?_
      refine Res.bind_wf (xlateNow_wf h1 ..) fun _ _ h2 => ?_
      refine Res.bind_wf (xlateNow_wf h2 ..) fun _ _ h3 => ?_
      split
      · exact h3
      · exact h3
      · refine Res.ite_wf (countFrame_wf (pushGate_wf h3 ..) ..) (Res.bind_wf (coreWrite_wf h3 ..) fun _ _ h4 => ?_)
        refine Res.bind_wf (coreWrite_wf h4 ..) fun _ _ h5 => ?_
        exact countFrame_wf h5 ..

theorem dropFrame_wf (h : s.wf) (c f) : (dropFrame s c f).wf := by
  unfold dropFrame
  refine reportDrop_wf ?_ ..
  split
  · exact noteXlate_wf h ..
  · exact h

theorem endFrames_wf (h : s.wf) (l) : (endFrames s l).wf := by
  unfold endFrames
  dsimp only
  split
  · exact h
  · exact State.ite_wf (abortLaunch_wf h ..) h

theorem lastFrame_wf (h : s.wf) (r) : (lastFrame s r).wf := by
  grind [lastFrame, Res.wf, writeFrame_wf, State.updSplit_wf, dropFrame_wf, waitStop_wf, State.waitFor_wf, endFrames_wf]

theorem squash_wf (h : s.wf) (r) : (squash s r).wf := State.updSplit_wf (detachSplit_wf h ..) ..

theorem failWith_wf (h : s.wf) (c pc r repcnt mprog second code) : (failWith s c pc r repcnt mprog second code).wf :=
  lastFrame_wf (State.updSplit_wf (squash_wf h ..) ..) ..

theorem act8_wf (h : s.wf) (c cause) : (act8 s c cause).wf := State.ite_wf (pushGate_wf h ..) h
theorem doubleError_wf (h : s.wf) (c pc r mprog) : (doubleError s c pc r mprog).wf := failWith_wf h ..
theorem enterHandler_wf (h : s.wf) (c handler pc) : (enterHandler s c handler pc).wf := State.updSplit_wf (squash_wf h ..) ..

theorem parkOn_wf (h : s.wf) (c stage level table entry addr acc va) : (parkOn s c stage level table entry addr acc va).wf := by
  grind [parkOn, act8_wf, attachReq_wf, State.updSplit_wf]

theorem deliverTrap_wf (h : s.wf) (c pc r) : (deliverTrap s c pc r).wf := by
  grind [deliverTrap, Res.wf, writeFrame_wf, doubleError_wf, noteXlate_wf, abortLaunch_wf, failWith_wf, enterHandler_wf,
    State.updSplit_wf, waitStop_wf, State.waitFor_wf, parkOn_wf]

theorem raiseAt_wf (h : s.wf) (c pc r mprog) : (raiseAt s c pc r mprog).wf := by
  unfold raiseAt
  dsimp only
  exact State.ite_wf (doubleError_wf (noteXlate_wf h ..) ..) (deliverTrap_wf (State.updSplit_wf (squash_wf (State.ite_wf (noteXlate_wf h
    ..) (act8_wf (noteXlate_wf h ..) ..)) ..) ..) ..)

theorem raise_wf (h : s.wf) (c cause mask addr detail va) : (raise s c cause mask addr detail va).wf := raiseAt_wf h ..
theorem raiseVa_wf (h : s.wf) (c cause mask a detail) : (raiseVa s c cause mask a detail).wf := raise_wf h ..

theorem trapReturn_wf (h : s.wf) (c) : (trapReturn s c).wf := by
  unfold trapReturn
  split
  · exact raise_wf h ..
  · exact State.ite_wf (raise_wf h ..) (State.updSplit_wf h ..)

theorem raiseGang_wf (h : s.wf) (rs) : (raiseGang s rs).wf := by
  grind [raiseGang, State.foldl_wf, raiseAt_wf]

theorem breakCord_wf (h : s.wf) (launch cord refs) : (breakCord s launch cord refs).wf := by
  grind [breakCord, State.foldl_wf, raiseGang_wf, State.updLaunch_wf, State.setCore_wf]

theorem retireGroup_wf (h : s.wf) (gh) : (retireGroup s gh).wf := by
  unfold retireGroup
  split
  case h_1 => exact h
  case h_2 g _ =>
    split
    case h_1 => exact freeGroup_wf h ..
    case h_2 cr _ =>
      extract_lets part hit
      split
      case h_1 stopped => exact Res.wf_of_stop stopped (sinvWriteBack_wf h ..)
      case h_2 s _ done =>
        extract_lets x broken cleared freed refs told barred rebarred left counted
        have hfreed : freed.wf := freeGroup_wf (State.setCore_wf (Res.wf_of_ok done (sinvWriteBack_wf h ..)) ..) ..
        have htold : told.wf := State.ite_wf (breakCord_wf hfreed ..) (raiseGang_wf hfreed ..)
        have hbarred : barred.wf := State.foldl_wf (fun _ _ h => barEval_wf h ..) _ htold
        have hrebarred : rebarred.wf := State.foldl_wf (fun _ _ h => cbarEval_wf h ..) _ hbarred
        have hleft : left.wf := freeCrew_wf hrebarred ..
        have hcounted : counted.wf := State.updLaunch_wf hleft ..
        clear_value rebarred left counted
        grind [closeLaunch_wf]

theorem missWait_wf (h : s.wf) (c acc missed) : (missWait s c acc missed).wf := by
  grind [missWait, State.foldl_wf, queueWalk_wf, State.waitFor_wf]

theorem parkLanes_wf (h : s.wf) (c acc bad) : (parkLanes s c acc bad).wf := by
  grind [parkLanes, State.foldl_fst_wf, act8_wf, attachReq_wf, State.updSplit_wf]

theorem withXlated_wf (h : s.wf) {miss : State} (hmiss : miss.wf)
    {k : State → List (Nat × Xlated) → Option (List (Nat × XFault × W64)) → State} (hk : ∀ s x y, s.wf → (k s x y).wf)
    (c acc ls partly) :
    (withXlated s c acc ls miss partly k).wf := by
  unfold withXlated
  refine State.ite_wf hmiss ?_
  split
  · exact hk _ _ _ h
  · exact raiseVa_wf h ..
  · exact State.ite_wf (hk _ _ _ h) (parkLanes_wf h ..)

theorem withLanes_wf (h : s.wf)
    {k : State → List (Nat × Xlated) → Option (List (Nat × XFault × W64)) → State} (hk : ∀ s x y, s.wf → (k s x y).wf)
    (c acc addrs partly) :
    (withLanes s c acc addrs partly k).wf := by
  grind [withLanes, State.foldl_wf, withXlated_wf, fillTlb_wf, missWait_wf]

theorem raiseStop_wf (h : s.wf) (c mask acc w) : (raiseStop s c mask acc w).wf := by
  unfold raiseStop
  split
  · exact raise_wf h ..
  · exact raise_wf h ..
  · exact raise_wf h ..
  · exact raise_wf h ..
  · exact raise_wf h ..
  · exact waitStop_wf h ..

theorem withAligned_wf (h : s.wf) {k : State} (hk : k.wf) (c addrs size) : (withAligned s c addrs size k).wf := by
  unfold withAligned
  split
  · exact raise_wf h ..
  · exact hk

theorem withBound_wf (h : s.wf) {k : State} (hk : k.wf) (c addrs n acc) : (withBound s c addrs n acc k).wf := by
  unfold withBound
  split
  · exact raiseVa_wf h ..
  · exact hk

theorem withLatch_wf (h : s.wf) {k : State} (hk : k.wf) (c scope all) : (withLatch s c scope all k).wf := by
  unfold withLatch
  split
  · exact State.ite_wf (raise_wf (State.updSplit_wf h ..) ..) hk
  · exact hk

/-! The flags and the event counters. -/

theorem fpInterrupt_wf (h : s.wf) (launch tenant i) : (fpInterrupt s launch tenant i).wf := sendMsi_wf (State.setFunc_wf h ..) ..

theorem countEvent_wf (h : s.wf) (launch i) : (countEvent s launch i).wf := by
  unfold countEvent
  split
  · exact h
  · exact State.ite_wf (fpInterrupt_wf (State.updLaunch_wf h ..) ..) (State.updLaunch_wf h ..)

theorem State.note_wf (h : s.wf) (group launch m) : (s.note group launch m).wf := by
  grind [State.note, State.foldl_wf, State.updGroup_wf, countEvent_wf]

/-! Billets and the flashback of a split. -/

theorem rewindTo_wf (h : s.wf) (c n) : (rewindTo s c n).wf := by
  grind [rewindTo, State.wf, State.foldl_wf, State.updGroup_wf, detachWho_wf, State.updLaunch_wf, detachSplit_wf, State.setCore_wf]

theorem flashback_wf (h : s.wf) (r confirmed) : (flashback s r confirmed).wf := by
  unfold flashback
  split
  · exact h
  · split
    · exact h
    · exact rewindTo_wf h ..

/-! The checking block of a clamp. -/

theorem dropGate_wf (h : s.wf) (k f) : (dropGate s k f).wf := by
  grind [dropGate, State.wf, State.setPair_wf]

theorem dropLaunch_wf (h : s.wf) (k launch) : (dropLaunch s k launch).wf := dropGate_wf h ..
theorem checkFail_wf (h : s.wf) (launch) : (checkFail s launch).wf := abortLaunch_wf h ..

theorem rollback_wf (h : s.wf) (k c) : (rollback s k c).wf := by
  grind [rollback, State.foldl_wf, flashback_wf, State.updSplit_wf, dropGate_wf, State.setPair_wf]

theorem escalate_wf (h : s.wf) (k c pc) : (escalate s k c pc).wf := by
  grind [escalate, State.foldl_wf, dropLaunch_wf, failWith_wf, safePin_wf, errInterrupt_wf, State.setPair_wf, charge_wf]

theorem noteMismatch_wf (h : s.wf) (core grp split launch tenant pc kind lane found lead trail) :
    (noteMismatch s core grp split launch tenant pc kind lane found lead trail).wf :=
  State.ite_wf (charge_wf (State.setPair_wf h ..) ..) (charge_wf (charge_wf (State.setPair_wf h ..) ..) ..)

theorem mismatch_wf (h : s.wf) (r pc kind lane found lead trail) : (mismatch s r pc kind lane found lead trail).wf := by
  unfold mismatch
  dsimp only
  split
  · exact h
  · exact State.ite_wf (checkFail_wf (dropLaunch_wf (noteMismatch_wf h ..) ..) ..) (State.ite_wf (escalate_wf (noteMismatch_wf h ..)
      ..) (rollback_wf (noteMismatch_wf h ..) ..))

theorem held_wf (h : s.wf) {k : State} (hk : k.wf) (c kind lead) : (held s c kind lead k).wf :=
  State.ite_wf hk (State.waitFor_wf (pushGate_wf h ..) ..)

theorem compared_wf (h : s.wf) (c kind lead) : (compared s c kind lead).wf := State.ite_wf (pushGate_wf h ..) h
theorem State.seal_wf (h : s.wf) (r) : (s.seal r).wf := State.updSplit_wf h ..
theorem State.shadowDone_wf (h : s.wf) (r) : (s.shadowDone r).wf := h

theorem withShadow_wf (h : s.wf) {k : State → State} (hk : ∀ s, s.wf → (k s).wf) (c mask f m) : (withShadow s c mask f m k).wf := by
  unfold withShadow
  dsimp only
  refine State.ite_wf (hk _ h) ?_
  split
  · exact hk _ h
  · exact State.ite_wf (hk _ (State.shadowDone_wf h ..)) (State.ite_wf (mismatch_wf (charge_wf (State.shadowDone_wf h ..) ..) ..)
      (raise_wf (charge_wf (State.shadowDone_wf h ..) ..) ..))

/-! The shared shapes of the S and V classes. -/

theorem once_wf (h : s.wf) {k : State} (hk : k.wf) (c q) : (once s c q k).wf := State.ite_wf hk (State.retire_wf h ..)

theorem scalarOp_wf (h : s.wf) (c q dst e ext) : (scalarOp s c q dst e ext).wf :=
  once_wf h (State.retire_wf (State.note_wf (State.updSplit_wf h ..) ..) ..) ..

theorem scalarInt_wf (h : s.wf) (f op) : NextWf (scalarInt f op s) := withCtx_wf fun _ => scalarOp_wf h ..

theorem laneOpOn_wf (h : s.wf) (c q m dst span val) : (laneOpOn s c q m dst span val).wf :=
  State.ite_wf (State.retire_wf h ..) (State.retire_wf (State.note_wf (State.updGroup_wf h ..) ..) ..)

theorem laneOp_wf (h : s.wf) (c q dst span val) : (laneOp s c q dst span val).wf := laneOpOn_wf h ..

theorem floatOp_wf (h : s.wf) (c q t dst span val) : (floatOp s c q t dst span val).wf :=
  State.ite_wf (State.retire_wf h ..) (withShadow_wf h (fun _ h1 => laneOp_wf h1 ..) ..)

theorem convOp_wf (h : s.wf) (c q t dst span val lo) : (convOp s c q t dst span val lo).wf := by
  unfold convOp
  refine State.ite_wf (State.retire_wf h ..) ?_
  split
  · exact laneOpOn_wf h ..
  · exact withShadow_wf h (fun _ h1 => laneOpOn_wf h1 ..) ..

theorem predOp_wf (h : s.wf) (c q dst val) : (predOp s c q dst val).wf :=
  State.ite_wf (State.retire_wf h ..) (State.retire_wf (State.updGroup_wf h ..) ..)

theorem vectorInt_wf (h : s.wf) (f op) : NextWf (vectorInt f op s) := withCtx_wf fun _ => laneOp_wf h ..
theorem vectorFloat_wf (h : s.wf) (f op) : NextWf (vectorFloat f op s) := withCtx_wf fun _ => floatOp_wf h ..

/-! Accesses by lane: a sweep threads the state through its lanes, and a continuation is given a canonical state. -/

theorem sweep_wf {α : Type} (h : s.wf) {f : State → Nat → Xlated → Res α} (hf : ∀ s x y, s.wf → (f s x y).wf) (lanes) :
    (sweep s f lanes).s.wf := by
  induction lanes generalizing s with
  | nil => exact h
  | cons p rest ih => unfold sweep; grind [Res.wf]

theorem addLate_wf (h : s.wf) (part tenant va line who) : (addLate s part tenant va line who).wf := State.setPart_wf h ..
theorem startLate_wf (h : s.wf) (c va x) : (startLate s c va x).wf := State.waitFor_wf (addLate_wf h ..) ..

theorem raiseFatal_wf (h : s.wf) (c acc addrs fatal) : (raiseFatal s c acc addrs fatal).wf := by
  unfold raiseFatal
  dsimp only
  split
  · exact h
  · split
    · exact State.ite_wf (startLate_wf h ..) (raise_wf h ..)
    · exact raise_wf h ..
    · exact raiseVa_wf h ..
    · exact raise_wf h ..
    · exact raise_wf h ..

theorem withAborted_wf (h : s.wf) {k : State} (hk : k.wf) (c good addrs) : (withAborted s c good addrs k).wf := by
  unfold withAborted
  split
  · exact hk
  · exact raise_wf h ..

theorem leave_wf (h : s.wf) (c lanes) : (leave s c lanes).wf := State.updSplit_wf h ..

theorem Sweep.settle_wf {α : Type} {w : Sweep α} (hw : w.s.wf)
    {write : State → List (Nat × α) → State} (hwrite : ∀ s x, s.wf → (write s x).wf)
    {k : State → List (Nat × α) → State} (hk : ∀ s x, s.wf → (k s x).wf) (c acc addrs keeps bad) :
    (Sweep.settle w c acc addrs keeps bad write k).wf := by
  unfold Sweep.settle
  split
  · exact waitStop_wf (State.ite_wf (leave_wf (hwrite _ _ hw) ..) hw) ..
  · split
    · exact parkLanes_wf (leave_wf (hwrite _ _ hw) ..) ..
    · exact State.ite_wf (hk _ _ hw) (raiseFatal_wf (State.ite_wf (leave_wf (hwrite _ _ hw) ..) hw) ..)

theorem readLane_wf (h : s.wf) (c n lane x) : (readLane c n s lane x).wf := Res.bind_wf (coreRead_wf h ..) fun _ _ h1 => h1
theorem holdZeros_wf {s' : State} (hs' : s'.wf) (who pc keys) : (holdZeros s s' who pc keys).wf := State.setCaches_wf hs' ..

theorem demoteLine_wf (h : s.wf) (part lk) : (demoteLine s part lk).wf := by
  grind [demoteLine, State.foldl_wf, evictL1_wf, State.setL2_wf, Res.state_wf]

theorem demote_wf (h : s.wf) (c) : (demote s c).wf := by
  grind [demote, State.foldl_wf, demoteLine_wf]

theorem withGateEmpty_wf (h : s.wf) {k : State} (hk : k.wf) (c) : (withGateEmpty s c k).wf := State.ite_wf (State.waitFor_wf h ..) hk

theorem withRelease_wf (h : s.wf) {k : State → State} (hk : ∀ s, s.wf → (k s).wf) (c on scope) : (withRelease s c on scope k).wf := by
  grind [withRelease, Res.wf, releaseL1_wf, withLatch_wf, waitStop_wf, withGateEmpty_wf]

theorem withAcquire_wf (h : s.wf) {k : State → State} (hk : ∀ s, s.wf → (k s).wf) (c on scope) : (withAcquire s c on scope k).wf := by
  grind [withAcquire, Res.wf, waitStop_wf, acquireL1_wf]

theorem withBytesOf_wf (h : s.wf) {rd : Nat → State → Xlated → Res Nat} (hrd : ∀ x s y, s.wf → (rd x s y).wf)
    {k : State → List Byte → State} (hk : ∀ s x, s.wf → (k s x).wf) (c acc mask va n) : (withBytesOf s c acc mask rd va n k).wf := by
  unfold withBytesOf
  dsimp only
  refine State.ite_wf (missWait_wf h ..) ?_
  split
  · exact raiseVa_wf h ..
  · exact parkLanes_wf h ..
  · exact raise_wf h ..
  · have hf := State.foldl_wf (f := fun s (p : Nat × Nat × Nat) => fillTlb s c.crew.core c.launch.tenant (w64 p.1) acc)
      (fun _ _ h => fillTlb_wf h ..) (linePieces va (n + 1) n) h
    grind [Res.wf, Res.bind_wf, raiseStop_wf, waitStop_wf, Res.foldl_wf]

theorem withBytes_wf (h : s.wf) {k : State → List Byte → State} (hk : ∀ s x, s.wf → (k s x).wf) (c mask va n) :
    (withBytes s c mask va n k).wf :=
  withBytesOf_wf h (fun _ _ _ h2 => readLane_wf h2 ..) hk ..

theorem withFetch_wf (h : s.wf) {k : State → List Byte → State} (hk : ∀ s x, s.wf → (k s x).wf) (c va n) : (withFetch s c va n k).wf := by
  unfold withFetch
  refine withBytesOf_wf h (fun _ _ _ h2 => ?_) hk ..
  refine Res.bind_wf (engineRead_wf h2 ..) fun _ _ h3 => ?_
  exact h3

/-! The S class. -/

theorem execNop_wf (h : s.wf) (f) : NextWf (execNop f s) := withCtx_wf fun _ => State.retire_wf h ..
theorem execScmp_wf (h : s.wf) (f) : NextWf (execScmp f s) := withCtx_wf fun _ => once_wf h (State.retire_wf (State.updGroup_wf h ..) ..) ..
theorem execSmov_wf (h : s.wf) (f) : NextWf (execSmov f s) := withCtx_wf fun _ => scalarOp_wf h ..
theorem execSmovi_wf (h : s.wf) (f) : NextWf (execSmovi f s) := withCtx_wf fun _ => scalarOp_wf h ..
theorem execSmovhi_wf (h : s.wf) (f) : NextWf (execSmovhi f s) := withCtx_wf fun _ => scalarOp_wf h ..
theorem execSsel_wf (h : s.wf) (f) : NextWf (execSsel f s) := withCtx_wf fun _ => scalarOp_wf h ..
theorem execSbit_wf (h : s.wf) (f) : NextWf (execSbit f s) := withCtx_wf fun _ => scalarOp_wf h ..
theorem execSbfx_wf (h : s.wf) (f) : NextWf (execSbfx f s) := withCtx_wf fun _ => scalarOp_wf h ..

theorem execSrd_wf (h : s.wf) (f) : NextWf (execSrd f s) := by
  unfold execSrd
  refine withCtx_wf fun _ => ?_
  split
  · exact laneOpOn_wf h ..
  · exact laneOpOn_wf h ..
  · exact scalarOp_wf h ..

theorem writeSpecial_wf (h : s.wf) (c i v) : (writeSpecial s c i v).wf := by
  unfold writeSpecial
  split
  · exact State.updSplit_wf h ..
  · exact State.updGroup_wf h ..
  · exact State.updGroup_wf h ..
  · exact State.updGroup_wf h ..
  · exact State.updSplit_wf h ..
  · exact State.updSplit_wf h ..
  · exact State.updSplit_wf h ..
  · exact State.updSplit_wf h ..
  · exact h

theorem execSwr_wf (h : s.wf) (f) : NextWf (execSwr f s) :=
  withCtx_wf fun _ => State.ite_wf (raise_wf h ..) (once_wf h (State.retire_wf (writeSpecial_wf h ..) ..) ..)

theorem execSfmt_wf (h : s.wf) (f) : NextWf (execSfmt f s) := withCtx_wf fun _ => once_wf h (State.retire_wf (State.updSplit_wf h ..) ..) ..

theorem execSfmtRnd_wf (h : s.wf) (f) : NextWf (execSfmtRnd f s) :=
  withCtx_wf fun _ => once_wf h (State.retire_wf (State.updSplit_wf h ..) ..) ..

theorem execSfmtSat_wf (h : s.wf) (f) : NextWf (execSfmtSat f s) :=
  withCtx_wf fun _ => once_wf h (State.retire_wf (State.updSplit_wf h ..) ..) ..

theorem bindBank_wf (h : s.wf) (c b) : (bindBank s c b).wf := State.updSplit_wf h ..
theorem execSfmtAtb_wf (h : s.wf) (f) : NextWf (execSfmtAtb f s) := withCtx_wf fun _ => once_wf h (State.retire_wf (bindBank_wf h ..) ..) ..
theorem execVote_wf (h : s.wf) (f) : NextWf (execVote f s) := withCtx_wf fun _ => scalarOp_wf h ..

/-! The M class. -/

theorem acquireNow_wf (h : s.wf) (c on scope) : (acquireNow s c on scope).wf := State.ite_wf (sinvInvalidate_wf h ..) h

theorem withWriteBack_wf (h : s.wf) {k : State → State} (hk : ∀ s, s.wf → (k s).wf) (c on scope) : (withWriteBack s c on scope k).wf := by
  grind [withWriteBack, Res.wf, releaseL1_wf, waitStop_wf, withGateEmpty_wf]

theorem withGateSeen_wf (h : s.wf) {k : State} (hk : k.wf) (c on good) : (withGateSeen s c on good k).wf := by
  unfold withGateSeen
  dsimp only
  split
  · exact State.ite_wf (State.waitFor_wf h ..) hk
  · exact hk

theorem writeLoads_wf (h : s.wf) (c f vals) : (writeLoads c f s vals).wf := State.updGroup_wf h ..
theorem foundLoads_wf {s' : State} (hs' : s'.wf) (c f n addrs vals) : (foundLoads s c f n addrs s' vals).wf := writeLoads_wf hs' ..

theorem execLd_wf (h : s.wf) (f) : NextWf (execLd f s) := by
  unfold execLd
  dsimp only
  refine withCtx_wf fun _ => ?_
  refine State.ite_wf (State.retire_wf h ..) (withAligned_wf h (withLanes_wf h (fun _ _ _ h1 => ?_) ..) ..)
  refine withAborted_wf h1 (withGateSeen_wf h1 (Sweep.settle_wf (sweep_wf h1 (fun _ _ _ h2 => ?_) ..) (fun _ _ h2 => ?_)
    (fun _ _ h2 => ?_) ..) ..) ..
  · exact readLane_wf h2 ..
  · exact foundLoads_wf h2 ..
  · refine withAcquire_wf h2 (fun _ h3 => ?_) ..
    exact State.retire_wf (foundLoads_wf h3 ..) ..

theorem latchRefused_wf {r : Res Unit} (hr : r.wf) (c va) : (latchRefused c va r).wf := by
  unfold latchRefused
  grind [Res.wf, State.updSplit_wf]

theorem storeLane_wf (h : s.wf) (c f n keep addrs l x) : (storeLane c f n keep addrs s l x).wf := by
  unfold storeLane
  refine latchRefused_wf (Res.bind_wf (coreWrite_wf h ..) fun _ _ h1 => ?_) ..
  exact tagPosted_wf h1 ..

theorem grantLane_wf (h : s.wf) (c keep lane x) : (grantLane c keep s lane x).wf := by
  grind [grantLane, Res.wf, coreWrite_wf]

theorem withGrants_wf (h : s.wf) {k : State → State} (hk : ∀ s, s.wf → (k s).wf) (c acc addrs good) :
    (withGrants s c acc addrs good k).wf := by
  unfold withGrants
  dsimp only
  refine State.ite_wf (hk _ h) ?_
  split
  · refine waitStop_wf (holdZeros_wf (sweep_wf h (fun _ _ _ h2 => ?_) ..) ..) ..
    exact grantLane_wf h2 ..
  · refine State.ite_wf (hk _ (sweep_wf h (fun _ _ _ h2 => ?_) ..)) (raiseFatal_wf (demote_wf (holdZeros_wf (sweep_wf h
      (fun _ _ _ h2 => ?_) ..) ..) ..) ..)
    · exact grantLane_wf h2 ..
    · exact grantLane_wf h2 ..

theorem gated_wf (h : s.wf) {perform : State → State} (hperform : ∀ s, s.wf → (perform s).wf)
    {pushed : State → State} (hpushed : ∀ s, s.wf → (pushed s).wf) (c addrs good stores) :
    (gated s c addrs good stores perform pushed).wf := by
  unfold gated
  dsimp only
  exact State.ite_wf (hperform _ h) (State.ite_wf (State.ite_wf (hperform _ h) (State.waitFor_wf (pushGate_wf h ..) ..)) (State.ite_wf
    (State.waitFor_wf h ..) (hpushed _ (State.ite_wf h (pushGate_wf h ..)))))

theorem pushedEnd_wf (h : s.wf) (c bad) : (pushedEnd c bad s).wf := by
  unfold pushedEnd
  split
  · exact State.retire_wf h ..
  · exact parkLanes_wf (leave_wf h ..) ..

theorem latchSpoilt_wf (h : s.wf) (c addrs good) : (latchSpoilt s c addrs good).wf := by
  unfold latchSpoilt
  split
  · exact State.updSplit_wf h ..
  · exact h

theorem execSt_wf (h : s.wf) (f) : NextWf (execSt f s) := by
  unfold execSt
  dsimp only
  refine withCtx_wf fun _ => ?_
  refine State.ite_wf (State.retire_wf h ..) (withAligned_wf h (withLanes_wf h (fun _ _ _ h1 => ?_) ..) ..)
  refine withAborted_wf (latchSpoilt_wf h1 ..) (withRelease_wf (latchSpoilt_wf h1 ..) (fun _ h2 => ?_) ..) ..
  refine gated_wf h2 (fun _ h3 => ?_) (fun _ h3 => ?_) ..
  · refine State.ite_wf (Sweep.settle_wf (sweep_wf h3 (fun _ _ _ h4 => ?_) ..) (fun _ _ h4 => h4) (fun _ _ h4 => ?_) ..)
      (withGrants_wf h3 (fun _ h4 => ?_) ..)
    · exact storeLane_wf h4 ..
    · exact State.retire_wf h4 ..
    · refine Sweep.settle_wf (sweep_wf h4 (fun _ _ _ h5 => ?_) ..) (fun _ _ h5 => h5) (fun _ _ h5 => ?_) ..
      · exact storeLane_wf h5 ..
      · exact State.retire_wf h5 ..
  · exact pushedEnd_wf h3 ..

theorem withScratch_wf (h : s.wf) {k : List (Nat × W64) → State} (hk : ∀ x, (k x).wf) (c f off dg acc) :
    (withScratch s c f off dg acc k).wf :=
  State.ite_wf (State.retire_wf h ..) (withAligned_wf h (withBound_wf h (hk ..) ..) ..)

theorem execLds_wf (h : s.wf) (f) : NextWf (execLds f s) :=
  withCtx_wf fun _ => withScratch_wf h (fun _ => withAcquire_wf h (fun _ h1 => State.retire_wf (writeLoads_wf h1 ..) ..) ..) ..

theorem execSts_wf (h : s.wf) (f) : NextWf (execSts f s) := by
  unfold execSts
  refine withCtx_wf fun _ => ?_
  refine withScratch_wf h (fun _ => ?_) ..
  refine withWriteBack_wf h (fun _ h1 => ?_) ..
  exact State.retire_wf (State.setCore_wf h1 ..) ..

theorem execLdw_wf (h : s.wf) (f) : NextWf (execLdw f s) := by
  unfold execLdw
  refine withCtx_wf fun _ => State.ite_wf (State.retire_wf h ..) (withAligned_wf h ?_ ..)
  split
  · exact raiseVa_wf h ..
  · split
    · exact State.waitFor_wf h ..
    · exact State.retire_wf (writeLoads_wf h ..) ..

theorem ownLine_wf (h : s.wf) (c keep x) : (ownLine s c keep x).wf := coreOwn_wf h ..

theorem returnSinv_wf (h : s.wf) (c lines) : (returnSinv s c lines).wf := by
  grind [returnSinv, State.foldl_wf, coreAtomicWrite_wf, Res.state_wf]

theorem runAtomics_wf (h : s.wf) (c act n keep addrs lines) : (runAtomics c act n keep addrs s lines).1.wf := by
  induction lines generalizing s with
  | nil => exact h
  | cons e es ih =>
    unfold runAtomics
    grind [Res.wf, Res.bind_wf, ownLine_wf, tagPosted_wf, coreAtomicWrite_wf]

theorem genericAtomic_wf (h : s.wf) {write : State → List (Nat × Nat) → State} (hwrite : ∀ s x, s.wf → (write s x).wf)
    (c lead ord scope n addrs writes act) : (genericAtomic s c lead ord scope n addrs writes act write).wf := by
  unfold genericAtomic
  dsimp only
  refine withLanes_wf h (fun s good _ h => withAborted_wf h (withRelease_wf h (fun s h => withWriteBack_wf h (fun s h => ?_) ..) ..) ..) ..
  grind [Res.wf, Res.bind_wf, State.retire_wf, State.note_wf, leave_wf, sweep_wf, raiseFatal_wf, demote_wf, raiseStop_wf,
    State.seal_wf, ownLine_wf, returnSinv_wf, runAtomics_wf, acquireNow_wf, holdZeros_wf, waitStop_wf, held_wf, withGateEmpty_wf]

theorem execAtom_wf (h : s.wf) (f) : NextWf (execAtom f s) := by
  unfold execAtom
  refine withCtx_wf fun _ => ?_
  refine State.ite_wf (State.retire_wf h ..) (withAligned_wf h (genericAtomic_wf h (fun _ _ h1 => ?_) ..) ..)
  exact foundLoads_wf h1 ..

theorem execCas_wf (h : s.wf) (f) : NextWf (execCas f s) := by
  unfold execCas
  refine withCtx_wf fun _ => ?_
  refine State.ite_wf (State.retire_wf h ..) (withAligned_wf h (genericAtomic_wf h (fun _ _ h1 => ?_) ..) ..)
  exact foundLoads_wf h1 ..

theorem execAtoms_wf (h : s.wf) (f) : NextWf (execAtoms f s) := by
  unfold execAtoms
  refine withCtx_wf fun _ => ?_
  refine withScratch_wf h (fun _ => ?_) ..
  refine withWriteBack_wf h (fun _ h1 => ?_) ..
  exact State.retire_wf (State.seal_wf (acquireNow_wf (State.note_wf (writeLoads_wf (State.setCore_wf h1 ..) ..) ..) ..) ..) ..

theorem execFenceAcq_wf (h : s.wf) (f) : NextWf (execFenceAcq f s) :=
  withCtx_wf fun _ => once_wf h (withAcquire_wf h (fun _ h1 => State.retire_wf h1 ..) ..) ..

theorem execFenceRel_wf (h : s.wf) (f) : NextWf (execFenceRel f s) :=
  withCtx_wf fun _ => once_wf h (withRelease_wf h (fun _ h1 => State.retire_wf h1 ..) ..) ..

theorem execFenceFull_wf (h : s.wf) (f) : NextWf (execFenceFull f s) := by
  unfold execFenceFull
  refine withCtx_wf fun _ => ?_
  refine once_wf h (withGateEmpty_wf h (withRelease_wf h (fun _ h1 => ?_) ..) ..) ..
  refine withAcquire_wf h1 (fun _ h2 => ?_) ..
  exact State.retire_wf h2 ..

theorem purgeSinv_wf (h : s.wf) (part line view) : (purgeSinv s part line view).wf := Res.forEach_wf h (fun _ _ h1 => evictL1_wf h1 ..) ..

theorem purgeLine_wf (h : s.wf) (part line view) : (purgeLine s part line view).wf := by
  unfold purgeLine
  refine Res.bind_wf (purgeSinv_wf h ..) fun _ _ h1 => ?_
  split
  · exact forceOut_wf h1 ..
  · exact Res.ite_wf h1 h1

theorem purgeBlock_wf (h : s.wf) (part pa) : (purgeBlock s part pa).wf := by
  unfold purgeBlock
  refine Res.bind_wf (purgeLine_wf h ..) fun _ _ h1 => ?_
  refine Res.bind_wf (Res.forEach_wf h1 (fun _ _ h2 => ?_) ..) fun _ _ h2 => ?_
  · exact purgeLine_wf h2 ..
  · refine Res.forEach_wf h2 (fun _ _ h3 => ?_) ..
    exact purgeLine_wf h3 ..

theorem dcfMiss_wf (h : s.wf) (c missed) : (dcfMiss s c missed).wf := by
  grind [dcfMiss, missWait_wf]

theorem execDcf_wf (h : s.wf) (f) : NextWf (execDcf f s) := by
  grind [execDcf, Res.wf, withAcquire_wf, withCtx_wf, State.retire_wf, purgeBlock_wf, withAborted_wf, withXlated_wf, raiseStop_wf,
    withRelease_wf, dcfMiss_wf, withGateEmpty_wf, Res.forEach_wf]

theorem discLine_wf (h : s.wf) (core q who tenant) : (discLine s core q who tenant).wf := by
  unfold discLine
  dsimp only
  split
  · exact postPeer_wf (dropCopies_wf h ..) ..
  · exact dropCopies_wf h ..
  · exact Res.bind_wf (sliceEvent_wf (dropCopies_wf h ..) ..) fun _ _ h1 => h1

theorem execDisc_wf (h : s.wf) (f) : NextWf (execDisc f s) := by
  unfold execDisc
  refine withCtx_wf fun _ => ?_
  refine State.ite_wf (State.retire_wf h ..) (withLanes_wf h (fun _ _ _ h1 => ?_) ..)
  refine withAborted_wf h1 (gated_wf h1 (fun _ h2 => ?_) (fun _ h2 => ?_) ..) ..
  · refine Sweep.settle_wf (sweep_wf h2 (fun _ _ _ h3 => ?_) ..) (fun _ _ h3 => h3) (fun _ _ h3 => ?_) ..
    · refine Res.bind_wf (discLine_wf h3 ..) fun _ _ h4 => ?_
      exact tagPosted_wf h4 ..
    · exact State.retire_wf h3 ..
  · exact pushedEnd_wf h2 ..

theorem prefetchLine_wf (h : s.wf) (core tenant q cls l2) : (prefetchLine s core tenant q cls l2).wf := by
  grind [prefetchLine, Res.wf, homeAsk_wf, Res.bind_wf, askRemote_wf, coreRead_wf]

theorem execPrf_wf (h : s.wf) (f) : NextWf (execPrf f s) := by
  grind [execPrf, State.foldl_wf, withCtx_wf, State.retire_wf, prefetchLine_wf, missWait_wf]

theorem wbackLane_wf (h : s.wf) (c lane x) : (wbackLane c s lane x).wf := by
  unfold wbackLane
  dsimp only
  split
  · exact homeSend_wf h ..
  · split
    · exact Res.ite_wf h (cleanSinv_wf h ..)
    · exact h
  · exact h

theorem execWback_wf (h : s.wf) (f) : NextWf (execWback f s) := by
  unfold execWback
  dsimp only
  refine withCtx_wf fun _ => State.ite_wf (missWait_wf h ..) ?_
  split
  · exact waitStop_wf (sweep_wf h (fun _ _ _ h1 => wbackLane_wf h1 ..) ..) ..
  · exact State.retire_wf (sweep_wf h (fun _ _ _ h1 => wbackLane_wf h1 ..) ..) ..

theorem execSinv_wf (h : s.wf) (f) : NextWf (execSinv f s) := by
  unfold execSinv
  dsimp only
  refine withCtx_wf fun _ => ?_
  refine State.ite_wf (State.retire_wf h ..) (withLanes_wf h (fun _ _ _ h1 => ?_) ..)
  refine withAborted_wf h1 (Sweep.settle_wf (sweep_wf h1 (fun _ _ _ h2 => ?_) ..) (fun _ _ h2 => h2) (fun _ _ h2 => ?_) ..) ..
  · split
    · exact Res.ite_wf h2 (evictL1_wf h2 ..)
    · exact h2
  · exact State.retire_wf h2 ..

theorem execTload_wf (h : s.wf) (f) : NextWf (execTload f s) := by
  unfold execTload
  refine withCtx_wf fun _ => ?_
  split
  · exact State.retire_wf h ..
  · refine State.ite_wf (raise_wf h ..) (withBytes_wf h (fun _ _ h1 => ?_) ..)
    exact State.ite_wf (State.retire_wf (State.updSplit_wf h1 ..) ..) (raise_wf h1 ..)

theorem barrierOp_wf (h : s.wf) {res : State → Nat → State} (hres : ∀ s x, s.wf → (res s x).wf) (c f writes op) :
    (barrierOp s c f writes op res).wf := by
  grind [barrierOp, State.retire_wf, State.seal_wf, withBound_wf, genericAtomic_wf, State.setCore_wf, acquireNow_wf, raise_wf,
    withWriteBack_wf]

theorem execTbinit_wf (h : s.wf) (f) : NextWf (execTbinit f s) :=
  withCtx_wf fun _ => State.ite_wf (State.retire_wf h ..) (State.ite_wf (raise_wf h ..) (barrierOp_wf h (fun _ _ h1 => h1) ..))

theorem execTbarr_wf (h : s.wf) (f) : NextWf (execTbarr f s) := withCtx_wf fun _ => barrierOp_wf h (fun _ _ h1 => h1) ..
theorem execTbexp_wf (h : s.wf) (f) : NextWf (execTbexp f s) := withCtx_wf fun _ => barrierOp_wf h (fun _ _ h1 => h1) ..

theorem execTbtest_wf (h : s.wf) (f) : NextWf (execTbtest f s) :=
  withCtx_wf fun _ => barrierOp_wf h (fun _ _ h1 => State.updSplit_wf h1 ..) ..

/-! Clause headers, waits, divergence, barriers and exit. -/

theorem withClause_wf (h : s.wf) {k : State → W64 → List W64 → State} (hk : ∀ s x y, s.wf → (k s x y).wf) (c h') :
    (withClause s c h' k).wf := by
  unfold withClause
  dsimp only
  split
  · exact hk _ _ _ h
  · exact withFetch_wf h (fun _ _ h2 => withFetch_wf h2 (fun _ _ h3 => hk _ _ _ (State.setCore_wf h3 ..)) ..) ..

theorem withChecks_wf (h : s.wf) {k : Header → State} (hk : ∀ x, (k x).wf) (c h' w ws) : (withChecks s c h' w ws k).wf := by
  unfold withChecks
  refine State.ite_wf (raiseAt_wf h ..) ?_
  split
  · exact raiseAt_wf h ..
  · exact State.ite_wf (hk ..) (raiseAt_wf h ..)

theorem regionMiss_wf (h : s.wf) (c offs) : SomeWf (regionMiss s c offs) := by
  unfold regionMiss
  refine SomeWf.map fun _ => ?_
  split
  · exact raiseVa_wf h ..
  · exact parkOn_wf h ..
  · exact missWait_wf h ..

theorem withRegion_wf (h : s.wf) {k : State → State} (hk : ∀ s, s.wf → (k s).wf) (c offs) : (withRegion s c offs k).wf :=
  SomeWf.getD (regionMiss_wf h ..) (hk s h)

theorem withSpill_wf (h : s.wf) {k : State → State} (hk : ∀ s, s.wf → (k s).wf) (c old new) : (withSpill s c old new k).wf :=
  withRegion_wf h hk ..

theorem withBillet_wf (h : s.wf) {k : State → State} (hk : ∀ s, s.wf → (k s).wf) (c on) : (withBillet s c on k).wf := by
  unfold withBillet
  dsimp only
  refine State.ite_wf (hk _ h) (withRegion_wf h (fun _ h2 => ?_) ..)
  exact State.ite_wf (State.ite_wf (hk _ (State.updSplit_wf h2 ..)) (State.waitFor_wf (State.updSplit_wf (pushGate_wf h2 ..) ..) ..))
    (State.ite_wf (hk _ (State.updSplit_wf (pushGate_wf h2 ..) ..)) (hk _ (State.updSplit_wf h2 ..)))

theorem withDue_wf (h : s.wf) {k : State → State} (hk : ∀ s, s.wf → (k s).wf) (c) : (withDue s c k).wf :=
  State.ite_wf (hk _ h) (withAcquire_wf h (fun _ h2 => hk _ (State.updSplit_wf h2 ..)) ..)

theorem headerAt_wf (h : s.wf) (c) : (headerAt s c).wf := by
  unfold headerAt
  refine withClause_wf h (fun _ _ _ h1 => ?_) ..
  refine withChecks_wf h1 (fun _ => ?_) ..
  refine State.ite_wf (State.waitFor_wf h1 ..) (withAcquire_wf h1 (fun _ h2 => ?_) ..)
  refine withBillet_wf h2 (fun _ h3 => ?_) ..
  exact State.updSplit_wf h3 ..

theorem resumeAt_wf (h : s.wf) (c h' pc) : (resumeAt s c h' pc).wf := by
  unfold resumeAt
  refine withClause_wf h (fun _ _ _ h1 => ?_) ..
  refine withChecks_wf h1 (fun _ => ?_) ..
  exact State.ite_wf (headerAt_wf h1 ..) (State.ite_wf (State.updSplit_wf h1 ..) (raiseAt_wf h1 ..))

theorem issueHeader_wf (h : s.wf) (c) : (issueHeader s c).wf := by
  unfold issueHeader
  refine State.ite_wf (State.waitFor_wf h ..) (withDue_wf h (fun _ h1 => ?_) ..)
  split
  · exact State.ite_wf (headerAt_wf h1 ..) (resumeAt_wf h1 ..)
  · exact headerAt_wf h1 ..

theorem execClauseHeader_wf (h : s.wf) (r) : NextWf (execClauseHeader r s) := by
  unfold execClauseHeader
  split
  · exact State.ite_wf (issueHeader_wf h ..) h
  · exact h

theorem execClauseWaitEnd_wf (h : s.wf) (r) : NextWf (execClauseWaitEnd r s) := by
  unfold execClauseWaitEnd
  split
  · split
    · exact State.ite_wf (issueHeader_wf (State.waitFor_wf h ..) ..) h
    · exact h
  · exact h

theorem execPriorityLift_wf (h : s.wf) (r) : NextWf (execPriorityLift r s) := by
  unfold execPriorityLift
  split
  · exact State.ite_wf (State.updSplit_wf h ..) h
  · exact h

theorem transfer_wf (h : s.wf) (c choose base arrive) : (transfer s c choose base arrive).wf := by
  grind [transfer, State.wf, State.retire_wf, State.updGroup_wf, compared_wf, withSpill_wf, State.waitFor_wf, raise_wf]

theorem execBra_wf (h : s.wf) (f) : NextWf (execBra f s) := withCtx_wf fun _ => transfer_wf h ..
theorem execBrx_wf (h : s.wf) (f) : NextWf (execBrx f s) := withCtx_wf fun _ => transfer_wf h ..
theorem execCall_wf (h : s.wf) (f) : NextWf (execCall f s) := withCtx_wf fun _ => transfer_wf h ..
theorem execRet_wf (h : s.wf) (f) : NextWf (execRet f s) := withCtx_wf fun _ => State.ite_wf (raise_wf h ..) (transfer_wf h ..)
theorem execLoop_wf (h : s.wf) (f) : NextWf (execLoop f s) := withCtx_wf fun _ => State.ite_wf (transfer_wf h ..) (transfer_wf h ..)

theorem execRcvp_wf (h : s.wf) (f) : NextWf (execRcvp f s) :=
  withCtx_wf fun _ => State.ite_wf (raise_wf h ..) (withSpill_wf h (fun _ h1 => State.retire_wf (State.updSplit_wf h1 ..) ..) ..)

theorem joinOp_wf (h : s.wf) (c) : (joinOp s c).wf := by
  unfold joinOp
  dsimp only
  split
  · exact State.retire_wf h ..
  · exact State.ite_wf (State.retire_wf h ..) (State.ite_wf (raise_wf h ..) (State.updGroup_wf (State.updSplit_wf (compared_wf h ..)
      ..) ..))

theorem execJoin_wf (h : s.wf) (f) : NextWf (execJoin f s) := withCtx_wf fun _ => joinOp_wf h ..
theorem execBsync_wf (h : s.wf) (f) : NextWf (execBsync f s) := withCtx_wf fun _ => joinOp_wf h ..

theorem barArrive_wf (h : s.wf) (gh b) : (barArrive s gh b).wf := by
  unfold barArrive
  split
  · exact h
  · split
    · exact h
    · exact State.ite_wf h (barEval_wf (State.updCrew_wf h ..) ..)

theorem barOp_wf (h : s.wf) (c b n arv) : (barOp s c b n arv).wf := by
  unfold barOp
  dsimp only
  refine withWriteBack_wf h (fun _ h1 => ?_) ..
  exact held_wf h1 (barArrive_wf (State.ite_wf (State.retire_wf (State.updSplit_wf (State.seal_wf (State.updCrew_wf h1 ..) ..) ..) ..)
    (State.waitFor_wf (State.seal_wf (State.updCrew_wf h1 ..) ..) ..)) ..) ..

theorem execBar_wf (h : s.wf) (f) : NextWf (execBar f s) := withCtx_wf fun _ => barOp_wf h ..
theorem execBarArv_wf (h : s.wf) (f) : NextWf (execBarArv f s) := withCtx_wf fun _ => barOp_wf h ..

theorem execCbar_wf (h : s.wf) (f) : NextWf (execCbar f s) := by
  unfold execCbar
  refine withCtx_wf fun _ => ?_
  refine withWriteBack_wf h (fun _ h1 => ?_) ..
  exact held_wf h1 (cbarEval_wf (State.waitFor_wf (State.seal_wf (State.updCrew_wf h1 ..) ..) ..) ..) ..

theorem execExit_wf (h : s.wf) (f) : NextWf (execExit f s) := by
  grind [execExit, State.foldl_wf, withCtx_wf, State.retire_wf, State.updGroup_wf, barArrive_wf, cbarEval_wf, State.seal_wf,
    compared_wf, withLatch_wf, raise_wf]

theorem execPause_wf (h : s.wf) (f) : NextWf (execPause f s) :=
  withCtx_wf fun _ => once_wf h (State.retire_wf (State.updSplit_wf h ..) ..) ..

theorem execRget_wf (h : s.wf) (f) : NextWf (execRget f s) := by
  unfold execRget
  refine withCtx_wf fun _ => ?_
  refine once_wf h (State.ite_wf (withAcquire_wf h (fun _ h1 => ?_) ..) (State.waitFor_wf h ..)) ..
  exact State.retire_wf h1 ..

theorem execRput_wf (h : s.wf) (f) : NextWf (execRput f s) := by
  unfold execRput
  refine withCtx_wf fun _ => ?_
  refine once_wf h (withWriteBack_wf h (fun _ h1 => ?_) ..) ..
  exact held_wf h1 (State.retire_wf (State.seal_wf (State.updCrew_wf h1 ..) ..) ..) ..

theorem execRep_wf (h : s.wf) (f) : NextWf (execRep f s) := withCtx_wf fun _ => State.updSplit_wf h ..

/-! The block-transfer engine and the gather streams. -/

theorem enqueue_wf (h : s.wf) (c x) : (enqueue s c x).wf := by
  grind [enqueue, State.wf, State.retire_wf, State.updSplit_wf, State.setCore_wf, held_wf]

theorem laneCopy_wf (h : s.wf) (c f kind) : (laneCopy s c f kind).wf := by
  unfold laneCopy
  dsimp only
  exact State.ite_wf (State.retire_wf h ..) (State.ite_wf (raise_wf h ..) (State.ite_wf (raise_wf h ..) (State.ite_wf (State.ite_wf
    (raiseVa_wf h ..) (State.ite_wf (raise_wf h ..) (State.ite_wf (State.waitFor_wf h ..) (enqueue_wf h ..)))) (withBound_wf h
    (State.ite_wf (raiseVa_wf h ..) (State.ite_wf (raise_wf h ..) (State.ite_wf (State.waitFor_wf h ..) (enqueue_wf h ..)))) ..))))

theorem execCpl_wf (h : s.wf) (f) : NextWf (execCpl f s) := withCtx_wf fun _ => laneCopy_wf h ..
theorem execCps_wf (h : s.wf) (f) : NextWf (execCps f s) := withCtx_wf fun _ => laneCopy_wf h ..

theorem boxCopy_wf (h : s.wf) (c f kind) : (boxCopy s c f kind).wf := by
  unfold boxCopy
  dsimp only
  exact State.ite_wf (State.retire_wf h ..) (State.ite_wf (raise_wf h ..) (State.ite_wf (raise_wf h ..) (State.ite_wf (raise_wf h ..)
    (State.ite_wf (raiseVa_wf h ..) (State.ite_wf (raiseVa_wf h ..) (State.ite_wf (raise_wf h ..) (State.ite_wf (raiseVa_wf h ..)
    (State.ite_wf (raise_wf h ..) (State.ite_wf (State.waitFor_wf h ..) (enqueue_wf h ..))))))))))

theorem execCpt_wf (h : s.wf) (f) : NextWf (execCpt f s) := withCtx_wf fun _ => boxCopy_wf h ..
theorem execCptw_wf (h : s.wf) (f) : NextWf (execCptw f s) := withCtx_wf fun _ => boxCopy_wf h ..
theorem State.updCmd_wf (h : s.wf) (core id f) : (s.updCmd core id f).wf := State.setCore_wf h ..
theorem State.unitWaits_wf (h : s.wf) (lk who) : (s.unitWaits lk who).wf := State.queueFor_wf h ..
theorem State.unitServed_wf (h : s.wf) (lk who) : (s.unitServed lk who).wf := State.setCaches_wf h ..

theorem Eng.stopped_wf (h : s.wf) (e els w) : (Eng.stopped e s els w).wf := by
  unfold Eng.stopped
  split
  · exact askRemote_wf h ..
  · exact State.ite_wf (State.unitWaits_wf h ..) h
  · exact State.ite_wf (addLate_wf h ..) (State.updCmd_wf (State.unitServed_wf h ..) ..)
  · exact State.ite_wf (State.updCmd_wf (State.unitServed_wf h ..) ..) h

theorem Eng.readLine_wf (h : s.wf) (e x els) : (Eng.readLine e s x els).wf := by
  unfold Eng.readLine
  grind [Res.wf, State.updCmd_wf, engineRead_wf, State.unitServed_wf, Eng.stopped_wf]

theorem Eng.writeLine_wf (h : s.wf) (e x els) : (Eng.writeLine e s x els).wf := by
  unfold Eng.writeLine
  grind [Res.wf, State.updCmd_wf, engineWrite_wf, State.unitServed_wf, Eng.stopped_wf, State.setPair_wf]

theorem attachElem_wf (h : s.wf) (tenant who a acc f) : (attachElem s tenant who a acc f).wf := by
  unfold attachElem
  split
  · exact attachReq_wf h ..
  · exact noteXlate_wf h ..

theorem Eng.translate_wf (h : s.wf) (e x acc els) : (Eng.translate e s x acc els).1.wf := by
  unfold Eng.translate
  grind [State.foldl_fst_wf, State.updCmd_wf, attachElem_wf, fillTlb_wf, queueWalk_wf]

theorem Eng.readWeights_wf (h : s.wf) (e x els) : (Eng.readWeights e s x els).wf := by
  grind [Eng.readWeights, State.foldl_wf, State.updCmd_wf]

theorem Eng.outside_wf (h : s.wf) (e els) : (Eng.outside e s els).wf := State.updCmd_wf h ..
theorem Eng.deliver_wf (h : s.wf) (e x) : (Eng.deliver e s x).wf := State.updCmd_wf (State.setCore_wf h ..) ..
theorem Eng.drainLocal_wf (h : s.wf) (e els x) : (Eng.drainLocal e s els x).wf := State.setCore_wf h ..
theorem dropCmd_wf (h : s.wf) (core id) : (dropCmd s core id).wf := State.setCore_wf (detachWho_wf h ..) ..
theorem loseUpdate_wf (h : s.wf) (core id x a) : (loseUpdate s core id x a).wf := dropCmd_wf (State.updSplit_wf h ..) ..

theorem Eng.complete_wf (h : s.wf) (e x) : (Eng.complete e s x).wf := by
  grind [Eng.complete, Res.wf, State.foldl_wf, writeToken_wf, attachElem_wf, coreOwn_wf, State.unitWaits_wf, State.unitServed_wf,
    Res.bind_wf, State.setCore_wf, queueWalk_wf, loseUpdate_wf, askRemote_wf, dropCmd_wf, coreAtomicWrite_wf]

theorem Eng.pass_wf (h : s.wf) (e x) : (Eng.pass e s x).wf := by
  grind [Eng.pass, State.foldl_wf, Eng.readLine_wf, State.updCmd_wf, Eng.outside_wf, Eng.translate_wf, Eng.drainLocal_wf,
    Eng.readWeights_wf, Eng.writeLine_wf]

theorem Eng.finish_wf (h : s.wf) (e x) : (Eng.finish e s x).wf := by
  grind [Eng.finish, Res.wf, releaseL1_wf, Eng.complete_wf, Eng.deliver_wf]

theorem runCommand_wf (h : s.wf) (core id) : (runCommand s core id).wf := by
  unfold runCommand
  split
  · exact h
  · split
    · split
      · exact h
      · grind [Res.wf, Eng.finish_wf, Eng.pass_wf, acquireL1_wf]
    · exact h

theorem execCopyComplete_wf (h : s.wf) (core id) : NextWf (execCopyComplete core id s) := by
  unfold execCopyComplete
  split
  · exact State.ite_wf h (runCommand_wf h ..)
  · exact h

theorem State.setStream_wf (h : s.wf) (core g x) : (s.setStream core g x).wf := State.setCore_wf h ..
theorem State.delStream_wf (h : s.wf) (core g) : (s.delStream core g).wf := State.setCore_wf (detachWho_wf h ..) ..

theorem execGset_wf (h : s.wf) (f) : NextWf (execGset f s) := by
  unfold execGset
  dsimp only
  refine withCtx_wf fun _ => ?_
  refine State.ite_wf (State.retire_wf h ..) (State.ite_wf (raise_wf h ..) (State.ite_wf (raiseVa_wf h ..) (State.ite_wf
    (State.waitFor_wf h ..) (held_wf h (withAcquire_wf h (fun _ h1 => ?_) ..) ..))))
  exact State.retire_wf (State.setStream_wf h1 ..) ..

theorem execGget_wf (h : s.wf) (f) : NextWf (execGget f s) := by
  unfold execGget
  dsimp only
  refine withCtx_wf fun _ => State.ite_wf (State.retire_wf h ..) ?_
  split
  · exact raise_wf h ..
  · refine State.ite_wf (raise_wf h ..) (State.ite_wf (State.waitFor_wf h ..) ?_)
    split
    · exact raiseVa_wf (State.setStream_wf h ..) ..
    · exact State.retire_wf (State.setStream_wf (State.updGroup_wf h ..) ..) ..

theorem execGstop_wf (h : s.wf) (f) : NextWf (execGstop f s) := by
  unfold execGstop
  refine withCtx_wf fun _ => ?_
  exact once_wf h (held_wf h (State.retire_wf (State.seal_wf (State.ite_wf (State.delStream_wf h ..) h) ..) ..) ..) ..

theorem fetchElem_wf (h : s.wf) (core g l k lane a) : (fetchElem s core g l k lane a).wf := by
  unfold fetchElem
  grind [Res.wf, engineRead_wf, attachElem_wf, State.setStream_wf, State.unitWaits_wf, State.unitServed_wf, fillTlb_wf, queueWalk_wf,
    askRemote_wf]

theorem execGatherFetchComplete_wf (h : s.wf) (core stream pos) : NextWf (execGatherFetchComplete core stream pos s) := by
  unfold execGatherFetchComplete
  grind [NextWf, State.foldl_wf, fetchElem_wf]

/-! Activation tables, and the instructions across lanes. -/

theorem withBank_wf (h : s.wf) {k : Option Bank → State} (hk : ∀ x, (k x).wf) (c) : (withBank s c k).wf :=
  State.ite_wf (State.waitFor_wf h ..) (hk ..)

theorem execFact_wf (h : s.wf) (f) : NextWf (execFact f s) :=
  withCtx_wf fun _ => State.ite_wf (State.retire_wf h ..) (withBank_wf h (fun _ => floatOp_wf h ..) ..)

theorem setLoading_wf (h : s.wf) (core b r) : (setLoading s core b r).wf := State.setCore_wf h ..

theorem endLoading_wf (h : s.wf) (r core b) : (endLoading s r core b).wf := by
  unfold endLoading
  split
  · exact State.ite_wf h (setLoading_wf h ..)
  · exact h

theorem execAtload_wf (h : s.wf) (f) : NextWf (execAtload f s) := by
  unfold execAtload
  dsimp only
  refine withCtx_wf fun _ => ?_
  refine once_wf h (State.ite_wf (raise_wf h ..) (State.ite_wf (State.waitFor_wf h ..) (endLoading_wf (withBytes_wf (setLoading_wf h ..)
    (fun _ _ h1 => ?_) ..) ..))) ..
  split
  · exact raise_wf h1 ..
  · exact State.retire_wf (State.setCore_wf h1 ..) ..

theorem execAtbind_wf (h : s.wf) (f) : NextWf (execAtbind f s) := withCtx_wf fun _ => once_wf h (State.retire_wf (bindBank_wf h ..) ..) ..

theorem execVexpr_wf (h : s.wf) (f toks) : NextWf (execVexpr f toks s) := by
  unfold execVexpr
  dsimp only
  refine withCtx_wf fun _ => ?_
  refine State.ite_wf (State.retire_wf h ..) (State.ite_wf (withBank_wf h (fun _ => ?_) ..) (State.ite_wf (withShadow_wf h
    (fun _ h1 => ?_) ..) (State.retire_wf (State.note_wf (State.updGroup_wf h ..) ..) ..)))
  · refine State.ite_wf (withShadow_wf h (fun _ h1 => ?_) ..) (State.retire_wf (State.note_wf (State.updGroup_wf h ..) ..) ..)
    exact State.retire_wf (State.note_wf (State.updGroup_wf h1 ..) ..) ..
  · exact State.retire_wf (State.note_wf (State.updGroup_wf h1 ..) ..) ..

theorem activeOp_wf (h : s.wf) (c q dst span val) : (activeOp s c q dst span val).wf :=
  State.ite_wf (State.retire_wf h ..) (State.retire_wf (State.updGroup_wf h ..) ..)

theorem execQswz_wf (h : s.wf) (f) : NextWf (execQswz f s) := withCtx_wf fun _ => laneOp_wf h ..
theorem execQbcast_wf (h : s.wf) (f) : NextWf (execQbcast f s) := withCtx_wf fun _ => laneOp_wf h ..
theorem execLxchg_wf (h : s.wf) (f) : NextWf (execLxchg f s) := withCtx_wf fun _ => activeOp_wf h ..
theorem execLshfl_wf (h : s.wf) (f) : NextWf (execLshfl f s) := withCtx_wf fun _ => activeOp_wf h ..
theorem execLrot_wf (h : s.wf) (f) : NextWf (execLrot f s) := withCtx_wf fun _ => activeOp_wf h ..
theorem execQhelp_wf (h : s.wf) (f) : NextWf (execQhelp f s) := withCtx_wf fun _ => laneOp_wf h ..

theorem scanOp_wf (h : s.wf) {finish : State → List (Nat × Nat × Nat) → Nat → State}
    (hfinish : ∀ s x y, s.wf → (finish s x y).wf) (c f) :
    (scanOp s c f finish).wf := by
  unfold scanOp
  dsimp only
  refine State.ite_wf (State.retire_wf h ..) (State.ite_wf (withShadow_wf h (fun _ h2 => ?_) ..) (State.retire_wf (State.note_wf
    (hfinish _ _ _ h) ..) ..))
  exact State.retire_wf (State.note_wf (hfinish _ _ _ h2) ..) ..

theorem execLscan_wf (h : s.wf) (f) : NextWf (execLscan f s) := withCtx_wf fun _ => scanOp_wf h (fun _ _ _ h1 => State.updGroup_wf h1 ..) ..

theorem execLred_wf (h : s.wf) (f) : NextWf (execLred f s) :=
  withCtx_wf fun _ => scanOp_wf h (fun _ _ _ h1 => State.ite_wf (State.updSplit_wf h1 ..) (State.updGroup_wf h1 ..)) ..

theorem execLidx_wf (h : s.wf) (f) : NextWf (execLidx f s) := withCtx_wf fun _ => activeOp_wf h ..

/-! The system instructions. -/

theorem softTrap_wf (h : s.wf) (c f cause pc) : (softTrap s c f cause pc).wf :=
  State.ite_wf (State.retire_wf h ..) (raiseAt_wf (State.seal_wf h ..) ..)

theorem execTrap_wf (h : s.wf) (f) : NextWf (execTrap f s) := withCtx_wf fun _ => softTrap_wf h ..
theorem execBrk_wf (h : s.wf) (f) : NextWf (execBrk f s) := withCtx_wf fun _ => softTrap_wf h ..

theorem execTret_wf (h : s.wf) (f) : NextWf (execTret f s) :=
  withCtx_wf fun _ => State.ite_wf (raise_wf h ..) (once_wf h (trapReturn_wf (compared_wf h ..) ..) ..)

theorem execFpcnt_wf (h : s.wf) (f) : NextWf (execFpcnt f s) :=
  withCtx_wf fun _ => once_wf h (State.retire_wf (State.seal_wf (State.updSplit_wf h ..) ..) ..) ..

theorem execFpcntClr_wf (h : s.wf) (f) : NextWf (execFpcntClr f s) :=
  withCtx_wf fun _ => once_wf h (State.retire_wf (State.seal_wf (State.updSplit_wf (State.updLaunch_wf h ..) ..) ..) ..) ..

theorem execFpcntClrall_wf (h : s.wf) (f) : NextWf (execFpcntClrall f s) :=
  withCtx_wf fun _ => once_wf h (State.retire_wf (State.seal_wf (State.updSplit_wf (State.updLaunch_wf h ..) ..) ..) ..) ..

theorem execYield_wf (h : s.wf) (f) : NextWf (execYield f s) := by
  grind [execYield, State.foldl_wf, withCtx_wf, State.retire_wf, State.seal_wf, State.updCrew_wf, State.updSplit_wf, once_wf]

theorem execSyncEng_wf (h : s.wf) (f) : NextWf (execSyncEng f s) :=
  withCtx_wf fun _ => once_wf h (State.ite_wf (State.waitFor_wf h ..) (State.retire_wf (State.seal_wf h ..) ..)) ..

theorem execSyncErr_wf (h : s.wf) (f) : NextWf (execSyncErr f s) := by
  unfold execSyncErr
  refine withCtx_wf fun _ => ?_
  exact once_wf h (State.ite_wf (State.waitFor_wf h ..) (withLatch_wf h (State.retire_wf (State.seal_wf h ..) ..) ..)) ..

theorem execSyncCode_wf (h : s.wf) (f) : NextWf (execSyncCode f s) := by
  grind [execSyncCode, State.wf, withCtx_wf, State.retire_wf, State.setPart_wf, State.seal_wf, State.setCore_wf, once_wf]

/-! The X class. -/

theorem joint_wf (h : s.wf) (i) : NextWf (joint s i) := by
  unfold joint
  dsimp only
  refine withCtx_wf fun _ => State.ite_wf (raise_wf h ..) ?_
  split
  · exact held_wf h (State.waitFor_wf (State.setCore_wf h ..) ..) ..
  · exact held_wf h (State.waitFor_wf (State.setCore_wf h ..) ..) ..
  · exact held_wf h (State.waitFor_wf (State.setCore_wf h ..) ..) ..
  · exact held_wf h (State.waitFor_wf (State.setCore_wf h ..) ..) ..
  · exact State.waitFor_wf (State.setCore_wf h ..) ..

theorem execMprog_wf (h : s.wf) (f) : NextWf (execMprog f s) := withCtx_wf fun _ => State.retire_wf (State.updSplit_wf h ..) ..

theorem raiseAll_wf (h : s.wf) (rs b) : (raiseAll s rs b).wf := by
  grind [raiseAll, State.foldl_wf, raiseAt_wf]

theorem releaseOp_wf (h : s.wf) (core id op) : (releaseOp s core id op).wf := by
  grind [releaseOp, State.foldl_wf, State.setCore_wf, State.waitFor_wf]

theorem execGangLatchRelease_wf (h : s.wf) (core key) : NextWf (execGangLatchRelease core key s) := by
  unfold execGangLatchRelease
  dsimp only [NextWf]
  split
  · exact h
  · split
    · exact h
    · exact h
    · grind [raiseAll_wf, State.updLaunch_wf, State.setCore_wf, State.waitFor_wf, releaseOp_wf, breakCord_wf, State.foldl_wf, State.wf]

theorem execCordLatchRelease_wf (h : s.wf) (launch cord) : NextWf (execCordLatchRelease launch cord s) := by
  grind [execCordLatchRelease, NextWf, State.wf, State.foldl_wf, raiseAll_wf, State.updLaunch_wf, releaseOp_wf]

theorem execGangLatchTimeout_wf (h : s.wf) (core key) : NextWf (execGangLatchTimeout core key s) := by
  unfold execGangLatchTimeout
  dsimp only
  split
  · split
    · exact breakCord_wf h ..
    · exact raiseAll_wf (State.setCore_wf h ..) ..
  · split
    · exact h
    · exact breakCord_wf h ..

theorem noteGang_wf (h : s.wf) (op launch m) : (noteGang s op launch m).wf := by
  grind [noteGang, State.foldl_wf, State.note_wf, countEvent_wf]

theorem performOp_wf (h : s.wf) (core b id op c to_) : (performOp s core b id op c to_).wf := by
  grind [performOp, State.foldl_wf, State.updGroup_wf, State.updSplit_wf, State.setCore_wf, noteGang_wf]

theorem dropOp_wf (h : s.wf) (core id) : (dropOp s core id).wf := State.setCore_wf h ..

theorem finishOp_wf (h : s.wf) (core b id op) : (finishOp s core b id op).wf := by
  unfold finishOp
  grind [State.wf, State.foldl_wf, mismatch_wf, raiseAt_wf, State.seal_wf, performOp_wf, State.updSplit_wf, charge_wf, dropOp_wf]

theorem endOp_wf (h : s.wf) (core id op) : (endOp s core id op).wf := by
  grind [endOp, State.foldl_wf, finishOp_wf]

theorem stopOp_wf (h : s.wf) (core id op blocks keeps) : (stopOp s core id op blocks keeps).1.wf := by
  grind [stopOp, State.foldl_fst_wf, performOp_wf, dropOp_wf]

theorem execMatrixOpComplete_wf (h : s.wf) (core id) : NextWf (execMatrixOpComplete core id s) := by
  unfold execMatrixOpComplete
  split
  · exact State.ite_wf h (endOp_wf h ..)
  · exact h

theorem execEmulationComplete_wf (h : s.wf) (core id) : NextWf (execEmulationComplete core id s) := by
  unfold execEmulationComplete
  split
  · exact State.ite_wf (endOp_wf h ..) h
  · exact h

theorem execDrainCommandComplete_wf (h : s.wf) (core id) : NextWf (execDrainCommandComplete core id s) := by
  unfold execDrainCommandComplete
  split
  · exact State.ite_wf (runCommand_wf h ..) h
  · exact h

/-! Events at a home slice, probes, and the host's accesses. -/

theorem grantL1_wf (h : s.wf) (a key r) : (grantL1 s a key r).wf := by
  unfold grantL1
  split
  · exact State.ite_wf h (Res.state_wf (installL1_wf h ..))
  · exact h

theorem State.answerTo_wf (h : s.wf) (who addr ok grant data) : (s.answerTo who addr ok grant data).wf := by
  unfold State.answerTo
  split
  · exact State.setDev_wf h ..
  · exact State.setDev_wf h ..
  · exact h

theorem abortPeer_wf (h : s.wf) (a link) : (abortPeer s a link).wf := State.answerTo_wf (reportError_wf h ..) ..
theorem refusePort_wf (h : s.wf) (r) : (refusePort s r).wf := State.setDev_wf h ..
theorem refusePeer_wf (h : s.wf) (a link) : (refusePeer s a link).wf := abortPeer_wf (State.ite_wf (refusePort_wf h ..) h) ..
theorem State.eventServed_wf (h : s.wf) (i) : (s.eventServed i).wf := State.setCaches_wf h ..

theorem State.eventWaits_wf (h : s.wf) (lk i w) : (s.eventWaits lk i w).wf := by
  unfold State.eventWaits
  split
  · exact State.queueFor_wf (State.queueFor_wf h ..) ..
  · exact State.queueFor_wf h ..

theorem hostFollows_wf (h : s.wf) (a) : (hostFollows s a).wf := by
  grind [hostFollows, State.wf, State.writeLocal_wf, State.writeHostLine_wf]

theorem ackBusy_wf (h : s.wf) (lk b target data) : (ackBusy s lk b target data).wf := by
  grind [ackBusy, State.setCaches_wf, grantL1_wf, finishBusy_wf]

theorem State.countCross_wf (h : s.wf) (part line) : (s.countCross part line).wf := State.count_wf h ..

theorem sliceRow_wf (h : s.wf) (i ev a) : (sliceRow s i ev a).wf := by
  grind [sliceRow, Res.wf, abortPeer_wf, hostFollows_wf, State.eventServed_wf, grantL1_wf, refusePeer_wf, sliceEvent_wf,
    State.eventWaits_wf, State.countCross_wf, ackBusy_wf, State.delL1_wf, State.answerTo_wf]

theorem crossWb_wf (h : s.wf) (a w) : (crossWb s a w).wf := by
  grind [crossWb, State.wf, State.countCross_wf]

theorem execProbe_wf (h : s.wf) (a) : NextWf (execProbe a s) := by
  grind [execProbe, NextWf, State.foldl_fst_wf, probeCluster_wf, State.setCaches_wf, crossWb_wf]

theorem execProbeAck_wf (h : s.wf) (a) : NextWf (execProbeAck a s) := by
  unfold execProbeAck
  dsimp only
  split
  · exact State.answerTo_wf (State.setCaches_wf h ..) ..
  · split
    · exact State.setCaches_wf h ..
    · exact State.ite_wf (ackBusy_wf (State.setCaches_wf h ..) ..) (State.setCaches_wf h ..)

theorem hostAdmits_wf (h : s.wf) (dpa) : (hostAdmits s dpa).1.wf := by
  unfold hostAdmits
  split
  · exact State.answerTo_wf (refusePort_wf h ..) ..
  · exact h

theorem hostReadLines_wf (h : s.wf) (pieces) : (hostReadLines s pieces).wf := by
  induction pieces generalizing s with
  | nil => exact h
  | cons pc rest ih =>
    unfold hostReadLines
    grind [Res.wf, State.eventServed_wf, sliceEvent_wf, State.eventWaits_wf, State.answerTo_wf, hostAdmits_wf]

theorem hostWriteLines_wf (h : s.wf) (addr bytes pieces) : (hostWriteLines s addr bytes pieces).wf := by
  induction pieces generalizing s with
  | nil => exact h
  | cons pc rest ih =>
    unfold hostWriteLines
    grind [Res.wf, State.eventServed_wf, State.writeLocal_wf, sliceEvent_wf, State.eventWaits_wf, State.answerTo_wf, hostAdmits_wf]

theorem execHdmWrite_wf (h : s.wf) (addr bytes) : NextWf (execHdmWrite addr bytes s) := fromHost_wf h (hostWriteLines_wf h ..)

/-! The walk unit and the late-frame unit. -/

theorem wake_wf (h : s.wf) (who) : (wake s who).wf := by
  unfold wake
  split
  · exact State.updSplit_wf h ..
  all_goals exact h

theorem tellFault_wf (h : s.wf) (page f who) : (tellFault s page f who).wf := by
  unfold tellFault
  split
  · exact State.updSplit_wf h ..
  · exact State.updCmd_wf h ..
  · split
    · exact State.setStream_wf h ..
    · exact h
  · exact State.updLaunch_wf h ..
  · exact State.updLaunch_wf h ..
  all_goals exact h

theorem tellRefusal_wf (h : s.wf) (line cause who) : (tellRefusal s line cause who).wf := by
  unfold tellRefusal
  split
  · exact State.updSplit_wf h ..
  · exact State.updCmd_wf h ..
  · split
    · exact State.setStream_wf h ..
    · exact h
  all_goals exact h

theorem execWalkStart_wf (h : s.wf) (tenant) : NextWf (execWalkStart tenant s) := by
  unfold execWalkStart
  dsimp only
  refine State.ite_wf h ?_
  split
  · exact State.setMmu_wf h ..
  · exact h

theorem installAhead_wf (h : s.wf) (core e) : (installAhead s core e).wf := State.setMmu_wf h ..

theorem installFor_wf (h : s.wf) (e who) : (installFor s e who).wf := by
  unfold installFor
  split
  · exact State.ite_wf (installAhead_wf h ..) h
  · exact State.ite_wf (installAhead_wf h ..) (installTlb_wf h ..)
  · exact installTlb_wf h ..

theorem execWalkComplete_wf (h : s.wf) (walk) : NextWf (execWalkComplete walk s) := by
  unfold execWalkComplete
  dsimp only [NextWf]
  split
  · exact h
  · split
    · exact h
    · grind [Res.wf, State.foldl_wf, tellFault_wf, installFor_wf, State.setMmu_wf, walkAll_wf, wake_wf]

theorem execWalkAhead_wf (h : s.wf) (core id page) : NextWf (execWalkAhead core id page s) := by
  unfold execWalkAhead
  split
  · exact h
  · split
    · exact h
    · exact State.ite_wf h (queueWalk_wf h ..)

theorem execPageRequestWrite_wf (h : s.wf) (func) : NextWf (execPageRequestWrite func s) := by
  unfold execPageRequestWrite
  split
  · exact h
  · exact State.ite_wf h (prqInterrupt_wf (State.setFunc_wf (State.setMmu_wf (writeHost_wf h ..) ..) ..) ..)

theorem dropRemote_wf (h : s.wf) (link lo hi) : (dropRemote s link lo hi).wf := dropTlb_wf h ..

theorem execRemoteInvalidation_wf (h : s.wf) (link lo hi) : NextWf (execRemoteInvalidation link lo hi s) :=
  State.ite_wf (dropRemote_wf h ..) h

theorem finalLeaf_wf (h : s.wf) (tenant va) : (finalLeaf s tenant va).wf := by
  unfold finalLeaf
  dsimp only
  split
  · exact h
  · refine Res.ite_wf (Res.bind_wf (walkGuest_wf h ..) fun _ _ h1 => ?_) (Res.bind_wf (walkOne_wf h ..) fun _ _ h1 => ?_)
    · split
      · exact h1
      · refine Res.bind_wf (walkOne_wf h1 ..) fun _ _ h2 => ?_
        split <;> exact h2
    · split <;> exact h1

theorem endLate_wf (h : s.wf) {tell : State → LateJob → Walker → State} (htell : ∀ s x y, s.wf → (tell s x y).wf) (part same) :
    (endLate s part same tell).wf := by
  grind [endLate, State.foldl_wf, State.setPart_wf, wake_wf]

theorem releaseLines_wf (h : s.wf) (part lines) : (releaseLines s part lines).wf := by
  grind [releaseLines, State.foldl_wf, dropCopies_wf, dropUnbacked_wf]

theorem pullLine_wf (h : s.wf) (part line) : (pullLine s part line).wf := by
  unfold pullLine
  dsimp only
  split
  · exact h
  · refine Res.bind_wf (forceOut_wf h ..) fun _ _ h1 => ?_
    split <;> exact h1

theorem frameLines_wf (h : s.wf) (part key frame lines) : (frameLines s part key frame lines).wf := by
  unfold frameLines
  refine Res.forEach_wf h (fun _ _ h1 => ?_) ..
  refine Res.bind_wf (pullLine_wf h1 ..) fun _ _ h2 => ?_
  refine Res.bind_wf (sliceEvent_wf h2 ..) fun _ _ h3 => ?_
  exact h3

theorem rewriteRun_wf (h : s.wf) (part first n frame) : (rewriteRun s part first n frame).wf :=
  Res.forEach_wf h (fun _ _ h1 => Res.bind_wf (readPhys_wf h1 ..) fun _ _ h2 => writePhys_wf h2 ..) ..

theorem takePhys_wf (h : s.wf) (part pa) : (takePhys s part pa).wf := Res.bind_wf (readPhys_wf h ..) fun _ _ h1 => writePhys_wf h1 ..

/-- A late framing that is refused: every waiter is told so. -/
theorem endLate_refused_wf (h : s.wf) (part same cause) : (endLate s part same fun s x w => tellRefusal s x.line cause w).wf :=
  endLate_wf h (fun _ _ _ h => tellRefusal_wf h ..) ..

/-- A late framing whose translation fails: the page's translations go, and every waiter is told of the fault. -/
theorem endLate_failed_wf (h : s.wf) (part same f gone kept) :
    (endLate (dropTlb s gone kept) part same fun s x w => tellFault s (x.va / 4096) f w).wf :=
  endLate_wf (dropTlb_wf h ..) (fun _ _ _ h => tellFault_wf h ..) ..

theorem framePage_wf (h : s.wf) (part key frame lines run ring n v) :
    ((frameLines s part key frame lines).bind fun s _ => (takePhys s part ring).bind fun s _ => (takePhys s part run).bind fun s _ =>
      (rewriteRun s part run n frame).bind fun s _ => writePhys s part ring 8 v).wf :=
  Res.bind_wf (frameLines_wf h ..) fun _ _ h => Res.bind_wf (takePhys_wf h ..) fun _ _ h => Res.bind_wf (takePhys_wf h ..) fun _ _ h =>
    Res.bind_wf (rewriteRun_wf h ..) fun _ _ h => writePhys_wf h ..

theorem execLateFraming_wf (h : s.wf) (part) : NextWf (execLateFraming part s) := by
  unfold execLateFraming
  dsimp only [NextWf]
  split
  case h_1 => exact h
  case h_2 j _ _ =>
    split
    case h_1 found => exact Res.wf_of_stop found (finalLeaf_wf h ..)
    case h_2 found => exact endLate_wf (Res.wf_of_ok found (finalLeaf_wf h ..)) (fun _ _ _ h => h) ..
    case h_3 s l found =>
      have h : s.wf := Res.wf_of_ok found (finalLeaf_wf h ..)
      refine State.ite_wf (endLate_wf h (fun _ _ _ h => h) ..) (State.ite_wf h (State.ite_wf (endLate_failed_wf h ..) ?_))
      split
      case h_1 => exact endLate_refused_wf h ..
      case h_2 ring n _ =>
        refine State.ite_wf (endLate_refused_wf h ..) ?_
        have hread := Res.bind_wf (readPhys_wf h part ring 8) fun s tail h => Res.bind_wf (readPhys_wf h part (ring + 8) 8)
          fun s head h => Res.bind_wf (readPhys_wf h part (ring + 64 + 8 * (head % 2 ^ n)) 8) (f := fun s v => .ok s (tail, head, v))
            fun _ _ h => h
        split
        case h_1 read => exact Res.wf_of_stop read hread
        case h_2 read =>
          have h := Res.wf_of_ok read hread
          refine State.ite_wf (endLate_refused_wf h ..) ?_
          split
          case h_1 => exact endLate_refused_wf (errInterrupt_wf (State.setPart_wf h ..) ..) ..
          case h_2 =>
            split
            case h_1 => exact endLate_failed_wf h ..
            case h_2 =>
              refine State.ite_wf (endLate_refused_wf h ..) ?_
              split
              case h_1 framed => exact Res.wf_of_stop framed (framePage_wf h ..)
              case h_2 framed =>
                have h := Res.wf_of_ok framed (framePage_wf h ..)
                exact endLate_wf (releaseLines_wf (dropTlb_wf (State.setPart_wf h ..) ..) ..) (fun _ _ _ h => h) ..

/-! Launches, kernel images and preloads of records. -/

theorem untrack_wf (h : s.wf) (l) : (untrack s l).wf := h

theorem addLaunch_wf (h : s.wf) (l) : (addLaunch s l).1.wf := by
  grind [addLaunch, State.wf, untrack_wf]

theorem noteRefusal_wf (h : s.wf) (f q status) : (noteRefusal s f q status).wf := State.setQueue_wf h ..

theorem acceptRecord_wf (h : s.wf) (f q r origin) : (acceptRecord s f q r origin).wf := by
  grind [acceptRecord, State.setQueue_wf, addWord_wf, addLaunch_wf]

theorem execLaunchWindowArm_wf (h : s.wf) (func queue pos record) : NextWf (execLaunchWindowArm func queue pos record s) := by
  unfold execLaunchWindowArm
  dsimp only
  exact fromHost_wf h (State.ite_wf (State.setQueue_wf h ..) (State.ite_wf (State.setQueue_wf h ..) (State.ite_wf (acceptRecord_wf
    (State.setQueue_wf h ..) ..) (noteRefusal_wf (State.setQueue_wf h ..) ..))))

theorem releaseWindow_wf (h : s.wf) (f q) : (releaseWindow s f q).wf := by
  unfold releaseWindow
  dsimp only
  split
  · exact h
  · exact State.setQueue_wf h ..

theorem writeNotify_wf (h : s.wf) (func off size value) : (writeNotify s func off size value).wf := State.ite_wf (State.setQueue_wf h ..) h
theorem execQtailWrite_wf (h : s.wf) (func queue tail) : NextWf (execQtailWrite func queue tail s) := fromHost_wf h (writeNotify_wf h ..)
theorem consume_wf (h : s.wf) (f q) : (consume s f q).wf := State.setQueue_wf h ..

theorem refusePacket_wf (h : s.wf) (f q pkt status) : (refusePacket s f q pkt status).wf := by
  unfold refusePacket
  dsimp only
  exact State.ite_wf (noteRefusal_wf h ..) (State.ite_wf (reportDrop_wf (noteRefusal_wf h ..) ..) (writeHost_wf (noteRefusal_wf h ..) ..))

theorem execPacketLaunch_wf (h : s.wf) (func queue) : NextWf (execPacketLaunch func queue s) := by
  unfold execPacketLaunch
  dsimp only
  split
  · exact h
  · exact State.ite_wf h (State.ite_wf (refusePacket_wf (consume_wf h ..) ..) (State.ite_wf (refusePacket_wf (consume_wf h ..) ..)
      (State.ite_wf (acceptRecord_wf (consume_wf h ..) ..) (State.ite_wf (queueInterrupt_wf (refusePacket_wf (consume_wf h ..) ..)
      ..) (refusePacket_wf (consume_wf h ..) ..)))))

theorem execPacketNop_wf (h : s.wf) (func queue) : NextWf (execPacketNop func queue s) := by
  unfold execPacketNop
  split
  · exact State.ite_wf (consume_wf h ..) h
  · exact h

theorem execPacketOtherOp_wf (h : s.wf) (func queue) : NextWf (execPacketOtherOp func queue s) := by
  unfold execPacketOtherOp
  split
  · exact State.ite_wf (refusePacket_wf (consume_wf h ..) ..) h
  · exact h

theorem launchRead_wf (h : s.wf) (l x acc va n) : (launchRead s l x acc va n).1.wf := by
  grind [launchRead, Res.wf, noteXlate_wf, attachReq_wf, State.updLaunch_wf, waitOn_wf, hwRead_wf]

theorem keepImage_wf (h : s.wf) (part tenant a im) : (keepImage s part tenant a im).wf := State.setPart_wf h ..
theorem imageFound_wf (h : s.wf) (l x im) : (imageFound s l x im).wf := State.ite_wf (refuseLaunch_wf h ..) (State.updLaunch_wf h ..)

theorem execImageCheck_wf (h : s.wf) (launch) : NextWf (execImageCheck launch s) := by
  unfold execImageCheck
  dsimp only [NextWf]
  split
  · exact h
  · split
    · exact h
    · split
      · exact imageFound_wf (keepImage_wf h ..) ..
      · grind [launchRead_wf, imageFound_wf, keepImage_wf, refuseLaunch_wf]

theorem launchToken_wf (h : s.wf) (c reg v) : (launchToken s c reg v).wf := State.retire_wf (State.seal_wf (State.updSplit_wf h ..) ..) ..

theorem launchChild_wf (h : s.wf) (c reg record) : (launchChild s c reg record).wf :=
  State.retire_wf (State.seal_wf (State.updSplit_wf (addLaunch_wf h ..) ..) ..) ..

theorem execLaunch_wf (h : s.wf) (f) : NextWf (execLaunch f s) := by
  unfold execLaunch
  refine withCtx_wf fun _ => ?_
  refine once_wf h (State.ite_wf (launchToken_wf h ..) (State.ite_wf (raise_wf h ..) (withBytes_wf h (fun _ _ h1 => ?_) ..))) ..
  refine withRelease_wf h1 (fun _ h2 => ?_) ..
  exact held_wf h2 (State.ite_wf (launchChild_wf h2 ..) (launchToken_wf h2 ..)) ..

theorem execChildRecordReceive_wf (h : s.wf) (launch) : NextWf (execChildRecordReceive launch s) := by
  unfold execChildRecordReceive
  split
  · exact h
  · exact State.ite_wf h (State.ite_wf (refuseLaunch_wf h ..) (State.updLaunch_wf h ..))

/-! The distributor; a preload writes the weight store. -/

theorem prepareCore_wf (h : s.wf) (core tenant base size) : (prepareCore s core tenant base size).wf := by
  grind [prepareCore, State.wf, State.setCore_wf]

theorem addGroup_wf (h : s.wf) (lid l im crew cord crewid g) : (addGroup s lid l im crew cord crewid g).wf := h

theorem addCrew_wf (h : s.wf) (lid l im cord crewid core base) : (addCrew s lid l im cord crewid core base).wf := by
  grind [addCrew, State.wf, State.foldl_wf, prepareCore_wf, addGroup_wf]

theorem commitCord_wf (h : s.wf) (lid l im cores) : (commitCord s lid l im cores).wf := by
  grind [commitCord, State.foldl_wf, retireGroup_wf, State.updLaunch_wf, addCrew_wf]

theorem tryCord_wf (h : s.wf) (lid l) : SomeWf (tryCord s lid l) := by
  unfold tryCord
  split
  · trivial
  · exact SomeWf.ite trivial (SomeWf.map fun _ => commitCord_wf h ..)

theorem firstFit_wf (h : s.wf) (candidates held) : SomeWf (firstFit s candidates held) := by
  induction candidates generalizing held with
  | nil => trivial
  | cons e rest ih => unfold firstFit; grind [SomeWf, tryCord_wf]

theorem askPreempt_wf (h : s.wf) (launch cord) : (askPreempt s launch cord).wf := h

theorem preemptFor_wf (h : s.wf) (p) : SomeWf (preemptFor s p) := by
  unfold preemptFor
  split
  · exact trivial
  · exact SomeWf.ite trivial (askPreempt_wf h ..)

theorem placeStep_wf (h : s.wf) (p) : SomeWf (placeStep s p) := by
  grind [placeStep, SomeWf, abortLaunch_wf, firstFit_wf, preemptFor_wf]

theorem execCordPlace_wf (h : s.wf) (part) : NextWf (execCordPlace part s) := SomeWf.getD (placeStep_wf h ..) h

theorem execCandidateBlocking_wf (h : s.wf) (launch) : NextWf (execCandidateBlocking launch s) := by
  unfold execCandidateBlocking
  split
  · exact State.ite_wf (State.updLaunch_wf h ..) h
  · exact h

theorem execGroupRetire_wf (h : s.wf) (group) : NextWf (execGroupRetire group s) := State.ite_wf (retireGroup_wf h ..) h

theorem execPreloadStart_wf (h : s.wf) (launch) : NextWf (execPreloadStart launch s) := by
  unfold execPreloadStart
  split
  · exact State.ite_wf (State.updLaunch_wf h ..) h
  · exact h

theorem preloadElems_wf (h : s.wf) (l x t dst elems) : (preloadElems s l x t dst elems).1.wf := by
  induction elems generalizing s with
  | nil => exact h
  | cons n rest ih => unfold preloadElems; grind [launchRead_wf, State.writeWs_wf]

theorem preloadRun_wf (h : s.wf) (l x entries) : (preloadRun s l x entries).1.wf := by
  induction entries generalizing s with
  | nil => exact h
  | cons e rest ih => unfold preloadRun; grind [launchRead_wf, preloadElems_wf]

theorem spoilEntries_wf (h : s.wf) (l x es) : (spoilEntries s l x es).wf := by
  grind [spoilEntries, State.wf, State.foldl_wf, launchRead_wf, State.writeWs_wf]

theorem failPreload_wf (h : s.wf) (l) : (failPreload s l).wf := by
  grind [failPreload, launchRead_wf, abortLaunch_wf, spoilEntries_wf]

theorem execPreloadComplete_wf (h : s.wf) (launch) : NextWf (execPreloadComplete launch s) := by
  grind [execPreloadComplete, NextWf, launchRead_wf, State.updLaunch_wf, failPreload_wf, preloadRun_wf]

theorem refusedRead_wf (h : s.wf) (l) : (refusedRead s l).wf := by
  unfold refusedRead
  split
  · exact h
  · split
    · exact refuseLaunch_wf h ..
    · exact failPreload_wf h ..
    · exact abortLaunch_wf h ..

theorem answerEngine_wf (h : s.wf) (r ok e) : (answerEngine s r ok e).wf := by
  unfold answerEngine
  dsimp only
  refine State.ite_wf ?_ ?_
  · split
    · exact pushWord_wf h ..
    · exact h
  · split
    · split
      · exact dropWord_wf (noteFault_wf h ..) ..
      · exact noteFault_wf h ..
    · exact refusedRead_wf (noteFault_wf h ..) ..
    · exact wake_wf (tellFault_wf (noteFault_wf h ..) ..) ..

theorem answerLanes_wf (h : s.wf) (r ok e) : (answerLanes s r ok e).wf := by
  unfold answerLanes
  split
  · exact h
  · refine State.ite_wf (State.ite_wf (State.waitFor_wf h ..) h) ?_
    split
    · exact doubleError_wf (noteFault_wf h ..) ..
    · exact raiseVa_wf h ..

theorem execPrqreply_wf (h : s.wf) (func value) : NextWf (execPrqreply func value s) := by
  grind [execPrqreply, NextWf, State.foldl_wf, answerLanes_wf, State.setMmu_wf, State.setFunc_wf, fromHost_wf, answerEngine_wf]

/-! Pre-emption, the saved contexts, resumption. -/

theorem stopOps_wf (h : s.wf) (crews blocks) : (stopOps s crews blocks).wf := by
  grind [stopOps, State.foldl_wf, stopOp_wf]

theorem restartCommands_wf (h : s.wf) (core crew) : (restartCommands s core crew).wf := by
  grind [restartCommands, State.foldl_wf, detachWho_wf, State.setCore_wf]

theorem keepWait_wf (h : s.wf) (r) : (keepWait s r).wf := by
  grind [keepWait, State.wf, State.updGroup_wf]

theorem haltSplit_wf (h : s.wf) (r) : (haltSplit s r).wf := by
  unfold haltSplit
  split
  · exact State.ite_wf (keepWait_wf h ..) (flashback_wf h ..)
  · exact h

theorem haltCrew_wf (h : s.wf) (h' c) : (haltCrew s h' c).wf := by
  grind [haltCrew, State.foldl_wf, haltSplit_wf, State.updCrew_wf, restartCommands_wf]

theorem execPreemption_wf (h : s.wf) (launch cord blocks) : NextWf (execPreemption launch cord blocks s) := by
  grind [execPreemption, NextWf, State.foldl_wf, haltCrew_wf, stopOps_wf]

theorem writeContext_wf (h : s.wf) (h') : (writeContext s h').wf := by
  unfold writeContext
  split
  · exact h
  · split
    · split
      · exact State.updCrew_wf h ..
      · split
        · exact h
        · grind [Res.wf, noteXlate_wf, abortLaunch_wf, attachReq_wf, State.updCrew_wf, State.updLaunch_wf, Res.bind_wf,
            sinvWriteBack_wf, waitOn_wf, hwWrite_wf]
    · exact h

theorem lazyStep_wf (h : s.wf) (h') : SomeWf (lazyStep s h') := by
  grind [lazyStep, SomeWf, State.wf, State.updCrew_wf, State.setCore_wf]

theorem execLazySave_wf (h : s.wf) (crew) : NextWf (execLazySave crew s) := SomeWf.getD (lazyStep_wf h ..) h

theorem readContexts_wf (h : s.wf) (lid l groups) : (readContexts s lid l groups).1.wf := by
  induction groups generalizing s with
  | nil => exact h
  | cons e rest ih => unfold readContexts; grind [launchRead_wf]

theorem restoreLazy_wf (h : s.wf) (core base h' c) : (restoreLazy s core base h' c).wf := by
  grind [restoreLazy, State.wf, prepareCore_wf, State.setCore_wf]

theorem resumeCrew_wf (h : s.wf) (h' core base c) : (resumeCrew s h' core base c).wf := by
  grind [resumeCrew, State.wf, State.foldl_wf, detachWho_wf, State.updCrew_wf, State.setCore_wf, restoreLazy_wf]

theorem takeTokens_wf (h : s.wf) (r) : (takeTokens s r).wf := by
  grind [takeTokens, State.foldl_wf, writeToken_wf, State.updSplit_wf]

theorem execCrewResume_wf (h : s.wf) (launch cord) : NextWf (execCrewResume launch cord s) := by
  unfold execCrewResume resumeStep
  dsimp only
  split
  · exact h
  · split
    · exact h
    · split
      · exact h
      · dsimp only [Option.getD]
        grind [NextWf, readContexts_wf, abortLaunch_wf, State.updLaunch_wf, State.updGroup_wf, takeTokens_wf, resumeCrew_wf, State.foldl_wf]

theorem execWatchdogFire_wf (h : s.wf) (launch) : NextWf (execWatchdogFire launch s) := by
  grind [execWatchdogFire, NextWf, State.foldl_wf, squash_wf, State.updSplit_wf, lastFrame_wf]

/-! Errors of the storage arrays, and refresh. -/

theorem abortOp_wf (h : s.wf) (core id blocks) : (abortOp s core id blocks).wf := by
  grind [abortOp, State.foldl_wf, raiseAt_wf, stopOp_wf]

theorem abortConsumer_wf (h : s.wf) (e c) : (abortConsumer s e c).wf := by
  unfold abortConsumer
  split
  · exact abortOp_wf h ..
  · refine State.ite_wf (State.updSplit_wf h ..) ?_
    split
    · exact raise_wf h ..
    · exact h
  · exact State.updCmd_wf h ..
  · split
    · exact State.setStream_wf h ..
    · exact h

theorem expel_wf (h : s.wf) (lk l ev) : (expel s lk l ev).wf := Res.state_wf (runTrans_wf (State.setCaches_wf h ..) ..)

theorem loseLine_wf (h : s.wf) (p slice line) : (loseLine s p slice line).wf := by
  unfold loseLine
  refine State.ite_wf ?_ (State.ite_wf (State.setPart_wf ?_ ..) (State.setPart_wf ?_ ..))
  · split
    · exact expel_wf h ..
    · exact h
  · split
    · exact expel_wf h ..
    · exact h
  · split
    · exact expel_wf h ..
    · exact h

theorem noteDropped_wf (h : s.wf) (e) : (noteDropped s e).wf := logError_wf h ..

theorem dropDamaged_wf (h : s.wf) (e) : (dropDamaged s e).wf := by
  unfold dropDamaged
  dsimp only
  split
  · split
    · exact h
    · exact State.delL1_wf (State.ite_wf h (noteDropped_wf h ..)) ..
  · split
    · exact h
    · exact State.ite_wf (loseLine_wf h ..) (State.ite_wf h (expel_wf (State.ite_wf (noteDropped_wf h ..) h) ..))
  · exact h

theorem execUncorrectableError_wf (h : s.wf) (e) : NextWf (execUncorrectableError e s) := by
  unfold execUncorrectableError
  dsimp only
  refine State.ite_wf (dropDamaged_wf (charge_wf (reportError_wf h ..) ..) ..) ?_
  split
  · exact dropDamaged_wf (charge_wf (reportError_wf h ..) ..) ..
  · split
    · exact State.ite_wf (mismatch_wf (dropDamaged_wf (charge_wf (reportError_wf h ..) ..) ..) ..) (abortConsumer_wf (dropDamaged_wf
        (charge_wf (reportError_wf h ..) ..) ..) ..)
    · exact abortConsumer_wf (dropDamaged_wf (charge_wf (reportError_wf h ..) ..) ..) ..

theorem clearWay_wf (h : s.wf) (slice set way) : (clearWay s slice set way).wf := by
  unfold clearWay
  dsimp only
  split
  · exact h
  · refine Res.ite_wf (evictL2_wf h ..) ?_
    split
    · exact State.setL2_wf h ..
    · split
      · exact errInterrupt_wf (loseLine_wf h ..) ..
      · split
        · exact h
        · refine Res.bind_wf (evictL2_wf h ..) fun _ _ h1 => ?_
          split
          · exact State.setL2_wf h1 ..
          · exact h1

theorem retireWay_wf (h : s.wf) (slice set way) : (retireWay s slice set way).wf := Res.state_wf (clearWay_wf (State.setDev_wf h ..) ..)

theorem corrected_wf (h : s.wf) (e) : (corrected s e).wf := by
  unfold corrected
  dsimp only
  exact State.ite_wf (charge_wf (State.setDev_wf h ..) ..) (State.ite_wf (retireWay_wf (State.setDev_wf (charge_wf (State.setDev_wf h
    ..) ..) ..) ..) (State.setDev_wf (charge_wf (State.setDev_wf h ..) ..) ..))

theorem execPatrolScrub_wf (h : s.wf) (e found) : NextWf (execPatrolScrub e found s) := by
  unfold execPatrolScrub
  grind [NextWf, execUncorrectableError_wf, clearWay_wf, corrected_wf, Res.state_wf]

theorem execRefreshStart_wf (h : s.wf) (bank) : NextWf (execRefreshStart bank s) := State.ite_wf (State.setDev_wf h ..) h

/-! Answers from outside, the fall of a link, the peers' side of a migration. -/

theorem State.dropOutbound_wf (h : s.wf) (req) : (s.dropOutbound req).wf := h

theorem deliver_wf (h : s.wf) (o a) : (deliver s o a).wf := by
  grind [deliver, State.wf, State.updCmd_wf, State.setStream_wf, State.setCaches_wf, State.updLaunch_wf, State.updSplit_wf, prefetchLine_wf]

theorem fail_wf (h : s.wf) (o cause) : (fail s o cause).wf := by
  grind [fail, State.updCmd_wf, State.setStream_wf, State.setCaches_wf, State.updLaunch_wf, State.updSplit_wf]

theorem ccDone_wf (h : s.wf) (off status) : (ccDone s off status).wf :=
  State.ite_wf (State.setDev_wf h ..) (errInterrupt_wf (State.setDev_wf h ..) ..)

theorem ccDetail_wf (h : s.wf) (off v) : (ccDetail s off v).wf := State.setDev_wf h ..

theorem tellClaims_wf (h : s.wf) (m ev) : (tellClaims s m ev).wf := by
  grind [tellClaims, State.foldl_wf, State.send_wf]

theorem abortMigration_wf (h : s.wf) (status detail) : (abortMigration s status detail).wf := by
  grind [abortMigration, State.wf, ccDone_wf, tellClaims_wf, ccDetail_wf]

theorem failOutbound_wf (h : s.wf) (req cause kind) : (failOutbound s req cause kind).wf := by
  unfold failOutbound
  dsimp only
  split
  · exact h
  · split
    · exact State.ite_wf (abortMigration_wf (reportError_wf (fail_wf (State.dropOutbound_wf h ..) ..) ..) ..) (abortMigration_wf
        (reportError_wf (fail_wf (State.dropOutbound_wf h ..) ..) ..) ..)
    · exact reportError_wf (fail_wf (State.dropOutbound_wf h ..) ..) ..

theorem execPeerAbort_wf (h : s.wf) (req) : NextWf (execPeerAbort req s) := State.ite_wf (failOutbound_wf h ..) h
theorem execPeerAccessTimeout_wf (h : s.wf) (req) : NextWf (execPeerAccessTimeout req s) := State.ite_wf (failOutbound_wf h ..) h
theorem execHostAbort_wf (h : s.wf) (req) : NextWf (execHostAbort req s) := State.ite_wf (failOutbound_wf h ..) h
theorem execHostCompletionTimeout_wf (h : s.wf) (req) : NextWf (execHostCompletionTimeout req s) := State.ite_wf (failOutbound_wf h ..) h

theorem execPeerAnswer_wf (h : s.wf) (req reply) : NextWf (execPeerAnswer req reply s) := by
  unfold execPeerAnswer
  split
  · exact State.ite_wf h (State.ite_wf (abortMigration_wf (State.dropOutbound_wf h ..) ..) (deliver_wf (State.dropOutbound_wf h ..) ..))
  · exact h

theorem execHostCompletion_wf (h : s.wf) (req) : NextWf (execHostCompletion req s) := by
  unfold execHostCompletion
  split
  · exact State.ite_wf h (deliver_wf (State.dropOutbound_wf h ..) ..)
  · exact h

theorem releaseClaim_wf (h : s.wf) (link c) : (releaseClaim s link c).wf := releaseLines_wf (State.setLink_wf h ..) ..

theorem claimLine_wf (h : s.wf) (part line) : SomeWf (claimLine s part line) := by
  grind [claimLine, Res.wf, SomeWf, State.setL2_wf, takeWay_wf]

theorem claimPage_wf (h : s.wf) (m) : SomeWf (claimPage s m) := by
  refine SomeWf.ite trivial (SomeWf.mapState (SomeWf.foldl (o := some s) h fun o k ho => ?_) fun s h => State.setLink_wf h ..)
  cases o with
  | none => trivial
  | some t => exact claimLine_wf ho ..

theorem execMigrationClaim_wf (h : s.wf) (m) : NextWf (execMigrationClaim m s) := by
  grind [execMigrationClaim, NextWf, SomeWf, claimPage_wf, State.setLink_wf, State.answerTo_wf, releaseClaim_wf]

theorem execMigrationLine_wf (h : s.wf) (link addr written data) : NextWf (execMigrationLine link addr written data s) := by
  unfold execMigrationLine
  refine State.ite_wf h (State.ite_wf (State.answerTo_wf h ..) ?_)
  split
  · exact State.answerTo_wf h ..
  · exact State.ite_wf (State.answerTo_wf h ..) (State.answerTo_wf (State.setL2_wf h ..) ..)

theorem linkDown_wf (h : s.wf) (p) : (linkDown s p).wf := by
  grind [linkDown, State.wf, State.foldl_wf, dropRemote_wf, errInterrupt_wf, abortMigration_wf, State.setCaches_wf, State.setLink_wf,
    logError_wf, releaseClaim_wf, failOutbound_wf]

theorem execPeerLinkDown_wf (h : s.wf) (link) : NextWf (execPeerLinkDown link s) := State.ite_wf h (linkDown_wf h ..)

theorem sendInvals_wf (h : s.wf) (part base size) : (sendInvals s part base size).wf := by
  grind [sendInvals, State.foldl_wf, State.send_wf]

theorem execRemoteInvalTimeout_wf (h : s.wf) (link) : NextWf (execRemoteInvalTimeout link s) := State.ite_wf (linkDown_wf h ..) h
theorem execFlitReplay_wf (h : s.wf) (link) : NextWf (execFlitReplay link s) := State.ite_wf h (State.setLink_wf h ..)

/-! MIGRATE. -/

theorem migrateLeaf_wf (h : s.wf) (tenant t a) : (migrateLeaf s tenant t a).wf := by
  unfold migrateLeaf
  refine Res.bind_wf (walkOne_wf h ..) fun _ _ h1 => ?_
  split <;> exact h1

theorem migratePages_wf (h : s.wf) (tenant t base length fuel a pages) : (migratePages s tenant t base length fuel a pages).wf := by
  induction fuel generalizing s a pages with
  | zero => exact h
  | succ fuel ih => unfold migratePages; grind [Res.wf, Res.bind_wf, migrateLeaf_wf]

theorem beginMigration_wf (h : s.wf) : (beginMigration s).wf := by
  grind [beginMigration, Res.wf, State.wf, State.foldl_wf, ccDone_wf, migratePages_wf, ccDetail_wf, State.send_wf]

theorem leaveLines_wf (h : s.wf) (m) : (leaveLines s m).wf := h

theorem sendLines_wf (h : s.wf) (m) : (sendLines s m).wf := by
  grind [sendLines, State.wf, State.foldl_wf, State.send_wf]

theorem sendMigration_wf (h : s.wf) (m) : (sendMigration s m).wf := by
  grind [sendMigration, Res.wf, leaveLines_wf, pullLine_wf, abortMigration_wf, Res.bind_wf, sendLines_wf, Res.forEach_wf]

theorem pointAway_wf (h : s.wf) (m i) : (pointAway s m i).wf :=
  Res.forEach_wf h (fun _ _ h1 => Res.bind_wf (readPhys_wf h1 ..) fun _ _ h2 => writePhys_wf h2 ..) ..

theorem commitMigration_wf (h : s.wf) (m) : (commitMigration s m).wf := by
  grind [commitMigration, Res.wf, State.wf, State.foldl_wf, pointAway_wf, sendInvals_wf, dropTlb_wf, Res.forEach_wf]

theorem endMigration_wf (h : s.wf) (m) : (endMigration s m).wf := by
  grind [endMigration, State.wf, ccDone_wf, releaseLines_wf, tellClaims_wf, ccDetail_wf]

theorem migrateStep_wf (h : s.wf) : SomeWf (migrateStep s) := by
  unfold migrateStep
  refine SomeWf.ite trivial ?_
  split
  · exact beginMigration_wf h
  · split
    · split
      · exact abortMigration_wf h ..
      · exact SomeWf.ite (sendMigration_wf h ..) trivial
    · split
      · exact abortMigration_wf h ..
      · exact SomeWf.ite (sendMigration_wf h ..) trivial
    · exact SomeWf.ite (commitMigration_wf h ..) trivial
    · exact SomeWf.ite (endMigration_wf h ..) trivial

theorem execMigrate_wf (h : s.wf) : NextWf (execMigrate s) := SomeWf.getD (migrateStep_wf h) h

theorem execMigrateAckTimeout_wf (h : s.wf) : NextWf (execMigrateAckTimeout s) := by
  unfold execMigrateAckTimeout
  split
  · exact State.ite_wf (abortMigration_wf h ..) h
  · exact h

/-! The comparator of a clamp, and the tests of units. -/

theorem performStore_wf (h : s.wf) (e x tenant) : (performStore s e x tenant).wf := by
  unfold performStore
  dsimp only
  refine Res.ite_wf (discLine_wf (State.ite_wf (State.setCaches_wf h ..) h) ..) (Res.bind_wf (coreWrite_wf (State.ite_wf
    (State.setCaches_wf h ..) h) ..) fun _ _ h1 => ?_)
  exact State.ite_wf (tagPosted_wf h1 ..) h1

theorem refuseStore_wf (h : s.wf) (e x tenant w) : (refuseStore s e x tenant w).wf := by
  unfold refuseStore
  split
  · exact State.updSplit_wf h ..
  · split
    · exact State.ite_wf (addLate_wf (State.updCmd_wf h ..) ..) (State.updCmd_wf h ..)
    · exact State.updCmd_wf h ..

theorem askStore_wf (h : s.wf) (x tenant w) : (askStore s x tenant w).wf := by
  unfold askStore
  split
  · exact askRemote_wf h ..
  · exact h

theorem failedStore_wf (h : s.wf) (e x) : SomeWf (failedStore s e x) := by
  unfold failedStore
  refine SomeWf.ite ?_ trivial
  split
  · exact State.updSplit_wf (State.setCaches_wf h ..) ..
  · exact State.updCmd_wf (State.setCaches_wf h ..) ..

theorem performStores_wf (h : s.wf) (e tenant stores) : (performStores s e tenant stores).1.wf := by
  induction stores generalizing s with
  | nil => exact h
  | cons x xs ih => unfold performStores; grind [SomeWf, Res.wf, performStore_wf, askStore_wf, refuseStore_wf, failedStore_wf]

theorem popGate_wf (h : s.wf) (k) : (popGate s k).wf := State.setPair_wf h ..

theorem releaseEntry_wf (h : s.wf) (k e) : (releaseEntry s k e).wf := by
  unfold releaseEntry
  dsimp only
  exact State.ite_wf (State.updSplit_wf (popGate_wf h ..) ..) (State.ite_wf (popGate_wf (performStores_wf h ..) ..) (State.setPair_wf
    (performStores_wf h ..) ..))

theorem mismatchGone_wf (h : s.wf) (pair e kind lane lead trail) : (mismatchGone s pair e kind lane lead trail).wf :=
  popGate_wf (noteMismatch_wf h ..) ..

theorem execCompareAct_wf (h : s.wf) (pair fault) : NextWf (execCompareAct pair fault s) := by
  unfold execCompareAct
  dsimp only
  split
  · exact h
  · refine State.ite_wf (releaseEntry_wf h ..) ?_
    split
    · exact releaseEntry_wf (State.ite_wf (State.setPair_wf h ..) h) ..
    · exact State.ite_wf (mismatchGone_wf (State.ite_wf (State.setPair_wf h ..) h) ..) (mismatch_wf (State.ite_wf (State.setPair_wf h
        ..) h) ..)

theorem execTrailingCopyTimeout_wf (h : s.wf) (pair) : NextWf (execTrailingCopyTimeout pair s) := by
  unfold execTrailingCopyTimeout
  split
  · exact h
  · exact State.ite_wf h (State.ite_wf (mismatchGone_wf h ..) (mismatch_wf h ..))

theorem execUnitTestStart_wf (h : s.wf) (unit) : NextWf (execUnitTestStart unit s) := State.ite_wf (State.setDev_wf h ..) h

theorem execUnitTestDone_wf (h : s.wf) (unit passed) : NextWf (execUnitTestDone unit passed s) :=
  State.ite_wf h (State.ite_wf (State.setDev_wf h ..) (errInterrupt_wf (State.setDev_wf h ..) ..))

/-! The Collier's mailbox. -/

theorem mbDone_wf (h : s.wf) (status) : (mbDone s status).wf :=
  State.ite_wf (State.setDev_wf h ..) (errInterrupt_wf (State.setDev_wf h ..) ..)

theorem preemptCores_wf (h : s.wf) (cores) : (preemptCores s cores).wf := h
theorem clearCore_wf (h : s.wf) (core) : (clearCore s core).wf := State.setCore_wf h ..
theorem dropPairTlb_wf (h : s.wf) (k) : (dropPairTlb s k).wf := State.setMmu_wf h ..

theorem clearPair_wf (h : s.wf) (k flush) : (clearPair s k flush).wf := by
  grind [clearPair, Res.wf, State.foldl_wf, flushL1_wf, Res.bind_wf, clearCore_wf, Res.forEach_wf]

theorem pairStep_wf (h : s.wf) : SomeWf (pairStep s) := by
  grind [pairStep, Res.wf, SomeWf, mbDone_wf, clearPair_wf, safePin_wf, preemptCores_wf, dropPairTlb_wf, State.setPair_wf]

theorem execPair_wf (h : s.wf) : NextWf (execPair s) := SomeWf.getD (pairStep_wf h) h

theorem unpairStep_wf (h : s.wf) : SomeWf (unpairStep s) := by
  grind [unpairStep, Res.wf, SomeWf, mbDone_wf, clearPair_wf, safePin_wf, preemptCores_wf, State.setPair_wf]

theorem execUnpair_wf (h : s.wf) : NextWf (execUnpair s) := SomeWf.getD (unpairStep_wf h) h

theorem execRelease_wf (h : s.wf) : NextWf (execRelease s) := by
  unfold execRelease
  dsimp only
  exact State.ite_wf h (State.ite_wf (mbDone_wf h ..) (State.ite_wf (mbDone_wf h ..) (mbDone_wf (safePin_wf (State.setPair_wf h ..)) ..)))

theorem execLimits_wf (h : s.wf) : NextWf (execLimits s) := by
  unfold execLimits
  dsimp only
  exact State.ite_wf h (State.ite_wf (mbDone_wf h ..) (mbDone_wf (State.ite_wf (State.setPart_wf h ..) (State.setDev_wf
    (State.setPart_wf h ..) ..)) ..))

theorem writeStage_wf (h : s.wf) (off bs) : (writeStage s off bs).wf := State.setDev_wf h ..

theorem execKeyload_wf (h : s.wf) : NextWf (execKeyload s) := by
  unfold execKeyload
  refine State.ite_wf h (State.ite_wf (mbDone_wf h ..) ?_)
  split
  · exact mbDone_wf h ..
  · exact mbDone_wf (State.setDev_wf h ..) ..

theorem execAttest_wf (h : s.wf) : NextWf (execAttest s) :=
  State.ite_wf h (State.ite_wf (mbDone_wf h ..) (mbDone_wf (writeStage_wf h ..) ..))

theorem execInject_wf (h : s.wf) : NextWf (execInject s) := by
  unfold execInject
  dsimp only
  exact State.ite_wf h (State.ite_wf (mbDone_wf h ..) (State.ite_wf (mbDone_wf h ..) (State.ite_wf (mbDone_wf h ..) (mbDone_wf
    (State.setPair_wf h ..) ..))))

theorem dropFlight_wf (h : s.wf) (p) : (dropFlight s p).wf := h

theorem scrubL1_wf (h : s.wf) (p l) : (scrubL1 s p l).wf := by
  unfold scrubL1
  refine State.ite_wf h ?_
  split
  · exact State.writeHostLine_wf h ..
  · exact State.ite_wf (postPeer_wf h ..) (postPeer_wf h ..)
  · exact h

theorem scrubLines_wf (h : s.wf) (p) : (scrubLines s p).wf := by
  grind [scrubLines, State.foldl_wf, State.setCaches_wf, writeBack_wf, scrubL1_wf]

theorem clearPart_wf (h : s.wf) (p) : (clearPart s p).wf := State.setPart_wf h ..

theorem resetCores_wf (h : s.wf) (p) : (resetCores s p).wf := by
  grind [resetCores, State.wf, dropTlb_wf]

theorem disarm_wf (h : s.wf) (p) : (disarm s p).wf := by
  grind [disarm, State.foldl_wf, dropGate_wf, State.setPair_wf]

theorem resetLaunch_wf (h : s.wf) (l) : (resetLaunch s l).wf := by
  grind [resetLaunch, State.foldl_wf, State.updLaunch_wf, freeCrew_wf]

theorem partitionReset_wf (h : s.wf) (p) : (partitionReset s p).wf := by
  grind [partitionReset, State.foldl_wf, disarm_wf, resetLaunch_wf, resetCores_wf, scrubLines_wf, abortMigration_wf, dropFlight_wf,
    clearPart_wf, State.setDev_wf]

theorem execPreset_wf (h : s.wf) : NextWf (execPreset s) :=
  State.ite_wf h (State.ite_wf (mbDone_wf h ..) (mbDone_wf (partitionReset_wf h ..) ..))

/-! The control core's mailbox. -/

theorem forgetWalks_wf (h : s.wf) (t) : (forgetWalks s t).wf := h
theorem dropImages_wf (h : s.wf) (p f) : (dropImages s p f).wf := State.setPart_wf h ..

theorem invalTenantBy_wf (h : s.wf) (tenant f image) : (invalTenantBy s tenant f image).wf :=
  dropImages_wf (forgetWalks_wf (dropTlb_wf h ..) ..) ..

theorem invalPart_wf (h : s.wf) (p) : (invalPart s p).wf := dropImages_wf (forgetWalks_wf (dropTlb_wf h ..) ..) ..
theorem invalShadow_wf (h : s.wf) (p base length) : (invalShadow s p base length).wf := State.setPart_wf h ..

theorem invalDo_wf (h : s.wf) (kind tenant base length) : (invalDo s kind tenant base length).wf := by
  unfold invalDo
  split
  · exact invalTenantBy_wf h ..
  · exact invalTenantBy_wf h ..
  · exact invalTenantBy_wf h ..
  · exact invalTenantBy_wf h ..
  · exact invalTenantBy_wf h ..
  · exact invalPart_wf h ..
  · exact invalShadow_wf h ..

theorem inval_wf (h : s.wf) : (inval s).wf :=
  State.ite_wf (ccDone_wf h ..) (State.ite_wf (ccDone_wf h ..) (State.ite_wf (invalDo_wf h ..) (ccDone_wf (invalDo_wf h ..) ..)))

theorem execInvalPage_wf (h : s.wf) : NextWf (execInvalPage s) := State.ite_wf (inval_wf h) h
theorem execInvalRange_wf (h : s.wf) : NextWf (execInvalRange s) := State.ite_wf (inval_wf h) h
theorem execInvalTenant_wf (h : s.wf) : NextWf (execInvalTenant s) := State.ite_wf (inval_wf h) h
theorem execInvalTenantAll_wf (h : s.wf) : NextWf (execInvalTenantAll s) := State.ite_wf (inval_wf h) h
theorem execInvalGuestRange_wf (h : s.wf) : NextWf (execInvalGuestRange s) := State.ite_wf (inval_wf h) h
theorem execInvalPartition_wf (h : s.wf) : NextWf (execInvalPartition s) := State.ite_wf (inval_wf h) h
theorem execInvalKeyShadow_wf (h : s.wf) : NextWf (execInvalKeyShadow s) := State.ite_wf (inval_wf h) h
theorem dropTenant_wf (h : s.wf) (tenant) : (dropTenant s tenant).wf := State.setMmu_wf (invalTenantBy_wf h ..) ..

theorem execTenantSet_wf (h : s.wf) : NextWf (execTenantSet s) := by
  grind [execTenantSet, NextWf, State.wf, ccDone_wf, State.setFunc_wf, dropTenant_wf]

theorem execTenantDelete_wf (h : s.wf) : NextWf (execTenantDelete s) := by
  grind [execTenantDelete, NextWf, State.wf, ccDone_wf, dropTenant_wf]

theorem execTrapset_wf (h : s.wf) : NextWf (execTrapset s) := by
  grind [execTrapset, NextWf, State.wf, ccDone_wf]

theorem execCtxpool_wf (h : s.wf) : NextWf (execCtxpool s) := by
  grind [execCtxpool, NextWf, State.wf, ccDone_wf]

theorem purgeLines_wf (h : s.wf) (lks) : (purgeLines s lks).wf := by
  unfold purgeLines
  refine Res.forEach_wf h (fun _ _ h1 => ?_) ..
  split
  · exact h1
  · exact forceOut_wf h1 ..

theorem sendSnoops_wf (h : s.wf) (p b) : (sendSnoops s p b).wf := by
  grind [sendSnoops, State.foldl_wf, State.send_wf]

theorem beginFlip_wf (h : s.wf) (p b toHost) : (beginFlip s p b toHost).wf := State.setDev_wf h ..
theorem endFlip_wf (h : s.wf) (f) : (endFlip s f).wf := ccDone_wf (State.setDev_wf h ..) ..

theorem flipStep_wf (h : s.wf) (f) : SomeWf (flipStep s f) := by
  grind [flipStep, Res.wf, SomeWf, endFlip_wf, purgeLines_wf, State.setDev_wf, sendSnoops_wf]

theorem biasStep_wf (h : s.wf) (toHost) : SomeWf (biasStep s toHost) := by
  unfold biasStep
  refine SomeWf.ite trivial (SomeWf.ite (ccDone_wf h ..) ?_)
  split
  · exact beginFlip_wf h ..
  · exact flipStep_wf h ..

theorem execBiasToHost_wf (h : s.wf) : NextWf (execBiasToHost s) := SomeWf.getD (biasStep_wf h ..) h
theorem execBiasToDevice_wf (h : s.wf) : NextWf (execBiasToDevice s) := SomeWf.getD (biasStep_wf h ..) h

theorem execPreempt_wf (h : s.wf) : NextWf (execPreempt s) :=
  State.ite_wf h (State.ite_wf (ccDone_wf h ..) (ccDone_wf (askPreempt_wf h ..) ..))

theorem execLinkup_wf (h : s.wf) : NextWf (execLinkup s) := by
  unfold execLinkup
  dsimp only
  exact State.ite_wf h (State.ite_wf (ccDone_wf h ..) (State.ite_wf (ccDone_wf h ..) (State.ite_wf (ccDone_wf h ..) (State.ite_wf
    (ccDone_wf h ..) (State.ite_wf (ccDone_wf h ..) (ccDone_wf (State.setLink_wf h ..) ..))))))

theorem execCcUnknownOp_wf (h : s.wf) : NextWf (execCcUnknownOp s) := State.ite_wf (ccDone_wf h ..) h

/-! RECONF: `renumber` takes entries out of memory, and what is left is canonical. -/

theorem applyEntry_wf (h : s.wf) (p e) : (applyEntry s p e).wf := by
  grind [applyEntry, State.setPart_wf]

theorem prepareList_wf (h : s.wf) (p es) : (prepareList s p es).wf :=
  Res.bind_wf (Res.forEach_wf h (fun _ _ h1 => flushL1_wf h1 ..) ..) fun _ _ h1 => purgeLines_wf h1 ..

theorem renumber_wf (h : s.wf) (p old) : (renumber s p old).wf := by
  refine sendInvals_wf (State.setPart_wf (invalPart_wf ?_ _) ..) ..
  exact ⟨Tbl.canon_filter _ h.1, h.2⟩

theorem emptyPool_wf (h : s.wf) (p e) : (emptyPool s p e).wf := State.writeLocal_wf h ..
theorem parkLines_wf (h : s.wf) (p old es) : (parkLines s p old es).wf := State.setCaches_wf h ..

theorem applyList_wf (h : s.wf) (p es) : (applyList s p es).wf := by
  grind [applyList, State.foldl_wf, parkLines_wf, applyEntry_wf, renumber_wf, emptyPool_wf]

theorem reconfDone_wf (h : s.wf) (status index detail) : (reconfDone s status index detail).wf :=
  ccDone_wf (ccDetail_wf (ccDetail_wf h ..) ..) ..

theorem reconfStep_wf (h : s.wf) : SomeWf (reconfStep s) := by
  grind [reconfStep, Res.wf, SomeWf, applyList_wf, prepareList_wf, reconfDone_wf]

theorem execReconf_wf (h : s.wf) : NextWf (execReconf s) := SomeWf.getD (reconfStep_wf h) h

/-! The host's register writes, and the resets. -/

theorem writeIntReg_wf (h : s.wf) (f w) : (writeIntReg s f w).wf :=
  State.ite_wf (State.setFunc_wf h ..) (State.ite_wf (State.setFunc_wf h ..) h)

theorem writePrqReg_wf (h : s.wf) (f w) : (writePrqReg s f w).wf := by
  grind [writePrqReg, NextWf, execPrqreply_wf, State.setFunc_wf]

theorem writeQueueReg_wf (h : s.wf) (f q w) : (writeQueueReg s f q w).wf := by
  unfold writeQueueReg
  split
  · exact State.setQueue_wf h ..
  · exact State.setQueue_wf h ..
  · exact State.setQueue_wf h ..
  · exact State.setQueue_wf h ..
  · exact State.setQueue_wf h ..
  · exact State.setQueue_wf h ..
  · exact h

theorem writeCountReg_wf (h : s.wf) (m w) : (writeCountReg s m w).wf := by
  unfold writeCountReg
  split
  · exact State.setPortCount_wf h ..
  · exact State.setPortCount_wf h ..
  · exact State.setPortCount_wf h ..
  · exact h

theorem writeDeviceReg_wf (h : s.wf) (w) : (writeDeviceReg s w).wf := by
  unfold writeDeviceReg
  dsimp only
  exact State.ite_wf (State.ite_wf h (State.setDev_wf h ..)) (State.ite_wf (writeIntReg_wf h ..) (State.ite_wf (State.setDev_wf h ..)
    (State.ite_wf (writeCountReg_wf h ..) (State.ite_wf (State.setDev_wf h ..) (State.ite_wf (State.ite_wf h (State.ite_wf
    (State.ite_wf h (State.setDev_wf h ..)) (State.ite_wf (State.setDev_wf h ..) (State.ite_wf (State.setDev_wf h ..) (State.ite_wf
    (State.setDev_wf h ..) h))))) (State.ite_wf (State.ite_wf h (State.setDev_wf h ..)) (State.ite_wf (State.setDev_wf h ..)
    (State.ite_wf (writeQueueReg_wf h ..) (State.ite_wf (writePrqReg_wf h ..) h)))))))))

theorem writeFuncReg_wf (h : s.wf) (f w) : (writeFuncReg s f w).wf :=
  State.ite_wf (writeQueueReg_wf h ..) (State.ite_wf (writePrqReg_wf h ..) (writeIntReg_wf h ..))

theorem writeReg_wf (h : s.wf) (func off size value) : (writeReg s func off size value).wf :=
  State.ite_wf h (State.ite_wf (writeDeviceReg_wf h ..) (State.ite_wf (writeFuncReg_wf h ..) h))

theorem execRegisterWrite_wf (h : s.wf) (func off size value) : NextWf (execRegisterWrite func off size value s) :=
  State.ite_wf h (fromHost_wf h (writeReg_wf h ..))

theorem execFlr_wf (h : s.wf) (func) : NextWf (execFlr func s) := fromHost_wf h (State.ite_wf (State.setFunc_wf h ..) h)
theorem State.setPins_wf (h : s.wf) (p) : (s.setPins p).wf := State.setDev_wf h ..

theorem execPowerGood_wf (h : s.wf) : NextWf (execPowerGood s) :=
  State.ite_wf h (State.ite_wf (State.setPins_wf h ..) (State.setDev_wf (State.setPins_wf h ..) ..))

theorem execFirmwareReady_wf (h : s.wf) : NextWf (execFirmwareReady s) := State.ite_wf h (State.setPins_wf (State.setDev_wf h ..) ..)

/-! The V-class integer instructions. -/

theorem execVcmp_wf (h : s.wf) (f) : NextWf (execVcmp f s) := withCtx_wf fun _ => predOp_wf h ..
theorem execVsel_wf (h : s.wf) (f) : NextWf (execVsel f s) := withCtx_wf fun _ => laneOp_wf h ..
theorem execVmov_wf (h : s.wf) (f) : NextWf (execVmov f s) := withCtx_wf fun _ => laneOp_wf h ..
theorem execVmovi_wf (h : s.wf) (f) : NextWf (execVmovi f s) := withCtx_wf fun _ => laneOp_wf h ..
theorem execVlea_wf (h : s.wf) (f) : NextWf (execVlea f s) := withCtx_wf fun _ => laneOp_wf h ..

/-! The V-class float instructions and the conversions. -/

theorem execFcmp_wf (h : s.wf) (f) : NextWf (execFcmp f s) := withCtx_wf fun _ => predOp_wf h ..
theorem execFclass_wf (h : s.wf) (f) : NextWf (execFclass f s) := withCtx_wf fun _ => laneOp_wf h ..
theorem execFdot2_wf (h : s.wf) (f) : NextWf (execFdot2 f s) := withCtx_wf fun _ => floatOp_wf h ..
theorem execCvt_wf (h : s.wf) (f) : NextWf (execCvt f s) := withCtx_wf fun _ => convOp_wf h ..
theorem execPack_wf (h : s.wf) (f) : NextWf (execPack f s) := withCtx_wf fun _ => convOp_wf h ..

theorem execUnpk_wf (h : s.wf) (f) : NextWf (execUnpk f s) := by
  unfold execUnpk
  refine withCtx_wf fun _ => State.ite_wf (State.retire_wf h ..) ?_
  split
  · exact State.retire_wf (State.updGroup_wf h ..) ..
  · exact withShadow_wf h (fun _ h1 => State.retire_wf (State.updGroup_wf h1 ..) ..) ..

theorem execFscl_wf (h : s.wf) (f) : NextWf (execFscl f s) := withCtx_wf fun _ => convOp_wf h ..
theorem execFround_wf (h : s.wf) (f) : NextWf (execFround f s) := withCtx_wf fun _ => convOp_wf h ..

/-! The dispatch: each arm by the lemma about its instruction, or about the shape that instructions share. -/

/-- Every instruction and every event keeps memory canonical. -/
theorem exec_wf (h : s.wf) (i : Instr) : NextWf (exec i s) := by
  unfold exec
  cases i
  case clauseHeader => exact execClauseHeader_wf h ..
  case clauseWaitEnd => exact execClauseWaitEnd_wf h ..
  case pauseExpiry | yieldTimeout => exact State.updSplit_wf h ..
  case priorityLift => exact execPriorityLift_wf h ..
  case nop f => exact execNop_wf h f
  case sadd | ssub | smul | smulh | sdiv | srem | sand | sor | sxor | sshl | sshr | smin | smax => exact scalarInt_wf h ..
  case scmp => exact execScmp_wf h ..
  case smov => exact execSmov_wf h ..
  case smovi => exact execSmovi_wf h ..
  case smovhi => exact execSmovhi_wf h ..
  case slea => unfold execSlea; exact scalarInt_wf h ..
  case ssel => exact execSsel_wf h ..
  case sbit => exact execSbit_wf h ..
  case sbfx => exact execSbfx_wf h ..
  case srd => exact execSrd_wf h ..
  case swr => exact execSwr_wf h ..
  case sfmt => exact execSfmt_wf h ..
  case sfmtRnd => exact execSfmtRnd_wf h ..
  case sfmtSat => exact execSfmtSat_wf h ..
  case sfmtAtb => exact execSfmtAtb_wf h ..
  case vote => exact execVote_wf h ..
  case bra => exact execBra_wf h ..
  case brx => exact execBrx_wf h ..
  case call => exact execCall_wf h ..
  case ret => exact execRet_wf h ..
  case rcvp => exact execRcvp_wf h ..
  case join f => exact execJoin_wf h f
  case bsync f => exact execBsync_wf h f
  case exit => exact execExit_wf h ..
  case pause => exact execPause_wf h ..
  case loop => exact execLoop_wf h ..
  case launch => exact execLaunch_wf h ..
  case bar => exact execBar_wf h ..
  case barArv => exact execBarArv_wf h ..
  case cbar => exact execCbar_wf h ..
  case rget => exact execRget_wf h ..
  case rput => exact execRput_wf h ..
  case vadd | vsub | vmul | vmulh | vmad | vdiv | vrem | vmin | vmax | vabs | vneg | vand | vor | vxor | vnot | vshl | vshr | vrot |
    vbfx | vbit => exact vectorInt_wf h ..
  case vcmp => exact execVcmp_wf h ..
  case vsel => exact execVsel_wf h ..
  case vmov => exact execVmov_wf h ..
  case vmovi => exact execVmovi_wf h ..
  case vlea => exact execVlea_wf h ..
  case fadd | fsub | fmul | ffma | fmin | fmax | fabs | fneg | fdiv | fsqrt | frcp | frsq | fexp2 | flog2 | fsin | fcos | ftanh =>
    exact vectorFloat_wf h ..
  case fcmp => exact execFcmp_wf h ..
  case fclass => exact execFclass_wf h ..
  case fact => exact execFact_wf h ..
  case fdot2 => exact execFdot2_wf h ..
  case cvt => exact execCvt_wf h ..
  case pack => exact execPack_wf h ..
  case unpk => exact execUnpk_wf h ..
  case fscl => exact execFscl_wf h ..
  case fround => exact execFround_wf h ..
  case vexpr => exact execVexpr_wf h ..
  case qswz => exact execQswz_wf h ..
  case qbcast => exact execQbcast_wf h ..
  case lxchg => exact execLxchg_wf h ..
  case lshfl => exact execLshfl_wf h ..
  case lrot => exact execLrot_wf h ..
  case lscan => exact execLscan_wf h ..
  case lred => exact execLred_wf h ..
  case lidx => exact execLidx_wf h ..
  case qhelp => exact execQhelp_wf h ..
  case atload => exact execAtload_wf h ..
  case atbind => exact execAtbind_wf h ..
  case ld => exact execLd_wf h ..
  case st => exact execSt_wf h ..
  case lateFraming => exact execLateFraming_wf h ..
  case lds => exact execLds_wf h ..
  case sts => exact execSts_wf h ..
  case ldw => exact execLdw_wf h ..
  case atom => exact execAtom_wf h ..
  case cas => exact execCas_wf h ..
  case atoms => exact execAtoms_wf h ..
  case fenceAcq => exact execFenceAcq_wf h ..
  case fenceRel => exact execFenceRel_wf h ..
  case fenceFull => exact execFenceFull_wf h ..
  case dcf => exact execDcf_wf h ..
  case disc => exact execDisc_wf h ..
  case prf => exact execPrf_wf h ..
  case wback => exact execWback_wf h ..
  case sinv => exact execSinv_wf h ..
  case cpl => exact execCpl_wf h ..
  case cps => exact execCps_wf h ..
  case cpt => exact execCpt_wf h ..
  case cptw => exact execCptw_wf h ..
  case tload => exact execTload_wf h ..
  case tbinit => exact execTbinit_wf h ..
  case tbarr => exact execTbarr_wf h ..
  case tbexp => exact execTbexp_wf h ..
  case tbtest => exact execTbtest_wf h ..
  case gset => exact execGset_wf h ..
  case gget => exact execGget_wf h ..
  case gstop => exact execGstop_wf h ..
  case copyComplete => exact execCopyComplete_wf h ..
  case gatherFetchComplete => exact execGatherFetchComplete_wf h ..
  case oclaim | orel | mmul | mmulz | mdrainV | mdrainS | mdrainG | mbyp | mzero | msclRow | msclCol => exact joint_wf h ..
  case mprog => exact execMprog_wf h ..
  case gangLatchRelease => exact execGangLatchRelease_wf h ..
  case gangLatchTimeout => exact execGangLatchTimeout_wf h ..
  case cordLatchRelease => exact execCordLatchRelease_wf h ..
  case matrixOpComplete => exact execMatrixOpComplete_wf h ..
  case drainCommandComplete => exact execDrainCommandComplete_wf h ..
  case emulationComplete => exact execEmulationComplete_wf h ..
  case trap => exact execTrap_wf h ..
  case tret => exact execTret_wf h ..
  case brk => exact execBrk_wf h ..
  case fpcnt => exact execFpcnt_wf h ..
  case fpcntClr => exact execFpcntClr_wf h ..
  case fpcntClrall => exact execFpcntClrall_wf h ..
  case yield => exact execYield_wf h ..
  case syncEng => exact execSyncEng_wf h ..
  case syncErr => exact execSyncErr_wf h ..
  case syncCode => exact execSyncCode_wf h ..
  case rep => exact execRep_wf h ..
  case rd | rdx | upg | wb | evc | rds | wrs | atx | atr | xrd | xwr | snp => exact sliceRow_wf h ..
  case probe => exact execProbe_wf h ..
  case probeAck => exact execProbeAck_wf h ..
  case walkStart => exact execWalkStart_wf h ..
  case walkComplete => exact execWalkComplete_wf h ..
  case walkAhead => exact execWalkAhead_wf h ..
  case pageRequestWrite => exact execPageRequestWrite_wf h ..
  case prqreply => exact execPrqreply_wf h ..
  case launchWindowArm => exact execLaunchWindowArm_wf h ..
  case qtailWrite => exact execQtailWrite_wf h ..
  case packetLaunch => exact execPacketLaunch_wf h ..
  case packetNop => exact execPacketNop_wf h ..
  case packetOtherOp => exact execPacketOtherOp_wf h ..
  case imageCheck => exact execImageCheck_wf h ..
  case childRecordReceive => exact execChildRecordReceive_wf h ..
  case preloadStart => exact execPreloadStart_wf h ..
  case preloadComplete => exact execPreloadComplete_wf h ..
  case cordPlace => exact execCordPlace_wf h ..
  case candidateBlocking => exact execCandidateBlocking_wf h ..
  case groupRetire => exact execGroupRetire_wf h ..
  case preemption => exact execPreemption_wf h ..
  case lazySave => exact execLazySave_wf h ..
  case crewResume => exact execCrewResume_wf h ..
  case watchdogFire => exact execWatchdogFire_wf h ..
  case uncorrectableError => exact execUncorrectableError_wf h ..
  case correctedError => exact corrected_wf h ..
  case patrolScrub => exact execPatrolScrub_wf h ..
  case refreshStart => exact execRefreshStart_wf h ..
  case refreshEnd | scoreDecay | perst => exact State.setDev_wf h ..
  case peerAbort => exact execPeerAbort_wf h ..
  case peerAccessTimeout => exact execPeerAccessTimeout_wf h ..
  case hostAbort => exact execHostAbort_wf h ..
  case hostCompletionTimeout => exact execHostCompletionTimeout_wf h ..
  case peerLinkDown => exact execPeerLinkDown_wf h ..
  case remoteInvalidation => exact execRemoteInvalidation_wf h ..
  case remoteInvalTimeout => exact execRemoteInvalTimeout_wf h ..
  case hdmRead => exact fromHost_wf h (hostReadLines_wf h ..)
  case hdmWrite => exact execHdmWrite_wf h ..
  case compareAct => exact execCompareAct_wf h ..
  case trailingCopyTimeout => exact execTrailingCopyTimeout_wf h ..
  case unitTestStart => exact execUnitTestStart_wf h ..
  case unitTestDone => exact execUnitTestDone_wf h ..
  case registerWrite => exact execRegisterWrite_wf h ..
  case flr => exact execFlr_wf h ..
  case lineMissComplete => exact State.setCaches_wf h ..
  case peerAnswer => exact execPeerAnswer_wf h ..
  case hostCompletion => exact execHostCompletion_wf h ..
  case migrationClaim => exact execMigrationClaim_wf h ..
  case migrationLine => exact execMigrationLine_wf h ..
  case flitReplay => exact execFlitReplay_wf h ..
  case migrateAckTimeout => exact execMigrateAckTimeout_wf h
  case pair => exact execPair_wf h
  case unpair => exact execUnpair_wf h
  case release => exact execRelease_wf h
  case limits => exact execLimits_wf h
  case keyload => exact execKeyload_wf h
  case preset => exact execPreset_wf h
  case attest => exact execAttest_wf h
  case inject => exact execInject_wf h
  case migrate => exact execMigrate_wf h
  case invalPage => exact execInvalPage_wf h
  case invalRange => exact execInvalRange_wf h
  case invalTenant => exact execInvalTenant_wf h
  case invalTenantAll => exact execInvalTenantAll_wf h
  case invalGuestRange => exact execInvalGuestRange_wf h
  case invalPartition => exact execInvalPartition_wf h
  case invalKeyShadow => exact execInvalKeyShadow_wf h
  case tenantSet => exact execTenantSet_wf h
  case tenantDelete => exact execTenantDelete_wf h
  case trapset => exact execTrapset_wf h
  case ctxpool => exact execCtxpool_wf h
  case biasToHost => exact execBiasToHost_wf h
  case biasToDevice => exact execBiasToDevice_wf h
  case preempt => exact execPreempt_wf h
  case linkup => exact execLinkup_wf h
  case reconf => exact execReconf_wf h
  case ccUnknownOp => exact execCcUnknownOp_wf h
  case deviceReset => exact h
  case powerGood => exact execPowerGood_wf h
  case firmwareReady => exact execFirmwareReady_wf h
  case thermalHold | thermalTrip | thermalHoldEnd => exact State.setPins_wf h ..
  case clockMonitorFail => exact safePin_wf (State.setPins_wf h ..)

/-! The moves of the device, and a step. -/

theorem State.tick_wf (h : s.wf) : s.tick.wf := h
theorem State.issue_wf (h : s.wf) (r) : (s.issue r).wf := h

theorem beforeIssue_wf (h : s.wf) (c i) : SomeWf (beforeIssue s c i) := by
  unfold beforeIssue
  split
  · exact State.waitFor_wf h ..
  · refine SomeWf.ite (withAcquire_wf (State.issue_wf h ..) (fun _ h1 => ?_) ..) (regionMiss_wf (State.issue_wf h ..) ..)
    exact State.updSplit_wf h1 ..

theorem issueNext_wf (h : s.wf) (r) : NextWf (issueNext s r) := by
  grind [issueNext, NextWf, SomeWf, withDue_wf, State.issue_wf, beforeIssue_wf, exec_wf, raise_wf]

theorem redeliver_wf (h : s.wf) (r) : (redeliver s r).wf := by
  grind [redeliver, State.wf, deliverTrap_wf, lastFrame_wf, State.waitFor_wf]

theorem runMove_wf (h : s.wf) (m) : NextWf (runMove s m) := by
  unfold runMove
  split
  · exact exec_wf h ..
  · exact exec_wf (State.issue_wf h ..) ..
  · exact issueNext_wf h ..
  · exact releaseWindow_wf h ..
  · exact pushWord_wf h ..
  · exact tryClose_wf h ..
  · exact writeContext_wf h ..
  · exact redeliver_wf h ..

theorem deviceStep_wf (h : s.wf) : NextWf (deviceStep s) := by
  unfold deviceStep
  split
  · exact runMove_wf (State.tick_wf h) ..
  · exact State.tick_wf h

theorem advance_wf (h : s.wf) : NextWf (advance s) := by
  grind [advance, State.wf, exec_wf, State.tick_wf, deviceStep_wf]

end

theorem NextWf.wf_of_next {o : Host.Outcome State Fault Refusal} {t : State} (ho : NextWf o) (e : o = .next t) : t.wf := by
  subst e; exact ho

/-- Settles O60: a step is what `advance` does, which keeps memory canonical (`advance_wf`). -/
theorem stepKeepsMemoryCanonical : Obligations.StepKeepsMemoryCanonical :=
  fun _ _ h hstep => NextWf.wf_of_next (advance_wf h) hstep

end Sys2Proof.Machine
end

section
/-! SUPPORT. The places of a memory instruction's lanes (R209): which lane is the lowest that leaves a bound, and what the address checks
do with it (R15, R26, R33). -/

namespace Sys2Proof.Machine

/-- The lanes of a mask in ascending order, each with its address. -/
def lanePlaces (q : LaneMask) (addr : Nat → W64) : List (Nat × W64) := (lanesOf q).map fun l => (l, addr l)

/-- The lanes that a memory instruction has still to perform, as a mask. -/
def Ctx.todoMask (c : Ctx) (q : Guard) : LaneMask := c.active q &&& c.sp.unfinished.getD (BitVec.allOnes 64)

theorem addrs_lanePlaces (c : Ctx) (f : MF) (n : Nat) (off : W64) :
    c.addrs f n off = lanePlaces (c.todoMask f.g) (laneAddr c f n off) := rfl

theorem scratchAddrs_lanePlaces (c : Ctx) (f : MF) (n : Nat) (off : W64) (dg : Bool) :
    c.scratchAddrs f n off dg
      = lanePlaces (c.todoMask f.g) fun l => if dg then skewAddr c.g.skew (laneAddr c f n off l) else laneAddr c f n off l := by
  simp [Ctx.scratchAddrs, addrs_lanePlaces, lanePlaces]

theorem mem_lanePlaces {q : LaneMask} {addr : Nat → W64} {l : Nat} {a : W64} :
    (l, a) ∈ lanePlaces q addr ↔ l ∈ lanesOf q ∧ addr l = a := by
  simp only [lanePlaces, List.mem_map, Prod.mk.injEq]
  exact ⟨fun ⟨_, hk, e, ha⟩ => e ▸ ⟨hk, ha⟩, fun ⟨hl, ha⟩ => ⟨l, hl, rfl, ha⟩⟩

/-- `lanePlaces` names each lane once. -/
theorem lanePlaces_fst (q : LaneMask) (addr : Nat → W64) : (lanePlaces q addr).map (·.1) = lanesOf q := by
  simp [lanePlaces, Function.comp_def]

section
variable {q m : LaneMask} {addr : Nat → W64} {l : Nat} {a : W64} {p : W64 → Prop} {P : W64 → Bool}

theorem maskOf_any_isMask (L : List (Nat × W64)) (hP : ∀ a, P a = true ↔ p a) (hm : IsMask m fun l => ∃ a, (l, a) ∈ L ∧ p a) :
    (maskOf fun l => L.any fun e => e.1 = l && P e.2) = m := by
  refine BitVec.eq_of_getLsbD_eq fun l hl => ?_
  rw [getLsbD_maskOf _ hl, Bool.eq_iff_iff, hm l hl, List.any_eq_true]
  constructor
  · rintro ⟨⟨k, a⟩, hmem, he⟩
    obtain ⟨rfl, ha⟩ : k = l ∧ P a = true := by simpa using he
    exact ⟨a, hmem, (hP a).mp ha⟩
  · rintro ⟨a, hmem, ha⟩
    exact ⟨(l, a), hmem, by simp [(hP a).mpr ha]⟩

theorem lanesOf_isMask (hP : ∀ a, P a = true ↔ p a) (hm : IsMask m fun l => ∃ a, (l, a) ∈ lanePlaces q addr ∧ p a) :
    lanesOf m = (lanesOf q).filter fun l => P (addr l) := by
  unfold lanesOf
  rw [List.filter_filter]
  refine List.filter_congr fun l hl => ?_
  have h64 : l < 64 := List.mem_range.mp hl
  rw [Bool.eq_iff_iff, hm l h64]
  simp only [mem_lanePlaces, mem_lanesOf, Bool.and_eq_true, hP]
  exact ⟨fun ⟨_, ⟨⟨_, hq⟩, e⟩, ha⟩ => ⟨e ▸ ha, hq⟩, fun ⟨ha, hq⟩ => ⟨_, ⟨⟨h64, hq⟩, rfl⟩, ha⟩⟩

/-- The first place of a list that satisfies a test is that of the lowest lane that does. -/
theorem find?_lanePlaces_lowest (hP : ∀ a, P a = true ↔ p a) (hm : IsMask m fun l => ∃ a, (l, a) ∈ lanePlaces q addr ∧ p a)
    (hl : lowLane m = some l) (ha : (l, a) ∈ lanePlaces q addr) : ((lanePlaces q addr).find? fun e => P e.2) = some (l, a) := by
  rw [lowLane, lanesOf_isMask hP hm, List.head?_filter] at hl
  obtain ⟨_, rfl⟩ := mem_lanePlaces.mp ha
  rw [lanePlaces, List.find?_map]
  exact congrArg (Option.map _) hl

end

section
variable {s : State} {c : Ctx} {L : List (Nat × W64)} {n : Nat} {acc : Access} {k : State}

theorem withAligned_aligned (h : ∀ e ∈ L, e.2.toNat % n = 0) : withAligned s c L n k = k := by
  have none : (L.find? fun e => e.2.toNat % n != 0) = none := by
    rw [List.find?_eq_none]
    exact fun e he => by simp [h e he]
  rw [withAligned, none]

theorem withBound_inside (h : ∀ e ∈ L, e.2.toNat + n ≤ c.crew.scratchSize) : withBound s c L n acc k = k := by
  have none : (L.find? fun e => !c.crew.inScratch e.2.toNat n) = none := by
    rw [List.find?_eq_none]
    exact fun e he => by simp [Crew.inScratch, h e he]
  rw [withBound, none]

variable {q m : LaneMask} {addr : Nat → W64} {l : Nat} {a : W64}

theorem withAligned_misaligned (hm : IsMask m fun l => ∃ a, (l, a) ∈ lanePlaces q addr ∧ a.toNat % n ≠ 0)
    (hl : lowLane m = some l) (ha : (l, a) ∈ lanePlaces q addr) :
    withAligned s c (lanePlaces q addr) n k = raise s c 4 m (sector a) := by
  have hP (a : W64) : (a.toNat % n != 0) = true ↔ a.toNat % n ≠ 0 := bne_iff_ne
  rw [withAligned, find?_lanePlaces_lowest hP hm hl ha]
  exact congrArg (raise s c 4 · (sector a)) (maskOf_any_isMask _ hP hm)

theorem withBound_outside (hm : IsMask m fun l => ∃ a, (l, a) ∈ lanePlaces q addr ∧ c.crew.scratchSize < a.toNat + n)
    (hl : lowLane m = some l) (ha : (l, a) ∈ lanePlaces q addr) :
    withBound s c (lanePlaces q addr) n acc k = raiseVa s c 6 m a (detailWord 7 0 0 false acc) := by
  have hP (a : W64) : (!c.crew.inScratch a.toNat n) = true ↔ c.crew.scratchSize < a.toNat + n := by simp [Crew.inScratch]
  rw [withBound, find?_lanePlaces_lowest hP hm hl ha]
  exact congrArg (raiseVa s c 6 · a _) (maskOf_any_isMask _ hP hm)

end

section
variable {s : State} {c : Ctx} {f : MF} {off : W64} {dg : Bool} {acc : Access} {k : List (Nat × W64) → State}

theorem scratchAddrs_isEmpty (n : Nat) : (c.scratchAddrs f n off dg).isEmpty = (c.addrs f n off).isEmpty := List.isEmpty_map

theorem withScratch_misaligned {m : LaneMask} {l : Nat} {a : W64}
    (hm : IsMask m fun l => ∃ a, (l, a) ∈ c.addrs f (memSize f.ty) off ∧ a.toNat % memSize f.ty ≠ 0) (hl : lowLane m = some l)
    (ha : (l, a) ∈ c.addrs f (memSize f.ty) off) : withScratch s c f off dg acc k = raise s c 4 m (sector a) := by
  simp only [withScratch, scratchAddrs_isEmpty, List.isEmpty_eq_false_iff.mpr (List.ne_nil_of_mem ha), Bool.false_eq_true, if_false]
  exact withAligned_misaligned hm hl ha

theorem withScratch_outside {m : LaneMask} {l : Nat} {a : W64} (hal : ∀ e ∈ c.addrs f (memSize f.ty) off, e.2.toNat % memSize f.ty = 0)
    (hm : IsMask m fun l => ∃ a, (l, a) ∈ c.scratchAddrs f (memSize f.ty) off dg ∧ c.crew.scratchSize < a.toNat + memSize f.ty)
    (hl : lowLane m = some l) (ha : (l, a) ∈ c.scratchAddrs f (memSize f.ty) off dg) :
    withScratch s c f off dg acc k = raiseVa s c 6 m a (detailWord 7 0 0 false acc) := by
  simp only [withScratch, List.isEmpty_eq_false_iff.mpr (List.ne_nil_of_mem ha), Bool.false_eq_true, if_false, withAligned_aligned hal]
  rw [scratchAddrs_lanePlaces] at hm ha ⊢
  exact withBound_outside hm hl ha

theorem withScratch_inside (hne : c.scratchAddrs f (memSize f.ty) off dg ≠ [])
    (hal : ∀ e ∈ c.addrs f (memSize f.ty) off, e.2.toNat % memSize f.ty = 0)
    (hin : ∀ e ∈ c.scratchAddrs f (memSize f.ty) off dg, e.2.toNat + memSize f.ty ≤ c.crew.scratchSize) :
    withScratch s c f off dg acc k = k (c.scratchAddrs f (memSize f.ty) off dg) := by
  simp only [withScratch, List.isEmpty_eq_false_iff.mpr hne, Bool.false_eq_true, if_false, withAligned_aligned hal, withBound_inside hin]

end

end Sys2Proof.Machine
end

section
/-! The address checks come before any lane performs (O14). -/

namespace Sys2Proof.Machine

section
variable {f : MF} {s : State} {c : Ctx} {i : Instr} {n l : Nat} {off : W64} {e k : State} {m : LaneMask} {a : W64}

/-- An instruction whose meaning starts with the check of R15 raises ALIGN for exactly the misaligned lanes. -/
theorem checkAligned_misaligned
    (h : exec i s = .next (if (c.addrs f n off).isEmpty then e else withAligned s c (c.addrs f n off) n k))
    (hm : IsMask m fun l => ∃ a, (l, a) ∈ c.addrs f n off ∧ a.toNat % n ≠ 0) (hl : lowLane m = some l)
    (ha : (l, a) ∈ c.addrs f n off) : exec i s = .next (raise s c 4 m (sector a)) := by
  rw [h, List.isEmpty_eq_false_iff.mpr (List.ne_nil_of_mem ha)]
  exact congrArg _ (withAligned_misaligned hm hl ha)

/-- The meaning of ldw once its lanes are known to be aligned: the bound of the weight store comes next (R29, R300). -/
theorem exec_ldw_outside (hc : s.ctx? = some c) (hal : ∀ e ∈ c.addrs f (memSize f.ty) (f.off.signExtend 64), e.2.toNat % memSize f.ty = 0)
    (hm : IsMask m fun l => ∃ a, (l, a) ∈ c.addrs f (memSize f.ty) (f.off.signExtend 64) ∧ s.wsBytes c.part < a.toNat + memSize f.ty)
    (hl : lowLane m = some l) (ha : (l, a) ∈ c.addrs f (memSize f.ty) (f.off.signExtend 64)) :
    exec (.ldw f) s = .next (raiseVa s c 6 m a (detailWord 8 0 0 false .read)) := by
  have hP (a : W64) : decide (s.wsBytes c.part < a.toNat + memSize f.ty) = true ↔ s.wsBytes c.part < a.toNat + memSize f.ty :=
    decide_eq_true_iff
  refine (withCtx_of hc _).trans (congrArg _ ?_)
  simp only [List.isEmpty_eq_false_iff.mpr (List.ne_nil_of_mem ha), Bool.false_eq_true, if_false, withAligned_aligned hal]
  rw [addrs_lanePlaces] at hm ha ⊢
  rw [find?_lanePlaces_lowest hP hm hl ha]
  exact congrArg (raiseVa s c 6 · a _) (maskOf_any_isMask _ hP hm)

end

/-- Settles O14: ALIGN is the first check of each of these instructions, and the bound the second, over the places of its lanes; the lowest
lane that fails is the first of them that does. -/
theorem memoryAddressTraps : Obligations.MemoryAddressTraps := by
  unfold Obligations.MemoryAddressTraps
  intro f s c hc n wide out o o'
  have misaligned {i : Instr} {off : W64} {e k : State}
      (h : exec i s = .next (if (c.addrs f n off).isEmpty then e else withAligned s c (c.addrs f n off) n k)) : wide i off :=
    fun _ _ _ hm hl ha => checkAligned_misaligned h hm hl ha
  have scratch {i : Instr} {off : W64} {dg : Bool} {acc : Access} {k : List (Nat × W64) → State}
      (h : exec i s = .next (withScratch s c f off dg acc k)) : wide i off ∧ out i off dg acc :=
    ⟨fun _ _ _ hm hl ha => h.trans (congrArg _ (withScratch_misaligned hm hl ha)),
      fun _ _ _ hal hm hl ha => h.trans (congrArg _ (withScratch_outside hal hm hl ha))⟩
  obtain ⟨ldsWide, ldsOut⟩ : wide (.lds f) o ∧ out (.lds f) o (f.col.getLsbD 0) .read := scratch (withCtx_of hc _)
  obtain ⟨stsWide, stsOut⟩ : wide (.sts f) o ∧ out (.sts f) o (f.col.getLsbD 0) .write := scratch (withCtx_of hc _)
  obtain ⟨atomsWide, atomsOut⟩ : wide (.atoms f) o' ∧ out (.atoms f) o' false .atomic := scratch (withCtx_of hc _)
  exact ⟨misaligned (withCtx_of hc _), misaligned (withCtx_of hc _), ldsWide, stsWide, misaligned (withCtx_of hc _),
    misaligned (withCtx_of hc _), misaligned (withCtx_of hc _), atomsWide, ldsOut, stsOut, atomsOut,
    fun _ _ _ hal hm hl ha => exec_ldw_outside hc hal hm hl ha⟩

end Sys2Proof.Machine
end

section
/-! SUPPORT. What a load writes (R297), the bytes of the scratchpad (R26, R41), and releases and acquires of a core whose L1 holds no SINV
line (R128). -/

namespace Sys2Proof.Machine

/-! Bytes. -/

theorem leBytes_lt (bs : List Byte) : leBytes bs < 256 ^ bs.length := by
  induction bs with
  | nil => simp [leBytes]
  | cons b bs ih =>
    simp only [leBytes, List.length_cons, Nat.pow_succ]
    have hb : b.toNat < 256 := b.isLt
    omega

@[simp] theorem toBytes_length (n v : Nat) : (toBytes n v).length = n := by simp [toBytes]

@[simp] theorem toBytes_getD {n i : Nat} (v : Nat) (h : i < n) : (toBytes n v).getD i 0 = BitVec.ofNat 8 (v / 256 ^ i) := by
  simp [toBytes, h]

/-! Vector registers written by a load. -/

/-- `n` consecutive registers of a lane written. -/
def Group.setRegs (g : Group) (r l n : Nat) (w : Nat → W32) : Group := (List.range n).foldl (fun g i => g.setV (r + i) l (w i)) g

theorem Group.setRegs_only (g : Group) (r l n : Nat) (w : Nat → W32) : VectorsOnly g (g.setRegs r l n w) :=
  List.foldlRecOn _ _ (VectorsOnly.rfl' g) fun _ h _ _ => h.trans (setV_only _ _ _ _)

theorem Group.setRegs_v (g : Group) {r l n r' l' : Nat} (w : Nat → W32) (h : l < 64) (h' : l' < 64) :
    (g.setRegs r l n w).v r' l' = if l' = l ∧ r ≤ r' ∧ r' < r + n then w (r' - r) else g.v r' l' := by
  unfold Group.setRegs
  induction n with
  | zero => rw [if_neg (by omega)]; rfl
  | succ n ih =>
    rw [List.range_succ, List.foldl_append, List.foldl_cons, List.foldl_nil, setV_v _ _ h h', ih]
    by_cases e : r' = r + n ∧ l' = l
    · obtain ⟨rfl, rfl⟩ := e
      rw [if_pos ⟨rfl, rfl⟩, if_pos ⟨rfl, by omega, by omega⟩, Nat.add_sub_cancel_left]
    · rw [if_neg e]
      exact if_congr (by omega) rfl rfl

/-- A loaded value fills the registers of Table 8.7. -/
theorem setLaneData_setRegs (g : Group) (r l : Nat) {ty : BitVec 3} {v : Nat} (hty : ty ≠ 7) (hv : v < 256 ^ memSize ty) :
    setLaneData g r l ty v = g.setRegs r l (memRegs ty) (loadReg ty v) := by
  have cases7 : ∀ t : BitVec 3, t ≠ 7 → t = 0 ∨ t = 1 ∨ t = 2 ∨ t = 3 ∨ t = 4 ∨ t = 5 ∨ t = 6 := by decide
  rcases cases7 ty hty with rfl | rfl | rfl | rfl | rfl | rfl | rfl
  case inl =>
    have small : v % 256 = v := Nat.mod_eq_of_lt hv
    simp [setLaneData, Group.setRegs, memRegs, loadReg, List.range_succ, small]
  case inr.inr.inl =>
    have small : v % 65536 = v := Nat.mod_eq_of_lt hv
    simp [setLaneData, Group.setRegs, memRegs, loadReg, List.range_succ, small]
  case inr.inr.inr.inr.inr.inl =>
    have low : (w64 v).extractLsb' 0 32 = BitVec.ofNat 32 v := by
      apply BitVec.eq_of_toNat_eq; simp [w64, BitVec.extractLsb'_toNat]
    have high : (w64 v).extractLsb' 32 32 = BitVec.ofNat 32 (v / 2 ^ 32) := by
      apply BitVec.eq_of_toNat_eq; simp [w64, BitVec.extractLsb'_toNat, Nat.shiftRight_eq_div_pow]; omega
    simp [setLaneData, Group.setRegs, memRegs, loadReg, Group.setV64, low, high, List.range_succ]
  all_goals simp [setLaneData, Group.setRegs, memRegs, loadReg, List.range_succ]

/-- A group whose lanes of `ls` have been loaded. -/
def Group.loaded (g : Group) (r : Nat) (ty : BitVec 3) (ls : List Nat) (val : Nat → Nat) : Group :=
  ls.foldl (fun g l => setLaneData g r l ty (val l)) g

section
variable {ty : BitVec 3} {ls : List Nat} {val : Nat → Nat}

theorem Group.loaded_only (g : Group) (r : Nat) (hty : ty ≠ 7) (hv : ∀ l, val l < 256 ^ memSize ty) :
    VectorsOnly g (g.loaded r ty ls val) :=
  List.foldlRecOn _ _ (VectorsOnly.rfl' g) fun _ h _ _ => by
    rw [setLaneData_setRegs _ _ _ hty (hv _)]
    exact h.trans (Group.setRegs_only _ _ _ _ _)

theorem Group.loaded_v (g : Group) {r r' l' : Nat} (hty : ty ≠ 7) (hv : ∀ l, val l < 256 ^ memSize ty) (hl : ∀ l ∈ ls, l < 64)
    (h' : l' < 64) :
    (g.loaded r ty ls val).v r' l'
      = if l' ∈ ls ∧ r ≤ r' ∧ r' < r + memRegs ty then loadReg ty (val l') (r' - r) else g.v r' l' := by
  unfold Group.loaded
  induction ls generalizing g with
  | nil => simp
  | cons l ls ih =>
    rw [List.foldl_cons, ih _ fun x hx => hl x (List.mem_cons_of_mem _ hx), setLaneData_setRegs _ _ _ hty (hv l),
      Group.setRegs_v _ _ (hl l (List.mem_cons_self ..)) h']
    by_cases e : l' = l
    · subst e
      by_cases hr : r ≤ r' ∧ r' < r + memRegs ty <;> simp [hr]
    · simp [e]

/-- A load that has read `val l` for each lane of `ls` writes the lanes' registers, and nothing else. -/
theorem loads_written {s : State} {c : Ctx} {f : MF} (hc : s.ctx? = some c) (hty : f.ty ≠ 7) (hv : ∀ l, val l < 256 ^ memSize f.ty)
    (hl : ∀ l ∈ ls, l < 64) :
    let t := (writeLoads c f s (ls.map fun l => (l, val l))).retire c.r
    OutsideKept s t c.g.launch ∧ LoadsWritten s t c f.ty f.dst ls val := by
  intro t
  have ht : t = regStep s c (fun g => g.loaded f.dst.toNat f.ty ls val) {} 1 := by
    simp only [t, writeLoads, List.foldl_map]
    rfl
  have hv1 : VectorsOnly c.g ((fun g => g.loaded f.dst.toNat f.ty ls val) c.g) := Group.loaded_only _ _ hty hv
  have u := vectors_update hc (G := fun g => g.loaded f.dst.toNat f.ty ls val) hv1
  have frame := regStep_frame hc u {} 1
  rw [ht]
  refine ⟨frame.outside, fun l hm i hi => ?_, fun n l h h2 => ?_, frame.others, frame.split, frame.group, fun n => ?_, fun p => ?_,
    ?_, fun i => ?_⟩
  · rw [regStep_vreg hc, Group.loaded_v _ hty hv hl (hl l hm), if_pos ⟨hm, by omega, by omega⟩, Nat.add_sub_cancel_left]
  · rw [regStep_vreg hc, ctx?_vreg hc, Group.loaded_v _ hty hv hl h, if_neg h2]
  · rw [regStep_sreg hc u, ctx?_sreg hc]
  · rw [regStep_pred hc, ctx?_pred hc, hv1.pred]
  · rw [regStep_sticky hc, ctx?_sticky hc, hv1.sticky]
    simp
  · rw [regStep_counter hc]
    rfl

end

/-- The address of a lane among its places. -/
theorem addrOf_lanePlaces {q : LaneMask} {addr : Nat → W64} {l : Nat} (h : l ∈ lanesOf q) : addrOf (lanePlaces q addr) l = addr l := by
  have found : ((lanePlaces q addr).find? fun e => e.1 = l) = some (l, addr l) := by
    rw [lanePlaces, List.find?_map]
    have : (lanesOf q).find? (fun k => decide (k = l)) = some l := by
      cases hf : (lanesOf q).find? fun k => decide (k = l) with
      | none => simpa using List.find?_eq_none.mp hf l h
      | some k => simpa using List.find?_some hf
    exact congrArg (Option.map _) this
  rw [addrOf, found]
  rfl

/-- Values read at the places of lanes, as values of the lanes. -/
theorem lanePlaces_vals {L : List (Nat × W64)} {q : LaneMask} {addr : Nat → W64} (hL : L = lanePlaces q addr) (val : W64 → Nat) :
    (L.map fun e => (e.1, val e.2)) = (L.map (·.1)).map fun l => (l, val (addrOf L l)) := by
  subst hL
  rw [lanePlaces_fst, lanePlaces, List.map_map]
  exact List.map_congr_left fun l hl => by rw [← lanePlaces, addrOf_lanePlaces hl]; rfl

/-! The scratchpad. -/

theorem scratchNum_lt (x : Core) (a n : Nat) : x.scratchNum a n < 256 ^ n := by
  simpa [Core.scratchNum] using leBytes_lt ((List.range n).map fun i => x.scratchByte (a + i))

theorem setScratch_only (x : Core) (a : Nat) (bs : List Byte) : x.setScratch a bs = { x with scratch := (x.setScratch a bs).scratch } := by
  induction bs generalizing x a with
  | nil => rfl
  | cons b bs ih => rw [Core.setScratch, ih]

theorem scratchByte_setScratch (x : Core) (a k : Nat) (bs : List Byte) :
    (x.setScratch a bs).scratchByte k = if a ≤ k ∧ k < a + bs.length then bs.getD (k - a) 0 else x.scratchByte k := by
  induction bs generalizing x a with
  | nil => rw [if_neg (by simp)]; rfl
  | cons b bs ih =>
    rw [Core.setScratch, ih, List.length_cons]
    by_cases e : k = a
    · subst e
      rw [if_neg (by omega), if_pos (by omega)]
      simp [Core.scratchByte]
    · have put : Core.scratchByte { x with scratch := Tbl.put x.scratch a b } k = x.scratchByte k := by
        simp [Core.scratchByte, Tbl.find?_put_other _ _ e]
      rw [put]
      by_cases h : a + 1 ≤ k ∧ k < a + 1 + bs.length
      · rw [if_pos h, if_pos (by omega), show k - a = (k - (a + 1)) + 1 by omega]
        rfl
      · rw [if_neg h, if_neg (by omega)]

/-- A core whose scratchpad has taken the stores of a list of places, in the order of the list. -/
def Core.stored (x : Core) (base n : Nat) (L : List (Nat × W64)) (d : Nat → Nat) : Core :=
  L.foldl (fun x p => x.setScratch (base + p.2.toNat) (toBytes n (d p.1))) x

theorem stored_only (x : Core) (base n : Nat) (L : List (Nat × W64)) (d : Nat → Nat) :
    x.stored base n L d = { x with scratch := (x.stored base n L d).scratch } :=
  List.foldlRecOn (motive := fun y : Core => y = { x with scratch := y.scratch }) L _ rfl fun y hy p _ => by
    rw [setScratch_only, hy]

/-- Where lanes overlap, the data of the last one stands (R116). -/
theorem scratchByte_stored (x : Core) (base n k : Nat) (L : List (Nat × W64)) (d : Nat → Nat) :
    (x.stored base n L d).scratchByte k
      = ((L.filter fun p => base + p.2.toNat ≤ k && k < base + p.2.toNat + n).getLast?).elim (x.scratchByte k)
          fun p => BitVec.ofNat 8 (d p.1 / 256 ^ (k - (base + p.2.toNat))) := by
  unfold Core.stored
  induction L generalizing x with
  | nil => rfl
  | cons p L ih =>
    rw [List.foldl_cons, ih, scratchByte_setScratch, toBytes_length]
    by_cases h : base + p.2.toNat ≤ k ∧ k < base + p.2.toNat + n
    · rw [List.filter_cons_of_pos (by simpa using h), List.getLast?_cons, if_pos h, toBytes_getD _ (by omega)]
      cases (L.filter fun p => base + p.2.toNat ≤ k && k < base + p.2.toNat + n).getLast? <;> rfl
    · rw [List.filter_cons_of_neg (by simpa using h), if_neg h]

/-! Releases and acquires. -/

section
variable {s : State} {core : Nat} (h : noSinv s core)
include h

theorem sinvWriteBack_noSinv (part : Nat) : sinvWriteBack s part core = .ok s () := by
  have none : (s.caches.l1.filter fun e => e.2.core = core && e.2.perm = .sinv && e.2.dirty != 0) = [] := by
    rw [List.filter_eq_nil_iff]
    intro e he
    simpa using fun e1 e2 => absurd e2 (h.1 e he e1)
  rw [sinvWriteBack, none]
  rfl

theorem sinvInvalidate_noSinv : sinvInvalidate s core = s := by
  have all : (s.caches.l1.filter fun e => !(e.2.core = core && e.2.perm = .sinv)) = s.caches.l1 := by
    rw [List.filter_eq_self]
    intro e he
    simpa [imp_iff_not_or] using h.1 e he
  rw [sinvInvalidate, all]
  rfl

theorem unperformed_noSinv : s.unperformed core = none := by
  have none : (s.caches.busy.find? fun e => handsOver e.2.event && reqTag e.2.access.who = core) = none := by
    rw [List.find?_eq_none]
    intro e he
    by_cases e1 : reqTag e.2.access.who = core
    · simp [h.2 e he e1]
    · simp [e1]
  rw [State.unperformed, none]
  rfl

theorem releaseL1_noSinv (part scope : Nat) : releaseL1 s part core scope = .ok s () := by
  unfold releaseL1
  split
  · rfl
  · simp only [sinvWriteBack_noSinv h, Res.bind, unperformed_noSinv h]

theorem acquireL1_noSinv (part scope : Nat) : acquireL1 s part core scope = .ok s () := by
  unfold acquireL1
  split
  · rfl
  · simp only [sinvWriteBack_noSinv h, Res.bind, sinvInvalidate_noSinv h]

end

section
variable {s : State} {c : Ctx} (h : noSinv s c.crew.core) (on : Bool) (scope : Nat) (k : State → State)
include h

theorem withAcquire_noSinv : withAcquire s c on scope k = k s := by
  simp [withAcquire, acquireL1_noSinv h]

theorem withWriteBack_noSinv (hg : gateClear s c) : withWriteBack s c on scope k = k s := by
  have empty (k : State) : withGateEmpty s c k = k := by
    refine if_neg ?_
    simp only [Bool.and_eq_true, List.any_eq_true, decide_eq_true_eq]
    exact fun ⟨hk, e, he, hr⟩ => hg hk e he hr
  simp [withWriteBack, releaseL1_noSinv h, empty]

end

end Sys2Proof.Machine
end

section
/-! The scratchpad and the weight store as lds, sts and ldw reach them (O15). -/

namespace Sys2Proof.Machine

section
variable {f : MF} {s : State} {c : Ctx} (hc : s.ctx? = some c)
include hc

/-- A load of values that depend on the lane's address alone. -/
theorem placesLoaded_written (hty : f.ty ≠ 7) {L : List (Nat × W64)} {q : LaneMask} {addr : Nat → W64} (hL : L = lanePlaces q addr)
    {val : W64 → Nat} (hv : ∀ a, val a < 256 ^ memSize f.ty) :
    let t := (writeLoads c f s (L.map fun e => (e.1, val e.2))).retire c.r
    OutsideKept s t c.g.launch ∧ LoadsWritten s t c f.ty f.dst (L.map (·.1)) fun l => val (addrOf L l) := by
  rw [lanePlaces_vals hL]
  refine loads_written hc hty (fun l => hv _) fun l hl => ?_
  rw [hL, lanePlaces_fst] at hl
  exact (mem_lanesOf.mp hl).1

section
variable (hs : noSinv s c.crew.core)
  (hne : c.scratchAddrs f (memSize f.ty) (f.off.signExtend 64) (f.col.getLsbD 0) ≠ [])
  (hal : ∀ e ∈ c.addrs f (memSize f.ty) (f.off.signExtend 64), e.2.toNat % memSize f.ty = 0)
  (hin : ∀ e ∈ c.scratchAddrs f (memSize f.ty) (f.off.signExtend 64) (f.col.getLsbD 0), e.2.toNat + memSize f.ty ≤ c.crew.scratchSize)
include hs hne hal hin

/-- lds inside the bound: the lanes' bytes go to their registers. -/
theorem exec_lds :
    exec (.lds f) s
      = .next ((writeLoads c f s ((c.scratchAddrs f (memSize f.ty) (f.off.signExtend 64) (f.col.getLsbD 0)).map fun e =>
          (e.1, (s.core c.crew.core).scratchNum (c.crew.scratchBase + e.2.toNat) (memSize f.ty)))).retire c.r) := by
  refine (withCtx_of hc _).trans (congrArg _ ?_)
  rw [withScratch_inside hne hal hin]
  exact withAcquire_noSinv hs ..

/-- sts inside the bound: the core's scratchpad takes the lanes' data. -/
theorem exec_sts (hg : gateClear s c) :
    exec (.sts f) s
      = .next ((s.setCore c.crew.core ((s.core c.crew.core).stored c.crew.scratchBase (memSize f.ty)
          (c.scratchAddrs f (memSize f.ty) (f.off.signExtend 64) (f.col.getLsbD 0))
          fun l => laneData c.g f.dst.toNat l (memSize f.ty))).retire c.r) := by
  refine (withCtx_of hc _).trans (congrArg _ ?_)
  rw [withScratch_inside hne hal hin]
  exact withWriteBack_noSinv hs (hg := hg) ..

end

/-- ldw with every lane aligned and inside the bound: it reads, unless the bank of one of its lanes is in refresh (R53). -/
theorem exec_ldw (hne : c.addrs f (memSize f.ty) (f.off.signExtend 64) ≠ [])
    (hin : ∀ e ∈ c.addrs f (memSize f.ty) (f.off.signExtend 64),
      e.2.toNat % memSize f.ty = 0 ∧ e.2.toNat + memSize f.ty ≤ s.wsBytes c.part) :
    exec (.ldw f) s = .next
      (((c.addrs f (memSize f.ty) (f.off.signExtend 64)).find? fun e =>
          Tbl.getD s.dev.refresh (wsHome (s.part c.part).ports e.2.toNat).1 false).elim
        ((writeLoads c f s ((c.addrs f (memSize f.ty) (f.off.signExtend 64)).map fun e =>
          (e.1, s.readWs c.part e.2.toNat (memSize f.ty)))).retire c.r)
        fun e => s.waitFor c.r (.refresh (wsHome (s.part c.part).ports e.2.toNat).1)) := by
  have inside : ((c.addrs f (memSize f.ty) (f.off.signExtend 64)).find? fun e =>
      decide (s.wsBytes c.part < e.2.toNat + memSize f.ty)) = none := by
    rw [List.find?_eq_none]
    intro e he
    simpa using (hin e he).2
  refine (withCtx_of hc _).trans (congrArg _ ?_)
  simp only [List.isEmpty_eq_false_iff.mpr hne, Bool.false_eq_true, if_false, withAligned_aligned fun e he => (hin e he).1, inside]
  cases (c.addrs f (memSize f.ty) (f.off.signExtend 64)).find? fun e =>
    Tbl.getD s.dev.refresh (wsHome (s.part c.part).ports e.2.toNat).1 false <;> rfl

end

theorem readWs_lt (s : State) (p w n : Nat) : s.readWs p w n < 256 ^ n := by
  simpa [State.readWs] using leBytes_lt ((List.range n).map fun i => s.readWsByte p (w + i))

/-- Settles O15: inside their bounds lds, sts and ldw are plain reads and writes of the lanes' bytes (`exec_lds`, `exec_sts`, `exec_ldw`); where
stores overlap, the bytes of the highest lane stand (`scratchByte_stored`). -/
theorem scratchpadAndWeightStore : Obligations.ScratchpadAndWeightStore := by
  unfold Obligations.ScratchpadAndWeightStore
  refine ⟨?_, ?_⟩
  · intro f s c hc hty hs hg n k base at_ hne hal hin
    refine ⟨⟨_, exec_lds hc hs hne hal hin, ?_⟩, _, exec_sts hc hs hne hal hin hg, stored_only .., fun a => ?_⟩
    · exact placesLoaded_written hc hty (scratchAddrs_lanePlaces ..) fun a => scratchNum_lt (s.core k) (base + a.toNat) n
    · rw [scratchByte_stored]
      cases ((at_.filter fun p => base + p.2.toNat ≤ a && a < base + p.2.toNat + n).getLast?) <;> rfl
  · intro f s c hc hty n at_ ports busy hne hin
    have e : exec (.ldw f) s = .next ((at_.find? busy).elim _ _) := exec_ldw hc hne hin
    refine ⟨fun idle => ?_, fun ⟨p, hp, hb⟩ => ?_⟩
    · have none : at_.find? busy = none := by
        rw [List.find?_eq_none]
        intro p hp
        simpa using idle p hp
      rw [none] at e
      exact ⟨_, e, placesLoaded_written hc hty (addrs_lanePlaces ..) fun a => readWs_lt s c.part a.toNat n⟩
    · obtain ⟨x, hx⟩ := Option.isSome_iff_exists.mp (List.find?_isSome.mpr ⟨p, hp, hb⟩)
      rw [hx] at e
      exact ⟨_, List.find?_some (p := busy) hx, e⟩

end Sys2Proof.Machine
end

section
/-! SUPPORT. A register write of the host (R25): the register it reaches, and the bits that it changes (Tables 6.11, 14.3 and 17.7). -/

namespace Sys2Proof.Machine

/-! Fields of a word. -/

theorem fld_extractLsb' {w : Nat} (x : BitVec w) (lo len : Nat) : fld x lo len = (x.extractLsb' lo len).toNat := by
  simp [fld, BitVec.extractLsb'_toNat, Nat.shiftRight_eq_div_pow]

theorem getLsbD_setFld {w : Nat} (x : BitVec w) {lo len n i : Nat} (hi : i < w) :
    (setFld x lo len n).getLsbD i = if lo ≤ i ∧ i < lo + len then n.testBit (i - lo) else x.getLsbD i := by
  simp only [setFld, BitVec.getLsbD_or, BitVec.getLsbD_and, BitVec.getLsbD_not, BitVec.getLsbD_ofNat, Nat.testBit_mul_two_pow,
    Nat.testBit_two_pow_sub_one, Nat.testBit_mod_two_pow, hi, decide_true, Bool.true_and]
  by_cases hlo : lo ≤ i
  · by_cases hlen : i < lo + len
    · simp [hlo, hlen, show i - lo < len by omega]
    · simp [hlo, hlen, show ¬i - lo < len by omega]
  · simp [hlo]

/-- A field that has been set reads as set. -/
theorem extractLsb'_setFld {w : Nat} (x : BitVec w) {lo len n : Nat} (h : lo + len ≤ w) :
    (setFld x lo len n).extractLsb' lo len = BitVec.ofNat len n := by
  refine BitVec.eq_of_getLsbD_eq fun i hi => ?_
  rw [BitVec.getLsbD_extractLsb', getLsbD_setFld x (by omega), if_pos (by omega), Nat.add_sub_cancel_left, BitVec.getLsbD_ofNat]

/-- A field that lies apart reads as before. -/
theorem extractLsb'_setFld_other {w : Nat} (x : BitVec w) {lo len n lo' len' : Nat} (h : lo' + len' ≤ w)
    (apart : lo' + len' ≤ lo ∨ lo + len ≤ lo') : (setFld x lo len n).extractLsb' lo' len' = x.extractLsb' lo' len' := by
  refine BitVec.eq_of_getLsbD_eq fun i hi => ?_
  rw [BitVec.getLsbD_extractLsb', BitVec.getLsbD_extractLsb', getLsbD_setFld x (by omega), if_neg (by omega)]

/-! The writes that the registers see. -/

/-- A write of all 8 bytes of an aligned place. -/
def wholeWrite (off : Nat) (v : W64) : RegWrite := { off := off, on := BitVec.allOnes 64, val := v }

/-- A write of the upper 4 bytes of an aligned place. -/
def upperWrite (off : Nat) (v : W64) : RegWrite := { off := off, on := ones 32 32, val := v <<< 32 }

theorem getLsbD_ones {lo len i : Nat} (hi : i < 64) : (ones lo len).getLsbD i = decide (lo ≤ i ∧ i < lo + len) := by
  simp only [ones, w64, BitVec.getLsbD_ofNat, Nat.testBit_mul_two_pow, Nat.testBit_two_pow_sub_one, hi, decide_true, Bool.true_and]
  rw [Bool.eq_iff_iff]
  simp only [Bool.and_eq_true, decide_eq_true_eq]
  omega

/-- Bit by bit: a writable bit takes the value written, a bit that a written 1 clears is cleared, and every other bit stands. -/
theorem RegWrite.getLsbD_to (w : RegWrite) (old rw w1c : W64) {i : Nat} (hi : i < 64) :
    (w.to old rw w1c).getLsbD i
      = ((if w.on.getLsbD i && rw.getLsbD i then w.val.getLsbD i else old.getLsbD i)
          && !(w.on.getLsbD i && w.val.getLsbD i && w1c.getLsbD i)) := by
  simp only [RegWrite.to, BitVec.getLsbD_or, BitVec.getLsbD_and, BitVec.getLsbD_not, hi, decide_true, Bool.true_and]
  cases w.on.getLsbD i <;> cases rw.getLsbD i <;> simp [Bool.and_comm]

theorem wholeWrite_rw (off : Nat) (v old rw : W64) : (wholeWrite off v).to old rw 0 = (old &&& ~~~rw) ||| (v &&& rw) := by
  refine BitVec.eq_of_getLsbD_eq fun i hi => ?_
  rw [RegWrite.getLsbD_to _ _ _ _ hi]
  simp only [wholeWrite, BitVec.getLsbD_allOnes, BitVec.getLsbD_or, BitVec.getLsbD_and, BitVec.getLsbD_not, hi, decide_true, Bool.true_and]
  cases rw.getLsbD i <;> simp

theorem wholeWrite_w1c (off : Nat) (v old w1c : W64) : (wholeWrite off v).to old 0 w1c = old &&& ~~~(v &&& w1c) := by
  refine BitVec.eq_of_getLsbD_eq fun i hi => ?_
  rw [RegWrite.getLsbD_to _ _ _ _ hi]
  simp only [wholeWrite, BitVec.getLsbD_allOnes, BitVec.ofNat_eq_ofNat, BitVec.getLsbD_zero, BitVec.getLsbD_and, BitVec.getLsbD_not, hi,
    decide_true, Bool.true_and, Bool.and_false, Bool.false_eq_true, if_false]

/-- The low half of a register stands under a write of its upper half. -/
theorem upperWrite_low (off : Nat) (v old rw : W64) : fld ((upperWrite off v).to old rw 0) 0 32 = fld old 0 32 := by
  rw [fld_extractLsb', fld_extractLsb']
  refine congrArg BitVec.toNat (BitVec.eq_of_getLsbD_eq fun i hi => ?_)
  have outside : (ones 32 32).getLsbD i = false := by
    rw [getLsbD_ones (by omega)]
    exact decide_eq_false (by omega)
  rw [BitVec.getLsbD_extractLsb', BitVec.getLsbD_extractLsb', Nat.zero_add, RegWrite.getLsbD_to _ _ _ _ (by omega), upperWrite, outside]
  simp

/-- The writable bits of the upper half take the bits written. -/
theorem upperWrite_high (off : Nat) {v old rw : W64} {n : Nat} (hn : n ≤ 32) (hrw : ∀ i, i < n → rw.getLsbD (32 + i) = true) :
    fld ((upperWrite off v).to old rw 0) 32 n = fld v 0 n := by
  rw [fld_extractLsb', fld_extractLsb']
  refine congrArg BitVec.toNat (BitVec.eq_of_getLsbD_eq fun i hi => ?_)
  have inside : (ones 32 32).getLsbD (32 + i) = true := by
    rw [getLsbD_ones (by omega)]
    exact decide_eq_true (by omega)
  have shifted : (v <<< 32).getLsbD (32 + i) = v.getLsbD i := by
    rw [BitVec.getLsbD_shiftLeft, decide_eq_true (show 32 + i < 64 by omega), decide_eq_false (show ¬32 + i < 32 by omega),
      Nat.add_sub_cancel_left]
    rfl
  rw [BitVec.getLsbD_extractLsb', BitVec.getLsbD_extractLsb', Nat.zero_add, RegWrite.getLsbD_to _ _ _ _ (by omega), upperWrite, inside,
    hrw i hi, shifted]
  simp

/-! Which register a write reaches (Tables 1.4 and 1.5). -/

theorem fromHost_up {s : State} (h : s.hostUp = true) (k : State) : fromHost s k = k := if_pos h

@[simp] theorem fromHost_self (s : State) : fromHost s s = s := by simp [fromHost]

section
variable {s : State} {f q off size o : Nat} {v : W64}

theorem exec_registerWrite_ignored (h : regAccess off size = false) : exec (.registerWrite f off size v) s = .next s := by
  have same : writeReg s f off size v = s := by simp [writeReg, h]
  show Host.Outcome.next (if _ then s else fromHost s (writeReg s f off size v)) = _
  rw [same, fromHost_self, ite_self]

theorem exec_registerWrite_device (h : s.hostUp = true) (ha : off % 8 = 0) (hw : off / 8 ≠ 0x20) :
    exec (.registerWrite 0 off 8 v) s = .next (writeDeviceReg s (wholeWrite off v)) := by
  show Host.Outcome.next (if _ then s else fromHost s (writeReg s 0 off 8 v)) = _
  simp only [hw, fromHost_up h, writeReg, regAccess, ha]
  simp [wholeWrite, show ones 0 64 = BitVec.allOnes 64 by decide]

theorem exec_registerWrite_device_upper (h : s.hostUp = true) (ha : off % 8 = 0) (hw : off / 8 ≠ 0x20) :
    exec (.registerWrite 0 (off + 4) 4 v) s = .next (writeDeviceReg s (upperWrite off v)) := by
  show Host.Outcome.next (if _ then s else fromHost s (writeReg s 0 (off + 4) 4 v)) = _
  simp [show (off + 4) / 8 = off / 8 by omega, hw, fromHost_up h, writeReg, regAccess, show (off + 4) % 4 = 0 by omega,
    show (off + 4) % 8 = 4 by omega, upperWrite]

theorem exec_registerWrite_func (h : s.hostUp = true) (ha : off % 8 = 0) (hf : 1 ≤ f ∧ f < 64) (ho : off < 0x10000) :
    exec (.registerWrite f off 8 v) s = .next (writeFuncReg s f (wholeWrite off v)) := by
  show Host.Outcome.next (if _ then s else fromHost s (writeReg s f off 8 v)) = _
  simp [fromHost_up h, writeReg, regAccess, ha, show f ≠ 0 by omega, hf.2, ho, wholeWrite, show ones 0 64 = BitVec.allOnes 64 by decide]

theorem exec_registerWrite_func_upper (h : s.hostUp = true) (ha : off % 8 = 0) (hf : 1 ≤ f ∧ f < 64) (ho : off + 4 < 0x10000) :
    exec (.registerWrite f (off + 4) 4 v) s = .next (writeFuncReg s f (upperWrite off v)) := by
  show Host.Outcome.next (if _ then s else fromHost s (writeReg s f (off + 4) 4 v)) = _
  simp [fromHost_up h, writeReg, regAccess, show (off + 4) % 4 = 0 by omega, show (off + 4) % 8 = 4 by omega,
    show f ≠ 0 by omega, hf.2, ho, upperWrite]

variable {w : RegWrite}

theorem writeDeviceReg_queue (h : 0x300000 ≤ w.off ∧ w.off < 0x308000) :
    writeDeviceReg s w = writeQueueReg s 0 ((w.off - 0x300000) / 4096) { w with off := w.off % 4096 } := by
  grind [writeDeviceReg]

theorem writeDeviceReg_prq (h : 0x380000 ≤ w.off ∧ w.off < 0x380040) :
    writeDeviceReg s w = writePrqReg s 0 { w with off := w.off - 0x380000 } := by
  grind [writeDeviceReg]

theorem writeDeviceReg_int (h : 0x1000 ≤ w.off ∧ w.off < 0x1020) :
    writeDeviceReg s w = writeIntReg s 0 { w with off := w.off - 0x1000 } := by
  grind [writeDeviceReg]

theorem writeDeviceReg_mailbox (h : 0x208000 ≤ w.off ∧ w.off < 0x208040) :
    writeDeviceReg s w
      = if s.dev.mbgo then s
        else s.setDev { s.dev with mbcmd := writeBlockReg s.dev.mbcmd { w with off := w.off - 0x208000 } } := by
  grind [writeDeviceReg]

/-- The page-request block and the interrupt registers follow the queue interfaces of a virtual function. -/
theorem writeFuncReg_cases (s : State) (f : Nat) (w : RegWrite) :
    (w.off < 0x8000 → writeFuncReg s f w = writeQueueReg s f (w.off / 4096) { w with off := w.off % 4096 })
      ∧ (0x8000 ≤ w.off → w.off < 0x9000 → writeFuncReg s f w = writePrqReg s f { w with off := w.off - 0x8000 })
      ∧ (0x9000 ≤ w.off → writeFuncReg s f w = writeIntReg s f { w with off := w.off - 0x9000 }) := by
  grind [writeFuncReg]

/-- A queue interface of function 0 and of a virtual function (Table 14.3). -/
theorem exec_registerWrite_queue (h : s.hostUp = true) (hf : f = 0 ∨ 1 ≤ f ∧ f < 64) (hq : q < 8) (ho : o < 4096) (ha : o % 8 = 0) :
    exec (.registerWrite f ((if f = 0 then 0x300000 + 4096 * q else 4096 * q) + o) 8 v) s
      = .next (writeQueueReg s f q (wholeWrite o v)) := by
  rcases hf with rfl | hf
  · rw [if_pos rfl, exec_registerWrite_device h (by omega) (by omega), writeDeviceReg_queue (by simp only [wholeWrite]; omega)]
    simp only [wholeWrite, show (0x300000 + 4096 * q + o - 0x300000) / 4096 = q by omega, show (0x300000 + 4096 * q + o) % 4096 = o by omega]
  · rw [if_neg (by omega), exec_registerWrite_func h (by omega) hf (by omega), (writeFuncReg_cases ..).1 (by simp only [wholeWrite]; omega)]
    simp only [wholeWrite, show (4096 * q + o) / 4096 = q by omega, show (4096 * q + o) % 4096 = o by omega]

/-- The page-request block of a function (Table 6.11). -/
theorem exec_registerWrite_prq (h : s.hostUp = true) (hf : f = 0 ∨ 1 ≤ f ∧ f < 64) (ho : o < 0x40) (ha : o % 8 = 0) :
    exec (.registerWrite f ((if f = 0 then 0x380000 else 0x8000) + o) 8 v) s = .next (writePrqReg s f (wholeWrite o v)) := by
  rcases hf with rfl | hf
  · rw [if_pos rfl, exec_registerWrite_device h (by omega) (by omega), writeDeviceReg_prq (by simp only [wholeWrite]; omega)]
    simp only [wholeWrite, Nat.add_sub_cancel_left]
  · rw [if_neg (by omega), exec_registerWrite_func h (by omega) hf (by omega),
      (writeFuncReg_cases ..).2.1 (by simp only [wholeWrite]; omega) (by simp only [wholeWrite]; omega)]
    simp only [wholeWrite, Nat.add_sub_cancel_left]

/-- The interrupt registers of a function (Table 17.7). -/
theorem exec_registerWrite_int (h : s.hostUp = true) (hf : f = 0 ∨ 1 ≤ f ∧ f < 64) (ho : o < 0x20) (ha : o % 8 = 0) :
    exec (.registerWrite f ((if f = 0 then 0x1000 else 0x9000) + o) 8 v) s = .next (writeIntReg s f (wholeWrite o v)) := by
  rcases hf with rfl | hf
  · rw [if_pos rfl, exec_registerWrite_device h (by omega) (by omega), writeDeviceReg_int (by simp only [wholeWrite]; omega)]
    simp only [wholeWrite, Nat.add_sub_cancel_left]
  · rw [if_neg (by omega), exec_registerWrite_func h (by omega) hf (by omega), (writeFuncReg_cases ..).2.2 (by simp only [wholeWrite]; omega)]
    simp only [wholeWrite, Nat.add_sub_cancel_left]

theorem exec_registerWrite_int_upper (h : s.hostUp = true) (hf : f = 0 ∨ 1 ≤ f ∧ f < 64) (ho : o < 0x20) (ha : o % 8 = 0) :
    exec (.registerWrite f ((if f = 0 then 0x1000 else 0x9000) + (o + 4)) 4 v) s = .next (writeIntReg s f (upperWrite o v)) := by
  rw [← Nat.add_assoc]
  rcases hf with rfl | hf
  · rw [if_pos rfl, exec_registerWrite_device_upper h (by omega) (by omega), writeDeviceReg_int (by simp only [upperWrite]; omega)]
    simp only [upperWrite, Nat.add_sub_cancel_left]
  · rw [if_neg (by omega), exec_registerWrite_func_upper h (by omega) hf (by omega),
      (writeFuncReg_cases ..).2.2 (by simp only [upperWrite]; omega)]
    simp only [upperWrite, Nat.add_sub_cancel_left]

/-- A word of the Collier's command block (R425), which is closed while GO is set (log 26). -/
theorem exec_registerWrite_mailbox (h : s.hostUp = true) {k : Nat} (hk : k < 8) :
    exec (.registerWrite 0 (0x208000 + 8 * k) 8 v) s
      = .next (if s.dev.mbgo then s else s.setDev { s.dev with mbcmd := setFld s.dev.mbcmd (64 * k) 64 v.toNat }) := by
  have block : writeBlockReg s.dev.mbcmd (wholeWrite (8 * k) v) = setFld s.dev.mbcmd (64 * k) 64 v.toNat := by
    have all (x : W64) : (wholeWrite (8 * k) v).to x (ones 0 64) 0 = v := by
      rw [wholeWrite_rw, show ones 0 64 = BitVec.allOnes 64 by decide, BitVec.and_allOnes, BitVec.not_allOnes]
      simp
    rw [writeBlockReg, all, wholeWrite, show 8 * (8 * k) = 64 * k by omega]
  rw [exec_registerWrite_device h (by omega) (by omega), writeDeviceReg_mailbox (by simp only [wholeWrite]; omega), ← block]
  simp only [wholeWrite, Nat.add_sub_cancel_left]

end

end Sys2Proof.Machine
end

section
/-! The host's register writes, and the resets (O53). -/

namespace Sys2Proof.Machine

section
variable {s : State} {f q off size : Nat} {v : W64} (h : s.hostUp = true)
include h

/-- ERRCTL.IRQEN. -/
theorem exec_registerWrite_errctl :
    exec (.registerWrite 0 0x5008 8 v) s = .next (s.setDev { s.dev with errIrqEn := v.getLsbD 0 }) := by
  have bit (old : W64) : ((wholeWrite 0x5008 v).to old 1 0).getLsbD 0 = v.getLsbD 0 := by
    rw [RegWrite.getLsbD_to _ _ _ _ (by omega)]
    simp [wholeWrite]
  rw [exec_registerWrite_device h (by omega) (by omega), ← bit]
  rfl

/-- GO of the control core's mailbox, which exists once the boot lock is set (R431, R442). -/
theorem exec_registerWrite_ccgo :
    exec (.registerWrite 0 0x100040 8 v) s
      = .next (if s.dev.locked then s.setDev { s.dev with ccgo := s.dev.ccgo || v.getLsbD 0 } else s) := by
  have bit : ((wholeWrite 0x100040 v).on &&& (wholeWrite 0x100040 v).val).getLsbD 0 = v.getLsbD 0 := by simp [wholeWrite]
  rw [exec_registerWrite_device h (by omega) (by omega), ← bit]
  cases hl : s.dev.locked <;> simp [writeDeviceReg, wholeWrite, hl]

/-- GO of the Collier's mailbox (R425). -/
theorem exec_registerWrite_mbgo :
    exec (.registerWrite 0 0x208040 8 v) s = .next (s.setDev { s.dev with mbgo := s.dev.mbgo || v.getLsbD 0 }) := by
  have bit : ((wholeWrite 0x208040 v).on &&& (wholeWrite 0x208040 v).val).getLsbD 0 = v.getLsbD 0 := by simp [wholeWrite]
  rw [exec_registerWrite_device h (by omega) (by omega), ← bit]
  rfl

/-- PRQREPLY is the register through which the host answers a page request (R163). -/
theorem exec_registerWrite_prqreply (hf : f = 0 ∨ 1 ≤ f ∧ f < 64) :
    exec (.registerWrite f ((if f = 0 then 0x380000 else 0x8000) + 0x20) 8 v) s = exec (.prqreply f v) s := by
  have on : (wholeWrite 0x20 v).on.getLsbD 0 = true := by simp [wholeWrite]
  rw [exec_registerWrite_prq h hf (by omega) (by omega)]
  show Host.Outcome.next (if (wholeWrite 0x20 v).on.getLsbD 0 then _ else s) = _
  rw [if_pos on]
  rfl

end

/-- PRQHEAD takes all of its 32 bits. -/
theorem wholeWrite_prqhead (off : Nat) (v : W64) (x : BitVec 32) :
    ((wholeWrite off v).to (x.setWidth 64) (ones 0 32) 0).setWidth 32 = v.setWidth 32 := by
  refine BitVec.eq_of_getLsbD_eq fun i hi => ?_
  rw [BitVec.getLsbD_setWidth, BitVec.getLsbD_setWidth, RegWrite.getLsbD_to _ _ _ _ (by omega), getLsbD_ones (by omega),
    decide_eq_true (p := 0 ≤ i ∧ i < 0 + 32) (by omega)]
  simp only [wholeWrite, BitVec.getLsbD_allOnes, decide_eq_true (show i < 64 by omega), Bool.and_self, if_true, BitVec.ofNat_eq_ofNat,
    BitVec.getLsbD_zero, Bool.and_false, Bool.not_false, Bool.and_true]

theorem State.func_setFunc_other (s : State) {f g : Nat} (x : Func) (h : g ≠ f) : (s.setFunc f x).func g = s.func g := by
  simp [State.func, State.setFunc, State.setDev, Tbl.getD_put_other _ _ _ h]

/-- The functions after a change of all of them that keeps the function at reset. -/
theorem State.func_mapVal (s : State) (g : Func → Func) (hg : g Func.reset = Func.reset) (f : Nat) :
    (s.setDev { s.dev with funcs := Tbl.mapVal (fun _ x => g x) s.dev.funcs }).func f = g (s.func f) := by
  simp only [State.func, State.setDev, Tbl.getD, Tbl.find?_mapVal]
  cases Tbl.find? s.dev.funcs f with
  | none => exact hg.symm
  | some x => rfl

/-! Resets, power and the boot chain. -/

section
variable {s : State} {f : Nat}

/-- A function-level reset empties the queue interfaces of a virtual function (R438). -/
theorem exec_flr (h : s.hostUp = true) (hf : 1 ≤ f ∧ f < 64) :
    exec (.flr f) s = .next (s.setFunc f { s.func f with queues := [] }) := by
  show Host.Outcome.next (fromHost s (if _ then _ else s)) = _
  rw [fromHost_up h, if_pos (by simpa using hf)]

/-- A good supply starts the boot chain, which measures the firmware (R442, R444). -/
theorem exec_powerGood_measures (hp : s.dev.pins.heldReset = true) (hb : s.straps.bootOk = true) :
    exec .powerGood s
      = .next (s.setDev { s.dev with
          pins := { s.dev.pins with heldReset := false }
          meas := Tbl.put s.dev.meas 0 (sha3 (toBytes 32 (Tbl.getD s.dev.meas 0 0).toNat ++ toBytes 32 s.straps.digest.toNat)) }) := by
  show Host.Outcome.next (if _ then _ else if _ then _ else _) = _
  rw [if_neg (by simp [hp]), if_neg (by simp [hb])]
  rfl

/-- Firmware that fails its check leaves the control core held, and lets the host link train (R442). -/
theorem exec_powerGood_unverified (hp : s.dev.pins.heldReset = true) (hb : s.straps.bootOk = false) :
    exec .powerGood s = .next (s.setDev { s.dev with pins := { s.dev.pins with heldReset := false, linkReset := false } }) := by
  show Host.Outcome.next (if _ then _ else if _ then _ else _) = _
  rw [if_neg (by simp [hp]), if_pos (by simp [hb])]
  rfl

/-- The ready firmware sets the boot lock, and the host link may train (R442). -/
theorem exec_firmwareReady_locks (hp : s.dev.pins.heldReset = false) (hl : s.dev.locked = false) (hb : s.straps.bootOk = true) :
    exec .firmwareReady s = .next (s.setDev { s.dev with locked := true, pins := { s.dev.pins with linkReset := false } }) := by
  show Host.Outcome.next (if _ then _ else _) = _
  rw [if_neg (by simp [hp, hl, hb])]
  rfl

theorem exec_firmwareReady_ignored (h : s.dev.pins.heldReset = true ∨ s.dev.locked = true ∨ s.straps.bootOk = false) :
    exec .firmwareReady s = .next s := by
  show Host.Outcome.next (if _ then _ else _) = _
  rw [if_pos (by simpa [or_assoc] using h)]

end

/-- The clock monitor pulls SAFE_N low (R444). -/
theorem exec_clockMonitorFail (s : State) :
    exec .clockMonitorFail s = .next (s.setDev { s.dev with pins := { s.dev.pins with clockFail := true, safeLow := true } }) := by
  show Host.Outcome.next (safePin _) = _
  simp [safePin, State.setPins, State.setDev]

/-- Settles O53: a write reaches one register (`exec_registerWrite_queue` and its like) and changes the bits that `RegWrite.to` says; the resets
and the pins are what their rows say. -/
theorem registerWritesAndResets : Obligations.RegisterWritesAndResets := by
  unfold Obligations.RegisterWritesAndResets
  refine ⟨?_, ?_⟩
  · intro f q off size v s h hq fn qu vf qoff poff ioff wr setsQ setsF take
    refine ⟨fun h4 h8 => exec_registerWrite_ignored (by simp [regAccess, h4, h8]),
      fun hs => exec_registerWrite_ignored (by simp [regAccess, hs]),
      fun hf => ?_, exec_registerWrite_errctl h, fun hl => ?_, fun hl => ?_, exec_registerWrite_mbgo h, fun hg => ?_, fun k hk hg => ?_⟩
    · have queue {o : Nat} {x : Queue} (ho : o < 4096) (ha : o % 8 = 0) (e : writeQueueReg s f q (wholeWrite o v) = s.setQueue f q x) :
          setsQ o x := (exec_registerWrite_queue h hf hq ho ha).trans (congrArg _ e)
      have prq {o : Nat} {x : Func} (ho : o < 0x40) (ha : o % 8 = 0) (e : writePrqReg s f (wholeWrite o v) = s.setFunc f x) :
          setsF (poff + o) x := (exec_registerWrite_prq h hf ho ha).trans (congrArg _ e)
      have int {o : Nat} {x : Func} (ho : o < 0x20) (ha : o % 8 = 0) (e : writeIntReg s f (wholeWrite o v) = s.setFunc f x) :
          setsF (ioff + o) x := (exec_registerWrite_int h hf ho ha).trans (congrArg _ e)
      refine ⟨queue (by omega) rfl ?_, queue (by omega) rfl ?_, queue (by omega) rfl ?_, queue (by omega) rfl ?_, queue (by omega) rfl ?_,
        queue (by omega) rfl ?_, prq (o := 0) (by omega) rfl ?_, prq (by omega) rfl ?_, prq (by omega) rfl ?_,
        exec_registerWrite_prqreply h hf, int (o := 0) (by omega) rfl ?_, int (by omega) rfl ?_,
        _, _, exec_registerWrite_int_upper (o := 8) h hf (by omega) rfl, rfl, upperWrite_low .., upperWrite_high _ (by omega) (by decide),
        rfl⟩
      · exact congrArg (fun b => s.setQueue f q { qu with qbase := b }) (wholeWrite_rw ..)
      · exact congrArg (fun b => s.setQueue f q { qu with qcfg := b }) (wholeWrite_rw ..)
      · exact congrArg (fun b => s.setQueue f q { qu with qpasid := b }) (wholeWrite_rw ..)
      · exact congrArg (fun b => s.setQueue f q { qu with qirq := b }) (wholeWrite_rw ..)
      · exact congrArg (fun b => s.setQueue f q { qu with qstat := b }) (wholeWrite_w1c ..)
      · exact congrArg (fun b => s.setQueue f q { qu with qquota := b }) (wholeWrite_rw ..)
      · exact congrArg (fun b => s.setFunc f { fn with prqbase := b }) (wholeWrite_rw ..)
      · exact congrArg (fun b => s.setFunc f { fn with prqcfg := b }) (wholeWrite_rw ..)
      · exact congrArg (fun b => s.setFunc f { fn with prqhead := b }) (wholeWrite_prqhead ..)
      · exact congrArg (fun b => s.setFunc f { fn with intstat := b }) (wholeWrite_w1c ..)
      · exact congrArg (fun b => s.setFunc f { fn with intcfg := b }) (wholeWrite_rw ..)
    · rw [exec_registerWrite_ccgo h, hl]; rfl
    · rw [exec_registerWrite_ccgo h, hl]; rfl
    · rw [show 0x208000 = 0x208000 + 8 * 0 by rfl, exec_registerWrite_mailbox h (by omega), if_pos hg]
    · refine ⟨_, exec_registerWrite_mailbox h hk, ?_⟩
      rw [if_neg (by simp [hg])]
      exact ⟨(extractLsb'_setFld _ (by omega)).trans (by simp),
        fun j hj hjk => extractLsb'_setFld_other _ (by omega) (by omega)⟩
  · intro f s p
    refine ⟨fun h h1 h2 => ⟨_, exec_flr h ⟨h1, h2⟩, State.setFunc_func .., fun g hg => State.func_setFunc_other _ _ hg, rfl⟩,
      ⟨_, rfl, rfl, rfl, rfl, rfl, rfl, rfl, rfl, rfl, rfl, rfl, rfl, rfl, rfl, rfl, rfl, rfl, fun q k hk => if_pos hk⟩,
      fun hp hb => ⟨_, exec_powerGood_measures hp hb, rfl, rfl, rfl⟩, exec_powerGood_unverified, exec_firmwareReady_locks,
      exec_firmwareReady_ignored, ⟨_, rfl, rfl, fun g => ?_⟩, rfl, rfl, rfl, exec_clockMonitorFail s⟩
    have e := State.func_mapVal s (fun x => { x with queues := [] }) rfl g
    exact ⟨congrArg Func.queues e, e⟩

end Sys2Proof.Machine
end

section
/-! The last acknowledgement of a probe, in an L2 table that lists its line twice (O45). -/

namespace Sys2Proof.Machine

/-- Below 2^38 no address lies in a peer's window (Table 1.3). -/
theorem region_ne_peer {s : State} {p pa : Nat} (h : pa < 2 ^ 38) (l : Nat) : s.region p pa ≠ .peer l := by
  grind [State.region]

/-- A line of the L2 that no L1 and no peer holds. -/
def staleLine : L2Line :=
  { part := 0, line := 0, view := false, key := 0, data := 0, state := 1, sharers := 0, owner := 31, slice := 0, set := 0, way := 0
    unb := none, age := 0, hostCopy := false }

/-- A write-back by the host whose transition goes to state 0 without DROP and waits for cluster 0 alone. -/
def lastAckBusy : Busy :=
  { event := 3, access := { part := 0, line := 0, view := false, who := .host, data := 0, mask := 0 }, entry := 0, targets := [0]
    update := false, data := none, key := 0 }

/-- The acknowledgement that cluster 0 owes. -/
def lastAck : ProbeMsg := { part := 0, line := 0, view := false, kind := .invalidate, target := 0, data := none }

/-- The device after reset, but that the line is busy and that the table of the L2 lists it twice. -/
def twiceListed : State :=
  { State.reset with
    caches := { Caches.reset with busy := [(0, lastAckBusy)], l2 := [(0, staleLine), (0, staleLine)] } }

/-- The line is taken out of the L2 once, and is still listed. -/
theorem probeAck_twiceListed : ∃ t, exec (.probeAck lastAck) twiceListed = .next t ∧ Tbl.find? t.caches.l2 0 = some staleLine :=
  ⟨_, rfl, by decide +kernel⟩

/-- Refutes O45: the clause on the last acknowledgement asks that a line whose transition goes to state 0 is then not in the L2, and lets the
table of the L2 list that line more than once (of the tables of L1 lines and of busy lines it asks that no key comes twice, of the L2's
it does not). `Tbl.del` removes the first entry only, so in `twiceListed` the second is found. -/
theorem not_probesAndHostAccesses : ¬ Obligations.ProbesAndHostAccesses := by
  unfold Obligations.ProbesAndHostAccesses
  rintro ⟨⟨_, acks, _⟩, _⟩
  obtain ⟨_, _, last⟩ := acks lastAck twiceListed lastAckBusy staleLine (region_ne_peer (by decide)) (by decide +kernel)
    (by decide +kernel) (by decide +kernel) (by decide +kernel)
  obtain ⟨t, ht, _, gone⟩ := last rfl (.inl rfl) rfl nofun (by decide +kernel) rfl (by decide +kernel) (by decide +kernel)
  obtain ⟨u, hu, found⟩ := probeAck_twiceListed
  obtain rfl : u = t := Host.Outcome.next.inj (hu.symm.trans ht)
  exact absurd (found.symm.trans gone) (by decide +kernel)

end Sys2Proof.Machine
end

section
/-! SUPPORT. The bytes of a line (R6, R73): what a merge of a lane's bytes leaves at each byte. -/

namespace Sys2Proof.Machine

theorem getLsbD_lineByte (d : LineData) (i : Nat) {j : Nat} (hj : j < 8) : (lineByte d i).getLsbD j = d.getLsbD (8 * i + j) := by
  rw [lineByte, BitVec.getLsbD_extractLsb', decide_eq_true hj, Bool.true_and]

/-- A byte mask spread over the bits of a line. -/
theorem getLsbD_spread (m : ByteMask) {k : Nat} (hk : k < 1024) : (spread m).getLsbD k = m.getLsbD (k / 8) := by
  have byteBits (i : Nat) : (BitVec.ofNat 1024 (255 * 256 ^ i)).getLsbD k = decide (k / 8 = i) := by
    rw [BitVec.getLsbD_ofNat, show 255 * 256 ^ i = (2 ^ 8 - 1) * 2 ^ (8 * i) by rw [Nat.pow_mul]; norm_num, Nat.testBit_mul_two_pow,
      Nat.testBit_two_pow_sub_one, decide_eq_true hk, Bool.true_and, ← Bool.decide_and]
    exact decide_eq_decide.mpr (by omega)
  have upTo (n : Nat) : ((List.range n).foldl (fun acc i => if m.getLsbD i then acc ||| BitVec.ofNat 1024 (255 * 256 ^ i) else acc)
      (0 : LineData)).getLsbD k = (decide (k / 8 < n) && m.getLsbD (k / 8)) := by
    induction n with
    | zero => simp
    | succ n ih =>
      have step : decide (k / 8 < n + 1) = (decide (k / 8 < n) || decide (k / 8 = n)) := by
        rw [← Bool.decide_or]
        exact decide_eq_decide.mpr Nat.lt_succ_iff_lt_or_eq
      rw [List.range_succ, List.foldl_append, List.foldl_cons, List.foldl_nil, step, Bool.and_or_distrib_right, ← ih]
      by_cases e : k / 8 = n
      · subst e
        split <;> simp_all only [BitVec.getLsbD_or, decide_true, Bool.true_and, Bool.and_self, Bool.not_eq_true, Bool.or_false]
      · split <;> simp only [BitVec.getLsbD_or, byteBits, e, decide_false, Bool.false_and]
        rw [Bool.or_false]
  rw [spread, upTo, decide_eq_true (by omega), Bool.true_and]

theorem lineByte_mergeLine (old new : LineData) (m : ByteMask) {i : Nat} (hi : i < 128) :
    lineByte (mergeLine old new m) i = if m.getLsbD i then lineByte new i else lineByte old i := by
  refine BitVec.eq_of_getLsbD_eq fun j hj => ?_
  have hs : (spread m).getLsbD (8 * i + j) = m.getLsbD i := by
    rw [getLsbD_spread m (by omega), show (8 * i + j) / 8 = i by omega]
  have hlt : 8 * i + j < 1024 := by omega
  rw [apply_ite (fun b : Byte => b.getLsbD j)]
  simp only [getLsbD_lineByte _ _ hj, mergeLine, BitVec.getLsbD_or, BitVec.getLsbD_and, BitVec.getLsbD_not, hs, decide_eq_true hlt]
  cases m.getLsbD i <;> simp

theorem getLsbD_byteSpan (o n : Nat) {i : Nat} (hi : i < 128) : (byteSpan o n).getLsbD i = decide (o ≤ i ∧ i < o + n) := by
  rw [byteSpan, BitVec.getLsbD_ofNat, Nat.testBit_mul_two_pow, Nat.testBit_two_pow_sub_one, decide_eq_true hi, Bool.true_and,
    ← Bool.decide_and]
  exact decide_eq_decide.mpr (by omega)

/-- The bytes of a number placed in a line. -/
theorem lineByte_lineWith {o n i : Nat} (v : Nat) (hi : i < 128) (ho : o ≤ i) (hn : i < o + n) :
    lineByte (lineWith o n v) i = BitVec.ofNat 8 (v / 256 ^ (i - o)) := by
  refine BitVec.eq_of_getLsbD_eq fun j hj => ?_
  have e (k : Nat) : 256 ^ k = 2 ^ (8 * k) := by rw [Nat.pow_mul]
  have place : 8 * i + j - 8 * o = 8 * (i - o) + j := by omega
  have hlt : 8 * i + j < 1024 := by omega
  have low : 8 * o ≤ 8 * i + j := by omega
  have high : 8 * (i - o) + j < 8 * n := by omega
  simp only [getLsbD_lineByte _ _ hj, lineWith, BitVec.getLsbD_ofNat, e, Nat.testBit_mul_two_pow, Nat.testBit_mod_two_pow,
    Nat.testBit_div_two_pow, place, hj, hlt, low, high, decide_true, Bool.true_and]
  rw [Nat.add_comm]

theorem lineField_lt (d : LineData) (i n : Nat) : lineField d i n < 256 ^ n := Nat.mod_lt _ (by positivity)

end Sys2Proof.Machine
end

section
/-! SUPPORT. An access of lanes that all hit the core's L1 (R38, R39): the translation of its lanes, what the hit changes, and the sweep over
the lanes. -/

namespace Sys2Proof.Machine

/-! Translation. -/

theorem attached?_unattached {s : State} {c : Ctx} (h : unattached s c) (lane : Nat) : s.mmu.attached? c.r lane = none := by
  have none : (s.mmu.requests.find? fun q => q.lanes.any fun a => a.split = c.r && a.lanes.getLsbD lane) = none := by
    rw [List.find?_eq_none]
    intro q hq
    simp only [List.any_eq_true, Bool.and_eq_true, decide_eq_true_eq, not_exists, not_and]
    exact fun a ha e => absurd e (h q hq a ha)
  rw [Mmu.attached?, none]
  rfl

section
variable {s : State} {c : Ctx} {acc : Access} {L : List (Nat × W64)} {x : Nat → Xlated} {l : Nat → L1Line}
  (h : ∀ p ∈ L, InL1 s c acc p.2 (x p.1) (l p.1))
include h

theorem xlateLanes_inL1 : xlateLanes s c acc L = { good := L.map fun p => (p.1, x p.1), bad := [], missed := [] } := by
  unfold xlateLanes lanesBy
  induction L with
  | nil => rfl
  | cons p L ih =>
    have hp := h p (List.mem_cons_self ..)
    rw [List.foldr_cons, ih fun q hq => h q (List.mem_cons_of_mem _ hq), attached?_unattached hp.free]
    simp only [hp.page, List.map_cons]

/-- Every lane goes on with its translation, and no TLB changes. -/
theorem withLanes_inL1 (partly : Bool) (k : State → List (Nat × Xlated) → Option (List (Nat × XFault × W64)) → State) :
    withLanes s c acc L partly k = k s (L.map fun p => (p.1, x p.1)) none := by
  have tlb : L.foldl (fun s p => fillTlb s c.crew.core c.launch.tenant p.2 acc) s = s :=
    List.foldlRecOn (motive := fun t => t = s) L _ rfl fun t ht p hp => by rw [ht, fillTlb_near (h p hp).near]
  rw [withLanes, xlateLanes_inL1 h]
  exact congrArg (fun t => k t _ _) tlb

end

theorem withAborted_none {s : State} {c : Ctx} {good : List (Nat × Xlated)} {addrs : List (Nat × W64)} (h : c.sp.aborted = none)
    (k : State) : withAborted s c good addrs k = k := by
  rw [withAborted, h]

theorem withGateSeen_unchecked {s : State} {c : Ctx} (h : c.checked = false) (on : Bool) (good : List (Nat × Xlated)) (k : State) :
    withGateSeen s c on good k = k := by
  unfold withGateSeen
  simp only [h, Bool.false_and, Bool.false_eq_true, if_false]
  split <;> rfl

/-! The hit. -/

/-- Nothing but L1 lines and the pseudo-LRU bits of the cores' L1s differs. -/
structure OnlyL1s (s t : State) : Prop where
  rest : t = { s with cores := t.cores, caches := { s.caches with l1 := t.caches.l1 } }
  cores : ∀ k, ∃ p, t.core k = { s.core k with plru := p }

theorem OnlyL1s.rfl' (s : State) : OnlyL1s s s := ⟨rfl, fun k => ⟨(s.core k).plru, rfl⟩⟩

theorem OnlyL1s.trans {s t u : State} (h : OnlyL1s s t) (k : OnlyL1s t u) : OnlyL1s s u := by
  refine ⟨?_, fun i => ?_⟩
  · rw [k.rest, h.rest]
  · obtain ⟨p, hp⟩ := h.cores i
    obtain ⟨q, hq⟩ := k.cores i
    exact ⟨q, by rw [hq, hp]⟩

theorem touchL1_onlyL1s (s : State) (core line way : Nat) : OnlyL1s s (touchL1 s core line way) := by
  refine ⟨rfl, fun k => ?_⟩
  by_cases e : k = core
  · subst e
    exact ⟨_, State.setCore_core ..⟩
  · exact ⟨(s.core k).plru, State.setCore_core_other _ _ e⟩

theorem setL1s_onlyL1s (s : State) (l1 : List (Nat × L1Line)) : OnlyL1s s (s.setCaches { s.caches with l1 := l1 }) :=
  ⟨rfl, fun k => ⟨(s.core k).plru, rfl⟩⟩

section
variable {s t : State} (h : OnlyL1s s t)
include h

theorem OnlyL1s.lostStop (q : Req) : lostStop t q = lostStop s q := by rw [h.rest]; rfl

theorem OnlyL1s.outbound : t.outbound = s.outbound := by rw [h.rest]

theorem OnlyL1s.noSinv {core : Nat} (hl : t.caches.l1 = s.caches.l1) (hs : noSinv s core) : noSinv t core :=
  ⟨by rw [hl]; exact hs.1, by rw [h.rest]; exact hs.2⟩

end

section
variable {s : State} {core : Nat} {q : Req} {l : L1Line} (lost : lostStop s q = none)
  (hit : Tbl.find? s.caches.l1 (lineKey core q.line q.view) = some l)
include lost hit

theorem lookupL1_hit (hp : l.perm ≠ .sinv) : lookupL1 s core q .dir = .ok (touchL1 s core q.line l.way) (some l) := by
  simp [lookupL1, lost, hit, hp]

theorem coreRead_hit (hp : l.perm ≠ .sinv) (hv : l.valid = BitVec.allOnes 128) (need : ByteMask) :
    coreRead s core q .dir need = .ok (touchL1 s core q.line l.way) l.data := by
  have useful : (need &&& ~~~l.valid == 0) = true := by simp [hv]
  rw [coreRead, lookupL1_hit lost hit hp]
  simp only [Res.bind, useful]

/-- A store into a line that the L1 holds exclusive (R39). -/
theorem coreWrite_exclusive (hp : l.perm = .exclusive) (who : Option Walker) (tenant : Nat) (d : LineData) (m : ByteMask) :
    coreWrite s core q .dir who tenant d m
      = .ok ((touchL1 s core q.line l.way).setL1 (lineKey core q.line q.view)
          { l with data := mergeLine l.data d m, dirty := l.dirty ||| m }) () := by
  have own : ({ l with perm := Perm.exclusive, data := mergeLine l.data d m, dirty := l.dirty ||| m } : L1Line)
      = { l with data := mergeLine l.data d m, dirty := l.dirty ||| m } := by rw [← hp]
  rw [coreWrite, lookupL1_hit lost hit (by rw [hp]; decide)]
  simp only [Res.bind, hp, own]

end

/-! The sweep. -/

/-- A sweep of which every lane performs. -/
theorem sweep_performs {α : Type} {f : State → Nat → Xlated → Res α} {L : List (Nat × Xlated)} {g : State → Nat × Xlated → State}
    {val : Nat × Xlated → α} {I : State → Prop} (step : ∀ p ∈ L, ∀ s, I s → f s p.1 p.2 = .ok (g s p) (val p) ∧ I (g s p)) {s : State}
    (hs : I s) : sweep s f L = { s := L.foldl g s, vals := L.map fun p => (p.1, val p), fatal := [], left := [], wait := none } := by
  induction L generalizing s with
  | nil => rfl
  | cons p L ih =>
    obtain ⟨hf, hI⟩ := step p (List.mem_cons_self ..) s hs
    rw [sweep, hf]
    simp only [ih (fun q hq => step q (List.mem_cons_of_mem _ hq)) hI, List.foldl_cons, List.map_cons]

end Sys2Proof.Machine
end

section
/-! Loads and stores whose lanes all hit the core's L1 (O16). -/

namespace Sys2Proof.Machine

/-! Loads. -/

section
variable {s : State} {c : Ctx} {x : Nat → Xlated} {l1 : Nat → L1Line}

/-- What one lane's read in a hit leaves: a touch of its line. -/
def touchLane (c : Ctx) (l1 : Nat → L1Line) (s : State) (p : Nat × Xlated) : State :=
  touchL1 s c.crew.core (p.2.pa / 128) (l1 p.1).way

theorem readLane_hit {t : State} {va : W64} {lane : Nat} (hk : c.checked = false) (h : InL1 s c .read va (x lane) (l1 lane))
    (ht : OnlyL1s s t) (hl : t.caches.l1 = s.caches.l1) (n : Nat) :
    readLane c n t lane (x lane) = .ok (touchLane c l1 t (lane, x lane)) (lineField (l1 lane).data ((x lane).pa % 128) n) := by
  have lost : lostStop t (laneReq c [] (x lane)) = none := (ht.lostStop _).trans (lostStop_none h.sound)
  have hit : Tbl.find? t.caches.l1 (lineKey c.crew.core ((x lane).pa / 128) (x lane).view) = some (l1 lane) := by
    rw [hl]
    exact h.line
  rw [readLane, h.cls, coreRead_hit lost hit h.perm h.whole]
  simp only [Res.bind, hk, Bool.false_eq_true, if_false]
  rfl

variable {L : List (Nat × W64)} (hk : c.checked = false) (h : ∀ p ∈ L, InL1 s c .read p.2 (x p.1) (l1 p.1))
include hk h

theorem sweep_readLane_hit (n : Nat) :
    ∃ t, OnlyL1s s t ∧ t.caches.l1 = s.caches.l1
      ∧ sweep s (readLane c n) (L.map fun p => (p.1, x p.1))
        = { s := t, vals := (L.map (·.1)).map fun l => (l, lineField (l1 l).data ((x l).pa % 128) n), fatal := [], left := [], wait := none } := by
  have step : ∀ p ∈ L.map fun p => (p.1, x p.1), ∀ t, OnlyL1s s t ∧ t.caches.l1 = s.caches.l1 →
      readLane c n t p.1 p.2 = .ok (touchLane c l1 t p) (lineField (l1 p.1).data (p.2.pa % 128) n)
        ∧ OnlyL1s s (touchLane c l1 t p) ∧ (touchLane c l1 t p).caches.l1 = s.caches.l1 := by
    intro p hp t ht
    obtain ⟨q, hq, rfl⟩ := List.mem_map.mp hp
    exact ⟨readLane_hit hk (h q hq) ht.1 ht.2 n, ht.1.trans (touchL1_onlyL1s ..), ht.2⟩
  have start : OnlyL1s s s ∧ s.caches.l1 = s.caches.l1 := ⟨.rfl' s, rfl⟩
  obtain ⟨only, same⟩ := List.foldlRecOn (motive := fun t => OnlyL1s s t ∧ t.caches.l1 = s.caches.l1) _ (touchLane c l1) start
    fun t ht p hp => (step p hp t ht).2
  refine ⟨_, only, same, ?_⟩
  rw [sweep_performs step start]
  simp only [List.map_map]
  rfl

/-- ld in a hit: the lanes' bytes go to their registers, and nothing but pseudo-LRU bits changes outside. -/
theorem exec_ld_hit {f : MF} (hc : s.ctx? = some c) (hs : noSinv s c.crew.core) (ha : c.sp.aborted = none)
    (hL : c.addrs f (memSize f.ty) (f.off.signExtend 64) = L) (hne : L ≠ []) (hal : ∀ p ∈ L, p.2.toNat % memSize f.ty = 0) :
    ∃ t, OnlyL1s s t ∧ t.caches.l1 = s.caches.l1
      ∧ exec (.ld f) s = .next ((writeLoads c f t ((L.map (·.1)).map fun l =>
          (l, observed s c (memSize f.ty) L l (lineField (l1 l).data ((x l).pa % 128) (memSize f.ty))))).retire c.r) := by
  obtain ⟨t, only, same, swept⟩ := sweep_readLane_hit hk h (memSize f.ty)
  refine ⟨t, only, same, (withCtx_of hc _).trans (congrArg _ ?_)⟩
  simp only [hL, List.isEmpty_eq_false_iff.mpr hne, Bool.false_eq_true, if_false, withAligned_aligned hal]
  rw [withLanes_inL1 h, withAborted_none ha, withGateSeen_unchecked hk, swept]
  simp only [Sweep.settle, List.isEmpty_nil, if_true, withAcquire_noSinv (only.noSinv same hs), foundLoads, List.map_map]
  rfl

end

theorem observed_lt {s : State} {c : Ctx} {n : Nat} {addrs : List (Nat × W64)} {l v : Nat} (h : v < 256 ^ n) :
    observed s c n addrs l v < 256 ^ n := by
  unfold observed
  dsimp only
  split
  · exact (leBytes_lt _).trans_eq (by rw [List.length_map, List.length_range])
  · exact h

/-- A load in a state whose cores and L1 lines alone differ from `s` writes to the registers as it would in `s`. -/
theorem LoadsWritten.of_onlyL1s {s t u : State} {c : Ctx} {ty : BitVec 3} {dst : BitVec 8} {ls : List Nat} {val : Nat → Nat}
    (only : OnlyL1s s t) (h : LoadsWritten t u c ty dst ls val) : LoadsWritten s u c ty dst ls val := by
  obtain ⟨rest, _⟩ := only
  generalize t.cores = cores at rest
  generalize t.caches.l1 = l1 at rest
  subst rest
  exact ⟨h.result, h.kept, ⟨h.others.groups, h.others.splits⟩, h.split, h.group, h.scalars, h.preds, h.flags⟩

theorem OutsideKept.onlyPlru {s t u : State} {launch : Nat} (only : OnlyL1s s t) (same : t.caches.l1 = s.caches.l1)
    (h : OutsideKept t u launch) : OnlyPlru s u launch := by
  have e : t = { s with cores := u.cores } := by rw [h.cores, only.rest, same]
  refine ⟨e ▸ h, fun k => ?_⟩
  rw [State.core, h.cores]
  exact only.cores k

/-! Stores. -/

/-- The L1 lines after a store of the `n` bytes of `v` at byte `o` of the line at a key. -/
def storeLine (T : List (Nat × L1Line)) (key o n v : Nat) : List (Nat × L1Line) :=
  Tbl.upd T key fun l => { l with data := mergeLine l.data (lineWith o n v) (byteSpan o n), dirty := l.dirty ||| byteSpan o n }

/-- Every line of `T` is in `U`, and differs there in its data and dirty bits alone; no other line is in `U`. -/
structure SameLines (T U : List (Nat × L1Line)) : Prop where
  lines : ∀ k, ∃ g : L1Line → L1Line, Tbl.find? U k = (Tbl.find? T k).map g ∧ ∀ l, g l = { l with data := (g l).data, dirty := (g l).dirty }

theorem SameLines.rfl' (T : List (Nat × L1Line)) : SameLines T T := ⟨fun k => ⟨id, by simp, fun _ => rfl⟩⟩

theorem SameLines.storeLine {T U : List (Nat × L1Line)} (h : SameLines T U) (key o n v : Nat) : SameLines T (storeLine U key o n v) := by
  refine ⟨fun k => ?_⟩
  obtain ⟨g, hg, only⟩ := h.lines k
  rw [Machine.storeLine, Tbl.find?_upd]
  by_cases e : k = key
  · subst e
    refine ⟨_, by rw [if_pos rfl, hg, Option.map_map], fun l => ?_⟩
    rw [Function.comp_apply, only l]
  · exact ⟨g, by rw [if_neg e, hg], only⟩

theorem storeLine_of_find {T : List (Nat × L1Line)} {key : Nat} {l : L1Line} (h : Tbl.find? T key = some l) (o n v : Nat) :
    storeLine T key o n v
      = Tbl.put T key { l with data := mergeLine l.data (lineWith o n v) (byteSpan o n), dirty := l.dirty ||| byteSpan o n } := by
  rw [storeLine, Tbl.upd, h]

theorem SameLines.find {T U : List (Nat × L1Line)} (h : SameLines T U) {k : Nat} {l : L1Line} (hl : Tbl.find? T k = some l) :
    ∃ l', Tbl.find? U k = some l' ∧ l'.perm = l.perm ∧ l'.way = l.way := by
  obtain ⟨g, hg, only⟩ := h.lines k
  refine ⟨g l, by rw [hg, hl, Option.map_some], ?_, ?_⟩ <;> rw [only l]

theorem SameLines.none {T U : List (Nat × L1Line)} (h : SameLines T U) {k : Nat} (hk : Tbl.find? T k = none) : Tbl.find? U k = none := by
  obtain ⟨g, hg, _⟩ := h.lines k
  rw [hg, hk, Option.map_none]

section
variable (n : Nat) (key off : Nat × W64 → Nat) (v : Nat → Nat)

/-- The L1 lines after the stores of a list of places, in the order of the list. -/
def storeLines (T : List (Nat × L1Line)) (L : List (Nat × W64)) : List (Nat × L1Line) :=
  L.foldl (fun T p => storeLine T (key p) (off p) n (v p.1)) T

theorem storeLines_same (T : List (Nat × L1Line)) (L : List (Nat × W64)) : SameLines T (storeLines n key off v T L) :=
  List.foldlRecOn _ _ (.rfl' T) fun _ h p _ => h.storeLine (key p) (off p) n (v p.1)

/-- The store of place `p` covers byte `i` of the line at key `k`. -/
def coversByte (k i : Nat) (p : Nat × W64) : Bool := key p = k && off p ≤ i && i < off p + n

/-- Where lanes overlap, the data of the last one stands (R116); a byte that no lane covers is as before. -/
theorem find?_storeLines {T : List (Nat × L1Line)} {k : Nat} {l : L1Line} (hl : Tbl.find? T k = some l) (L : List (Nat × W64)) :
    ∃ d m, Tbl.find? (storeLines n key off v T L) k = some { l with data := d, dirty := m } ∧ ∀ i, i < 128 →
      lineByte d i = ((L.filter (coversByte n key off k i)).getLast?).elim (lineByte l.data i)
          (fun p => BitVec.ofNat 8 (v p.1 / 256 ^ (i - off p)))
        ∧ m.getLsbD i = ((L.filter (coversByte n key off k i)).getLast?).elim (l.dirty.getLsbD i) fun _ => true := by
  induction L generalizing T l with
  | nil => exact ⟨l.data, l.dirty, hl, fun i _ => ⟨rfl, rfl⟩⟩
  | cons p L ih =>
    by_cases hk : key p = k
    · obtain ⟨d, m, found, bytes⟩ := ih (T := storeLine T (key p) (off p) n (v p.1))
        (by rw [storeLine, hk, Tbl.find?_upd_same, hl, Option.map_some])
      refine ⟨d, m, found, fun i hi => ?_⟩
      obtain ⟨hd, hm⟩ := bytes i hi
      rw [lineByte_mergeLine _ _ _ hi, getLsbD_byteSpan _ _ hi] at hd
      rw [BitVec.getLsbD_or, getLsbD_byteSpan _ _ hi] at hm
      rw [hd, hm]
      by_cases hc : off p ≤ i ∧ i < off p + n
      · rw [List.filter_cons_of_pos (by simpa [coversByte, hk] using hc), List.getLast?_cons, lineByte_lineWith _ hi hc.1 hc.2]
        cases (L.filter (coversByte n key off k i)).getLast? <;> simp [hc]
      · rw [List.filter_cons_of_neg (by simpa [coversByte, hk] using hc)]
        simp [hc]
    · obtain ⟨d, m, found, bytes⟩ := ih (T := storeLine T (key p) (off p) n (v p.1))
        (by rw [storeLine, Tbl.find?_upd_other _ _ (Ne.symm hk), hl])
      refine ⟨d, m, found, fun i hi => ?_⟩
      rw [List.filter_cons_of_neg (by simp [coversByte, hk])]
      exact bytes i hi

end

theorem tagPosted_none {s : State} {r : SplitRef} {core : Nat} (h : ∀ e ∈ s.outbound, e.2.who ≠ some (.split r core)) (va : W64) :
    tagPosted s r core va = s := by
  have same : Tbl.mapVal (fun _ o => if o.write && o.who = some (.split r core) && o.va.isNone then { o with va := some va } else o) s.outbound
      = s.outbound := by
    refine (List.map_congr_left fun e he => ?_).trans (List.map_id _)
    simp [h e he]
  rw [tagPosted, same]

theorem gated_unchecked {s : State} {c : Ctx} (h : c.checked = false) (addrs : List (Nat × W64)) (good : List (Nat × Xlated))
    (stores : List GateStore) (perform pushed : State → State) : gated s c addrs good stores perform pushed = perform s := by
  rw [gated, h]
  rfl

/-- A release of a core without SINV lines, by a split without a latched error, outside a clamp. -/
theorem withRelease_noSinv {s : State} {c : Ctx} (hs : noSinv s c.crew.core) (hk : c.checked = false) (hl : c.sp.latch = none) (on : Bool)
    (scope : Nat) (k : State → State) : withRelease s c on scope k = k s := by
  simp [withRelease, withGateEmpty, withLatch, releaseL1_noSinv hs, hk, hl]

section
variable {s : State} {c : Ctx} (ha : c.sp.aborted = none)
include ha

theorem spoilt_none : c.spoilt = none := by rw [Ctx.spoilt, ha]; rfl

theorem unspoilt_none (good : List (Nat × Xlated)) : unspoilt c good = good := by
  simp [unspoilt, spoilt_none ha]

theorem latchSpoilt_none (addrs : List (Nat × W64)) (good : List (Nat × Xlated)) : latchSpoilt s c addrs good = s := by
  have none : (good.find? fun p => some (p.2.pa / 128) == c.spoilt) = none := by
    rw [List.find?_eq_none]
    intro p _
    simp [spoilt_none ha]
  rw [latchSpoilt, none]

theorem unspoiltCtx_none : unspoiltCtx c = c := by
  rw [unspoiltCtx, spoilt_none ha]
  rfl

end

section
variable {s : State} {c : Ctx} {x : Nat → Xlated} {l1 : Nat → L1Line}

/-- What one lane's store in a hit leaves. -/
def storeHit (c : Ctx) (f : MF) (n : Nat) (l1 : Nat → L1Line) (s : State) (p : Nat × Xlated) : State :=
  let t := touchLane c l1 s p
  let lines := storeLine t.caches.l1 (lineKey c.crew.core (p.2.pa / 128) p.2.view) (p.2.pa % 128) n (laneData c.g f.dst.toNat p.1 n)
  t.setCaches { t.caches with l1 := lines }

theorem storeHit_onlyL1s (f : MF) (n : Nat) (s : State) (p : Nat × Xlated) : OnlyL1s s (storeHit c f n l1 s p) :=
  (touchL1_onlyL1s ..).trans (setL1s_onlyL1s ..)

theorem storeLane_hit {t : State} {va : W64} {lane : Nat} (h : InL1 s c .write va (x lane) (l1 lane)) (hp : (l1 lane).perm = .exclusive)
    (ho : ∀ e ∈ s.outbound, e.2.who ≠ some (.split c.r c.crew.core)) (ht : OnlyL1s s t) (hl : SameLines s.caches.l1 t.caches.l1)
    (f : MF) (n : Nat) (keep : List Nat) (addrs : List (Nat × W64)) :
    storeLane c f n keep addrs t lane (x lane) = .ok (storeHit c f n l1 t (lane, x lane)) () := by
  obtain ⟨l, hit, perm, way⟩ := hl.find h.line
  have lost : lostStop t (laneReq c keep (x lane)) = none := (ht.lostStop _).trans (lostStop_none h.sound)
  have stored : (touchL1 t c.crew.core ((x lane).pa / 128) l.way).setL1 (lineKey c.crew.core ((x lane).pa / 128) (x lane).view)
      { l with data := mergeLine l.data (lineWith ((x lane).pa % 128) n (laneData c.g f.dst.toNat lane n)) (byteSpan ((x lane).pa % 128) n),
               dirty := l.dirty ||| byteSpan ((x lane).pa % 128) n } = storeHit c f n l1 t (lane, x lane) := by
    simp only [storeHit, touchLane, ← way]
    exact congrArg (fun T => (touchL1 t c.crew.core ((x lane).pa / 128) l.way).setCaches { t.caches with l1 := T })
      (storeLine_of_find hit _ _ _).symm
  rw [storeLane, h.cls, coreWrite_exclusive lost hit (perm.trans hp)]
  simp only [Res.bind, latchRefused]
  rw [tagPosted_none]
  · exact congrArg (Res.ok · ()) stored
  · exact ht.outbound ▸ ho

variable {L : List (Nat × W64)} (hk : c.checked = false) (ha : c.sp.aborted = none) (hlatch : c.sp.latch = none)
  (ho : ∀ e ∈ s.outbound, e.2.who ≠ some (.split c.r c.crew.core))
  (h : ∀ p ∈ L, InL1 s c .write p.2 (x p.1) (l1 p.1)) (hp : ∀ p ∈ L, (l1 p.1).perm = .exclusive)

include ho h hp in
theorem sweep_storeLane_hit (f : MF) (n : Nat) (keep : List Nat) (addrs : List (Nat × W64)) :
    ∃ t, OnlyL1s s t
      ∧ t.caches.l1 = storeLines n (fun p => lineKey c.crew.core ((x p.1).pa / 128) (x p.1).view) (fun p => (x p.1).pa % 128)
          (fun l => laneData c.g f.dst.toNat l n) s.caches.l1 L
      ∧ ∃ vals, sweep s (storeLane c f n keep addrs) (L.map fun p => (p.1, x p.1))
        = { s := t, vals := vals, fatal := [], left := [], wait := none } := by
  have step : ∀ p ∈ L.map fun p => (p.1, x p.1), ∀ t, OnlyL1s s t ∧ SameLines s.caches.l1 t.caches.l1 →
      storeLane c f n keep addrs t p.1 p.2 = .ok (storeHit c f n l1 t p) ()
        ∧ OnlyL1s s (storeHit c f n l1 t p) ∧ SameLines s.caches.l1 (storeHit c f n l1 t p).caches.l1 := by
    intro p hm t ht
    obtain ⟨q, hq, rfl⟩ := List.mem_map.mp hm
    exact ⟨storeLane_hit (h q hq) (hp q hq) ho ht.1 ht.2 f n keep addrs, ht.1.trans (storeHit_onlyL1s ..), ht.2.storeLine ..⟩
  refine ⟨_, ?_, ?_, _, sweep_performs step ⟨.rfl' s, .rfl' _⟩⟩
  · exact List.foldlRecOn _ _ (.rfl' s) fun t ht p _ => ht.trans (storeHit_onlyL1s ..)
  · rw [List.foldl_map, storeLines]
    exact (List.foldl_hom (fun t : State => t.caches.l1) fun t p => rfl).symm

include hk ha hlatch ho h hp in
/-- st in a hit: the lanes' data goes to their lines. -/
theorem exec_st_hit {f : MF} (hc : s.ctx? = some c) (hs : noSinv s c.crew.core) (hu : ∀ p ∈ L, (x p.1).unb = false)
    (hL : c.addrs f (memSize f.ty) (f.off.signExtend 64) = L) (hne : L ≠ []) (hal : ∀ p ∈ L, p.2.toNat % memSize f.ty = 0) :
    ∃ t, OnlyL1s s t
      ∧ t.caches.l1 = storeLines (memSize f.ty) (fun p => lineKey c.crew.core ((x p.1).pa / 128) (x p.1).view)
          (fun p => (x p.1).pa % 128) (fun l => laneData c.g f.dst.toNat l (memSize f.ty)) s.caches.l1 L
      ∧ exec (.st f) s = .next (t.retire c.r) := by
  have backed : keepKeys c (L.map fun p => (p.1, x p.1)) = [] := by
    rw [keepKeys, List.filter_eq_nil_iff.mpr, List.map_nil]
    intro p hm
    obtain ⟨q, hq, rfl⟩ := List.mem_map.mp hm
    simp [hu q hq]
  obtain ⟨t, only, lines, vals, swept⟩ := sweep_storeLane_hit ho h hp f (memSize f.ty) [] L
  refine ⟨t, only, lines, (withCtx_of hc _).trans (congrArg _ ?_)⟩
  simp only [hL, List.isEmpty_eq_false_iff.mpr hne, Bool.false_eq_true, if_false, withAligned_aligned hal]
  rw [withLanes_inL1 h]
  simp only [latchSpoilt_none ha, unspoilt_none ha, unspoiltCtx_none ha, withAborted_none ha, withRelease_noSinv hs hk hlatch,
    gated_unchecked hk, withGrants, backed, swept]
  simp [Sweep.settle]

end

/-- Settles O16: ld and st are sweeps of hits (`exec_ld_hit`, `exec_st_hit`); a store's lines hold the bytes of the highest lane that covers
them (`find?_storeLines`). -/
theorem cachedLoadsAndStores : Obligations.CachedLoadsAndStores := by
  unfold Obligations.CachedLoadsAndStores
  refine ⟨?_, ?_⟩
  · intro f s c x l1 hc hty hs hk ha n at_ hne hin
    obtain ⟨t, only, same, e⟩ := exec_ld_hit hk (fun p hp => (hin p hp).2) hc hs ha rfl hne fun p hp => (hin p hp).1
    have hct : t.ctx? = some c := by rw [only.rest]; exact hc
    have lanes : ∀ l ∈ at_.map (·.1), l < 64 := fun l hl => by
      rw [show at_.map (·.1) = lanesOf (c.todoMask f.g) from lanePlaces_fst ..] at hl
      exact (mem_lanesOf.mp hl).1
    obtain ⟨outside, written⟩ := loads_written hct hty
      (val := fun l => observed s c n at_ l (lineField (l1 l).data ((x l).pa % 128) n)) (fun l => observed_lt (lineField_lt ..)) lanes
    exact ⟨_, e, outside.onlyPlru only same, written.of_onlyL1s only⟩
  · intro f s c x l1 hc hs hk ha hlatch ho n at_ key covers hne hin
    obtain ⟨t, only, lines, e⟩ := exec_st_hit hk ha hlatch ho (fun p hp => (hin p hp).2.1) (fun p hp => (hin p hp).2.2.1) hc hs
      (fun p hp => (hin p hp).2.2.2) rfl hne fun p hp => (hin p hp).1
    refine ⟨_, t.cores, t.caches.l1, e, congrArg (State.retire · c.r) only.rest, only.cores, fun k => ?_⟩
    cases hl : Tbl.find? s.caches.l1 k with
    | none => exact lines ▸ (storeLines_same ..).none hl
    | some l =>
      obtain ⟨d, m, found, bytes⟩ := find?_storeLines n key (fun p => (x p.1).pa % 128) (fun l => laneData c.g f.dst.toNat l n) hl at_
      refine ⟨d, m, lines ▸ found, fun i hi => ?_⟩
      have hb := bytes i hi
      change _ = Option.elim (at_.filter (covers k i)).getLast? _ _ ∧ _ = Option.elim (at_.filter (covers k i)).getLast? _ _ at hb
      cases hlast : (at_.filter (covers k i)).getLast? <;> rw [hlast] at hb <;> exact hb

end Sys2Proof.Machine
end

section
/-! SUPPORT. What a home slice leaves unchanged when a line of it is evicted, written back or lost (R49, R74, R104). -/

namespace Sys2Proof.Machine

/-! Entries of a table that are removed. -/

theorem Tbl.find?_del_other {α : Type} (l : List (Nat × α)) {n m : Nat} (h : m ≠ n) : Tbl.find? (Tbl.del l n) m = Tbl.find? l m := by
  induction l with
  | nil => rfl
  | cons p t ih =>
    obtain ⟨k, v⟩ := p
    by_cases e : k = n
    · subst e
      simp [Tbl.del, Tbl.find?, Ne.symm h]
    · simp [Tbl.del, Tbl.find?, e, ih]

theorem Tbl.find?_unlisted {α : Type} {l : List (Nat × α)} {n : Nat} (h : n ∉ l.map (·.1)) : Tbl.find? l n = none := by
  induction l with
  | nil => rfl
  | cons p t ih =>
    simp only [List.map_cons, List.mem_cons, not_or] at h
    simp [Tbl.find?, Ne.symm h.1, ih h.2]

theorem Tbl.find?_del_same {α : Type} {l : List (Nat × α)} (h : (l.map (·.1)).Nodup) (n : Nat) : Tbl.find? (Tbl.del l n) n = none := by
  induction l with
  | nil => rfl
  | cons p t ih =>
    obtain ⟨k, v⟩ := p
    simp only [List.map_cons, List.nodup_cons] at h
    by_cases e : k = n
    · subst e
      simp [Tbl.del, Tbl.find?_unlisted h.1]
    · simp [Tbl.del, Tbl.find?, e, ih h.2]

theorem Tbl.length_put_le {α : Type} (l : List (Nat × α)) (n : Nat) (x : α) : (Tbl.put l n x).length ≤ l.length + 1 := by
  induction l with
  | nil => exact le_rfl
  | cons p t ih =>
    obtain ⟨k, v⟩ := p
    by_cases h1 : n < k
    · simp [Tbl.put, h1]
    · by_cases h2 : k = n <;> simp [Tbl.put, h1, h2, ih]

/-! The frame. -/

/-- The splits and what stands around them are as before, and of the device only the counters of ports, the registers of functions and the
interrupts sent may differ; an error interrupt that is raised stays so. -/
structure HomeKept (s t : State) : Prop where
  groups : t.groups = s.groups
  crews : t.crews = s.crews
  launches : t.launches = s.launches
  device : t.dev = { s.dev with ports := t.dev.ports, funcs := t.dev.funcs, msix := t.dev.msix }
  raised : ∀ f, (s.func f).intstat.getLsbD 22 = true → (t.func f).intstat.getLsbD 22 = true

theorem HomeKept.rfl' (s : State) : HomeKept s s := ⟨rfl, rfl, rfl, rfl, fun _ h => h⟩

section
variable {s t : State} (h : HomeKept s t)
include h

/-- An update of other parts of the state. -/
theorem HomeKept.of_eq {u : State} (groups : u.groups = t.groups) (crews : u.crews = t.crews) (launches : u.launches = t.launches)
    (dev : u.dev = t.dev) : HomeKept s u :=
  ⟨groups.trans h.groups, crews.trans h.crews, launches.trans h.launches, by rw [dev]; exact h.device,
    fun f hf => by rw [State.func, dev]; exact h.raised f hf⟩

theorem HomeKept.setCaches (c : Caches) : HomeKept s (t.setCaches c) := h.of_eq rfl rfl rfl rfl
theorem HomeKept.setPart (p : Nat) (x : Partition) : HomeKept s (t.setPart p x) := h.of_eq rfl rfl rfl rfl
theorem HomeKept.setL1 (k : Nat) (x : L1Line) : HomeKept s (t.setL1 k x) := h.setCaches _
theorem HomeKept.delL1 (k : Nat) : HomeKept s (t.delL1 k) := h.setCaches _
theorem HomeKept.setL2 (k : Nat) (x : L2Line) : HomeKept s (t.setL2 k x) := h.setCaches _
theorem HomeKept.delL2 (k : Nat) : HomeKept s (t.delL2 k) := h.setCaches _
theorem HomeKept.writeLocal (p line key : Nat) (d : LineData) : HomeKept s (t.writeLocal p line key d) := h.of_eq rfl rfl rfl rfl
theorem HomeKept.writeHostLine (a : Nat) (d : LineData) (m : ByteMask) : HomeKept s (t.writeHostLine a d m) := h.of_eq rfl rfl rfl rfl

theorem HomeKept.count (port : Nat) (f : PortCount → PortCount) : HomeKept s (t.count port f) :=
  ⟨h.groups, h.crews, h.launches, by
    show ({ t.dev with ports := _ } : Device) = _
    rw [h.device]
    rfl, h.raised⟩

theorem HomeKept.sendMsi (f vec : Nat) (en : Bool) : HomeKept s (sendMsi t f vec en) := by
  rcases sendMsi_cases t f vec en with e | e <;> rw [e]
  · exact h
  · refine ⟨h.groups, h.crews, h.launches, ?_, h.raised⟩
    show ({ t.dev with msix := _ } : Device) = _
    rw [h.device]
    rfl

theorem HomeKept.errInterrupt (f : Nat) : HomeKept s (errInterrupt t f) := by
  suffices set : HomeKept s (t.setFunc f { t.func f with intstat := (t.func f).intstat ||| BitVec.twoPow 64 22 }) from set.sendMsi ..
  refine ⟨h.groups, h.crews, h.launches, ?_, fun g hg => ?_⟩
  · show ({ t.dev with funcs := _ } : Device) = _
    rw [h.device]
    rfl
  · by_cases e : g = f
    · subst e
      rw [State.setFunc_func]
      simp
    · have other : (t.setFunc f { t.func f with intstat := (t.func f).intstat ||| BitVec.twoPow 64 22 }).func g = t.func g :=
        Tbl.getD_put_other _ _ _ e
      rw [other]
      exact h.raised g hg

theorem HomeKept.writeLocalBytes (p base key : Nat) (bs : List Byte) (n : Nat) : HomeKept s (t.writeLocalBytes p base key bs n) := by
  induction n with
  | zero => exact h
  | succ n ih => exact ih.writeLocal ..

theorem HomeKept.writeBlock (p line key : Nat) (plain : List Byte) : HomeKept s (t.writeBlock p line key plain) := by
  unfold State.writeBlock
  split
  exact (h.writeLocalBytes ..).writeLocal ..

theorem HomeKept.writeBack (l : L2Line) : HomeKept s (writeBack t l) := by
  unfold Machine.writeBack
  split
  · split
    · exact h.writeBlock ..
    · exact h.writeLocal ..
  · exact h.writeHostLine ..
  · exact h

end

theorem errInterrupt_raised (s : State) (f : Nat) : ((errInterrupt s f).func f).intstat.getLsbD 22 = true := by
  refine (HomeKept.sendMsi (.rfl' _) ..).raised f ?_
  rw [State.setFunc_func]
  simp

/-! Transitions. -/

/-- The probes of a transition to a line, where it sends them at this step. -/
def probesIf (s : State) (on : Bool) (l : L2Line) (e : Trans) (kind : Nat) (who : Requester) (upd : LineData) :
    State × Option LineData × List Nat :=
  if on then sendProbes s (l.slice / 4) l.part l.line l.view kind (probeTargets l e) (probeSkip e who) upd else (s, none, [])

/-- A transition that a peer holds up: a requester that has handed its data over goes on. -/
def heldUp (s : State) (lk ev : Nat) (l : L2Line) : Res Reply :=
  if handsOver ev then .ok s { grant := 0, data := l.data } else .stop s (.line lk)

/-- The transition in its two steps (R74): the probes that ask for the owner's data, and those that hand on the merged line. -/
theorem runTrans_eq (s : State) (lk : Nat) (l : L2Line) (ev : Nat) (e : Trans) (q : Proto) (a : SliceAccess) (fill : Option LineData) :
    runTrans s lk l ev e q a fill =
      if e.fault then .stop (s.count (l.slice / 4) fun c => { c with wofault := sat32 c.wofault }) (.writeOnce (l.line * 128))
      else
        let early := e.probe != 0 && e.pkind != 2
        let p := probesIf s early l e e.pkind a.who 0
        if early && !p.2.2.isEmpty then heldUp (markBusy (p.1.setL2 lk l) lk a ev e p.2.2 none p.2.1 fill l.key) lk ev l
        else
          let m := { l with data := transData l e a p.2.1 fill }
          let late := e.probe != 0 && e.pkind = 2
          let r := probesIf (countXfer p.1 l e p.2.1) late m e 2 a.who m.data
          if late && !r.2.2.isEmpty then heldUp (markBusy (r.1.setL2 lk m) lk a ev e r.2.2 (some m.data) none none m.key) lk ev l
          else .ok (finishTrans r.1 lk m e ev a.who q).1 (finishTrans r.1 lk m e ev a.who q).2 := rfl

section
variable {s t : State} (h : HomeKept s t)
include h

/-- A probe changes L1 lines; the L2 is as before. -/
theorem HomeKept.probeL1 (core line : Nat) (view : Bool) (kind : Nat) (upd : LineData) :
    HomeKept s (probeL1 t core line view kind upd).1 ∧ (probeL1 t core line view kind upd).1.caches.l2 = t.caches.l2 := by
  unfold Machine.probeL1
  dsimp only
  split
  · exact ⟨h, rfl⟩
  · split
    · exact ⟨h, rfl⟩
    · split
      · exact ⟨h.delL1 _, rfl⟩
      · exact ⟨h.setL1 .., rfl⟩
      · exact ⟨h.setL1 .., rfl⟩

theorem HomeKept.probeCluster (cluster : Nat) (skip : Option Nat) (line : Nat) (view : Bool) (kind : Nat) (upd : LineData) :
    HomeKept s (probeCluster t cluster skip line view kind upd).1
      ∧ (probeCluster t cluster skip line view kind upd).1.caches.l2 = t.caches.l2 := by
  unfold Machine.probeCluster
  refine List.foldlRecOn (motive := fun a : State × Option LineData => HomeKept s a.1 ∧ a.1.caches.l2 = t.caches.l2) _ _ ⟨h, rfl⟩
    fun a ha i _ => ?_
  dsimp only
  split
  · exact ha
  · obtain ⟨kept, l2⟩ := ha.1.probeL1 (8 * cluster + i) line view kind upd
    exact ⟨kept, l2.trans ha.2⟩

/-- The L2 is as before; and where no peer is probed, nobody has still to answer. -/
theorem HomeKept.sendProbes (port part line : Nat) (view : Bool) (kind : Nat) (targets : List Nat) (skip : Option Nat) (upd : LineData) :
    let r := sendProbes t port part line view kind targets skip upd
    HomeKept s r.1 ∧ r.1.caches.l2 = t.caches.l2 ∧ ((∀ b ∈ targets, b < 16) → r.2.2 = []) := by
  unfold Machine.sendProbes
  refine List.foldlRecOn (motive := fun a : State × Option LineData × List Nat =>
    HomeKept s a.1 ∧ a.1.caches.l2 = t.caches.l2 ∧ ((∀ b ∈ targets, b < 16) → a.2.2 = [])) _ _ ⟨h, rfl, fun _ => rfl⟩
    fun a ha b hb => ?_
  obtain ⟨u, d, rest⟩ := a
  obtain ⟨(kept : HomeKept s u), l2, none⟩ := ha
  have suppressed : HomeKept s (u.count port fun c => { c with prbsup := sat32 c.prbsup }) := kept.count ..
  have sent : HomeKept s (u.count port fun c => { c with prbsent := sat32 c.prbsent }) := kept.count ..
  dsimp only
  split
  · exact ⟨suppressed, l2, none⟩
  · split
    · obtain ⟨kept', l2'⟩ := sent.probeCluster b skip line view kind upd
      exact ⟨kept', l2'.trans l2, none⟩
    · split
      · exact ⟨sent, l2, fun hp => absurd (hp b hb) ‹_›⟩
      · exact ⟨sent, l2, none⟩

theorem HomeKept.markBusy (lk : Nat) (a : SliceAccess) (ev : Nat) (e : Trans) (rest : List Nat) (upd d fill : Option LineData) (key : Nat) :
    HomeKept s (markBusy t lk a ev e rest upd d fill key) := h.setCaches _

theorem HomeKept.countXfer (l : L2Line) (e : Trans) (d : Option LineData) : HomeKept s (countXfer t l e d) := by
  unfold Machine.countXfer
  split
  · exact h.count ..
  · exact h

theorem HomeKept.finishTrans (lk : Nat) (l : L2Line) (e : Trans) (ev : Nat) (who : Requester) (q : Proto) :
    HomeKept s (finishTrans t lk l e ev who q).1 := by
  have written : HomeKept s (if e.wbm then Machine.writeBack t l else t) := by
    split
    · exact h.writeBack l
    · exact h
  unfold Machine.finishTrans
  dsimp only
  generalize (if e.wbm then Machine.writeBack t l else t) = u at written
  split
  · exact written.delL2 _
  · exact written.setL2 ..

theorem HomeKept.probesIf (on : Bool) (l : L2Line) (e : Trans) (kind : Nat) (who : Requester) (upd : LineData) :
    let r := probesIf t on l e kind who upd
    HomeKept s r.1 ∧ r.1.caches.l2 = t.caches.l2 ∧ ((∀ b ∈ probeTargets l e, b < 16) → r.2.2 = []) := by
  unfold Machine.probesIf
  split
  · exact h.sendProbes ..
  · exact ⟨h, rfl, fun _ => rfl⟩

theorem HomeKept.heldUp (lk ev : Nat) (l : L2Line) : HomeKept s (heldUp t lk ev l).state := by
  unfold Machine.heldUp
  split <;> exact h

theorem HomeKept.runTrans (lk : Nat) (l : L2Line) (ev : Nat) (e : Trans) (q : Proto) (a : SliceAccess) (fill : Option LineData) :
    HomeKept s (runTrans t lk l ev e q a fill).state := by
  have counted : HomeKept s (t.count (l.slice / 4) fun c => { c with wofault := sat32 c.wofault }) := h.count ..
  rw [runTrans_eq]
  split
  · exact counted
  · dsimp only
    have probed := (h.probesIf (e.probe != 0 && e.pkind != 2) l e e.pkind a.who 0).1
    split
    · exact ((probed.setL2 ..).markBusy ..).heldUp ..
    · have updated (d : Option LineData) (on : Bool) (m : L2Line) (upd : LineData) := ((probed.countXfer l e d).probesIf on m e 2 a.who upd).1
      split
      · exact (((updated ..).setL2 ..).markBusy ..).heldUp ..
      · exact (updated ..).finishTrans ..

end

/-! Lines that leave the L2. -/

theorem HomeKept.bind {s : State} {α β : Type} {r : Res α} {f : State → α → Res β} (hr : HomeKept s r.state)
    (hf : ∀ t x, HomeKept s t → HomeKept s (f t x).state) : HomeKept s (r.bind f).state := by
  cases r with
  | ok t x => exact hf t x hr
  | stop t w => exact hr

theorem Res.orDrop_state (r : Res Unit) : r.orDrop.state = r.state := by
  cases r with
  | ok s x => rfl
  | stop s w => simp only [Res.orDrop]; split <;> rfl

/-- The slice's table of lost lines takes a line; a full one closes the slice (R104). -/
def recordLost (s : State) (p slice line : Nat) : State :=
  let x := s.part p
  let t := Tbl.getD x.lost slice []
  if t.contains line || x.lostAll.contains slice then s
  else if t.length < 32 then s.setPart p { x with lost := Tbl.put x.lost slice (t ++ [line]) }
  else s.setPart p { x with lostAll := x.lostAll ++ [slice] }

theorem loseLine_eq (s : State) (p slice line : Nat) :
    loseLine s p slice line
      = recordLost ((Tbl.find? s.caches.l2 (lineKey p line false)).elim s fun l => expel s (lineKey p line false) l 15) p slice line := by
  unfold loseLine
  dsimp only
  cases Tbl.find? s.caches.l2 (lineKey p line false) <;> rfl

section
variable {s t : State} (h : HomeKept s t)
include h

theorem HomeKept.forceOut (lk : Nat) (l : L2Line) (ev : Nat) : HomeKept s (forceOut t lk l ev).state := by
  unfold Machine.forceOut
  split
  · exact h
  · refine HomeKept.bind ?_ fun u _ hu => ?_
    · rw [Res.orDrop_state]
      exact HomeKept.bind (h.runTrans ..) fun _ _ hv => hv
    · split
      · exact hu
      · split
        · exact hu
        · exact HomeKept.bind (hu.runTrans ..) fun _ _ hv => hv

theorem HomeKept.evictL2 (lk : Nat) (l : L2Line) : HomeKept s (evictL2 t lk l).state := h.forceOut ..

theorem HomeKept.expel (lk : Nat) (l : L2Line) (ev : Nat) : HomeKept s (expel t lk l ev) := HomeKept.runTrans (h.setCaches _) ..

theorem HomeKept.recordLost (p slice line : Nat) : HomeKept s (recordLost t p slice line) := by
  unfold Machine.recordLost
  dsimp only
  split
  · exact h
  · split
    · exact h.setPart ..
    · exact h.setPart ..

theorem HomeKept.loseLine (p slice line : Nat) : HomeKept s (loseLine t p slice line) := by
  rw [loseLine_eq]
  refine HomeKept.recordLost ?_ ..
  cases Tbl.find? t.caches.l2 (lineKey p line false) with
  | none => exact h
  | some l => exact h.expel ..

theorem HomeKept.clearWay (slice set way : Nat) : HomeKept s (clearWay t slice set way).state := by
  unfold Machine.clearWay
  dsimp only
  split
  · exact h
  · split
    · exact h.evictL2 ..
    · split
      · exact h.setL2 ..
      · split
        · exact (h.loseLine ..).errInterrupt 0
        · split
          · exact h
          · refine HomeKept.bind (h.evictL2 ..) fun u _ hu => ?_
            split
            · exact hu.setL2 ..
            · exact hu

end

/-! A lost line leaves the L2. -/

/-- A line that no peer holds is probed in the clusters alone. -/
theorem probeTargets_clusters {l : L2Line} (h : ∀ b, 16 ≤ b → b < 20 → l.sharers.getLsbD b = false ∧ l.owner ≠ b) :
    ∀ b ∈ probeTargets l (forceEntry false), b < 16 := by
  have owner : ∀ b ∈ (if l.owner < 20 then [l.owner] else []), b < 16 := by
    intro b hb
    split at hb
    · obtain rfl := List.mem_singleton.mp hb
      by_contra ge
      exact (h l.owner (by omega) ‹_›).2 rfl
    · cases hb
  have sharer : ∀ b ∈ (List.range 20).filter fun b => l.sharers.getLsbD b, b < 16 := by
    intro b hb
    obtain ⟨lt, bit⟩ := List.mem_filter.mp hb
    by_contra ge
    rw [(h b (by omega) (List.mem_range.mp lt)).1] at bit
    cases bit
  intro b hb
  rcases List.mem_append.mp (show b ∈ _ ++ _ from hb) with hb | hb
  · exact owner b hb
  · exact sharer b (List.mem_of_mem_filter hb)

theorem countXfer_caches (s : State) (l : L2Line) (e : Trans) (d : Option LineData) : (countXfer s l e d).caches = s.caches := by
  unfold countXfer
  split <;> rfl

theorem finishTrans_force_l2 (s : State) (lk : Nat) (l : L2Line) (who : Requester) (q : Proto) :
    (finishTrans s lk l (forceEntry false) 15 who q).1.caches.l2 = Tbl.del s.caches.l2 lk := by
  simp [finishTrans, forceEntry, State.delL2]

/-- What a slice closes by itself, with no peer to wait for, is over at once. -/
theorem runTrans_force_l2 {s : State} {lk : Nat} {l : L2Line} (h : ∀ b ∈ probeTargets l (forceEntry false), b < 16) (q : Proto)
    (a : SliceAccess) (fill : Option LineData) :
    (runTrans s lk l 15 (forceEntry false) q a fill).state.caches.l2 = Tbl.del s.caches.l2 lk := by
  let e := forceEntry false
  obtain ⟨_, l2, answered⟩ := (HomeKept.rfl' s).probesIf (e.probe != 0 && e.pkind != 2) l e e.pkind a.who 0
  have quiet (b : Bool) : ¬(b && !(probesIf s (e.probe != 0 && e.pkind != 2) l e e.pkind a.who 0).2.2.isEmpty) = true := by
    rw [answered h, List.isEmpty_nil, Bool.not_true, Bool.and_false]
    decide
  have late (b : Bool) : ¬((e.probe != 0 && e.pkind = 2) && b) = true := Bool.false_ne_true
  rw [runTrans_eq, if_neg (by decide)]
  dsimp only
  rw [if_neg (quiet _), if_neg (late _)]
  refine (finishTrans_force_l2 ..).trans (congrArg (Tbl.del · lk) ?_)
  exact ((HomeKept.rfl' _).probesIf ..).2.1.trans (by rw [countXfer_caches, l2])

theorem expel_l2 {s : State} {lk : Nat} {l : L2Line} (h : ∀ b ∈ probeTargets l (forceEntry false), b < 16) :
    (expel s lk l 15).caches.l2 = Tbl.del s.caches.l2 lk := runTrans_force_l2 h ..

theorem recordLost_caches (s : State) (p slice line : Nat) : (recordLost s p slice line).caches = s.caches := by
  unfold recordLost
  dsimp only
  split
  · rfl
  · split <;> rfl

theorem loseLine_isLost (s : State) (p slice line : Nat) : (loseLine s p slice line).isLost p slice line = true := by
  rw [loseLine_eq]
  unfold recordLost
  dsimp only
  split
  · assumption
  · split <;> simp [State.isLost]

theorem loseLine_gone {s : State} {p slice line : Nat} {l : L2Line} (hl : Tbl.find? s.caches.l2 (lineKey p line false) = some l)
    (h : ∀ b, 16 ≤ b → b < 20 → l.sharers.getLsbD b = false ∧ l.owner ≠ b) (once : (s.caches.l2.map (·.1)).Nodup) :
    Tbl.find? (loseLine s p slice line).caches.l2 (lineKey p line false) = none := by
  rw [loseLine_eq, recordLost_caches, hl, Option.elim_some, expel_l2 (probeTargets_clusters h)]
  exact Tbl.find?_del_same once _

end Sys2Proof.Machine
end

section
/-! SUPPORT. The error log, the scores and the error interrupt (R390, R391, R423), and what the drop of a damaged line leaves of them. -/

namespace Sys2Proof.Machine

/-! Reports and charges. -/

theorem sendMsi_onlyDev (s : State) (f vec : Nat) (en : Bool) :
    sendMsi s f vec en = { s with dev := (sendMsi s f vec en).dev } := by
  rcases sendMsi_cases s f vec en with e | e
  · rw [e]
  · rw [e]
    rfl

theorem errInterrupt_onlyDev (s : State) (f : Nat) : errInterrupt s f = { s with dev := (errInterrupt s f).dev } := sendMsi_onlyDev ..

section
variable (s : State) (kind unit tenant index addr part : Nat)

theorem logError_record :
    Tbl.find? (logError s kind unit tenant index addr part).dev.errlog (s.dev.errcnt % 64) = some
      { kind := w64 (kind + unit * 256 + tenant * 65536 + index * 2 ^ 32), addr := w64 addr, time := w64 s.cycle, part := part } :=
  Tbl.find?_put_same ..

theorem logError_other {i : Nat} (h : i ≠ s.dev.errcnt % 64) :
    Tbl.find? (logError s kind unit tenant index addr part).dev.errlog i = Tbl.find? s.dev.errlog i := Tbl.find?_put_other _ _ h

theorem reportError_onlyDev :
    reportError s kind unit tenant index addr part = { s with dev := (reportError s kind unit tenant index addr part).dev } := by
  unfold reportError
  dsimp only
  split
  · exact errInterrupt_onlyDev ..
  · rw [errInterrupt_onlyDev (errInterrupt _ 0), errInterrupt_onlyDev (logError s kind unit tenant index addr part)]
    rfl

/-- Beside its record, a report changes registers of functions only. -/
theorem reportError_homeKept :
    HomeKept (logError s kind unit tenant index addr part) (reportError s kind unit tenant index addr part) := by
  have first := (HomeKept.rfl' (logError s kind unit tenant index addr part)).errInterrupt 0
  unfold reportError
  dsimp only
  split
  · exact first
  · exact first.errInterrupt _

theorem reportError_raised : ((reportError s kind unit tenant index addr part).func 0).intstat.getLsbD 22 = true := by
  have first := errInterrupt_raised (logError s kind unit tenant index addr part) 0
  unfold reportError
  dsimp only
  split
  · exact first
  · exact ((HomeKept.rfl' _).errInterrupt _).raised 0 first

end

/-- A unit's score rises, saturating at 8 bits; at SUSPTH the unit is marked for test (R423). -/
structure Charged (s t : State) (unit n : Nat) : Prop where
  score : Tbl.getD t.dev.score unit 0 = min 255 (Tbl.getD s.dev.score unit 0 + n)
  testing : s.dev.suspth ≤ min 255 (Tbl.getD s.dev.score unit 0 + n) → Tbl.getD s.dev.retired unit false = false →
    Tbl.getD t.dev.testing unit false = true

section
variable (s : State) (unit : Nat) {n : Nat}

theorem charge_dev (n : Nat) :
    (charge s unit n).dev = { s.dev with score := (charge s unit n).dev.score, testing := (charge s unit n).dev.testing } := by
  unfold charge
  dsimp only [State.setDev_dev]
  split <;> rfl

theorem charge_onlyDev (n : Nat) : charge s unit n = { s with dev := (charge s unit n).dev } := rfl

theorem charge_charged (hn : 0 < n) : Charged s (charge s unit n) unit n := by
  have pos : min 255 (Tbl.getD s.dev.score unit 0 + n) ≠ 0 := by omega
  have listed : Tbl.setD 0 s.dev.score unit (min 255 (Tbl.getD s.dev.score unit 0 + n))
      = Tbl.put s.dev.score unit (min 255 (Tbl.getD s.dev.score unit 0 + n)) := if_neg pos
  refine ⟨?_, fun hs hr => ?_⟩
  · unfold charge
    dsimp only [State.setDev_dev]
    rw [listed]
    split <;> exact Tbl.getD_put_same ..
  · unfold charge
    simp [hs, hr, Tbl.setD]

end

theorem Charged.congr {s s' t t' : State} {unit n : Nat} (h : Charged s t unit n) (score : s'.dev.score = s.dev.score)
    (suspth : s'.dev.suspth = s.dev.suspth) (retired : s'.dev.retired = s.dev.retired) (score' : t'.dev.score = t.dev.score)
    (testing : t'.dev.testing = t.dev.testing) : Charged s' t' unit n :=
  ⟨by rw [score, score']; exact h.score, by rw [score, suspth, retired, testing]; exact h.testing⟩

/-! An uncorrectable error, up to the drop of its line. -/

/-- The error is logged with its interrupts, and its unit is charged. -/
def noted (s : State) (e : ErrorSite) : State :=
  charge (reportError s 1 (unitCode e.unit) (s.consumerTenant e) e.index (e.line * 128) e.part) (unitScore e) 32

theorem noted_onlyDev (s : State) (e : ErrorSite) : noted s e = { s with dev := (noted s e).dev } := by
  rw [noted, charge_onlyDev, reportError_onlyDev]

/-- Of the device, `noted` changes the log, one score with its mark for test, and registers of functions. -/
theorem noted_log (s : State) (e : ErrorSite) :
    (noted s e).dev.errcnt = (s.dev.errcnt + 1) % 2 ^ 32
      ∧ Tbl.find? (noted s e).dev.errlog (s.dev.errcnt % 64) = some
        { kind := w64 (1 + unitCode e.unit * 256 + s.consumerTenant e * 65536 + e.index * 2 ^ 32), addr := w64 (e.line * 128)
          time := w64 s.cycle, part := e.part } := by
  have reported := (reportError_homeKept s 1 (unitCode e.unit) (s.consumerTenant e) e.index (e.line * 128) e.part).device
  rw [noted, charge_dev, reported]
  exact ⟨rfl, logError_record ..⟩

theorem noted_charged (s : State) (e : ErrorSite) : Charged s (noted s e) (unitScore e) 32 := by
  have reported := (reportError_homeKept s 1 (unitCode e.unit) (s.consumerTenant e) e.index (e.line * 128) e.part).device
  exact (charge_charged _ _ (by decide)).congr (congrArg Device.score reported).symm (congrArg Device.suspth reported).symm
    (congrArg Device.retired reported).symm rfl rfl

theorem noted_raised (s : State) (e : ErrorSite) : ((noted s e).func 0).intstat.getLsbD 22 = true := by
  rw [State.func, noted, charge_dev]
  exact reportError_raised ..

/-- What has been logged, charged and signalled stands, but that one more record may have been added; the splits are as before. -/
structure NotedKept (s t : State) : Prop where
  groups : t.groups = s.groups
  crews : t.crews = s.crews
  launches : t.launches = s.launches
  score : t.dev.score = s.dev.score
  testing : t.dev.testing = s.dev.testing
  log : ∀ i, i ≠ s.dev.errcnt % 64 → Tbl.find? t.dev.errlog i = Tbl.find? s.dev.errlog i
  raised : (s.func 0).intstat.getLsbD 22 = true → (t.func 0).intstat.getLsbD 22 = true

theorem HomeKept.notedKept {s t : State} (h : HomeKept s t) : NotedKept s t :=
  ⟨h.groups, h.crews, h.launches, (congrArg Device.score h.device).trans rfl, (congrArg Device.testing h.device).trans rfl,
    fun i _ => (congrArg (fun d : Device => Tbl.find? d.errlog i) h.device).trans rfl, h.raised 0⟩

theorem HomeKept.notedKept_dropped {s t : State} {e : ErrorSite} (h : HomeKept (noteDropped s e) t) : NotedKept s t :=
  ⟨h.groups, h.crews, h.launches, (congrArg Device.score h.device).trans rfl, (congrArg Device.testing h.device).trans rfl,
    fun i hi => (congrArg (fun d : Device => Tbl.find? d.errlog i) h.device).trans (logError_other _ _ _ _ _ _ _ hi), h.raised 0⟩

theorem dropDamaged_notedKept (s : State) (e : ErrorSite) : NotedKept s (dropDamaged s e) := by
  unfold dropDamaged
  split
  · split
    · exact (HomeKept.rfl' s).notedKept
    · dsimp only
      split
      · exact ((HomeKept.rfl' s).delL1 _).notedKept
      · exact ((HomeKept.rfl' (noteDropped s e)).delL1 _).notedKept_dropped
  · dsimp only
    split
    · exact (HomeKept.rfl' s).notedKept
    · split
      · exact ((HomeKept.rfl' s).loseLine ..).notedKept
      · split
        · exact (HomeKept.rfl' s).notedKept
        · split
          · exact ((HomeKept.rfl' (noteDropped s e)).expel ..).notedKept_dropped
          · exact ((HomeKept.rfl' s).expel ..).notedKept
  · exact (HomeKept.rfl' s).notedKept

end Sys2Proof.Machine
end

section
/-! Errors of the storage arrays, and the refresh of the weight store (O49). -/

namespace Sys2Proof.Machine

/-! Uncorrectable errors. -/

theorem ctxOf_of_eq {s t : State} (groups : t.groups = s.groups) (crews : t.crews = s.crews) (launches : t.launches = s.launches)
    (r : SplitRef) : t.ctxOf r = s.ctxOf r := by
  simp only [State.ctxOf, State.group?, State.crew?, State.launch?, groups, crews, launches]

theorem ctxOf_splitOf {s : State} {r : SplitRef} {c : Ctx} (h : s.ctxOf r = some c) : s.split? r = some c.sp := by
  rw [State.split?, ctxOf_group h]
  exact ctxOf_split h

/-- The state in which the damaged line has been dropped: the error's own record, charge and interrupt stand. -/
structure Dropped (s t : State) (e : ErrorSite) : Prop where
  groups : t.groups = s.groups
  crews : t.crews = s.crews
  launches : t.launches = s.launches
  record : Tbl.find? t.dev.errlog (s.dev.errcnt % 64) = some
    { kind := w64 (1 + unitCode e.unit * 256 + s.consumerTenant e * 65536 + e.index * 2 ^ 32), addr := w64 (e.line * 128)
      time := w64 s.cycle, part := e.part }
  charged : Charged s t (unitScore e) 32
  raised : (t.func 0).intstat.getLsbD 22 = true

section
variable (s : State) (e : ErrorSite)

/-- A record of dropped data takes the next place of the log. -/
theorem dropDamaged_dropped : Dropped s (dropDamaged (noted s e) e) e := by
  have kept := dropDamaged_notedKept (noted s e) e
  obtain ⟨count, record⟩ := noted_log s e
  have next : s.dev.errcnt % 64 ≠ (noted s e).dev.errcnt % 64 := by rw [count]; omega
  have dev := noted_onlyDev s e
  refine ⟨kept.groups.trans ?_, kept.crews.trans ?_, kept.launches.trans ?_, (kept.log _ next).trans record,
    (noted_charged s e).congr rfl rfl rfl kept.score kept.testing, kept.raised (noted_raised s e)⟩ <;> rw [dev]

variable {s e}

/-- An error that nobody consumes, or whose clean L1 line is fetched again, aborts nobody. -/
theorem exec_uncorrectable_quiet (h : e.consumer = none ∨ refetched s e = true) :
    exec (.uncorrectableError e) s = .next (dropDamaged (noted s e) e) := by
  show execUncorrectableError e s = _
  unfold execUncorrectableError
  rcases h with h | h
  · rw [h]
    exact congrArg _ (ite_self _)
  · rw [h]
    rfl

/-- The split that consumes the data of a line is aborted, outside a clamp. -/
theorem exec_uncorrectable_split {r : SplitRef} {c : Ctx} (hr : refetched s e = false) (he : e.consumer = some (.split r))
    (hc : s.ctxOf r = some c) (hk : c.checked = false) :
    exec (.uncorrectableError e) s = .next (abortConsumer (dropDamaged (noted s e) e) e (.split r)) := by
  have dropped := dropDamaged_dropped s e
  have ctx : (dropDamaged (noted s e) e).ctxOf r = some c := (ctxOf_of_eq dropped.groups dropped.crews dropped.launches r).trans hc
  show execUncorrectableError e s = _
  unfold execUncorrectableError
  unfold noted at ctx ⊢
  simp [hr, he, State.consumerSplit, ctx, hk]

theorem dropDamaged_l1 (hu : e.unit = .l1) (once : (s.caches.l1.map (·.1)).Nodup) :
    Tbl.find? (dropDamaged s e).caches.l1 (lineKey e.index e.line e.view) = none := by
  unfold dropDamaged
  rw [hu]
  dsimp only
  split
  · assumption
  · refine (congrArg (Tbl.find? · _) ?_).trans (Tbl.find?_del_same once _)
    split <;> rfl

/-- A clean line is only taken out of its L1. -/
theorem dropDamaged_clean {l : L1Line} (hu : e.unit = .l1) (hl : Tbl.find? s.caches.l1 (lineKey e.index e.line e.view) = some l)
    (hd : l.dirty = 0) : dropDamaged s e = s.delL1 (lineKey e.index e.line e.view) := by
  unfold dropDamaged
  rw [hu]
  simp only [hl, hd, if_true]

theorem dropDamaged_counted {l : L2Line} (hu : e.unit = .l2) (hl : Tbl.find? s.caches.l2 (lineKey e.part e.line e.view) = some l)
    (hc : l.unb.isSome = true) : dropDamaged s e = loseLine s e.part l.slice e.line := by
  unfold dropDamaged
  rw [hu]
  simp only [hl, hc, if_true]

theorem dropDamaged_elsewhere (h1 : e.unit ≠ .l1) (h2 : e.unit ≠ .l2) : dropDamaged s e = s := by
  unfold dropDamaged
  split
  · exact absurd ‹_› h1
  · exact absurd ‹_› h2
  · rfl

/-- A consumer whose access goes through the caches takes the abort at that access; another takes it at once (R390). -/
theorem abortConsumer_cached {t : State} {r : SplitRef} {sp : Split} (hu : e.unit = .l1 ∨ e.unit = .l2 ∨ e.unit = .mainMemory)
    (hsp : t.split? r = some sp) :
    (abortConsumer t e (.split r)).split? r = some { sp with aborted := some (0x0B, e.line * 128) }
      ∧ (abortConsumer t e (.split r)).dev = t.dev := by
  have cached : (e.unit = .l1 || e.unit = .l2 || e.unit = .mainMemory) = true := by simpa [or_assoc] using hu
  have aborts : abortConsumer t e (.split r) = t.updSplit r fun sp => { sp with aborted := some (causeEcc, e.line * 128) } := if_pos cached
  rw [aborts, State.updSplit_split?, hsp]
  exact ⟨rfl, rfl⟩

theorem abortConsumer_atOnce {t : State} {r : SplitRef} {c : Ctx} (h1 : e.unit ≠ .l1) (h2 : e.unit ≠ .l2) (h3 : e.unit ≠ .mainMemory)
    (hc : t.ctxOf r = some c) : abortConsumer t e (.split r) = raise t c 0x0B c.sp.mask (w64 (e.line * 128)) := by
  simp [abortConsumer, h1, h2, h3, hc, causeEcc]

end

/-! Corrected errors and scrubs. -/

section
variable (s : State) (e : ErrorSite)

/-- A corrected error is counted (R58). -/
def tallied : State :=
  s.setDev { s.dev with corrected := Tbl.put s.dev.corrected (unitScore e) (Tbl.getD s.dev.corrected (unitScore e) 0 + 1) }

/-- It is counted and charged (R423). -/
def counted : State := charge (tallied s e) (unitScore e) 1

/-- The place of a way's count of errors, and of the mark that it is retired (R59). -/
def siteWay : Nat := (e.index * 512 + (s.home e.part (e.line * 128)).set) * 16 + e.way

theorem counted_onlyDev : counted s e = { s with dev := (counted s e).dev } := rfl

theorem counted_charged : Charged s (counted s e) (unitScore e) 1 :=
  (charge_charged (tallied s e) (unitScore e) (by decide)).congr rfl rfl rfl rfl rfl

theorem counted_corrected : Tbl.getD (counted s e).dev.corrected (unitScore e) 0 = Tbl.getD s.dev.corrected (unitScore e) 0 + 1 := by
  rw [counted, charge_dev]
  exact Tbl.getD_put_same ..

theorem counted_wayErrors : (counted s e).dev.wayErrors = s.dev.wayErrors := by
  rw [counted, charge_dev]
  rfl

/-- The state with the way's error counted, and the way retired. -/
def wayCounted : State :=
  (counted s e).setDev { (counted s e).dev with
    wayErrors := Tbl.put (counted s e).dev.wayErrors (siteWay s e) (Tbl.getD (counted s e).dev.wayErrors (siteWay s e) 0 + 1) }

theorem corrected_eq :
    corrected s e =
      if e.unit = .l2 then
        if Tbl.getD s.dev.wayErrors (siteWay s e) 0 = 1 then retireWay (wayCounted s e) e.index (s.home e.part (e.line * 128)).set e.way
        else wayCounted s e
      else counted s e := by
  by_cases hu : e.unit = .l2
  · have second : Tbl.getD (counted s e).dev.wayErrors (siteWay s e) 0 + 1 = 2 ↔ Tbl.getD s.dev.wayErrors (siteWay s e) 0 = 1 := by
      rw [counted_wayErrors]
      omega
    rw [if_pos hu, corrected, if_neg (by simp [hu])]
    exact if_congr second rfl rfl
  · rw [if_neg hu, corrected, if_pos (by simp [hu])]
    rfl

/-- A way that is retired is cleared; what it held is written back, moved or lost (R59, R105). -/
theorem retireWay_kept (slice set way : Nat) :
    HomeKept (s.setDev { s.dev with retiredWays := Tbl.put s.dev.retiredWays ((slice * 512 + set) * 16 + way) true })
      (retireWay s slice set way) := (HomeKept.rfl' _).clearWay ..

theorem retireWay_retired (slice set way : Nat) : (retireWay s slice set way).wayRetired slice set way = true := by
  rw [State.wayRetired, (retireWay_kept s slice set way).device]
  exact Tbl.getD_put_same ..

/-- The clearing of a way that holds no line changes nothing. -/
theorem clearWay_empty {slice set way : Nat} (h : ¬∃ x ∈ s.setLines slice set, x.2.way = way) : (clearWay s slice set way).state = s := by
  have none : ((s.setLines slice set).find? fun x => x.2.way = way) = none := by
    rw [List.find?_eq_none]
    exact fun x hx hw => h ⟨x, hx, by simpa using hw⟩
  unfold clearWay
  dsimp only
  rw [none]
  rfl

end

section
variable (s : State) (e : ErrorSite)

theorem exec_corrected :
    let twice : Prop := e.unit = .l2 ∧ Tbl.getD s.dev.wayErrors (siteWay s e) 0 = 1
    ∃ t, exec (.correctedError e) s = .next t ∧ Charged s t (unitScore e) 1
      ∧ Tbl.getD t.dev.corrected (unitScore e) 0 = Tbl.getD s.dev.corrected (unitScore e) 0 + 1
      ∧ (¬twice → t = { s with dev := t.dev })
      ∧ (twice → t.wayRetired e.index (s.home e.part (e.line * 128)).set e.way = true) := by
  intro twice
  refine ⟨_, rfl, ?_⟩
  rw [corrected_eq]
  have charged := counted_charged s e
  have count := counted_corrected s e
  by_cases hu : e.unit = .l2
  · rw [if_pos hu]
    by_cases h1 : Tbl.getD s.dev.wayErrors (siteWay s e) 0 = 1
    · rw [if_pos h1]
      have kept := (retireWay_kept (wayCounted s e) e.index (s.home e.part (e.line * 128)).set e.way).device
      exact ⟨charged.congr rfl rfl rfl ((congrArg Device.score kept).trans rfl) ((congrArg Device.testing kept).trans rfl),
        (congrArg (fun d : Device => Tbl.getD d.corrected (unitScore e) 0) kept).trans count, fun h => absurd ⟨hu, h1⟩ h,
        fun _ => retireWay_retired ..⟩
    · rw [if_neg h1]
      exact ⟨charged.congr rfl rfl rfl rfl rfl, count, fun _ => rfl, fun h => absurd h.2 h1⟩
  · rw [if_neg hu]
    exact ⟨charged, count, fun _ => rfl, fun h => absurd h.1 hu⟩

/-- A scrub that finds no error changes nothing but in a retired way that still holds a line (R59). -/
theorem exec_scrub_clean
    (h : ¬(e.unit = .l2 ∧ s.wayRetired e.index (s.home e.part (e.line * 128)).set e.way = true
      ∧ ∃ x ∈ s.setLines e.index (s.home e.part (e.line * 128)).set, x.2.way = e.way)) :
    exec (.patrolScrub e .clean) s = .next s := by
  show execPatrolScrub e .clean s = _
  unfold execPatrolScrub
  split
  · rfl
  · dsimp only
    split
    · obtain ⟨hu, hw⟩ := Bool.and_eq_true_iff.mp ‹_›
      exact congrArg _ (clearWay_empty s fun hx => h ⟨of_decide_eq_true hu, hw, hx⟩)
    · rfl

variable {e} in
/-- A scrub acts as the error that it finds (R58). -/
theorem exec_scrub_error (h : e.unit = .l2 ∨ e.unit = .weightStore ∨ e.unit = .mainMemory) :
    exec (.patrolScrub e .corrected) s = exec (.correctedError e) s
      ∧ exec (.patrolScrub e .uncorrectable) s = exec (.uncorrectableError { e with consumer := none }) s := by
  have visited : ¬(!scrubbed e.unit) = true := by rcases h with h | h | h <;> rw [h] <;> decide
  exact ⟨if_neg visited, if_neg visited⟩

end

/-! Refresh. -/

section
variable (s : State) {bank : Nat}

theorem exec_refreshStart_free (hb : bank < 16) (h : s.dev.refresh.length < 2) :
    exec (.refreshStart bank) s = .next (s.setDev { s.dev with refresh := Tbl.put s.dev.refresh bank true }) :=
  congrArg _ (if_pos (by simp [hb, h]))

theorem exec_refreshStart_full (h : 2 ≤ s.dev.refresh.length) : exec (.refreshStart bank) s = .next s :=
  congrArg _ (if_neg (by simp [Nat.not_lt.mpr h]))

end

/-- Settles O49: an uncorrectable error is noted, then its line is dropped (`dropDamaged_dropped`), then its consumer is aborted; a corrected
one is counted, and retires a way at the second (`exec_corrected`). -/
theorem errorsAndRefresh : Obligations.ErrorsAndRefresh := by
  unfold Obligations.ErrorsAndRefresh
  refine ⟨fun e s => ?_, fun bank s hb => ?_⟩
  · intro u score logged l1k
    have dropped := dropDamaged_dropped s e
    have dev := noted_onlyDev s e
    have scored : score (dropDamaged (noted s e) e) 32 := ⟨dropped.charged.score, dropped.charged.testing⟩
    have record : logged (dropDamaged (noted s e) e) := dropped.record
    have caches : (noted s e).caches = s.caches := by rw [dev]
    refine ⟨fun _ he => ⟨_, exec_uncorrectable_quiet (.inl he), record, scored, dropped.groups, dropped.raised, fun hu once => ?_,
      fun l hu hl hv hc peers once => ?_⟩, fun l hu hl hd => ?_, fun r c he hc hk => ⟨fun hu => ?_, fun h1 h2 h3 => ?_⟩, ?_,
      fun h => exec_scrub_clean s e h, exec_scrub_error s⟩
    · exact dropDamaged_l1 hu (caches ▸ once)
    · rw [dropDamaged_counted hu (by rw [caches, hv]; exact hl) hc]
      exact ⟨loseLine_isLost .., loseLine_gone (caches ▸ hl) peers (caches ▸ once)⟩
    · have clean : refetched s e = true := by simp [refetched, hu, hl, hd, l1k]
      refine ⟨_, exec_uncorrectable_quiet (.inr clean), record, dropped.groups, ?_⟩
      rw [dropDamaged_clean hu (caches ▸ hl) hd, dev]
      rfl
    · have consumed : refetched s e = false := by
        rcases hu with hu | hu | ⟨hu, none⟩
        · simp [refetched, hu]
        · simp [refetched, hu]
        · simp [refetched, hu, none, l1k]
      have cached : e.unit = .l1 ∨ e.unit = .l2 ∨ e.unit = .mainMemory := by tauto
      have sp : (dropDamaged (noted s e) e).split? r = some c.sp :=
        ctxOf_splitOf ((ctxOf_of_eq dropped.groups dropped.crews dropped.launches r).trans hc)
      obtain ⟨aborted, same⟩ := abortConsumer_cached cached sp
      exact ⟨_, exec_uncorrectable_split consumed he hc hk, aborted, by rw [same]; exact scored.1, by rw [same]; exact scored.2⟩
    · have consumed : refetched s e = false := by simp [refetched, h1]
      have stays : dropDamaged (noted s e) e = noted s e := dropDamaged_elsewhere h1 h2
      rw [stays] at scored record
      refine ⟨noted s e, dev, scored, record, ?_⟩
      rw [exec_uncorrectable_split consumed he hc hk, stays, abortConsumer_atOnce h1 h2 h3 (by rw [dev]; exact hc)]
    · obtain ⟨t, ht, charged, count, once, twice⟩ := exec_corrected s e
      exact ⟨t, ht, ⟨charged.score, charged.testing⟩, count, once, twice⟩
  · refine ⟨fun h => ⟨_, exec_refreshStart_free s hb h, Tbl.getD_put_same .., rfl, ?_⟩, exec_refreshStart_full s, fun once =>
      ⟨_, rfl, ?_, fun b hne => ?_, rfl⟩⟩
    · exact (Tbl.length_put_le ..).trans h
    · exact congrArg (Option.getD · false) (Tbl.find?_del_same once bank)
    · exact congrArg (Option.getD · false) (Tbl.find?_del_other _ hne)

end Sys2Proof.Machine
end

section
/-! SUPPORT. An event at the home slice of a backed line that nobody else holds (R64 to R67, R74, R82): it neither waits nor probes, so the
program's entry is its whole effect. -/

namespace Sys2Proof.Machine

/-! What changes neither caches nor memory. -/

/-- The lines of the caches, and memory, are as before. -/
structure StoreKept (s t : State) : Prop where
  l1 : t.caches.l1 = s.caches.l1
  l2 : t.caches.l2 = s.caches.l2
  mem : t.mem = s.mem

theorem StoreKept.trans {s t u : State} (h : StoreKept s t) (k : StoreKept t u) : StoreKept s u :=
  ⟨k.l1.trans h.l1, k.l2.trans h.l2, k.mem.trans h.mem⟩

/-- An update of the device's registers, counters and records. -/
theorem StoreKept.of_onlyDev {s t : State} (h : t = { s with dev := t.dev }) : StoreKept s t := by
  rw [h]
  exact ⟨rfl, rfl, rfl⟩

theorem answerTo_onlyDev (s : State) (who : Requester) (addr : Nat) (ok : Bool) (grant : Nat) (data : LineData) :
    s.answerTo who addr ok grant data = { s with dev := { s.dev with replied := (s.answerTo who addr ok grant data).dev.replied } } := by
  cases who <;> rfl

theorem answerTo_storeKept (s : State) (who : Requester) (addr : Nat) (ok : Bool) (grant : Nat) (data : LineData) :
    StoreKept s (s.answerTo who addr ok grant data) := by
  rw [answerTo_onlyDev]
  exact ⟨rfl, rfl, rfl⟩

/-! Refusals (R82, R392). -/

theorem sendMsi_ports (s : State) (f vec : Nat) (en : Bool) : (sendMsi s f vec en).dev.ports = s.dev.ports := by
  rcases sendMsi_cases s f vec en with e | e
  · rw [e]
  · rw [e]
    rfl

theorem errInterrupt_ports (s : State) (f : Nat) : (errInterrupt s f).dev.ports = s.dev.ports := sendMsi_ports ..

theorem reportError_ports (s : State) (kind unit tenant index addr part : Nat) :
    (reportError s kind unit tenant index addr part).dev.ports = s.dev.ports := by
  have first := errInterrupt_ports (logError s kind unit tenant index addr part) 0
  unfold reportError
  dsimp only
  split
  · exact first
  · exact (errInterrupt_ports ..).trans first

/-- The answer of a slice that refuses an event for good. -/
def refusedTo (s : State) (a : SliceAccess) : State :=
  match a.who with
  | .peer l => abortPeer s a l
  | who => s.answerTo who (a.line * 128) false 0 0

theorem abortPeer_kept (s : State) (a : SliceAccess) (link : Nat) :
    StoreKept s (abortPeer s a link) ∧ (abortPeer s a link).dev.ports = s.dev.ports := by
  have answered (t : State) : (t.answerTo a.who (a.line * 128) false 0 0).dev.ports = t.dev.ports := by rw [answerTo_onlyDev]
  exact ⟨(StoreKept.of_onlyDev (reportError_onlyDev ..)).trans (answerTo_storeKept ..), (answered _).trans (reportError_ports ..)⟩

theorem refusedTo_kept (s : State) (a : SliceAccess) : StoreKept s (refusedTo s a) ∧ (refusedTo s a).dev.ports = s.dev.ports := by
  unfold refusedTo
  split
  · exact abortPeer_kept ..
  · exact ⟨answerTo_storeKept .., by rw [answerTo_onlyDev]⟩

/-! The row of an event (R64). -/

theorem exec_sliceInstrs {a : SliceAccess} {i : Instr} {ev : Nat} (h : (i, ev) ∈ sliceInstrs a) (s : State) :
    exec i s = .next (sliceRow s i ev a) := by
  simp only [sliceInstrs, List.mem_cons, Prod.mk.injEq, List.not_mem_nil, or_false] at h
  rcases h with ⟨rfl, rfl⟩ | ⟨rfl, rfl⟩ | ⟨rfl, rfl⟩ | ⟨rfl, rfl⟩ | ⟨rfl, rfl⟩ | ⟨rfl, rfl⟩ | ⟨rfl, rfl⟩ | ⟨rfl, rfl⟩ | ⟨rfl, rfl⟩
    | ⟨rfl, rfl⟩ | ⟨rfl, rfl⟩ | ⟨rfl, rfl⟩ <;> rfl

/-- The state in which the slice serves an event: the requester has given up its copy, with the events that hand it over. -/
def handedOver (s : State) (ev : Nat) (a : SliceAccess) : State :=
  match a.who with
  | .l1 core => if givesUp ev then s.delL1 (lineKey core a.line a.view) else s
  | _ => s

/-- Its L1 lines. -/
def handedOverL1 (s : State) (ev : Nat) (a : SliceAccess) : List (Nat × L1Line) :=
  match a.who with
  | .l1 core => if givesUp ev then Tbl.del s.caches.l1 (lineKey core a.line a.view) else s.caches.l1
  | _ => s.caches.l1

theorem handedOver_eq (s : State) (ev : Nat) (a : SliceAccess) :
    handedOver s ev a = s.setCaches { s.caches with l1 := handedOverL1 s ev a } := by
  unfold handedOver handedOverL1
  split
  · split <;> rfl
  · rfl

theorem handedOverL1_other (s : State) (ev : Nat) {a : SliceAccess} {k : Nat}
    (h : ∀ core, a.who = .l1 core → k ≠ lineKey core a.line a.view) :
    Tbl.find? (handedOverL1 s ev a) k = Tbl.find? s.caches.l1 k := by
  unfold handedOverL1
  split
  · split
    · exact Tbl.find?_del_other _ (h _ ‹_›)
    · rfl
  · rfl

theorem handedOverL1_gone {s : State} {ev : Nat} {a : SliceAccess} {core : Nat} (hw : a.who = .l1 core)
    (once : (s.caches.l1.map (·.1)).Nodup) (h : ev = 3 ∨ ev = 4 ∨ ev = 8) :
    Tbl.find? (handedOverL1 s ev a) (lineKey core a.line a.view) = none := by
  have gives : givesUp ev = true := by simpa [givesUp, or_assoc] using h
  simp only [handedOverL1, hw, gives, if_true]
  exact Tbl.find?_del_same once _

theorem Tbl.del_sublist {α : Type} (l : List (Nat × α)) (n : Nat) : (Tbl.del l n).Sublist l := by
  induction l with
  | nil => exact .refl _
  | cons p t ih =>
    rw [Tbl.del]
    split
    · exact List.sublist_cons_self ..
    · exact ih.cons_cons _

theorem handedOverL1_sublist (s : State) (ev : Nat) (a : SliceAccess) : (handedOverL1 s ev a).Sublist s.caches.l1 := by
  unfold handedOverL1
  split
  · split
    · exact Tbl.del_sublist ..
    · exact .refl _
  · exact .refl _

/-- The requester's L1 has received the grant of an event that has been served. -/
def granted (s : State) (i : Instr) (a : SliceAccess) (r : Reply) : State := grantL1 (s.eventServed i) a (s.frameKey a.part a.line) r

/-- What a served event leaves: the grant, the answer, and after a snoop the host's write. -/
def grantedTo (s : State) (i : Instr) (ev : Nat) (a : SliceAccess) (r : Reply) : State :=
  let t := (granted s i a r).answerTo a.who (a.line * 128) true r.grant r.data
  if ev = 11 then hostFollows t a else t

/-- An event that is admitted. -/
def arrives (s : State) (i : Instr) (ev : Nat) (a : SliceAccess) : State :=
  let lk := lineKey a.part a.line a.view
  let t := handedOver s ev a
  if !s.eventTurn lk i then s.eventWaits lk i (.line lk)
  else
    match t.crossed ev a with
    | some b => ackBusy ((t.eventServed i).countCross a.part a.line) lk b (requesterBit a.who) (some a.data)
    | none =>
      match sliceEvent t (reqFrom t a) ev a.data a.mask with
      | .ok t r => grantedTo t i ev a r
      | .stop t w => if !w.fatal then t.eventWaits lk i w else refusedTo (t.eventServed i) a

theorem sliceRow_eq (s : State) (i : Instr) (ev : Nat) (a : SliceAccess) :
    sliceRow s i ev a = match a.who with
      | .peer l =>
        if (s.link l).state != 2 then s.eventServed i
        else
          if s.servesPeer a && (s.link l).bound = a.part && (s.part a.part).req.getLsbD (17 + l) then arrives s i ev a else refusePeer s a l
      | _ => arrives s i ev a := rfl

theorem sliceRow_admitted {s : State} {a : SliceAccess} (reach : mayReach s a) (i : Instr) (ev : Nat) :
    sliceRow s i ev a = arrives s i ev a := by
  rw [sliceRow_eq]
  split
  next l hw =>
    obtain ⟨up, bound, port, region⟩ := reach l hw
    have serves : s.servesPeer a = true := by rcases region with e | e <;> simp [State.servesPeer, e]
    simp [up, bound, port, serves]
  next => rfl

section
variable {s t : State} {i : Instr} {ev : Nat} {a : SliceAccess} (quiet : slicesQuiet s)
include quiet

/-- With no transition under way and nobody waiting, an event is its slice's at once. -/
theorem arrives_quiet :
    arrives s i ev a = match sliceEvent (handedOver s ev a) (reqFrom (handedOver s ev a) a) ev a.data a.mask with
      | .ok t r => grantedTo t i ev a r
      | .stop t w => if !w.fatal then t.eventWaits (lineKey a.part a.line a.view) i w else refusedTo (t.eventServed i) a := by
  obtain ⟨busy, waiters, -, -⟩ := quiet
  have turn : s.eventTurn (lineKey a.part a.line a.view) i = true := by simp [State.eventTurn, State.waitingEvents, waiters]
  have idle : (handedOver s ev a).crossed ev a = none := by
    rw [handedOver_eq]
    unfold State.crossed
    split <;> simp [busy]
  simp only [arrives, turn, idle]
  rfl

variable (reach : mayReach s a)
include reach

theorem exec_served (hi : (i, ev) ∈ sliceInstrs a) {r : Reply}
    (h : sliceEvent (handedOver s ev a) (reqFrom (handedOver s ev a) a) ev a.data a.mask = .ok t r) :
    exec i s = .next (grantedTo t i ev a r) := by
  rw [exec_sliceInstrs hi, sliceRow_admitted reach, arrives_quiet quiet, h]

theorem exec_refused (hi : (i, ev) ∈ sliceInstrs a) {w : Stop} (hw : w.fatal = true)
    (h : sliceEvent (handedOver s ev a) (reqFrom (handedOver s ev a) a) ev a.data a.mask = .stop t w) :
    exec i s = .next (refusedTo (t.eventServed i) a) := by
  rw [exec_sliceInstrs hi, sliceRow_admitted reach, arrives_quiet quiet, h]
  simp [hw]

end

/-! The event at the slice. -/

section
variable {s : State} {q : Req} {ev : Nat} {l : L2Line}

/-- A line that the L2 holds, and that no transition, flip or migration and no earlier event keeps from this one, is hit. -/
theorem sliceEvent_hit (quiet : slicesQuiet s) (sound : notLost s q.part (q.line * 128))
    (held : Tbl.find? s.caches.l2 (lineKey q.part q.line q.view) = some l) (data : LineData) (mask : ByteMask) :
    sliceEvent s q ev data mask = sliceHit s q ev mask (lineKey q.part q.line q.view) (s.home q.part (q.line * 128)) l
      ((s.part q.part).protoAt (q.line * 128))
      { part := q.part, line := q.line, view := q.view, who := q.who, data := data, mask := mask } := by
  obtain ⟨busy, waiters, migration, flip⟩ := quiet
  have first (k : Nat) : s.behind k ev q.who = false := by simp [State.behind, State.firstWaiter, waiters]
  have moves : s.migrating q.part q.line = false := by simp [State.migrating, migration]
  have stalls : s.stalls q = false := by simp [State.stalls, State.flipping, flip]
  have kept : ¬(s.region q.part (q.line * 128) = .unbacked ∧ (s.home q.part (q.line * 128)).slice ∈ (s.part q.part).lostAll) :=
    fun k => sound k.1 k.2
  have alive : (s.region q.part (q.line * 128) = .unbacked && (s.part q.part).lostAll.contains (s.home q.part (q.line * 128)).slice) = false := by
    simpa using kept
  simp only [sliceEvent, busy, Tbl.find?_nil, sliceOpen, first, moves, stalls, alive, held]
  rfl

variable {mask : ByteMask} {lk : Nat} {h : Home} {prog : Proto} {a : SliceAccess} (backed : l.unb = none)
include backed

theorem sliceHit_refused (hf : (prog.entry l.state ev).fault = true) :
    sliceHit s q ev mask lk h l prog a = refuseEvent s h (q.line * 128) := by
  simp [sliceHit, backed, hf]

theorem sliceHit_plain (hf : (prog.entry l.state ev).fault = false) (fill : (prog.entry l.state ev).fill = false) :
    sliceHit s q ev mask lk h l prog a = runTrans (touchL2 s l.slice l.set l.way) lk l ev (prog.entry l.state ev) prog a none := by
  have same : { l with unb := none } = l := by rw [← backed]
  simp [sliceHit, backed, hf, fillFor, fill, Res.bind, same]

end

/-! The transition (R74). -/

/-- The data of the line after a transition without FILL that no owner answers. -/
def mergedData (l : L2Line) (t : Trans) (a : SliceAccess) : LineData := if t.merge then mergeLine l.data a.data a.mask else l.data

/-- The line with that data. -/
def mergedLine (l : L2Line) (t : Trans) (a : SliceAccess) : L2Line := { l with data := mergedData l t a }

section
variable {l : L2Line} {t : Trans}

/-- There is nobody to probe. -/
theorem probeTargets_alone (alone : l.sharers = 0 ∧ l.owner = 31) : probeTargets l t = [] := by
  unfold probeTargets
  simp only [alone.1, alone.2]
  split <;> simp

theorem probesIf_alone (alone : l.sharers = 0 ∧ l.owner = 31) (s : State) (on : Bool) (kind : Nat) (who : Requester) (upd : LineData) :
    probesIf s on l t kind who upd = (s, none, []) := by
  rw [probesIf, probeTargets_alone alone]
  cases on <;> rfl

theorem runTrans_alone (alone : l.sharers = 0 ∧ l.owner = 31) (hf : t.fault = false) (s : State) (lk ev : Nat) (q : Proto)
    (a : SliceAccess) :
    runTrans s lk l ev t q a none = .ok (finishTrans s lk (mergedLine l t a) t ev a.who q).1
      (finishTrans s lk (mergedLine l t a) t ev a.who q).2 := by
  have data : transData l t a none none = mergedData l t a := by simp [transData, mergedData]
  have later : probesIf s (t.probe != 0 && t.pkind = 2) (mergedLine l t a) t 2 a.who (mergedData l t a) = (s, none, []) :=
    probesIf_alone (l := mergedLine l t a) alone ..
  have uncounted : countXfer s l t none = s := by simp [countXfer]
  rw [runTrans_eq]
  simp only [mergedLine] at later ⊢
  simp [hf, probesIf_alone alone, uncounted, data, later]

end

/-- Memory once WBM, if the entry has it, has written the line back. -/
def writtenBack (s : State) (l : L2Line) (t : Trans) : State := if t.wbm then writeBack s l else s

theorem writeBack_caches (s : State) (l : L2Line) : (writeBack s l).caches = s.caches := by
  have lines (u : State) (base : Nat) (bs : List Byte) (n : Nat) : (u.writeLocalBytes l.part base l.key bs n).caches = u.caches := by
    induction n with
    | zero => rfl
    | succ n ih => exact ih
  unfold writeBack
  split
  · dsimp only
    split
    · unfold State.writeBlock
      split
      exact lines ..
    · rfl
  · rfl
  · rfl

theorem writtenBack_caches (s : State) (l : L2Line) (t : Trans) : (writtenBack s l t).caches = s.caches := by
  unfold writtenBack
  split
  · exact writeBack_caches ..
  · rfl

/-- Steps 5 to 9 of R74 for a backed line that nobody held. -/
theorem finishTrans_alone {l : L2Line} (alone : l.sharers = 0 ∧ l.owner = 31) (backed : l.unb = none) (s : State) (lk : Nat) (t : Trans)
    (ev : Nat) (who : Requester) (q : Proto) :
    finishTrans s lk l t ev who q =
      (if t.drop = true ∨ t.next = 0 then (writtenBack s l t).delL2 lk
        else (writtenBack s l t).setL2 lk { l with sharers := sharersAfter t who, owner := ownerAfter t who, state := t.next }
      , { grant := t.grant, data := l.data }) := by
  have sharers : (if (t.addsh || t.setown) && requesterBit who < 20 then (if t.clrsh then 0 else l.sharers) ||| BitVec.twoPow 20 (requesterBit who)
      else if t.clrsh then 0 else l.sharers) = sharersAfter t who := by
    simp [sharersAfter, alone.1]
  have owner : (if t.clrown then 31 else if t.setown then requesterBit who else l.owner) = ownerAfter t who := by
    rw [ownerAfter, alone.2]
    cases t.clrown <;> cases t.setown <;> rfl
  have leaves : ((t.drop && (l.unb.isNone || ev = 15)) || (t.next = 0 && !t.drop && l.unb.isNone)) = decide (t.drop = true ∨ t.next = 0) := by
    rw [backed]
    cases t.drop <;> simp
  unfold finishTrans
  simp only [sharers, owner, leaves, decide_eq_true_eq]
  by_cases gone : t.drop = true ∨ t.next = 0
  · rw [if_pos gone, if_pos gone]
    rfl
  · have stays : t.drop = false := Bool.eq_false_iff.mpr fun h => gone (.inl h)
    rw [if_neg gone, if_neg gone]
    simp only [stays, backed]
    rfl

section
variable {s : State} {l : L2Line} {lk : Nat} {t : Trans} {ev : Nat} {who : Requester} {q : Proto} (alone : l.sharers = 0 ∧ l.owner = 31)
  (backed : l.unb = none)
include alone backed

theorem finishTrans_reply : (finishTrans s lk l t ev who q).2 = { grant := t.grant, data := l.data } := by
  rw [finishTrans_alone alone backed]

theorem finishTrans_l1 : (finishTrans s lk l t ev who q).1.caches.l1 = s.caches.l1 := by
  rw [finishTrans_alone alone backed]
  dsimp only
  rw [← writtenBack_caches s l t]
  split <;> rfl

theorem finishTrans_l2_other {k : Nat} (hk : k ≠ lk) :
    Tbl.find? (finishTrans s lk l t ev who q).1.caches.l2 k = Tbl.find? s.caches.l2 k := by
  rw [finishTrans_alone alone backed, ← writtenBack_caches s l t]
  dsimp only
  split
  · exact Tbl.find?_del_other _ hk
  · exact Tbl.find?_put_other _ _ hk

theorem finishTrans_l2_same (once : (s.caches.l2.map (·.1)).Nodup) :
    Tbl.find? (finishTrans s lk l t ev who q).1.caches.l2 lk = if t.drop = true ∨ t.next = 0 then none else
      some { l with sharers := sharersAfter t who, owner := ownerAfter t who, state := t.next } := by
  rw [finishTrans_alone alone backed]
  rw [← writtenBack_caches s l t] at once
  dsimp only
  split
  · exact Tbl.find?_del_same once _
  · exact Tbl.find?_put_same ..

theorem finishTrans_mem : (finishTrans s lk l t ev who q).1.mem = (writtenBack s l t).mem := by
  rw [finishTrans_alone alone backed]
  dsimp only
  split <;> rfl

end

theorem toBytes_line_getD (d : LineData) {i : Nat} (hi : i < 128) : (toBytes 128 d.toNat).getD i 0 = lineByte d i := by
  rw [toBytes_getD _ hi]
  refine BitVec.eq_of_toNat_eq ?_
  rw [lineByte, BitVec.extractLsb'_toNat, BitVec.toNat_ofNat, Nat.shiftRight_eq_div_pow, Nat.pow_mul]

/-- A plain line of local memory is written back to its home (R47, R56). -/
theorem byteAt_writeBack {s : State} {l : L2Line} (wf : s.wf) (here : s.region l.part (l.line * 128) = .local) (plain : l.view = false)
    (p : Nat) :
    let base := (s.home l.part (l.line * 128)).dpa / 128 * 128
    (writeBack s l).byteAt p = if base ≤ p ∧ p < base + 128 then lineByte l.data (p - base) else s.byteAt p := by
  intro base
  have mem : (writeBack s l).mem = writeCells s.mem base (toBytes 128 l.data.toNat) := by
    unfold writeBack
    simp only [here, plain]
    rfl
  rw [State.byteAt, mem]
  split
  next h =>
    have hi : p - base < (toBytes 128 l.data.toNat).length := by rw [toBytes_length]; omega
    conv_lhs => rw [show p = base + (p - base) by omega]
    rw [readCell_writeCells wf.1 _ hi, ← toBytes_line_getD _ (by omega), List.getD_eq_getElem _ _ hi]
  next h => exact readCell_writeCells_other wf.1 _ (by rw [toBytes_length]; omega)

/-! The grant (R66). -/

/-- A set of an L1 with fewer than four lines has a way free. -/
theorem installL1_room {s : State} {part core : Nat} {x : L1Line} (room : (s.l1Set core (x.line % 128)).length < 4) :
    ∃ w, installL1 s part core x = .ok (touchL1 (s.setL1 (lineKey core x.line x.view) { x with way := w }) core x.line w) () := by
  let taken := (s.l1Set core (x.line % 128)).map (·.2.way)
  have free : ((List.range 4).find? fun w => (s.l1Set core (x.line % 128)).all fun e => e.2.way != w).isSome = true := by
    rw [List.find?_isSome]
    by_contra none
    have all : List.range 4 ⊆ taken := fun w hw => by
      by_contra hn
      exact none ⟨w, hw, List.all_eq_true.mpr fun e he => bne_iff_ne.mpr fun e' => hn (e' ▸ List.mem_map_of_mem he)⟩
    have := (List.nodup_range.subperm all).length_le
    rw [List.length_range, List.length_map] at this
    omega
  obtain ⟨w, hw⟩ := Option.isSome_iff_exists.mp free
  exact ⟨w, by rw [installL1]; simp only [hw]⟩

section
variable {s : State} {a : SliceAccess} {key : Nat} {r : Reply}

theorem grantL1_none (h : (∀ core, a.who ≠ .l1 core) ∨ r.grant = 0) : grantL1 s a key r = s := by
  unfold grantL1
  split
  next core hw => exact if_pos (h.resolve_left fun none => none core hw)
  next => rfl

theorem grantL1_granted {core : Nat} (hw : a.who = .l1 core) (hr : r.grant ≠ 0) (room : (s.l1Set core (a.line % 128)).length < 4) :
    ∃ x w, x.data = r.data ∧ x.perm = permOf r.grant ∧ x.dirty = 0 ∧ x.valid = BitVec.allOnes 128 ∧ x.line = a.line ∧ x.core = core
      ∧ grantL1 s a key r = touchL1 (s.setL1 (lineKey core a.line a.view) x) core a.line w := by
  let q : Req := { part := a.part, line := a.line, view := a.view, key := key, who := a.who, answer := none, keep := [] }
  obtain ⟨w, installed⟩ := installL1_room (part := a.part) (x := freshL1 core q r.data (permOf r.grant)) room
  refine ⟨{ freshL1 core q r.data (permOf r.grant) with way := w }, w, rfl, rfl, rfl, rfl, rfl, rfl, ?_⟩
  unfold grantL1
  simp only [hw, hr, if_false]
  simp only [q, hw] at installed
  rw [installed]
  rfl

/-- Of the caches' lines, a grant changes the one of the requester alone. -/
theorem grantL1_kept (room : ∀ core, a.who = .l1 core → (s.l1Set core (a.line % 128)).length < 4) :
    (grantL1 s a key r).caches.l2 = s.caches.l2 ∧ (grantL1 s a key r).mem = s.mem
      ∧ ∀ k, (∀ core, a.who = .l1 core → k ≠ lineKey core a.line a.view) →
          Tbl.find? (grantL1 s a key r).caches.l1 k = Tbl.find? s.caches.l1 k := by
  by_cases h : (∀ core, a.who ≠ .l1 core) ∨ r.grant = 0
  · rw [grantL1_none h]
    exact ⟨rfl, rfl, fun _ _ => rfl⟩
  · push Not at h
    obtain ⟨⟨core, hw⟩, hr⟩ := h
    obtain ⟨x, w, -, -, -, -, -, -, e⟩ := grantL1_granted (key := key) hw hr (room core hw)
    rw [e]
    exact ⟨rfl, rfl, fun k hk => Tbl.find?_put_other _ _ (hk core hw)⟩

end

/-! What a served event leaves. -/

theorem hostFollows_caches (s : State) (a : SliceAccess) :
    (hostFollows s a).caches.l1 = s.caches.l1 ∧ (hostFollows s a).caches.l2 = s.caches.l2 := by
  unfold hostFollows
  dsimp only
  split
  · exact ⟨rfl, rfl⟩
  · split <;> exact ⟨rfl, rfl⟩

theorem hostFollows_unmasked (s : State) {a : SliceAccess} (h : a.mask = 0) : hostFollows s a = s := if_pos h

section
variable (t : State) (i : Instr) (ev : Nat) (a : SliceAccess) (r : Reply)

/-- What follows the grant changes no line of the caches. -/
theorem grantedTo_caches :
    (grantedTo t i ev a r).caches.l1 = (granted t i a r).caches.l1 ∧ (grantedTo t i ev a r).caches.l2 = (granted t i a r).caches.l2 := by
  have answered := answerTo_storeKept (granted t i a r) a.who (a.line * 128) true r.grant r.data
  unfold grantedTo
  dsimp only
  split
  · obtain ⟨l1, l2⟩ := hostFollows_caches ((granted t i a r).answerTo a.who (a.line * 128) true r.grant r.data) a
    exact ⟨l1.trans answered.l1, l2.trans answered.l2⟩
  · exact ⟨answered.l1, answered.l2⟩

theorem grantedTo_mem (h : ev = 11 → a.mask = 0) : (grantedTo t i ev a r).mem = (granted t i a r).mem := by
  have answered := answerTo_storeKept (granted t i a r) a.who (a.line * 128) true r.grant r.data
  unfold grantedTo
  dsimp only
  split
  next snoop =>
    rw [hostFollows_unmasked _ (h snoop)]
    exact answered.mem
  next => exact answered.mem

end

/-! An event of a line that nobody else holds. -/

/-- The entry of the line's program for an event (R71). -/
def entryFor (s : State) (a : SliceAccess) (l : L2Line) (ev : Nat) : Trans := ((s.part a.part).protoAt (a.line * 128)).entry l.state ev

/-- The transition of an event by the program's entry, and its reply. -/
def performed (s : State) (ev : Nat) (a : SliceAccess) (l : L2Line) : State × Reply :=
  finishTrans (touchL2 (handedOver s ev a) l.slice l.set l.way) (lineKey a.part a.line a.view)
    (mergedLine l (entryFor s a l ev) a) (entryFor s a l ev) ev a.who ((s.part a.part).protoAt (a.line * 128))

section
variable {s : State} {i : Instr} {ev : Nat} {a : SliceAccess} {l : L2Line} (quiet : slicesQuiet s) (h : HeldAlone s a l)
include quiet h

theorem sliceEvent_handedOver :
    sliceEvent (handedOver s ev a) (reqFrom (handedOver s ev a) a) ev a.data a.mask
      = sliceHit (handedOver s ev a) (reqFrom (handedOver s ev a) a) ev a.mask (lineKey a.part a.line a.view)
          (s.home a.part (a.line * 128)) l ((s.part a.part).protoAt (a.line * 128)) a := by
  have only := handedOver_eq s ev a
  have home : (handedOver s ev a).home = s.home := by rw [only]; rfl
  have part : (handedOver s ev a).part = s.part := by rw [only]; rfl
  have served : slicesQuiet (handedOver s ev a) := by rw [only]; exact quiet
  have sound : notLost (handedOver s ev a) a.part (a.line * 128) := by rw [only]; exact h.sound
  have held : Tbl.find? (handedOver s ev a).caches.l2 (lineKey a.part a.line a.view) = some l := by rw [only]; exact h.held
  rw [sliceEvent_hit (q := reqFrom (handedOver s ev a) a) served sound held, home, part]
  rfl

variable (hi : (i, ev) ∈ sliceInstrs a) (reach : mayReach s a)
include hi reach

/-- FAULT drops the access and counts it (R82, R88). -/
theorem exec_faulted (hf : (entryFor s a l ev).fault = true) :
    ∃ u, exec i s = .next u ∧ u.caches.l1 = handedOverL1 s ev a ∧ u.caches.l2 = s.caches.l2 ∧ u.mem = s.mem
      ∧ (u.portCount (s.home a.part (a.line * 128)).port).wofault
        = sat32 (s.portCount (s.home a.part (a.line * 128)).port).wofault := by
  have stop := (sliceEvent_handedOver (ev := ev) quiet h).trans (sliceHit_refused h.backed hf)
  refine ⟨_, exec_refused quiet reach hi rfl stop, ?_⟩
  obtain ⟨kept, ports⟩ := refusedTo_kept (((handedOver s ev a).count (s.home a.part (a.line * 128)).port fun c =>
    { c with wofault := sat32 c.wofault }).eventServed i) a
  rw [State.portCount, ports, kept.l1, kept.l2, kept.mem, handedOver_eq]
  exact ⟨rfl, rfl, rfl, congrArg PortCount.wofault (Tbl.getD_put_same ..)⟩

/-- Otherwise the entry's transition is performed, and its grant is given (R74). -/
theorem exec_performed (hf : (entryFor s a l ev).fault = false) (fill : (entryFor s a l ev).fill = false) :
    exec i s = .next (grantedTo (performed s ev a l).1 i ev a (performed s ev a l).2) := by
  refine exec_served quiet reach hi ?_
  rw [sliceEvent_handedOver quiet h, sliceHit_plain h.backed hf fill]
  exact runTrans_alone h.alone hf ..

end

end Sys2Proof.Machine
end

section
/-! SUPPORT. The protocol programs (R71 to R81): what a program that passes the checker keeps (Table 3.6), and the programs of the ROM. -/

namespace Sys2Proof.Machine

theorem entryRule_of_passes {q : Proto} (h : q.firstBroken = none) {st ev : Nat} (hs : st < q.attr.length) (he : ev < 16) :
    q.entryRule st ev = none := by
  rw [Proto.firstBroken, List.findSome?_eq_none_iff] at h
  have pair : (st, ev) ∈ (List.range q.attr.length).flatMap fun st => (List.range 16).map fun ev => (st, ev) := by simp [hs, he]
  have none := h (st, ev) pair
  rwa [Option.map_eq_none_iff] at none

/-- What rules 3 to 5 of Table 3.6 ask of an entry `t` of state `st` under event `ev`; of rule 5, the part on owned states as log 81 reads
it. -/
structure KeepsRules (q : Proto) (st ev : Nat) (t : Trans) : Prop where
  next : t.next < q.attr.length
  codes : t.probe ≠ 3 ∧ t.pkind ≠ 3
  drop : t.drop = true → t.next = 0
  exclusive : t.grant = 2 → t.clrsh = true ∧ t.setown = true ∧ q.owned t.next = true
  invalidates : t.grant = 2 → st ≠ 0 → t.pkind = 0 ∧ t.probe = if q.owned st then 1 else 2
  written : q.dirty st = true → q.dirty t.next = false → t.wbm = true ∨ ev = 15
  granted : q.owned t.next = true → t.next ≠ st → t.grant = 2
  ownerData : q.owned st = true → t.next ≠ st → ev ≠ 3 → ev ≠ 8 → ev ≠ 4 → ev ≠ 15 → t.pdata = true ∧ t.probe = 1

theorem keepsRules_of_entryRule {q : Proto} {st ev : Nat} (h : q.entryRule st ev = none) : KeepsRules q st ev (q.entry st ev) := by
  simp only [Proto.entryRule, ite_eq_iff, reduceCtorEq, and_false, false_or, and_true] at h
  change _ ∧ _ at h
  rw [show Trans.ofWord (q.trans.getD (16 * st + ev) 0) = q.entry st ev from rfl] at h
  generalize q.entry st ev = t at h
  obtain ⟨-, rule3, rule4, rule5⟩ := h
  simp only [Bool.or_eq_true, Bool.and_eq_true, Bool.not_eq_true', not_or, decide_eq_true_eq, beq_iff_eq, bne_iff_ne] at rule3 rule4 rule5
  obtain ⟨⟨⟨⟨next, probe⟩, pkind⟩, -⟩, -⟩ := rule3
  obtain ⟨⟨⟨exclusive, invalidates⟩, -⟩, granted⟩ := rule4
  obtain ⟨⟨⟨ownerData, -⟩, written⟩, drop⟩ := rule5
  refine ⟨by omega, ⟨probe, pkind⟩, by grind, by grind, by grind, by grind, by grind, by grind⟩

theorem romPrograms_pass : ∀ q ∈ [protoINV, protoUPD, protoMIG, protoWONCE], q.firstBroken = none ∧ q.parking = some 2 := by decide +kernel

/-- Rows RD, RDX, WRS, VIC and DSC of a clean and of a dirty line that nobody owns (Table 3.7). -/
theorem protoINV_unowned : ∀ st ∈ [1, 2],
    (protoINV.entry st 0).grant = 1 ∧ (protoINV.entry st 0).addsh = true ∧ (protoINV.entry st 0).next = st
      ∧ (protoINV.entry st 1).grant = 2 ∧ (protoINV.entry st 1).next = 3 ∧ (protoINV.entry st 6).merge = true
      ∧ (protoINV.entry st 6).next = 2 ∧ (protoINV.entry st 15).drop = true ∧ (protoINV.entry st 15).wbm = false
      ∧ ((protoINV.entry st 12).wbm = true ↔ st = 2) := by decide +kernel

theorem protoUPD_rdx : ∀ st < 4, (protoUPD.entry st 1).grant = 3 := by decide +kernel

/-- MIG is INV with RD taking the row of RDX (R79). -/
theorem protoMIG_entry : ∀ st < 4, ∀ ev < 16, protoMIG.entry st ev = protoINV.entry st (if ev = 0 then 1 else ev) := by decide +kernel

/-- WONCE refuses a second write (R81). -/
theorem protoWONCE_refuses : ∀ st ∈ [2, 3, 4], ∀ ev ∈ [1, 2, 6, 10], (protoWONCE.entry st ev).fault = true := by decide +kernel

end Sys2Proof.Machine
end

section
/-! Transitions at a home slice, and the programs of the ROM (O44). -/

namespace Sys2Proof.Machine

section
variable {s : State} {i : Instr} {ev : Nat} {a : SliceAccess} {l : L2Line} (h : HeldAlone s a l)
include h

/-! The transition. -/

theorem performed_l1 : (performed s ev a l).1.caches.l1 = handedOverL1 s ev a := by
  rw [performed, finishTrans_l1 (l := mergedLine l _ a) h.alone h.backed, handedOver_eq]
  rfl

theorem performed_other {k : Nat} (hk : k ≠ lineKey a.part a.line a.view) :
    Tbl.find? (performed s ev a l).1.caches.l2 k = Tbl.find? s.caches.l2 k := by
  rw [performed, finishTrans_l2_other (l := mergedLine l _ a) h.alone h.backed hk, handedOver_eq]
  rfl

/-- The line after the transition. -/
theorem performed_same :
    let t := entryFor s a l ev
    Tbl.find? (performed s ev a l).1.caches.l2 (lineKey a.part a.line a.view) = if t.drop = true ∨ t.next = 0 then none else
      some { l with data := mergedData l t a, sharers := sharersAfter t a.who, owner := ownerAfter t a.who, state := t.next } := by
  have once : ((touchL2 (handedOver s ev a) l.slice l.set l.way).caches.l2.map (·.1)).Nodup := by
    rw [handedOver_eq]
    exact h.once
  rw [performed, finishTrans_l2_same (l := mergedLine l _ a) h.alone h.backed once]
  rfl

theorem performed_reply :
    (performed s ev a l).2 = { grant := (entryFor s a l ev).grant, data := mergedData l (entryFor s a l ev) a } := by
  rw [performed, finishTrans_reply (l := mergedLine l _ a) h.alone h.backed]
  rfl

/-- Only WBM writes memory. -/
theorem performed_unwritten (hw : (entryFor s a l ev).wbm = false) : (performed s ev a l).1.mem = s.mem := by
  rw [performed, finishTrans_mem (l := mergedLine l _ a) h.alone h.backed, writtenBack, if_neg (by simp [hw]), handedOver_eq]
  rfl

theorem performed_written (hw : (entryFor s a l ev).wbm = true) (wf : s.wf) (here : s.region a.part (a.line * 128) = .local)
    (plain : a.view = false) (p : Nat) :
    let base := (s.home a.part (a.line * 128)).dpa / 128 * 128
    (performed s ev a l).1.byteAt p =
      if base ≤ p ∧ p < base + 128 then lineByte (mergedData l (entryFor s a l ev) a) (p - base) else s.byteAt p := by
  obtain ⟨part, line, view⟩ := h.name
  let u := s.setCaches { s.caches with l1 := handedOverL1 s ev a }
  have here' : (touchL2 u l.slice l.set l.way).region l.part (l.line * 128) = .local := by rw [part, line]; exact here
  have mem : (performed s ev a l).1.mem = (writeBack (touchL2 u l.slice l.set l.way) (mergedLine l (entryFor s a l ev) a)).mem := by
    rw [performed, finishTrans_mem (l := mergedLine l _ a) h.alone h.backed, writtenBack, if_pos hw, handedOver_eq]
  have written := byteAt_writeBack (s := touchL2 u l.slice l.set l.way) (l := mergedLine l (entryFor s a l ev) a) wf here' (view.trans plain) p
  rw [show (mergedLine l (entryFor s a l ev) a).part = a.part from part, show (mergedLine l (entryFor s a l ev) a).line = a.line from line]
    at written
  rw [State.byteAt, mem]
  exact written

end

/-! The state after the event. -/

/-- The transition performed, and its grant given. -/
def afterEvent (s : State) (i : Instr) (ev : Nat) (a : SliceAccess) (l : L2Line) : State :=
  grantedTo (performed s ev a l).1 i ev a (performed s ev a l).2

section
variable {s : State} {i : Instr} {ev : Nat} {a : SliceAccess} {l : L2Line} (h : HeldAlone s a l)
include h

theorem served_l1 : ((performed s ev a l).1.eventServed i).caches.l1 = handedOverL1 s ev a := performed_l1 h

theorem afterEvent_ungranted (hg : (entryFor s a l ev).grant = 0) : (afterEvent s i ev a l).caches.l1 = handedOverL1 s ev a := by
  rw [afterEvent, (grantedTo_caches ..).1, granted, grantL1_none (.inr (by rw [performed_reply h]; exact hg)), served_l1 h]

variable (room : ∀ core, a.who = .l1 core → (s.l1Set core (a.line % 128)).length < 4)
include room

/-- The set of the requester's L1 has room when the grant is given. -/
theorem served_room (core : Nat) (hw : a.who = .l1 core) : (((performed s ev a l).1.eventServed i).l1Set core (a.line % 128)).length < 4 := by
  rw [State.l1Set, served_l1 h]
  exact (((handedOverL1_sublist s ev a).filter _).length_le).trans_lt (room core hw)

theorem afterEvent_granted {core : Nat} (hw : a.who = .l1 core) (hg : (entryFor s a l ev).grant ≠ 0) :
    ∃ x, Tbl.find? (afterEvent s i ev a l).caches.l1 (lineKey core a.line a.view) = some x ∧ x.data = mergedData l (entryFor s a l ev) a
      ∧ x.perm = permOf (entryFor s a l ev).grant ∧ x.dirty = 0 ∧ x.valid = BitVec.allOnes 128 ∧ x.line = a.line ∧ x.core = core := by
  obtain ⟨x, w, hd, hp, dirty, valid, line, hc, e⟩ := grantL1_granted (key := (performed s ev a l).1.frameKey a.part a.line)
    (r := (performed s ev a l).2) hw (by rw [performed_reply h]; exact hg) (served_room (i := i) h room core hw)
  rw [performed_reply h] at hd hp
  refine ⟨x, ?_, hd, hp, dirty, valid, line, hc⟩
  rw [afterEvent, (grantedTo_caches ..).1, granted, e]
  exact Tbl.find?_put_same ..

theorem afterEvent_l1_other {k : Nat} (hk : ∀ core, a.who = .l1 core → k ≠ lineKey core a.line a.view) :
    Tbl.find? (afterEvent s i ev a l).caches.l1 k = Tbl.find? s.caches.l1 k := by
  rw [afterEvent, (grantedTo_caches ..).1, granted, (grantL1_kept (served_room h room)).2.2 k hk, served_l1 h, handedOverL1_other s ev hk]

theorem afterEvent_l2 : (afterEvent s i ev a l).caches.l2 = (performed s ev a l).1.caches.l2 := by
  rw [afterEvent, (grantedTo_caches ..).2, granted, (grantL1_kept (served_room h room)).1]
  rfl

/-- The host's write behind a snoop apart, memory is as the transition leaves it. -/
theorem afterEvent_byteAt (hm : ev = 11 → a.mask = 0) (p : Nat) : (afterEvent s i ev a l).byteAt p = (performed s ev a l).1.byteAt p := by
  rw [State.byteAt, afterEvent, grantedTo_mem _ _ _ _ _ hm, granted, (grantL1_kept (served_room h room)).2.1]
  rfl

end

/-- Settles O44: with nobody to wait for and nobody to probe an event is its entry (`exec_faulted`, `exec_performed`); an entry of a program that
passes the checker breaks no rule (`keepsRules_of_entryRule`); the rows of the ROM are evaluated. -/
theorem coherenceTransitions : Obligations.CoherenceTransitions := by
  unfold Obligations.CoherenceTransitions
  refine ⟨?_, romPrograms_pass, ?_, ?_, ?_⟩
  · intro a s l i ev hi quiet wf h reach q t fill lk data copies port
    refine ⟨fun fault => ?_, fun fault space => ?_⟩
    · obtain ⟨u, hu, l1, l2, mem, count⟩ := exec_faulted quiet h hi reach fault
      exact ⟨u, hu, by rw [l2, h.held], fun k hk => by rw [l1, handedOverL1_other s ev hk], fun p => by rw [State.byteAt, mem]; rfl, count⟩
    · have room (core : Nat) (hw : a.who = .l1 core) := (space core hw).1
      refine ⟨afterEvent s i ev a l, exec_performed quiet h hi reach fault fill, fun k hk => afterEvent_l1_other h room hk, fun k hk => ?_, ?_,
        fun core hw hg => afterEvent_granted h room hw hg, fun core hw hg hev => ?_, fun hm hw p => ?_, fun hm hw here plain p => ?_⟩
      · rw [afterEvent_l2 h room, performed_other h hk]
      · rw [afterEvent_l2 h room]
        exact performed_same h
      · rw [afterEvent_ungranted h hg]
        exact handedOverL1_gone hw (space core hw).2 hev
      · rw [afterEvent_byteAt h room hm, State.byteAt, performed_unwritten h hw]
        rfl
      · rw [afterEvent_byteAt h room hm]
        exact performed_written h hw wf here plain p
  · intro q st ev hq hs he t
    have rules := keepsRules_of_entryRule (entryRule_of_passes hq hs he)
    exact ⟨rules.next, rules.codes.1, rules.codes.2, rules.drop, rules.exclusive, rules.invalidates, rules.written, rules.granted,
      rules.ownerData⟩
  · intro st h1 h2
    exact protoINV_unowned st (by rw [List.mem_pair]; omega)
  · exact ⟨by decide +kernel, by decide +kernel, by decide +kernel, by decide +kernel,
      fun st hs => ⟨protoUPD_rdx st hs, rfl, protoMIG_entry st hs⟩, protoWONCE_refuses⟩

end Sys2Proof.Machine
end

section
/-! SUPPORT. What becomes of the lines and the translations of an unbacked page that goes elsewhere (R102 steps 6 and 7, R109 steps 6 and 7),
and the fields of a word that is written. -/

namespace Sys2Proof.Machine

/-! Fields of a word. -/

theorem fld_setFld_same {w : Nat} (x : BitVec w) {lo len n : Nat} (h : lo + len ≤ w) : fld (setFld x lo len n) lo len = n % 2 ^ len := by
  rw [fld_extractLsb', extractLsb'_setFld x h, BitVec.toNat_ofNat]

theorem fld_setFld_apart {w : Nat} (x : BitVec w) {lo len n lo' len' : Nat} (h : lo' + len' ≤ w)
    (apart : lo' + len' ≤ lo ∨ lo + len ≤ lo') : fld (setFld x lo len n) lo' len' = fld x lo' len' := by
  rw [fld_extractLsb', fld_extractLsb', extractLsb'_setFld_other x h apart]

/-! Tables. -/

theorem Tbl.del_nodup {α : Type} {l : List (Nat × α)} (h : (l.map (·.1)).Nodup) (n : Nat) : ((Tbl.del l n).map (·.1)).Nodup :=
  h.sublist ((Tbl.del_sublist l n).map _)

/-- A listed key lies below the fresh one. -/
theorem Tbl.lt_fresh {α : Type} {l : List (Nat × α)} {n : Nat} {x : α} (h : Tbl.find? l n = some x) : n < Tbl.fresh l := by
  induction l with
  | nil => cases h
  | cons p t ih =>
    obtain ⟨k, v⟩ := p
    by_cases e : k = n
    · subst e
      exact lt_max_of_lt_left (Nat.lt_succ_self _)
    · exact lt_max_of_lt_right (ih (by simpa [Tbl.find?, e] using h))

/-! Lines that are released. -/

/-- One line of `releaseLines`. -/
def releaseLine (part : Nat) (s : State) (line : Nat) : State :=
  match Tbl.find? s.caches.l2 (lineKey part line false) with
  | some l => dropUnbacked s (lineKey part line false) l
  | none => dropCopies s part line false false

theorem releaseLines_eq (s : State) (part : Nat) (lines : List Nat) : releaseLines s part lines = lines.foldl (releaseLine part) s := rfl

theorem releaseLine_onlyCaches (part : Nat) (s : State) (line : Nat) :
    releaseLine part s line = { s with caches := (releaseLine part s line).caches } := by
  unfold releaseLine
  split <;> rfl

theorem releaseLine_l2 (part : Nat) (s : State) (line : Nat) :
    (releaseLine part s line).caches.l2 = Tbl.del s.caches.l2 (lineKey part line false) ∨ (releaseLine part s line).caches.l2 = s.caches.l2 := by
  unfold releaseLine
  split
  · exact .inl rfl
  · exact .inr rfl

theorem releaseLine_nodup (part : Nat) {s : State} (once : (s.caches.l2.map (·.1)).Nodup) (line : Nat) :
    ((releaseLine part s line).caches.l2.map (·.1)).Nodup := by
  rcases releaseLine_l2 part s line with e | e <;> rw [e]
  · exact Tbl.del_nodup once _
  · exact once

theorem releaseLine_gone (part : Nat) {s : State} (once : (s.caches.l2.map (·.1)).Nodup) (line : Nat) :
    Tbl.find? (releaseLine part s line).caches.l2 (lineKey part line false) = none := by
  unfold releaseLine
  split
  case h_1 => exact Tbl.find?_del_same once _
  case h_2 absent => exact absent

/-- What is not in the L2 stays out of it. -/
theorem releaseLine_absent (part : Nat) {s : State} {k : Nat} (absent : Tbl.find? s.caches.l2 k = none) (line : Nat) :
    Tbl.find? (releaseLine part s line).caches.l2 k = none := by
  unfold releaseLine
  split
  case h_1 held =>
    have other : k ≠ lineKey part line false := by
      rintro rfl
      cases absent.symm.trans held
    exact (Tbl.find?_del_other _ other).trans absent
  case h_2 => exact absent

theorem releaseLines_onlyCaches (s : State) (part : Nat) (lines : List Nat) :
    releaseLines s part lines = { s with caches := (releaseLines s part lines).caches } := by
  rw [releaseLines_eq]
  induction lines generalizing s with
  | nil => rfl
  | cons line lines ih =>
    rw [List.foldl_cons, ih, releaseLine_onlyCaches]

theorem releaseLines_mem (s : State) (part : Nat) (lines : List Nat) : (releaseLines s part lines).mem = s.mem := by
  rw [releaseLines_onlyCaches]

theorem releaseLines_groups (s : State) (part : Nat) (lines : List Nat) : (releaseLines s part lines).groups = s.groups := by
  rw [releaseLines_onlyCaches]

theorem releaseLines_absent (part : Nat) {s : State} {k : Nat} (absent : Tbl.find? s.caches.l2 k = none) (lines : List Nat) :
    Tbl.find? (releaseLines s part lines).caches.l2 k = none :=
  List.foldlRecOn (motive := fun s => Tbl.find? s.caches.l2 k = none) lines (releaseLine part) absent
    fun _ absent line _ => releaseLine_absent part absent line

theorem releaseLines_gone (part : Nat) {s : State} (once : (s.caches.l2.map (·.1)).Nodup) {lines : List Nat} {line : Nat}
    (h : line ∈ lines) : Tbl.find? (releaseLines s part lines).caches.l2 (lineKey part line false) = none := by
  induction lines generalizing s with
  | nil => cases h
  | cons x xs ih =>
    rcases List.mem_cons.mp h with rfl | h
    · exact releaseLines_absent part (releaseLine_gone part once line) xs
    · exact ih (releaseLine_nodup part once x) h

theorem mem_pageLines {base size k : Nat} (hb : base % 128 = 0) (hs : size % 128 = 0) (lo : base ≤ k * 128) (hi : k * 128 < base + size) :
    k ∈ pageLines base size :=
  List.mem_map.mpr ⟨k - base / 128, List.mem_range.mpr (by omega), by omega⟩

/-! Translations that are dropped. -/

/-- The translations that core and cluster `c` hold for accesses. -/
def State.tlbs (s : State) (c : Nat) : List TlbEntry := State.tlbOf s.mmu.l1tlb c ++ State.tlbOf s.mmu.l2tlb c

/-- A translation that reaches none of the `size` bytes from `base` on. -/
def TlbEntry.apart (e : TlbEntry) (base size : Nat) : Prop := e.pa + e.size ≤ base ∨ base + size ≤ e.pa

theorem tlbOf_mapVal_filter (t : List (Nat × List TlbEntry)) (keep : TlbEntry → Bool) (c : Nat) :
    State.tlbOf (Tbl.mapVal (fun _ l => l.filter keep) t) c = (State.tlbOf t c).filter keep := by
  unfold State.tlbOf Tbl.getD
  rw [Tbl.find?_mapVal]
  cases Tbl.find? t c <;> rfl

theorem tlbs_dropTlb (s : State) (f : TlbEntry → Bool) (g : Nat × Nat × Nat × W64 → Bool) (c : Nat) :
    (dropTlb s f g).tlbs c = (s.tlbs c).filter fun e => !f e := by
  have l1 := tlbOf_mapVal_filter s.mmu.l1tlb (fun e => !f e) c
  have l2 := tlbOf_mapVal_filter s.mmu.l2tlb (fun e => !f e) c
  exact (congrArg₂ (· ++ ·) l1 l2).trans (List.filter_append ..).symm

/-- The translations that a partition's tenants have of the `size` bytes from `base` on are dropped. -/
def dropPage (s : State) (part base size : Nat) : State :=
  dropTlb s (fun e => e.pa < base + size && base < e.pa + e.size && ((s.tenant? e.tenant).map (·.part)) = some part) fun _ => false

theorem mem_tlbs_dropPage {s : State} {part base size c : Nat} {e : TlbEntry} (h : e ∈ (dropPage s part base size).tlbs c) :
    e ∈ s.tlbs c ∧ ((s.tenant? e.tenant).map (·.part) = some part → e.apart base size) := by
  rw [dropPage, tlbs_dropTlb, List.mem_filter] at h
  obtain ⟨mem, kept⟩ := h
  refine ⟨mem, fun here => ?_⟩
  simp only [here, decide_true, Bool.and_true, Bool.not_eq_true', Bool.and_eq_false_iff, decide_eq_false_iff_not] at kept
  unfold TlbEntry.apart
  omega

end Sys2Proof.Machine
end

section
/-! SUPPORT. Who waits for a late framing, and how they go on when it ends (R102). -/

namespace Sys2Proof.Machine

/-! Waiters that go on. -/

/-- A split that waits for a walk or a line goes on. -/
def Split.woken (sp : Split) : Split :=
  match sp.wait with
  | .walk | .line _ => { sp with wait := .none }
  | _ => sp

theorem Split.woken_line {sp : Split} {k : Nat} (h : sp.wait = .line k) : sp.woken = { sp with wait := .none } := by
  simp [Split.woken, h]

theorem Split.woken_woken (sp : Split) : sp.woken.woken = sp.woken := by
  cases h : sp.wait <;> simp [Split.woken, h]

theorem Split.woken_aborted (sp : Split) : sp.woken.aborted = sp.aborted := by
  unfold Split.woken
  split <;> rfl

/-- The waiter is this split. -/
def Walker.isSplit (r : SplitRef) : Walker → Bool
  | .split x _ => x = r
  | _ => false

theorem wake_onlyGroups (s : State) (w : Walker) : wake s w = { s with groups := (wake s w).groups } := by
  cases w <;> rfl

theorem wake_split? (s : State) (w : Walker) (r : SplitRef) :
    (wake s w).split? r = (s.split? r).map (if w.isSplit r then Split.woken else id) := by
  cases w with
  | split x core =>
    change (s.updSplit x Split.woken).split? r = _
    by_cases e : x = r
    · subst e
      simp [Walker.isSplit]
    · simp [Walker.isSplit, e, State.updSplit_split?_other s _ (Ne.symm e)]
  | _ => simp [Walker.isSplit, wake]

/-- Several waiters go on. -/
def wakeAll (s : State) (ws : List Walker) : State := ws.foldl wake s

theorem wakeAll_onlyGroups (s : State) (ws : List Walker) : wakeAll s ws = { s with groups := (wakeAll s ws).groups } := by
  unfold wakeAll
  induction ws generalizing s with
  | nil => rfl
  | cons w ws ih => rw [List.foldl_cons, ih, wake_onlyGroups]

theorem wakeAll_split? (s : State) (ws : List Walker) (r : SplitRef) :
    (wakeAll s ws).split? r = (s.split? r).map (if ws.any (·.isSplit r) then Split.woken else id) := by
  unfold wakeAll
  induction ws generalizing s with
  | nil => simp
  | cons w ws ih =>
    rw [List.foldl_cons, ih, wake_split?, Option.map_map, List.any_cons]
    congr 1
    funext sp
    cases w.isSplit r <;> cases ws.any (·.isSplit r) <;> simp [Split.woken_woken]

/-- Whoever waits, an abort that a split has been told of stays. -/
theorem wakeAll_aborted (s : State) (ws : List Walker) (r : SplitRef) :
    ((wakeAll s ws).split? r).map (·.aborted) = (s.split? r).map (·.aborted) := by
  rw [wakeAll_split?, Option.map_map]
  congr 1
  funext sp
  split
  · exact sp.woken_aborted
  · rfl

/-! The end of a late framing. -/

/-- Those who wait for the framings that end. -/
def lateWaiters (p : Partition) (same : LateJob → Bool) : List Walker := (p.late.filter same).flatMap (·.who)

/-- The first waiter of the first framing that ends is told of it. -/
def tellFirst (s : State) (p : Partition) (same : LateJob → Bool) (tell : State → LateJob → Walker → State) : State :=
  match (p.late.filter same).head?.bind fun j => j.who.head?.map fun w => (j, w) with
  | some (j, w) => tell s j w
  | none => s

/-- The partition once framings have ended. -/
def Partition.lateEnded (p : Partition) (same : LateJob → Bool) : Partition := { p with late := p.late.filter fun j => !same j }

theorem endLate_eq (s : State) (part : Nat) (same : LateJob → Bool) (tell : State → LateJob → Walker → State) :
    endLate s part same tell =
      wakeAll (tellFirst (s.setPart part ((s.part part).lateEnded same)) (s.part part) same tell) (lateWaiters (s.part part) same) := by
  rw [wakeAll, lateWaiters, List.foldl_flatMap]
  rfl

/-- What `tell` may change: of the splits, the abort that they have been told of. -/
structure Told (s t : State) : Prop where
  parts : t.parts = s.parts
  splits : ∀ r sp, s.split? r = some sp → ∃ a, t.split? r = some { sp with aborted := a }

theorem Told.refl (s : State) : Told s s := ⟨rfl, fun _ sp h => ⟨sp.aborted, h⟩⟩

/-- A waiter that is no split is told elsewhere. -/
theorem Told.of_groups {s t : State} (parts : t.parts = s.parts) (groups : t.groups = s.groups) : Told s t :=
  ⟨parts, fun r sp h => ⟨sp.aborted, by rw [State.split?, State.group?, groups]; exact h⟩⟩

theorem tellRefusal_told (s : State) (line cause : Nat) (w : Walker) : Told s (tellRefusal s line cause w) := by
  cases w with
  | split x core =>
    refine ⟨rfl, fun r sp h => ?_⟩
    change ∃ a, (s.updSplit x fun sp => { sp with aborted := some (cause, line * 128) }).split? r = _
    by_cases e : r = x
    · subst e
      exact ⟨_, by rw [State.updSplit_split?, h]; rfl⟩
    · exact ⟨sp.aborted, by rw [State.updSplit_split?_other s _ e]; exact h⟩
  | command core id =>
    refine .of_groups ?_ ?_ <;> (unfold tellRefusal State.updCmd; rfl)
  | stream core g =>
    refine .of_groups ?_ ?_ <;> (simp only [tellRefusal]; split <;> rfl)
  | _ => exact .refl s

theorem tellFirst_told {tell : State → LateJob → Walker → State} (h : ∀ s j w, Told s (tell s j w)) (s : State) (p : Partition)
    (same : LateJob → Bool) : Told s (tellFirst s p same tell) := by
  unfold tellFirst
  split
  · exact h ..
  · exact .refl s

section
variable {s t : State} {part : Nat} {same : LateJob → Bool} {tell : State → LateJob → Walker → State}
  (told : ∀ s j w, Told s (tell s j w))
include told

theorem endLate_part : (endLate s part same tell).part part = (s.part part).lateEnded same := by
  rw [endLate_eq, wakeAll_onlyGroups, State.part]
  change Tbl.getD (tellFirst (s.setPart part _) _ same tell).parts part _ = _
  rw [(tellFirst_told told ..).parts]
  exact State.setPart_part ..

/-- A split that waits for a framing that ends goes on. -/
theorem endLate_woken {x : LateJob} {r : SplitRef} {core k : Nat} {sp : Split} (hx : x ∈ (s.part part).late) (hs : same x = true)
    (hr : .split r core ∈ x.who) (h : s.split? r = some sp) (hw : sp.wait = .line k) :
    ∃ sp', (endLate s part same tell).split? r = some sp' ∧ sp'.wait = .none
      ∧ sp' = { sp with wait := .none, aborted := sp'.aborted } := by
  have listed : (lateWaiters (s.part part) same).any (·.isSplit r) = true :=
    List.any_eq_true.mpr ⟨_, List.mem_flatMap.mpr ⟨x, List.mem_filter.mpr ⟨hx, hs⟩, hr⟩, decide_eq_true rfl⟩
  obtain ⟨a, ha⟩ := (tellFirst_told told (s.setPart part ((s.part part).lateEnded same)) (s.part part) same).splits r sp h
  refine ⟨{ sp with wait := .none, aborted := a }, ?_, rfl, rfl⟩
  rw [endLate_eq, wakeAll_split?, ha, if_pos listed]
  exact congrArg some (Split.woken_line hw)

end

/-- Where nobody is told anything, no split is. -/
theorem endLate_untold (s : State) (part : Nat) (same : LateJob → Bool) (r : SplitRef) :
    ((endLate s part same fun s _ _ => s).split? r).map (·.aborted) = (s.split? r).map (·.aborted) := by
  rw [endLate_eq, wakeAll_aborted, tellFirst]
  split <;> rfl

/-- Where a framing is refused, the split that asked first is told, and no other. -/
theorem endLate_refused {s : State} {part cause core : Nat} {same : LateJob → Bool} {x : LateJob} {xs : List LateJob} {r : SplitRef}
    {ws : List Walker} (first : (s.part part).late.filter same = x :: xs) (who : x.who = .split r core :: ws) (r' : SplitRef) :
    ((endLate s part same fun s x w => tellRefusal s x.line cause w).split? r').map (·.aborted)
      = (s.split? r').map fun sp => if r' = r then some (cause, x.line * 128) else sp.aborted := by
  rw [endLate_eq, wakeAll_aborted, tellFirst, first]
  simp only [List.head?_cons, who, Option.bind_some, Option.map_some, tellRefusal]
  by_cases e : r' = r
  · subst e
    rw [State.updSplit_split?, Option.map_map]
    simp only [if_true]
    rfl
  · rw [State.updSplit_split?_other _ _ e]
    simp only [e, if_false]
    rfl

end Sys2Proof.Machine
end

section
/-! Late framing (O43). -/

namespace Sys2Proof.Machine

/-! A leaf that is rewritten (R102 step 5). -/

/-- What `rewriteRun` stores for the first entry of a run. -/
def framedEntry (v frame : Nat) : W64 := (setFld (w64 v) 16 40 frame &&& ~~~0x600#64) ||| 0x180#64

theorem rewriteRun_one {s s1 : State} {part first v : Nat} (frame : Nat) (h : readPhys s part first 8 = .ok s1 v) :
    rewriteRun s part first 1 frame = (writePhys s1 part first 8 (framedEntry v frame).toNat).bind fun s _ => .ok s () := by
  change ((readPhys s part first 8).bind _).bind _ = _
  rw [h]
  rfl

/-- UNB and LATE are bits 9 and 10, A and D bits 7 and 8. -/
theorem getLsbD_framedEntry (v frame : Nat) {i : Nat} (hi : i < 64) :
    (framedEntry v frame).getLsbD i = if i = 7 ∨ i = 8 then true else if i = 9 ∨ i = 10 then false
      else if 16 ≤ i ∧ i < 16 + 40 then frame.testBit (i - 16) else (w64 v).getLsbD i := by
  have cleared : ∀ i < 64, (0x600#64).getLsbD i = decide (i = 9 ∨ i = 10) := by decide
  have marked : ∀ i < 64, (0x180#64).getLsbD i = decide (i = 7 ∨ i = 8) := by decide
  simp only [framedEntry, BitVec.getLsbD_or, BitVec.getLsbD_and, BitVec.getLsbD_not, hi, decide_true, Bool.true_and, cleared i hi,
    marked i hi, getLsbD_setFld _ hi]
  by_cases m : i = 7 ∨ i = 8
  · simp [m]
  · by_cases c : i = 9 ∨ i = 10 <;> simp [m, c]

theorem fld_framedEntry (v : Nat) {frame : Nat} (h : frame < 2 ^ 40) : fld (framedEntry v frame) 16 40 = frame := by
  have field : (framedEntry v frame).extractLsb' 16 40 = BitVec.ofNat 40 frame := by
    refine BitVec.eq_of_getLsbD_eq fun i hi => ?_
    rw [BitVec.getLsbD_extractLsb', getLsbD_framedEntry _ _ (by omega), if_neg (by omega), if_neg (by omega), if_pos (by omega),
      Nat.add_sub_cancel_left, BitVec.getLsbD_ofNat]
  rw [fld_extractLsb', field, BitVec.toNat_ofNat, Nat.mod_eq_of_lt h]

/-! The framing of the oldest job. -/

/-- The oldest framing of a partition is for a page that is still late, of a key that is loaded, outside any migration. -/
structure Due (s s1 : State) (part : Nat) (j : LateJob) (l : Leaf) : Prop where
  oldest : ∃ rest, (s.part part).late = j :: rest
  leaf : finalLeaf s j.tenant j.va = .ok s1 (some l)
  unb : l.pte.getLsbD 9 = true
  late : l.pte.getLsbD 10 = true
  still : s1.migration = none
  keyed : s1.keyTag part (fld l.pte 56 6) ≠ none

/-- HEAD and TAIL of a good pool's ring have been read, with the entry at HEAD. -/
structure PoolRead (s1 sc : State) (part ring n tail head v : Nat) : Prop where
  pool : (s1.part part).pool = some (ring, n)
  good : (s1.part part).poolBad = false
  read : ((readPhys s1 part ring 8).bind fun s tail => (readPhys s part (ring + 8) 8).bind fun s head =>
    (readPhys s part (ring + 64 + 8 * (head % 2 ^ n)) 8).bind fun s v => .ok s (tail, head, v)) = .ok sc (tail, head, v)

/-- The entry at HEAD gives a frame, no line of the page is lost, and steps 3 to 5 of Table 4.6 have been performed with the advance of
HEAD. -/
structure FrameWritten (sc s6 : State) (part ring head v : Nat) (l : Leaf) (frame : Nat) (sh : List (Nat × Byte)) : Prop where
  entry : sc.poolEntry part v = some frame
  shadow : shadowCheck (sc.part part).shadow (fld l.pte 56 6) [frame / 16] = some sh
  sound : ∀ k ∈ pageLines l.base l.size, sc.isLost part (sc.home part (k * 128)).slice k = false
  written : ((frameLines sc part (fld l.pte 56 6) frame (pageLines l.base l.size)).bind fun s _ =>
    (takePhys s part (ring + 8)).bind fun s _ => (takePhys s part l.run.1).bind fun s _ =>
    (rewriteRun s part l.run.1 l.run.2 frame).bind fun s _ => writePhys s part (ring + 8) 8 (head + 1)) = .ok s6 ()

/-- The framings of a page end with a refusal. -/
def refusePage (s : State) (part : Nat) (l : Leaf) (cause : Nat) : State :=
  endLate s part (ofPage l) fun s x w => tellRefusal s x.line cause w

/-- Steps 6 and 7 of Table 4.6: the shadow records the frame, and the page's translations and lines are gone. -/
def leavePage (s : State) (part : Nat) (l : Leaf) (sh : List (Nat × Byte)) : State :=
  releaseLines (dropPage (s.setPart part { s.part part with shadow := sh }) part l.base l.size) part (pageLines l.base l.size)

section
variable {s s1 sc s6 : State} {part ring n tail head v frame : Nat} {j : LateJob} {l : Leaf} {sh : List (Nat × Byte)}
  (due : Due s s1 part j l)
include due

theorem exec_lateFraming_poolless (h : (s1.part part).pool = none ∨ (s1.part part).poolBad = true) :
    exec (.lateFraming part) s = .next (refusePage s1 part l 8) := by
  obtain ⟨⟨rest, oldest⟩, leaf, unb, late, still, keyed⟩ := due
  change execLateFraming part s = _
  simp only [execLateFraming, oldest, leaf, unb, late, still, Option.isNone_iff_eq_none, keyed]
  rcases h with h | h
  · simp only [h]
    rfl
  · cases pool : (s1.part part).pool with
    | none => rfl
    | some ring =>
      simp only [h]
      rfl

theorem exec_lateFraming_empty (pool : PoolRead s1 sc part ring n tail head v) (h : head = tail) :
    exec (.lateFraming part) s = .next (refusePage sc part l 8) := by
  obtain ⟨⟨rest, oldest⟩, leaf, unb, late, still, keyed⟩ := due
  obtain ⟨some_ring, good, read⟩ := pool
  change execLateFraming part s = _
  simp only [execLateFraming, oldest, leaf, unb, late, still, Option.isNone_iff_eq_none, keyed, some_ring, good, read, h]
  rfl

theorem exec_lateFraming_framed (pool : PoolRead s1 sc part ring n tail head v) (h : head ≠ tail)
    (page : FrameWritten sc s6 part ring head v l frame sh) :
    exec (.lateFraming part) s = .next (endLate (leavePage s6 part l sh) part (ofPage l) fun s _ _ => s) := by
  obtain ⟨⟨rest, oldest⟩, leaf, unb, late, still, keyed⟩ := due
  obtain ⟨some_ring, good, read⟩ := pool
  obtain ⟨entry, shadow, sound, written⟩ := page
  have none_lost : (pageLines l.base l.size).any (fun k => sc.isLost part (sc.home part (k * 128)).slice k) = false :=
    List.any_eq_false.mpr fun k hk => by simp [sound k hk]
  change execLateFraming part s = _
  simp only [execLateFraming, oldest, leaf, unb, late, still, Option.isNone_iff_eq_none, keyed, some_ring, good, read, h, entry, shadow,
    none_lost, written]
  rfl

end

/-! What the waiters and the page find. -/

/-- The page's framings have ended, and every split that waited for one goes on. -/
def GoesOn (s1 t : State) (part : Nat) (l : Leaf) (mark : Split → Split → Prop) : Prop :=
  (t.part part).late = (s1.part part).late.filter (fun x => !ofPage l x)
    ∧ ∀ x ∈ (s1.part part).late, ofPage l x = true → ∀ r core, .split r core ∈ x.who → ∀ sp k, s1.split? r = some sp → sp.wait = .line k →
        ∃ sp', t.split? r = some sp' ∧ sp'.wait = .none ∧ sp' = { sp with wait := .none, aborted := sp'.aborted } ∧ mark sp sp'

section
variable {s1 s : State} {part : Nat} {l : Leaf} (late : (s.part part).late = (s1.part part).late) (groups : s.groups = s1.groups)
include late groups

theorem endLate_goesOn {tell : State → LateJob → Walker → State} (told : ∀ s j w, Told s (tell s j w)) {mark : Split → Split → Prop}
    (marked : ∀ r sp sp', s1.split? r = some sp → (endLate s part (ofPage l) tell).split? r = some sp' → mark sp sp') :
    GoesOn s1 (endLate s part (ofPage l) tell) part l mark := by
  refine ⟨?_, fun x hx hp r core hr sp k h hw => ?_⟩
  · rw [endLate_part told, ← late]
    rfl
  · have here : s.split? r = some sp := by rw [State.split?, State.group?, groups]; exact h
    obtain ⟨sp', found, ready, kept⟩ := endLate_woken told (late ▸ hx) hp hr here hw
    exact ⟨sp', found, ready, kept, marked r sp sp' h found⟩

theorem refusePage_goesOn (cause : Nat) : GoesOn s1 (refusePage s part l cause) part l fun _ _ => True :=
  endLate_goesOn late groups (fun _ _ _ => tellRefusal_told ..) fun _ _ _ _ _ => trivial

/-- The split that asked first reports the cause, and no other does. -/
theorem refusePage_reports (cause : Nat) {x : LateJob} {xs : List LateJob} {r : SplitRef} {core : Nat} {ws : List Walker} {sp : Split}
    (first : (s1.part part).late.filter (fun x => ofPage l x) = x :: xs) (who : x.who = .split r core :: ws) (h : s1.split? r = some sp) :
    ((refusePage s part l cause).split? r).map (·.aborted) = some (some (cause, x.line * 128))
      ∧ ∀ r' sp', r' ≠ r → s1.split? r' = some sp' → ((refusePage s part l cause).split? r').map (·.aborted) = some sp'.aborted := by
  have reports := endLate_refused (cause := cause) (same := ofPage l) (late ▸ first) who
  have same (r : SplitRef) : s.split? r = s1.split? r := by rw [State.split?, State.group?, groups]; rfl
  refine ⟨?_, fun r' sp' hr h' => ?_⟩
  · rw [refusePage, reports, same, h]
    simp
  · rw [refusePage, reports, same, h']
    simp [hr]

theorem endLate_page_goesOn : GoesOn s1 (endLate s part (ofPage l) fun s _ _ => s) part l fun sp sp' => sp'.aborted = sp.aborted := by
  refine endLate_goesOn late groups (fun s _ _ => .refl s) fun r sp sp' h found => ?_
  have same : s.split? r = some sp := by rw [State.split?, State.group?, groups]; exact h
  have kept := endLate_untold s part (ofPage l) r
  rw [found, same] at kept
  exact Option.some.inj kept

end

theorem endLate_untold_onlyParts (s : State) (part : Nat) (same : LateJob → Bool) :
    let t := endLate s part same fun s _ _ => s
    t = { s with parts := t.parts, groups := t.groups } := by
  intro t
  have told : ∀ u, tellFirst u (s.part part) same (fun s _ _ => s) = u := fun u => by unfold tellFirst; split <;> rfl
  have e : t = _ := endLate_eq ..
  rw [told, wakeAll_onlyGroups] at e
  rw [e]
  rfl

theorem leavePage_mem (s : State) (part : Nat) (l : Leaf) (sh : List (Nat × Byte)) : (leavePage s part l sh).mem = s.mem :=
  releaseLines_mem ..

theorem leavePage_groups (s : State) (part : Nat) (l : Leaf) (sh : List (Nat × Byte)) : (leavePage s part l sh).groups = s.groups :=
  releaseLines_groups ..

theorem leavePage_part (s : State) (part : Nat) (l : Leaf) (sh : List (Nat × Byte)) :
    (leavePage s part l sh).part part = { s.part part with shadow := sh } := by
  rw [leavePage, releaseLines_onlyCaches]
  exact State.setPart_part ..

theorem leavePage_gone {s : State} (once : (s.caches.l2.map (·.1)).Nodup) {part k : Nat} {l : Leaf} (sh : List (Nat × Byte))
    (h : k ∈ pageLines l.base l.size) : Tbl.find? (leavePage s part l sh).caches.l2 (lineKey part k false) = none := by
  refine releaseLines_gone part ?_ h
  exact once

theorem leavePage_apart {s : State} {part c : Nat} {l : Leaf} {sh : List (Nat × Byte)} {e : TlbEntry}
    (h : e ∈ (leavePage s part l sh).tlbs c) (here : (s.tenant? e.tenant).map (·.part) = some part) : e.apart l.base l.size := by
  rw [leavePage, releaseLines_onlyCaches] at h
  exact (mem_tlbs_dropPage h).2 here

/-- Settles O43: a framing that finds no frame ends with the refusal of its first waiter (`refusePage_goesOn`, `refusePage_reports`); one that
has written its frame releases the page and wakes its waiters (`exec_lateFraming_framed`); the leaf keeps what `framedEntry` keeps. -/
theorem lateFraming : Obligations.LateFraming := by
  unfold Obligations.LateFraming
  refine ⟨?_, ?_⟩
  · intro part s s1 j rest l oldest leaf unb late still keyed key p goesOn refused
    have due : Due s s1 part j l := ⟨⟨rest, oldest⟩, leaf, unb, late, still, keyed⟩
    have refuses {u : State} (hu : u.part part = p) (groups : u.groups = s1.groups)
        (h : exec (.lateFraming part) s = .next (refusePage u part l 8)) : refused 8 :=
      ⟨_, h, refusePage_goesOn (by rw [hu]) groups 8,
        fun x xs r core ws first who sp k hsp _ => refusePage_reports (by rw [hu]) groups 8 first who hsp⟩
    refine ⟨fun h => refuses rfl rfl (exec_lateFraming_poolless due h), ?_⟩
    intro ring n sa sb sc tail head v some_ring good read_tail read_head read_entry hsc groups
    have pool : PoolRead s1 sc part ring n tail head v := ⟨some_ring, good, by simp [Res.bind, read_tail, read_head, read_entry]⟩
    refine ⟨fun h => refuses hsc groups (exec_lateFraming_empty due pool h), ?_⟩
    intro h frame sh entry shadow sound s2 s3 s4 s5 s6 lines ring_held leaf_held leaves advance once hs6 groups size base
    have page : FrameWritten sc s6 part ring head v l frame sh :=
      ⟨entry, hsc ▸ shadow, sound, by simp [Res.bind, lines, ring_held, leaf_held, leaves, advance, key]⟩
    let u := leavePage s6 part l sh
    have hu : u.part part = { p with shadow := sh } := hs6 ▸ leavePage_part ..
    have ugroups : u.groups = s1.groups := (leavePage_groups ..).trans groups
    have left := endLate_untold_onlyParts u part (ofPage l)
    refine ⟨_, exec_lateFraming_framed due pool h page, endLate_page_goesOn (by rw [hu]) ugroups, ?_, fun k lo hi => ?_,
      fun c e he here => ?_, ?_⟩
    · rw [endLate_part fun s _ _ => .refl s, hu]
      rfl
    · rw [left]
      exact leavePage_gone once sh (mem_pageLines base size lo hi)
    · rw [left] at he
      exact leavePage_apart he here
    · rw [left]
      exact leavePage_mem ..
  · intro s s1 part first frame v hf read _
    refine ⟨framedEntry v frame, rewriteRun_one frame read, fld_framedEntry v hf, getLsbD_framedEntry v frame (by decide),
      getLsbD_framedEntry v frame (by decide), getLsbD_framedEntry v frame (by decide), getLsbD_framedEntry v frame (by decide),
      fun i hi => ?_⟩
    rw [getLsbD_framedEntry v frame (by omega), if_neg (by omega), if_neg (by omega), if_neg (by omega)]

end Sys2Proof.Machine
end
section
/-! SUPPORT. What is sent over the links, and how a command of the control core completes (R431). -/

namespace Sys2Proof.Machine

/-! Messages. -/

/-- Messages are sent in the order of a list. -/
def State.sendAll (s : State) (os : List Outbound) : State := os.foldl State.send s

/-- Only the messages under way differ. -/
def OnlySent (s t : State) : Prop := ∃ out, t = { s with outbound := out }

section
variable {s t : State} (h : OnlySent s t)
include h

theorem OnlySent.mem : t.mem = s.mem := by obtain ⟨_, rfl⟩ := h; rfl
theorem OnlySent.groups : t.groups = s.groups := by obtain ⟨_, rfl⟩ := h; rfl
theorem OnlySent.caches : t.caches = s.caches := by obtain ⟨_, rfl⟩ := h; rfl
theorem OnlySent.mmu : t.mmu = s.mmu := by obtain ⟨_, rfl⟩ := h; rfl
theorem OnlySent.tenants : t.tenants = s.tenants := by obtain ⟨_, rfl⟩ := h; rfl
theorem OnlySent.dev : t.dev = s.dev := by obtain ⟨_, rfl⟩ := h; rfl
theorem OnlySent.migration : t.migration = s.migration := by obtain ⟨_, rfl⟩ := h; rfl

end

theorem State.send_onlySent {s t : State} (h : OnlySent s t) (o : Outbound) : OnlySent s (t.send o) := by
  obtain ⟨out, rfl⟩ := h
  exact ⟨_, rfl⟩

theorem State.sendAll_onlySent (s : State) (os : List Outbound) : OnlySent s (s.sendAll os) :=
  List.foldlRecOn (motive := OnlySent s) os State.send ⟨_, rfl⟩ fun _ h o _ => State.send_onlySent h o

theorem sendInvals_onlySent (s : State) (part base size : Nat) : OnlySent s (sendInvals s part base size) := by
  unfold sendInvals
  refine List.foldlRecOn (motive := OnlySent s) _ _ ⟨_, rfl⟩ fun t h p _ => ?_
  split
  · exact State.send_onlySent h _
  · exact h

theorem tellClaims_onlySent (s : State) (m : Migration) (ev : Nat) : OnlySent s (tellClaims s m ev) := by
  unfold tellClaims
  split
  · exact ⟨_, rfl⟩
  · exact List.foldlRecOn (motive := OnlySent s) _ _ ⟨_, rfl⟩ fun _ h _ _ => State.send_onlySent h _

theorem State.send_new (s : State) (o : Outbound) : Tbl.find? (s.send o).outbound (Tbl.fresh s.outbound) = some o := Tbl.find?_put_same ..

/-- What is under way stays so. -/
theorem State.send_old {s : State} {k : Nat} {x : Outbound} (h : Tbl.find? s.outbound k = some x) (o : Outbound) :
    Tbl.find? (s.send o).outbound k = some x :=
  (Tbl.find?_put_other _ _ (Tbl.lt_fresh h).ne).trans h

theorem State.sendAll_old {s : State} {k : Nat} {x : Outbound} (h : Tbl.find? s.outbound k = some x) (os : List Outbound) :
    Tbl.find? (s.sendAll os).outbound k = some x :=
  List.foldlRecOn (motive := fun s => Tbl.find? s.outbound k = some x) os State.send h fun _ h o _ => State.send_old h o

theorem State.sendAll_sent {os : List Outbound} {o : Outbound} (h : o ∈ os) (s : State) :
    ∃ k, Tbl.find? (s.sendAll os).outbound k = some o := by
  induction os generalizing s with
  | nil => cases h
  | cons x xs ih =>
    rcases List.mem_cons.mp h with rfl | h
    · exact ⟨_, State.sendAll_old (s.send_new o) xs⟩
    · exact ih h (s.send x)

/-- Messages that depend on the caches, which no message changes. -/
theorem foldl_send_eq {α : Type} (msg : Caches → α → Outbound) (s : State) (xs : List α) :
    xs.foldl (fun s x => s.send (msg s.caches x)) s = s.sendAll (xs.map (msg s.caches)) := by
  unfold State.sendAll
  induction xs generalizing s with
  | nil => rfl
  | cons x xs ih =>
    rw [List.foldl_cons, ih]
    rfl

/-! Completion. -/

/-- A command of the control core has ended with STATUS and DETAIL, no migration is in progress, and memory and the splits are those of
`s`. -/
def EndsWith (s t : State) (status detail : Nat) : Prop :=
  CcDone t 0x18 status ∧ fld t.dev.cccmd (8 * 0x1C) 32 = detail % 2 ^ 32 ∧ t.migration = none ∧ t.mem = s.mem ∧ t.groups = s.groups

theorem errInterrupt_command (s : State) (f : Nat) :
    (errInterrupt s f).dev.ccgo = s.dev.ccgo ∧ (errInterrupt s f).dev.cccmd = s.dev.cccmd := by
  have kept := ((HomeKept.rfl' s).errInterrupt f).device
  exact ⟨(congrArg Device.ccgo kept).trans rfl, (congrArg Device.cccmd kept).trans rfl⟩

/-- Whatever its STATUS, a command that completes leaves GO at 0 and its block as written, and raises the error interrupt unless STATUS is
0. -/
theorem ccDone_frame (s : State) (off status : Nat) :
    (ccDone s off status).dev.ccgo = false ∧ (ccDone s off status).dev.cccmd = setFld s.dev.cccmd (8 * off) 32 status
      ∧ (status ≠ 0 → ((ccDone s off status).func 0).intstat.getLsbD 22 = true)
      ∧ ccDone s off status = { s with dev := (ccDone s off status).dev } := by
  unfold ccDone
  dsimp only
  split
  case isTrue zero => exact ⟨rfl, rfl, fun h => absurd zero h, rfl⟩
  case isFalse =>
    exact ⟨(errInterrupt_command ..).1, (errInterrupt_command ..).2, fun _ => errInterrupt_raised .., errInterrupt_onlyDev ..⟩

theorem ccDone_endsWith {s u : State} {status : Nat} (small : status < 2 ^ 32) (detail : Nat) (still : u.migration = none)
    (mem : u.mem = s.mem) (groups : u.groups = s.groups) : EndsWith s (ccDone (ccDetail u 0x1C detail) 0x18 status) status detail := by
  obtain ⟨go, block, raised, onlyDev⟩ := ccDone_frame (ccDetail u 0x1C detail) 0x18 status
  refine ⟨⟨go, ?_, raised⟩, ?_, ?_, ?_, ?_⟩
  · rw [block, fld_setFld_same _ (by decide), Nat.mod_eq_of_lt small]
  · rw [block, fld_setFld_apart _ (by decide) (by decide)]
    exact fld_setFld_same _ (by decide)
  · rw [onlyDev]
    exact still
  · rw [onlyDev]
    exact mem
  · rw [onlyDev]
    exact groups

end Sys2Proof.Machine
end

section
/-! MIGRATE (O56). -/

namespace Sys2Proof.Machine

/-! The beginning (Table 4.8 steps 1 and 2). -/

/-- The claim of a page at the peer: the page and its number. -/
def claimOf (tenant part link : Nat) (g : (Nat × W64 × Nat × Nat) × Nat) : Outbound :=
  { link := some link, line := g.2, ev := claimEv, write := false, atomic := false, data := lineWith 0 8 g.1.2.2.2, mask := 0
    who := some .migration, va := none, tenant := tenant, part := part }

/-- The link is Up and a member of the partition (R109 step 1). -/
def LinkJoins (s : State) (part link : Nat) : Prop :=
  (s.link link).state = 2 ∧ (s.link link).bound = part ∧ (s.part part).req.getLsbD (17 + link) = true

/-- The migration that the command block asks for, with every page claimed. -/
def begun (s : State) (part : Nat) (pages : List (Nat × W64 × Nat × Nat)) : Migration :=
  { tenant := s.cc 4 2, part := part, link := s.cc 6 1, base := s.cc 8 8, length := s.cc 0x10 8, pages := pages, claimed := [], step := 2 }

section
variable {s : State}

theorem beginMigration_malformed (h : migrateMalformed s = true) : beginMigration s = ccDone (ccDetail s 0x1C 0) 0x18 1 := by
  simp [beginMigration, h]

variable (sound : migrateMalformed s = false) {t : Tenant} (tenant : s.tenant? (s.cc 4 2) = some t) {s1 : State}
include sound tenant

theorem beginMigration_unqualified {off : Nat}
    (h : migratePages s (s.cc 4 2) t (s.cc 8 8) (s.cc 0x10 8) (s.cc 0x10 8 / 4096) (s.cc 8 8) [] = .ok s1 (.error off)) :
    beginMigration s = ccDone (ccDetail s1 0x1C off) 0x18 2 := by
  simp [beginMigration, sound, tenant, h]

variable {ps : List (Nat × W64 × Nat × Nat)}
  (pages : migratePages s (s.cc 4 2) t (s.cc 8 8) (s.cc 0x10 8) (s.cc 0x10 8 / 4096) (s.cc 8 8) [] = .ok s1 (.ok ps))
include pages

theorem beginMigration_apart (h : ¬LinkJoins s1 t.part (s.cc 6 1)) : beginMigration s = ccDone (ccDetail s1 0x1C 0) 0x18 3 := by
  have refuses : ((s1.link (s.cc 6 1)).state != 2 || (s1.link (s.cc 6 1)).bound != t.part
      || !(s1.part t.part).req.getLsbD (17 + s.cc 6 1)) = true := by
    simpa [LinkJoins, imp_iff_not_or, or_assoc] using h
  simp only [beginMigration, sound, tenant, pages, refuses]
  rfl

theorem beginMigration_framing (up : LinkJoins s1 t.part (s.cc 6 1)) (h : framing s1 t.part ps = true) : beginMigration s = s1 := by
  obtain ⟨state, bound, member⟩ := up
  simp [beginMigration, sound, tenant, pages, state, bound, member, h]

theorem beginMigration_claims (up : LinkJoins s1 t.part (s.cc 6 1)) (h : framing s1 t.part ps = false) :
    beginMigration s = { s1.sendAll (ps.zipIdx.map (claimOf (s.cc 4 2) t.part (s.cc 6 1))) with migration := some (begun s t.part ps) } := by
  obtain ⟨state, bound, member⟩ := up
  have joins : ((s1.link (s.cc 6 1)).state != 2 || (s1.link (s.cc 6 1)).bound != t.part
      || !(s1.part t.part).req.getLsbD (17 + s.cc 6 1)) = false := by simp [state, bound, member]
  rw [← foldl_send_eq fun _ => claimOf (s.cc 4 2) t.part (s.cc 6 1)]
  simp only [beginMigration, sound, tenant, pages, joins, h]
  rfl

end

/-! What MIGRATE does next. -/

section
variable {s : State} (h : s.ccIs 0x11 = true)
include h

theorem exec_migrate_begins (still : s.migration = none) : exec .migrate s = .next (beginMigration s) := by
  change Host.Outcome.next ((migrateStep s).getD s) = _
  simp [migrateStep, h, still]

variable {m : Migration} (hm : s.migration = some m)
include hm

section
variable (hs : m.step = 2 ∨ m.step = 3)
include hs

theorem exec_migrate_refused {c : Nat × Nat} (hc : m.claimed.find? (fun c => 2 ^ 64 ≤ c.2) = some c) :
    exec .migrate s = .next (abortMigration s 4 (m.offset c.1)) := by
  change Host.Outcome.next ((migrateStep s).getD s) = _
  rcases hs with hs | hs <;> (simp only [migrateStep, h, hm, hs, hc]; rfl)

theorem exec_migrate_claiming (hc : m.claimed.find? (fun c => 2 ^ 64 ≤ c.2) = none) (hl : m.claimed.length ≠ m.pages.length) :
    exec .migrate s = .next s := by
  change Host.Outcome.next ((migrateStep s).getD s) = _
  rcases hs with hs | hs <;> (simp only [migrateStep, h, hm, hs, hc, hl]; rfl)

theorem exec_migrate_granted (hc : m.claimed.find? (fun c => 2 ^ 64 ≤ c.2) = none) (hl : m.claimed.length = m.pages.length) :
    exec .migrate s = .next (sendMigration s m) := by
  change Host.Outcome.next ((migrateStep s).getD s) = _
  rcases hs with hs | hs <;> (simp only [migrateStep, h, hm, hs, hc, hl]; rfl)

end

theorem exec_migrate_arriving (hs : m.step = 4) (hw : s.migrationSettled = false) : exec .migrate s = .next s := by
  change Host.Outcome.next ((migrateStep s).getD s) = _
  simp [migrateStep, h, hm, hs, hw]

theorem exec_migrate_arrived (hs : m.step = 4) (hw : s.migrationSettled = true) : exec .migrate s = .next (commitMigration s m) := by
  change Host.Outcome.next ((migrateStep s).getD s) = _
  simp [migrateStep, h, hm, hs, hw]

theorem exec_migrate_withdrawing (hs : m.step = 6) (hw : s.invalsSettled = false) : exec .migrate s = .next s := by
  change Host.Outcome.next ((migrateStep s).getD s) = _
  simp [migrateStep, h, hm, hs, hw]

theorem exec_migrate_withdrawn (hs : m.step = 6) (hw : s.invalsSettled = true) : exec .migrate s = .next (endMigration s m) := by
  change Host.Outcome.next ((migrateStep s).getD s) = _
  simp [migrateStep, h, hm, hs, hw]

end

theorem exec_migrateAckTimeout_late {s : State} {m : Migration} (hm : s.migration = some m) (hs : m.step < 6)
    (hw : s.migrationSettled = false) : exec .migrateAckTimeout s = .next (abortMigration s 6 0) := by
  change execMigrateAckTimeout s = _
  simp [execMigrateAckTimeout, hm, hs, hw]

/-! Aborts (R109, R110). -/

theorem abortMigration_endsWith {s : State} {m : Migration} (hm : s.migration = some m) {status : Nat} (small : status < 2 ^ 32)
    (detail : Nat) : EndsWith s (abortMigration s status detail) status detail := by
  simp only [abortMigration, hm]
  have told := fun u => tellClaims_onlySent u m releaseEv
  exact ccDone_endsWith small detail (told _).migration (told _).mem (told _).groups

/-! The lines go to the peer (Table 4.8 steps 3 and 4). -/

/-- The data of a line that goes to the peer Written. -/
def leavingData (c : Caches) (part line : Nat) : Option LineData :=
  (Tbl.find? c.l2 (lineKey part line false)).bind fun l => if l.unb = some (.leaving true false) then some l.data else none

/-- The message that carries a line to the peer: the line here and the line there. -/
def lineMsg (m : Migration) (c : Caches) (k : Nat × Nat) : Outbound :=
  { link := some m.link, line := k.2, ev := lineEv, write := true, atomic := false, data := (leavingData c m.part k.1).getD 0
    mask := if (leavingData c m.part k.1).isSome then BitVec.allOnes 128 else 0, who := some .migration, va := none, tenant := m.tenant
    part := m.part }

theorem sendLines_eq (s : State) (m : Migration) :
    sendLines s m = { s.sendAll (m.peerLines.map (lineMsg m s.caches)) with migration := some { m with step := 4 } } := by
  rw [← foldl_send_eq (lineMsg m)]
  rfl

theorem mem_peerLines {m : Migration} {i j : Nat} {g : Nat × W64 × Nat × Nat} (hg : m.pages[i]? = some g) (hj : j < g.2.2.2 / 128) :
    (g.2.2.1 / 128 + j, peerLine m.link (Tbl.getD m.claimed i 0) + j) ∈ m.peerLines := by
  refine List.mem_flatMap.mpr ⟨(g, i), List.mem_zipIdx_iff_getElem?.mpr hg, List.mem_map.mpr ⟨(g.2.2.1 / 128 + j, j), ?_, rfl⟩⟩
  refine List.mem_zipIdx_iff_getElem?.mpr ?_
  simp [pageLines, hj]

theorem lineMsg_written {m : Migration} {c : Caches} {k : Nat × Nat} {l : L2Line}
    (hl : Tbl.find? c.l2 (lineKey m.part k.1 false) = some l) (hu : l.unb = some (.leaving true false)) :
    (lineMsg m c k).data = l.data ∧ (lineMsg m c k).mask = BitVec.allOnes 128 := by
  simp [lineMsg, leavingData, hl, hu]

theorem leaveLines_held {s : State} {m : Migration} {k : Nat} {l : L2Line} (hl : Tbl.find? s.caches.l2 k = some l) (h : m.holds l = true) :
    Tbl.find? (leaveLines s m).caches.l2 k = some { l with unb := l.unb.map Unb.leave } := by
  simp [leaveLines, hl, h]

theorem Unb.leave_eq : Unb.leave = fun u => if u = .written then .leaving true false else if u = .zero then .leaving false false else u := by
  funext u
  cases u <;> rfl

theorem sendMigration_lost {s : State} {m : Migration} {i : Nat} (h : lostPage s m = some i) :
    sendMigration s m = abortMigration s 5 (m.offset i) := by
  simp [sendMigration, h]

theorem sendMigration_sound {s s1 : State} {m : Migration} (h : lostPage s m = none)
    (pulled : Res.forEach (leaveLines s m) (fun s k => (pullLine s m.part k).bind fun s _ => .ok s ()) m.lines = .ok s1 ()) :
    sendMigration s m = sendLines s1 m := by
  simp only [sendMigration, h, pulled]
  rfl

/-! The leaves point at the peer (Table 4.8 steps 5 and 6). -/

/-- The translations of a page go, and the peers are told so. -/
def withdrawPage (m : Migration) (s : State) (g : Nat × W64 × Nat × Nat) : State :=
  sendInvals (dropPage s m.part g.2.2.1 g.2.2.2) m.part g.2.2.1 g.2.2.2

theorem commitMigration_eq {s s1 : State} {m : Migration}
    (h : Res.forEach s (fun s i => pointAway s m i) (List.range m.pages.length) = .ok s1 ()) :
    commitMigration s m = { m.pages.foldl (withdrawPage m) s1 with migration := some { m with step := 6 } } := by
  simp only [commitMigration, h]
  rfl

theorem withdrawPage_onlySent (m : Migration) (s : State) (g : Nat × W64 × Nat × Nat) :
    OnlySent (dropPage s m.part g.2.2.1 g.2.2.2) (withdrawPage m s g) := sendInvals_onlySent ..

theorem mem_tlbs_withdrawPage {m : Migration} {s : State} {g : Nat × W64 × Nat × Nat} {c : Nat} {e : TlbEntry}
    (h : e ∈ (withdrawPage m s g).tlbs c) :
    e ∈ s.tlbs c ∧ ((s.tenant? e.tenant).map (·.part) = some m.part → e.apart g.2.2.1 g.2.2.2) := by
  rw [State.tlbs, (withdrawPage_onlySent m s g).mmu] at h
  exact mem_tlbs_dropPage h

theorem withdrawPages_mem (m : Migration) (s : State) (gs : List (Nat × W64 × Nat × Nat)) : (gs.foldl (withdrawPage m) s).mem = s.mem :=
  List.foldlRecOn (motive := fun t => t.mem = s.mem) gs (withdrawPage m) rfl fun _ h g _ => (withdrawPage_onlySent m _ g).mem.trans h

theorem mem_tlbs_withdrawPages {m : Migration} {s : State} {gs : List (Nat × W64 × Nat × Nat)} {c : Nat} {e : TlbEntry}
    (h : e ∈ (gs.foldl (withdrawPage m) s).tlbs c) :
    e ∈ s.tlbs c ∧ ((s.tenant? e.tenant).map (·.part) = some m.part → ∀ g ∈ gs, e.apart g.2.2.1 g.2.2.2) := by
  induction gs generalizing s with
  | nil => exact ⟨h, fun _ _ hg => nomatch hg⟩
  | cons x xs ih =>
    obtain ⟨mem, rest⟩ := ih h
    obtain ⟨mem, first⟩ := mem_tlbs_withdrawPage mem
    refine ⟨mem, fun here => List.forall_mem_cons.mpr ⟨first here, rest ?_⟩⟩
    rw [State.tenant?, (withdrawPage_onlySent m s x).tenants]
    exact here

/-! The end (Table 4.8 step 7). -/

theorem endMigration_endsWith (s : State) (m : Migration) : EndsWith s (endMigration s m) 0 0 := by
  have told := tellClaims_onlySent s m completeEv
  exact ccDone_endsWith (by decide) 0 rfl ((releaseLines_mem ..).trans told.mem) ((releaseLines_groups ..).trans told.groups)

theorem endMigration_gone {s : State} (once : (s.caches.l2.map (·.1)).Nodup) {m : Migration} {k : Nat} (h : k ∈ m.lines) :
    Tbl.find? (endMigration s m).caches.l2 (lineKey m.part k false) = none := by
  have onlyDev := (ccDone_frame (ccDetail { releaseLines (tellClaims s m completeEv) m.part m.lines with migration := none } 0x1C 0) 0x18 0).2.2.2
  rw [endMigration, onlyDev]
  refine releaseLines_gone m.part (s := tellClaims s m completeEv) ?_ h
  rw [(tellClaims_onlySent ..).caches]
  exact once

/-- Settles O56: each clause is the state that MIGRATE has reached (`beginMigration_claims` and its like, `exec_migrate_granted` and its
like), and what its step leaves. -/
theorem migrationSteps : Obligations.MigrationSteps := by
  unfold Obligations.MigrationSteps
  intro s go locked op ends
  have h : s.ccIs 0x11 = true := by simp [State.ccIs, go, locked, op]
  refine ⟨fun still bad => ?_, fun t still sound tenant => ?_, fun m hm hs => ?_, fun m hm hs => ?_, fun m hm hs => ?_⟩
  · exact ⟨_, exec_migrate_begins h still, beginMigration_malformed bad ▸ ccDone_endsWith (by decide) 0 still rfl rfl⟩
  · have begins := exec_migrate_begins h still
    refine ⟨fun s1 off pages still1 => ?_, fun s1 ps pages still1 dev parts => ?_⟩
    · exact ⟨_, begins, beginMigration_unqualified sound tenant pages ▸ ccDone_endsWith (by decide) off still1 rfl rfl⟩
    · have joins : LinkJoins s1 t.part (s.cc 6 1) ↔ LinkJoins s t.part (s.cc 6 1) := by
        simp only [LinkJoins, State.link, State.part, dev, parts]
      refine ⟨fun apart => ?_, fun up late => ?_, fun up late => ?_⟩
      · exact ⟨_, begins, beginMigration_apart sound tenant pages (joins.not.mpr apart) ▸ ccDone_endsWith (by decide) 0 still1 rfl rfl⟩
      · rw [begins, beginMigration_framing sound tenant pages (joins.mpr up) late]
      · refine ⟨_, begun s t.part ps, begins.trans (congrArg _ (beginMigration_claims sound tenant pages (joins.mpr up) late)), rfl, rfl, rfl,
          rfl, rfl, rfl, rfl, ?_, fun i hi => ?_⟩
        · exact (congrArg Device.ccgo ((State.sendAll_onlySent ..).dev.trans dev)).trans go
        · have claimed : claimOf (s.cc 4 2) t.part (s.cc 6 1) (ps[i], i) ∈ ps.zipIdx.map (claimOf (s.cc 4 2) t.part (s.cc 6 1)) :=
            List.mem_map.mpr ⟨_, List.mem_zipIdx_iff_getElem?.mpr (List.getElem?_eq_getElem hi), rfl⟩
          obtain ⟨k, found⟩ := State.sendAll_sent claimed s1
          exact ⟨k, _, found, rfl, rfl, rfl, rfl⟩
  · refine ⟨fun c hc => ⟨_, exec_migrate_refused h hm hs hc, abortMigration_endsWith hm (by decide) _⟩, fun hc =>
      ⟨exec_migrate_claiming h hm hs hc, fun hl => ?_, rfl, fun k l hl held => Unb.leave_eq ▸ leaveLines_held hl held⟩⟩
    have granted := exec_migrate_granted h hm hs hc hl
    refine ⟨fun i lost => ⟨_, granted, sendMigration_lost lost ▸ abortMigration_endsWith hm (by decide) _⟩, fun s1 found pulled => ?_⟩
    have sent := s1.sendAll_onlySent (m.peerLines.map (lineMsg m s1.caches))
    refine ⟨_, granted.trans (congrArg _ ((sendMigration_sound found pulled).trans (sendLines_eq ..))), rfl, sent.mem, sent.caches,
      fun i j g hg hj => ?_⟩
    obtain ⟨k, found⟩ := State.sendAll_sent (List.mem_map_of_mem (f := lineMsg m s1.caches) (mem_peerLines hg hj)) s1
    exact ⟨k, _, found, rfl, rfl, rfl, rfl, fun l hl hu => lineMsg_written hl hu⟩
  · refine ⟨fun hw => ⟨exec_migrate_arriving h hm hs hw, _, exec_migrateAckTimeout_late hm (by omega) hw,
      abortMigration_endsWith hm (by decide) 0⟩, fun s1 hw pointed => ?_⟩
    refine ⟨_, (exec_migrate_arrived h hm hs hw).trans (congrArg _ (commitMigration_eq pointed)), rfl, withdrawPages_mem m s1 m.pages,
      fun c e he here => (mem_tlbs_withdrawPages he).2 here⟩
  · refine ⟨exec_migrate_withdrawing h hm hs, fun hw once => ?_⟩
    have withdrawn := exec_migrate_withdrawn h hm hs hw
    exact ⟨⟨_, withdrawn, endMigration_endsWith s m⟩, _, withdrawn, fun k hk => endMigration_gone once hk⟩

end Sys2Proof.Machine
end

section
/-! The fences, and the store errors that a release raises (O18). -/

namespace Sys2Proof.Machine

/-! What a core's L1 without dirty SINV bytes gives to a release and loses to an acquire (R128). -/

section
variable {s : State} {core : Nat} (clean : ∀ e ∈ s.caches.l1, e.2.core = core → e.2.perm = .sinv → e.2.dirty = 0)
include clean

theorem sinvWriteBack_clean (part : Nat) : sinvWriteBack s part core = .ok s () := by
  have none : (s.caches.l1.filter fun e => e.2.core = core && e.2.perm = .sinv && e.2.dirty != 0) = [] := by
    rw [List.filter_eq_nil_iff]
    intro e he
    simpa using clean e he
  rw [sinvWriteBack, none]
  rfl

theorem releaseL1_clean (done : writesDone s core) (part scope : Nat) : releaseL1 s part core scope = .ok s () := by
  have noLine : noSinv (sinvInvalidate s core) core :=
    ⟨fun e he => by simpa [imp_iff_not_or] using (List.mem_filter.mp he).2, done⟩
  have performed : s.unperformed core = none :=
    show (sinvInvalidate s core).unperformed core = none from unperformed_noSinv noLine
  simp only [releaseL1, sinvWriteBack_clean clean, Res.bind, performed, ite_self]

end

/-- The state that an acquire of a scope leaves: at crew scope or wider the SINV lines of the core are gone. -/
theorem acquireNow_eq (s : State) (c : Ctx) (scope : Nat) :
    acquireNow s c true scope
      = { s with caches := { s.caches with
            l1 := s.caches.l1.filter fun e => !(1 ≤ scope && e.2.core = c.crew.core && e.2.perm = .sinv) } } := by
  by_cases h : scope = 0
  · simp [acquireNow, h]
  · simp [acquireNow, sinvInvalidate, State.setCaches, h, Nat.one_le_iff_ne_zero]

/-! The gate (R120, R409). -/

theorem withGateEmpty_clear {s : State} {c : Ctx} (hg : gateClear s c) (k : State) : withGateEmpty s c k = k := by
  refine if_neg ?_
  simp only [Bool.and_eq_true, List.any_eq_true, decide_eq_true_eq]
  exact fun ⟨hk, e, he, hr⟩ => hg hk e he hr

theorem withGateEmpty_waits {s : State} {c : Ctx} (hg : ¬gateClear s c) (k : State) : withGateEmpty s c k = s.waitFor c.r (.gate none) := by
  refine if_pos ?_
  simp only [Bool.and_eq_true, List.any_eq_true, decide_eq_true_eq]
  simpa [gateClear] using hg

theorem withRelease_waits {s : State} {c : Ctx} (hg : ¬gateClear s c) {scope : Nat} (wide : 1 ≤ scope) (k : State → State) :
    withRelease s c true scope k = s.waitFor c.r (.gate none) :=
  (if_neg (Nat.one_le_iff_ne_zero.mp wide)).trans (withGateEmpty_waits hg _)

/-! The latched error (R306). -/

theorem latchReached_iff {scope : Nat} {k : LatchKind} :
    latchReached scope k = true ↔ scope = 4 ∨ 1 ≤ scope ∧ (k = .writeOnce ∨ k = .lostUpdate) := by
  cases k <;> simp [latchReached] <;> omega

theorem withLatch_unreached {c : Ctx} {scope : Nat} (h : ∀ k a, c.sp.latch = some (k, a) → ¬latchReached scope k) (s k : State) :
    withLatch s c scope false k = k := by
  unfold withLatch
  split
  · next kind a latched => simp [h kind a latched]
  · rfl

theorem withLatch_reached {c : Ctx} {scope : Nat} {k : LatchKind} {a : W64} (latched : c.sp.latch = some (k, a))
    (reached : latchReached scope k) (s k' : State) :
    withLatch s c scope false k'
      = raise (s.updSplit c.r fun sp => { sp with latch := none }) { c with sp := { c.sp with latch := none } } causeSerr c.sp.mask a := by
  simp [withLatch, latched, reached]

/-! An acquire and a release with nothing to write back. -/

section
variable {s : State} {c : Ctx} (clean : ∀ e ∈ s.caches.l1, e.2.core = c.crew.core → e.2.perm = .sinv → e.2.dirty = 0)
include clean

theorem withAcquire_clean (scope : Nat) (k : State → State) : withAcquire s c true scope k = k (acquireNow s c true scope) := by
  by_cases h : scope = 0
  · simp [withAcquire, acquireL1, acquireNow, h]
  · simp [withAcquire, acquireL1, acquireNow, sinvWriteBack_clean clean, Res.bind, h]

theorem withRelease_clean (done : writesDone s c.crew.core) (hg : gateClear s c) (scope : Nat) (k : State → State) :
    withRelease s c true scope k = withLatch s c scope false (k s) := by
  simp [withRelease, releaseL1_clean clean done, withGateEmpty_clear hg]

end

/-! The fences (R304, R305). -/

section
variable {f : RF} {s : State} {c : Ctx} (hc : s.ctx? = some c) (active : c.any f.g = true)
include hc active

/-- fence.full with a store in the gate. -/
theorem exec_fenceFull_waits (hg : ¬gateClear s c) : exec (.fenceFull f) s = .next (s.waitFor c.r (.gate none)) :=
  (withCtx_of hc _).trans (congrArg _ ((if_pos active).trans (withGateEmpty_waits hg _)))

/-- fence.rel of crew scope or wider with a store in the gate. -/
theorem exec_fenceRel_waits (hg : ¬gateClear s c) (wide : 1 ≤ f.m 2 3) : exec (.fenceRel f) s = .next (s.waitFor c.r (.gate none)) :=
  (withCtx_of hc _).trans (congrArg _ ((if_pos active).trans (withRelease_waits hg wide _)))

variable (clean : ∀ e ∈ s.caches.l1, e.2.core = c.crew.core → e.2.perm = .sinv → e.2.dirty = 0)
include clean

theorem exec_fenceAcq : exec (.fenceAcq f) s = .next ((acquireNow s c true (f.m 2 3)).retire c.r) :=
  (withCtx_of hc _).trans (congrArg _ ((if_pos active).trans (withAcquire_clean clean _ _)))

variable (done : writesDone s c.crew.core) (hg : gateClear s c)
include done hg

/-- fence.rel with an empty gate: the latch decides between SERR and the retirement. -/
theorem exec_fenceRel : exec (.fenceRel f) s = .next (withLatch s c (f.m 2 3) false (s.retire c.r)) :=
  (withCtx_of hc _).trans (congrArg _ ((if_pos active).trans (withRelease_clean clean done hg _ _)))

/-- fence.full with an empty gate: the latch decides between SERR and the acquire. -/
theorem exec_fenceFull :
    exec (.fenceFull f) s = .next (withLatch s c (f.m 2 3) false ((acquireNow s c true (f.m 2 3)).retire c.r)) := by
  refine (withCtx_of hc _).trans (congrArg _ ((if_pos active).trans ?_))
  rw [withGateEmpty_clear hg, withRelease_clean clean done hg, withAcquire_clean clean]

end

/-- Settles O18: with nothing to write back an acquire is the drop of the SINV lines (`acquireNow_eq`), and past an empty gate a release
is what the latch says (`withLatch_unreached`, `withLatch_reached`); before it the release waits. -/
theorem fencesAndStoreErrors : Obligations.FencesAndStoreErrors := by
  unfold Obligations.FencesAndStoreErrors
  intro f s c hc active clean done scope dropped acquired reached waits
  have drop : acquireNow s c true scope = acquired := acquireNow_eq s c scope
  have acq := exec_fenceAcq hc active clean
  have rel := exec_fenceRel hc active clean done
  have full := exec_fenceFull hc active clean done
  rw [drop] at acq full
  refine ⟨acq, fun hg none => ?_, fun hg k a latched hit => ?_, fun hg =>
    ⟨exec_fenceFull_waits hc active hg, exec_fenceRel_waits hc active hg⟩⟩
  · have unreached (k a) (latched : c.sp.latch = some (k, a)) : ¬latchReached scope k := fun h => none k a latched (latchReached_iff.mp h)
    exact ⟨(rel hg).trans (congrArg _ (withLatch_unreached unreached ..)), (full hg).trans (congrArg _ (withLatch_unreached unreached ..))⟩
  · have raised := withLatch_reached latched (latchReached_iff.mpr hit) s
    exact ⟨(rel hg).trans (congrArg _ (raised _)), (full hg).trans (congrArg _ (raised _))⟩

end Sys2Proof.Machine
end

section
/-! A walk, entry by entry, and the checks of the leaf it reaches (O41). -/

namespace Sys2Proof.Machine

/-! The entries that a walker knows. -/

theorem Knows.cons {up : Upper} {tenant stage entry at_ : Nat} {pte e : W64} (h : Knows up tenant stage entry pte) (ne : entry ≠ at_) :
    Knows ((tenant, stage, at_, e) :: up) tenant stage entry pte := by
  obtain ⟨x, hx, rfl⟩ := h
  exact ⟨x, by simp [Ne.symm ne, hx], rfl⟩

theorem readEntry_known {up : Upper} {tenant stage entry : Nat} {pte : W64} (h : Knows up tenant stage entry pte) (s : State) (p : Nat) :
    readEntry s p tenant stage entry up = .ok s pte := by
  obtain ⟨x, hx, rfl⟩ := h
  rw [readEntry, hx]

/-! What a walk does with an entry that it knows, at each level. -/

section
variable {s : State} {p tenant stage va table level : Nat} {up : Upper} {pte : W64}
  (here : s.region p (table + 8 * levelIdx va level) = .local) (known : Knows up tenant stage (table + 8 * levelIdx va level) pte)
include here known

theorem walkOne_entry (inTable : Bool) (acc : Access) (fuel : Nat) :
    walkOne s p tenant stage inTable acc va up (fuel + 1) table level =
      if !pte.getLsbD 0 then .ok s (.error (.absent stage level inTable (table + 8 * levelIdx va level) va))
      else if malformed pte level (levelIdx va level) false then .ok s (.error (xperm 13 stage level inTable acc))
      else if pte.getLsbD 1 then .ok s (.ok (leafOf pte (table + 8 * levelIdx va level) level (levelIdx va level), up))
      else walkOne s p tenant stage inTable acc va ((tenant, stage, table + 8 * levelIdx va level, pte) :: up) fuel (fld pte 16 40 * 4096)
        (level + 1) := by
  simp only [walkOne, here, readEntry_known known]
  rfl

theorem walkOne_absent (h : pte.getLsbD 0 = false) (inTable : Bool) (acc : Access) (fuel : Nat) :
    walkOne s p tenant stage inTable acc va up (fuel + 1) table level =
      .ok s (.error (.absent stage level inTable (table + 8 * levelIdx va level) va)) := by
  rw [walkOne_entry here known, h]; rfl

theorem walkOne_malformed (h : pte.getLsbD 0 = true) (bad : malformed pte level (levelIdx va level) false = true) (inTable : Bool)
    (acc : Access) (fuel : Nat) :
    walkOne s p tenant stage inTable acc va up (fuel + 1) table level = .ok s (.error (xperm 13 stage level inTable acc)) := by
  rw [walkOne_entry here known, h, bad]; rfl

theorem walkOne_leads (h : Leads pte level (levelIdx va level)) (inTable : Bool) (acc : Access) (fuel : Nat) :
    walkOne s p tenant stage inTable acc va up (fuel + 1) table level =
      walkOne s p tenant stage inTable acc va ((tenant, stage, table + 8 * levelIdx va level, pte) :: up) fuel (fld pte 16 40 * 4096)
        (level + 1) := by
  obtain ⟨valid, table, formed⟩ := h
  rw [walkOne_entry here known, valid, table, formed]; rfl

theorem walkOne_leaf (h : pte.getLsbD 0 = true) (leaf : pte.getLsbD 1 = true)
    (formed : malformed pte level (levelIdx va level) false = false) (inTable : Bool) (acc : Access) (fuel : Nat) :
    walkOne s p tenant stage inTable acc va up (fuel + 1) table level =
      .ok s (.ok (leafOf pte (table + 8 * levelIdx va level) level (levelIdx va level), up)) := by
  rw [walkOne_entry here known, h, leaf, formed]; rfl

end

/-- The frame of a well-formed leaf of level 3 is its place of a run that starts at a multiple of the run (R150). -/
theorem leafOf_run {pte : W64} {i run size : Nat} (hr : runLen (fld pte 11 2) = run) (hs : run * 4096 = size) (leaf : pte.getLsbD 1 = true)
    (formed : malformed pte 3 i false = false) (entry : Nat) :
    (leafOf pte entry 3 i).base + i % run * 4096 = fld pte 16 40 * 4096 ∧ (leafOf pte entry 3 i).size = size
      ∧ (leafOf pte entry 3 i).base % size = 0 := by
  simp only [malformed, leaf, unitOf, hr] at formed
  simp only [Bool.not_true, Bool.false_eq_true, if_false, Bool.or_eq_false_iff, decide_eq_false_iff_not, Nat.not_lt, bne_eq_false_iff_eq,
    Nat.reduceEqDiff, mul_one, one_mul] at formed
  obtain ⟨⟨⟨-, inside⟩, aligned⟩, -⟩ := formed
  simp only [leafOf, unitOf, hr, ← hs, Nat.reduceEqDiff, if_false, mul_one, true_and]
  refine ⟨?_, ?_⟩
  · rw [← add_mul, Nat.sub_add_cancel inside]
  · rw [Nat.mul_mod_mul_right, aligned, zero_mul]

theorem leafOf_single {pte : W64} {i : Nat} (hr : runLen (fld pte 11 2) = 1) (leaf : pte.getLsbD 1 = true)
    (formed : malformed pte 3 i false = false) (entry : Nat) :
    (leafOf pte entry 3 i).base = fld pte 16 40 * 4096 ∧ (leafOf pte entry 3 i).size = 4096 := by
  obtain ⟨place, size, -⟩ := leafOf_run hr (one_mul _) leaf formed entry
  rw [Nat.mod_one, zero_mul, add_zero] at place
  exact ⟨place, size⟩

/-! The checks of a leaf, in the order of Table 6.4. -/

theorem regionRow_local {pa : Nat} : regionRow pa = 0 ↔ pa < 0x2000000000 := by
  by_cases h : pa < 0x2000000000
  · exact iff_of_true (if_pos h) h
  · refine iff_of_false ?_ h
    rw [regionRow, if_neg h]
    split_ifs <;> simp

/-- The class of a leaf is its own where no other stage has one. -/
theorem clsJoin_zero {pte : W64} (h : fld pte 5 2 ≠ 3) : clsJoin (fld pte 5 2) 0 = fld pte 5 2 := by
  have small : fld pte 5 2 < 2 ^ 2 := Nat.mod_lt _ (by positivity)
  generalize fld pte 5 2 = a at h small ⊢
  interval_cases a
  · rfl
  · rfl
  · rfl
  · exact absurd rfl h

/-- Checks 1 to 4 of Table 6.4 as a list of failures, of which the first counts. -/
theorem leafFault_eq (s : State) (p : Nat) (l : Leaf) (stage : Nat) (table : Bool) (acc : Access) :
    leafFault s p l (fld l.pte 5 2) stage table acc =
      if regionCheck s p l.base l.size (l.pte.getLsbD 9) (fld l.pte 5 2) ≠ 0 then
        some (xperm (regionCheck s p l.base l.size (l.pte.getLsbD 9) (fld l.pte 5 2)) stage l.level table acc)
      else if l.pte.getLsbD 9 = true ∧ (fld l.pte 5 2 ≠ 0 ∨ (l.pte.getLsbD 10 = true ∧ 65536 < l.size)) then some (xperm 12 stage l.level table acc)
      else if l.pte.getLsbD 13 = true ∧ (l.pte.getLsbD 9 = true ∨ ¬l.base < 0x2000000000
          ∨ s.localBytes p - s.localBytes p / 1024 < l.base + l.size) then some (xperm 9 stage l.level table acc)
      else if l.base < 0x2000000000 ∧ s.keyTag p (fld l.pte 56 6) = none then some (xperm 10 stage l.level table acc)
      else none := by
  simp [leafFault, regionRow_local, or_assoc]

/-- What the frame-key shadow becomes for a leaf (R157); a page outside local memory has no frames in it. -/
def shadowFor (s : State) (p : Nat) (l : Leaf) : Option (List (Nat × Byte)) :=
  if l.base < 0x2000000000 then shadowCheck (s.part p).shadow (fld l.pte 56 6) (framesOf l.base l.size) else some (s.part p).shadow

/-- The translation that a leaf of a tenant without stage 2 gives a walk that is made ahead of any access. -/
def aheadEntry (tenant va : Nat) (l : Leaf) : TlbEntry :=
  { tenant := tenant, va := va / l.size * l.size, size := l.size, pa := l.base, gpa := 0, gsize := 0
    r := l.pte.getLsbD 2, w := l.pte.getLsbD 3, x := l.pte.getLsbD 4, cls := clsOf (fld l.pte 5 2), unb := l.pte.getLsbD 9
    late := l.pte.getLsbD 10, view := l.pte.getLsbD 13, key := if l.base < 0x2000000000 then fld l.pte 56 6 else 0
    global := l.pte.getLsbD 14, dirty := false, unused := true }

theorem base_add_whole {size : Nat} (h : 0 < size) (base va : Nat) : base + va % size / size * size = base := by
  rw [Nat.div_eq_of_lt (Nat.mod_lt va h), zero_mul, add_zero]

theorem shadowFor_recorded {s : State} {p : Nat} {l : Leaf}
    (h : ¬(l.base < 0x2000000000 ∧ shadowCheck (s.part p).shadow (fld l.pte 56 6) (framesOf l.base l.size) = none)) :
    ∃ sh, shadowFor s p l = some sh := by
  by_cases here : l.base < 0x2000000000
  · exact (Option.ne_none_iff_exists'.mp fun none => h ⟨here, none⟩).imp fun _ e => (if_pos here).trans e
  · exact ⟨_, if_neg here⟩

section
variable {s : State} {p tenant va : Nat} {acc : Access} {l : Leaf} {t : Tenant} (ht : s.tenant? tenant = some t) (one : t.s2en = false)
  (cls : fld l.pte 5 2 ≠ 3)
include ht one cls

theorem checkLeaf_fault {f : XFault} (h : leafFault s p l (fld l.pte 5 2) 1 false acc = some f) :
    checkLeaf s p tenant va acc true l none = .ok s (.error f) := by
  simp [checkLeaf, ht, one, clsJoin_zero cls, h]

theorem checkLeaf_aliased (sound : leafFault s p l (fld l.pte 5 2) 1 false acc = none) (h : shadowFor s p l = none) :
    checkLeaf s p tenant va acc true l none = .ok s (.error (.trap 7 (detailWord 0 1 l.level false acc))) := by
  simp only [shadowFor] at h
  simp [checkLeaf, ht, one, clsJoin_zero cls, regionRow_local, sound, h]

theorem checkLeaf_recorded (sound : leafFault s p l (fld l.pte 5 2) 1 false acc = none) {sh : List (Nat × Byte)}
    (h : shadowFor s p l = some sh) :
    checkLeaf s p tenant va acc true l none =
      if permitted acc (l.pte.getLsbD 2) (l.pte.getLsbD 3) (l.pte.getLsbD 4) = false then .ok s (.error (xperm 14 1 l.level false acc))
      else if s.downAt p l.base = true then .ok s (.error (.trap 0xD 0))
      else if acc = .atomic ∧ fld l.pte 5 2 = 2 then .ok s (.error (.trap 0xA 0))
      else .ok (s.setPart p { s.part p with shadow := sh })
        (.ok { aheadEntry tenant va l with pa := l.base + va % l.size / l.size * l.size }) := by
  simp only [shadowFor] at h
  simp [checkLeaf, ht, one, clsJoin_zero cls, regionRow_local, sound, h, aheadEntry]

end

/-- Settles O41: each entry decides a walk's next step (`walkOne_absent`, `walkOne_malformed`, `walkOne_leads`, `walkOne_leaf`), and of a leaf's
checks the first that fails its answer (`leafFault_eq`, `checkLeaf_recorded`). -/
theorem walksFollowTheTables : Obligations.WalksFollowTheTables := by
  unfold Obligations.WalksFollowTheTables
  refine ⟨?_, ?_⟩
  · intro s p tenant root va acc up e0 e1 e2 i t1 t2 t3 at0 at1 at2 at3 walk here k0
    simp only [List.forall_mem_cons, List.not_mem_nil, false_implies, implies_true, and_true] at here
    obtain ⟨h0, h1, h2, h3⟩ := here
    refine ⟨fun v => walkOne_absent h0 k0 v .., fun v bad => walkOne_malformed h0 k0 v bad .., fun l0 apart0 k1 => ?_⟩
    simp only [List.forall_mem_cons, List.not_mem_nil, false_implies, implies_true, and_true] at apart0
    obtain ⟨n1, n2, n3⟩ := apart0
    have step0 : walk = _ := walkOne_leads h0 k0 l0 false acc 3
    refine ⟨fun v => step0.trans (walkOne_absent h1 (k1.cons n1) v ..), fun l1 apart1 k2 l2 n32 e3 k3 => ?_⟩
    simp only [List.forall_mem_cons, List.not_mem_nil, false_implies, implies_true, and_true] at apart1
    obtain ⟨n21, n31⟩ := apart1
    have step1 := step0.trans (walkOne_leads h1 (k1.cons n1) l1 false acc 2)
    have step2 := step1.trans (walkOne_leads h2 ((k2.cons n2).cons n21) l2 false acc 1)
    have known : Knows ((tenant, 1, at2, e2) :: (tenant, 1, at1, e1) :: (tenant, 1, at0, e0) :: up) tenant 1 at3 e3 :=
      ((k3.cons n3).cons n31).cons n32
    refine ⟨fun v => step2.trans (walkOne_absent h3 known v ..), fun v leaf formed =>
      ⟨_, _, step2.trans (walkOne_leaf h3 known v leaf formed ..), rfl, rfl, rfl,
        fun n => leafOf_single (by rw [n]; rfl) leaf formed at3, fun n => ?_, fun n => ?_⟩⟩
    · obtain ⟨place, size, start⟩ := leafOf_run (run := 4) (by rw [n]; rfl) rfl leaf formed at3
      exact ⟨place, size, start⟩
    · obtain ⟨place, size, start⟩ := leafOf_run (run := 16) (by rw [n]; rfl) rfl leaf formed at3
      exact ⟨place, size, start⟩
  · intro s p tenant va acc l t ht one cls answer reason refused unbBad isLocal viewBad unloaded aliased allowed
    have faults (r : Nat) (h : leafFault s p l (fld l.pte 5 2) 1 false acc = some (xperm r 1 l.level false acc)) : refused r :=
      checkLeaf_fault ht one cls h
    have checks := leafFault_eq s p l 1 false acc
    refine ⟨fun h => faults _ (checks.trans (if_pos h)), fun h1 => ?_⟩
    replace checks := checks.trans (if_neg (not_not.mpr h1))
    refine ⟨fun h => faults _ (checks.trans (if_pos h)), fun h2 => ?_⟩
    replace checks := checks.trans (if_neg h2)
    refine ⟨fun h => faults _ (checks.trans (if_pos h)), fun h3 => ?_⟩
    replace checks := checks.trans (if_neg h3)
    refine ⟨fun h => faults _ (checks.trans (if_pos h)), fun h4 => ?_⟩
    replace checks := checks.trans (if_neg h4)
    refine ⟨fun h => checkLeaf_aliased ht one cls checks ((if_pos h.1).trans h.2), fun h5 => ?_⟩
    obtain ⟨sh, hsh⟩ := shadowFor_recorded h5
    have recorded : answer = _ := checkLeaf_recorded ht one cls checks hsh
    have granted (h : allowed = true) : answer = _ := recorded.trans (if_neg (ne_false_of_eq_true h))
    have reached (h : allowed = true) (up : s.downAt p l.base = false) : answer = _ := (granted h).trans (if_neg (ne_true_of_eq_false up))
    exact ⟨fun h => recorded.trans (if_pos h), fun h down => (granted h).trans (if_pos down),
      fun h up a u => (reached h up).trans (if_pos ⟨a, u⟩), fun h up other sized =>
        ⟨_, _, (reached h up).trans (if_neg other), rfl, rfl, rfl, base_add_whole sized l.base va, rfl, rfl, rfl, rfl, rfl, rfl, rfl, rfl,
          by rw [State.setPart_part]⟩⟩
end Sys2Proof.Machine
end

section
/-! What an access of memory leaves alone: the launches, the groups and their crews, the tenants, the translations and the weight store.
One lemma for each function of the slices, of the walks and of the engines that a read or a write by physical address comes through. -/

namespace Sys2Proof.Machine

set_option Elab.async false

/-- What stands beside memory, the caches and the device's registers. -/
structure Aside where
  launches : List (Nat × Launch)
  groups : List (Nat × Group)
  crews : List (Nat × Crew)
  tenants : List (Nat × Tenant)
  mmu : Mmu
  ws : List (Nat × Byte)

def State.aside (s : State) : Aside :=
  { launches := s.launches, groups := s.groups, crews := s.crews, tenants := s.tenants, mmu := s.mmu, ws := s.ws }

/-- Whether an access was performed or not, it left `a` aside. -/
def Res.leaves {α : Type} (a : Aside) (r : Res α) : Prop := r.state.aside = a

section
variable {a : Aside} {s : State}

theorem Res.leaves_ok {α : Type} (h : s.aside = a) (x : α) : (Res.ok s x).leaves a := h
theorem Res.leaves_stop {α : Type} (h : s.aside = a) (w : Stop) : (Res.stop s w : Res α).leaves a := h

theorem Res.leaves_of_ok {α : Type} {r : Res α} {x : α} (e : r = .ok s x) (hr : r.leaves a) : s.aside = a := by
  subst e; exact hr

theorem Res.bind_leaves {α β : Type} {r : Res α} {f : State → α → Res β} (hr : r.leaves a) (hf : ∀ s x, s.aside = a → (f s x).leaves a) :
    (r.bind f).leaves a := by
  cases r with
  | ok s x => exact hf s x hr
  | stop s w => exact hr

theorem Res.orDrop_leaves {r : Res Unit} (hr : r.leaves a) : r.orDrop.leaves a := (congrArg State.aside (Res.orDrop_state r)).trans hr

theorem Res.ite_leaves {α : Type} {p : Prop} [Decidable p] {x y : Res α} (hx : x.leaves a) (hy : y.leaves a) :
    (if p then x else y).leaves a := by
  split
  · exact hx
  · exact hy

theorem Res.forEach_leaves {α : Type} (h : s.aside = a) {f : State → α → Res Unit} (hf : ∀ s x, s.aside = a → (f s x).leaves a)
    (l : List α) : (Res.forEach s f l).leaves a := by
  induction l generalizing s with
  | nil => exact h
  | cons x xs ih => exact Res.bind_leaves (hf s x h) fun _ _ h => ih h

theorem Res.foldl_leaves {α β : Type} {f : Res β → α → Res β} {l : List α} {r : Res β} (hr : r.leaves a)
    (hf : ∀ r x, r.leaves a → (f r x).leaves a) : (l.foldl f r).leaves a :=
  List.foldlRecOn l f hr fun r hr x _ => hf r x hr

theorem aside_ite {p : Prop} [Decidable p] {x y : State} (hx : x.aside = a) (hy : y.aside = a) : (if p then x else y).aside = a := by
  split
  · exact hx
  · exact hy

theorem aside_foldl_fst {α β : Type} {f : State × β → α → State × β} (hf : ∀ b x, b.1.aside = a → (f b x).1.aside = a) (l : List α)
    {b : State × β} (h : b.1.aside = a) : (l.foldl f b).1.aside = a :=
  List.foldlRecOn (motive := fun b => b.1.aside = a) l f h fun b h x _ => hf b x h

theorem setCaches_aside (h : s.aside = a) (c) : (s.setCaches c).aside = a := h
theorem setPart_aside (h : s.aside = a) (p x) : (s.setPart p x).aside = a := h
theorem count_aside (h : s.aside = a) (port f) : (s.count port f).aside = a := h
theorem touchL2_aside (h : s.aside = a) (slice set way) : (touchL2 s slice set way).aside = a := h

/-! Memory and the device. -/

theorem aside_onlyDev {t : State} (e : t = { s with dev := t.dev }) (h : s.aside = a) : t.aside = a := by rw [e]; exact h

theorem writeLocalBytes_aside (h : s.aside = a) (p base key bs n) : (s.writeLocalBytes p base key bs n).aside = a := by
  induction n with
  | zero => exact h
  | succ n ih => exact ih

theorem writeBlock_aside (h : s.aside = a) (p line key plain) : (s.writeBlock p line key plain).aside = a := by
  unfold State.writeBlock
  split
  exact writeLocalBytes_aside h ..

theorem reportBadBlock_aside (h : s.aside = a) (q h') : (reportBadBlock s q h').aside = a :=
  aside_onlyDev (charge_onlyDev ..) (aside_onlyDev (reportError_onlyDev ..) h)

/-! The home slices. -/

theorem probeL1_aside (h : s.aside = a) (core line view kind upd) : (probeL1 s core line view kind upd).1.aside = a := by
  unfold probeL1
  dsimp only
  split
  · exact h
  · split
    · exact h
    · split <;> exact h

theorem probeCluster_aside (h : s.aside = a) (cluster skip line view kind upd) :
    (probeCluster s cluster skip line view kind upd).1.aside = a := by
  refine aside_foldl_fst (fun b i h => ?_) _ h
  dsimp only
  split
  · exact h
  · exact probeL1_aside h ..

theorem writeBack_aside (h : s.aside = a) (l) : (writeBack s l).aside = a := by
  unfold writeBack
  split
  · exact aside_ite (writeBlock_aside h ..) h
  · exact h
  · exact h

theorem finishTrans_aside (h : s.aside = a) (lk l t ev who q) : (finishTrans s lk l t ev who q).1.aside = a := by
  have written : (if t.wbm then writeBack s l else s).aside = a := aside_ite (writeBack_aside h l) h
  unfold finishTrans
  dsimp only
  generalize (if t.wbm then writeBack s l else s) = u at written
  split <;> exact written

theorem sendProbes_aside (h : s.aside = a) (port part line view kind targets skip upd) :
    (sendProbes s port part line view kind targets skip upd).1.aside = a := by
  refine aside_foldl_fst (fun b _ h => ?_) targets h
  dsimp only
  split
  · exact h
  · split
    · exact probeCluster_aside (count_aside h ..) ..
    · split <;> exact count_aside h ..

theorem probesIf_aside (h : s.aside = a) (on l e kind who upd) : (probesIf s on l e kind who upd).1.aside = a := by
  unfold probesIf
  split
  · exact sendProbes_aside h ..
  · exact h

theorem heldUp_leaves (h : s.aside = a) (lk ev l) : (heldUp s lk ev l).leaves a := Res.ite_leaves h h

theorem countXfer_aside (h : s.aside = a) (l t d) : (countXfer s l t d).aside = a := aside_ite h h

theorem runTrans_leaves (h : s.aside = a) (lk l ev t q x fill) : (runTrans s lk l ev t q x fill).leaves a := by
  rw [runTrans_eq]
  refine Res.ite_leaves h ?_
  dsimp only
  refine Res.ite_leaves (heldUp_leaves ?_ ..) (Res.ite_leaves (heldUp_leaves ?_ ..) ?_)
  · exact probesIf_aside h ..
  · exact probesIf_aside (countXfer_aside (probesIf_aside h ..) ..) ..
  · exact finishTrans_aside (probesIf_aside (countXfer_aside (probesIf_aside h ..) ..) ..) ..

theorem finishBusy_aside (h : s.aside = a) (lk b) : (finishBusy s lk b).1.aside = a := by
  unfold finishBusy
  dsimp only
  split
  · exact h
  · exact finishTrans_aside (aside_ite (setCaches_aside h _) (countXfer_aside (setCaches_aside h _) ..)) ..

theorem forceOut_leaves (h : s.aside = a) (lk l ev) : (forceOut s lk l ev).leaves a := by
  unfold forceOut
  refine Res.ite_leaves h (Res.bind_leaves (Res.orDrop_leaves (Res.bind_leaves (runTrans_leaves h ..) fun _ _ h => h)) fun _ _ h => ?_)
  split
  · exact h
  · exact Res.ite_leaves h (Res.bind_leaves (runTrans_leaves h ..) fun _ _ h => h)

theorem takeWay_leaves (h : s.aside = a) (slice set) : (takeWay s slice set).leaves a := by
  unfold takeWay
  dsimp only
  split
  · exact h
  · split
    · exact h
    · split
      · exact h
      · exact Res.bind_leaves (forceOut_leaves h ..) fun _ _ h => h

theorem countStall_aside (h : s.aside = a) (port lk ev who) : (countStall s port lk ev who).aside = a := by
  unfold countStall
  split
  · exact h
  · exact aside_ite h h

/-! The fill of a line. -/

theorem fillHost_leaves (h : s.aside = a) (q h') : (fillHost s q h').leaves a := by
  unfold fillHost
  dsimp only
  split
  · exact h
  · exact h
  · exact h
  · exact Res.ite_leaves h (Res.ite_leaves h (Res.ite_leaves h h))

theorem installSiblings_leaves (h : s.aside = a) (q bs) : (installSiblings s q bs).leaves a := by
  refine Res.forEach_leaves h (fun _ _ h => ?_) _
  dsimp only
  exact Res.ite_leaves h (Res.bind_leaves (takeWay_leaves h ..) fun _ _ h => h)

theorem fillView_leaves (h : s.aside = a) (q h') : (fillView s q h').leaves a := by
  unfold fillView
  split
  · exact reportBadBlock_aside h ..
  · exact Res.bind_leaves (installSiblings_leaves h ..) fun _ _ h => h

theorem fillData_leaves (h : s.aside = a) (q h') : (fillData s q h').leaves a := by
  unfold fillData
  dsimp only
  refine Res.ite_leaves (Res.bind_leaves (fillHost_leaves h ..) fun _ _ h => ?_) (Res.ite_leaves h (Res.ite_leaves
    (Res.bind_leaves (fillView_leaves h ..) fun _ _ h => h) h))
  exact Res.ite_leaves (fillView_leaves h ..) h

theorem fillFor_leaves (h : s.aside = a) (q h' t mask) : (fillFor s q h' t mask).leaves a :=
  Res.ite_leaves (Res.bind_leaves (fillData_leaves h ..) fun _ _ h => h) h

/-! An event at its home slice. -/

theorem sliceHit_leaves (h : s.aside = a) (q ev mask lk h' l prog x) : (sliceHit s q ev mask lk h' l prog x).leaves a :=
  Res.ite_leaves h (Res.ite_leaves h (Res.ite_leaves (Res.bind_leaves (forceOut_leaves h ..) fun _ _ h => h)
    (Res.bind_leaves (Res.ite_leaves (touchL2_aside h ..) (fillFor_leaves (touchL2_aside h ..) ..))
      fun _ _ h => runTrans_leaves h ..)))

theorem sliceAbsent_leaves (h : s.aside = a) (q ev lk h' prog x) : (sliceAbsent s q ev lk h' prog x).leaves a := by
  unfold sliceAbsent
  dsimp only
  refine Res.ite_leaves (Res.ite_leaves h (Res.ite_leaves h h)) (Res.ite_leaves h (Res.ite_leaves h (Res.ite_leaves
    (Res.bind_leaves (takeWay_leaves h ..) fun _ _ h => runTrans_leaves (touchL2_aside h ..) ..) (Res.ite_leaves h ?_))))
  split
  · exact h
  · exact Res.bind_leaves (forceOut_leaves h ..) fun _ _ h => Res.bind_leaves (takeWay_leaves h ..) fun _ _ h =>
      runTrans_leaves (touchL2_aside h ..) ..

theorem sliceMiss_leaves (h : s.aside = a) (q ev mask lk h' prog x) : (sliceMiss s q ev mask lk h' prog x).leaves a :=
  Res.ite_leaves h (Res.ite_leaves h (Res.bind_leaves (fillFor_leaves h ..) fun _ _ h =>
    Res.bind_leaves (Res.ite_leaves h (takeWay_leaves h ..)) fun _ _ h => runTrans_leaves (aside_ite h (touchL2_aside h ..)) ..))

theorem sliceOpen_leaves (h : s.aside = a) (q ev data mask) : (sliceOpen s q ev data mask).leaves a := by
  unfold sliceOpen
  refine Res.ite_leaves h (Res.ite_leaves h (Res.ite_leaves (countStall_aside h ..) (Res.ite_leaves h ?_)))
  split
  · exact sliceHit_leaves h ..
  · exact Res.ite_leaves (sliceAbsent_leaves h ..) (sliceMiss_leaves h ..)

theorem sliceEvent_leaves (h : s.aside = a) (q ev data mask) : (sliceEvent s q ev data mask).leaves a := by
  unfold sliceEvent
  dsimp only
  split
  · exact sliceOpen_leaves h ..
  · rename_i b _
    have done := finishBusy_aside h (lineKey q.part q.line q.view) b
    refine Res.ite_leaves h (Res.ite_leaves ?_ (Res.ite_leaves h (sliceOpen_leaves done ..)))
    split <;> rename_i e <;> rw [e] at done
    · exact done
    · exact sliceOpen_leaves done ..

/-! What a walk reads and writes. -/

theorem readPhys_leaves (h : s.aside = a) (p pa n) : (readPhys s p pa n).leaves a := Res.bind_leaves (sliceEvent_leaves h ..) fun _ _ h => h
theorem writePhys_leaves (h : s.aside = a) (p pa n v) : (writePhys s p pa n v).leaves a :=
  Res.bind_leaves (sliceEvent_leaves h ..) fun _ _ h => h

theorem readEntry_leaves (h : s.aside = a) (p tenant stage entry up) : (readEntry s p tenant stage entry up).leaves a := by
  unfold readEntry
  split
  · exact h
  · exact Res.bind_leaves (readPhys_leaves h ..) fun _ _ h => h

theorem walkOne_leaves (h : s.aside = a) (p tenant stage inTable acc va up fuel table level) :
    (walkOne s p tenant stage inTable acc va up fuel table level).leaves a := by
  induction fuel generalizing s up table level with
  | zero => exact h
  | succ fuel ih =>
    exact Res.ite_leaves h (Res.bind_leaves (readEntry_leaves h ..) fun _ _ h =>
      Res.ite_leaves h (Res.ite_leaves h (Res.ite_leaves h (ih h ..))))

theorem setAD_leaves (h : s.aside = a) (p l dirty) : (setAD s p l dirty).leaves a := Res.ite_leaves h (writePhys_leaves h ..)

theorem walkGuest_leaves (h : s.aside = a) (p tenant s2root acc va up tabs fuel table level) :
    (walkGuest s p tenant s2root acc va up tabs fuel table level).leaves a := by
  induction fuel generalizing s up tabs table level with
  | zero => exact h
  | succ fuel ih =>
    unfold walkGuest
    refine Res.bind_leaves (walkOne_leaves h ..) fun s r h => ?_
    split
    · exact h
    · dsimp only
      split
      · exact h
      · exact Res.bind_leaves (readEntry_leaves h ..) fun _ _ h => Res.ite_leaves h (Res.ite_leaves h (Res.ite_leaves h (ih h ..)))

theorem checkLeaf_leaves (h : s.aside = a) (p tenant va acc ahead l guest) : (checkLeaf s p tenant va acc ahead l guest).leaves a := by
  unfold checkLeaf
  dsimp only
  split
  · exact h
  · split
    · exact h
    · refine Res.ite_leaves ?_ (Res.ite_leaves h (Res.ite_leaves h (Res.ite_leaves h ?_)))
      · split
        · exact h
        · exact Res.ite_leaves h h
      · split
        · exact Res.bind_leaves (setAD_leaves (setPart_aside h ..) ..) fun _ _ h => h
        · exact Res.bind_leaves (Res.forEach_leaves (setPart_aside h ..) (fun _ _ h => setAD_leaves h ..) _) fun _ _ h =>
            Res.bind_leaves (setAD_leaves h ..) fun _ _ h => Res.bind_leaves (setAD_leaves h ..) fun _ _ h => h

theorem keepUpper_leaves {r : Res WalkOut} (hr : r.leaves a) (old up) : (keepUpper old up r).leaves a := by
  refine Res.bind_leaves hr fun _ o h => ?_
  cases o <;> exact h

theorem walkAll_leaves (h : s.aside = a) (tenant va acc ahead up) : (walkAll s tenant va acc ahead up).leaves a := by
  unfold walkAll
  split
  · exact h
  · refine Res.ite_leaves (Res.bind_leaves (walkGuest_leaves h ..) fun _ r h => ?_) (Res.bind_leaves (walkOne_leaves h ..) fun _ r h => ?_)
    · split
      · exact h
      · refine Res.bind_leaves (walkOne_leaves h ..) fun _ r h => ?_
        split
        · exact h
        · exact keepUpper_leaves (checkLeaf_leaves h ..) ..
    · split
      · exact h
      · exact keepUpper_leaves (checkLeaf_leaves h ..) ..

/-! What an engine reads and writes. -/

theorem homeAsk_leaves (h : s.aside = a) (q ev) : (homeAsk s q ev).leaves a := by
  unfold homeAsk
  split
  · exact sliceEvent_leaves h ..
  · split <;> exact h

theorem homeSend_leaves (h : s.aside = a) (q ev who tenant d m) : (homeSend s q ev who tenant d m).leaves a := by
  unfold homeSend
  split
  · exact Res.bind_leaves (sliceEvent_leaves h ..) fun _ _ h => h
  · exact aside_ite h h

theorem engineRead_leaves (h : s.aside = a) (core q) : (engineRead s core q).leaves a := by
  unfold engineRead
  split
  · exact h
  · split
    · exact Res.ite_leaves h (Res.bind_leaves (homeAsk_leaves h ..) fun _ _ h => h)
    · exact Res.bind_leaves (homeAsk_leaves h ..) fun _ _ h => h

theorem engineWrite_leaves (h : s.aside = a) (core q who tenant d m) : (engineWrite s core q who tenant d m).leaves a := by
  unfold engineWrite
  dsimp only
  split
  · exact h
  · split
    · exact Res.ite_leaves h (Res.ite_leaves (Res.bind_leaves (homeSend_leaves h ..) fun _ _ h => h) (homeSend_leaves h ..))
    · exact homeSend_leaves h ..

theorem cleanSinv_leaves (h : s.aside = a) (part k l) : (cleanSinv s part k l).leaves a := by
  unfold cleanSinv
  refine Res.bind_leaves (Res.orDrop_leaves (homeSend_leaves h ..)) fun _ _ h => ?_
  split <;> exact h

theorem sinvWriteBack_leaves (h : s.aside = a) (part core) : (sinvWriteBack s part core).leaves a := by
  refine Res.forEach_leaves h (fun _ _ h => ?_) _
  split
  · exact h
  · exact cleanSinv_leaves h ..

end
end Sys2Proof.Machine
end

section
/-! The walk unit (O42): a walker is given to a walk, a walk ends and its waiters go on, and walks are made ahead of an engine. -/

namespace Sys2Proof.Machine

/-- What some element of a list brings about in a fold, and every element then keeps, holds in the end; `I` holds throughout. -/
theorem foldl_reaches {α β : Type} {f : β → α → β} {I P : β → Prop} {l : List α} {x : α} (hx : x ∈ l)
    (inv : ∀ b, ∀ y ∈ l, I b → I (f b y)) (reach : ∀ b, I b → P (f b x)) (stay : ∀ b, ∀ y ∈ l, P b → P (f b y)) {b : β} (h : I b) :
    P (l.foldl f b) := by
  obtain ⟨l1, l2, rfl⟩ := List.append_of_mem hx
  rw [List.foldl_append, List.foldl_cons]
  have before : I (l1.foldl f b) := List.foldlRecOn l1 f h fun b h y hy => inv b y (by simp [hy]) h
  exact List.foldlRecOn l2 f (reach _ before) fun b h y hy => stay b y (by simp [hy]) h

/-! Walkers (R161). -/

theorem freeWalker_lowest {m : Mmu} {k : Nat} (hk : k < 32) (free : ∀ e ∈ m.walks, e.2.running ≠ some k)
    (used : ∀ j, j < k → ∃ e ∈ m.walks, e.2.running = some j) : m.freeWalker = some k := by
  rw [Mmu.freeWalker, walkers, List.find?_range_eq_some]
  refine ⟨by simpa using free, List.mem_range.mpr hk, fun j hj => ?_⟩
  obtain ⟨e, he, hr⟩ := used j hj
  simp only [Bool.not_eq_true', List.all_eq_false]
  exact ⟨e, he, by simp [hr]⟩

/-- A tenant that may be given a walker, and had one no later than every other that may, is next. -/
theorem nextWalk_least {s : State} {tenant : Nat} (may : s.walkable tenant = true) (free : s.mmu.freeWalker.isSome = true)
    (least : ∀ e ∈ s.tenants, e.1 ≠ tenant → s.walkable e.1 = true → Tbl.getD s.mmu.lastGiven tenant 0 ≤ Tbl.getD s.mmu.lastGiven e.1 0) :
    s.nextWalk tenant = true := by
  simp only [State.nextWalk, may, free, Bool.and_self, Bool.true_and, List.all_eq_true]
  intro e he
  by_cases same : e.1 = tenant
  · simp [same]
  · by_cases other : s.walkable e.1 = true
    · simp [least e he same other]
    · simp [other]

theorem exec_walkStart_given {s : State} {tenant i k : Nat} {w : Walk} {rest : List (Nat × Walk)} (next : s.nextWalk tenant = true)
    (free : s.mmu.freeWalker = some k) (first : s.mmu.queued tenant = (i, w) :: rest) :
    exec (.walkStart tenant) s = .next (s.setMmu { s.mmu with
      walks := Tbl.put s.mmu.walks i { w with running := some k }, lastGiven := Tbl.put s.mmu.lastGiven tenant (s.steps + 1) }) := by
  change execWalkStart tenant s = _
  simp only [execWalkStart, next, free, first]
  rfl

/-! The translation that a walk gives goes to the TLBs of its waiters (R158, R162). -/

/-- Both translate the same page to the same place. -/
def TlbEntry.samePage (x e : TlbEntry) : Prop := x.tenant = e.tenant ∧ x.va = e.va ∧ x.size = e.size ∧ x.pa = e.pa

theorem mem_tlbAdd (cap seed : Nat) (l : List TlbEntry) (e : TlbEntry) : e ∈ tlbAdd cap seed l e := List.mem_cons_self

theorem mem_l2TlbAdd (seed : Nat) (l : List TlbEntry) (e : TlbEntry) : e ∈ l2TlbAdd seed l e :=
  List.mem_append_left _ (mem_tlbAdd ..)

theorem tlbOf_put_same (t : List (Nat × List TlbEntry)) (k : Nat) (l : List TlbEntry) : State.tlbOf (Tbl.put t k l) k = l := Tbl.getD_put_same ..

theorem tlbOf_put_other (t : List (Nat × List TlbEntry)) {k n : Nat} (l : List TlbEntry) (h : n ≠ k) :
    State.tlbOf (Tbl.put t k l) n = State.tlbOf t n := Tbl.getD_put_other _ _ _ h

/-- A core's L1 TLB and its cluster's L2 TLB hold a translation. -/
def State.holdsFor (s : State) (core : Nat) (e : TlbEntry) : Prop :=
  e ∈ State.tlbOf s.mmu.l1tlb core ∧ e ∈ State.tlbOf s.mmu.l2tlb (core / 8)

theorem installTlb_holdsFor (s : State) (core : Nat) (e : TlbEntry) : (installTlb s core e).holdsFor core e := by
  refine ⟨?_, ?_⟩
  · exact (tlbOf_put_same ..).symm ▸ mem_tlbAdd ..
  · exact (tlbOf_put_same ..).symm ▸ mem_l2TlbAdd ..

theorem State.holdsFor.installTlb {s : State} {core : Nat} {e : TlbEntry} (h : s.holdsFor core e) (other : Nat) :
    (installTlb s other e).holdsFor core e := by
  obtain ⟨h1, h2⟩ := h
  refine ⟨?_, ?_⟩
  · by_cases same : core = other
    · exact same ▸ (installTlb_holdsFor s core e).1
    · exact (tlbOf_put_other _ _ same).symm ▸ h1
  · by_cases same : core / 8 = other / 8
    · exact same ▸ (installTlb_holdsFor s other e).2
    · exact (tlbOf_put_other _ _ same).symm ▸ h2

/-- An engine's own TLB holds a translation of a page. -/
def State.aheadFor (s : State) (core : Nat) (e : TlbEntry) : Prop := ∃ x ∈ State.tlbOf s.mmu.ahead core, x.samePage e

theorem installAhead_aheadFor (s : State) (core : Nat) {e x : TlbEntry} (h : x.samePage e) : (installAhead s core x).aheadFor core e :=
  ⟨x, (tlbOf_put_same ..).symm ▸ mem_tlbAdd .., h⟩

theorem State.aheadFor.installAhead {s : State} {core : Nat} {e x : TlbEntry} (h : s.aheadFor core e) (other : Nat) (hx : x.samePage e) :
    (installAhead s other x).aheadFor core e := by
  by_cases same : core = other
  · exact same ▸ installAhead_aheadFor s core hx
  · obtain ⟨y, hy, hs⟩ := h
    exact ⟨y, (tlbOf_put_other _ _ same).symm ▸ hy, hs⟩

/-- A waiter's TLBs are given nothing, the translation ahead of its use, or the translation to be used. -/
theorem installFor_cases (s : State) (e : TlbEntry) (w : Walker) :
    installFor s e w = s ∨ (∃ core x, TlbEntry.samePage x e ∧ installFor s e w = installAhead s core x)
      ∨ ∃ core, installFor s e w = installTlb s core { e with unused := false } := by
  cases w with
  | ahead core id =>
    by_cases h : s.recordCmd core id = true
    · exact .inr (.inl ⟨core, { e with unused := true, dirty := false }, ⟨rfl, rfl, rfl, rfl⟩, if_pos h⟩)
    · exact .inl (if_neg h)
  | command core id =>
    by_cases h : (s.recordCmd core id && (State.tlbOf s.mmu.ahead core).any fun x => x.tenant = e.tenant && x.va = e.va && x.size = e.size && x.unused) = true
    · exact .inr (.inl ⟨core, { e with unused := false }, ⟨rfl, rfl, rfl, rfl⟩, if_pos h⟩)
    · exact .inr (.inr ⟨core, if_neg h⟩)
  | _ => exact .inr (.inr ⟨_, rfl⟩)

/-! A walk that has ended (R152, R161). -/

/-- The walk is gone, and its walker keeps the entries above its leaf. -/
def walkEnded (s : State) (walk k : Nat) (up : Upper) : State :=
  s.setMmu { s.mmu with walks := Tbl.del s.mmu.walks walk, upper := Tbl.put s.mmu.upper k (upperTrim s.steps up) }

/-- A waiter is given the translation, and goes on. -/
def serveWaiter (e : TlbEntry) (s : State) (x : Walker × Access) : State := wake (installFor s e x.1) x.1

/-- A waiter goes on, told of the fault if it is one of its own access. -/
def failWaiter (page : Nat) (f : XFault) (acc : Access) (s : State) (x : Walker × Access) : State :=
  wake (if x.2 = acc then tellFault s page f x.1 else s) x.1

section
variable {s s1 : State} {walk k : Nat} {w : Walk} {up : Upper} (hw : Tbl.find? s.mmu.walks walk = some w) (hk : w.running = some k)
include hw hk

theorem exec_walkComplete_translated {e : TlbEntry}
    (ended : walkAll s w.tenant (w.page * 4096) w.ask.1 w.ask.2 (Tbl.getD s.mmu.upper k []) = .ok s1 (.ok e, up)) :
    exec (.walkComplete walk) s = .next (w.waiters.foldl (serveWaiter e) (walkEnded s1 walk k up)) := by
  change execWalkComplete walk s = _
  simp only [execWalkComplete, hw, hk, ended]
  rfl

theorem exec_walkComplete_failed {f : XFault}
    (ended : walkAll s w.tenant (w.page * 4096) w.ask.1 w.ask.2 (Tbl.getD s.mmu.upper k []) = .ok s1 (.error f, up)) :
    exec (.walkComplete walk) s = .next (w.waiters.foldl (failWaiter w.page f w.ask.1) (walkEnded s1 walk k up)) := by
  change execWalkComplete walk s = _
  simp only [execWalkComplete, hw, hk, ended]
  rfl

end

/-- A walk changes nothing of the MMU, so it is still in the queue when it ends. -/
theorem walkAll_mmu {s s1 : State} {tenant va : Nat} {acc : Access} {ahead : Bool} {up : Upper} {o : WalkOut × Upper}
    (h : walkAll s tenant va acc ahead up = .ok s1 o) : s1.mmu = s.mmu :=
  congrArg Aside.mmu (Res.leaves_of_ok h (walkAll_leaves rfl ..))

/-! Those who waited for a translation. -/

/-- Of what the waiters of a walk are given, nothing lies outside the TLBs and the splits. -/
structure ServedOnly (s t : State) : Prop where
  mem : t.mem = s.mem
  caches : t.caches = s.caches
  walks : t.mmu.walks = s.mmu.walks
  cores : t.cores = s.cores

theorem ServedOnly.rfl' (s : State) : ServedOnly s s := ⟨rfl, rfl, rfl, rfl⟩

theorem ServedOnly.serve {s t : State} (h : ServedOnly s t) (e : TlbEntry) (x : Walker × Access) : ServedOnly s (serveWaiter e t x) := by
  obtain ⟨mem, caches, walks, cores⟩ := h
  rw [serveWaiter, wake_onlyGroups]
  rcases installFor_cases t e x.1 with eq | ⟨core, y, -, eq⟩ | ⟨core, eq⟩ <;> rw [eq] <;> exact ⟨mem, caches, walks, cores⟩

theorem serveAll_only (s : State) (e : TlbEntry) (ws : List (Walker × Access)) : ServedOnly s (ws.foldl (serveWaiter e) s) :=
  List.foldlRecOn ws _ (.rfl' s) fun _ h x _ => h.serve e x

theorem holdsFor_wake {s : State} {core : Nat} {e : TlbEntry} (h : s.holdsFor core e) (w : Walker) : (wake s w).holdsFor core e := by
  rw [wake_onlyGroups]; exact h

theorem aheadFor_wake {s : State} {core : Nat} {e : TlbEntry} (h : s.aheadFor core e) (w : Walker) : (wake s w).aheadFor core e := by
  rw [wake_onlyGroups]; exact h

theorem serveWaiter_holdsFor {s : State} {core : Nat} {e : TlbEntry} (h : s.holdsFor core { e with unused := false }) (x : Walker × Access) :
    (serveWaiter e s x).holdsFor core { e with unused := false } := by
  refine holdsFor_wake ?_ _
  rcases installFor_cases s e x.1 with eq | ⟨other, y, -, eq⟩ | ⟨other, eq⟩ <;> rw [eq]
  · exact h
  · exact h
  · exact h.installTlb other

theorem serveWaiter_aheadFor {s : State} {core : Nat} {e : TlbEntry} (h : s.aheadFor core e) (x : Walker × Access) :
    (serveWaiter e s x).aheadFor core e := by
  refine aheadFor_wake ?_ _
  rcases installFor_cases s e x.1 with eq | ⟨other, y, same, eq⟩ | ⟨other, eq⟩ <;> rw [eq]
  · exact h
  · exact h.installAhead other same
  · exact h

/-- A split that waited finds the translation in its core's TLBs. -/
theorem serveAll_holdsFor {e : TlbEntry} {ws : List (Walker × Access)} {r : SplitRef} {core : Nat} {a : Access}
    (h : (.split r core, a) ∈ ws) (s : State) : (ws.foldl (serveWaiter e) s).holdsFor core { e with unused := false } :=
  foldl_reaches (I := fun _ => True) (P := fun t => t.holdsFor core { e with unused := false }) h (fun _ _ _ _ => trivial)
    (fun s _ => holdsFor_wake (installTlb_holdsFor s core _) _)
    (fun _ x _ h => serveWaiter_holdsFor h x) trivial

/-- A tensor walker that walked ahead for a command finds it in its own TLB. -/
theorem serveAll_aheadFor {e : TlbEntry} {ws : List (Walker × Access)} {core id : Nat} {a : Access} (h : (.ahead core id, a) ∈ ws) {s : State}
    (tensor : s.recordCmd core id = true) : (ws.foldl (serveWaiter e) s).aheadFor core e := by
  refine foldl_reaches (I := fun t => t.cores = s.cores) (P := fun t => t.aheadFor core e) h
    (fun t x _ same => ((ServedOnly.rfl' t).serve e x).cores.trans same) (fun t same => ?_) (fun _ x _ h => serveWaiter_aheadFor h x) rfl
  have still : t.recordCmd core id = true := by rw [State.recordCmd, State.core, same]; exact tensor
  refine aheadFor_wake ?_ _
  rw [show installFor t e (.ahead core id) = installAhead t core { e with unused := true, dirty := false } from if_pos still]
  exact installAhead_aheadFor t core ⟨rfl, rfl, rfl, rfl⟩

theorem installFor_groups (s : State) (e : TlbEntry) (w : Walker) : (installFor s e w).groups = s.groups := by
  rcases installFor_cases s e w with eq | ⟨core, x, -, eq⟩ | ⟨core, eq⟩ <;> rw [eq] <;> rfl

theorem split?_of_groups {s t : State} (h : t.groups = s.groups) (r : SplitRef) : t.split? r = s.split? r := by
  unfold State.split? State.group?
  rw [h]

theorem serveAll_split? (s : State) (e : TlbEntry) (ws : List (Walker × Access)) (r : SplitRef) :
    (ws.foldl (serveWaiter e) s).split? r = (s.split? r).map (if ws.any (·.1.isSplit r) then Split.woken else id) := by
  induction ws generalizing s with
  | nil => simp
  | cons x ws ih =>
    rw [List.foldl_cons, ih, serveWaiter, wake_split?, split?_of_groups (installFor_groups s e x.1), Option.map_map, List.any_cons]
    congr 1
    funext sp
    cases x.1.isSplit r <;> cases ws.any (·.1.isSplit r) <;> simp [Split.woken_woken]

theorem isSplit_any {ws : List (Walker × Access)} {r : SplitRef} {core : Nat} {a : Access} (h : (.split r core, a) ∈ ws) :
    ws.any (·.1.isSplit r) = true :=
  List.any_eq_true.mpr ⟨_, h, by simp [Walker.isSplit]⟩

theorem Split.woken_walk {sp : Split} (h : sp.wait = .walk) : sp.woken = { sp with wait := .none } := by
  simp [Split.woken, h]

/-! Those who waited for a fault. -/

/-- What a fault is told to is no part of memory, of the caches or of the MMU. -/
structure ToldOnly (s t : State) : Prop where
  mem : t.mem = s.mem
  caches : t.caches = s.caches
  mmu : t.mmu = s.mmu

theorem tellFault_only (s : State) (page : Nat) (f : XFault) (w : Walker) : ToldOnly s (tellFault s page f w) := by
  cases w with
  | stream core g =>
    unfold tellFault
    dsimp only
    split <;> exact ⟨rfl, rfl, rfl⟩
  | _ => exact ⟨rfl, rfl, rfl⟩

theorem failAll_only (s : State) (page : Nat) (f : XFault) (acc : Access) (ws : List (Walker × Access)) :
    ToldOnly s (ws.foldl (failWaiter page f acc) s) := by
  refine List.foldlRecOn ws _ ⟨rfl, rfl, rfl⟩ fun t h x _ => ?_
  obtain ⟨mem, caches, mmu⟩ := h
  rw [failWaiter, wake_onlyGroups]
  split
  · obtain ⟨mem', caches', mmu'⟩ := tellFault_only t page f x.1
    exact ⟨mem'.trans mem, caches'.trans caches, mmu'.trans mmu⟩
  · exact ⟨mem, caches, mmu⟩

/-- A split notes the fault of a page. -/
def Split.told (page : Nat) (f : XFault) (sp : Split) : Split := { sp with faults := Tbl.put sp.faults page f }

theorem tellFault_split? (s : State) (page : Nat) (f : XFault) (w : Walker) (r : SplitRef) :
    (tellFault s page f w).split? r = (s.split? r).map (if w.isSplit r then Split.told page f else id) := by
  cases w with
  | split x core =>
    change (s.updSplit x (Split.told page f)).split? r = _
    by_cases e : x = r
    · subst e
      simp [Walker.isSplit]
    · simp [Walker.isSplit, e, State.updSplit_split?_other s _ (Ne.symm e)]
  | stream core g =>
    simp only [Walker.isSplit, Bool.false_eq_true, if_false, Option.map_id, id_eq]
    unfold tellFault
    dsimp only
    split <;> rfl
  | _ => simp [Walker.isSplit]; rfl

/-- What one waiter of a failed walk does to a split. -/
def Split.afterFail (r : SplitRef) (page : Nat) (f : XFault) (acc : Access) (x : Walker × Access) (sp : Split) : Split :=
  if x.1.isSplit r then (if x.2 = acc then sp.told page f else sp).woken else sp

theorem failWaiter_split? (s : State) (page : Nat) (f : XFault) (acc : Access) (x : Walker × Access) (r : SplitRef) :
    (failWaiter page f acc s x).split? r = (s.split? r).map (Split.afterFail r page f acc x) := by
  rw [failWaiter, wake_split?]
  unfold Split.afterFail
  by_cases here : x.1.isSplit r = true <;> by_cases own : x.2 = acc <;> simp [here, own, tellFault_split?, Function.comp_def]

theorem failAll_split? (s : State) (page : Nat) (f : XFault) (acc : Access) (ws : List (Walker × Access)) (r : SplitRef) :
    (ws.foldl (failWaiter page f acc) s).split? r = (s.split? r).map fun sp => ws.foldl (fun sp x => sp.afterFail r page f acc x) sp := by
  induction ws generalizing s with
  | nil => simp
  | cons x ws ih => rw [List.foldl_cons, ih, failWaiter_split?, Option.map_map]; rfl

section
variable (r : SplitRef) (page : Nat) (f : XFault) (acc : Access)

/-- A split of a failed walk, as all its waiters leave it. -/
def Split.failed (ws : List (Walker × Access)) (sp : Split) : Split := ws.foldl (fun sp x => sp.afterFail r page f acc x) sp

theorem Split.woken_kept (sp : Split) : sp.woken = { sp with wait := sp.woken.wait } := by
  unfold Split.woken
  split <;> rfl

theorem Split.woken_rests {sp : Split} (h : sp.wait = .walk ∨ sp.wait = .none) : sp.woken.wait = .none := by
  rcases h with h | h <;> simp [Split.woken, h]

theorem Split.afterFail_kept (x : Walker × Access) (sp : Split) :
    sp.afterFail r page f acc x = { sp with wait := (sp.afterFail r page f acc x).wait, faults := (sp.afterFail r page f acc x).faults } := by
  unfold Split.afterFail
  split
  · rw [Split.woken_kept]
    split <;> rfl
  · rfl

theorem Split.afterFail_rests {x : Walker × Access} {sp : Split} (h : sp.wait = .walk ∨ sp.wait = .none) :
    (sp.afterFail r page f acc x).wait = .walk ∨ (sp.afterFail r page f acc x).wait = .none := by
  unfold Split.afterFail
  split
  · right
    split <;> exact Split.woken_rests h
  · exact h

theorem Split.failed_kept (ws : List (Walker × Access)) (sp : Split) :
    sp.failed r page f acc ws = { sp with wait := (sp.failed r page f acc ws).wait, faults := (sp.failed r page f acc ws).faults } := by
  refine List.foldlRecOn (motive := fun sp' : Split => sp' = { sp with wait := sp'.wait, faults := sp'.faults }) ws _ rfl fun sp' h x _ => ?_
  rw [Split.afterFail_kept, h]

variable {r page f acc}

/-- A split that waited for the walk goes on. -/
theorem Split.failed_goesOn {ws : List (Walker × Access)} {core : Nat} {a : Access} (h : (.split r core, a) ∈ ws) {sp : Split}
    (waits : sp.wait = .walk) : (sp.failed r page f acc ws).wait = .none := by
  refine foldl_reaches (I := fun sp : Split => sp.wait = .walk ∨ sp.wait = .none) (P := fun sp : Split => sp.wait = .none) h
    (fun sp x _ h => sp.afterFail_rests r page f acc h) (fun sp h => ?_) (fun sp x _ h => ?_) (.inl waits)
  · unfold Split.afterFail
    rw [if_pos (by simp [Walker.isSplit])]
    split <;> exact Split.woken_rests h
  · unfold Split.afterFail
    split
    · split <;> exact Split.woken_rests (.inr h)
    · exact h

/-- A split whose own access waited for the walk knows its fault. -/
theorem Split.failed_knows {ws : List (Walker × Access)} {core : Nat} (h : (.split r core, acc) ∈ ws) (sp : Split) :
    Tbl.find? (sp.failed r page f acc ws).faults page = some f := by
  have told (sp : Split) : Tbl.find? (sp.told page f).woken.faults page = some f := by
    rw [Split.woken_kept]; exact Tbl.find?_put_same ..
  refine foldl_reaches (I := fun _ : Split => True) (P := fun sp : Split => Tbl.find? sp.faults page = some f) h (fun _ _ _ _ => trivial)
    (fun sp _ => ?_) (fun sp x _ h => ?_) trivial
  · rw [Split.afterFail, if_pos (by simp [Walker.isSplit]), if_pos rfl]
    exact told sp
  · unfold Split.afterFail
    split
    · split
      · exact told sp
      · rw [Split.woken_kept]; exact h
    · exact h

/-- A split that waited with other accesses only learns nothing. -/
theorem Split.failed_ignorant {ws : List (Walker × Access)} (h : ∀ core, (.split r core, acc) ∉ ws) (sp : Split) :
    (sp.failed r page f acc ws).faults = sp.faults := by
  refine List.foldlRecOn (motive := fun sp' : Split => sp'.faults = sp.faults) ws _ rfl fun sp' same x hx => ?_
  unfold Split.afterFail
  split
  · rename_i here
    rw [if_neg, Split.woken_kept]
    · exact same
    · rintro own
      obtain ⟨w, a⟩ := x
      cases w with
      | split r' core =>
        simp only [Walker.isSplit, decide_eq_true_eq] at here own
        exact h core (here ▸ own ▸ hx)
      | _ => cases here
  · exact same

end

/-- WALK_COMPLETE (O42): the waiters of a walk are served (`serveAll_holdsFor` and its like), or told of its fault (`Split.failed_knows`). -/
theorem walkComplete_results {walk k : Nat} {w : Walk} {s s1 : State} {o : WalkOut} {up : Upper} (hw : Tbl.find? s.mmu.walks walk = some w)
    (hk : w.running = some k) (once : (s.mmu.walks.map (·.1)).Nodup)
    (ended : walkAll s w.tenant (w.page * 4096) w.ask.1 w.ask.2 (Tbl.getD s.mmu.upper k []) = .ok s1 (o, up)) :
    ∃ t, exec (.walkComplete walk) s = .next t ∧ Tbl.find? t.mmu.walks walk = none ∧ t.mem = s1.mem ∧ t.caches = s1.caches
      ∧ (∀ e, o = .ok e →
          (∀ r core a, (.split r core, a) ∈ w.waiters → t.holdsFor core { e with unused := false }
            ∧ ∀ sp, s1.split? r = some sp → sp.wait = .walk → t.split? r = some { sp with wait := .none })
          ∧ ∀ core id a, (.ahead core id, a) ∈ w.waiters → s1.recordCmd core id = true → t.aheadFor core e)
      ∧ (∀ f, o = .error f →
          t.mmu.l1tlb = s1.mmu.l1tlb ∧ (∀ r core, (.split r core, w.ask.1) ∈ w.waiters → ∀ sp, s1.split? r = some sp → sp.wait = .walk →
            ∃ sp', t.split? r = some sp' ∧ sp'.wait = .none ∧ Tbl.find? sp'.faults w.page = some f ∧ sp' = { sp with wait := .none, faults := sp'.faults })
          ∧ ∀ r, (∃ core a, (.split r core, a) ∈ w.waiters) → (∀ core, (.split r core, w.ask.1) ∉ w.waiters) →
              ∀ sp, s1.split? r = some sp → sp.wait = .walk → t.split? r = some { sp with wait := .none }) := by
  have gone : Tbl.find? (walkEnded s1 walk k up).mmu.walks walk = none :=
    Tbl.find?_del_same (by rw [walkAll_mmu ended]; exact once) walk
  cases o with
  | ok e =>
    obtain ⟨mem, caches, walks, -⟩ := serveAll_only (walkEnded s1 walk k up) e w.waiters
    refine ⟨_, exec_walkComplete_translated hw hk ended, walks ▸ gone, mem, caches, ?_, nofun⟩
    rintro _ ⟨⟩
    refine ⟨fun r core a h => ⟨serveAll_holdsFor h _, fun sp hsp waits => ?_⟩, fun core id a h tensor => serveAll_aheadFor h tensor⟩
    rw [serveAll_split?, if_pos (isSplit_any h), show (walkEnded s1 walk k up).split? r = some sp from hsp, Option.map_some,
      Split.woken_walk waits]
  | error f =>
    obtain ⟨mem, caches, mmu⟩ := failAll_only (walkEnded s1 walk k up) w.page f w.ask.1 w.waiters
    have left {r : SplitRef} {sp : Split} (hsp : s1.split? r = some sp) :
        (w.waiters.foldl (failWaiter w.page f w.ask.1) (walkEnded s1 walk k up)).split? r = some (sp.failed r w.page f w.ask.1 w.waiters) := by
      rw [failAll_split?, show (walkEnded s1 walk k up).split? r = some sp from hsp]
      rfl
    refine ⟨_, exec_walkComplete_failed hw hk ended, mmu ▸ gone, mem, caches, nofun, ?_⟩
    rintro _ ⟨⟩
    refine ⟨by rw [mmu]; rfl, fun r core h sp hsp waits => ?_, fun r here other sp hsp waits => ?_⟩
    · have rests := Split.failed_goesOn (page := w.page) (f := f) (acc := w.ask.1) h waits
      refine ⟨_, left hsp, rests, Split.failed_knows h sp, ?_⟩
      rw [← rests]
      exact Split.failed_kept ..
    · obtain ⟨core, a, h⟩ := here
      rw [left hsp, Split.failed_kept, Split.failed_goesOn h waits, Split.failed_ignorant other]

end Sys2Proof.Machine
end

section
/-! Page requests, walk-ahead and remote invalidations (O42). -/

namespace Sys2Proof.Machine

/-! Numbers in a record. -/

theorem toBytes_succ (n v : Nat) : toBytes (n + 1) v = BitVec.ofNat 8 v :: toBytes n (v / 256) := by
  simp only [toBytes, List.range_succ_eq_map, List.map_cons, List.map_map, pow_zero, Nat.div_one]
  congr 2
  funext i
  simp [Nat.div_div_eq_div_mul, pow_succ']

theorem leBytes_toBytes (n v : Nat) : leBytes (toBytes n v) = v % 256 ^ n := by
  induction n generalizing v with
  | zero => simp [toBytes, leBytes, Nat.mod_one]
  | succ n ih =>
    rw [toBytes_succ, leBytes, ih, BitVec.toNat_ofNat, pow_succ' 256 n]
    exact (Nat.mod_mul ..).symm

/-- A field behind a part of a record. -/
theorem numAt_skip {xs : List Byte} {k : Nat} (h : xs.length = k) (ys : List Byte) (off n : Nat) : numAt (xs ++ ys) (k + off) n = numAt ys off n := by
  subst h
  rw [numAt, List.drop_length_add_append]
  rfl

/-- The field with which a record begins. -/
theorem numAt_first {n v : Nat} (h : v < 256 ^ n) (ys : List Byte) : numAt (toBytes n v ++ ys) 0 n = v := by
  rw [numAt, List.drop_zero, List.take_left' (toBytes_length n v), leBytes_toBytes, Nat.mod_eq_of_lt h]

/-- A number of two bytes is its bytes. -/
theorem toBytes_two {a b : Nat} (ha : a < 256) : toBytes 2 (a + 256 * b) = toBytes 1 a ++ toBytes 1 b := by
  have low : BitVec.ofNat 8 (a + 256 * b) = BitVec.ofNat 8 a := by simp [← BitVec.toNat_inj]
  have high : (a + 256 * b) / 256 = b := by omega
  rw [toBytes_succ, low, high]
  simp [toBytes]

/-! The record of a page request (Table 6.12). -/

theorem prqRecord_length (s : State) (r : PageReq) : (prqRecord s r).length = 32 := by
  simp only [prqRecord, List.length_append, toBytes_length]

/-- The fields that name the request, the page and the missing entry, each at its offset. -/
theorem prqRecord_fields (s : State) {r : PageReq} (slot : r.slot < 256) (gen : r.gen < 256) (tenant : r.tenant < 65536) (stage : r.stage < 256)
    (level : r.level < 256) :
    numAt (prqRecord s r) 0 1 = r.slot ∧ numAt (prqRecord s r) 1 1 = r.gen ∧ numAt (prqRecord s r) 2 2 = r.tenant
      ∧ numAt (prqRecord s r) 16 1 = r.stage ∧ numAt (prqRecord s r) 17 1 = r.level
      ∧ (r.addr < 2 ^ 64 → numAt (prqRecord s r) 8 8 = r.addr) ∧ (r.entry < 2 ^ 64 → numAt (prqRecord s r) 24 8 = r.entry) := by
  have len (n v : Nat) := toBytes_length n v
  simp only [prqRecord, toBytes_two slot, List.append_assoc]
  refine ⟨numAt_first slot _, ?_, ?_, ?_, ?_, fun addr => ?_, fun entry => ?_⟩
  · exact (numAt_skip (len 1 _) _ 0 1).trans (numAt_first gen _)
  · exact (numAt_skip (len 1 _) _ 1 2).trans ((numAt_skip (len 1 _) _ 0 2).trans (numAt_first tenant _))
  · exact (numAt_skip (len 1 _) _ 15 1).trans ((numAt_skip (len 1 _) _ 14 1).trans ((numAt_skip (len 2 _) _ 12 1).trans
      ((numAt_skip (len 4 _) _ 8 1).trans ((numAt_skip (len 8 _) _ 0 1).trans (numAt_first stage _)))))
  · exact (numAt_skip (len 1 _) _ 16 1).trans ((numAt_skip (len 1 _) _ 15 1).trans ((numAt_skip (len 2 _) _ 13 1).trans
      ((numAt_skip (len 4 _) _ 9 1).trans ((numAt_skip (len 8 _) _ 1 1).trans ((numAt_skip (len 1 _) _ 0 1).trans (numAt_first level _))))))
  · exact (numAt_skip (len 1 _) _ 7 8).trans ((numAt_skip (len 1 _) _ 6 8).trans ((numAt_skip (len 2 _) _ 4 8).trans
      ((numAt_skip (len 4 _) _ 0 8).trans (numAt_first addr _))))
  · exact (numAt_skip (len 1 _) _ 23 8).trans ((numAt_skip (len 1 _) _ 22 8).trans ((numAt_skip (len 2 _) _ 20 8).trans
      ((numAt_skip (len 4 _) _ 16 8).trans ((numAt_skip (len 8 _) _ 8 8).trans ((numAt_skip (len 1 _) _ 7 8).trans
        ((numAt_skip (len 1 _) _ 6 8).trans ((numAt_skip (len 1 _) _ 5 8).trans ((numAt_skip (len 5 _) _ 0 8).trans
          ((congrArg (numAt · 0 8) (List.append_nil _).symm).trans (numAt_first entry []))))))))))

/-! A page request is written to the ring (R167). -/

theorem byteAt_writeHost {s : State} (wf : s.wf) (h : Nat) (bs : List Byte) (p : Nat) :
    (writeHost s h bs).byteAt p = if 2 ^ 51 + h ≤ p ∧ p < 2 ^ 51 + h + bs.length then bs.getD (p - (2 ^ 51 + h)) 0 else s.byteAt p := by
  change readCell (writeCells s.mem (2 ^ 51 + h) bs) p = _
  split
  · rename_i inside
    obtain ⟨i, rfl⟩ := Nat.exists_eq_add_of_le inside.1
    have hi : i < bs.length := by omega
    rw [readCell_writeCells wf.1 bs hi, Nat.add_sub_cancel_left, List.getD_eq_getElem _ _ hi]
  · exact readCell_writeCells_other wf.1 bs (by omega)

theorem prqInterrupt_onlyDev (s : State) (f : Nat) : prqInterrupt s f = { s with dev := (prqInterrupt s f).dev } := sendMsi_onlyDev ..

theorem sendMsi_func (s : State) (f vec : Nat) (en : Bool) (g : Nat) : (sendMsi s f vec en).func g = s.func g := by
  rcases sendMsi_cases s f vec en with e | e
  · rw [e]
  · rw [e]; rfl

theorem prqInterrupt_func (s : State) (f : Nat) :
    (prqInterrupt s f).func f = { s.func f with intstat := (s.func f).intstat ||| BitVec.twoPow 64 21 } := by
  rw [prqInterrupt, sendMsi_func, State.setFunc_func]

/-- The request's record stands in the ring. -/
def requestWritten (s : State) (func : Nat) (r : PageReq) : State :=
  s.setMmu { s.mmu with requests := s.mmu.requests.map fun x => if x.func = func && x.slot = r.slot && x.gen = r.gen then { x with written := true } else x }

/-- The place of the next record of a function's ring. -/
def Func.prqNext (f : Func) : Nat := f.prqbase.toNat / 4096 * 4096 + 32 * (f.prqtail.toNat % 2 ^ f.prqLog)

theorem exec_pageRequestWrite_room {func : Nat} {s : State} {r : PageReq}
    (oldest : s.mmu.requests.find? (fun r => r.func = func && !r.written) = some r) (on : (s.func func).prqcfg.getLsbD 31 = true)
    (room : ((s.func func).prqtail - (s.func func).prqhead).toNat < 2 ^ (s.func func).prqLog) :
    exec (.pageRequestWrite func) s = .next (prqInterrupt
      ((requestWritten (writeHost s (s.func func).prqNext (prqRecord s r)) func r).setFunc func
        { s.func func with prqtail := (s.func func).prqtail + 1 }) func) := by
  change execPageRequestWrite func s = _
  simp only [execPageRequestWrite, oldest, on, room]
  rfl

/-! Walk-ahead (R162). -/

/-- A core's TLBs, or its tensor walker's own, hold a translation of a page. -/
def State.heldFor (s : State) (core tenant page : Nat) : Bool :=
  (State.tlbOf s.mmu.ahead core ++ State.tlbOf s.mmu.l1tlb core ++ State.tlbOf s.mmu.l2tlb (core / 8)).any fun e => e.covers tenant (page * 4096)

theorem heldFor_iff {s : State} {core tenant page : Nat} :
    s.heldFor core tenant page = true ↔ (∃ e ∈ State.tlbOf s.mmu.ahead core, e.covers tenant (page * 4096) = true)
      ∨ (∃ e ∈ State.tlbOf s.mmu.l1tlb core, e.covers tenant (page * 4096) = true)
      ∨ ∃ e ∈ State.tlbOf s.mmu.l2tlb (core / 8), e.covers tenant (page * 4096) = true := by
  simp only [State.heldFor, List.any_append, Bool.or_eq_true, List.any_eq_true, or_assoc]

theorem exec_walkAhead_asked {core id page : Nat} {s : State} {x : Command} {g : Group} {l : Launch} (hx : s.cmd? core id = some x)
    (hg : s.group? x.group = some g) (hl : s.launch? g.launch = some l) (tensor : x.kind = .cpt ∨ x.kind = .cptw)
    (generic : (Record.of x.record).space = 0) (inside : (Record.of x.record).spans page = true)
    (soon : page ∈ (x.pagesLeft.drop 1).take 8) (small : page < 2 ^ 40) :
    exec (.walkAhead core id page) s = .next (if s.heldFor core l.tenant page then s
      else queueWalk s l.tenant page (if x.kind = .cpt then .engRead else .engWrite) (.ahead core id)) := by
  have record : s.recordCmd core id = true := by
    rw [State.recordCmd, show Tbl.find? (s.core core).cmds id = some x from hx]
    simpa using tensor
  have way : (if x.kind.loads then Access.engRead else .engWrite) = if x.kind = .cpt then .engRead else .engWrite := by
    rcases tensor with h | h <;> rw [h] <;> rfl
  have near : ((x.pagesLeft.drop 1).take 8).contains page = true := List.contains_iff_mem.mpr soon
  have low : decide (2 ^ 40 ≤ page) = false := decide_eq_false (Nat.not_le.mpr small)
  change execWalkAhead core id page s = _
  simp only [execWalkAhead, hx, hg, hl, Option.bind_some, record, generic, inside, way, near, low, decide_true, Bool.and_self, Bool.not_true,
    Bool.false_or, Bool.or_false]
  rfl

/-! Remote invalidations (R168). -/

theorem mem_tlbOf_cut {t : List (Nat × List TlbEntry)} {f : TlbEntry → Bool} {c : Nat} {e : TlbEntry} :
    e ∈ State.tlbOf (Tbl.mapVal (fun _ l => l.filter fun e => !f e) t) c ↔ e ∈ State.tlbOf t c ∧ ¬f e = true := by
  rw [tlbOf_mapVal_filter, List.mem_filter, Bool.not_eq_true', Bool.not_eq_true]

theorem exec_remoteInvalidation_up {link lo hi : Nat} {s : State} (up : (s.link link).state = 2) (inside : hi ≤ 0x4000000000) :
    exec (.remoteInvalidation link lo hi) s = .next (dropRemote s link lo hi) := by
  change execRemoteInvalidation link lo hi s = _
  rw [execRemoteInvalidation, if_pos up, Nat.min_eq_left inside]

/-- Settles O42: a walker goes to the next tenant (`nextWalk_least`, `freeWalker_lowest`); the waiters of an ended walk are served
(`serveAll_holdsFor`, `serveAll_aheadFor`) or told of its fault (`Split.failed_knows`); a walk ahead is queued unless the page is held; a page
request is written as its record (`prqRecord_fields`); a remote invalidation is a cut of every TLB (`mem_tlbOf_cut`). -/
theorem walksAndPageRequests : Obligations.WalksAndPageRequests := by
  unfold Obligations.WalksAndPageRequests
  refine ⟨?_, ?_, ?_, ?_, ?_, ?_⟩
  · intro tenant i k w rest s tn ht first quota hk free used least
    have lowest := freeWalker_lowest hk free used
    have may : s.walkable tenant = true := by simpa [State.walkable, first, ht] using quota
    exact ⟨_, exec_walkStart_given (nextWalk_least may (by rw [lowest]; rfl) least) lowest first, Tbl.find?_put_same ..,
      fun j hj => Tbl.find?_put_other _ _ hj, Tbl.getD_put_same .., rfl⟩
  · intro walk k w s s1 o up hw hk once ended
    exact walkComplete_results hw hk once ended
  · intro core id page s x g l hx hg hl tensor generic inside soon small holds
    have asked := exec_walkAhead_asked hx hg hl tensor generic inside soon small
    exact ⟨fun h => asked.trans (congrArg _ (if_pos (heldFor_iff.mpr h))), fun h => asked.trans (congrArg _ (if_neg (mt heldFor_iff.mp h)))⟩
  · intro func s r wf f oldest on room at_
    refine ⟨_, exec_pageRequestWrite_room oldest on room, ?_, ?_, fun p => ?_, ?_, ?_⟩
    · rw [prqInterrupt_func, State.setFunc_func]
    · rw [prqInterrupt_func]
      simp
    · rw [prqInterrupt_onlyDev]
      exact (byteAt_writeHost wf _ _ p).trans (by rw [prqRecord_length]; rfl)
    · rw [prqInterrupt_onlyDev]
      intro x hx hf hs hg
      obtain ⟨y, -, rfl⟩ := List.mem_map.mp hx
      split
      · rfl
      · rename_i other
        rw [if_neg other] at hf hs hg
        simp [hf, hs, hg] at other
    · rw [prqInterrupt_onlyDev]
      exact List.length_map ..
  · intro s r slot gen tenant stage level bs
    exact ⟨prqRecord_length s r, prqRecord_fields s slot gen tenant stage level⟩
  · intro link lo hi s up inside base hit
    have cut {t : List (Nat × List TlbEntry)} {c : Nat} {e : TlbEntry} :
        e ∈ State.tlbOf (Tbl.mapVal (fun _ l => l.filter fun e => !(decide (e.pa < base + hi) && decide (base + lo < e.pa + e.size))) t) c
          ↔ e ∈ State.tlbOf t c ∧ ¬hit e := by
      rw [mem_tlbOf_cut, Bool.and_eq_true, decide_eq_true_eq, decide_eq_true_eq]
    exact ⟨_, exec_remoteInvalidation_up up inside, rfl, rfl, rfl, fun k e => ⟨cut, cut, cut⟩⟩

end Sys2Proof.Machine
end

section
/-! The commands of the control core (O55): each completes with the STATUS of the first check that fails, or does what Table 17.3 says. -/

namespace Sys2Proof.Machine

/-! Completion (R431). -/

theorem sendMsi_onlyMsix (s : State) (f vec : Nat) (en : Bool) :
    sendMsi s f vec en = { s with dev := { s.dev with msix := (sendMsi s f vec en).dev.msix } } := by
  rcases sendMsi_cases s f vec en with e | e
  · rw [e]
  · rw [e]; rfl

theorem errInterrupt_registers (s : State) (f : Nat) :
    errInterrupt s f = { s with dev := { s.dev with funcs := (errInterrupt s f).dev.funcs, msix := (errInterrupt s f).dev.msix } } := by
  unfold errInterrupt
  dsimp only
  rw [sendMsi_onlyMsix]
  rfl

theorem ccDone_done (s : State) {off status : Nat} (inside : 8 * off + 32 ≤ 512) (small : status < 2 ^ 32) :
    CcDone (ccDone s off status) off status := by
  obtain ⟨go, block, raised, -⟩ := ccDone_frame s off status
  exact ⟨go, by rw [block, fld_setFld_same _ inside, Nat.mod_eq_of_lt small], raised⟩

theorem ccDone_refused (s : State) {off status : Nat} (inside : 8 * off + 32 ≤ 512) (small : status < 2 ^ 32) :
    CcRefused s (ccDone s off status) off status := by
  refine ⟨ccDone_done s inside small, ?_⟩
  unfold ccDone
  dsimp only
  split
  · rfl
  · rw [errInterrupt_registers]; rfl

/-- A command is refused: it changes nothing but STATUS, GO and the interrupt. -/
def Refuses (s : State) (i : Instr) (off status : Nat) : Prop := ∃ t, exec i s = .next t ∧ CcRefused s t off status

theorem refuses {s : State} {i : Instr} {off status : Nat} (run : exec i s = .next (ccDone s off status)) (inside : 8 * off + 32 ≤ 512)
    (small : status < 2 ^ 32) : Refuses s i off status :=
  ⟨_, run, ccDone_refused s inside small⟩

theorem ccIs_of {s : State} (go : s.dev.ccgo = true) (locked : s.dev.locked = true) {op : Nat} (h : s.cc 0 4 = op) : s.ccIs op = true := by
  simp [State.ccIs, go, locked, h]

/-! INVAL (R160). -/

/-- Beside the translations of a test, only the outcomes of walks that have ended, and images, are gone. -/
structure Invalidated (s t : State) (f : TlbEntry → Bool) : Prop where
  dev : t.dev = s.dev
  mem : t.mem = s.mem
  caches : t.caches = s.caches
  outbound : t.outbound = s.outbound
  tenants : t.tenants = s.tenants
  walks : t.mmu.walks = s.mmu.walks
  launches : ∀ l x, s.launch? l = some x → ∃ fs, t.launch? l = some { x with faults := fs }
  l1 : ∀ c e, e ∈ State.tlbOf t.mmu.l1tlb c ↔ e ∈ State.tlbOf s.mmu.l1tlb c ∧ ¬f e = true
  l2 : ∀ c e, e ∈ State.tlbOf t.mmu.l2tlb c ↔ e ∈ State.tlbOf s.mmu.l2tlb c ∧ ¬f e = true

/-- A launch whose outcomes of walks are forgotten is otherwise as it was. -/
theorem launch?_forgotten {s t : State} {of_ : Nat → Bool} {l : Nat} {x : Launch}
    (e : t.launches = Tbl.mapVal (fun _ l => if of_ l.tenant then { l with faults := [] } else l) s.launches) (h : s.launch? l = some x) :
    ∃ fs, t.launch? l = some { x with faults := fs } := by
  have found : t.launch? l = some (if of_ x.tenant then { x with faults := [] } else x) := by
    rw [State.launch?, e, Tbl.find?_mapVal, show Tbl.find? s.launches l = some x from h]
    rfl
  split at found
  · exact ⟨_, found⟩
  · exact ⟨_, found⟩

theorem invalTenantBy_invalidated (s : State) (tenant : Nat) (f : TlbEntry → Bool) (image : Nat → Nat → Bool) :
    Invalidated s (invalTenantBy s tenant f image) fun e => e.tenant = tenant && f e :=
  ⟨rfl, rfl, rfl, rfl, rfl, rfl, fun _ _ => launch?_forgotten (of_ := fun t => t = tenant) rfl, fun _ _ => mem_tlbOf_cut, fun _ _ => mem_tlbOf_cut⟩

theorem invalPart_invalidated (s : State) (p : Nat) : Invalidated s (invalPart s p) fun e => s.tenantIn p e.tenant :=
  ⟨rfl, rfl, rfl, rfl, rfl, rfl, fun _ _ => launch?_forgotten (of_ := fun t => s.tenantIn p t) rfl, fun _ _ => mem_tlbOf_cut, fun _ _ => mem_tlbOf_cut⟩

/-- What an INVAL waits for is no part of what it drops. -/
theorem Invalidated.waits {s t : State} {f : TlbEntry → Bool} (h : Invalidated s t f) (kind tenant : Nat) :
    t.invalWaits kind tenant = s.invalWaits kind tenant := by
  unfold State.invalWaits State.accessing State.hostPart State.func State.tenant?
  rw [h.dev, h.caches, h.outbound, h.tenants]

/-- An INVAL drops the translations that are hit, and no others, at once, and completes unless it has to wait. -/
def Drops (s : State) (i : Instr) (hit : TlbEntry → Prop) : Prop :=
  let waits : Prop := s.invalWaits (s.cc 6 1) (s.cc 4 2) = true
  ∃ t, exec i s = .next t ∧ (waits → t.dev = s.dev) ∧ (¬waits → CcDone t 0x18 0) ∧ t.mem = s.mem
    ∧ t.caches = s.caches ∧ t.outbound = s.outbound ∧ (∀ l x, s.launch? l = some x → ∃ fs, t.launch? l = some { x with faults := fs })
    ∧ t.mmu.walks = s.mmu.walks ∧ ∀ c e,
      (e ∈ State.tlbOf t.mmu.l1tlb c ↔ e ∈ State.tlbOf s.mmu.l1tlb c ∧ ¬hit e)
      ∧ (e ∈ State.tlbOf t.mmu.l2tlb c ↔ e ∈ State.tlbOf s.mmu.l2tlb c ∧ ¬hit e)

section
variable {s : State} {i : Instr} (run : exec i s = .next (inval s))
include run

theorem inval_malformed (h : invalMalformed s = true) : Refuses s i 0x18 1 :=
  ⟨_, run.trans (congrArg _ (if_pos h)), ccDone_refused s (by decide) (by decide)⟩

theorem inval_unknown (formed : invalMalformed s = false) (kind : s.cc 6 1 < 5) (h : ¬(s.tenant? (s.cc 4 2)).isSome = true) :
    Refuses s i 0x18 2 := by
  have unlisted : (s.tenant? (s.cc 4 2)).isNone = true := by simpa using h
  refine ⟨_, run.trans (congrArg _ ?_), ccDone_refused s (by decide) (by decide)⟩
  rw [inval, formed, unlisted, decide_eq_true kind]
  rfl

theorem inval_formed (formed : invalMalformed s = false) (known : s.cc 6 1 < 5 → (s.tenant? (s.cc 4 2)).isSome = true) :
    let u := invalDo s (s.cc 6 1) (s.cc 4 2) (s.cc 8 8) (s.cc 0x10 8)
    exec i s = .next (if u.invalWaits (s.cc 6 1) (s.cc 4 2) then u else ccDone u 0x18 0) := by
  have found : (decide (s.cc 6 1 < 5) && (s.tenant? (s.cc 4 2)).isNone) = false := by
    by_cases kind : s.cc 6 1 < 5
    · simpa [kind] using known kind
    · simp [kind]
  dsimp only
  rw [run, inval, formed, found]
  rfl

theorem inval_drops (formed : invalMalformed s = false) (known : s.cc 6 1 < 5 → (s.tenant? (s.cc 4 2)).isSome = true)
    {f : TlbEntry → Bool} (h : Invalidated s (invalDo s (s.cc 6 1) (s.cc 4 2) (s.cc 8 8) (s.cc 0x10 8)) f) {hit : TlbEntry → Prop}
    (hf : ∀ e, hit e ↔ f e = true) :
    Drops s i hit := by
  have result := inval_formed run formed known
  dsimp only at result
  rw [h.waits] at result
  generalize invalDo s (s.cc 6 1) (s.cc 4 2) (s.cc 8 8) (s.cc 0x10 8) = u at result h
  simp only [Drops, hf]
  by_cases wait : s.invalWaits (s.cc 6 1) (s.cc 4 2) = true
  · rw [if_pos wait] at result
    exact ⟨u, result, fun _ => h.dev, fun n => absurd wait n, h.mem, h.caches, h.outbound, h.launches, h.walks, fun c e => ⟨h.l1 c e, h.l2 c e⟩⟩
  · rw [if_neg wait] at result
    exact ⟨_, result, fun n => absurd n wait, fun _ => ccDone_done u (by decide) (by decide), h.mem, h.caches, h.outbound, h.launches, h.walks,
      fun c e => ⟨h.l1 c e, h.l2 c e⟩⟩

end

theorem exec_inval {s : State} {kind : Nat} (go : s.ccIs 0x12 = true) (h : s.cc 6 1 = kind) (k : State) :
    (Host.Outcome.next (if s.invalIs kind then inval s else k) : Host.Outcome State Fault Refusal) = .next (inval s) := by
  rw [if_pos]
  simp [State.invalIs, go, h]

end Sys2Proof.Machine
end

section
/-! TENANT, TRAPSET, CTXPOOL, PREEMPT and LINKUP (O55), and INVAL of the key shadow. -/

namespace Sys2Proof.Machine

/-! Kind 6 of INVAL (R157, R160). -/

section
variable {s : State} (on : s.ccIs 0x12 = true)
include on

theorem exec_invalKeyShadow (h : 6 ≤ s.cc 6 1) : exec .invalKeyShadow s = .next (inval s) := by
  change execInvalKeyShadow s = _
  rw [execInvalKeyShadow, if_pos]
  simp [on, h]

theorem exec_invalKeyShadow_shadow (kind : s.cc 6 1 = 6) (formed : invalMalformed s = false) :
    exec .invalKeyShadow s = .next (ccDone (invalShadow s (s.func 0).funcpart (s.cc 8 8) (s.cc 0x10 8)) 0x18 0) := by
  refine (inval_formed (exec_invalKeyShadow on (by omega)) formed (by omega)).trans ?_
  rw [kind]
  rfl

end

theorem invalMalformed_reserved {s : State} (h : 6 < s.cc 6 1) : invalMalformed s = true := by
  simp [invalMalformed, h]

theorem mem_invalShadow {s : State} {p base length f : Nat} {b : Byte} :
    (f, b) ∈ ((invalShadow s p base length).part p).shadow
      ↔ (f, b) ∈ (s.part p).shadow ∧ ¬(base / 65536 ≤ f ∧ f < (base + length) / 65536) := by
  rw [invalShadow, State.setPart_part]
  rw [List.mem_filter, Bool.not_eq_true', Bool.and_eq_false_iff, decide_eq_false_iff_not, decide_eq_false_iff_not, not_and_or]

/-! Contexts (R146, R357, R398). -/

theorem dropTenant_tlbs {s : State} {tenant c : Nat} {e : TlbEntry} (h : e ∈ (dropTenant s tenant).tlbs c) : e.tenant ≠ tenant := by
  have gone := invalTenantBy_invalidated s tenant (fun _ => true) fun _ _ => true
  have hit {t : List (Nat × List TlbEntry)} (k : e ∈ State.tlbOf t c ∧ ¬(decide (e.tenant = tenant) && true) = true) : e.tenant ≠ tenant := by
    simpa using k.2
  rcases List.mem_append.mp h with h | h
  · exact hit ((gone.l1 c e).mp h)
  · exact hit ((gone.l2 c e).mp h)

/-- A tenant's new context; with it goes what was cached under the old one. -/
def contextSet (s : State) (id : Nat) : State :=
  let u := if (s.tenant? id).isSome then dropTenant s id else s
  { u with tenants := Tbl.put u.tenants id (contextOf s (s.tenant? id)) }

theorem contextSet_dev (s : State) (id : Nat) : (contextSet s id).dev = s.dev := by
  unfold contextSet
  dsimp only
  split <;> rfl

theorem contextSet_tenants (s : State) (id : Nat) : (contextSet s id).tenants = Tbl.put s.tenants id (contextOf s (s.tenant? id)) := by
  unfold contextSet
  dsimp only
  split <;> rfl

theorem exec_tenantSet {s : State} (on : s.ccIs 0x13 = true) (sets : s.cc 5 1 ≠ 1) :
    let u := contextSet s (s.cc 0x30 2)
    exec .tenantSet s = .next
      (if s.cc 5 1 != 0 || 16 ≤ s.cc 4 1 || contextMalformed s then ccDone s 8 1
      else if s.tenantBusy (s.cc 0x30 2) then ccDone s 8 3
      else ccDone (u.setFunc (s.cc 0x32 1) { u.func (s.cc 0x32 1) with funcpart := s.cc 4 1 }) 8 0) := by
  change execTenantSet s = _
  rw [execTenantSet, on, State.tenantDeletes, decide_eq_false sets]
  rfl

theorem exec_tenantDelete {s : State} (on : s.ccIs 0x13 = true) (deletes : s.cc 5 1 = 1) :
    exec .tenantDelete s = .next
      (if 16 ≤ s.cc 4 1 then ccDone s 8 1
      else if (s.tenant? (s.cc 0x30 2)).isNone then ccDone s 8 2
      else if s.tenantBusy (s.cc 0x30 2) then ccDone s 8 3
      else ccDone { dropTenant s (s.cc 0x30 2) with tenants := Tbl.del s.tenants (s.cc 0x30 2) } 8 0) := by
  change execTenantDelete s = _
  rw [execTenantDelete, on, State.tenantDeletes, decide_eq_true deletes]
  rfl

/-- TRAPSET and CTXPOOL: after the checks, an update of one tenant. -/
def setsTenant (s : State) (ok : Bool) (f : Tenant → Tenant) : State :=
  if !ok then ccDone s 0x18 1
  else if (s.tenant? (s.cc 4 2)).isNone then ccDone s 0x18 2
  else if s.tenantBusy (s.cc 4 2) then ccDone s 0x18 3
  else ccDone { s with tenants := Tbl.upd s.tenants (s.cc 4 2) f } 0x18 0

theorem setsTenant_bad {s : State} {f : Tenant → Tenant} : setsTenant s false f = ccDone s 0x18 1 := rfl

theorem setsTenant_unknown {s : State} {f : Tenant → Tenant} (unknown : (s.tenant? (s.cc 4 2)).isNone = true) :
    setsTenant s true f = ccDone s 0x18 2 := by
  rw [setsTenant, unknown]; rfl

theorem setsTenant_busy {s : State} {f : Tenant → Tenant} {x : Tenant} (known : s.tenant? (s.cc 4 2) = some x)
    (busy : s.tenantBusy (s.cc 4 2) = true) : setsTenant s true f = ccDone s 0x18 3 := by
  rw [setsTenant, known, busy]; rfl

theorem setsTenant_free {s : State} {f : Tenant → Tenant} {x : Tenant} (known : s.tenant? (s.cc 4 2) = some x)
    (free : s.tenantBusy (s.cc 4 2) = false) :
    setsTenant s true f = ccDone { s with tenants := Tbl.upd s.tenants (s.cc 4 2) f } 0x18 0 := by
  rw [setsTenant, known, free]; rfl

theorem setsTenant_results {s : State} {i : Instr} {ok : Prop} [Decidable ok] {f : Tenant → Tenant}
    (run : exec i s = .next (setsTenant s (decide ok) f)) :
    (¬ok → Refuses s i 0x18 1)
      ∧ (ok → ¬(s.tenant? (s.cc 4 2)).isSome = true → Refuses s i 0x18 2)
      ∧ (ok → (s.tenant? (s.cc 4 2)).isSome = true → s.tenantBusy (s.cc 4 2) = true → Refuses s i 0x18 3)
      ∧ (ok → s.tenantBusy (s.cc 4 2) = false → ∀ x, s.tenant? (s.cc 4 2) = some x → ∃ t, exec i s = .next t ∧ CcDone t 0x18 0
        ∧ t.tenant? (s.cc 4 2) = some (f x) ∧ (∀ j, j ≠ s.cc 4 2 → t.tenant? j = s.tenant? j) ∧ t.groups = s.groups ∧ t.mem = s.mem) := by
  refine ⟨fun bad => ?_, fun h unknown => ?_, fun h known busy => ?_, fun h free x hx => ?_⟩
  · rw [decide_eq_false bad, setsTenant_bad] at run
    exact refuses run (by decide) (by decide)
  · rw [decide_eq_true h, setsTenant_unknown (by simpa using unknown)] at run
    exact refuses run (by decide) (by decide)
  · obtain ⟨x, hx⟩ := Option.isSome_iff_exists.mp known
    rw [decide_eq_true h, setsTenant_busy hx busy] at run
    exact refuses run (by decide) (by decide)
  · rw [decide_eq_true h, setsTenant_free hx free] at run
    refine ⟨_, run, ccDone_done _ (by decide) (by decide), ?_, fun j hj => Tbl.find?_upd_other _ _ hj, rfl, rfl⟩
    exact (Tbl.find?_upd_same ..).trans (congrArg (Option.map f) hx)

theorem exec_trapset {s : State} (on : s.ccIs 0x14 = true) :
    exec .trapset s = .next (setsTenant s
      (decide (4 ≤ s.cc 6 1 ∧ s.cc 6 1 ≤ 12 ∧ s.cc 7 1 = 0 ∧ s.cc 8 8 % 8 = 0 ∧ s.cc 0x10 8 % 4096 = 0 ∧ s.cc 0x1C 4 = 0))
      fun x => { x with handler := w64 (s.cc 8 8), ring := w64 (s.cc 0x10 8), log2n := s.cc 6 1, ringSet := true }) := by
  have check : (s.cc 6 1 < 4 || 12 < s.cc 6 1 || s.cc 7 1 != 0 || s.cc 8 8 % 8 != 0 || s.cc 0x10 8 % 4096 != 0 || s.cc 0x1C 4 != 0)
      = !decide (4 ≤ s.cc 6 1 ∧ s.cc 6 1 ≤ 12 ∧ s.cc 7 1 = 0 ∧ s.cc 8 8 % 8 = 0 ∧ s.cc 0x10 8 % 4096 = 0 ∧ s.cc 0x1C 4 = 0) := by
    rw [Bool.eq_iff_iff]
    simp only [Bool.or_eq_true, decide_eq_true_eq, bne_iff_ne, Bool.not_eq_true', decide_eq_false_iff_not]
    omega
  change execTrapset s = _
  rw [execTrapset, on, setsTenant]
  dsimp only
  rw [check]
  rfl

theorem exec_ctxpool {s : State} (on : s.ccIs 0x15 = true) :
    exec .ctxpool s = .next (setsTenant s
      (decide (s.cc 6 2 = 0 ∧ s.cc 8 8 % 2 ^ 20 = 0 ∧ s.cc 0x10 8 % 2 ^ 20 = 0 ∧ 2 ^ 21 ≤ s.cc 0x10 8 ∧ s.cc 0x1C 4 = 0))
      fun x => { x with pool := some (w64 (s.cc 8 8), s.cc 0x10 8), poolUsed := [] }) := by
  have check : (s.cc 6 2 != 0 || s.cc 8 8 % 2 ^ 20 != 0 || s.cc 0x10 8 % 2 ^ 20 != 0 || s.cc 0x10 8 < 2 ^ 21 || s.cc 0x1C 4 != 0)
      = !decide (s.cc 6 2 = 0 ∧ s.cc 8 8 % 2 ^ 20 = 0 ∧ s.cc 0x10 8 % 2 ^ 20 = 0 ∧ 2 ^ 21 ≤ s.cc 0x10 8 ∧ s.cc 0x1C 4 = 0) := by
    rw [Bool.eq_iff_iff]
    simp only [Bool.or_eq_true, decide_eq_true_eq, bne_iff_ne, Bool.not_eq_true', decide_eq_false_iff_not]
    omega
  change execCtxpool s = _
  rw [execCtxpool, on, setsTenant]
  dsimp only
  rw [check]
  rfl

end Sys2Proof.Machine
end

section
/-! BIAS, PREEMPT and LINKUP (O55). -/

namespace Sys2Proof.Machine

/-! BIAS (R85, R86). -/

theorem flipStep_copying {s : State} {f : BiasFlip} (host : f.toHost = true) (copies : s.copying f = true) : flipStep s f = none := by
  rw [flipStep, host, copies]
  rfl

theorem flipStep_purged {s s1 : State} {f : BiasFlip} (copied : ¬(f.toHost = true ∧ s.copying f = true))
    (purged : purgeLines s (s.blockLines f.part f.block) = .ok s1 ()) :
    flipStep s f =
      if f.toHost || !s1.straps.cxl3 then some (endFlip s1 f)
      else if !f.snooped then some (sendSnoops (s1.setDev { s1.dev with biasFlip := some { f with snooped := true } }) f.part f.block)
      else if s1.snoopsSettled then some (endFlip s1 f)
      else none := by
  have go : (f.toHost && s.copying f) = false := by simpa [← Bool.not_eq_true] using copied
  rw [flipStep, go, purged]
  rfl

/-- The bias bit of the flip's block changes, and no other of its partition. -/
theorem endFlip_inHostBias {s : State} {f : BiasFlip} (canon : Tbl.canon false 0 s.dev.hostBias = true) (line : Nat) :
    (endFlip s f).inHostBias f.part line = if line / 2 ^ 14 = f.block then f.toHost else s.inHostBias f.part line := by
  refine (Tbl.getD_setD (2 ^ 32 * f.part + f.block) (2 ^ 32 * f.part + line / 2 ^ 14) f.toHost canon).trans ?_
  simp only [Nat.add_left_cancel_iff]
  rfl

/-- The snoop of a line of a block. -/
def snoopOf (p b i : Nat) : Outbound :=
  { link := none, line := b * 2 ^ 14 + i, ev := snoopEv, write := false, atomic := false, data := 0, mask := 0, who := none, va := none
    tenant := 0, part := p }

theorem sendSnoops_eq (s : State) (p b : Nat) : sendSnoops s p b = s.sendAll ((List.range (2 ^ 14)).map (snoopOf p b)) := by
  unfold sendSnoops
  generalize List.range (2 ^ 14) = lines
  exact foldl_send_eq (fun _ => snoopOf p b) s lines

theorem sendSnoops_onlySent (s : State) (p b : Nat) : OnlySent s (sendSnoops s p b) := by
  rw [sendSnoops_eq]
  exact State.sendAll_onlySent ..

theorem sendSnoops_sent (s : State) (p b j : Nat) (h : j < 2 ^ 14) :
    ∃ k o, Tbl.find? (sendSnoops s p b).outbound k = some o ∧ o.link = none ∧ o.ev = snoopEv ∧ o.line = b * 2 ^ 14 + j := by
  have mem : snoopOf p b j ∈ (List.range (2 ^ 14)).map (snoopOf p b) := List.mem_map_of_mem (List.mem_range.mpr h)
  rw [sendSnoops_eq]
  obtain ⟨k, hk⟩ := State.sendAll_sent mem s
  exact ⟨k, _, hk, rfl, rfl, rfl⟩

/-- A flip has ended after its lines were purged in `s1`. -/
def FlipEnds (s s1 : State) (i : Instr) (p b : Nat) (host : Bool) : Prop :=
  ∃ t, exec i s = .next t ∧ CcDone t 0x18 0 ∧ t.dev.biasFlip = none ∧ t.mem = s1.mem ∧ t.caches = s1.caches
    ∧ (Tbl.canon false 0 s.dev.hostBias = true → s1.dev.hostBias = s.dev.hostBias →
        (∀ line, line / 2 ^ 14 = b → t.inHostBias p line = host)
          ∧ ∀ line, line / 2 ^ 14 ≠ b → b < 2 ^ 32 → line / 2 ^ 14 < 2 ^ 32 → t.inHostBias p line = s.inHostBias p line)

theorem endFlip_flipEnds {s s1 : State} {i : Instr} {f : BiasFlip} (run : exec i s = .next (endFlip s1 f)) :
    FlipEnds s s1 i f.part f.block f.toHost := by
  refine ⟨_, run, ccDone_done _ (by decide) (by decide), rfl, rfl, rfl, fun canon same => ?_⟩
  have bit := endFlip_inHostBias (f := f) (same ▸ canon)
  refine ⟨fun line h => (bit line).trans (if_pos h), fun line h _ _ => ((bit line).trans (if_neg h)).trans ?_⟩
  rw [State.inHostBias, same]
  rfl

section
variable {s : State} (on : s.ccIs 0x16 = true)
include on

theorem biasStep_malformed {host : Bool} (way : decide (s.cc 4 1 = 1) = host)
    (bad : 1 < s.cc 4 1 ∨ ¬(s.cc 8 8 % 2 ^ 21 = 0 ∧ s.cc 8 8 + 2 ^ 21 ≤ s.localBytes s.hostPart)) :
    biasStep s host = some (ccDone s 0x18 1) := by
  have check : (1 < s.cc 4 1 || s.cc 8 8 % 2 ^ 21 != 0 || s.localBytes s.hostPart < s.cc 8 8 + 2 ^ 21) = true := by
    simp only [Bool.or_eq_true, decide_eq_true_eq, bne_iff_ne]
    omega
  rw [biasStep, on, way]
  dsimp only
  rw [check]
  cases host <;> rfl

theorem biasStep_formed {host : Bool} (way : decide (s.cc 4 1 = 1) = host) (small : s.cc 4 1 ≤ 1)
    (ok : s.cc 8 8 % 2 ^ 21 = 0 ∧ s.cc 8 8 + 2 ^ 21 ≤ s.localBytes s.hostPart) :
    biasStep s host = s.dev.biasFlip.elim (some (beginFlip s s.hostPart (s.cc 8 8 / 2 ^ 21) host)) (flipStep s) := by
  have check : (1 < s.cc 4 1 || s.cc 8 8 % 2 ^ 21 != 0 || s.localBytes s.hostPart < s.cc 8 8 + 2 ^ 21) = false := by
    simp only [Bool.or_eq_false_iff, decide_eq_false_iff_not, bne_eq_false_iff_eq]
    omega
  rw [biasStep, on, way]
  dsimp only
  rw [check]
  cases host <;> cases s.dev.biasFlip <;> rfl

/-- Table 3.10, one clause for each step of the flip. -/
theorem biasStep_results {i : Instr} {host : Bool} (run : exec i s = .next ((biasStep s host).getD s))
    (way : decide (s.cc 4 1 = 1) = host) (small : s.cc 4 1 ≤ 1) :
    let p := (s.func 0).funcpart
    let b := s.cc 8 8 / 2 ^ 21
    let ok : Prop := s.cc 8 8 % 2 ^ 21 = 0 ∧ s.cc 8 8 + 2 ^ 21 ≤ s.localBytes p
    (¬ok → Refuses s i 0x18 1)
      ∧ (ok → s.dev.biasFlip = none → ∃ t f, exec i s = .next t ∧ t = { s with dev := { s.dev with biasFlip := some f } } ∧ f.part = p
          ∧ f.block = b ∧ f.toHost = host ∧ f.admitted = s.copies p ∧ f.stalled = [] ∧ f.snooped = false)
      ∧ ∀ f, ok → s.dev.biasFlip = some f → f.part = p → f.block = b → f.toHost = host →
          (host = true → s.copying f = true → exec i s = .next s)
            ∧ ∀ s1, ¬(host = true ∧ s.copying f = true) → purgeLines s (s.blockLines p b) = .ok s1 () →
              (host = true ∨ s1.straps.cxl3 = false → FlipEnds s s1 i p b host)
                ∧ (host = false → s1.straps.cxl3 = true →
                    (f.snooped = false → ∃ t, exec i s = .next t ∧ t.dev.biasFlip = some { f with snooped := true } ∧ t.caches = s1.caches
                      ∧ ∀ j, j < 2 ^ 14 → ∃ k o, Tbl.find? t.outbound k = some o ∧ o.link = none ∧ o.ev = snoopEv ∧ o.line = b * 2 ^ 14 + j)
                    ∧ (f.snooped = true → s1.snoopsSettled = false → exec i s = .next s)
                    ∧ (f.snooped = true → s1.snoopsSettled = true → FlipEnds s s1 i p b host)) := by
  intro p b ok
  refine ⟨fun bad => ?_, fun h idle => ?_, ?_⟩
  · rw [biasStep_malformed on way (.inr bad)] at run
    exact refuses run (by decide) (by decide)
  · rw [biasStep_formed on way small h, idle] at run
    exact ⟨_, _, run, rfl, rfl, rfl, rfl, rfl, rfl, rfl⟩
  · rintro f h begun part block rfl
    rw [biasStep_formed on way small h, begun] at run
    change exec i s = .next ((flipStep s f).getD s) at run
    refine ⟨fun host copies => ?_, fun s1 copied purged => ?_⟩
    · rw [flipStep_copying host copies] at run
      exact run
    · rw [flipStep_purged copied (by rw [part, block]; exact purged)] at run
      rw [← part, ← block]
      refine ⟨fun last => ?_, fun device cxl3 => ⟨fun first => ?_, fun sent unsettled => ?_, fun sent settled => ?_⟩⟩
      · rw [if_pos (by simpa using last)] at run
        exact endFlip_flipEnds run
      · rw [if_neg (by simp [device, cxl3]), if_pos (by simp [first]), Option.getD_some] at run
        have only := sendSnoops_onlySent (s1.setDev { s1.dev with biasFlip := some { f with snooped := true } }) f.part f.block
        exact ⟨_, run, by rw [only.dev]; rfl, only.caches, sendSnoops_sent _ _ _⟩
      · rw [device, cxl3, sent, unsettled] at run
        exact run
      · rw [device, cxl3, sent, settled] at run
        exact endFlip_flipEnds (f := f) run

end

/-! PREEMPT (R395). -/

theorem askPreempt_crew {s : State} {l cord h : Nat} {c : Crew} (hc : s.crew? h = some c) :
    (askPreempt s l cord).crew? h = some { c with preempt := c.preempt || (c.launch = l && c.cord = cord && !c.saved) } := by
  rw [State.crew?, askPreempt, Tbl.find?_mapVal, show Tbl.find? s.crews h = some c from hc]
  by_cases asked : (c.launch = l && c.cord = cord && !c.saved) = true
  · simp only [Option.map_some, asked, if_true, Bool.or_true]
  · simp only [Option.map_some, asked, Bool.or_false]
    rfl

section
variable {s : State} (on : s.ccIs 0x17 = true)
include on

theorem exec_preempt_unnamed
    (h : ¬((∃ x, s.launch? (s.cc 8 4) = some x ∧ x.part = s.cc 4 1) ∧ ∃ e ∈ s.crewsOf (s.cc 8 4) (s.cc 0x0C 4), e.2.saved = false)) :
    exec .preempt s = .next (ccDone s 0x18 1) := by
  change execPreempt s = _
  rw [execPreempt, on]
  refine congrArg _ ((if_neg (by decide)).trans (if_pos ?_))
  rw [Bool.or_eq_true, Bool.not_eq_true', Bool.not_eq_true', ← Bool.not_eq_true, ← Bool.not_eq_true, ← not_and_or, Option.any_eq_true,
    List.any_eq_true]
  simpa only [decide_eq_true_eq, Bool.not_eq_true'] using h

theorem exec_preempt_named {x : Launch} {e : Nat × Crew} (hx : s.launch? (s.cc 8 4) = some x) (part : x.part = s.cc 4 1)
    (he : e ∈ s.crewsOf (s.cc 8 4) (s.cc 0x0C 4)) (resident : e.2.saved = false) :
    exec .preempt s = .next (ccDone (askPreempt s (s.cc 8 4) (s.cc 0x0C 4)) 0x18 0) := by
  have stays : ((s.crewsOf (s.cc 8 4) (s.cc 0x0C 4)).any fun e => !e.2.saved) = true :=
    List.any_eq_true.mpr ⟨e, he, by rw [resident]; rfl⟩
  change execPreempt s = _
  rw [execPreempt, on]
  dsimp only
  rw [hx, stays, Option.any_some, decide_eq_true part]
  rfl

end

/-! LINKUP (R439). -/

theorem State.setLink_other (s : State) {k j : Nat} (x : Link) (h : j ≠ k) : (s.setLink k x).link j = s.link j := Tbl.getD_put_other _ _ _ h

/-- What LINKUP does after its block has been checked. -/
def linkUp (s : State) (k p : Nat) : State :=
  let l := s.link k
  if !l.trains then ccDone s 0x18 2
  else if !l.attests then ccDone s 0x18 3
  else if !(s.part p).req.getLsbD (17 + k) then ccDone s 0x18 4
  else if !l.accepts then ccDone s 0x18 5
  else ccDone (s.setLink k { l with state := 2, bound := p }) 0x18 0

theorem exec_linkup {s : State} (on : s.ccIs 0x18 = true) :
    exec .linkup s = .next
      (if s.cc 4 1 < 4 ∧ s.cc 5 1 < 16 ∧ (s.link (s.cc 4 1)).state = 0 then linkUp s (s.cc 4 1) (s.cc 5 1) else ccDone s 0x18 1) := by
  have check : (4 ≤ s.cc 4 1 || 16 ≤ s.cc 5 1 || (s.link (s.cc 4 1)).state != 0)
      = !decide (s.cc 4 1 < 4 ∧ s.cc 5 1 < 16 ∧ (s.link (s.cc 4 1)).state = 0) := by
    rw [Bool.eq_iff_iff]
    simp only [Bool.or_eq_true, decide_eq_true_eq, bne_iff_ne, Bool.not_eq_true', decide_eq_false_iff_not]
    omega
  change execLinkup s = _
  rw [execLinkup, on]
  dsimp only
  rw [check]
  by_cases ok : s.cc 4 1 < 4 ∧ s.cc 5 1 < 16 ∧ (s.link (s.cc 4 1)).state = 0
  · rw [if_pos ok, decide_eq_true ok]; rfl
  · rw [if_neg ok, decide_eq_false ok]; rfl

theorem linkUp_binds {s : State} {k p : Nat} (trains : (s.link k).trains = true) (attests : (s.link k).attests = true)
    (mine : (s.part p).req.getLsbD (17 + k) = true) (accepts : (s.link k).accepts = true) :
    linkUp s k p = ccDone (s.setLink k { s.link k with state := 2, bound := p }) 0x18 0 := by
  rw [linkUp]
  dsimp only
  rw [if_neg (by simp [trains]), if_neg (by simp [attests]), if_neg (by simp [mine]), if_neg (by simp [accepts])]

theorem linkUp_results {s : State} {k p : Nat} {i : Instr} (run : exec i s = .next (linkUp s k p)) :
    let l := s.link k
    let mine : Prop := (s.part p).req.getLsbD (17 + k) = true
    let refused (st : Nat) : Prop := Refuses s i 0x18 st
    (l.trains = false → refused 2) ∧ (l.trains = true → l.attests = false → refused 3)
      ∧ (l.trains = true → l.attests = true → ¬mine → refused 4)
      ∧ (l.trains = true → l.attests = true → mine → l.accepts = false → refused 5)
      ∧ (l.trains = true → l.attests = true → mine → l.accepts = true → ∃ t, exec i s = .next t ∧ CcDone t 0x18 0
          ∧ t.link k = { l with state := 2, bound := p } ∧ ∀ j, j ≠ k → t.link j = s.link j) := by
  intro l mine refused
  refine ⟨fun trains => ?_, fun trains attests => ?_, fun trains attests other => ?_, fun trains attests h accepts => ?_,
    fun trains attests h accepts => ?_⟩
  · rw [linkUp, trains] at run
    exact refuses run (by decide) (by decide)
  · rw [linkUp, trains, attests] at run
    exact refuses run (by decide) (by decide)
  · rw [linkUp, trains, attests, Bool.eq_false_of_not_eq_true other] at run
    exact refuses run (by decide) (by decide)
  · rw [linkUp, trains, attests, h, accepts] at run
    exact refuses run (by decide) (by decide)
  · rw [linkUp_binds trains attests h accepts] at run
    exact ⟨_, run, ccDone_done _ (by decide) (by decide), State.setLink_link s k _, fun j hj => State.setLink_other s _ hj⟩

end Sys2Proof.Machine
end

section
/-! The commands of the control core (O55), put together. -/

namespace Sys2Proof.Machine

/-! INVAL. -/

/-- The refusals of an INVAL of a tenant, and what it drops, when `f` tests for the translations that it names. -/
theorem inval_does {s : State} {i : Instr} (run : exec i s = .next (inval s)) {f : TlbEntry → Bool}
    (h : Invalidated s (invalDo s (s.cc 6 1) (s.cc 4 2) (s.cc 8 8) (s.cc 0x10 8)) f) {hit : TlbEntry → Prop} (hf : ∀ e, hit e ↔ f e = true) :
    (invalMalformed s = true → Refuses s i 0x18 1)
      ∧ (invalMalformed s = false → s.cc 6 1 < 5 → ¬(s.tenant? (s.cc 4 2)).isSome = true → Refuses s i 0x18 2)
      ∧ (invalMalformed s = false → s.cc 6 1 < 5 → (s.tenant? (s.cc 4 2)).isSome = true → Drops s i hit) :=
  ⟨inval_malformed run, inval_unknown run, fun formed _ known => inval_drops run formed (fun _ => known) h hf⟩

/-! What each KIND of Table 6.8 names. -/

theorem Invalidated.ofKind {s : State} {kind t base length : Nat} {f : TlbEntry → Bool} (h : Invalidated s (invalDo s kind t base length) f)
    (k : s.cc 6 1 = kind) : Invalidated s (invalDo s (s.cc 6 1) t base length) f := k ▸ h

section
variable (s : State) (t base length : Nat)

theorem invalDo_page : Invalidated s (invalDo s 0 t base length) fun e => e.tenant = t && meets e.va e.size base 4096 :=
  invalTenantBy_invalidated s t (fun e => meets e.va e.size base 4096) fun a n => meets a n base 4096

theorem invalDo_range : Invalidated s (invalDo s 1 t base length) fun e => e.tenant = t && meets e.va e.size base length :=
  invalTenantBy_invalidated s t (fun e => meets e.va e.size base length) fun a n => meets a n base length

theorem invalDo_tenant : Invalidated s (invalDo s 2 t base length) fun e => e.tenant = t && !e.global :=
  invalTenantBy_invalidated s t (fun e => !e.global) fun _ _ => true

theorem invalDo_tenantAll : Invalidated s (invalDo s 3 t base length) fun e => e.tenant = t && true :=
  invalTenantBy_invalidated s t (fun _ => true) fun _ _ => true

theorem invalDo_guestRange : Invalidated s (invalDo s 4 t base length) fun e => e.tenant = t && meets e.gpa e.gsize base length :=
  invalTenantBy_invalidated s t (fun e => meets e.gpa e.gsize base length) fun _ _ => true

theorem invalDo_partition : Invalidated s (invalDo s 5 t base length) fun e => s.tenantIn s.hostPart e.tenant := invalPart_invalidated ..

end

theorem tenantIn_iff {s : State} {p t : Nat} : s.tenantIn p t = true ↔ (s.tenant? t).map (·.part) = some p := by
  cases h : s.tenant? t <;> simp [State.tenantIn, h]

/-! TENANT. -/

section
variable {s : State} (on : s.ccIs 0x13 = true)
include on

theorem tenantSet_malformed (sets : s.cc 5 1 ≠ 1) (bad : s.cc 5 1 ≠ 0 ∨ 16 ≤ s.cc 4 1 ∨ contextMalformed s = true) :
    exec .tenantSet s = .next (ccDone s 8 1) := by
  refine (exec_tenantSet on sets).trans (congrArg _ (if_pos ?_))
  rwa [Bool.or_eq_true, Bool.or_eq_true, bne_iff_ne, decide_eq_true_eq, or_assoc]

theorem tenantSet_formed (zero : s.cc 5 1 = 0) (small : s.cc 4 1 < 16) (formed : contextMalformed s = false) :
    let u := contextSet s (s.cc 0x30 2)
    exec .tenantSet s = .next
      (if s.tenantBusy (s.cc 0x30 2) then ccDone s 8 3
      else ccDone (u.setFunc (s.cc 0x32 1) { u.func (s.cc 0x32 1) with funcpart := s.cc 4 1 }) 8 0) := by
  refine (exec_tenantSet on (by omega)).trans (congrArg _ (if_neg ?_))
  rw [zero, formed, decide_eq_false (by omega)]
  decide

end

/-- The handler, the ring and the context pool outlive a new context. -/
theorem contextOf_keeps {s : State} {old : Option Tenant} {y : Tenant} (h : old = some y) :
    (contextOf s old).handler = y.handler ∧ (contextOf s old).ring = y.ring ∧ (contextOf s old).pool = y.pool := by
  rw [h]
  exact ⟨rfl, rfl, rfl⟩

theorem contextSet_tenant_same (s : State) (id : Nat) : (contextSet s id).tenant? id = some (contextOf s (s.tenant? id)) := by
  rw [State.tenant?, contextSet_tenants, Tbl.find?_put_same]

theorem contextSet_tenant_other (s : State) {id j : Nat} (h : j ≠ id) : (contextSet s id).tenant? j = s.tenant? j := by
  rw [State.tenant?, contextSet_tenants, Tbl.find?_put_other _ _ h]
  rfl

theorem tenantSet_results {s : State} (on : s.ccIs 0x13 = true) (zero : s.cc 5 1 = 0) (small : s.cc 4 1 < 16)
    (formed : contextMalformed s = false) (free : s.tenantBusy (s.cc 0x30 2) = false) :
    let id := s.cc 0x30 2
    ∃ t x, exec .tenantSet s = .next t ∧ CcDone t 8 0 ∧ t.tenant? id = some x ∧ x.part = s.cc 4 1
      ∧ x.s1root = s.cc 0x20 8 ∧ x.s2root = s.cc 0x28 8 ∧ x.func = s.cc 0x32 1 ∧ x.s2en = decide (s.cc 0x33 1 = 1)
      ∧ x.pasid = s.cc 0x34 4 ∧ x.quota = s.cc 0x38 1 ∧ (t.func x.func).funcpart = x.part
      ∧ (∀ y, s.tenant? id = some y → x.handler = y.handler ∧ x.ring = y.ring ∧ x.pool = y.pool)
      ∧ ∀ j, j ≠ id → t.tenant? j = s.tenant? j := by
  intro id
  have run := tenantSet_formed on zero small formed
  dsimp only at run
  rw [free, if_neg Bool.false_ne_true] at run
  exact ⟨_, _, run, ccDone_done _ (by decide) (by decide), contextSet_tenant_same s id, rfl, rfl, rfl, rfl, rfl, rfl, rfl,
    congrArg Func.funcpart (State.setFunc_func ..), fun y => contextOf_keeps, fun j hj => contextSet_tenant_other s hj⟩

section
variable {s : State} (on : s.ccIs 0x13 = true) (deletes : s.cc 5 1 = 1)
include on deletes

theorem tenantDelete_malformed (bad : 16 ≤ s.cc 4 1) : exec .tenantDelete s = .next (ccDone s 8 1) :=
  (exec_tenantDelete on deletes).trans (congrArg _ (if_pos bad))

theorem tenantDelete_unknown (small : s.cc 4 1 < 16) (h : ¬(s.tenant? (s.cc 0x30 2)).isSome = true) :
    exec .tenantDelete s = .next (ccDone s 8 2) :=
  (exec_tenantDelete on deletes).trans (congrArg _ ((if_neg (by omega)).trans (if_pos (by simpa using h))))

theorem tenantDelete_known (small : s.cc 4 1 < 16) (known : (s.tenant? (s.cc 0x30 2)).isSome = true) :
    exec .tenantDelete s = .next
      (if s.tenantBusy (s.cc 0x30 2) then ccDone s 8 3
      else ccDone { dropTenant s (s.cc 0x30 2) with tenants := Tbl.del s.tenants (s.cc 0x30 2) } 8 0) :=
  (exec_tenantDelete on deletes).trans (congrArg _ ((if_neg (by omega)).trans (if_neg (by
    rw [Option.isNone_iff_eq_none]
    exact Option.isSome_iff_ne_none.mp known))))

theorem tenantDelete_results (small : s.cc 4 1 < 16) (known : (s.tenant? (s.cc 0x30 2)).isSome = true)
    (free : s.tenantBusy (s.cc 0x30 2) = false) (keys : (s.tenants.map (·.1)).Nodup) :
    let id := s.cc 0x30 2
    ∃ t, exec .tenantDelete s = .next t ∧ CcDone t 8 0 ∧ t.tenant? id = none ∧ (∀ j, j ≠ id → t.tenant? j = s.tenant? j)
      ∧ ∀ c e, e ∈ State.tlbOf t.mmu.l1tlb c ++ State.tlbOf t.mmu.l2tlb c → e.tenant ≠ id := by
  intro id
  have run := tenantDelete_known on deletes small known
  rw [free, if_neg Bool.false_ne_true] at run
  exact ⟨_, run, ccDone_done _ (by decide) (by decide), Tbl.find?_del_same keys id, fun j hj => Tbl.find?_del_other _ hj,
    fun c e he => dropTenant_tlbs he⟩

end

/-! CC_UNKNOWN_OP. -/

theorem exec_ccUnknownOp {s : State} (go : s.dev.ccgo = true) (locked : s.dev.locked = true)
    (h : ∀ n ∈ [0x11, 0x12, 0x13, 0x14, 0x15, 0x16, 0x17, 0x18, 0x21], ¬s.cc 0 4 = n) : exec .ccUnknownOp s = .next (ccDone s 0x18 1) := by
  have unlisted : ccOps.contains (s.cc 0 4) = false := by
    rw [← Bool.not_eq_true, List.contains_iff_mem]
    exact fun listed => h _ listed rfl
  change execCcUnknownOp s = _
  rw [execCcUnknownOp, go, locked, unlisted]
  rfl

/-- Settles O55: each command of the control core by its own lemma, its checks in the order of Table 17.3. -/
theorem controlCoreCommands : Obligations.ControlCoreCommands := by
  unfold Obligations.ControlCoreCommands
  intro s go locked op refused tenant known lo len
  have refuse {i : Instr} {off status : Nat} (inside : 8 * off + 32 ≤ 512) (small : status < 2 ^ 32)
      (run : exec i s = .next (ccDone s off status)) : refused i off status := refuses run inside small
  refine ⟨fun o => ?inval, fun o => ?tenant, ⟨fun o => setsTenant_results (exec_trapset (ccIs_of go locked o)),
    fun o => setsTenant_results (exec_ctxpool (ccIs_of go locked o))⟩, fun o => ?bias, fun o => ?preempt, fun o => ?linkup,
    fun other => refuse (by decide) (by decide) (exec_ccUnknownOp go locked other)⟩
  case inval =>
    have on := ccIs_of go locked o
    intro kind hit waits drops does
    refine ⟨fun k => ?_, fun k => ?_, fun k => ?_, fun k => ?_, fun k => ?_, fun k formed => ?_, fun k => ?_, fun k formed => ?_⟩
    · refine inval_does (i := .invalPage) (exec_inval on k s) ((invalDo_page ..).ofKind k) fun e => ?_
      simp [hit, k, meets, tenant, lo]
    · refine inval_does (i := .invalRange) (exec_inval on k s) ((invalDo_range ..).ofKind k) fun e => ?_
      simp [hit, k, meets, tenant, lo, len]
    · refine inval_does (i := .invalTenant) (exec_inval on k s) ((invalDo_tenant ..).ofKind k) fun e => ?_
      simp [hit, k, tenant]
    · refine inval_does (i := .invalTenantAll) (exec_inval on k s) ((invalDo_tenantAll ..).ofKind k) fun e => ?_
      simp [hit, k, tenant]
    · refine inval_does (i := .invalGuestRange) (exec_inval on k s) ((invalDo_guestRange ..).ofKind k) fun e => ?_
      simp [hit, k, meets, tenant, lo, len]
    · refine inval_drops (i := .invalPartition) (exec_inval on k s) formed (by omega) ((invalDo_partition ..).ofKind k) fun e => ?_
      simp [hit, k, tenantIn_iff, State.hostPart]
    · exact inval_malformed (exec_invalKeyShadow on (by omega)) (invalMalformed_reserved k)
    · exact ⟨_, exec_invalKeyShadow_shadow on k formed, ccDone_done _ (by decide) (by decide), rfl, fun _ _ => mem_invalShadow⟩
  case tenant =>
    have on := ccIs_of go locked o
    intro id deletes
    refine ⟨fun sets => ⟨fun bad => ?_, fun zero small formed => ⟨fun busy => ?_, ?_⟩⟩, fun del => ⟨fun bad => ?_, fun small h => ?_,
      fun small h busy => ?_, fun small h => tenantDelete_results on del small h⟩⟩
    · exact refuse (by decide) (by decide) (tenantSet_malformed on sets bad)
    · exact refuse (by decide) (by decide) ((tenantSet_formed on zero small formed).trans (congrArg _ (if_pos busy)))
    · exact tenantSet_results on zero small formed
    · exact refuse (by decide) (by decide) (tenantDelete_malformed on del bad)
    · exact refuse (by decide) (by decide) (tenantDelete_unknown on del small h)
    · exact refuse (by decide) (by decide) ((tenantDelete_known on del small h).trans (congrArg _ (if_pos busy)))
  case bias =>
    have on := ccIs_of go locked o
    intro p b ok does
    refine ⟨fun one => ?_, fun zero => ?_, fun large => ?_⟩
    · exact biasStep_results on (i := .biasToHost) rfl (by rw [one]; rfl) (by omega)
    · exact biasStep_results on (i := .biasToDevice) rfl (by rw [zero]; rfl) (by omega)
    · have run : exec .biasToDevice s = .next ((biasStep s false).getD s) := rfl
      rw [biasStep_malformed on (decide_eq_false (by omega)) (.inl large)] at run
      exact refuse (by decide) (by decide) run
  case preempt =>
    have on := ccIs_of go locked o
    intro l cord named
    refine ⟨fun h => refuse (by decide) (by decide) (exec_preempt_unnamed on h), ?_⟩
    rintro ⟨⟨x, hx, part⟩, e, he, resident⟩
    exact ⟨_, exec_preempt_named on hx part he resident, ccDone_done _ (by decide) (by decide), fun _ _ => askPreempt_crew⟩
  case linkup =>
    have run := exec_linkup (ccIs_of go locked o)
    intro k p l ok mine
    have up (h : ok) := linkUp_results (run.trans (congrArg _ (if_pos h)))
    exact ⟨fun h => refuse (by decide) (by decide) (run.trans (congrArg _ (if_neg h))), fun h => (up h).1, fun h => (up h).2.1,
      fun h => (up h).2.2.1, fun h => (up h).2.2.2.1, fun h => (up h).2.2.2.2⟩

end Sys2Proof.Machine
end

section
/-! Replies to page requests (O47): what is attached to an entry, and nothing else, hears of its reply. -/

namespace Sys2Proof.Machine

/-! The splits that are attached to an entry (R163). -/

/-- A lane is gathered with the other lanes of its split. -/
def gatherLane (l : List Attached) (a : Attached) : List Attached :=
  if l.any fun x => x.split = a.split then l.map fun x => if x.split = a.split then { x with lanes := x.lanes ||| a.lanes } else x
  else l ++ [a]

theorem PageReq.splits_eq (r : PageReq) : r.splits = r.lanes.foldl gatherLane [] := rfl

theorem gatherLane_splits {l : List Attached} {a : Attached} {x : SplitRef} :
    (∃ e ∈ gatherLane l a, e.split = x) ↔ (∃ e ∈ l, e.split = x) ∨ a.split = x := by
  unfold gatherLane
  split
  · rename_i listed
    have kept (e : Attached) : (if e.split = a.split then { e with lanes := e.lanes ||| a.lanes } else e).split = e.split := by split <;> rfl
    simp only [List.mem_map, exists_exists_and_eq_and, kept]
    refine ⟨.inl, fun h => h.elim id fun same => ?_⟩
    obtain ⟨e, he, split⟩ := List.any_eq_true.mp listed
    exact ⟨e, he, (of_decide_eq_true split).trans same⟩
  · simp only [List.mem_append, List.mem_singleton, or_and_right, exists_or, exists_eq_left]

theorem gatherLanes_splits {as l : List Attached} {x : SplitRef} :
    (∃ e ∈ as.foldl gatherLane l, e.split = x) ↔ (∃ e ∈ l, e.split = x) ∨ ∃ e ∈ as, e.split = x := by
  induction as generalizing l with
  | nil => simp
  | cons a as ih => rw [List.foldl_cons, ih, gatherLane_splits, List.exists_mem_cons_iff, or_assoc]

theorem PageReq.mem_splits {r : PageReq} {x : SplitRef} : (∃ e ∈ r.splits, e.split = x) ↔ ∃ e ∈ r.lanes, e.split = x := by
  rw [PageReq.splits_eq, gatherLanes_splits]
  simp

theorem PageReq.splits_one {r : PageReq} {e : Attached} (h : r.lanes = [e]) : r.splits = [e] := by
  rw [PageReq.splits_eq, h]
  rfl

/-! The context of a split. -/

theorem ctxOf_intro {s : State} {r : SplitRef} {g : Group} {sp : Split} {c : Crew} {l : Launch} (hg : s.group? r.group = some g)
    (hs : Tbl.find? g.splits r.split = some sp) (hc : s.crew? g.crew = some c) (hl : s.launch? g.launch = some l) :
    s.ctxOf r = some { r := r, g := g, sp := sp, crew := c, launch := l } := by
  simp only [State.ctxOf, hg, hs, hc, hl]

/-- What stands around a split after an update of another split. -/
theorem State.updSplit_ctxOf_other (s : State) {r x : SplitRef} (f : Split → Split) {c : Ctx} (h : s.ctxOf x = some c) (ne : x ≠ r) :
    ∃ c', (s.updSplit r f).ctxOf x = some c' ∧ c'.sp = c.sp := by
  have crew : (s.updSplit r f).crew? c.g.crew = some c.crew := show s.crew? c.g.crew = some c.crew from ctxOf_crew h
  have launch : (s.updSplit r f).launch? c.g.launch = some c.launch := show s.launch? c.g.launch = some c.launch from ctxOf_launch h
  by_cases same : x.group = r.group
  · have other : x.split ≠ r.split := fun e => ne (by cases x; cases r; cases same; cases e; rfl)
    have group : (s.updSplit r f).group? x.group = some (c.g.updSplit r.split f) := by
      rw [State.updSplit, same, State.updGroup_group?, ← same, ctxOf_group h]
      rfl
    have split : Tbl.find? (c.g.updSplit r.split f).splits x.split = some c.sp := (Tbl.find?_upd_other _ _ other).trans (ctxOf_split h)
    exact ⟨_, ctxOf_intro group split crew launch, rfl⟩
  · have group : (s.updSplit r f).group? x.group = some c.g := (State.updGroup_group?_other _ _ same).trans (ctxOf_group h)
    exact ⟨_, ctxOf_intro group (ctxOf_split h) crew launch, rfl⟩

/-! A reply with status 0 (R163). -/

theorem answerLanes_resumes {s : State} (r : PageReq) {e : Attached} {c : Ctx} (h : s.ctxOf e.split = some c) :
    answerLanes s r true e = if c.sp.wait = .parked then s.waitFor e.split .none else s := by
  simp only [answerLanes, h, if_true]

theorem answerLanes_absent {s : State} (r : PageReq) (ok : Bool) {e : Attached} (h : s.ctxOf e.split = none) : answerLanes s r ok e = s := by
  simp only [answerLanes, h]

theorem answerLanes_cases (s : State) (r : PageReq) (e : Attached) :
    answerLanes s r true e = s ∨ answerLanes s r true e = s.waitFor e.split .none := by
  cases h : s.ctxOf e.split with
  | none => exact .inl (answerLanes_absent r true h)
  | some c =>
    rw [answerLanes_resumes r h]
    split
    · exact .inr rfl
    · exact .inl rfl

theorem answerLanes_groups (s : State) (r : PageReq) (e : Attached) :
    answerLanes s r true e = { s with groups := (answerLanes s r true e).groups } := by
  rcases answerLanes_cases s r e with eq | eq
  · rw [eq]
  · rw [eq]; rfl

theorem answerLanes_other {s : State} {r : PageReq} {e : Attached} {x : SplitRef} (ne : e.split ≠ x) :
    (answerLanes s r true e).split? x = s.split? x := by
  rcases answerLanes_cases s r e with eq | eq <;> rw [eq]
  exact State.updSplit_split?_other _ _ ne.symm

/-- The split of `x` is resident, as `sp` or resumed from it. -/
def Resuming (x : SplitRef) (sp : Split) (s : State) : Prop :=
  ∃ c, s.ctxOf x = some c ∧ (c.sp = sp ∨ c.sp = { sp with wait := .none })

/-- The split of `x` is resident and goes on. -/
def ResumedAs (x : SplitRef) (sp : Split) (s : State) : Prop := ∃ c, s.ctxOf x = some c ∧ c.sp = { sp with wait := .none }

theorem answerLanes_resumed {s : State} (r : PageReq) {e : Attached} {sp : Split} (parked : sp.wait = .parked) (h : Resuming e.split sp s) :
    ResumedAs e.split sp (answerLanes s r true e) := by
  obtain ⟨c, hc, rfl | woken⟩ := h
  · rw [answerLanes_resumes r hc, if_pos parked]
    obtain ⟨c', hc', sp', -, -⟩ := s.updSplit_ctxOf e.split (fun sp => { sp with wait := .none }) hc
    exact ⟨c', hc', sp'⟩
  · rw [answerLanes_resumes r hc, if_neg (by rw [woken]; exact Wait.noConfusion)]
    exact ⟨c, hc, woken⟩

theorem answerLanes_ctxOf_other {s : State} (r : PageReq) {e : Attached} {x : SplitRef} {c : Ctx} (h : s.ctxOf x = some c) (ne : x ≠ e.split) :
    ∃ c', (answerLanes s r true e).ctxOf x = some c' ∧ c'.sp = c.sp := by
  rcases answerLanes_cases s r e with eq | eq <;> rw [eq]
  · exact ⟨c, h, rfl⟩
  · exact State.updSplit_ctxOf_other s _ h ne

theorem Resuming.answerLanes {x : SplitRef} {sp : Split} (parked : sp.wait = .parked) {s : State} (h : Resuming x sp s) (r : PageReq) (e : Attached) :
    Resuming x sp (answerLanes s r true e) := by
  by_cases same : e.split = x
  · subst same
    obtain ⟨c, hc, woken⟩ := answerLanes_resumed r parked h
    exact ⟨c, hc, .inr woken⟩
  · obtain ⟨c, hc, state⟩ := h
    obtain ⟨c', hc', kept⟩ := answerLanes_ctxOf_other r hc (Ne.symm same)
    exact ⟨c', hc', kept ▸ state⟩

theorem ResumedAs.answerLanes {x : SplitRef} {sp : Split} (parked : sp.wait = .parked) {s : State} (h : ResumedAs x sp s) (r : PageReq) (e : Attached) :
    ResumedAs x sp (answerLanes s r true e) := by
  by_cases same : e.split = x
  · subst same
    obtain ⟨c, hc, woken⟩ := h
    exact answerLanes_resumed r parked ⟨c, hc, .inr woken⟩
  · obtain ⟨c, hc, woken⟩ := h
    obtain ⟨c', hc', kept⟩ := answerLanes_ctxOf_other r hc (Ne.symm same)
    exact ⟨c', hc', kept.trans woken⟩

/-- The splits of a list hear that they may go on. -/
def resumeAll (s : State) (r : PageReq) (es : List Attached) : State := es.foldl (fun s e => answerLanes s r true e) s

section
variable (s : State) (r : PageReq) (es : List Attached)

theorem resumeAll_groups : ∃ gs, resumeAll s r es = { s with groups := gs } := by
  refine List.foldlRecOn (motive := fun t : State => ∃ gs, t = { s with groups := gs }) es _ ⟨s.groups, rfl⟩ fun t h e _ => ?_
  obtain ⟨gs, rfl⟩ := h
  exact ⟨_, answerLanes_groups _ r e⟩

theorem resumeAll_other {x : SplitRef} (h : ∀ e ∈ es, e.split ≠ x) : (resumeAll s r es).split? x = s.split? x :=
  List.foldlRecOn (motive := fun t : State => t.split? x = s.split? x) es _ rfl fun _ ih e he => (answerLanes_other (h e he)).trans ih

variable {s es}

theorem resumeAll_resumed {e : Attached} (he : e ∈ es) {c : Ctx} (hc : s.ctxOf e.split = some c) (parked : c.sp.wait = .parked) :
    (resumeAll s r es).split? e.split = some { c.sp with wait := .none } := by
  obtain ⟨c', hc', woken⟩ := foldl_reaches (f := fun s e => answerLanes s r true e) (I := Resuming e.split c.sp)
    (P := ResumedAs e.split c.sp) he (fun _ y _ h => h.answerLanes parked r y) (fun _ h => answerLanes_resumed r parked h)
    (fun _ y _ h => h.answerLanes parked r y) (b := s) ⟨c, hc, .inl rfl⟩
  rw [resumeAll, ctxOf_splitOf hc', woken]

end

/-! PRQREPLY (R163, R166). -/

/-- The requests that are left when the one of a function and a slot has been answered. -/
def endRequest (s : State) (func : Nat) (r : PageReq) : State :=
  s.setMmu { s.mmu with requests := s.mmu.requests.filter fun x => !(x.func = func && x.slot = r.slot) }

theorem mem_endRequest {s : State} {func : Nat} {r x : PageReq} :
    x ∈ (endRequest s func r).mmu.requests ↔ x ∈ s.mmu.requests ∧ ¬(x.func = func ∧ x.slot = r.slot) := by
  rw [endRequest, State.setMmu_mmu]
  simp [imp_iff_not_or]

section
variable {func : Nat} {value : BitVec 64} {s : State} (up : s.hostUp = true)
include up

theorem exec_prqreply_bad
    (h : s.mmu.requests.find? (fun r => r.func = func && r.slot + 256 * r.gen = fld value 0 16) = none ∨ 2 ≤ fld value 16 2) :
    exec (.prqreply func value) s =
      .next (s.setFunc func { s.func func with badReply := min 65535 ((s.func func).badReply + 1) }) := by
  change execPrqreply func value s = _
  rw [execPrqreply, fromHost_up up]
  dsimp only
  split
  · rename_i r found
    have reserved : 2 ≤ fld value 16 2 := h.resolve_left (by rw [found]; exact Option.some_ne_none r)
    rw [if_pos reserved]
  · rfl

theorem exec_prqreply_lanes {r : PageReq}
    (found : s.mmu.requests.find? (fun r => r.func = func && r.slot + 256 * r.gen = fld value 0 16) = some r) (status : fld value 16 2 < 2)
    (engines : r.engines = []) :
    exec (.prqreply func value) s =
      .next (r.splits.foldl (fun s e => answerLanes s r (fld value 16 2 = 0) e) (endRequest s func r)) := by
  change execPrqreply func value s = _
  rw [execPrqreply, fromHost_up up]
  dsimp only
  rw [found]
  dsimp only
  rw [if_neg (by omega), engines]
  rfl

end

/-- The replies to page requests, one clause for each STATUS. -/
theorem prqreply_results {func : Nat} {value : BitVec 64} {s : State} (up : s.hostUp = true) :
    let tag := fld value 0 16
    let status := fld value 16 2
    let found := s.mmu.requests.find? fun r => r.func = func && r.slot + 256 * r.gen = tag
    (found = none ∨ 2 ≤ status → ∃ t, exec (.prqreply func value) s = .next t ∧ t.mmu = s.mmu ∧ t.groups = s.groups
        ∧ t.func func = { s.func func with badReply := min 65535 ((s.func func).badReply + 1) })
      ∧ (∀ r, found = some r → status = 0 → r.engines = [] → ∃ t, exec (.prqreply func value) s = .next t
          ∧ (∀ x, x ∈ t.mmu.requests ↔ x ∈ s.mmu.requests ∧ ¬(x.func = func ∧ x.slot = r.slot))
          ∧ (∀ e ∈ r.lanes, ∀ c, s.ctxOf e.split = some c → c.sp.wait = .parked → t.split? e.split = some { c.sp with wait := .none })
          ∧ (∀ x sp, (∀ e ∈ r.lanes, e.split ≠ x) → s.split? x = some sp → t.split? x = some sp)
          ∧ t = { s with groups := t.groups, mmu := t.mmu })
      ∧ ∀ r e c, found = some r → status = 1 → r.engines = [] → r.lanes = [e] → s.ctxOf e.split = some c →
          c.sp.pendingTrap = none → exec (.prqreply func value) s = .next
            (raiseVa (s.setMmu { s.mmu with requests := s.mmu.requests.filter fun x => !(x.func = func && x.slot = r.slot) })
              c 6 e.lanes e.addr (detailWord 16 r.stage r.level r.table e.access)) := by
  intro tag status found
  refine ⟨fun bad => ?_, fun r hr zero engines => ?_, fun r e c hr one engines lanes hc clear => ?_⟩
  · exact ⟨_, exec_prqreply_bad up bad, rfl, rfl, State.setFunc_func ..⟩
  · have run : exec (.prqreply func value) s = .next (resumeAll (endRequest s func r) r r.splits) := by
      rw [exec_prqreply_lanes up hr (by omega) engines, show fld value 16 2 = 0 from zero]
      rfl
    obtain ⟨gs, only⟩ := resumeAll_groups (endRequest s func r) r r.splits
    refine ⟨_, run, fun x => ?_, fun e he c hc parked => ?_, fun x sp others hx => ?_, ?_⟩
    · rw [only]
      exact mem_endRequest
    · obtain ⟨e', he', same⟩ := PageReq.mem_splits.mpr ⟨e, he, rfl⟩
      rw [← same] at hc ⊢
      exact resumeAll_resumed r he' hc parked
    · refine (resumeAll_other _ r r.splits fun e he same => ?_).trans hx
      obtain ⟨e', he', same'⟩ := PageReq.mem_splits.mp ⟨e, he, same⟩
      exact others e' he' same'
    · rw [only]
      rfl
  · have run := exec_prqreply_lanes up hr (by omega) engines
    rw [show fld value 16 2 = 1 from one, PageReq.splits_one lanes] at run
    have ctx : (endRequest s func r).ctxOf e.split = some c := hc
    rw [run, List.foldl_cons, List.foldl_nil, answerLanes, ctx]
    dsimp only
    rw [clear]
    rfl

end Sys2Proof.Machine
end

section
/-! The weight store (O47): a byte that is written reads back at its address, and no other byte changes. -/

namespace Sys2Proof.Machine

/-! Addresses of the weight store are spread over the banks without overlap (R50). -/

theorem ports_nodup (p : Partition) : p.ports.Nodup := List.Nodup.filter _ List.nodup_range

/-- A unit of 1024 bytes is found from its row and its place in the rotation. -/
theorem rotated_inj {g g' k : Nat} (row : g / k = g' / k) (place : (g + g / k) % k = (g' + g' / k) % k) : g = g' := by
  rw [row] at place
  have column : g % k = g' % k := Nat.ModEq.add_right_cancel' _ place
  rw [← Nat.div_add_mod g k, ← Nat.div_add_mod g' k, row, column]

theorem row_lt {w k : Nat} (h : w < 2 ^ 24 * k) : w / 1024 / k < 2 ^ 14 := by
  rw [Nat.div_lt_iff_lt_mul (by rcases Nat.eq_zero_or_pos k with rfl | pos <;> omega)]
  omega

theorem wsHome_inj {ports : List Nat} (distinct : ports.Nodup) {w w' : Nat} (h : w < 2 ^ 24 * ports.length) (h' : w' < 2 ^ 24 * ports.length)
    (same : (wsHome ports w).2 = (wsHome ports w').2) : w = w' := by
  have pos : 0 < ports.length := by omega
  have lt := row_lt h
  have lt' := row_lt h'
  simp only [wsHome] at same
  have row : w / 1024 / ports.length = w' / 1024 / ports.length := by omega
  have bank : ports.getD ((w / 1024 + w / 1024 / ports.length) % ports.length) 0
      = ports.getD ((w' / 1024 + w' / 1024 / ports.length) % ports.length) 0 := by omega
  have offset : w % 1024 = w' % 1024 := by omega
  rw [List.getD_eq_getElem _ _ (Nat.mod_lt _ pos), List.getD_eq_getElem _ _ (Nat.mod_lt _ pos)] at bank
  have unit := rotated_inj row ((distinct.getElem_inj_iff).mp bank)
  omega

/-! Writing (R383). -/

theorem State.writeWs_cons (s : State) (p w : Nat) (b : Byte) (bs : List Byte) :
    s.writeWs p w (b :: bs) = { s with ws := writeCell s.ws (wsHome (s.part p).ports w).2 b }.writeWs p (w + 1) bs := rfl

theorem readWsByte_writeByte {s : State} (wf : s.wf) {p w i : Nat} (hw : w < s.wsBytes p) (hi : i < s.wsBytes p) (b : Byte) :
    { s with ws := writeCell s.ws (wsHome (s.part p).ports w).2 b }.readWsByte p i = if i = w then b else s.readWsByte p i := by
  have place : (wsHome (s.part p).ports i).2 = (wsHome (s.part p).ports w).2 ↔ i = w :=
    ⟨wsHome_inj (ports_nodup _) hi hw, fun e => e ▸ rfl⟩
  refine (readCell_writeCell wf.2 ..).trans ?_
  change (if (wsHome (s.part p).ports i).2 = (wsHome (s.part p).ports w).2 then b else s.readWsByte p i) = _
  simp only [place]

theorem readWsByte_writeWs {s : State} (wf : s.wf) {p w i : Nat} {bs : List Byte} (room : w + bs.length ≤ s.wsBytes p) (hi : i < s.wsBytes p) :
    (s.writeWs p w bs).readWsByte p i = if w ≤ i ∧ i < w + bs.length then bs.getD (i - w) 0 else s.readWsByte p i := by
  induction bs generalizing s w with
  | nil => exact (if_neg (by rw [List.length_nil]; omega)).symm
  | cons b bs ih =>
    rw [List.length_cons] at room ⊢
    have byte := readWsByte_writeByte wf (show w < s.wsBytes p by omega) hi b
    rw [State.writeWs_cons]
    generalize hs : ({ s with ws := writeCell s.ws (wsHome (s.part p).ports w).2 b } : State) = s1 at byte ⊢
    have size : s1.wsBytes p = s.wsBytes p := by rw [← hs]; rfl
    have wf1 : s1.wf := hs ▸ ⟨wf.1, writeCell_wf wf.2 _ _⟩
    rw [ih wf1 (by omega) (by omega), byte]
    by_cases first : i = w
    · rw [if_neg (by omega), if_pos first, if_pos (by omega), first, Nat.sub_self, List.getD_cons_zero]
    · by_cases inside : w + 1 ≤ i ∧ i < w + 1 + bs.length
      · rw [if_pos inside, if_pos (by omega), show i - w = i - (w + 1) + 1 by omega, List.getD_cons_succ]
      · rw [if_neg inside, if_neg first, if_neg (by omega)]

/-! What a write to the weight store leaves alone. -/

theorem State.writeWs_only (s : State) (p w : Nat) (bs : List Byte) : s.writeWs p w bs = { s with ws := (s.writeWs p w bs).ws } := by
  induction bs generalizing s w with
  | nil => rfl
  | cons b bs ih =>
    rw [State.writeWs_cons]
    exact ih ..

end Sys2Proof.Machine
end

section
/-! Preloads (O47): what reading and writing for a launch leaves of the launches, and how a preload ends. -/

namespace Sys2Proof.Machine

/-! Reads and writes for a launch leave every launch as it is. -/

/-- Whether an access was performed or not, the launches are those of `s`. -/
def Res.launchesOf {α : Type} (s : State) (r : Res α) : Prop := r.state.launches = s.launches

section
variable {s t : State} (h : t.launches = s.launches)
include h

theorem Res.launchesOf_leaves {α : Type} {r : Res α} (hr : r.leaves t.aside) : r.launchesOf s := (congrArg Aside.launches hr).trans h

theorem xlateNow_launches (core tenant va acc known) : (xlateNow t core tenant va acc known).launchesOf s := by
  unfold xlateNow
  split
  · refine Eq.trans ?_ h
    unfold Res.state fillTlb
    dsimp only
    split
    · rfl
    · split <;> rfl
  · exact h
  · exact h

end

theorem Res.bind_launches {s : State} {α β : Type} {r : Res α} {f : State → α → Res β} (hr : r.launchesOf s)
    (hf : ∀ t x, t.launches = s.launches → (f t x).launchesOf s) : (r.bind f).launchesOf s := by
  cases r with
  | ok t x => exact hf t x hr
  | stop t w => exact hr

section
variable (s : State)

theorem hwRead_launches (core part tenant acc known answers va n) :
    (hwRead s core part tenant acc known answers va n).state.launches = s.launches := by
  unfold hwRead
  refine List.foldlRecOn (motive := Res.launchesOf s) _ _ rfl fun r hr pc _ => ?_
  refine Res.bind_launches hr fun t bs h => ?_
  cases bs with
  | error f => exact h
  | ok bs =>
    refine Res.bind_launches (xlateNow_launches h ..) fun t x h => ?_
    cases x with
    | error f => exact h
    | ok x => exact Res.bind_launches (Res.launchesOf_leaves h (engineRead_leaves rfl ..)) fun _ _ h => h

theorem hwWrite_launches (part tenant who known answers va bs) :
    (hwWrite s ctlCore part tenant who known answers va bs).state.launches = s.launches := by
  unfold hwWrite
  refine List.foldlRecOn (motive := Res.launchesOf s) _ _ rfl fun r hr pc _ => ?_
  refine Res.bind_launches hr fun t bs h => ?_
  cases bs with
  | error f => exact h
  | ok bs =>
    refine Res.bind_launches (xlateNow_launches h ..) fun t x h => ?_
    cases x with
    | error f => exact h
    | ok x => exact Res.bind_launches (Res.launchesOf_leaves h (engineWrite_leaves rfl ..)) fun _ _ h => h

theorem attachReq_launches (tenant stage level table entry addr acc lanes eng) :
    (attachReq s tenant stage level table entry addr acc lanes eng).1.launches = s.launches := by
  unfold attachReq
  dsimp only
  split
  · rfl
  · split <;> rfl

/-- A walk of the page is joined or queued, once what denied the access has gone. -/
def joinWalk (s : State) (tenant page : Nat) (acc : Access) (who : Walker) : State :=
  match s.mmu.walks.find? fun e => e.2.tenant = tenant && e.2.page = page with
  | some e =>
    if e.2.waiters.contains (who, acc) then s
    else s.setMmu { s.mmu with walks := Tbl.put s.mmu.walks e.1 { e.2 with waiters := e.2.waiters ++ [(who, acc)] } }
  | none =>
    if 64 ≤ (s.mmu.queued tenant).length then s
    else
      s.setMmu
        { s.mmu with walks := s.mmu.walks ++ [(Tbl.fresh s.mmu.walks,
            { tenant := tenant, page := page, access := acc, running := none, waiters := [(who, acc)] })] }

theorem joinWalk_launches (tenant page acc who) : (joinWalk s tenant page acc who).launches = s.launches := by
  unfold joinWalk
  split
  · split <;> rfl
  · split <;> rfl

theorem queueWalk_joins (tenant page acc who) :
    queueWalk s tenant page acc who = joinWalk s tenant page acc who
      ∨ queueWalk s tenant page acc who = joinWalk (dropDenied s who.core tenant page acc) tenant page acc who := by
  cases who with
  | ahead _ _ => exact .inl rfl
  | _ => exact .inr rfl

theorem queueWalk_launches (tenant page acc who) : (queueWalk s tenant page acc who).launches = s.launches := by
  rcases queueWalk_joins s tenant page acc who with e | e
  · rw [e, joinWalk_launches]
  · rw [e, joinWalk_launches]
    rfl

theorem waitOn_launches (who part tenant w) : (waitOn s who part tenant w).launches = s.launches := by
  unfold waitOn
  split
  · unfold askRemote
    split <;> rfl
  · exact queueWalk_launches ..
  · rfl

theorem noteXlate_launches (tenant cause detail addr) : (noteXlate s tenant cause detail addr).launches = s.launches := by
  unfold noteXlate
  split <;> rfl

theorem reportDrop_launches (kind tenant addr part) : (reportDrop s kind tenant addr part).launches = s.launches := by
  unfold reportDrop
  rw [reportError_onlyDev]

theorem queueInterrupt_launches (f q) : (queueInterrupt s f q).launches = s.launches := by
  unfold queueInterrupt
  dsimp only
  rw [sendMsi_onlyDev]
  rfl

theorem freeGroup_launches (gh) : (freeGroup s gh).launches = s.launches := by
  unfold freeGroup
  split
  · rfl
  · split
    · rfl
    · dsimp only
      split <;> rfl

theorem freeCrew_launches (ch) : (freeCrew s ch).launches = s.launches := by
  have groups (l : List (Nat × Group)) : (l.foldl (fun s e => freeGroup s e.1) s).launches = s.launches :=
    List.foldlRecOn (motive := fun t : State => t.launches = s.launches) l _ rfl fun t h e _ => (freeGroup_launches t e.1).trans h
  unfold freeCrew
  split
  · rfl
  · dsimp only
    split
    · exact groups _
    · exact groups _

end

/-! Reading for a launch (R383). -/

theorem launchRead_stop {s t : State} {l : Nat} {x : Launch} {acc : Access} {va n : Nat} {w : Stop}
    (h : hwRead s ctlCore x.part x.tenant acc x.faults x.answers va n = .stop t w) :
    launchRead s l x acc va n = (t, .failed) ∨ launchRead s l x acc va n = (waitOn t (.launch l) x.part x.tenant w, .waits) := by
  unfold launchRead
  rw [h]
  exact ite_eq_or_eq ..

theorem launchRead_bytes {s s1 : State} {l : Nat} {x : Launch} {acc : Access} {va n : Nat} {bs : List Byte}
    (h : launchRead s l x acc va n = (s1, .bytes bs)) : s1.launches = s.launches := by
  have kept := hwRead_launches s ctlCore x.part x.tenant acc x.faults x.answers va n
  cases read : hwRead s ctlCore x.part x.tenant acc x.faults x.answers va n with
  | ok t r =>
    rw [read] at kept
    unfold launchRead at h
    rw [read] at h
    cases r with
    | ok bs => cases h; exact kept
    | error f =>
      obtain ⟨fault, a⟩ := f
      cases fault <;> cases h
  | stop t w => rcases launchRead_stop (l := l) read with e | e <;> cases e.symm.trans h

theorem preloadElems_done {s s2 : State} {l : Nat} {x : Launch} {r : Record} {dst : Nat} {ns : List Nat}
    (h : preloadElems s l x r dst ns = (s2, .done)) : s2.launches = s.launches := by
  induction ns generalizing s with
  | nil => cases h; rfl
  | cons n ns ih =>
    unfold preloadElems at h
    dsimp only at h
    split at h
    · rename_i s1 bs read
      refine (ih h).trans (Eq.trans ?_ (launchRead_bytes read))
      rw [State.writeWs_only]
    · cases h
    · cases h

theorem preloadRun_done {s s2 : State} {l : Nat} {x : Launch} {es : List (Nat × Nat × Bool)} (h : preloadRun s l x es = (s2, .done)) :
    s2.launches = s.launches := by
  induction es generalizing s with
  | nil => cases h; rfl
  | cons e es ih =>
    obtain ⟨src, dst, ok⟩ := e
    unfold preloadRun at h
    split at h
    · cases h
    · split at h
      · cases h
      · cases h
      · rename_i s1 bs read
        dsimp only at h
        split at h
        · cases h
        · split at h
          · rename_i copied
            exact (ih h).trans ((preloadElems_done copied).trans (launchRead_bytes read))
          · rename_i other
            exact (other _ h).elim

/-! A launch that stands as it is: its state, and how it is to close. -/

/-- The launch is in a state, and closing or not. -/
def Standing (lid : Nat) (st : LaunchState) (closing : Option (Nat × List Nat)) (s : State) : Prop :=
  ∃ x, s.launch? lid = some x ∧ x.state = st ∧ x.closing = closing

section
variable {lid : Nat} {st : LaunchState} {cl : Option (Nat × List Nat)} {s : State} (h : Standing lid st cl s)
include h

theorem Standing.of_launches {t : State} (e : t.launches = s.launches) : Standing lid st cl t := by
  unfold Standing State.launch? at h ⊢
  rwa [e]

theorem Standing.updLaunch {f : Launch → Launch} {st' : LaunchState} {cl' : Option (Nat × List Nat)}
    (hf : ∀ x, x.state = st → x.closing = cl → (f x).state = st' ∧ (f x).closing = cl') : Standing lid st' cl' (s.updLaunch lid f) := by
  obtain ⟨x, hx, state, closing⟩ := h
  refine ⟨f x, (Tbl.find?_upd_same ..).trans (congrArg (Option.map f) hx), hf x state closing⟩

/-- An update that touches neither. -/
theorem Standing.updLaunch_same {f : Launch → Launch} (hf : ∀ x, (f x).state = x.state ∧ (f x).closing = x.closing) :
    Standing lid st cl (s.updLaunch lid f) :=
  h.updLaunch fun x state closing => ⟨(hf x).1.trans state, (hf x).2.trans closing⟩

theorem Standing.launchRead (x : Launch) (acc : Access) (va n : Nat) : Standing lid st cl (launchRead s lid x acc va n).1 := by
  have read := h.of_launches (hwRead_launches s ctlCore x.part x.tenant acc x.faults x.answers va n)
  cases e : hwRead s ctlCore x.part x.tenant acc x.faults x.answers va n with
  | ok t r =>
    rw [e] at read
    unfold Machine.launchRead
    rw [e]
    cases r with
    | ok bs => exact read
    | error f =>
      obtain ⟨fault, a⟩ := f
      cases fault with
      | absent st' lv tb en ad =>
        refine Standing.of_launches (s := t.updLaunch lid fun x => { x with faults := [] }) ?_ (attachReq_launches ..)
        exact Standing.updLaunch_same read fun _ => ⟨rfl, rfl⟩
      | trap cause d => exact read.of_launches (noteXlate_launches ..)
  | stop t w =>
    rw [e] at read
    rcases launchRead_stop e with eq | eq
    · rw [eq]; exact read
    · rw [eq]; exact read.of_launches (waitOn_launches ..)

theorem Standing.spoilEntries (x : Launch) (es : List (Nat × Nat × Bool)) : Standing lid st cl (spoilEntries s lid x es) := by
  refine List.foldlRecOn (motive := Standing lid st cl) es _ h fun t ht e _ => ?_
  have read := ht.launchRead x .engRead e.1 64
  split
  · rename_i eq; rw [eq] at read
    refine read.of_launches ?_
    rw [State.writeWs_only]
  · rename_i eq; rw [eq] at read
    exact read

/-! Completion words (R371). -/

theorem Standing.finishWords : Standing lid st cl (finishWords s lid) := by
  unfold Machine.finishWords
  split
  · exact h
  · split
    · have asked : Standing lid st cl (s.updLaunch lid fun x => { x with irqDue := false }) := h.updLaunch_same fun _ => ⟨rfl, rfl⟩
      dsimp only
      split
      · exact asked.of_launches (queueInterrupt_launches ..)
      · exact asked.of_launches (queueInterrupt_launches ..)
      · exact asked
    · exact h

/-- The oldest completion word is gone. -/
theorem Standing.wordGone {t : State} (e : t.launches = s.launches) :
    Standing lid st cl (Machine.finishWords (t.updLaunch lid fun x => { x with words := x.words.drop 1 }) lid) := by
  refine Standing.finishWords ?_
  exact Standing.updLaunch_same (h.of_launches e) fun _ => ⟨rfl, rfl⟩

theorem Standing.dropWord (x : Launch) (addr : Nat) : Standing lid st cl (dropWord s lid x addr) := h.wordGone (reportDrop_launches ..)

theorem Standing.pushWord : Standing lid st cl (pushWord s lid) := by
  unfold Machine.pushWord
  split
  · exact h
  · rename_i x _
    split
    · exact h
    · split
      · split
        · exact h.dropWord ..
        · exact h.wordGone rfl
      · rename_i w _ _ _ _ _ a _
        have wrote := hwWrite_launches s x.part x.tenant none x.faults [] a.toNat (toBytes 8 w.toNat)
        split
        · rename_i e; rw [e] at wrote
          exact h.wordGone wrote
        · rename_i t _ _ _ _ _ _ e; rw [e] at wrote
          refine Standing.of_launches (s := t.updLaunch lid fun x => { x with faults := [] }) ?_ (attachReq_launches ..)
          exact Standing.updLaunch_same (h.of_launches wrote) fun _ => ⟨rfl, rfl⟩
        · rename_i e; rw [e] at wrote
          exact ((h.of_launches wrote).of_launches (noteXlate_launches ..)).dropWord ..
        · rename_i e; rw [e] at wrote
          split
          · exact (h.of_launches wrote).dropWord ..
          · exact (h.of_launches wrote).of_launches (waitOn_launches ..)
      · exact h

theorem Standing.addWord (w : W64) : Standing lid st cl (addWord s lid w) := by
  have added : Standing lid st cl (s.updLaunch lid fun x => { x with words := x.words ++ [w] }) := h.updLaunch_same fun _ => ⟨rfl, rfl⟩
  unfold Machine.addWord
  split
  · exact h
  · dsimp only
    split
    · exact added.pushWord
    · exact added

theorem Standing.childToken (r reg v) : Standing lid st cl (childToken s r reg v) := by
  refine h.of_launches ?_
  unfold Machine.childToken
  dsimp only
  split <;> rfl

end

/-! The end of a launch (R138, R402). -/

theorem Standing.endLaunch {lid code : Nat} {s : State} (h : Standing lid .preloading none s) (failed : code ≠ 0) :
    Standing lid (.failed code) none (endLaunch s lid code) := by
  obtain ⟨x, hx, state, closing⟩ := h
  have ended : Standing lid (.failed code) none
      (s.updLaunch lid fun x => { x with state := if code = 0 then .done else .failed code, irqDue := x.irq }) :=
    Standing.updLaunch ⟨x, hx, state, closing⟩ fun _ _ closing => ⟨if_neg failed, closing⟩
  unfold Machine.endLaunch
  rw [hx]
  dsimp only
  rw [state]
  dsimp only
  split
  · exact ended.childToken ..
  · exact ended.addWord _

/-- A launch has failed with a code, or will once its writes have been made. -/
def Failing (lid code : Nat) (s : State) : Prop :=
  ∃ x, s.launch? lid = some x ∧ (x.state = .failed code ∨ x.closing.map (·.1) = some code)

theorem tryClose_failing {lid code : Nat} {cores : List Nat} {s : State} (h : Standing lid .preloading (some (code, cores)) s)
    (failed : code ≠ 0) : Failing lid code (tryClose s lid) := by
  obtain ⟨x, hx, state, closing⟩ := h
  have written : (Res.forEach s (fun s core => sinvWriteBack s x.part core) cores).leaves s.aside :=
    Res.forEach_leaves rfl (fun _ _ h => sinvWriteBack_leaves h ..) _
  have waits {t : State} (e : t.aside = s.aside) : Failing lid code t := by
    have still : t.launch? lid = some x := (congrArg (fun a => Tbl.find? (Aside.launches a) lid) e).trans hx
    exact ⟨x, still, .inr (by rw [closing]; rfl)⟩
  unfold tryClose
  rw [hx]
  dsimp only
  rw [closing]
  dsimp only
  split
  · rename_i e; rw [e] at written
    exact waits written
  · rename_i t _ e; rw [e] at written
    split
    · exact waits written
    · have still : t.launch? lid = some x := (congrArg (fun a => Tbl.find? (Aside.launches a) lid) written).trans hx
      have closed : Standing lid .preloading none (t.updLaunch lid fun x => { x with closing := none }) :=
        Standing.updLaunch ⟨x, still, state, closing⟩ fun _ state _ => ⟨state, rfl⟩
      obtain ⟨y, hy, ended, -⟩ := closed.endLaunch failed
      exact ⟨y, hy, .inl ended⟩

theorem closeLaunch_failing {lid code : Nat} {s : State} (h : Standing lid .preloading none s) (failed : code ≠ 0) (cores : List Nat) :
    Failing lid code (closeLaunch s lid code cores) := by
  refine tryClose_failing (cores := cores) (Standing.updLaunch h fun x state closing => ?_) failed
  rw [closing]
  exact ⟨state, rfl⟩

theorem abortLaunch_failing {lid code : Nat} {s : State} (h : Standing lid .preloading none s) (failed : code ≠ 0) :
    Failing lid code (abortLaunch s lid code) := by
  have freed (l : List (Nat × Crew)) : Standing lid .preloading none (l.foldl (fun s e => freeCrew s e.1) s) :=
    List.foldlRecOn (motive := Standing lid .preloading none) l _ h fun t h e _ => h.of_launches (freeCrew_launches t e.1)
  unfold abortLaunch
  refine closeLaunch_failing ?_ failed _
  exact Standing.of_launches (freed (s.crews.filter fun e => e.2.launch = lid)) rfl

theorem failPreload_failing {lid : Nat} {s : State} (h : Standing lid .preloading none s) : Failing lid 0x42 (failPreload s lid) := by
  obtain ⟨x, hx, state, closing⟩ := h
  have read := Standing.launchRead ⟨x, hx, state, closing⟩ x .engRead x.preload.toNat (16 * x.npreload)
  unfold failPreload
  rw [hx]
  dsimp only
  refine abortLaunch_failing ?_ (by decide)
  split
  · rename_i e; rw [e] at read
    exact read.spoilEntries ..
  · rename_i e; rw [e] at read
    exact read

/-! PRELOAD_START and PRELOAD_COMPLETE (R383). -/

theorem canPreload_of {s : State} {l : Launch} (state : l.state = .candidate) (listed : l.npreload ≠ 0) (met : depsMet s l = true)
    (whole : depBroken s l = false) (turn : queueOk s l = true)
    (first : ∀ e ∈ s.launches, e.2.part = l.part → e.2.age < l.age → e.2.ended = true) : canPreload s l = true := by
  have earlier : (s.launches.all fun e => !(e.2.part = l.part && e.2.age < l.age) || e.2.ended) = true := by
    refine List.all_eq_true.mpr fun e he => ?_
    by_cases before : e.2.part = l.part ∧ e.2.age < l.age
    · rw [first e he before.1 before.2, Bool.or_true]
    · simp only [← Bool.decide_and, decide_eq_false before, Bool.not_false, Bool.true_or]
  unfold canPreload
  rw [earlier, turn, whole, met, decide_eq_true state, bne_iff_ne.mpr listed]
  rfl

theorem exec_preloadStart {lid : Nat} {s : State} {l : Launch} (hl : s.launch? lid = some l) (can : canPreload s l = true) :
    exec (.preloadStart lid) s = .next (s.updLaunch lid fun l => { l with state := .preloading }) := by
  change execPreloadStart lid s = _
  rw [execPreloadStart, hl]
  exact congrArg _ (if_pos can)

section
variable {lid : Nat} {s s1 s2 : State} {l : Launch} {bs : List Byte} (hl : s.launch? lid = some l) (state : l.state = .preloading)
  (asked : s.asking (.launch lid) = false) (read : launchRead s lid l .engRead l.preload.toNat (16 * l.npreload) = (s1, .bytes bs))
include hl state asked read

theorem exec_preloadComplete_done (run : preloadRun s1 lid l (preloadEntries l bs) = (s2, .done)) :
    exec (.preloadComplete lid) s =
      .next (s2.updLaunch lid fun x => { x with state := .ready, answers := [], aborted := [], faults := [] }) := by
  change execPreloadComplete lid s = _
  rw [execPreloadComplete, hl]
  dsimp only
  rw [state, asked, read]
  dsimp only
  rw [run]
  rfl

theorem exec_preloadComplete_failed (run : preloadRun s1 lid l (preloadEntries l bs) = (s2, .failed)) :
    exec (.preloadComplete lid) s = .next (failPreload s2 lid) := by
  change execPreloadComplete lid s = _
  rw [execPreloadComplete, hl]
  dsimp only
  rw [state, asked, read]
  dsimp only
  rw [run]
  rfl

end

/-- The first entry of the list is malformed. -/
theorem preloadRun_bad {lid : Nat} {s : State} {l : Launch} {bs : List Byte} (listed : 0 < l.npreload)
    (bad : numAt bs 8 4 % 16 ≠ 0 ∨ numAt bs 0 8 % 64 ≠ 0 ∨ numAt bs 12 4 ≠ 0) :
    preloadRun s lid l (preloadEntries l bs) = (s, .failed) := by
  obtain ⟨n, hn⟩ : ∃ n, l.npreload = n + 1 := ⟨l.npreload - 1, by omega⟩
  unfold preloadEntries
  rw [hn, List.range_succ_eq_map, List.map_cons]
  unfold preloadRun
  refine if_pos ?_
  simp only [Bool.or_eq_true, Bool.not_eq_true', bne_iff_ne, beq_eq_false_iff_ne, Nat.mul_zero, Nat.zero_add]
  omega

/-- Settles O47: replies by what is attached to their entry, preloads by what their reads leave of the launches, the weight store by its
places. -/
theorem repliesAndPreloads : Obligations.RepliesAndPreloads := by
  unfold Obligations.RepliesAndPreloads
  refine ⟨fun func value s up => prqreply_results up, fun lid s l hl => ⟨fun state listed met whole turn first => ?start, fun state asked s1 bs
    read => ⟨fun s2 run => ?done, fun listed unclosed bad => ?bad⟩⟩, fun s p w i bs wf room hi => readWsByte_writeWs wf room hi⟩
  case start => exact exec_preloadStart hl (canPreload_of state listed met whole turn first)
  case done =>
    have kept : s2.launch? lid = some l := by
      rw [State.launch?, preloadRun_done run, launchRead_bytes read]
      exact hl
    exact ⟨_, exec_preloadComplete_done hl state asked read run, (Tbl.find?_upd_same ..).trans (congrArg (Option.map _) kept), rfl, rfl⟩
  case bad =>
    have kept : s1.launch? lid = some l := by
      rw [State.launch?, launchRead_bytes read]
      exact hl
    obtain ⟨l', hl', failing⟩ := failPreload_failing (lid := lid) ⟨l, kept, state, unclosed⟩
    exact ⟨_, l', exec_preloadComplete_failed hl state asked read (preloadRun_bad listed bad), hl', failing⟩

end Sys2Proof.Machine
end

section
/-! Tables whose keys are listed once or in rising order, and the updates of the split that issues, of its group and of its crew: what an
update depends on, what two updates come to, and what they leave unchanged. -/

namespace Sys2Proof.Machine

/-! Tables. -/

section
variable {α : Type} {l : List (Nat × α)} {n : Nat}

theorem Tbl.upd_congr {x : α} (h : Tbl.find? l n = some x) {f f' : α → α} (e : f x = f' x) : Tbl.upd l n f = Tbl.upd l n f' := by
  simp only [Tbl.upd, h, e]

theorem Tbl.put_put (l : List (Nat × α)) (n : Nat) (x y : α) : Tbl.put (Tbl.put l n x) n y = Tbl.put l n y := by
  induction l with
  | nil => simp [Tbl.put]
  | cons p t ih =>
    obtain ⟨k, v⟩ := p
    by_cases lt : n < k
    · simp [Tbl.put, lt]
    · by_cases eq : k = n
      · simp [Tbl.put, eq]
      · simp [Tbl.put, lt, eq, ih]

theorem Tbl.upd_upd (l : List (Nat × α)) (n : Nat) (f f' : α → α) : Tbl.upd (Tbl.upd l n f) n f' = Tbl.upd l n (f' ∘ f) := by
  cases h : Tbl.find? l n with
  | none => simp [Tbl.upd, h]
  | some x => simp [Tbl.upd, h, Tbl.put_put]

theorem Tbl.mem_of_find? {x : α} (h : Tbl.find? l n = some x) : (n, x) ∈ l := by
  induction l with
  | nil => simp at h
  | cons p t ih =>
    obtain ⟨k, v⟩ := p
    by_cases e : k = n
    · simp_all [Tbl.find?]
    · exact List.mem_cons_of_mem _ (ih (by simpa [Tbl.find?, e] using h))

theorem Tbl.find?_of_mem (once : (l.map (·.1)).Nodup) {e : Nat × α} (h : e ∈ l) : Tbl.find? l e.1 = some e.2 := by
  induction l with
  | nil => simp at h
  | cons p t ih =>
    obtain ⟨k, v⟩ := p
    obtain ⟨fresh, once⟩ := List.nodup_cons.mp once
    rcases List.mem_cons.mp h with rfl | h
    · simp [Tbl.find?]
    · have ne : k ≠ e.1 := fun eq => fresh (eq ▸ List.mem_map_of_mem (f := (·.1)) h)
      simp [Tbl.find?, ne, ih once h]

/-- A key written in a sparse table that lists each key once: it reads the value, every other key reads as before. -/
theorem Tbl.getD_setD_nodup [DecidableEq α] {d : α} (once : (l.map (·.1)).Nodup) (n m : Nat) (x : α) :
    Tbl.getD (Tbl.setD d l n x) m d = if m = n then x else Tbl.getD l m d := by
  unfold Tbl.setD Tbl.getD
  by_cases hx : x = d
  · by_cases hm : m = n
    · simp [hx, hm, Tbl.find?_del_same once]
    · simp [hx, hm, Tbl.find?_del_other]
  · by_cases hm : m = n <;> simp [hx, hm, Tbl.find?_put]

theorem nodup_of_rising {ks : List Nat} (h : ks.Pairwise (· < ·)) : ks.Nodup := h.imp Nat.ne_of_lt

/-- In a table in rising order an update changes the value at its key where it stands. -/
theorem Tbl.upd_eq_map (rising : (l.map (·.1)).Pairwise (· < ·)) (n : Nat) (f : α → α) :
    Tbl.upd l n f = l.map fun e => if e.1 = n then (e.1, f e.2) else e := by
  induction l with
  | nil => rfl
  | cons p t ih =>
    obtain ⟨k, v⟩ := p
    obtain ⟨above, rising⟩ := List.pairwise_cons.mp rising
    by_cases e : k = n
    · subst e
      have others : ∀ e ∈ t, e.1 ≠ k := fun e he => Nat.ne_of_gt (above _ (List.mem_map_of_mem he))
      have same : (t.map fun e => if e.1 = k then (e.1, f e.2) else e) = t :=
        (List.map_congr_left fun e he => if_neg (others e he)).trans (List.map_id t)
      simp [Tbl.upd, Tbl.find?, Tbl.put, same]
    · have cons : Tbl.upd ((k, v) :: t) n f = (k, v) :: Tbl.upd t n f := by
        cases h : Tbl.find? t n with
        | none => simp [Tbl.upd, Tbl.find?, e, h]
        | some x =>
          have lt : ¬n < k := Nat.not_lt_of_lt (above n (List.mem_map_of_mem (f := (·.1)) (Tbl.mem_of_find? h)))
          simp [Tbl.upd, Tbl.find?, Tbl.put, e, h, lt]
      rw [cons, ih rising, List.map_cons, if_neg e]

theorem Tbl.upd_keys (rising : (l.map (·.1)).Pairwise (· < ·)) (n : Nat) (f : α → α) :
    (Tbl.upd l n f).map (·.1) = l.map (·.1) := by
  rw [Tbl.upd_eq_map rising, List.map_map]
  exact List.map_congr_left fun e _ => by by_cases h : e.1 = n <;> simp [h]

end

/-! Updates of a split and of its group. -/

theorem State.updGroup_updGroup (s : State) (g : Nat) (F F' : Group → Group) :
    (s.updGroup g F).updGroup g F' = s.updGroup g (F' ∘ F) := by
  simp [State.updGroup, Tbl.upd_upd]

theorem Group.updSplit_updSplit (g : Group) (n : Nat) (f f' : Split → Split) :
    (g.updSplit n f).updSplit n f' = g.updSplit n (f' ∘ f) := by
  simp [Group.updSplit, Tbl.upd_upd]

theorem State.updSplit_updSplit (s : State) (r : SplitRef) (f f' : Split → Split) :
    (s.updSplit r f).updSplit r f' = s.updSplit r (f' ∘ f) := by
  unfold State.updSplit
  rw [State.updGroup_updGroup]
  exact congrArg _ (funext fun g => g.updSplit_updSplit ..)

/-- Where an update of one group leads, as seen from a split of it. -/
theorem State.updGroup_split? {s : State} {r : SplitRef} {g : Group} (h : s.group? r.group = some g) (F : Group → Group) :
    (s.updGroup r.group F).split? r = Tbl.find? (F g).splits r.split := by
  simp [State.split?, h]

theorem OnlySplits.updGroup {s : State} {gh : Nat} {g : Group} (h : s.group? gh = some g) {F : Group → Group}
    (hF : F g = { g with splits := (F g).splits }) : OnlySplits s (s.updGroup gh F) gh :=
  ⟨rfl, fun _ ne => State.updGroup_group?_other s F ne, g, F g, h, by simp [h], hF⟩

section
variable {s : State} {c : Ctx} (hc : s.ctx? = some c)
include hc

/-- What an update does to the group of the issuing split depends on that group alone. -/
theorem ctx?_updGroup_congr {F F' : Group → Group} (e : F c.g = F' c.g) : s.updGroup c.r.group F = s.updGroup c.r.group F' := by
  unfold State.updGroup
  rw [Tbl.upd_congr (ctx?_group hc) e]

/-- What an update does to the issuing split depends on that split alone. -/
theorem ctx?_updSplit_congr {f f' : Split → Split} (e : f c.sp = f' c.sp) : s.updSplit c.r f = s.updSplit c.r f' :=
  ctx?_updGroup_congr hc (by simp only [Group.updSplit, Tbl.upd_congr (ctx?_splits hc) e])

theorem ctx?_updSplit_split? (f : Split → Split) : (s.updSplit c.r f).split? c.r = some (f c.sp) := by
  simp [ctx?_split hc]

theorem ctx?_updSplit_only (f : Split → Split) : OnlySplits s (s.updSplit c.r f) c.r.group := .updGroup (ctx?_group hc) rfl

theorem ctx?_updCrew_split? (F : Crew → Crew) : (s.updCrew c.g.crew F).split? c.r = some c.sp := ctx?_split (s := s) hc

theorem ctx?_updCrew_crew? (F : Crew → Crew) : (s.updCrew c.g.crew F).crew? c.g.crew = some (F c.crew) := by
  have h := ctx?_crew hc
  simp_all [State.updCrew, State.crew?]

end

theorem once_some {c : Ctx} {q : Guard} (h : c.any q = true) (s k : State) : once s c q k = k := by simp [once, h]

/-- Outside a clamp no store waits in a gate. -/
theorem gateClear_unchecked {s : State} {c : Ctx} (h : c.checked = false) : gateClear s c := fun e => absurd e (by simp [h])

theorem held_unchecked {c : Ctx} (h : c.checked = false) (s : State) (kind : Nat) (lead : W64) (k : State) : held s c kind lead k = k := by
  simp [held, h]

theorem compared_unchecked {c : Ctx} (h : c.checked = false) (s : State) (kind : Nat) (lead : W64) : compared s c kind lead = s := by
  simp [compared, h]

/-! What retiring leaves of a split. -/

theorem advance_wait (sp : Split) (n : Nat) : (sp.advance n).wait = sp.wait := by rw [advance_kept sp n]; rfl
theorem advance_arv (sp : Split) (n : Nat) : (sp.advance n).arv = sp.arv := by rw [advance_kept sp n]; rfl

theorem advance_sealed (sp : Split) (n : Nat) : ({ sp with sealed := true } : Split).advance n = { sp.advance n with sealed := true } := by
  rcases e : sp.rep with _ | ⟨f, i⟩
  · simp only [Split.advance, e]
    rfl
  · by_cases more : i < f.countM1.toNat <;> simp only [Split.advance, e, more, if_true, if_false] <;> rfl

/-- With no rep in force the split stands at the next word (R200). -/
theorem advance_pc {sp : Split} (h : sp.rep = none) : (sp.advance 1).pc = sp.pc + 8 := by
  simp only [Split.advance, h]
  rfl

end Sys2Proof.Machine
end

section
/-! Rings, pause and rep (O30): each instruction as one update of the issuing split or of its crew. -/

namespace Sys2Proof.Machine

/-- A crew with the phase of a ring's slot inverted (R184). -/
def Crew.flip (cr : Crew) (r slot : Nat) : Crew :=
  { cr with ringPhase := Tbl.setD false cr.ringPhase (8 * r + slot) (!(cr.phase r slot)) }

theorem Crew.flip_phase {cr : Crew} (once : (cr.ringPhase.map (·.1)).Nodup) {r slot q k : Nat} (hk : k < 8) (hs : slot < 8) :
    (cr.flip r slot).phase q k = if q = r ∧ k = slot then !(cr.phase r slot) else cr.phase q k := by
  have key : 8 * q + k = 8 * r + slot ↔ q = r ∧ k = slot := by omega
  simp only [Crew.flip, Crew.phase, Tbl.getD_setD_nodup once, key]

section
variable {s : State} {c : Ctx} (hc : s.ctx? = some c)
include hc

section
variable {f : RF} (on : c.any f.g = true)
include on

/-- RGET of a slot in the wanted phase; with nothing to drop its acquire leaves no trace (R184, R185). -/
theorem exec_rget_ready (quiet : noSinv s c.crew.core)
    (same : c.crew.phase (f.m 0 3) (c.crew.slotOf (f.m 0 3) (c.sp.s f.sa.toNat)) = (f.m 3 1 == 1)) :
    exec (.rget f) s = .next (s.retire c.r) := by
  refine (withCtx_of hc _).trans (congrArg _ ((once_some on ..).trans ((if_pos (beq_iff_eq.mpr same)).trans ?_)))
  exact withAcquire_noSinv quiet ..

/-- RGET of a slot in the other phase (R184). -/
theorem exec_rget_waits (other : c.crew.phase (f.m 0 3) (c.crew.slotOf (f.m 0 3) (c.sp.s f.sa.toNat)) ≠ (f.m 3 1 == 1)) :
    exec (.rget f) s = .next (s.waitFor c.r (.ring (f.m 0 3) (c.crew.slotOf (f.m 0 3) (c.sp.s f.sa.toNat)) (f.m 3 1 == 1))) :=
  (withCtx_of hc _).trans (congrArg _ ((once_some on ..).trans (if_neg (mt beq_iff_eq.mp other))))

/-- RPUT inverts the slot's phase and goes on (R184, R185). -/
theorem exec_rput (plain : c.checked = false) (quiet : noSinv s c.crew.core) :
    exec (.rput f) s = .next
      ((s.updCrew c.g.crew fun cr => cr.flip (f.m 0 3) (c.crew.slotOf (f.m 0 3) (c.sp.s f.sa.toNat))).updSplit c.r
        fun sp => ({ sp with sealed := true } : Split).advance 1) := by
  refine (withCtx_of hc _).trans (congrArg _ ((once_some on ..).trans ?_))
  rw [withWriteBack_noSinv quiet (hg := gateClear_unchecked plain), held_unchecked plain]
  exact State.updSplit_updSplit ..

end

/-- PAUSE where its guard holds (R189). -/
theorem exec_pause {m : IF} (on : c.any m.g = true) :
    exec (.pause m) s = .next ((s.updSplit c.r fun sp => { sp with paused := true }).retire c.r) :=
  (withCtx_of hc _).trans (congrArg _ (once_some on ..))

/-- REP whose iterations start inside its count (R294, R295). -/
theorem exec_rep_runs {p : PF} (inside : (if c.sp.back then c.sp.repcnt else 0) ≤ p.countM1.toNat) :
    exec (.rep p) s = .next (s.updSplit c.r fun _ => { (c.sp.advance 1) with rep := some (p, if c.sp.back then c.sp.repcnt else 0) }) :=
  (withCtx_of hc _).trans (congrArg _ (ctx?_updSplit_congr hc (if_neg (Nat.not_lt.mpr inside))))

/-- REP to which tret has come back past its last iteration (R295). -/
theorem exec_rep_skips {p : PF} (past : p.countM1.toNat < if c.sp.back then c.sp.repcnt else 0) :
    exec (.rep p) s = .next (s.updSplit c.r fun _ => c.sp.advance 2) :=
  (withCtx_of hc _).trans (congrArg _ (ctx?_updSplit_congr hc (if_pos past)))

end

/-- Retiring under a rep: the next iteration, or past the pair (R294). -/
theorem advance_rep {sp : Split} {p : PF} {i : Nat} (h : sp.rep = some (p, i)) :
    sp.advance 1 = if i < p.countM1.toNat then { sp.ended with rep := some (p, i + 1) } else ({ sp with rep := none } : Split).advance 1 := by
  simp only [Split.advance, h]
  rfl

/-- Settles O30: each clause is the instruction's own rule; what rput changes of the crew is one slot's phase. -/
theorem ringPauseAndRepeatResults : Obligations.RingPauseAndRepeatResults := by
  unfold Obligations.RingPauseAndRepeatResults
  intro f m p s c hc onF onM plain quiet r slot wanted
  refine ⟨fun same => exec_rget_ready hc onF quiet same, fun other => exec_rget_waits hc onF other, fun once => ?put, exec_pause hc onM,
    ⟨fun inside => exec_rep_runs hc inside, fun past => exec_rep_skips hc past⟩, fun i prefixed => ?iterate⟩
  case put =>
    refine ⟨_, c.crew.flip r slot, exec_rput hc onF plain quiet, ctx?_updCrew_crew? hc _, ctx?_updSplit_only hc _, rfl,
      fun q k _ hk hs => Crew.flip_phase once hk hs, ?_⟩
    rw [State.updSplit_split?, ctx?_updCrew_split? hc, Option.map_some, Option.map_some, advance_sealed]
  case iterate => rw [← advance_rep prefixed]; exact ctx?_updSplit_split? hc _

end Sys2Proof.Machine
end

section
/-! Control transfers (O27): the parts of a division, and where a split goes with one part, with two, and with no free split. -/

namespace Sys2Proof.Machine

/-! The parts of a division (R177): a table in ascending PC order, each PC with the lanes that choose it. -/

theorem w64_toNat (x : W64) : w64 x.toNat = x := by simp [w64]

/-- A lane joins the lanes that have chosen its PC. -/
def addLane (choose : Nat → W64) (t : List (Nat × LaneMask)) (l : Nat) : List (Nat × LaneMask) :=
  Tbl.put t (choose l).toNat (Tbl.getD t (choose l).toNat 0 ||| BitVec.twoPow 64 l)

theorem partsOf_eq (m : LaneMask) (choose : Nat → W64) : partsOf m choose = (lanesOf m).foldl (addLane choose) [] := rfl

section
variable {choose : Nat → W64} {m : LaneMask}

theorem addLane_canon {t : List (Nat × LaneMask)} (h : Tbl.canon 0 0 t = true) {l : Nat} (hl : l < 64) :
    Tbl.canon 0 0 (addLane choose t l) = true := by
  refine Tbl.canon_put h (Nat.zero_le _) fun zero => ?_
  have bit := congrArg (·.getLsbD l) zero
  simp [hl] at bit

theorem addLane_getD (t : List (Nat × LaneMask)) (l pc : Nat) {k : Nat} (hk : k < 64) :
    (Tbl.getD (addLane choose t l) pc 0).getLsbD k = ((Tbl.getD t pc 0).getLsbD k || decide (k = l ∧ (choose l).toNat = pc)) := by
  by_cases e : pc = (choose l).toNat
  · subst e
    simp [addLane, hk, eq_comm]
  · simp [addLane, Tbl.getD_put_other _ _ _ e, Ne.symm e]

theorem addLanes_getD (ls : List Nat) (t : List (Nat × LaneMask)) (pc : Nat) {k : Nat} (hk : k < 64) :
    (Tbl.getD (ls.foldl (addLane choose) t) pc 0).getLsbD k
      = ((Tbl.getD t pc 0).getLsbD k || decide (k ∈ ls ∧ (choose k).toNat = pc)) := by
  induction ls generalizing t with
  | nil => simp
  | cons l ls ih =>
    rw [List.foldl_cons, ih, addLane_getD t l pc hk, Bool.or_assoc, ← Bool.decide_or]
    congr 2
    simp only [List.mem_cons, eq_iff_iff]
    constructor
    · rintro (⟨rfl, h⟩ | ⟨hm, h⟩)
      · exact ⟨.inl rfl, h⟩
      · exact ⟨.inr hm, h⟩
    · rintro ⟨rfl | hm, h⟩
      · exact .inl ⟨rfl, h⟩
      · exact .inr ⟨hm, h⟩

theorem partsOf_canon : Tbl.canon 0 0 (partsOf m choose) = true := by
  rw [partsOf_eq]
  exact List.foldlRecOn (motive := fun t => Tbl.canon 0 0 t = true) _ _ rfl fun t h l hl => addLane_canon h (mem_lanesOf.mp hl).1

theorem partsOf_getD (pc : Nat) {l : Nat} (hl : l < 64) :
    (Tbl.getD (partsOf m choose) pc 0).getLsbD l = (m.getLsbD l && decide ((choose l).toNat = pc)) := by
  rw [partsOf_eq, addLanes_getD _ _ _ hl]
  simp [Tbl.getD, mem_lanesOf, hl]

/-- The parts are those of any table in order that gives each PC the lanes which choose it. -/
theorem partsOf_unique {t : List (Nat × LaneMask)} (canon : Tbl.canon 0 0 t = true)
    (reads : ∀ pc l, l < 64 → (Tbl.getD t pc 0).getLsbD l = (m.getLsbD l && decide ((choose l).toNat = pc))) : partsOf m choose = t :=
  Tbl.canon_ext partsOf_canon canon fun pc => BitVec.eq_of_getLsbD_eq fun l hl => by rw [partsOf_getD pc hl, reads pc l hl]

theorem partsOf_one {pc : W64} (any : m ≠ 0) (all : ∀ l, m.getLsbD l = true → choose l = pc) : partsOf m choose = [(pc.toNat, m)] := by
  refine partsOf_unique (by simpa [Tbl.canon] using any) fun k l _ => ?_
  cases hm : m.getLsbD l with
  | false => by_cases e : pc.toNat = k <;> simp [Tbl.getD, Tbl.find?, e, hm]
  | true => by_cases e : pc.toNat = k <;> simp [Tbl.getD, Tbl.find?, e, hm, all l hm]

theorem partsOf_two {lo hi : W64} {a b : LaneMask} (lt : lo < hi) (ha : a ≠ 0) (hb : b ≠ 0)
    (low : ∀ l, l < 64 → a.getLsbD l = (m.getLsbD l && decide (choose l = lo)))
    (high : ∀ l, l < 64 → b.getLsbD l = (m.getLsbD l && decide (choose l = hi)))
    (either : ∀ l, m.getLsbD l = true → choose l = lo ∨ choose l = hi) : partsOf m choose = [(lo.toNat, a), (hi.toNat, b)] := by
  have lt : lo.toNat < hi.toNat := lt
  refine partsOf_unique (by simpa [Tbl.canon, Nat.succ_le_iff, lt] using ⟨ha, hb⟩) fun k l hl => ?_
  by_cases el : lo.toNat = k
  · subst el
    simp [Tbl.getD, Tbl.find?, low l hl, BitVec.toNat_inj]
  · by_cases eh : hi.toNat = k
    · subst eh
      simp [Tbl.getD, Tbl.find?, el, high l hl, BitVec.toNat_inj]
    · cases hm : m.getLsbD l with
      | false => simp [Tbl.getD, Tbl.find?, el, eh]
      | true => rcases either l hm with e | e <;> simp [Tbl.getD, Tbl.find?, el, eh, e]

end

/-! A transfer by its parts. -/

/-- The splits of the group that no lanes use. -/
def Ctx.freeSplits (c : Ctx) : List Nat := (List.range 4).filter fun n => (Tbl.find? c.g.splits n).isNone

theorem withSpill_none {old new : Nat} (h : ¬spilled old < spilled new) (s : State) (c : Ctx) (k : State → State) :
    withSpill s c old new k = k s := by
  simp [withSpill, h, withRegion, regionMiss]

/-- The first sixteen entries of a stack lie on the die (R175). -/
theorem spilled_shallow {depth : Nat} (h : depth ≤ 16) : spilled depth = 0 := by
  unfold spilled
  omega

/-- A group whose split `k` has divided: the lower part stays in it, the other takes split `n` (R177). -/
def Group.divided (g : Group) (k : Nat) (lower : Split) (n : Nat) (other : Split) : Group :=
  { g with splits := Tbl.put (Tbl.upd g.splits k fun _ => lower) n other }

section
variable {s : State} {c : Ctx} {choose : Nat → W64} {base : Split → Split} {arrive : W64 → Split → Split}

/-- A division at trap level is ILLEGAL (R177). -/
theorem transfer_trapped {lo hi : W64} {a b : LaneMask} (parts : partsOf c.sp.mask choose = [(lo.toNat, a), (hi.toNat, b)])
    (trapped : c.sp.trap.isSome = true) : transfer s c choose base arrive = raise s c 1 c.sp.mask := by
  simp [transfer, parts, trapped, causeIllegal]

variable (hc : s.ctx? = some c) (plain : c.checked = false)
include hc plain

/-- With one part the split goes there (R177). -/
theorem transfer_one (small : c.sp.stack.length ≤ 1024) {pc : W64} {m : LaneMask}
    (parts : partsOf c.sp.mask choose = [(pc.toNat, m)]) :
    transfer s c choose base arrive = s.updSplit c.r fun _ => { arrive pc ((base c.sp).goto pc) with mask := m } := by
  simp only [transfer, parts, List.isEmpty_nil, Bool.not_true, Bool.false_and, Bool.false_eq_true, if_false, List.length_nil, Nat.zero_sub,
    Nat.add_zero, if_neg (Nat.not_lt.mpr small), withSpill_none (Nat.lt_irrefl _), compared_unchecked plain, List.zip_nil_left,
    List.drop_nil, List.foldl_nil, if_true, List.map_nil, List.nil_append, w64_toNat, Option.map_id']
  exact ctx?_updSplit_congr hc rfl

section
variable {lo hi : W64} {a b : LaneMask} (parts : partsOf c.sp.mask choose = [(lo.toNat, a), (hi.toNat, b)])
  (untrapped : c.sp.trap = none)
include parts untrapped

/-- With a free split the other part takes it (R177, R212). -/
theorem transfer_divides (settled : c.sp.pend = []) (small : c.sp.stack.length ≤ 1024) {n : Nat} {ns : List Nat}
    (free : c.freeSplits = n :: ns) :
    transfer s c choose base arrive = ({ s with seed := s.seed + 1 } : State).updGroup c.r.group fun _ =>
      c.g.divided c.r.split { arrive lo ((base c.sp).goto lo) with
        mask := a, billet := (arrive lo ((base c.sp).goto lo)).billet.map fun k => k.forLanes a }
        n (arrive hi ((base c.sp).fork hi b s.seed)) := by
  rw [Ctx.freeSplits] at free
  have depth : c.sp.stack.length + (1 - (ns.length + 1)) = c.sp.stack.length := by omega
  simp only [transfer, parts, free, depth, untrapped, settled, List.isEmpty_cons, List.isEmpty_nil, Bool.not_false, Bool.not_true, Bool.and_true,
    Bool.and_false, Bool.false_eq_true, if_false, Option.isSome_none, List.length_cons, List.length_nil,
    Nat.zero_add, if_neg (Nat.not_lt.mpr small), withSpill_none (Nat.lt_irrefl _), compared_unchecked plain, List.zip_cons_cons,
    List.zip_nil_left, List.drop_succ_cons, List.drop_nil, List.foldl_cons, List.foldl_nil, List.map_nil, List.nil_append, w64_toNat]
  exact ctx?_updGroup_congr (s := { s with seed := s.seed + 1 }) hc
    (congrArg (fun l => ({ c.g with splits := Tbl.put l n _ } : Group)) (Tbl.upd_congr (ctx?_splits hc) rfl))

/-- With no free split the other part waits in a P entry of the stack (R175, R177). -/
theorem transfer_pushes (small : c.sp.stack.length < 16) (full : c.freeSplits = []) :
    transfer s c choose base arrive = s.updSplit c.r fun _ =>
      let sp := arrive hi (arrive lo ((base c.sp).goto lo))
      { sp with
        mask := a, billet := sp.billet.map fun k => k.forLanes (a ||| b)
        stack := { join := false, mask := b, pc := hi, fmt := sp.fmt, arr := 0 } :: sp.stack } := by
  rw [Ctx.freeSplits] at full
  have depth : ¬1024 < c.sp.stack.length + 1 := by omega
  have shallow : ¬spilled c.sp.stack.length < spilled (c.sp.stack.length + 1) := by
    rw [spilled_shallow (by omega : c.sp.stack.length + 1 ≤ 16)]
    exact Nat.not_lt_zero _
  simp only [transfer, parts, full, untrapped, List.isEmpty_cons, List.isEmpty_nil, Bool.not_false, Bool.not_true, Bool.and_false,
    Bool.false_and, Bool.false_eq_true, if_false, if_true, Option.isSome_none, List.length_cons, List.length_nil, Nat.zero_add, Nat.sub_zero,
    depth, withSpill_none shallow, compared_unchecked plain, List.zip_nil_right, List.drop_zero, List.foldl_cons, List.foldl_nil,
    List.map_cons, List.map_nil, List.cons_append, List.nil_append, w64_toNat]
  exact ctx?_updSplit_congr hc rfl

end

end

end Sys2Proof.Machine
end

section
/-! The control transfers, each by what it sends its lanes with (O27). -/

namespace Sys2Proof.Machine

/-- A split with other scalars. -/
def Split.holding (sp : Split) (regs : List (Nat × W64)) : Split := { sp with sregs := regs }

/-- Scalars with register `n` written, which is discarded for s0 (R210). -/
def scalarsPut (regs : List (Nat × W64)) (n : Nat) (v : W64) : List (Nat × W64) := if n = 0 then regs else Tbl.put regs n v

theorem setS_holding (sp : Split) (regs : List (Nat × W64)) (n : Nat) (v : W64) :
    (sp.holding regs).setS n v = sp.holding (scalarsPut regs n v) := by
  unfold Split.setS scalarsPut
  split <;> rfl

theorem setS_eq_holding (sp : Split) (n : Nat) (v : W64) : sp.setS n v = sp.holding (scalarsPut sp.sregs n v) :=
  setS_holding sp sp.sregs n v

theorem goto_holding (sp : Split) (regs : List (Nat × W64)) (pc : W64) : (sp.holding regs).goto pc = (sp.goto pc).holding regs := rfl

theorem fork_holding (sp : Split) (regs : List (Nat × W64)) (pc : W64) (m : LaneMask) (seed : Nat) :
    (sp.holding regs).fork pc m seed = (sp.fork pc m seed).holding regs := rfl

/-- An instruction that is a transfer of the active lanes `act` to `dest` and of the others to the next header. Every split goes on with the
scalars `K`, but one that arrives at `dest` takes `T`. -/
structure Steers (s : State) (c : Ctx) (i : Instr) (act : LaneMask) (dest : W64) (T K : List (Nat × W64)) (choose : Nat → W64)
    (base : Split → Split) (arrive : W64 → Split → Split) : Prop where
  runs : exec i s = .next (transfer s c choose base arrive)
  active : ∀ l, act.getLsbD l = true → c.sp.mask.getLsbD l = true
  chooses : ∀ l, c.sp.mask.getLsbD l = true → choose l = if act.getLsbD l then dest else c.fall
  base_eq : base c.sp = c.sp.holding K
  arrive_dest : act ≠ 0 → ∀ sp : Split, arrive dest (sp.holding K) = sp.holding T
  arrive_other : ∀ pc sp, act = 0 ∨ pc ≠ dest → arrive pc sp = sp

/-- The lanes of a division that go on at a PC. -/
def Ctx.lanesAt (c : Ctx) (act : LaneMask) (dest pc : W64) : LaneMask := if pc = dest then act else c.sp.mask &&& ~~~act

/-- The lower and the higher PC of a division. -/
def Ctx.low (c : Ctx) (dest : W64) : W64 := if dest < c.fall then dest else c.fall
def Ctx.high (c : Ctx) (dest : W64) : W64 := if dest < c.fall then c.fall else dest

/-- The scalars of the part that goes on at a PC. -/
def regsAt (T K : List (Nat × W64)) (dest pc : W64) : List (Nat × W64) := if pc = dest then T else K

theorem holding_regsAt (sp : Split) (T K : List (Nat × W64)) (dest pc : W64) :
    sp.holding (regsAt T K dest pc) = if pc = dest then sp.holding T else sp.holding K := by
  unfold regsAt
  split <;> rfl

theorem head_of_filter {p : Nat → Bool} {n N : Nat} (hn : n < N) (hp : p n = true) (below : ∀ k, k < n → p k = false) :
    ∃ ns, (List.range N).filter p = n :: ns := by
  have first : ((List.range N).filter p).head? = some n := by
    rw [List.head?_filter, List.find?_range_eq_some]
    exact ⟨hp, List.mem_range.mpr hn, fun k hk => by simp [below k hk]⟩
  exact ⟨_, List.eq_cons_of_mem_head? first⟩

section
variable {s : State} {c : Ctx} {i : Instr} {act : LaneMask} {dest : W64} {T K : List (Nat × W64)} {choose : Nat → W64}
  {base : Split → Split} {arrive : W64 → Split → Split} (st : Steers s c i act dest T K choose base arrive)
include st

theorem Steers.arrive_at (any : act ≠ 0) (pc : W64) (sp : Split) :
    arrive pc (sp.holding K) = sp.holding (if pc = dest then T else K) := by
  by_cases e : pc = dest
  · rw [if_pos e, e, st.arrive_dest any]
  · rw [if_neg e, st.arrive_other _ _ (.inr e)]

/-! Where the lanes go. -/

theorem Steers.inactive {l : Nat} (h : c.sp.mask.getLsbD l = false) : act.getLsbD l = false :=
  Bool.eq_false_iff.mpr fun on => Bool.false_ne_true (h.symm.trans (st.active l on))

theorem Steers.all_of_rest (none : c.sp.mask &&& ~~~act = 0) : act = c.sp.mask := by
  refine BitVec.eq_of_getLsbD_eq fun l hl => ?_
  cases hm : c.sp.mask.getLsbD l with
  | false => exact st.inactive hm
  | true =>
    have bit : (c.sp.mask &&& ~~~act).getLsbD l = false := none ▸ BitVec.getLsbD_zero
    simpa only [BitVec.getLsbD_and, BitVec.getLsbD_not, hl, decide_true, Bool.true_and, hm, Bool.not_eq_eq_eq_not, Bool.not_false] using bit

theorem Steers.parts_all (any : c.sp.mask ≠ 0) (h : act = c.sp.mask ∨ dest = c.fall) :
    partsOf c.sp.mask choose = [(dest.toNat, c.sp.mask)] := by
  refine partsOf_one any fun l hl => ?_
  rw [st.chooses l hl]
  rcases h with rfl | rfl
  · exact if_pos hl
  · exact ite_self _

theorem Steers.parts_none (any : c.sp.mask ≠ 0) (h : act = 0) : partsOf c.sp.mask choose = [(c.fall.toNat, c.sp.mask)] := by
  refine partsOf_one any fun l hl => ?_
  rw [st.chooses l hl, h]
  simp

theorem Steers.parts_two (any : act ≠ 0) (part : act ≠ c.sp.mask) (ne : dest ≠ c.fall) :
    partsOf c.sp.mask choose
      = [((c.low dest).toNat, c.lanesAt act dest (c.low dest)), ((c.high dest).toNat, c.lanesAt act dest (c.high dest))] := by
  have rest : c.sp.mask &&& ~~~act ≠ 0 := fun none => part (st.all_of_rest none)
  have at_dest : ∀ l, l < 64 → act.getLsbD l = (c.sp.mask.getLsbD l && decide (choose l = dest)) := fun l _ => by
    cases hm : c.sp.mask.getLsbD l with
    | false => exact st.inactive hm
    | true =>
      rw [st.chooses l hm]
      cases act.getLsbD l <;> simp [ne.symm]
  have at_fall : ∀ l, l < 64 → (c.sp.mask &&& ~~~act).getLsbD l = (c.sp.mask.getLsbD l && decide (choose l = c.fall)) := fun l hl => by
    simp only [BitVec.getLsbD_and, BitVec.getLsbD_not, hl, decide_true, Bool.true_and]
    cases hm : c.sp.mask.getLsbD l with
    | false => rfl
    | true =>
      rw [st.chooses l hm]
      cases act.getLsbD l <;> simp [ne]
  have either : ∀ l, c.sp.mask.getLsbD l = true → choose l = dest ∨ choose l = c.fall := fun l hl => by
    rw [st.chooses l hl]
    cases act.getLsbD l <;> simp
  by_cases lt : dest < c.fall
  · simp only [Ctx.low, Ctx.high, Ctx.lanesAt, if_pos lt, if_true, if_neg ne.symm]
    exact partsOf_two lt any rest at_dest at_fall either
  · have gt : c.fall < dest := by bv_omega
    simp only [Ctx.low, Ctx.high, Ctx.lanesAt, if_neg lt, if_true, if_neg ne.symm]
    exact partsOf_two gt rest any at_fall at_dest fun l hl => (either l hl).symm

/-! The cases of R177. -/

section
variable (hc : s.ctx? = some c) (plain : c.checked = false)
include hc plain

/-- Every lane chooses `dest`. -/
theorem Steers.together (small : c.sp.stack.length ≤ 1024) (any : act ≠ 0) (h : act = c.sp.mask ∨ dest = c.fall) :
    exec i s = .next (s.updSplit c.r fun _ => (c.sp.holding T).sentTo c.sp.mask dest) := by
  have lanes : c.sp.mask ≠ 0 := fun none => any (st.all_of_rest (by simp [none]) ▸ none)
  rw [st.runs, transfer_one hc plain small (st.parts_all lanes h), st.base_eq, goto_holding, st.arrive_dest any]
  rfl

/-- No lane is active. -/
theorem Steers.falls (small : c.sp.stack.length ≤ 1024) (lanes : c.sp.mask ≠ 0) (h : act = 0) :
    exec i s = .next (s.updSplit c.r fun _ => (c.sp.holding K).sentTo c.sp.mask c.fall) := by
  rw [st.runs, transfer_one hc plain small (st.parts_none lanes h), st.base_eq, st.arrive_other _ _ (.inl h)]
  rfl

section
variable (any : act ≠ 0) (part : act ≠ c.sp.mask) (ne : dest ≠ c.fall)
include any part ne

omit hc plain in
theorem Steers.traps (trapped : c.sp.trap.isSome = true) : exec i s = .next (raise s c 1 c.sp.mask) := by
  rw [st.runs, transfer_trapped (st.parts_two any part ne) trapped]

variable (untrapped : c.sp.trap = none)
include untrapped

theorem Steers.divides (small : c.sp.stack.length ≤ 1024) (settled : c.sp.pend = []) {n : Nat} {ns : List Nat} (free : c.freeSplits = n :: ns) :
    exec i s = .next (({ s with seed := s.seed + 1 } : State).updGroup c.r.group fun _ =>
      c.g.divided c.r.split
        { (c.sp.holding (regsAt T K dest (c.low dest))).sentTo (c.lanesAt act dest (c.low dest)) (c.low dest) with
          billet := c.sp.billet.map fun k => k.forLanes (c.lanesAt act dest (c.low dest)) }
        n ((c.sp.fork (c.high dest) (c.lanesAt act dest (c.high dest)) s.seed).holding (regsAt T K dest (c.high dest)))) := by
  rw [st.runs, transfer_divides hc plain (st.parts_two any part ne) untrapped settled small free, st.base_eq, goto_holding, fork_holding,
    st.arrive_at any, st.arrive_at any]
  rfl

theorem Steers.pushes (small : c.sp.stack.length < 16) (full : c.freeSplits = []) :
    exec i s = .next (s.updSplit c.r fun _ =>
      { (c.sp.holding T).sentTo (c.lanesAt act dest (c.low dest)) (c.low dest) with
        billet := c.sp.billet.map fun k => k.forLanes (c.lanesAt act dest (c.low dest) ||| c.lanesAt act dest (c.high dest))
        stack := { join := false, mask := c.lanesAt act dest (c.high dest), pc := c.high dest, fmt := c.sp.fmt, arr := 0 } :: c.sp.stack }) := by
  have arrives (sp : Split) : arrive (c.high dest) (arrive (c.low dest) (sp.holding K)) = sp.holding T := by
    by_cases lt : dest < c.fall
    · simp only [Ctx.low, Ctx.high, if_pos lt, st.arrive_dest any, st.arrive_other _ _ (.inr ne.symm)]
    · simp only [Ctx.low, Ctx.high, if_neg lt, st.arrive_dest any, st.arrive_other _ _ (.inr ne.symm)]
  rw [st.runs, transfer_pushes hc plain (st.parts_two any part ne) untrapped small full, st.base_eq, goto_holding]
  simp only [arrives]
  rfl

end

end

end

end Sys2Proof.Machine
end

section
/-! bra, brx, call, ret and loop (O27), each as a transfer of its active lanes. -/

namespace Sys2Proof.Machine

/-- What a division with a free split leaves in the group. -/
theorem divided_split? {s : State} {c : Ctx} (hc : s.ctx? = some c) {n : Nat} (unused : (Tbl.find? c.g.splits n).isNone = true)
    (seed : Nat) (lower other : Split) :
    let t := ({ s with seed := seed } : State).updGroup c.r.group fun _ => c.g.divided c.r.split lower n other
    t.split? c.r = some lower ∧ t.split? { group := c.r.group, split := n } = some other
      ∧ ∀ k, k ≠ n → k ≠ c.r.split → t.split? { group := c.r.group, split := k } = s.split? { group := c.r.group, split := k } := by
  have found : ({ s with seed := seed } : State).group? c.r.group = some c.g := ctx?_group hc
  have own : c.r.split ≠ n := fun e => by simp [← e, ctx?_splits hc] at unused
  refine ⟨?_, ?_, fun k hn hk => ?_⟩
  · rw [State.updGroup_split? found, Group.divided, Tbl.find?_put_other _ _ own, Tbl.find?_upd_same, ctx?_splits hc, Option.map_some]
  · rw [State.updGroup_split? (r := { group := c.r.group, split := n }) found]
    exact Tbl.find?_put_same ..
  · rw [State.updGroup_split? (r := { group := c.r.group, split := k }) found, Group.divided, Tbl.find?_put_other _ _ hn,
      Tbl.find?_upd_other _ _ hk]
    simp [State.split?, ctx?_group hc]

theorem freeSplits_first {c : Ctx} {n : Nat} (hn : n < 4) (unused : (Tbl.find? c.g.splits n).isNone = true)
    (below : ∀ k, k < n → (Tbl.find? c.g.splits k).isSome = true) : ∃ ns, c.freeSplits = n :: ns :=
  head_of_filter hn unused fun k hk => by simpa using below k hk

theorem freeSplits_full {c : Ctx} (h : ∀ n, n < 4 → (Tbl.find? c.g.splits n).isSome = true) : c.freeSplits = [] :=
  List.filter_eq_nil_iff.mpr fun n hn => by simpa [Option.isSome_iff_ne_none] using h n (List.mem_range.mp hn)

theorem active_mask {c : Ctx} {q : Guard} (l : Nat) (h : (c.active q).getLsbD l = true) : c.sp.mask.getLsbD l = true := by
  rw [Ctx.active, BitVec.getLsbD_and, Bool.and_eq_true] at h
  exact h.1

/-- A transfer that writes no scalar, or the same in every lane. -/
theorem Steers.alike {s : State} {c : Ctx} {i : Instr} {act : LaneMask} {dest : W64} {K : List (Nat × W64)} {choose : Nat → W64}
    {base : Split → Split} (runs : exec i s = .next (transfer s c choose base fun _ sp => sp))
    (active : ∀ l, act.getLsbD l = true → c.sp.mask.getLsbD l = true)
    (chooses : ∀ l, c.sp.mask.getLsbD l = true → choose l = if act.getLsbD l then dest else c.fall)
    (base_eq : base c.sp = c.sp.holding K) : Steers s c i act dest K K choose base fun _ sp => sp :=
  ⟨runs, active, chooses, base_eq, fun _ _ => rfl, fun _ _ _ => rfl⟩

section
variable {s : State} {c : Ctx} (hc : s.ctx? = some c)
include hc

theorem steers_bra (b : BF) : Steers s c (.bra b) (c.active b.g) (c.target b.off) c.sp.sregs c.sp.sregs
    (fun l => if (c.active b.g).getLsbD l then c.target b.off else c.fall) id fun _ sp => sp :=
  .alike (withCtx_of hc _) active_mask (fun _ _ => rfl) rfl

theorem steers_brx (f : RF) {v : W32} (uniform : ∀ l, l < 64 → c.g.v f.sa.toNat l = v) :
    Steers s c (.brx f) (c.active f.g) (c.sp.header + 8 * v.signExtend 64) c.sp.sregs c.sp.sregs
      (fun l => if (c.active f.g).getLsbD l then c.sp.header + 8 * (c.g.v f.sa.toNat l).signExtend 64 else c.fall) id fun _ sp => sp :=
  .alike (withCtx_of hc _) active_mask (fun l hl => by rw [uniform l (BitVec.lt_of_getLsbD hl)]) rfl

/-- Only the split that arrives at the target receives the return address (R269). -/
theorem steers_call (b : BF) :
    Steers s c (.call b) (c.active b.g) (c.target b.off) (scalarsPut c.sp.sregs b.dst.toNat c.fall) c.sp.sregs
      (fun l => if (c.active b.g).getLsbD l then c.target b.off else c.fall) id
      fun pc sp => if c.active b.g != 0 && pc = c.target b.off then sp.setS b.dst.toNat c.fall else sp where
  runs := withCtx_of hc _
  active := active_mask
  chooses _ _ := rfl
  base_eq := rfl
  arrive_dest any sp := by rw [if_pos (by simpa using any), setS_holding]
  arrive_other pc sp h := if_neg (by simpa [imp_iff_not_or] using h)

theorem steers_ret {f : RF} (aligned : (c.sp.s f.sa.toNat).toNat % 8 = 0) :
    Steers s c (.ret f) (c.active f.g) (c.sp.s f.sa.toNat) c.sp.sregs c.sp.sregs
      (fun l => if (c.active f.g).getLsbD l then c.sp.s f.sa.toNat else c.fall) id fun _ sp => sp :=
  .alike ((withCtx_of hc _).trans (congrArg _ (if_neg (by simp [aligned])))) active_mask (fun _ _ => rfl) rfl

/-- A target of ret that is no word's address (R269). -/
theorem exec_ret_misaligned {f : RF} (misaligned : (c.sp.s f.sa.toNat).toNat % 8 ≠ 0) (any : c.active f.g ≠ 0) :
    exec (.ret f) s = .next (raise s c 4 (c.active f.g) (sector (c.sp.s f.sa.toNat))) :=
  (withCtx_of hc _).trans (congrArg _ (if_pos (by simpa [misaligned] using any)))

/-- A loop with a count left (R270). -/
theorem steers_loop {b : BF} (any : c.active b.g ≠ 0) (left : c.sp.s b.sa.toNat - 1 ≠ 0) :
    Steers s c (.loop b) (c.active b.g) (c.target b.off) (scalarsPut c.sp.sregs b.sa.toNat (c.sp.s b.sa.toNat - 1))
      (scalarsPut c.sp.sregs b.sa.toNat (c.sp.s b.sa.toNat - 1))
      (fun l => if (c.active b.g).getLsbD l && c.sp.s b.sa.toNat - 1 != 0 then c.target b.off else c.fall)
      (fun sp => sp.setS b.sa.toNat (c.sp.s b.sa.toNat - 1)) fun _ sp => sp :=
  .alike ((withCtx_of hc _).trans (congrArg _ (if_neg any))) active_mask (fun l _ => by rw [bne_iff_ne.mpr left, Bool.and_true])
    (setS_holding ..)

/-- The last pass of a loop: its counter is 0, and no lane goes back (R270). -/
theorem steers_loop_last {b : BF} (any : c.active b.g ≠ 0) (last : c.sp.s b.sa.toNat - 1 = 0) :
    Steers s c (.loop b) 0 c.fall (scalarsPut c.sp.sregs b.sa.toNat (c.sp.s b.sa.toNat - 1))
      (scalarsPut c.sp.sregs b.sa.toNat (c.sp.s b.sa.toNat - 1))
      (fun l => if (c.active b.g).getLsbD l && c.sp.s b.sa.toNat - 1 != 0 then c.target b.off else c.fall)
      (fun sp => sp.setS b.sa.toNat (c.sp.s b.sa.toNat - 1)) fun _ sp => sp :=
  .alike ((withCtx_of hc _).trans (congrArg _ (if_neg any))) (fun l h => by simp at h) (fun l _ => by rw [last]; simp) (setS_holding ..)

theorem steers_loop_off {b : BF} (none : c.active b.g = 0) :
    Steers s c (.loop b) 0 c.fall c.sp.sregs c.sp.sregs (fun _ => c.fall) id fun _ sp => sp :=
  .alike ((withCtx_of hc _).trans (congrArg _ (if_pos none))) (fun l h => by simp at h) (fun _ _ => (ite_self _).symm) rfl

end

/-- Settles O27: each instruction is a transfer of its active lanes (`steers_bra` to `steers_loop_off`), and a transfer's parts say what becomes of
the split (`Steers.together`, `falls`, `divides`, `pushes`, `traps`). -/
theorem controlTransfers : Obligations.ControlTransfers := by
  unfold Obligations.ControlTransfers
  intro b f s c hc plain lanes small fall header target goes act ret n
  have steered {i : Instr} {act : LaneMask} {dest : W64} {T K : List (Nat × W64)} {choose : Nat → W64} {base : Split → Split}
      {arrive : W64 → Split → Split} (st : Steers s c i act dest T K choose base arrive) :
      goes i act dest (c.sp.holding T) (c.sp.holding K) := by
    refine ⟨fun h => ?together, fun none => st.falls hc plain small lanes none, fun any part ne untrapped settled =>
      ⟨fun n hn unused below => ?divides, fun full shallow => ?pushes⟩, fun any part ne trapped => st.traps any part ne trapped⟩
    case together =>
      rcases h with rfl | ⟨any, rfl, -⟩
      · exact st.together hc plain small lanes (.inl rfl)
      · exact st.together hc plain small any (.inr rfl)
    case divides =>
      obtain ⟨ns, free⟩ := freeSplits_first hn unused below
      obtain ⟨lower, other, rest⟩ := divided_split? hc unused (s.seed + 1) _ _
      exact ⟨_, _, st.divides hc plain any part ne untrapped small settled free, lower.trans (by rw [holding_regsAt]; rfl), other, rfl, rfl,
        rfl, rfl, (congrArg Split.sregs (holding_regsAt c.sp T K dest (c.high dest)) :), rfl, rfl, rfl, rfl, rest⟩
    case pushes => exact st.pushes hc plain any part ne untrapped shallow (freeSplits_full full)
  refine ⟨steered (steers_bra hc b), ?call, fun v uniform => steered (steers_brx hc f uniform), fun aligned => steered (steers_ret hc aligned),
    exec_ret_misaligned hc, fun any left => ?loop, fun any last => ?last, fun none => (steers_loop_off hc none).falls hc plain small lanes rfl⟩
  case call =>
    rw [setS_eq_holding]
    exact steered (steers_call hc b)
  case loop =>
    rw [setS_eq_holding]
    exact steered (steers_loop hc any left)
  case last =>
    rw [setS_eq_holding]
    exact (steers_loop_last hc any last).falls hc plain small lanes rfl

end Sys2Proof.Machine
end

section
/-! Crew and cord barriers (O29): what an arrival writes, what its evaluation finds, and whom a completed phase releases. -/

namespace Sys2Proof.Machine

/-! Rows of a table that satisfy a test. -/

section
variable {α : Type} {l : List (Nat × α)} {p : Nat × α → Bool} {n : Nat}

/-- An update that a test does not see keeps the keys of the rows that pass. -/
theorem Tbl.filter_upd_keys (rising : (l.map (·.1)).Pairwise (· < ·)) {f : α → α} (blind : ∀ k x, p (k, f x) = p (k, x)) :
    ((Tbl.upd l n f).filter p).map (·.1) = (l.filter p).map (·.1) := by
  have same : (p ∘ fun e => if e.1 = n then (e.1, f e.2) else e) = p := by
    funext e
    by_cases h : e.1 = n <;> simp [h]
    rw [← h, blind]
  rw [Tbl.upd_eq_map rising, List.filter_map, same, List.map_map]
  exact List.map_congr_left fun e _ => by by_cases h : e.1 = n <;> simp [h]

/-- The one row that passes a test. -/
theorem Tbl.filter_eq_singleton (once : (l.map (·.1)).Nodup) {x : α} (h : Tbl.find? l n = some x) (hp : p (n, x) = true)
    (only : ∀ k ∈ (l.filter p).map (·.1), k = n) : l.filter p = [(n, x)] := by
  have mem : (n, x) ∈ l.filter p := List.mem_filter.mpr ⟨Tbl.mem_of_find? h, hp⟩
  have all : ∀ e ∈ l.filter p, e = (n, x) := fun e he => by
    have key : e.1 = n := only _ (List.mem_map_of_mem he)
    have val := Tbl.find?_of_mem once (List.mem_filter.mp he).1
    rw [key, h, Option.some.injEq] at val
    exact Prod.ext key val.symm
  have nodup : (l.filter p).Nodup := (List.Nodup.of_map _ once).filter _
  match hl : (l.filter p), mem, all, nodup with
  | [e], _, all, _ => rw [all e List.mem_cons_self]
  | e :: e' :: t, _, all, nodup =>
    have eq : e = e' := (all e (by simp)).trans (all e' (by simp)).symm
    exact absurd (eq ▸ List.mem_cons_self) (List.nodup_cons.mp nodup).1

end

/-! Whom a completed phase releases (R187, R188). -/

/-- A split after the release of those that wait as `w` says. -/
def Split.released (sp : Split) (w : Wait) (scope : Nat) : Split :=
  if sp.wait = w then { sp.advance 1 with wait := .none, acquire := max sp.acquire scope } else sp

theorem released_twice {w : Wait} (h : w ≠ .none) (sp : Split) (scope : Nat) :
    (sp.released w scope).released w scope = sp.released w scope := by
  unfold Split.released
  by_cases e : sp.wait = w
  · rw [if_pos e, if_neg h.symm]
  · rw [if_neg e, if_neg e]

theorem releaseWaiters_split? (s : State) (gh : Nat) (w : Wait) (scope : Nat) (r : SplitRef) :
    (releaseWaiters s gh w scope).split? r = (s.split? r).map fun sp => if r.group = gh then sp.released w scope else sp := by
  unfold releaseWaiters State.split?
  by_cases e : r.group = gh
  · subst e
    cases h : s.group? r.group with
    | none => simp [h]
    | some g => simp [h, Split.released]
  · simp [State.updGroup_group?_other _ _ e, e]

/-- The release of every waiting split of several groups. -/
def releaseAll (s : State) (ghs : List Nat) (w : Wait) (scope : Nat) : State := ghs.foldl (fun s gh => releaseWaiters s gh w scope) s

theorem releaseAll_groups (s : State) (ghs : List Nat) (w : Wait) (scope : Nat) :
    releaseAll s ghs w scope = { s with groups := (releaseAll s ghs w scope).groups } := by
  induction ghs generalizing s with
  | nil => rfl
  | cons gh ghs ih => exact ih (releaseWaiters s gh w scope)

theorem releaseAll_split? {w : Wait} (h : w ≠ .none) (s : State) (ghs : List Nat) (scope : Nat) (r : SplitRef) :
    (releaseAll s ghs w scope).split? r = (s.split? r).map fun sp => if r.group ∈ ghs then sp.released w scope else sp := by
  induction ghs generalizing s with
  | nil => simp [releaseAll]
  | cons gh ghs ih =>
    rw [show releaseAll s (gh :: ghs) w scope = releaseAll (releaseWaiters s gh w scope) ghs w scope from rfl, ih,
      releaseWaiters_split?, Option.map_map]
    congr 1
    funext sp
    by_cases e : r.group = gh <;> by_cases m : r.group ∈ ghs <;> simp [e, m, released_twice h]

/-! The groups of a crew, and the crews of a cord. -/

theorem mem_groupsOf_keys {s : State} (once : (s.groups.map (·.1)).Nodup) {crew gh : Nat} :
    gh ∈ (s.groupsOf crew).map (·.1) ↔ (s.group? gh).map (·.crew) = some crew := by
  constructor
  · intro h
    obtain ⟨e, he, rfl⟩ := List.mem_map.mp h
    obtain ⟨mem, hp⟩ := List.mem_filter.mp he
    rw [State.group?, Tbl.find?_of_mem once mem, Option.map_some, of_decide_eq_true hp]
  · intro h
    obtain ⟨g, hg, rfl⟩ := Option.map_eq_some_iff.mp h
    exact List.mem_map.mpr ⟨(gh, g), List.mem_filter.mpr ⟨Tbl.mem_of_find? hg, by simp⟩, rfl⟩

theorem groupsOf_updSplit {s : State} (rising : (s.groups.map (·.1)).Pairwise (· < ·)) (r : SplitRef) (f : Split → Split) (crew : Nat) :
    ((s.updSplit r f).groupsOf crew).map (·.1) = (s.groupsOf crew).map (·.1) :=
  Tbl.filter_upd_keys rising fun _ _ => rfl

theorem crewsOf_updCrew {s : State} (rising : (s.crews.map (·.1)).Pairwise (· < ·)) (h : Nat) {F : Crew → Crew}
    (same : ∀ cr, (F cr).launch = cr.launch ∧ (F cr).cord = cr.cord) (launch cord : Nat) :
    ((s.updCrew h F).crewsOf launch cord).map (·.1) = (s.crewsOf launch cord).map (·.1) :=
  Tbl.filter_upd_keys rising fun k cr => by simp [same cr]

theorem updSplit_crew (g : Group) (n : Nat) (f : Split → Split) : (g.updSplit n f).crew = g.crew := rfl
theorem updSplit_grpid (g : Group) (n : Nat) (f : Split → Split) : (g.updSplit n f).grpid = g.grpid := rfl
theorem updSplit_alive (g : Group) (n : Nat) (f : Split → Split) : (g.updSplit n f).alive = g.alive := rfl

/-! A crew barrier (R186, R187). -/

/-- Barrier `b` of the issuing split's crew stands as `B`, and the split as `f` makes it. -/
def withBar (s : State) (c : Ctx) (b : Nat) (B : Barrier) (f : Split → Split) : State :=
  (s.updCrew c.g.crew fun cr => { cr with bars := Tbl.put cr.bars b B }).updSplit c.r f

/-- The barrier once the split's lanes have executed it: the count is that of the phase's first execution (R186, R274). -/
def Ctx.met (c : Ctx) (b n : Nat) : Barrier :=
  { c.crew.bar b with
    count := some ((c.crew.bar b).count.getD n)
    lanes := Tbl.put (c.crew.bar b).lanes c.g.grpid (Tbl.getD (c.crew.bar b).lanes c.g.grpid 0 ||| c.sp.mask) }

/-- The split that waits at the barrier, and the one that has arrived and goes on. -/
def Split.waitsAt (sp : Split) (b phase : Nat) : Split := { sp with wait := .bar b phase, sealed := true }
def Split.arrivesAt (sp : Split) (b phase : Nat) : Split := ({ sp with sealed := true, arv := Tbl.put sp.arv b phase } : Split).advance 1

section
variable {s : State} {c : Ctx} (hc : s.ctx? = some c) {b : Nat} {B : Barrier} {f : Split → Split}
include hc

theorem withBar_group? : (withBar s c b B f).group? c.r.group = some (c.g.updSplit c.r.split f) :=
  (State.updGroup_group? ..).trans (congrArg (Option.map _) (ctx?_group hc))

theorem withBar_split? : (withBar s c b B f).split? c.r = some (f c.sp) :=
  (State.updSplit_split? ..).trans (congrArg (Option.map _) (ctx?_split hc))

theorem withBar_crew? : (withBar s c b B f).crew? c.g.crew = some { c.crew with bars := Tbl.put c.crew.bars b B } := ctx?_updCrew_crew? hc _

omit hc in
theorem bar_put (cr : Crew) (b : Nat) (B : Barrier) : ({ cr with bars := Tbl.put cr.bars b B } : Crew).bar b = B := Tbl.getD_put_same ..

omit hc in
theorem withBar_again (B' : Barrier) :
    (withBar s c b B f).updCrew c.g.crew (fun cr => { cr with bars := Tbl.put cr.bars b B' }) = withBar s c b B' f := by
  have crews : (Tbl.upd (Tbl.upd s.crews c.g.crew fun cr => { cr with bars := Tbl.put cr.bars b B }) c.g.crew
      fun cr => { cr with bars := Tbl.put cr.bars b B' }) = Tbl.upd s.crews c.g.crew fun cr => { cr with bars := Tbl.put cr.bars b B' } := by
    rw [Tbl.upd_upd]
    simp only [Function.comp_def, Tbl.put_put]
  simp only [withBar, State.updCrew, State.updSplit, State.updGroup, crews]

omit hc in
theorem withBar_groupsOf (rising : (s.groups.map (·.1)).Pairwise (· < ·)) :
    ((withBar s c b B f).groupsOf c.g.crew).map (·.1) = (s.groupsOf c.g.crew).map (·.1) := groupsOf_updSplit rising ..

theorem withBar_only : OnlySplits s { withBar s c b B f with crews := s.crews } c.r.group := ctx?_updSplit_only hc f

omit hc in
/-- What bar and bar.arv write before the arrival is counted. -/
theorem barOp_meets (plain : c.checked = false) (quiet : noSinv s c.crew.core) (n : Nat) (arv : Bool) :
    barOp s c b n arv = barArrive (withBar s c b (c.met b n) fun sp =>
      if arv then sp.arrivesAt b (c.crew.bar b).phase else sp.waitsAt b (c.crew.bar b).phase) c.r.group b := by
  unfold barOp
  rw [withWriteBack_noSinv quiet (hg := gateClear_unchecked plain), held_unchecked plain]
  cases arv
  · exact congrArg (barArrive · _ _) (State.updSplit_updSplit ..)
  · refine congrArg (barArrive · _ _) ?_
    simp only [if_true, State.seal, State.retire, State.updSplit_updSplit]
    rfl

/-- A group that has been counted in this phase is not counted again (log 74). -/
theorem barArrive_again (counted : c.g.grpid ∈ B.came) : barArrive (withBar s c b B f) c.r.group b = withBar s c b B f := by
  unfold barArrive
  simp only [withBar_group? hc, updSplit_crew, withBar_crew? hc, bar_put]
  exact if_pos (by simp [updSplit_grpid, counted])

/-- Once every living lane of the group has come, the group is counted (R186). -/
theorem barArrive_counts (came : c.g.alive &&& ~~~(Tbl.getD B.lanes c.g.grpid 0) = 0) (any : Tbl.getD B.lanes c.g.grpid 0 ≠ 0)
    (fresh : c.g.grpid ∉ B.came) :
    barArrive (withBar s c b B f) c.r.group b = barEval (withBar s c b { B with came := c.g.grpid :: B.came } f) c.g.crew b := by
  unfold barArrive
  simp only [withBar_group? hc, updSplit_crew, withBar_crew? hc, bar_put, withBar_again]
  exact if_neg (by simpa [updSplit_grpid, updSplit_alive, fresh] using ⟨decide_eq_false any, came⟩)

section
variable (tidy : s.tidy) {n : Nat} (count : B.count = some n)
include tidy count

/-- The arrivals do not reach the count yet. -/
theorem barEval_short (few : B.came.length < if n = 0 then (s.groupsOf c.g.crew).length else n) :
    barEval (withBar s c b B f) c.g.crew b = withBar s c b B f := by
  have groups : ((withBar s c b B f).groupsOf c.g.crew).length = (s.groupsOf c.g.crew).length := by
    simpa using congrArg List.length (withBar_groupsOf tidy.1)
  unfold barEval
  simp only [withBar_crew? hc, bar_put, count, groups]
  exact if_pos few

/-- The arrival that reaches the count advances the phase and releases the crew's waiting splits (R186, R187). -/
theorem barEval_full (enough : (if n = 0 then (s.groupsOf c.g.crew).length else n) ≤ B.came.length) :
    barEval (withBar s c b B f) c.g.crew b
      = releaseAll (withBar s c b { phase := B.phase + 1, count := none, came := [], lanes := [] } f)
          ((s.groupsOf c.g.crew).map (·.1)) (.bar b B.phase) 1 := by
  have keys := withBar_groupsOf tidy.1 (c := c) (b := b) (B := B) (f := f)
  have groups : ((withBar s c b B f).groupsOf c.g.crew).length = (s.groupsOf c.g.crew).length := by
    simpa using congrArg List.length keys
  unfold barEval
  simp only [withBar_crew? hc, bar_put, count, groups, withBar_again]
  rw [if_neg (Nat.not_lt.mpr enough), ← keys, releaseAll, List.foldl_map]
  rfl

end

end

end Sys2Proof.Machine
end

section
/-! bar, bar.arv and cbar (O29), put together. -/

namespace Sys2Proof.Machine

section
variable {s : State} {c : Ctx} (hc : s.ctx? = some c) (plain : c.checked = false) (quiet : noSinv s c.crew.core)
include hc plain quiet

/-- BAR and BAR_ARV up to the count of the arrival (R186, R274). -/
theorem exec_bar (f : RF) : exec (.bar f) s = .next
    (barArrive (withBar s c (f.m 0 4) (c.met (f.m 0 4) (f.m 4 6)) fun sp => sp.waitsAt (f.m 0 4) (c.crew.bar (f.m 0 4)).phase)
      c.r.group (f.m 0 4)) :=
  (withCtx_of hc _).trans (congrArg _ (barOp_meets plain quiet _ false))

theorem exec_barArv (f : RF) : exec (.barArv f) s = .next
    (barArrive (withBar s c (f.m 0 4) (c.met (f.m 0 4) (f.m 4 6)) fun sp => sp.arrivesAt (f.m 0 4) (c.crew.bar (f.m 0 4)).phase)
      c.r.group (f.m 0 4)) :=
  (withCtx_of hc _).trans (congrArg _ (barOp_meets plain quiet _ true))

end

theorem met_lanes (c : Ctx) (b n : Nat) :
    Tbl.getD (c.met b n).lanes c.g.grpid 0 = Tbl.getD (c.crew.bar b).lanes c.g.grpid 0 ||| c.sp.mask := Tbl.getD_put_same ..

/-! A cord barrier (R188). -/

theorem updCrew_groupsOf (s : State) (h : Nat) (F : Crew → Crew) (crew : Nat) : (s.updCrew h F).groupsOf crew = s.groupsOf crew := rfl
theorem updLaunch_groupsOf (s : State) (l : Nat) (F : Launch → Launch) (crew : Nat) : (s.updLaunch l F).groupsOf crew = s.groupsOf crew := rfl

/-- The crew once a split's lanes have executed cbar `b`. -/
def Ctx.cbarMet (c : Ctx) (b : Nat) (cr : Crew) : Crew :=
  { cr with cbarLanes := Tbl.put cr.cbarLanes (4 * c.g.grpid + b) (cr.cbarOf c.g.grpid b ||| c.sp.mask) }

/-- The phase of cord barrier `b` of the issuing split's cord. -/
def Ctx.cbarPhase (c : Ctx) (b : Nat) : Nat := Tbl.getD c.launch.cordPhase (4 * c.g.cord + b) 0

/-- What cbar writes before the barrier is evaluated: the crew's lanes, and the split that waits. -/
def cbarMeets (s : State) (c : Ctx) (b : Nat) : State :=
  (s.updCrew c.g.crew (c.cbarMet b)).updSplit c.r fun sp => { sp with wait := .cbar b (c.cbarPhase b), sealed := true }

section
variable {s : State} {c : Ctx} (hc : s.ctx? = some c) {b : Nat}
include hc

theorem exec_cbar (plain : c.checked = false) (quiet : noSinv s c.crew.core) (f : RF) :
    exec (.cbar f) s = .next (cbarEval (cbarMeets s c (f.m 0 2)) c.g.launch c.g.cord (f.m 0 2)) := by
  refine (withCtx_of hc _).trans (congrArg _ ?_)
  rw [withWriteBack_noSinv quiet (hg := gateClear_unchecked plain), held_unchecked plain]
  exact congrArg (cbarEval · _ _ _) (State.updSplit_updSplit ..)

theorem cbarMeets_split? :
    (cbarMeets s c b).split? c.r = some { c.sp with wait := .cbar b (c.cbarPhase b), sealed := true } :=
  (State.updSplit_split? ..).trans (congrArg (Option.map _) (ctx?_split hc))

theorem cbarMeets_crew? : (cbarMeets s c b).crew? c.g.crew = some (c.cbarMet b c.crew) := ctx?_updCrew_crew? hc _

theorem cbarMeets_launch? : (cbarMeets s c b).launch? c.g.launch = some c.launch := ctx?_launch (s := s) hc

variable (tidy : s.tidy)
include tidy

/-- The one crew of a cord. -/
theorem cbarMeets_crewsOf (launch : c.crew.launch = c.g.launch) (cord : c.crew.cord = c.g.cord)
    (alone : ∀ e ∈ s.crewsOf c.g.launch c.g.cord, e.1 = c.g.crew) :
    (cbarMeets s c b).crewsOf c.g.launch c.g.cord = [(c.g.crew, c.cbarMet b c.crew)] := by
  obtain ⟨-, crews, -⟩ := tidy
  refine Tbl.filter_eq_singleton ?_ (cbarMeets_crew? hc) (by simp [Ctx.cbarMet, launch, cord]) ?_
  · exact (Tbl.upd_keys crews _ _).symm ▸ nodup_of_rising crews
  · intro k hk
    have keys := crewsOf_updCrew crews c.g.crew (F := c.cbarMet b) (fun _ => ⟨rfl, rfl⟩) c.g.launch c.g.cord
    obtain ⟨e, he, rfl⟩ := List.mem_map.mp (keys ▸ hk : k ∈ (s.crewsOf c.g.launch c.g.cord).map (·.1))
    exact alone e he

/-- The one group of a crew. -/
theorem cbarMeets_groupsOf (alone : ∀ e ∈ s.groupsOf c.g.crew, e.1 = c.r.group) :
    (cbarMeets s c b).groupsOf c.g.crew
      = [(c.r.group, c.g.updSplit c.r.split fun sp => { sp with wait := .cbar b (c.cbarPhase b), sealed := true })] := by
  obtain ⟨groups, -⟩ := tidy
  refine Tbl.filter_eq_singleton ?_ ((State.updGroup_group? ..).trans (congrArg (Option.map _) (ctx?_group hc))) (by simp [updSplit_crew]) ?_
  · exact (Tbl.upd_keys groups _ _).symm ▸ nodup_of_rising groups
  · intro k hk
    have keys := groupsOf_updSplit groups c.r (fun sp => { sp with wait := .cbar b (c.cbarPhase b), sealed := true }) c.g.crew
    obtain ⟨e, he, rfl⟩ := List.mem_map.mp (keys ▸ hk : k ∈ (s.groupsOf c.g.crew).map (·.1))
    exact alone e he

section
variable (launch : c.crew.launch = c.g.launch) (cord : c.crew.cord = c.g.cord) (empty : c.crew.cbarLanes = [])
  (crewAlone : ∀ e ∈ s.crewsOf c.g.launch c.g.cord, e.1 = c.g.crew) (groupAlone : ∀ e ∈ s.groupsOf c.g.crew, e.1 = c.r.group)
include launch cord empty crewAlone groupAlone

omit hc tidy launch cord crewAlone groupAlone in
/-- In a phase in which no lane has come before, the split's lanes are those that have come. -/
theorem cbarMet_lanes : (c.cbarMet b c.crew).cbarOf c.g.grpid b = c.sp.mask := by
  simp [Ctx.cbarMet, Crew.cbarOf, empty, Tbl.getD, Tbl.put, Tbl.find?]

/-- Lanes of the group are still to come: the phase goes on. -/
theorem cbarEval_short (missing : c.g.alive &&& ~~~c.sp.mask ≠ 0) :
    cbarEval (cbarMeets s c b) c.g.launch c.g.cord b = cbarMeets s c b := by
  unfold cbarEval
  simp only [cbarMeets_launch? hc, cbarMeets_crewsOf hc tidy launch cord crewAlone,
    cbarMeets_groupsOf hc tidy groupAlone, List.all_cons, List.all_nil, updSplit_alive, updSplit_grpid, cbarMet_lanes empty]
  exact if_pos (by simpa using Or.inl missing)

/-- The last lanes of the only group have come: the phase advances, and the group's waiting splits are released (R188). -/
theorem cbarEval_full (came : c.g.alive &&& ~~~c.sp.mask = 0) (any : c.sp.mask ≠ 0) :
    cbarEval (cbarMeets s c b) c.g.launch c.g.cord b
      = releaseWaiters (((cbarMeets s c b).updLaunch c.g.launch fun l =>
            { l with cordPhase := Tbl.put l.cordPhase (4 * c.g.cord + b) (c.cbarPhase b + 1) }).updCrew c.g.crew
          fun cr => { cr with cbarLanes := cr.cbarLanes.filter fun p => p.1 % 4 != b }) c.r.group (.cbar b (c.cbarPhase b)) 3 := by
  have groups := cbarMeets_groupsOf hc tidy groupAlone (b := b)
  unfold cbarEval
  simp only [cbarMeets_launch? hc, cbarMeets_crewsOf hc tidy launch cord crewAlone,
    groups, List.all_cons, List.all_nil, List.any_cons, List.any_nil, updSplit_alive, updSplit_grpid, cbarMet_lanes empty]
  rw [if_neg (by simpa [came] using any)]
  simp only [List.foldl_cons, List.foldl_nil, updCrew_groupsOf, updLaunch_groupsOf, groups]
  rfl

end

end

/-- The one that is released is past its instruction, with an acquire of the scope due. -/
theorem released_waiting {sp : Split} {w : Wait} (h : sp.wait = w) (scope : Nat) :
    sp.released w scope = { sp.advance 1 with wait := .none, acquire := max sp.acquire scope } := if_pos h

/-- Settles O29: an arrival leaves `withBar` or `cbarMeets`; its evaluation either leaves that (`barEval_short`, `cbarEval_short`) or releases the
waiting splits (`barEval_full`, `cbarEval_full`). -/
theorem barrierResults : Obligations.BarrierResults := by
  unfold Obligations.BarrierResults
  intro f s c hc plain quiet tidy b x count need all past
  have counts (g : Split → Split) (h : all) : barArrive (withBar s c b (c.met b (f.m 4 6)) g) c.r.group b
      = barEval (withBar s c b { c.met b (f.m 4 6) with came := c.g.grpid :: x.came } g) c.g.crew b := by
    obtain ⟨came, any, fresh⟩ := h
    exact barArrive_counts hc (by rw [met_lanes]; exact came) (by rw [met_lanes]; exact any) fresh
  have short (g : Split → Split) (h : all) (few : x.came.length + 1 < need) :
      barArrive (withBar s c b (c.met b (f.m 4 6)) g) c.r.group b
        = withBar s c b { c.met b (f.m 4 6) with came := c.g.grpid :: x.came } g :=
    (counts g h).trans (barEval_short hc tidy rfl few)
  refine ⟨fun h few => ⟨?waits, ?goes⟩, fun counted => ?again, fun h enough => ?completes,
    fun crewAlone launch cord groupAlone empty => ⟨fun came any => ?cordCompletes, fun missing => ?cordWaits⟩⟩
  case waits =>
    exact ⟨_, _, (exec_bar hc plain quiet f).trans (congrArg _ (short _ h few)), withBar_crew? hc, by rw [bar_put]; rfl, withBar_only hc,
      withBar_split? hc⟩
  case goes =>
    refine ⟨_, _, _, (exec_barArv hc plain quiet f).trans (congrArg _ (short _ h few)), withBar_crew? hc, by rw [bar_put]; rfl, withBar_only hc,
      withBar_split? hc, ?_, advance_wait .., fun unprefixed => advance_pc unprefixed⟩
    rw [Split.arrivesAt, advance_arv]
    exact Tbl.find?_put_same ..
  case again =>
    exact ⟨_, _, (exec_bar hc plain quiet f).trans (congrArg _ (barArrive_again hc counted)), withBar_crew? hc, by rw [bar_put]; rfl,
      by rw [bar_put]; rfl, withBar_split? hc⟩
  case completes =>
    have group (r : SplitRef) : r.group ∈ (s.groupsOf c.g.crew).map (·.1) ↔ (s.group? r.group).map (·.crew) = some c.g.crew :=
      mem_groupsOf_keys (nodup_of_rising tidy.1)
    refine ⟨_, _, (exec_bar hc plain quiet f).trans (congrArg _ ((counts _ h).trans (barEval_full hc tidy rfl enough))), ?_,
      bar_put c.crew .., ?_, fun r sp other found => ?_⟩
    · rw [releaseAll_groups]
      exact withBar_crew? hc (f := fun sp => sp.waitsAt b x.phase)
    · rw [releaseAll_split? (by simp), withBar_split? hc, Option.map_some,
        if_pos ((group c.r).mpr (by rw [ctx?_group hc, Option.map_some]))]
      exact congrArg some (released_waiting rfl 1)
    · rw [releaseAll_split? (by simp), withBar, State.updSplit_split?_other _ _ other,
        show (s.updCrew c.g.crew _).split? r = some sp from found, Option.map_some]
      exact congrArg some ((ite_congr (propext (group r)) (fun _ => rfl) fun _ => rfl).trans (ite_and ..).symm)
  case cordCompletes =>
    refine ⟨_, (exec_cbar hc plain quiet f).trans (congrArg _ (cbarEval_full hc tidy launch cord empty crewAlone groupAlone came any)), ?_, ?_⟩
    · have advanced : ((cbarMeets s c (f.m 0 2)).updLaunch c.g.launch fun l =>
          { l with cordPhase := Tbl.put l.cordPhase (4 * c.g.cord + f.m 0 2) (c.cbarPhase (f.m 0 2) + 1) }).launch? c.g.launch
            = some { c.launch with cordPhase := Tbl.put c.launch.cordPhase (4 * c.g.cord + f.m 0 2) (c.cbarPhase (f.m 0 2) + 1) } :=
        (Tbl.find?_upd_same ..).trans (congrArg (Option.map _) (ctx?_launch hc))
      exact (congrArg (Option.map _) advanced).trans (congrArg some (Tbl.getD_put_same ..))
    · rw [releaseWaiters_split?]
      exact (congrArg (Option.map _) (cbarMeets_split? hc)).trans (congrArg some ((if_pos rfl).trans (released_waiting rfl 3)))
  case cordWaits =>
    exact ⟨_, _, (exec_cbar hc plain quiet f).trans (congrArg _ (cbarEval_short hc tidy launch cord empty crewAlone groupAlone missing)),
      cbarMeets_crew? hc, cbarMet_lanes empty, rfl, cbarMeets_split? hc⟩

end Sys2Proof.Machine
end

section
/-! exit in a group whose table lists its splits out of order (O28). -/

namespace Sys2Proof.Machine

/-- A split that issues exit, with the lanes of a mask. -/
def exiting (m : LaneMask) : Split := { loadSplit 0 0 with mask := m }

/-- A device with one group of 32 lanes. Its split 0 holds the lower lanes and issues; the table of its splits lists split 2, with the upper
lanes, before it. -/
def outOfOrder : State :=
  let s := loadWord State.reset 0 0
  { s.updGroup 1 fun g => { g with splits := [(2, exiting 0xFFFF0000), (0, exiting 0xFFFF)] } with cur := some { group := 1, split := 0 } }

theorem outOfOrder_issues : outOfOrder.ctx?.isSome = true := by decide +kernel

/-- What stands around the split that issues. -/
def outOfOrderCtx : Ctx := outOfOrder.ctx?.get outOfOrder_issues

/-- All lanes of the split exit. -/
def exitAll : RF := rf 0 0 0 0 0 0

/-- The split is still listed once all its lanes have exited. -/
theorem exit_outOfOrder : ∃ t, exec (.exit exitAll) outOfOrder = .next t ∧ (t.split? outOfOrderCtx.r).isSome = true :=
  ⟨_, rfl, by decide +kernel⟩

/-- Refutes O28: the clause on exit asks that a split whose last lanes exit is then not in its group's table, and asks of that table that no key
comes twice, but not that its keys rise (the clauses on join ask for `State.tidy`, this one does not). In `outOfOrder` sealing the split puts it
in a second time, before split 2, and `Tbl.del` removes the first entry only. -/
theorem not_convergenceResults : ¬ Obligations.ConvergenceResults := by
  unfold Obligations.ConvergenceResults
  rintro ⟨-, exits⟩
  obtain ⟨-, -, leaves⟩ := exits exitAll outOfOrder outOfOrderCtx (Option.some_get outOfOrder_issues).symm (by decide +kernel)
  obtain ⟨t, g, ht, -, -, hg, -, -, -, gone, -⟩ := leaves (by decide +kernel) (by decide +kernel) (by decide +kernel) (by decide +kernel)
    (by decide +kernel) (by decide +kernel)
  obtain ⟨u, hu, found⟩ := exit_outOfOrder
  obtain rfl : u = t := Host.Outcome.next.inj (hu.symm.trans ht)
  have absent : u.split? outOfOrderCtx.r = none := by
    rw [State.split?, hg]
    exact gone (by decide +kernel) (by decide +kernel)
  simp [absent] at found

end Sys2Proof.Machine
end

section
/-! Encoding and decoding agree (O22, O23): every word of an instruction decodes to it, and every word that decodes is the word of what it
decodes to. -/

namespace Sys2Proof

/-! The fields of a word, put together again. -/

/-- A flag of a word is a field of one bit. -/
theorem bit_field {n : Nat} (w : BitVec n) (k : Nat) : BitVec.ofBool (w.getLsbD k) = w.extractLsb' k 1 := by
  apply BitVec.eq_of_getLsbD_eq
  intro i hi
  obtain rfl : i = 0 := by omega
  simp

/-- What stands above a word's highest bit that is set is 0. -/
theorem field_clear {w : BitVec 64} {top : Nat} (n : Nat) (h : w.toNat / 2 ^ top = 0) : w.extractLsb' top n = 0 := by
  apply BitVec.eq_of_toNat_eq
  rw [BitVec.extractLsb'_toNat, Nat.shiftRight_eq_div_pow, h]
  simp

/-- The opcode is the lowest field (R206). -/
theorem opcode_field {w : BitVec 64} {opc : Nat} (h : w.toNat % 256 = opc) : w.extractLsb' 0 8 = BitVec.ofNat 8 opc := by
  apply BitVec.eq_of_toNat_eq
  simp [← h]

theorem Guard.toBits_ofWord (w : BitVec 64) : (Guard.ofWord w).toBits = w.extractLsb' 8 5 := by
  simp (disch := omega) only [Guard.toBits, Guard.ofWord, bit_field, BitVec.extractLsb'_append_extractLsb'_eq_extractLsb']

theorem RegionF.toBits_ofWord (w : BitVec 64) : (RegionF.ofWord w).toBits = w.extractLsb' 16 6 := by
  simp (disch := omega) only [RegionF.toBits, RegionF.ofWord, BitVec.extractLsb'_append_extractLsb'_eq_extractLsb']

/-- The guard and TY of an X-class word are 0 (R339). -/
theorem xLow_field {w : BitVec 64} {opc : BitVec 8} (ho : w.extractLsb' 0 8 = opc) (h : w.extractLsb' 8 8 = 0) :
    xLow opc = w.extractLsb' 0 16 := by
  rw [xLow, ← h, ← ho, BitVec.extractLsb'_append_extractLsb'_eq_extractLsb' (rfl : 8 = 0 + 8)]

/-! Each format keeps every bit of the words that it reads. -/

section
variable {w : BitVec 64} {opc : BitVec 8} (ho : w.extractLsb' 0 8 = opc)
include ho

theorem RF.toWord_ofWord : RF.toWord opc (RF.ofWord w) = w := by
  subst ho
  simp (disch := omega) only [RF.toWord, RF.ofWord, Guard.toBits_ofWord, BitVec.extractLsb'_append_extractLsb'_eq_extractLsb']
  exact ext_all w

theorem IF.toWord_ofWord : IF.toWord opc (IF.ofWord w) = w := by
  subst ho
  simp (disch := omega) only [IF.toWord, IF.ofWord, Guard.toBits_ofWord, BitVec.extractLsb'_append_extractLsb'_eq_extractLsb']
  exact ext_all w

theorem BF.toWord_ofWord : BF.toWord opc (BF.ofWord w) = w := by
  subst ho
  simp (disch := omega) only [BF.toWord, BF.ofWord, Guard.toBits_ofWord, BitVec.extractLsb'_append_extractLsb'_eq_extractLsb']
  exact ext_all w

theorem MF.toWord_ofWord : MF.toWord opc (MF.ofWord w) = w := by
  subst ho
  simp (disch := omega) only [MF.toWord, MF.ofWord, Guard.toBits_ofWord, BitVec.extractLsb'_append_extractLsb'_eq_extractLsb']
  exact ext_all w

theorem xClear_fields {top n : Nat} (h : xClear w top = true) : xLow opc = w.extractLsb' 0 16 ∧ (0 : BitVec n) = w.extractLsb' top n := by
  simp only [xClear, Bool.and_eq_true, beq_iff_eq] at h
  exact ⟨xLow_field ho h.1, (field_clear n h.2).symm⟩

theorem ClaimF.toWord_ofWord {f : ClaimF} (h : ClaimF.ofWord w = some f) : ClaimF.toWord opc f = w := by
  simp only [ClaimF.ofWord, Option.ite_none_right_eq_some, Option.some.injEq] at h
  obtain ⟨clear, rfl⟩ := h
  obtain ⟨low, high⟩ := xClear_fields ho (n := 40) clear
  simp (disch := omega) only [ClaimF.toWord, low, high, BitVec.extractLsb'_append_extractLsb'_eq_extractLsb']
  exact ext_all w

theorem MmulF.toWord_ofWord {f : MmulF} (h : MmulF.ofWord w = some f) : MmulF.toWord opc f = w := by
  simp only [MmulF.ofWord, Option.ite_none_right_eq_some, Option.some.injEq] at h
  obtain ⟨clear, rfl⟩ := h
  obtain ⟨low, high⟩ := xClear_fields ho (n := 17) clear
  simp (disch := omega) only [MmulF.toWord, low, high, RegionF.toBits_ofWord, bit_field, BitVec.extractLsb'_append_extractLsb'_eq_extractLsb']
  exact ext_all w

theorem MbypF.toWord_ofWord {f : MbypF} (h : MbypF.ofWord w = some f) : MbypF.toWord opc f = w := by
  simp only [MbypF.ofWord, Option.ite_none_right_eq_some, Option.some.injEq] at h
  obtain ⟨clear, rfl⟩ := h
  obtain ⟨low, high⟩ := xClear_fields ho (n := 33) clear
  simp (disch := omega) only [MbypF.toWord, low, high, RegionF.toBits_ofWord, BitVec.extractLsb'_append_extractLsb'_eq_extractLsb']
  exact ext_all w

theorem MzeroF.toWord_ofWord {f : MzeroF} (h : MzeroF.ofWord w = some f) : MzeroF.toWord opc f = w := by
  simp only [MzeroF.ofWord, Option.ite_none_right_eq_some, Option.some.injEq] at h
  obtain ⟨clear, rfl⟩ := h
  obtain ⟨low, high⟩ := xClear_fields ho (n := 41) clear
  simp (disch := omega) only [MzeroF.toWord, low, high, RegionF.toBits_ofWord, bit_field, BitVec.extractLsb'_append_extractLsb'_eq_extractLsb']
  exact ext_all w

theorem MprogF.toWord_ofWord {f : MprogF} (h : MprogF.ofWord w = some f) : MprogF.toWord opc f = w := by
  simp only [MprogF.ofWord, Option.ite_none_right_eq_some, Option.some.injEq] at h
  obtain ⟨clear, rfl⟩ := h
  obtain ⟨low, high⟩ := xClear_fields ho (n := 40) clear
  simp (disch := omega) only [MprogF.toWord, low, high, BitVec.extractLsb'_append_extractLsb'_eq_extractLsb']
  exact ext_all w

end

section
variable {w : BitVec 64}

theorem MsclF.toWord_ofWord {f : MsclF} (ho : w.extractLsb' 0 8 = 0xD7) (h : MsclF.ofWord w = some f) :
    MsclF.toWord (w.getLsbD 24) f = w := by
  simp only [MsclF.ofWord, Option.ite_none_right_eq_some, Option.some.injEq] at h
  obtain ⟨clear, rfl⟩ := h
  obtain ⟨low, high⟩ := xClear_fields ho (n := 29) clear
  simp (disch := omega) only [MsclF.toWord, low, high, bit_field, BitVec.extractLsb'_append_extractLsb'_eq_extractLsb']
  exact ext_all w

theorem MdrainF.toWord_ofWord {f : MdrainF} {k : Nat} (ho : w.extractLsb' 0 8 = 0xD4) (hk : w.toNat / 2 ^ 22 % 4 = k)
    (h : MdrainF.ofWord w = some f) : MdrainF.toWord (BitVec.ofNat 2 k) f = w := by
  simp only [MdrainF.ofWord, Option.ite_none_right_eq_some, Option.some.injEq, beq_iff_eq] at h
  obtain ⟨clear, rfl⟩ := h
  have kind : BitVec.ofNat 2 k = w.extractLsb' 22 2 := by
    apply BitVec.eq_of_toNat_eq
    rw [BitVec.extractLsb'_toNat, Nat.shiftRight_eq_div_pow, BitVec.toNat_ofNat, ← hk, Nat.mod_mod]
  simp (disch := omega) only [MdrainF.toWord, xLow_field ho clear, kind, RegionF.toBits_ofWord, BitVec.extractLsb'_append_extractLsb'_eq_extractLsb']
  exact ext_all w

theorem PF.toWord_ofWord {f : PF} (ho : w.extractLsb' 0 8 = 0xF8) (h : PF.ofWord w = some f) : PF.toWord f = w := by
  simp only [PF.ofWord, Option.ite_none_right_eq_some, Option.some.injEq, Bool.and_eq_true, beq_iff_eq] at h
  obtain ⟨⟨low, high⟩, rfl⟩ := h
  simp (disch := omega) only [PF.toWord, ← low, ← high, ← ho, bit_field, BitVec.extractLsb'_append_extractLsb'_eq_extractLsb']
  exact ext_all w

end

/-! Decoding, then encoding. -/

/-- An instruction whose first word is this one, alone or with the word after it. -/
def Encodes (i : Instr) (w : BitVec 64) (next : Option (BitVec 64)) : Prop := encode i = some (w, none) ∨ encode i = some (w, next)

section
variable {w v : BitVec 64} {next : Option (BitVec 64)} {i : Instr}

/-- One word, that the encoder writes as it was read. -/
theorem Encodes.of_word (e : encode i = some (v, none)) (h : v = w) : Encodes i w next := .inl (by rw [e, h])

/-- A reading of the whole word that some words do not have. -/
theorem Encodes.of_map {α : Type} {f : Option α} {C : α → Instr} {toWord : α → BitVec 64} (hd : f.map C = some i)
    (e : ∀ x, encode (C x) = some (toWord x, none)) (h : ∀ x, f = some x → toWord x = w) : Encodes i w next := by
  obtain ⟨x, hx, rfl⟩ := Option.map_eq_some_iff.mp hd
  exact .of_word (e x) (h x hx)

theorem encodes_of_decodeOpcode {opc : Nat} (ho : w.extractLsb' 0 8 = BitVec.ofNat 8 opc) (hd : decodeOpcode opc w next = some i) :
    Encodes i w next := by
  unfold decodeOpcode at hd
  repeat' split at hd
  all_goals try contradiction
  -- The formats R, I, B and M read every word.
  all_goals try
    obtain rfl := Option.some.inj hd
    simp only [Encodes, encode, BitVec.ofNat_eq_ofNat, RF.toWord_ofWord ho, IF.toWord_ofWord ho, BF.toWord_ofWord ho,
      MF.toWord_ofWord ho, true_or]
  -- vexpr takes the next word as well; the X class and rep read only words whose reserved bits are 0.
  next =>
    obtain ⟨t, rfl, rfl⟩ := Option.map_eq_some_iff.mp hd
    simp only [Encodes, encode, BitVec.ofNat_eq_ofNat, RF.toWord_ofWord ho, or_true]
  next => exact .of_map hd (fun _ => rfl) fun _ => ClaimF.toWord_ofWord ho
  next => exact .of_map hd (fun _ => rfl) fun _ => ClaimF.toWord_ofWord ho
  next => exact .of_map hd (fun _ => rfl) fun _ => MmulF.toWord_ofWord ho
  next => exact .of_map hd (fun _ => rfl) fun _ => MmulF.toWord_ofWord ho
  next kind => exact .of_map hd (fun _ => rfl) fun _ => MdrainF.toWord_ofWord ho kind
  next kind => exact .of_map hd (fun _ => rfl) fun _ => MdrainF.toWord_ofWord ho kind
  next kind => exact .of_map hd (fun _ => rfl) fun _ => MdrainF.toWord_ofWord ho kind
  next => exact .of_map hd (fun _ => rfl) fun _ => MbypF.toWord_ofWord ho
  next => exact .of_map hd (fun _ => rfl) fun _ => MzeroF.toWord_ofWord ho
  next col => exact .of_map hd (fun _ => rfl) fun _ e => col ▸ MsclF.toWord_ofWord ho e
  next col => exact .of_map hd (fun _ => rfl) fun _ e => Bool.eq_false_of_not_eq_true col ▸ MsclF.toWord_ofWord ho e
  next => exact .of_map hd (fun _ => rfl) fun _ => MprogF.toWord_ofWord ho
  next => exact .of_map hd (fun _ => rfl) fun _ => PF.toWord_ofWord ho

theorem decodeWord_ok {l3 : Bool} (h : decodeWord l3 w next = .ok i) : rawDecode w next = some i ∧ i.wf l3 = true := by
  unfold decodeWord at h
  grind
end

end Sys2Proof

namespace Sys2Proof.Laws

/-- Every instruction comes back from its words (R200, R206 to R211); an event has none. -/
theorem roundTrip (i : Instr) : RoundTrip.Statement i := by
  cases i with
  | nop f => exact RoundTrip.nop f | sadd f => exact RoundTrip.sadd f | ssub f => exact RoundTrip.ssub f
  | smul f => exact RoundTrip.smul f | smulh f => exact RoundTrip.smulh f | sdiv f => exact RoundTrip.sdiv f
  | srem f => exact RoundTrip.srem f | sand f => exact RoundTrip.sand f | sor f => exact RoundTrip.sor f
  | sxor f => exact RoundTrip.sxor f | sshl f => exact RoundTrip.sshl f | sshr f => exact RoundTrip.sshr f
  | smin f => exact RoundTrip.smin f | smax f => exact RoundTrip.smax f | scmp f => exact RoundTrip.scmp f
  | smov f => exact RoundTrip.smov f | smovi f => exact RoundTrip.smovi f | smovhi f => exact RoundTrip.smovhi f
  | slea f => exact RoundTrip.slea f | ssel f => exact RoundTrip.ssel f | sbit f => exact RoundTrip.sbit f
  | sbfx f => exact RoundTrip.sbfx f | srd f => exact RoundTrip.srd f | swr f => exact RoundTrip.swr f | sfmt f => exact RoundTrip.sfmt f
  | sfmtRnd f => exact RoundTrip.sfmtRnd f | sfmtSat f => exact RoundTrip.sfmtSat f | sfmtAtb f => exact RoundTrip.sfmtAtb f
  | vote f => exact RoundTrip.vote f | bra f => exact RoundTrip.bra f | brx f => exact RoundTrip.brx f | call f => exact RoundTrip.call f
  | ret f => exact RoundTrip.ret f | rcvp f => exact RoundTrip.rcvp f | join f => exact RoundTrip.join f
  | exit f => exact RoundTrip.exit f | pause f => exact RoundTrip.pause f | loop f => exact RoundTrip.loop f
  | launch f => exact RoundTrip.launch f | bar f => exact RoundTrip.bar f | barArv f => exact RoundTrip.barArv f
  | cbar f => exact RoundTrip.cbar f | rget f => exact RoundTrip.rget f | rput f => exact RoundTrip.rput f
  | bsync f => exact RoundTrip.bsync f | vadd f => exact RoundTrip.vadd f | vsub f => exact RoundTrip.vsub f
  | vmul f => exact RoundTrip.vmul f | vmulh f => exact RoundTrip.vmulh f | vmad f => exact RoundTrip.vmad f
  | vdiv f => exact RoundTrip.vdiv f | vrem f => exact RoundTrip.vrem f | vmin f => exact RoundTrip.vmin f
  | vmax f => exact RoundTrip.vmax f | vabs f => exact RoundTrip.vabs f | vneg f => exact RoundTrip.vneg f
  | vand f => exact RoundTrip.vand f | vor f => exact RoundTrip.vor f | vxor f => exact RoundTrip.vxor f
  | vnot f => exact RoundTrip.vnot f | vshl f => exact RoundTrip.vshl f | vshr f => exact RoundTrip.vshr f
  | vrot f => exact RoundTrip.vrot f | vbfx f => exact RoundTrip.vbfx f | vbit f => exact RoundTrip.vbit f
  | vcmp f => exact RoundTrip.vcmp f | vsel f => exact RoundTrip.vsel f | vmov f => exact RoundTrip.vmov f
  | vmovi f => exact RoundTrip.vmovi f | vlea f => exact RoundTrip.vlea f | fadd f => exact RoundTrip.fadd f
  | fsub f => exact RoundTrip.fsub f | fmul f => exact RoundTrip.fmul f | ffma f => exact RoundTrip.ffma f
  | fmin f => exact RoundTrip.fmin f | fmax f => exact RoundTrip.fmax f | fabs f => exact RoundTrip.fabs f
  | fneg f => exact RoundTrip.fneg f | fcmp f => exact RoundTrip.fcmp f | fclass f => exact RoundTrip.fclass f
  | fdiv f => exact RoundTrip.fdiv f | fsqrt f => exact RoundTrip.fsqrt f | frcp f => exact RoundTrip.frcp f
  | frsq f => exact RoundTrip.frsq f | fexp2 f => exact RoundTrip.fexp2 f | flog2 f => exact RoundTrip.flog2 f
  | fsin f => exact RoundTrip.fsin f | fcos f => exact RoundTrip.fcos f | ftanh f => exact RoundTrip.ftanh f
  | fact f => exact RoundTrip.fact f | fdot2 f => exact RoundTrip.fdot2 f | cvt f => exact RoundTrip.cvt f
  | pack f => exact RoundTrip.pack f | unpk f => exact RoundTrip.unpk f | fscl f => exact RoundTrip.fscl f
  | fround f => exact RoundTrip.fround f | qswz f => exact RoundTrip.qswz f | qbcast f => exact RoundTrip.qbcast f
  | lxchg f => exact RoundTrip.lxchg f | lshfl f => exact RoundTrip.lshfl f | lrot f => exact RoundTrip.lrot f
  | lscan f => exact RoundTrip.lscan f | lred f => exact RoundTrip.lred f | lidx f => exact RoundTrip.lidx f
  | qhelp f => exact RoundTrip.qhelp f | atload f => exact RoundTrip.atload f | atbind f => exact RoundTrip.atbind f
  | ld f => exact RoundTrip.ld f | st f => exact RoundTrip.st f | lds f => exact RoundTrip.lds f | sts f => exact RoundTrip.sts f
  | ldw f => exact RoundTrip.ldw f | atom f => exact RoundTrip.atom f | cas f => exact RoundTrip.cas f
  | atoms f => exact RoundTrip.atoms f | fenceAcq f => exact RoundTrip.fenceAcq f | fenceRel f => exact RoundTrip.fenceRel f
  | fenceFull f => exact RoundTrip.fenceFull f | dcf f => exact RoundTrip.dcf f | disc f => exact RoundTrip.disc f
  | prf f => exact RoundTrip.prf f | wback f => exact RoundTrip.wback f | sinv f => exact RoundTrip.sinv f
  | cpl f => exact RoundTrip.cpl f | cps f => exact RoundTrip.cps f | cpt f => exact RoundTrip.cpt f | cptw f => exact RoundTrip.cptw f
  | tload f => exact RoundTrip.tload f | tbinit f => exact RoundTrip.tbinit f | tbarr f => exact RoundTrip.tbarr f
  | tbexp f => exact RoundTrip.tbexp f | tbtest f => exact RoundTrip.tbtest f | gset f => exact RoundTrip.gset f
  | gget f => exact RoundTrip.gget f | gstop f => exact RoundTrip.gstop f | trap f => exact RoundTrip.trap f
  | tret f => exact RoundTrip.tret f | brk f => exact RoundTrip.brk f | fpcnt f => exact RoundTrip.fpcnt f
  | fpcntClr f => exact RoundTrip.fpcntClr f | fpcntClrall f => exact RoundTrip.fpcntClrall f | yield f => exact RoundTrip.yield f
  | syncEng f => exact RoundTrip.syncEng f | syncErr f => exact RoundTrip.syncErr f | syncCode f => exact RoundTrip.syncCode f
  | vexpr f t => exact RoundTrip.vexpr f t | oclaim f => exact RoundTrip.oclaim f | orel f => exact RoundTrip.orel f
  | mmul f => exact RoundTrip.mmul f | mmulz f => exact RoundTrip.mmulz f | mbyp f => exact RoundTrip.mbyp f
  | mzero f => exact RoundTrip.mzero f | mprog f => exact RoundTrip.mprog f | mdrainV f => exact RoundTrip.mdrainV f
  | mdrainS f => exact RoundTrip.mdrainS f | mdrainG f => exact RoundTrip.mdrainG f | msclRow f => exact RoundTrip.msclRow f
  | msclCol f => exact RoundTrip.msclCol f | rep f => exact RoundTrip.rep f
  | _ => exact RoundTrip.noWord rfl

end Sys2Proof.Laws

namespace Sys2Proof.Machine

open Sys2Proof.Laws

/-- Settles O22: each instruction word by the round trip of its constructor; what has no word encodes to nothing. -/
theorem encodeDecodeAgree : Obligations.EncodeDecodeAgree := by
  unfold Obligations.EncodeDecodeAgree
  exact fun l3 i => roundTrip i l3

/-- Settles O23: each format keeps every bit of the words that it reads, and no reserved opcode is defined. -/
theorem decodedWordsKeepEveryBit : Obligations.DecodedWordsKeepEveryBit := by
  unfold Obligations.DecodedWordsKeepEveryBit
  constructor
  · intro l3 w next i h
    obtain ⟨raw, wf⟩ := decodeWord_ok h
    exact ⟨wf, encodes_of_decodeOpcode (opcode_field rfl) raw⟩
  · intro w next l3 opc within reserved
    have undefined : opcodeDefined l3 opc = false := by
      refine Bool.eq_false_iff.mpr fun defined => ?_
      simp only [opcodeDefined, Bool.and_eq_true, Bool.or_eq_true, decide_eq_true_eq, beq_iff_eq, bne_iff_ne,
        Bool.not_eq_true'] at defined
      simp only [within] at reserved
      generalize opc = n at *
      cases l3 <;> simp only [reduceCtorEq, true_and, false_and, or_false, false_or] at * <;> omega
    simp [decodeWord, opc, undefined]

/-- Settles O21: each word is read by its fields, and a block by its OP and form. -/
theorem sampleWordsDecode : Obligations.SampleWordsDecode := by
  unfold Obligations.SampleWordsDecode
  intro reads
  refine ⟨by decide, by decide, by decide, by decide, by decide, by decide, by decide, by decide, by decide, by decide, by decide,
    by decide, by decide, by decide, by decide, by decide, by decide, by decide, by decide, fun b => ?_⟩
  simp +contextual [decodeBlock]

end Sys2Proof.Machine
end

section
/-! The special registers: what srd reads, and what swr, sfmt and atbind write (O3, O4). -/

namespace Sys2Proof.Machine

/-! srd (R214, R265). -/

section
variable {f : RF} {s : State} {c : Ctx} (hc : s.ctx? = some c) (hg : c.any f.g = true)
include hc hg

/-- LANEID and QUADID: srd writes a number below 2^32 in each active lane. -/
theorem srd_lanes {v : Nat → Nat} (hv : ∀ l, l < 64 → v l < 2 ^ 32)
    (e : exec (.srd f) s = .next (laneOpOn s c f.g (c.active f.g) f.dst 1 fun l => { val := v l })) :
    ∃ t, exec (.srd f) s = .next t ∧ LanesWritten s t c (c.active f.g) f.dst 1 (fun l x => x = v l) ∧ FlagsKept s t c := by
  refine ⟨_, e, (laneOpOn_written hc hg _ f.dst (.inl rfl) _).imp ?_, laneOpOn_noFlags hc hg _ f.dst 1 fun _ => rfl⟩
  intro l x hl _ hx
  rw [hx]
  exact Nat.mod_eq_of_lt (hv l hl)

/-- Every other special register goes to a scalar register. -/
theorem srd_scalar {i : Nat} {v : W64} (hi : 2 ≤ i) (hv : s.special c i = v) (h : f.sa.toNat = i) :
    ∃ t, exec (.srd f) s = .next t ∧ ScalarWritten s t c f.dst v ∧ FlagsKept s t c := by
  obtain ⟨n, rfl⟩ : ∃ n, i = n + 2 := ⟨i - 2, by omega⟩
  refine ⟨scalarOp s c f.g f.dst { val := 0 } fun _ => s.special c (n + 2), ?_, scalarOp_plain hc hg f.dst hv⟩
  show withCtx s _ = _
  rw [withCtx_of hc, h]
  rfl

end

/-- Settles O3: LANEID and QUADID lane by lane, every other row of Table 8.9 as `State.special` lists it. -/
theorem specialRegisterReads : Obligations.SpecialRegisterReads := by
  unfold Obligations.SpecialRegisterReads
  intro f s c hc hg reads lanes
  have scalar {i : Nat} {v : W64} (hv : s.special c i = v) (hi : 2 ≤ i := by decide) : reads i v := srd_scalar hc hg hi hv
  refine ⟨fun h => srd_lanes hc hg (fun l hl => by omega) ?_, fun h => srd_lanes hc hg (fun l hl => by omega) ?_, scalar rfl, scalar rfl,
    scalar rfl, scalar rfl, scalar rfl, scalar rfl, scalar rfl, scalar rfl, scalar rfl, scalar rfl, scalar rfl, scalar rfl, scalar rfl,
    scalar rfl, scalar rfl, scalar (ctx?_sticky hc).symm, scalar rfl, scalar rfl, scalar rfl, scalar rfl, scalar rfl, scalar rfl⟩
  all_goals
    show withCtx s _ = _
    rw [withCtx_of hc, h]
    rfl

/-! swr, sfmt and atbind (R215, R266, R285). -/

/-- A field that has been set, and every bit outside it. -/
theorem setFld_fmt (x : W64) {lo len n : Nat} {mask : W64} (hn : n < 2 ^ len)
    (hm : BitVec.ofNat 64 ((2 ^ len - 1) * 2 ^ lo) = mask := by rfl) (h : lo + len ≤ 64 := by decide) :
    fld (setFld x lo len n) lo len = n ∧ setFld x lo len n &&& ~~~mask = x &&& ~~~mask := by
  subst hm
  refine ⟨(fld_setFld_same x h).trans (Nat.mod_eq_of_lt hn), BitVec.eq_of_getLsbD_eq fun i hi => ?_⟩
  have mask : (BitVec.ofNat 64 ((2 ^ len - 1) * 2 ^ lo)).getLsbD i = decide (lo ≤ i ∧ i < lo + len) := by
    rw [BitVec.getLsbD_ofNat, Nat.testBit_mul_two_pow, Nat.testBit_two_pow_sub_one, decide_eq_true hi]
    simp only [Bool.true_and, ← Bool.decide_and, decide_eq_decide]
    omega
  rw [BitVec.getLsbD_and, BitVec.getLsbD_and, getLsbD_setFld x hi, BitVec.getLsbD_not, mask]
  by_cases within : lo ≤ i ∧ i < lo + len <;> simp [within]

section
variable {f : RF} {s : State} {c : Ctx} (hc : s.ctx? = some c) (hg : c.any f.g = true)
include hc

theorem swr_normal (ht : c.sp.trap = none) (h : trapLevelOnly f.dst.toNat = true) :
    exec (.swr f) s = .next (raise s c causePriv c.sp.mask) := by
  show withCtx s _ = _
  rw [withCtx_of hc, h, ht]
  rfl

include hg

/-- swr where it has the right to write. -/
theorem swr_writes {i : Nat} (h : f.dst.toNat = i) (may : trapLevelOnly i = true → c.sp.trap.isSome = true) :
    exec (.swr f) s = .next ((writeSpecial s c i (c.sp.s f.sa.toNat)).retire c.r) := by
  have right : (trapLevelOnly f.dst.toNat && c.sp.trap.isNone) = false := by
    rw [h]
    cases ht : c.sp.trap <;> cases hi : trapLevelOnly i <;> simp_all
  show withCtx s _ = _
  rw [withCtx_of hc, right, h, once, if_pos hg]
  rfl

end

/-- Settles O4: the write of each register where it is allowed, PRIV where it is not, and the fields of FMT. -/
theorem specialRegisterWrites : Obligations.SpecialRegisterWrites := by
  unfold Obligations.SpecialRegisterWrites
  refine ⟨?_, ?_, ?_⟩
  · intro f s c hc hg v split group
    have always {i : Nat} (h : f.dst.toNat = i) (free : trapLevelOnly i = false := by decide) :
        exec (.swr f) s = .next ((writeSpecial s c i v).retire c.r) := swr_writes hc hg h fun only => by rw [free] at only; cases only
    refine ⟨always, always, always, always, fun ht => ⟨fun h => swr_writes hc hg h fun _ => ht, fun h => swr_writes hc hg h fun _ => ht,
      fun h => ?_, fun h => ?_⟩⟩
    · rw [swr_writes hc hg h fun _ => ht]
      simp [writeSpecial, fld, v]
    · rw [swr_writes hc hg h fun _ => ht]
      simp [writeSpecial, fld, v]
  · intro f s c hc ht h
    exact swr_normal hc ht (by simpa [trapLevelOnly, or_assoc] using h)
  · intro f s c hc hg fmt
    have runs {i : Instr} (k : W64 → W64)
        (e : exec i s = withCtx s fun c => once s c f.g ((s.updSplit c.r fun sp => { sp with fmt := k sp.fmt }).retire c.r)) : fmt i k := by
      show exec i s = _
      rw [e, withCtx_of hc, once, if_pos hg]
    have below (lo len : Nat) : f.m lo len < 2 ^ len := Nat.mod_lt _ (Nat.two_pow_pos len)
    refine ⟨?_, ⟨_, runs (setFld · 24 2 (f.m 4 2)) rfl, fun x => setFld_fmt x (below 4 2)⟩,
      ⟨_, runs (setFld · 26 1 (f.m 4 1)) rfl, fun x => setFld_fmt x (below 4 1)⟩,
      ⟨_, runs (setFld · 29 1 (f.m 4 1)) rfl, fun x => setFld_fmt x (below 4 1)⟩,
      ⟨_, runs (setFld · 29 1 (f.m 0 1)) rfl, fun x => setFld_fmt x (below 0 1)⟩⟩
    show withCtx s _ = _
    rw [withCtx_of hc, once, if_pos hg]
    rfl

end Sys2Proof.Machine
end

section
/-! An instruction whose guard holds in no lane of the split only retires (R207, O5). -/

namespace Sys2Proof.Machine

section
variable {s : State} {c : Ctx} (hc : s.ctx? = some c) {q : Guard} (h : c.any q = false)
include hc h

/-- An instruction that acts once. -/
theorem onceOff (k : Ctx → State) : (withCtx s fun c => once s c q (k c)) = .next (s.retire c.r) :=
  (withCtx_of hc _).trans (congrArg _ (once_none h _))

/-- An instruction that acts lane by lane. -/
theorem elseOff (k : Ctx → State) : (withCtx s fun c => if !c.any q then s.retire c.r else k c) = .next (s.retire c.r) :=
  (withCtx_of hc _).trans (congrArg _ (if_pos (by simp [h])))

omit hc in
theorem active_off : c.active q = 0 := by simpa [Ctx.any] using h

/-- An instruction of the lanes whose guard holds. -/
theorem activeOff (k : Ctx → State) : (withCtx s fun c => if c.active q = 0 then s.retire c.r else k c) = .next (s.retire c.r) :=
  (withCtx_of hc _).trans (congrArg _ (if_pos (active_off h)))

end

section
variable {s : State} {c : Ctx} (hc : s.ctx? = some c) {f : RF} (h : c.any f.g = false)
include hc h

theorem srd_off : exec (.srd f) s = .next (s.retire c.r) := by
  show withCtx s _ = _
  rw [withCtx_of hc]
  split
  · exact congrArg _ (if_pos (by simp [h]))
  · exact congrArg _ (if_pos (by simp [h]))
  · exact congrArg _ (once_none h _)

theorem gget_off : exec (.gget f) s = .next (s.retire c.r) := by
  have none : (lanesOf (c.active f.g)).isEmpty = true := by rw [active_off h]; decide
  show withCtx s _ = _
  exact (withCtx_of hc _).trans (congrArg _ (if_pos none))

end

/-- An instruction that acts once, after a check of privilege that it passes. -/
theorem checkedOff {s : State} {c : Ctx} (hc : s.ctx? = some c) {q : Guard} (h : c.any q = false) {check : Ctx → Bool} (passed : check c = false)
    (fail k : Ctx → State) : (withCtx s fun c => if check c then fail c else once s c q (k c)) = .next (s.retire c.r) :=
  (withCtx_of hc _).trans (congrArg _ ((if_neg (by simp [passed])).trans (once_none h _)))

/-- Settles O5: each instruction by the shape in which it consults its guard. -/
theorem guardedOffOnlyRetires : Obligations.GuardedOffOnlyRetires := by
  unfold Obligations.GuardedOffOnlyRetires
  intro f m s c hc hf hm
  have once := onceOff hc hf
  have onceI := onceOff hc hm
  have lanes := elseOff hc hf
  have lanesI := elseOff hc hm
  have active := activeOff hc hf
  have activeI := activeOff hc hm
  constructor
  · simp only [List.mem_cons, forall_eq_or_imp, List.not_mem_nil, false_imp_iff, implies_true, and_true]
    exact ⟨
      once _, once _, once _, once _, once _, once _, once _, once _, once _, once _, once _, once _, once _, once _, once _, onceI _,
      onceI _, once _, once _, once _, once _, srd_off hc hf, once _, once _, once _, once _, once _, lanes _, lanes _, lanes _, lanes _,
      lanes _, lanes _, lanes _, lanes _, lanes _, lanes _, lanes _, lanes _, lanes _, lanes _, lanes _, lanes _, lanes _, lanes _,
      lanes _, lanes _, lanes _, lanes _, lanes _, lanesI _, lanes _, lanes _, lanes _, lanes _, lanes _, lanes _, lanes _, lanes _,
      lanes _, lanes _, lanes _, lanes _, lanes _, lanes _, lanes _, lanes _, lanes _, lanes _, lanes _, lanes _, lanes _, lanes _,
      lanes _, lanes _, lanes _, lanes _, lanes _, lanes _, lanes _, lanes _, lanes _, lanes _, lanes _, lanes _, lanes _, lanes _,
      once _, once _, activeI _, activeI _, once _, once _, once _, once _, once _, once _, once _, once _, once _, onceI _, lanes _,
      gget_off hc hf, once _, once _, active _, lanes _, lanes _⟩
  · intro trapped
    have level : c.sp.trap.isNone = false := by
      cases h : c.sp.trap <;> simp [h] at trapped ⊢
    exact ⟨checkedOff hc hf (check := fun c => trapLevelOnly f.dst.toNat && c.sp.trap.isNone) (by simp [level]) _ _,
      checkedOff hc hf (check := fun c => c.sp.trap.isNone) level _ _⟩

end Sys2Proof.Machine
end

section
/-! A step (O24): what a split does when its word comes next, what happens else, and what the clock's tick and an issue leave of the splits. -/

namespace Sys2Proof.Machine

/-! The next move. -/

theorem step_of_move {s : State} {m : Move} (none : s.inputs = []) (next : s.nextMove = some m) : step s = runMove s.tick m := by
  simp [step, advance, none, deviceStep, next]

theorem step_idle {s : State} (none : s.inputs = []) (next : s.nextMove = .none) : step s = .next s.tick := by
  simp [step, advance, none, deviceStep, next]

theorem nextMove_none {s : State} (h : s.dev.pins.heldReset = true ∨ s.moves = []) : s.nextMove = none := by
  unfold State.nextMove
  split
  · rfl
  · rw [h.resolve_left ‹_›]

/-! Splits under an update of every split. -/

/-- Every split is updated in place. -/
theorem split?_mapVal {s : State} {f : SplitRef → Split → Split} {gs : List (Nat × Group)}
    (h : gs = Tbl.mapVal (fun gh g => { g with splits := Tbl.mapVal (fun n sp => f { group := gh, split := n } sp) g.splits }) s.groups)
    (r : SplitRef) : ((Tbl.find? gs r.group).bind fun g => Tbl.find? g.splits r.split) = (s.split? r).map (f r) := by
  subst h
  rw [Tbl.find?_mapVal, State.split?, State.group?]
  cases Tbl.find? s.groups r.group <;> simp

theorem tick_split? (s : State) {r : SplitRef} {sp : Split} (h : s.split? r = some sp) :
    ∃ at_, s.tick.split? r = some { sp with readyAt := at_ } := by
  let t : State := { s with steps := s.steps + 1, cycle := s.cycle + Config.cyclesOf s.steps, cur := none }
  exact ⟨_, (split?_mapVal (s := s) (f := t.ready) rfl r).trans (by rw [h]; rfl)⟩

theorem issue_split? (s : State) (r x : SplitRef) :
    (s.issue r).split? x = (s.split? x).map fun sp =>
      if x = r then { sp with wait := .none, lift := 0, readyAt := none } else { sp with yieldOn := sp.yieldOn.erase r } :=
  split?_mapVal (f := fun x sp =>
    if x = r then { sp with wait := .none, lift := 0, readyAt := none } else { sp with yieldOn := sp.yieldOn.erase r }) rfl x

theorem ctxOf_split? {s : State} {r : SplitRef} {c : Ctx} (h : s.ctxOf r = some c) : s.split? r = some c.sp := by
  simp [State.split?, ctxOf_group h, ctxOf_split h]

/-! What a split has to do before its instruction. -/

section
variable {s : State} {c : Ctx} {i : Instr}

theorem held_none (h : ∀ k ∈ scalarsOf i, k ∉ c.sp.pend) : c.sp.held i = none := by
  simpa [Split.held] using h

theorem beforeIssue_token {k : Nat} (h : c.sp.held i = some k) : beforeIssue s c i = some (s.waitFor c.r (.token k)) := by
  simp [beforeIssue, h]

/-- The first read of a child's token begins with an acquire (R138, R273). -/
theorem beforeIssue_fresh (come : ∀ k ∈ scalarsOf i, k ∉ c.sp.pend) (child : ∃ k ∈ scalarsOf i, k ∈ c.sp.fresh)
    (quiet : noSinv (s.issue c.r) c.crew.core) :
    beforeIssue s c i
      = some ((s.issue c.r).updSplit c.r fun sp => { sp with fresh := sp.fresh.filter fun k => !(scalarsOf i).contains k }) := by
  have first : (scalarsOf i).any c.sp.fresh.contains = true := by simpa using child
  simp only [beforeIssue, held_none come, first, if_true, withAcquire_noSinv quiet]

/-- Otherwise nothing stands before an instruction that needs no spill. -/
theorem beforeIssue_none (come : ∀ k ∈ scalarsOf i, k ∉ c.sp.pend) (known : ∀ k ∈ scalarsOf i, k ∉ c.sp.fresh)
    (room : c.g.regs ≤ c.launch.peak ∨ usesVector i = false) : beforeIssue s c i = none := by
  have first : (scalarsOf i).any c.sp.fresh.contains = false := by simpa using known
  have spill : spillOffs s c i = [] := by
    refine if_neg ?_
    simp only [Bool.and_eq_true, decide_eq_true_eq, not_and, Bool.not_eq_true]
    exact fun less => room.resolve_left (by omega)
  simp [beforeIssue, held_none come, first, spill, regionMiss]

end

/-! The word of a split. -/

section
variable {s : State} {r : SplitRef} {c : Ctx} (hc : s.ctxOf r = some c)
include hc

/-- An acquire that is still due is made first (R137, R187, R188). -/
theorem issueNext_acquire (due : c.sp.acquire ≠ 0) (quiet : noSinv (s.issue r) c.crew.core) :
    issueNext s r = .next ((s.issue r).updSplit r fun sp => { sp with acquire := 0 }) := by
  simp only [issueNext, hc, bne_iff_ne, ne_eq, due, not_false_eq_true, if_true, withDue, if_false, withAcquire_noSinv quiet,
    ctxOf_r hc, id]

variable (made : c.sp.acquire = 0)
include made

theorem issueNext_error {e : DecodeError} (h : c.nextInstr = .error e) :
    issueNext s r = .next (raise (s.issue r) c causeIllegal c.sp.mask) := by
  simp [issueNext, hc, made, h]

theorem issueNext_before {i : Instr} {t : State} (h : c.nextInstr = .ok i) (before : beforeIssue s c i = some t) :
    issueNext s r = .next t := by
  simp [issueNext, hc, made, h, before]

theorem issueNext_exec {i : Instr} (h : c.nextInstr = .ok i) (before : beforeIssue s c i = none) : issueNext s r = exec i (s.issue r) := by
  simp [issueNext, hc, made, h, before]

end

/-- Settles O24: the word of a split by what has to come before it, and inputs and events as they come. -/
theorem stepRunsTheDecodedInstruction : Obligations.StepRunsTheDecodedInstruction := by
  unfold Obligations.StepRunsTheDecodedInstruction
  constructor
  · intro s r c inputs next hc t word after reads come
    have run : step s = issueNext t r := step_of_move inputs next
    obtain rfl : c.r = r := ctxOf_r hc
    refine ⟨?_, ?_, ?_, ?_, ?_, rfl, ?_, ?_⟩
    · rintro i ⟨made, decoded⟩ arrived known room
      rw [run, issueNext_exec hc made decoded (beforeIssue_none arrived known room)]
    · rintro i ⟨made, decoded⟩ awaited
      obtain ⟨k, hk⟩ : ∃ k, c.sp.held i = some k := by
        simpa [Split.held, List.find?_isSome, come, ← Option.isSome_iff_exists] using awaited
      refine ⟨k, by simpa using List.find?_some hk, ?_⟩
      rw [run, issueNext_before hc made decoded (beforeIssue_token hk)]
    · rintro i ⟨made, decoded⟩ arrived child quiet
      rw [run, issueNext_before hc made decoded (beforeIssue_fresh arrived child quiet)]
    · intro e made refused
      rw [run, issueNext_error hc made refused]
      rfl
    · intro due quiet
      rw [run, issueNext_acquire hc due quiet]
    · rw [issue_split?, ctxOf_split? hc]
      simp
    · intro x other
      rw [issue_split?]
      simp [other]
  · intro s i rest n
    refine ⟨fun h => ?_, fun h => ?_, fun h next => step_of_move h next, fun h idle => step_idle h (nextMove_none idle), rfl,
      Nat.le_add_right _ _, ⟨_, _, _, rfl⟩, fun r sp h => tick_split? s h⟩
    · simp [step, advance, h]
    · simp [step, advance, h]

end Sys2Proof.Machine
end

section
/-! Clause headers (O31): what a fetched clause makes its split do, from the checks of its header to its first word. -/

namespace Sys2Proof.Machine

section
variable {s : State} {c : Ctx} {h w : W64} {ws : List W64}

/-! The checks (R202, R204). -/

/-- A header passes its own checks: its word is well formed, and the ring that it waits for is one of the crew's. -/
def HeadOk (c : Ctx) (w : W64) : Prop :=
  headerOk c.level3 w = true ∧ ((Header.ofWord w).waitk = 1 → fld (Header.ofWord w).waitarg 0 3 < c.crew.rings.length)

theorem headOk_iff : HeadOk c w ↔
    (!headerOk c.level3 w || ((Header.ofWord w).waitk = 1 && c.crew.rings.length ≤ fld (Header.ofWord w).waitarg 0 3)) = false := by
  simp [HeadOk]

/-- The trap that a check raises, with the split's mask. -/
def checkTrap (s : State) (c : Ctx) (pc : W64) (cause : Nat) : State :=
  raiseAt s c pc { cause := cause, mask := c.sp.mask, addr := 0, detail := 0 } 0

variable (k : Header → State)

theorem withChecks_header (bad : ¬HeadOk c w) : withChecks s c h w ws k = checkTrap s c h 1 :=
  if_pos (by simpa only [headOk_iff, Bool.not_eq_false] using bad)

variable (ok : HeadOk c w)
include ok

theorem withChecks_words :
    withChecks s c h w ws k = match clauseFault c.level3 (Header.ofWord w).eng c.imageCtx 17 0 none ws with
      | some n => checkTrap s c (h + w64 (8 * (n + 1))) 1
      | none => if roleAllows c.g.role (Header.ofWord w).eng then k (Header.ofWord w) else checkTrap s c h 2 :=
  if_neg (by simp [headOk_iff.mp ok])

theorem withChecks_word {n : Nat} (bad : clauseFault c.level3 (Header.ofWord w).eng c.imageCtx 17 0 none ws = some n) :
    withChecks s c h w ws k = checkTrap s c (h + w64 (8 * (n + 1))) 1 := by
  rw [withChecks_words k ok, bad]

variable (sound : clauseFault c.level3 (Header.ofWord w).eng c.imageCtx 17 0 none ws = none)
include sound

theorem withChecks_role (bad : roleAllows c.g.role (Header.ofWord w).eng = false) : withChecks s c h w ws k = checkTrap s c h 2 := by
  rw [withChecks_words k ok, sound, bad]
  rfl

theorem withChecks_clean (role : roleAllows c.g.role (Header.ofWord w).eng = true) : withChecks s c h w ws k = k (Header.ofWord w) := by
  rw [withChecks_words k ok, sound, role]
  rfl

end

/-! The wait and the billet (R193, R201). -/

/-- The split as it issues the words of a clause from the first on. -/
def Split.enters (sp : Split) (h : W64) (eng : Nat) (ws : List W64) (cycle : Nat) : Split :=
  { sp.ended with pc := h + 8, clause := some { header := h, eng := eng, words := ws, next := 0 }, resume := none, issuedAt := cycle
                  lift := 0, wait := .none }

/-- What a split does at a header that passes its checks. -/
def clauseBegins (s : State) (c : Ctx) (ws : List W64) (hd : Header) : State :=
  if !waitDone s c hd.waitk hd.waitarg then s.waitFor c.r (.clause hd.waitk hd.waitarg)
  else
    withAcquire s c (waitAcquires hd.waitk) 1 fun s =>
      withBillet s c (hd.billet && c.sp.trap.isNone) fun s => s.updSplit c.r fun sp => sp.enters c.sp.pc hd.eng ws s.cycle

section
variable {s s' : State} {c : Ctx} {w : W64} {ws : List W64} {hd : Header}

/-- A split that stands at a header, and owes no acquire and no turn, issues the clause that is fetched. -/
theorem issueHeader_clause (made : c.sp.acquire = 0) (away : c.sp.resume = none) (turn : c.sp.yieldOn = [])
    (clause : ClauseAt s c c.sp.pc s' w ws) : issueHeader s c = withChecks s' c c.sp.pc w ws (clauseBegins s' c ws) := by
  simp only [issueHeader, turn, List.isEmpty_nil, Bool.not_true, Bool.false_eq_true, if_false, withDue, made, if_true, away]
  exact clause fun s w ws => withChecks s c c.sp.pc w ws (clauseBegins s c ws)

theorem clauseBegins_waits (unmet : waitDone s c hd.waitk hd.waitarg = false) :
    clauseBegins s c ws hd = s.waitFor c.r (.clause hd.waitk hd.waitarg) :=
  if_pos (by simp [unmet])

variable (met : waitDone s c hd.waitk hd.waitarg = true) (quiet : noSinv s c.crew.core)
include met quiet

theorem clauseBegins_met : clauseBegins s c ws hd
    = withBillet s c (hd.billet && c.sp.trap.isNone) fun s => s.updSplit c.r fun sp => sp.enters c.sp.pc hd.eng ws s.cycle := by
  simp only [clauseBegins, met, Bool.not_true, Bool.false_eq_true, if_false, withAcquire_noSinv quiet]

theorem clauseBegins_plain (plain : hd.billet = false ∨ c.sp.trap.isSome = true) :
    clauseBegins s c ws hd = s.updSplit c.r fun sp => sp.enters c.sp.pc hd.eng ws s.cycle := by
  have off : (hd.billet && c.sp.trap.isNone) = false := by
    rcases plain with h | h
    · simp [h]
    · cases ht : c.sp.trap <;> simp [ht] at h ⊢
  simp [clauseBegins_met met quiet, off, withBillet]

/-- A billet that has room for its rows is entered, and then the clause (R193). -/
theorem clauseBegins_billet (on : hd.billet = true) (normal : c.sp.trap = none) (unchecked : c.launch.il < 2)
    (room : snapRows c.g c.r.split (takeSnapshot s c c.sp.pc) ≤ 16) {sp : Split} (here : s.split? c.r = some sp) :
    ∃ sp', (clauseBegins s c ws hd).split? c.r = some sp' ∧ sp'.pc = c.sp.pc + 8 ∧ sp'.billet = some (takeSnapshot s c c.sp.pc)
      ∧ sp'.sealed = false ∧ sp'.clause = some { header := c.sp.pc, eng := hd.eng, words := ws, next := 0 } := by
  have fits : ¬16 < snapRows c.g c.r.split (takeSnapshot s c c.sp.pc) := by omega
  have il3 : c.launch.il ≠ 3 := by omega
  have il2 : c.launch.il ≠ 2 := by omega
  have region (k : State → State) : withRegion s c [] k = k s := by simp [withRegion, regionMiss]
  rw [clauseBegins_met met quiet]
  simp only [withBillet, on, normal, Option.isNone_none, Bool.and_self, Bool.not_true, Bool.false_eq_true, if_false, fits, region, il3, il2,
    State.updSplit_split?, here, Option.map_some]
  exact ⟨_, rfl, rfl, rfl, rfl, rfl⟩

end

/-! The events of a split at a header. -/

section
variable {r : SplitRef} {s : State} {c : Ctx} (hc : s.ctxOf r = some c)
include hc

theorem exec_clauseHeader (at_ : c.sp.clause = none) (free : c.sp.wait = .none) (clear : c.sp.pendingTrap = none) (runs : c.crew.running = true) :
    exec (.clauseHeader r) s = .next (issueHeader s c) := by
  show execClauseHeader r s = _
  simp [execClauseHeader, hc, at_, free, clear, runs]

section
variable {k : Nat} {a : BitVec 16} (wait : c.sp.wait = .clause k a)
include wait

theorem exec_clauseWaitEnd (met : waitDone s c k a = true) (runs : c.crew.running = true) :
    exec (.clauseWaitEnd r) s = .next (issueHeader (s.waitFor r .none) { c with sp := { c.sp with wait := .none } }) := by
  show execClauseWaitEnd r s = _
  simp [execClauseWaitEnd, hc, wait, met, runs]

theorem exec_clauseWaitEnd_unmet (unmet : waitDone s c k a = false) : exec (.clauseWaitEnd r) s = .next s := by
  show execClauseWaitEnd r s = _
  simp [execClauseWaitEnd, hc, wait, unmet]

end

theorem exec_priorityLift (free : c.sp.wait = .none) (awake : c.sp.paused = false) :
    exec (.priorityLift r) s = .next (s.updSplit r fun sp => { sp with lift := min (sp.lift + 1) (255 - c.launch.prio) }) := by
  show execPriorityLift r s = _
  simp [execPriorityLift, hc, free, awake]

end

/-- Settles O31: whoever issues a header does what the checks, the wait and the billet of its clause ask, in this order. -/
theorem clauseHeaderResults : Obligations.ClauseHeaderResults := by
  unfold Obligations.ClauseHeaderResults
  intro r s c hc clear saved preempt made h issues
  obtain rfl : c.r = r := ctxOf_r hc
  have runs : c.crew.running = true := by simp [Crew.running, saved, preempt]
  have issued {i : Instr} {s run : State} {c' : Ctx} (hr : c'.r = c.r) (hp : c'.sp.pc = c.sp.pc) (made : c'.sp.acquire = 0)
      (e : exec i run = .next (issueHeader s c')) : issues i s c' run := by
    intro s' w ws away turn clause hd headOk bad trap clean
    have begins : exec i run = .next (withChecks s' c' h w ws (clauseBegins s' c' ws)) := by
      rw [e, issueHeader_clause made away turn (by rw [hp]; exact clause), hp]
    rw [begins]
    refine ⟨fun n => ?_, fun y n b => ?_, fun y b n => ?_, fun ⟨y, b, p⟩ n => ?_, fun ⟨y, b, p⟩ met quiet plain => ?_,
      fun ⟨y, b, p⟩ met quiet on normal il here room => ?_⟩
    · rw [withChecks_header _ n]
      rfl
    · rw [withChecks_word _ y b]
      rfl
    · rw [withChecks_role _ y b n]
      rfl
    · rw [withChecks_clean _ y b p, clauseBegins_waits n, hr]
    · rw [withChecks_clean _ y b p, clauseBegins_plain met quiet plain, hr, hp]
      rfl
    · obtain ⟨sp, here⟩ := Option.isSome_iff_exists.mp here
      have begun := clauseBegins_billet (ws := ws) met quiet on normal il (by rw [hr, hp]; exact room) (by rw [hr]; exact here)
      rw [hr, hp] at begun
      obtain ⟨sp', entered, rest⟩ := begun
      rw [withChecks_clean _ y b p]
      exact ⟨_, sp', rfl, entered, rest⟩
  exact ⟨fun at_ free => issued rfl rfl made (exec_clauseHeader hc at_ free clear runs),
    fun k a wait met => issued rfl rfl made (exec_clauseWaitEnd hc wait met runs),
    fun k a wait unmet => exec_clauseWaitEnd_unmet hc wait unmet, rfl, rfl, fun free awake => exec_priorityLift hc free awake⟩

end Sys2Proof.Machine
end


section
/-! The placement of a cord (O46): what is made for each crew and each group, and that nothing that was resident changes. -/

namespace Sys2Proof.Machine

/-! Sorting and putting. -/

theorem mem_insertBy {α : Type} {lt : α → α → Bool} {a b : α} {l : List α} (h : b ∈ insertBy lt a l) : b = a ∨ b ∈ l := by
  induction l with
  | nil => exact .inl (List.mem_singleton.mp h)
  | cons c t ih =>
    unfold insertBy at h
    split at h
    · exact List.mem_cons.mp h
    · rcases List.mem_cons.mp h with rfl | h
      · exact .inr List.mem_cons_self
      · exact (ih h).imp_right (List.mem_cons_of_mem _)

theorem mem_of_mem_sortBy {α : Type} {lt : α → α → Bool} {a : α} {l : List α} (h : a ∈ sortBy lt l) : a ∈ l := by
  induction l with
  | nil => exact h
  | cons b t ih =>
    rcases mem_insertBy h with rfl | h
    · exact List.mem_cons_self
    · exact List.mem_cons_of_mem _ (ih h)

theorem Tbl.mem_put {α : Type} {l : List (Nat × α)} {n : Nat} {x : α} {e : Nat × α} (h : e ∈ Tbl.put l n x) : e = (n, x) ∨ e ∈ l := by
  induction l with
  | nil => exact .inl (List.mem_singleton.mp h)
  | cons p t ih =>
    obtain ⟨k, v⟩ := p
    unfold Tbl.put at h
    split at h
    · exact List.mem_cons.mp h
    · split at h
      · exact (List.mem_cons.mp h).imp_right (List.mem_cons_of_mem _)
      · rcases List.mem_cons.mp h with rfl | h
        · exact .inr List.mem_cons_self
        · exact (ih h).imp_right (List.mem_cons_of_mem _)

/-! The cores chosen (R384). -/

theorem pickCores_length {s : State} {p il k n : Nat} {need : Need} {cores : List (Nat × Nat)}
    (h : s.pickCores p il k n need = some cores) : cores.length = n := by
  unfold State.pickCores at h
  dsimp only at h
  split at h
  · cases h
  · rename_i enough
    obtain rfl := Option.some.inj h
    rw [List.length_map, List.length_take, Nat.min_eq_left (Nat.not_lt.mp enough)]

theorem cordPlace_length {s : State} {p il n : Nat} {need : Need} {cores : List (Nat × Nat)}
    (h : s.cordPlace p il n need = some cores) : cores.length = n := by
  obtain ⟨k, -, picked⟩ := List.mem_filterMap.mp (mem_of_mem_sortBy (List.mem_of_head? h))
  exact pickCores_length picked

/-! What a placement adds to a state. -/

/-- Crews and groups have been added under new handles; every group that has been added has a split. -/
structure Adds (s t : State) : Prop where
  launches : t.launches = s.launches
  seed : s.seed ≤ t.seed
  crew : ∀ h, h < s.seed → t.crew? h = s.crew? h
  group : ∀ h, h < s.seed → t.group? h = s.group? h
  split : ∀ e ∈ t.groups, e ∈ s.groups ∨ e.2.splits ≠ []

theorem Adds.refl (s : State) : Adds s s := ⟨rfl, Nat.le_refl _, fun _ _ => rfl, fun _ _ => rfl, fun _ he => .inl he⟩

theorem Adds.trans {s t u : State} (h : Adds s t) (h' : Adds t u) : Adds s u where
  launches := h'.launches.trans h.launches
  seed := Nat.le_trans h.seed h'.seed
  crew n hn := (h'.crew n (Nat.lt_of_lt_of_le hn h.seed)).trans (h.crew n hn)
  group n hn := (h'.group n (Nat.lt_of_lt_of_le hn h.seed)).trans (h.group n hn)
  split e he := (h'.split e he).elim (h.split e) .inr

/-- What each step makes, and what later additions keep, stands after all the steps. -/
theorem Adds.foldl {β : Type} {f : State → β → State} {Q : β → State → Prop} {l : List β} (adds : ∀ s, ∀ b ∈ l, Adds s (f s b))
    (made : ∀ s, ∀ b ∈ l, Q b (f s b)) (kept : ∀ b s t, Adds s t → Q b s → Q b t) (s : State) :
    Adds s (l.foldl f s) ∧ ∀ b ∈ l, Q b (l.foldl f s) := by
  induction l generalizing s with
  | nil => exact ⟨.refl s, fun b hb => absurd hb List.not_mem_nil⟩
  | cons b l ih =>
    obtain ⟨rest, all⟩ := ih (fun s b hb => adds s b (List.mem_cons_of_mem _ hb)) (fun s b hb => made s b (List.mem_cons_of_mem _ hb)) (f s b)
    refine ⟨(adds s b List.mem_cons_self).trans rest, fun b' hb => ?_⟩
    rcases List.mem_cons.mp hb with rfl | hb
    · exact kept _ _ _ rest (made s _ List.mem_cons_self)
    · exact all b' hb

/-! A group (R169, R172, R213). -/

theorem onLanes_getLsbD {threads first width i : Nat} (wide : width ≤ 64) :
    (onLanes threads first width).getLsbD i = true ↔ i < width ∧ first + i < threads := by
  unfold onLanes
  rw [BitVec.getLsbD_ofNat, Nat.testBit_two_pow_sub_one, ← Bool.decide_and, decide_eq_true_eq]
  omega

theorem onLanes_ne_zero {threads first width : Nat} (wide : width ≤ 64) (some : 0 < width) (reached : first < threads) :
    onLanes threads first width ≠ 0 := by
  intro empty
  have on := (onLanes_getLsbD wide (i := 0)).mpr ⟨some, reached⟩
  simp [empty] at on

theorem first_sreg (l : Launch) (im : Image) (entry : Nat) (mask : LaneMask) (k : Nat) :
    (Split.first l im entry mask).s k = if k = 1 then l.image else if k = 2 then l.args else 0 := by
  by_cases h0 : k = 0
  · subst h0; rfl
  · by_cases h1 : 1 = k
    · subst h1; rfl
    · by_cases h2 : 2 = k
      · subst h2; rfl
      · simp [Split.s, Split.first, Tbl.find?, h0, h1, h2, Ne.symm h1, Ne.symm h2]

/-- The launch and the image fill every group of the cord. -/
structure Fills (l : Launch) (im : Image) (cord : Nat) : Prop where
  some : 0 < im.width
  wide : im.width ≤ 64
  reach : ∀ c g, c < im.cord → g < im.crew → ((cord * im.cord + c) * im.crew + g) * im.width < l.threads

/-- Group `n` of a crew stands as its first instruction finds it, under a handle that has been given out. -/
def Begun (l : Launch) (lid : Nat) (im : Image) (crew cord crewid n : Nat) (s : State) : Prop :=
  ∃ gh g, gh < s.seed ∧ s.group? gh = some g ∧ Started g l lid im crew cord crewid n

theorem Begun.adds {l : Launch} {lid : Nat} {im : Image} {crew cord crewid n : Nat} {s t : State} (h : Begun l lid im crew cord crewid n s)
    (more : Adds s t) : Begun l lid im crew cord crewid n t := by
  obtain ⟨gh, g, old, found, started⟩ := h
  exact ⟨gh, g, Nat.lt_of_lt_of_le old more.seed, (more.group gh old).trans found, started⟩

section
variable {l : Launch} {im : Image} {cord crewid g : Nat} (fills : Fills l im cord) (hc : crewid < im.cord) (hg : g < im.crew)
include fills hc hg

theorem addGroup_adds (s : State) (lid crew : Nat) : Adds s (addGroup s lid l im crew cord crewid g) := by
  refine ⟨rfl, Nat.le_succ _, fun _ _ => rfl, fun h hh => Tbl.find?_put_other _ _ (Nat.ne_of_lt hh), fun e he => ?_⟩
  refine (Tbl.mem_put he).symm.imp_right fun new => ?_
  rw [new]
  dsimp only
  rw [if_neg (onLanes_ne_zero fills.wide fills.some (fills.reach _ _ hc hg))]
  exact List.cons_ne_nil _ _

theorem addGroup_begun (s : State) (lid crew : Nat) :
    Begun l lid im crew cord crewid g (addGroup s lid l im crew cord crewid g) := by
  refine ⟨s.seed, _, Nat.lt_succ_self _, Tbl.find?_put_same .., ⟨⟨rfl, rfl, rfl, rfl, rfl, rfl⟩, rfl, ⟨rfl, rfl, rfl, rfl, rfl, rfl, rfl⟩, _,
    if_neg (onLanes_ne_zero fills.wide fills.some (fills.reach _ _ hc hg)), rfl, rfl, fun k => first_sreg _ _ _ _ k, ?_⟩⟩
  exact ⟨fun _ => rfl, rfl, rfl, rfl, rfl, rfl, rfl, rfl, rfl, fun i _ => onLanes_getLsbD fills.wide⟩

end

/-! A crew (R26, R184, R186). -/

/-- A crew as it is placed: its core's place for the scratchpad, its rings, nothing else. -/
def Crew.placed (lid : Nat) (im : Image) (cord crewid core base : Nat) : Crew :=
  { launch := lid, cord := cord, crewid := crewid, core := core, scratchBase := base, scratchSize := (im.scratch + 1023) / 1024 * 1024
    rings := im.rings, ringPhase := [], bars := [], cbarLanes := [], saved := false, toSave := [], lazySlot := none, preempt := false }

/-- A crew of the cord stands on the core chosen, with all its groups. -/
def Laid (l : Launch) (lid : Nat) (im : Image) (cord : Nat) (e : (Nat × Nat) × Nat) (s : State) : Prop :=
  ∃ h, h < s.seed ∧ s.crew? h = some (Crew.placed lid im cord e.2 e.1.1 e.1.2) ∧ ∀ n, n < im.crew → Begun l lid im h cord e.2 n s

theorem Laid.adds {l : Launch} {lid : Nat} {im : Image} {cord : Nat} {e : (Nat × Nat) × Nat} {s t : State} (h : Laid l lid im cord e s)
    (more : Adds s t) : Laid l lid im cord e t := by
  obtain ⟨h, old, found, begun⟩ := h
  exact ⟨h, Nat.lt_of_lt_of_le old more.seed, (more.crew h old).trans found, fun n hn => (begun n hn).adds more⟩

/-- The core is made ready and the crew is listed, before its groups are. -/
def crewListed (s : State) (lid : Nat) (l : Launch) (im : Image) (cord crewid core base : Nat) : State :=
  let t := prepareCore s core l.tenant base ((im.scratch + 1023) / 1024 * 1024)
  { t with crews := Tbl.put t.crews t.seed (Crew.placed lid im cord crewid core base), seed := t.seed + 1 }

theorem crewListed_adds (s : State) (lid : Nat) (l : Launch) (im : Image) (cord crewid core base : Nat) :
    Adds s (crewListed s lid l im cord crewid core base) where
  launches := rfl
  seed := Nat.le_add_right s.seed 2
  crew _ hh := Tbl.find?_put_other _ _ (Nat.ne_of_lt (Nat.lt_succ_of_lt hh))
  group _ _ := rfl
  split _ he := .inl he

section
variable {l : Launch} {im : Image} {cord crewid : Nat} (fills : Fills l im cord) (hc : crewid < im.cord) (s : State) (lid core base : Nat)
include fills hc

theorem addCrew_laid : Adds s (addCrew s lid l im cord crewid core base)
    ∧ Laid l lid im cord ((core, base), crewid) (addCrew s lid l im cord crewid core base) := by
  have listed := crewListed_adds s lid l im cord crewid core base
  have grouped := Adds.foldl (f := fun t g => addGroup t lid l im (s.seed + 1) cord crewid g)
    (Q := fun n => Begun l lid im (s.seed + 1) cord crewid n) (l := List.range im.crew)
    (fun t g hg => addGroup_adds fills hc (List.mem_range.mp hg) t lid _)
    (fun t g hg => addGroup_begun fills hc (List.mem_range.mp hg) t lid _) (fun _ _ _ more h => h.adds more)
    (crewListed s lid l im cord crewid core base)
  obtain ⟨more, begun⟩ := grouped
  have new : s.seed + 1 < (crewListed s lid l im cord crewid core base).seed := Nat.lt_succ_self _
  refine ⟨listed.trans more, s.seed + 1, Nat.lt_of_lt_of_le new more.seed, ?_, fun n hn => begun n (List.mem_range.mpr hn)⟩
  exact (more.crew _ new).trans (Tbl.find?_put_same ..)

end

/-! A cord (R384, R385). -/

/-- The crews of a cord on the cores chosen. -/
def crewsPlaced (s : State) (lid : Nat) (l : Launch) (im : Image) (cores : List (Nat × Nat)) : State :=
  cores.zipIdx.foldl (fun s e => addCrew s lid l im l.placedCords e.2 e.1.1 e.1.2) s

theorem crewsPlaced_laid {l : Launch} {im : Image} (fills : Fills l im l.placedCords) {cores : List (Nat × Nat)} (room : cores.length = im.cord)
    (s : State) (lid : Nat) : Adds s (crewsPlaced s lid l im cores)
      ∧ ∀ e ∈ cores.zipIdx, Laid l lid im l.placedCords e (crewsPlaced s lid l im cores) := by
  have crewid {e : (Nat × Nat) × Nat} (he : e ∈ cores.zipIdx) : e.2 < im.cord := room ▸ (List.mem_zipIdx' he).1
  exact Adds.foldl (Q := Laid l lid im l.placedCords) (fun t e he => (addCrew_laid fills (crewid he) t lid e.1.1 e.1.2).1)
    (fun t e he => (addCrew_laid fills (crewid he) t lid e.1.1 e.1.2).2)
    (fun _ _ _ more h => h.adds more) s

/-- A launch once a cord of it has been placed. -/
def Launch.withCord (cord : Nat) (l : Launch) : Launch :=
  { l with placedCords := cord + 1, blocking := false, state := if cord + 1 = l.cords then .placed else l.state }

/-- Every group of the cord has a lane, so that none retires at once. -/
theorem commitCord_eq {s : State} {lid : Nat} {l : Launch} {im : Image} {cores : List (Nat × Nat)} (fills : Fills l im l.placedCords)
    (room : cores.length = im.cord) (next : ∀ e ∈ s.groups, e.2.launch = lid → e.2.cord ≠ l.placedCords) :
    commitCord s lid l im cores = (crewsPlaced s lid l im cores).updLaunch lid (Launch.withCord l.placedCords) := by
  obtain ⟨adds, -⟩ := crewsPlaced_laid fills room s lid
  have none : (crewsPlaced s lid l im cores).groups.filter (fun e => e.2.launch = lid && e.2.cord = l.placedCords && e.2.splits.isEmpty) = [] := by
    rw [List.filter_eq_nil_iff]
    intro e he idle
    simp only [Bool.and_eq_true, decide_eq_true_eq, List.isEmpty_iff] at idle
    obtain ⟨⟨launch, cord⟩, empty⟩ := idle
    exact (adds.split e he).elim (fun old => next e old launch cord) fun lanes => lanes empty
  unfold commitCord
  exact congrArg (fun L : List (Nat × Group) => (L.map (·.1)).foldl retireGroup _) none

/-- CORD_PLACE places the next cord of the first candidate. -/
theorem exec_cordPlace_fits {p lid : Nat} {s : State} {l : Launch} {rest : List (Nat × Launch)} {im : Image} {cores : List (Nat × Nat)}
    (up : (s.part p).pstate ≠ 2) (test : s.underTest p = false) (whole : ∀ e ∈ s.launches, e.2.part = p → depBroken s e.2 = false)
    (first : s.candidates p = (lid, l) :: rest) (img : l.img = some im) (level : l.il < 2)
    (slots : im.cord * im.crew ≤ (((s.tenant? l.tenant).map (·.freeSlots.length)).getD 0))
    (place : s.cordPlace p l.il im.cord (needOf l im) = some cores) (part : l.part = p) :
    exec (.cordPlace p) s = .next (commitCord s lid l im cores) := by
  have noneBroken : (s.launches.find? fun e =>
      e.2.part = p && !e.2.ended && e.2.placedCords = 0 && e.2.state != .received && depBroken s e.2) = none := by
    rw [List.find?_eq_none]
    intro e he broken
    simp only [Bool.and_eq_true, decide_eq_true_eq] at broken
    obtain ⟨⟨⟨⟨part, -⟩, -⟩, -⟩, broken⟩ := broken
    exact absurd broken (by simp [whole e he part])
  have fits : tryCord s lid l = some (commitCord s lid l im cores) := by
    subst part
    unfold tryCord
    rw [img]
    dsimp only
    rw [if_neg (Nat.not_lt.mpr ?_), place]
    · rfl
    · rwa [if_neg (Nat.not_le.mpr level), Nat.mul_one]
  have placed : placeStep s p = some (commitCord s lid l im cores) := by
    unfold placeStep
    rw [if_neg (by simp [up, test]), noneBroken, first]
    dsimp only
    rw [firstFit, if_neg (by simp), fits]
  exact congrArg (fun o : Option State => Host.Outcome.next (o.getD s)) placed

end Sys2Proof.Machine
end


section
/-! The end of a launch (O46): what completion words leave of it, how it closes, and the abort of one whose dependence is broken. -/

namespace Sys2Proof.Machine

/-! What completion words and barriers leave of a launch. -/

/-- What of a launch's record decides how it ends. -/
structure Course where
  state : LaunchState
  closing : Option (Nat × List Nat)
  cords : Nat
  retiredCords : Nat
  part : Nat
  tenant : Nat

def Launch.course (x : Launch) : Course :=
  { state := x.state, closing := x.closing, cords := x.cords, retiredCords := x.retiredCords, part := x.part, tenant := x.tenant }

def State.course (s : State) (lid : Nat) : Option Course := (s.launch? lid).map Launch.course

section
variable {lid : Nat} {s t : State}

theorem course_of_launch {x : Launch} (hx : s.launch? lid = some x) : s.course lid = some x.course := congrArg (Option.map _) hx

theorem launch_of_course {x : Launch} (h : s.course lid = some x.course) : ∃ y, s.launch? lid = some y ∧ y.course = x.course :=
  Option.map_eq_some_iff.mp h

theorem course_of_launches (e : t.launches = s.launches) : t.course lid = s.course lid :=
  congrArg (fun L => (Tbl.find? L lid).map Launch.course) e

theorem state_of_course {σ : Course} (h : s.course lid = some σ) : (s.launch? lid).map (·.state) = some σ.state := by
  obtain ⟨x, hx, rfl⟩ := Option.map_eq_some_iff.mp h
  rw [hx]
  rfl

theorem updLaunch_launch? {x : Launch} (hx : s.launch? lid = some x) (f : Launch → Launch) : (s.updLaunch lid f).launch? lid = some (f x) :=
  (Tbl.find?_upd_same ..).trans (congrArg (Option.map f) hx)

theorem updLaunch_course (s : State) {f : Launch → Launch} (hf : ∀ x, (f x).course = x.course) : (s.updLaunch lid f).course lid = s.course lid := by
  unfold State.course
  rw [show (s.updLaunch lid f).launch? lid = (s.launch? lid).map f from Tbl.find?_upd_same .., Option.map_map]
  exact congrArg (Option.map · _) (funext hf)

/-- The launches, the groups and the crews, which the device's own accesses leave alone. -/
structure Roll where
  launches : List (Nat × Launch)
  groups : List (Nat × Group)
  crews : List (Nat × Crew)

def State.roll (s : State) : Roll := { launches := s.launches, groups := s.groups, crews := s.crews }

/-- The course of one launch, the groups and the crews. -/
def State.docket (s : State) (lid : Nat) : Option Course × List (Nat × Group) × List (Nat × Crew) :=
  (s.course lid, s.groups, s.crews)

theorem docket_of_roll (e : t.roll = s.roll) : t.docket lid = s.docket lid :=
  congrArg (fun R : Roll => ((Tbl.find? R.launches lid).map Launch.course, R.groups, R.crews)) e

theorem updLaunch_docket (s : State) {f : Launch → Launch} (hf : ∀ x, (f x).course = x.course) : (s.updLaunch lid f).docket lid = s.docket lid :=
  congrArg (fun c => (c, s.groups, s.crews)) (updLaunch_course s hf)

/-! Accesses by virtual address, and what they ask for. -/

/-- Whether an access was performed or not, it left the roll as it was. -/
def Res.rollOf {α : Type} (s : State) (r : Res α) : Prop := r.state.roll = s.roll

theorem Res.bind_roll {α β : Type} {r : Res α} {f : State → α → Res β} (hr : r.rollOf s) (hf : ∀ t x, t.roll = s.roll → (f t x).rollOf s) :
    (r.bind f).rollOf s := by
  cases r with
  | ok t x => exact hf t x hr
  | stop t w => exact hr

theorem roll_of_aside (e : t.aside = s.aside) : t.roll = s.roll :=
  congrArg (fun a : Aside => ({ launches := a.launches, groups := a.groups, crews := a.crews } : Roll)) e

theorem xlateNow_roll (s : State) (core tenant va acc known) : (xlateNow s core tenant va acc known).rollOf s := by
  unfold xlateNow
  split
  · unfold Res.rollOf Res.state fillTlb
    dsimp only
    split
    · rfl
    · split <;> rfl
  · rfl
  · rfl

theorem hwWrite_roll (s : State) (part tenant who known answers va bs) :
    (hwWrite s ctlCore part tenant who known answers va bs).state.roll = s.roll := by
  unfold hwWrite
  refine List.foldlRecOn (motive := Res.rollOf s) _ _ rfl fun r hr pc _ => ?_
  refine Res.bind_roll hr fun t bs h => ?_
  cases bs with
  | error f => exact h
  | ok bs =>
    refine Res.bind_roll ((xlateNow_roll t ..).trans h) fun t x h => ?_
    cases x with
    | error f => exact h
    | ok x => exact Res.bind_roll ((roll_of_aside (engineWrite_leaves rfl ..)).trans h) fun _ _ h => h

theorem attachReq_roll (s : State) (tenant stage level table entry addr acc lanes eng) :
    (attachReq s tenant stage level table entry addr acc lanes eng).1.roll = s.roll := by
  unfold attachReq
  dsimp only
  split
  · rfl
  · split <;> rfl

theorem joinWalk_roll (s : State) (tenant page acc who) : (joinWalk s tenant page acc who).roll = s.roll := by
  unfold joinWalk
  split
  · split <;> rfl
  · split <;> rfl

theorem waitOn_roll (s : State) (who part tenant w) : (waitOn s who part tenant w).roll = s.roll := by
  unfold waitOn
  split
  · unfold askRemote
    split <;> rfl
  · rename_i page acc
    rcases queueWalk_joins s tenant page acc who with e | e
    · rw [e, joinWalk_roll]
    · rw [e, joinWalk_roll]
      rfl
  · rfl

theorem noteXlate_roll (s : State) (tenant cause detail addr) : (noteXlate s tenant cause detail addr).roll = s.roll := by
  unfold noteXlate
  split <;> rfl

theorem reportDrop_roll (s : State) (kind tenant addr part) : (reportDrop s kind tenant addr part).roll = s.roll := by
  unfold reportDrop
  rw [reportError_onlyDev]
  rfl

theorem queueInterrupt_roll (s : State) (f q) : (queueInterrupt s f q).roll = s.roll := by
  unfold queueInterrupt
  dsimp only
  rw [sendMsi_onlyDev]
  rfl

/-! Completion words (R371). -/

theorem finishWords_docket (s : State) : (finishWords s lid).docket lid = s.docket lid := by
  unfold finishWords
  split
  · rfl
  · split
    · have asked : (s.updLaunch lid fun x => { x with irqDue := false }).docket lid = s.docket lid := updLaunch_docket s fun _ => rfl
      dsimp only
      split
      · exact (docket_of_roll (queueInterrupt_roll ..)).trans asked
      · exact (docket_of_roll (queueInterrupt_roll ..)).trans asked
      · exact asked
    · rfl

/-- The oldest completion word is gone. -/
theorem wordGone_docket (e : t.roll = s.roll) :
    (finishWords (t.updLaunch lid fun x => { x with words := x.words.drop 1 }) lid).docket lid = s.docket lid := by
  refine (finishWords_docket _).trans (Eq.trans ?_ (docket_of_roll e))
  exact updLaunch_docket t fun _ => rfl

theorem dropWord_docket (e : t.roll = s.roll) (x : Launch) (addr : Nat) : (dropWord t lid x addr).docket lid = s.docket lid :=
  wordGone_docket ((reportDrop_roll ..).trans e)

theorem pushWord_docket (s : State) : (pushWord s lid).docket lid = s.docket lid := by
  unfold pushWord
  split
  · rfl
  · rename_i x _
    split
    · rfl
    · rename_i w _ _
      split
      · split
        · exact dropWord_docket rfl ..
        · exact wordGone_docket rfl
      · rename_i a _
        have wrote := hwWrite_roll s x.part x.tenant none x.faults [] a.toNat (toBytes 8 w.toNat)
        split
        · rename_i e; rw [e] at wrote
          exact wordGone_docket wrote
        · rename_i t _ _ _ _ _ _ e; rw [e] at wrote
          refine (docket_of_roll (attachReq_roll ..)).trans (Eq.trans ?_ (docket_of_roll wrote))
          exact updLaunch_docket t fun _ => rfl
        · rename_i e; rw [e] at wrote
          exact dropWord_docket ((noteXlate_roll ..).trans wrote) ..
        · rename_i e; rw [e] at wrote
          split
          · exact dropWord_docket wrote ..
          · exact docket_of_roll ((waitOn_roll ..).trans wrote)
      · rfl

theorem addWord_docket (s : State) (w : W64) : (addWord s lid w).docket lid = s.docket lid := by
  have added : (s.updLaunch lid fun x => { x with words := x.words ++ [w] }).docket lid = s.docket lid := updLaunch_docket s fun _ => rfl
  unfold addWord
  split
  · rfl
  · dsimp only
    split
    · exact (pushWord_docket _).trans added
    · exact added

theorem childToken_launches (s : State) (r : SplitRef) (reg : Nat) (v : W64) : (childToken s r reg v).launches = s.launches := by
  unfold childToken
  dsimp only
  split <;> rfl

end

/-! The end of a launch (R138, R371, R402). -/

/-- The state in which a launch ends: code 0 for DONE. -/
def endState (code : Nat) : LaunchState := if code = 0 then .done else .failed code

theorem endLaunch_state {s : State} {lid code : Nat} {x : Launch} (hx : s.launch? lid = some x) (live : x.state.live = true) :
    (endLaunch s lid code).course lid = some { x.course with state := endState code } := by
  have ended : (s.updLaunch lid fun x => { x with state := endState code, irqDue := x.irq }).course lid
      = some { x.course with state := endState code } := course_of_launch (updLaunch_launch? hx _)
  unfold endLaunch
  rw [hx]
  dsimp only
  split
  case h_1 e => rw [e] at live; cases live
  case h_2 e => rw [e] at live; cases live
  case h_3 e => rw [e] at live; cases live
  case h_4 =>
    split
    · exact (course_of_launches (childToken_launches ..)).trans ended
    · exact (congrArg Prod.fst (addWord_docket ..)).trans ended

theorem endLaunch_ended {s : State} {lid code : Nat} {x : Launch} (hx : s.launch? lid = some x) (ended : x.state.live = false) :
    endLaunch s lid code = s := by
  unfold endLaunch
  rw [hx]
  dsimp only
  split
  case h_4 done failed refused => cases e : x.state <;> simp_all [LaunchState.live]
  all_goals rfl

/-- Cords of a launch that have retired. -/
def State.retired? (s : State) (lid : Nat) : Option Nat := (s.course lid).map Course.retiredCords

theorem launch_of_retired {s : State} {lid n : Nat} (h : s.retired? lid = some n) : ∃ x, s.launch? lid = some x ∧ x.retiredCords = n := by
  obtain ⟨c, hc, rfl⟩ := Option.map_eq_some_iff.mp h
  obtain ⟨x, hx, rfl⟩ := Option.map_eq_some_iff.mp hc
  exact ⟨x, hx, rfl⟩

theorem retired?_of_course {s t : State} {lid : Nat} (h : t.course lid = s.course lid) : t.retired? lid = s.retired? lid := congrArg (Option.map _) h

theorem endLaunch_retired (s : State) (lid code : Nat) : (endLaunch s lid code).retired? lid = s.retired? lid := by
  cases hx : s.launch? lid with
  | none => rw [endLaunch, hx]
  | some x =>
    cases live : x.state.live with
    | false => rw [endLaunch_ended hx live]
    | true => rw [State.retired?, State.retired?, endLaunch_state hx live, course_of_launch hx]; rfl

theorem updLaunch_retired (s : State) {lid : Nat} {f : Launch → Launch} (hf : ∀ x, (f x).retiredCords = x.retiredCords) :
    (s.updLaunch lid f).retired? lid = s.retired? lid := by
  unfold State.retired? State.course
  rw [show (s.updLaunch lid f).launch? lid = (s.launch? lid).map f from Tbl.find?_upd_same .., Option.map_map, Option.map_map, Option.map_map]
  exact congrArg (Option.map · _) (funext hf)

theorem tryClose_retired (s : State) (lid : Nat) : (tryClose s lid).retired? lid = s.retired? lid := by
  unfold tryClose
  split
  · rfl
  · split
    · rfl
    · rename_i x _ _ code cores _
      have written : (Res.forEach s (fun s core => sinvWriteBack s x.part core) cores).leaves s.aside :=
        Res.forEach_leaves rfl (fun _ _ h => sinvWriteBack_leaves h ..) _
      have still {t : State} (e : t.aside = s.aside) : t.retired? lid = s.retired? lid :=
        retired?_of_course (course_of_launches (congrArg Aside.launches e))
      split
      · rename_i e; rw [e] at written
        exact still written
      · rename_i e; rw [e] at written
        split
        · exact still written
        · refine (endLaunch_retired ..).trans (Eq.trans ?_ (still written))
          exact updLaunch_retired _ fun _ => rfl

theorem closeLaunch_retired (s : State) (lid code : Nat) (cores : List Nat) : (closeLaunch s lid code cores).retired? lid = s.retired? lid :=
  (tryClose_retired ..).trans (updLaunch_retired s fun x => by split <;> rfl)

/-- With nothing to write back and no write under way, a launch that closes ends at once. -/
theorem closeLaunch_ends {s : State} {lid : Nat} {x : Launch} (hx : s.launch? lid = some x) (live : x.state.live = true)
    (opened : x.closing = none) (made : s.unreleased lid x = false) (code : Nat) :
    (closeLaunch s lid code []).course lid = some { x.course with state := endState code } := by
  have closing : (s.updLaunch lid fun x => if x.closing.isSome then x else { x with closing := some (code, []) }).launch? lid
      = some { x with closing := some (code, []) } := by
    rw [updLaunch_launch? hx, opened]
    rfl
  unfold closeLaunch tryClose
  rw [closing]
  dsimp only [Res.forEach]
  refine (congrArg (State.course · lid) (if_neg (ne_true_of_eq_false made))).trans ?_
  rw [endLaunch_state (updLaunch_launch? closing _) live, Launch.course, Launch.course, opened]

/-! A launch whose dependence is broken (R382). -/

/-- A gate from which acts are dropped holds no store that it did not hold. -/
theorem unreleased_mono {s t : State} {lid : Nat} {x : Launch}
    (gates : ∀ p ∈ t.dev.pairs, ∃ q ∈ s.dev.pairs, ∀ e ∈ p.2.gate, e ∈ q.2.gate) (outbound : ∀ o ∈ t.outbound, o ∈ s.outbound)
    (made : s.unreleased lid x = false) : t.unreleased lid x = false := by
  simp only [State.unreleased, Bool.or_eq_false_iff, List.any_eq_false] at made ⊢
  obtain ⟨stores, writes⟩ := made
  refine ⟨fun p hp held => ?_, fun o ho => writes o (outbound o ho)⟩
  obtain ⟨q, hq, among⟩ := gates p hp
  obtain ⟨e, he, mine⟩ := List.any_eq_true.mp held
  exact stores q hq (List.any_eq_true.mpr ⟨e, among e he, mine⟩)

/-- A launch of which nothing is resident fails at once. -/
theorem abortLaunch_failed {s : State} {lid code : Nat} {x : Launch} (hx : s.launch? lid = some x) (live : x.state.live = true)
    (opened : x.closing = none) (absent : ∀ e ∈ s.crews, e.2.launch ≠ lid) (made : s.unreleased lid x = false) :
    ((abortLaunch s lid code).launch? lid).map (·.state) = some (endState code) := by
  have none : s.crews.filter (fun e => e.2.launch = lid) = [] := by
    rw [List.filter_eq_nil_iff]
    exact fun e he mine => absent e he (of_decide_eq_true mine)
  unfold abortLaunch
  simp only [none, List.filter_nil, List.map_nil, List.eraseDups_nil, List.foldl_nil]
  refine state_of_course (Eq.trans (closeLaunch_ends (x := x) ?_ live opened ?_ code) rfl)
  · exact hx
  · refine unreleased_mono (s := s) (fun p hp => ?_) (fun _ ho => ho) made
    obtain ⟨q, hq, rfl⟩ := List.mem_map.mp hp
    exact ⟨q, hq, fun e he => List.mem_of_mem_filter he⟩

theorem live_of_not_ended {x : Launch} (h : x.ended = false) : x.state.live = true := by
  unfold Launch.ended at h
  unfold LaunchState.live
  split at h <;> simp_all

/-- CORD_PLACE ends a launch whose dependence is broken. -/
theorem exec_cordPlace_broken {p lid : Nat} {s : State} {l : Launch} (up : (s.part p).pstate ≠ 2) (test : s.underTest p = false)
    (first : s.launches.find? (fun e =>
      e.2.part = p && !e.2.ended && e.2.placedCords = 0 && e.2.state != .received && depBroken s e.2) = some (lid, l)) :
    exec (.cordPlace p) s = .next (abortLaunch s lid 0x40) := by
  have placed : placeStep s p = some (abortLaunch s lid 0x40) := by
    unfold placeStep
    rw [if_neg (by simp [up, test]), first]
  exact congrArg (fun o : Option State => Host.Outcome.next (o.getD s)) placed

end Sys2Proof.Machine
end

section
/-! The retirement of a group (O46): the barriers evaluated without it, and the tables that it leaves. -/

namespace Sys2Proof.Machine

/-! What the barriers leave (R186, R188). -/

/-- An update that a view of the values does not see. -/
theorem Tbl.upd_view {α β : Type} {l : List (Nat × α)} (rising : (l.map (·.1)).Pairwise (· < ·)) (n : Nat) {f : α → α} {view : α → β}
    (blind : ∀ x, view (f x) = view x) : (Tbl.upd l n f).map (fun e => (e.1, view e.2)) = l.map fun e => (e.1, view e.2) := by
  rw [Tbl.upd_eq_map rising, List.map_map]
  exact List.map_congr_left fun e _ => by by_cases h : e.1 = n <;> simp [h, blind]

theorem Tbl.view_keys {α β : Type} {l l' : List (Nat × α)} {view : α → β}
    (h : l'.map (fun e => (e.1, view e.2)) = l.map fun e => (e.1, view e.2)) : l'.map (·.1) = l.map (·.1) := by
  have keys := congrArg (List.map Prod.fst) h
  rwa [List.map_map, List.map_map] at keys

/-- The same groups of the same crews, the same crews of the same cords, and a launch on the same course. -/
structure SameBodies (lid : Nat) (s t : State) : Prop where
  groups : t.groups.map (fun e => (e.1, e.2.crew)) = s.groups.map fun e => (e.1, e.2.crew)
  crews : t.crews.map (fun e => (e.1, e.2.launch, e.2.cord)) = s.crews.map fun e => (e.1, e.2.launch, e.2.cord)
  dev : t.dev = s.dev
  outbound : t.outbound = s.outbound
  course : t.course lid = s.course lid

theorem SameBodies.refl (lid : Nat) (s : State) : SameBodies lid s s := ⟨rfl, rfl, rfl, rfl, rfl⟩

theorem SameBodies.ite {lid : Nat} {s t u : State} {p : Prop} [Decidable p] (h : SameBodies lid s t) (h' : SameBodies lid s u) :
    SameBodies lid s (if p then t else u) := by
  split
  · exact h
  · exact h'

section
variable {lid : Nat} {s t : State} (groups : (s.groups.map (·.1)).Pairwise (· < ·)) (crews : (s.crews.map (·.1)).Pairwise (· < ·))

section
variable (h : SameBodies lid s t)
include h

include groups in
theorem SameBodies.releaseWaiters (gh : Nat) (w : Wait) (scope : Nat) : SameBodies lid s (releaseWaiters t gh w scope) :=
  { h with
    groups := by
      have keys := Tbl.view_keys (view := Group.crew) h.groups
      refine Eq.trans ?_ h.groups
      exact Tbl.upd_view (view := Group.crew) (keys ▸ groups) gh fun _ => rfl }

include crews in
theorem SameBodies.updCrew (ch : Nat) {f : Crew → Crew} (hf : ∀ c, ((f c).launch, (f c).cord) = (c.launch, c.cord)) :
    SameBodies lid s (t.updCrew ch f) :=
  { h with
    crews := by
      have keys := Tbl.view_keys (view := fun c : Crew => (c.launch, c.cord)) h.crews
      exact (Tbl.upd_view (view := fun c : Crew => (c.launch, c.cord)) (keys ▸ crews) ch hf).trans h.crews }

theorem SameBodies.updLaunch {f : Launch → Launch} (hf : ∀ x, (f x).course = x.course) : SameBodies lid s (t.updLaunch lid f) :=
  { h with course := (updLaunch_course t hf).trans h.course }

include groups in
theorem SameBodies.releases (l : List (Nat × Group)) (w : Wait) (scope : Nat) :
    SameBodies lid s (l.foldl (fun s e => Machine.releaseWaiters s e.1 w scope) t) :=
  List.foldlRecOn (motive := SameBodies lid s) l _ h fun _ h e _ => h.releaseWaiters groups e.1 w scope

include groups crews

theorem SameBodies.barEval (crew b : Nat) : SameBodies lid s (barEval t crew b) := by
  unfold Machine.barEval
  split
  · exact h
  · dsimp only
    split
    · exact h
    · refine SameBodies.ite h (SameBodies.releases groups (h.updCrew crews crew ?_) ..)
      exact fun _ => rfl

theorem SameBodies.cbarEval (cord b : Nat) : SameBodies lid s (cbarEval t lid cord b) := by
  unfold Machine.cbarEval
  split
  · exact h
  · dsimp only
    split
    · exact h
    · refine List.foldlRecOn (motive := SameBodies lid s) _ _ (h.updLaunch fun _ => rfl) fun u h e _ => ?_
      refine SameBodies.releases groups (h.updCrew crews e.1 ?_) ..
      exact fun _ => rfl

end

/-- The barriers of a group's crew and cord, evaluated without it. -/
def barriersMet (s : State) (g : Group) : State :=
  (List.range 4).foldl (fun s b => cbarEval s g.launch g.cord b) ((List.range 16).foldl (fun s b => barEval s g.crew b) s)

include groups crews in
theorem barriersMet_same (g : Group) : SameBodies g.launch s (barriersMet s g) := by
  have crewMet := List.foldlRecOn (motive := SameBodies g.launch s) (List.range 16) (fun s b => barEval s g.crew b) (.refl ..)
    fun _ h b _ => h.barEval groups crews g.crew b
  exact List.foldlRecOn (motive := SameBodies g.launch s) _ _ crewMet fun _ h b _ => h.cbarEval groups crews g.cord b

end

/-! The retirement of a group (R198, R199). -/

theorem freeGroup_kept {s : State} {gh : Nat} {g : Group} (hg : s.group? gh = some g) :
    (freeGroup s gh).groups = Tbl.del s.groups gh ∧ (freeGroup s gh).crews = s.crews ∧ (freeGroup s gh).dev = s.dev
      ∧ (freeGroup s gh).outbound = s.outbound := by
  unfold freeGroup
  rw [hg]
  dsimp only
  split
  · exact ⟨rfl, rfl, rfl, rfl⟩
  · split <;> exact ⟨rfl, rfl, rfl, rfl⟩

/-- A crew that has no group any more is freed. -/
theorem freeCrew_kept {s : State} {ch : Nat} {c : Crew} (hc : s.crew? ch = some c) (none : s.groupsOf ch = []) :
    (freeCrew s ch).groups = s.groups ∧ (freeCrew s ch).crews = Tbl.del s.crews ch ∧ (freeCrew s ch).dev = s.dev
      ∧ ∀ o ∈ (freeCrew s ch).outbound, o ∈ s.outbound := by
  unfold freeCrew
  rw [hc, none]
  dsimp only [List.foldl_nil]
  split <;> exact ⟨rfl, rfl, rfl, fun _ ho => List.mem_of_mem_filter ho⟩

/-- What follows the end of a crew: with the cord's last crew the cord has retired, and with the last cord the launch ends. -/
def cordDone (s : State) (g : Group) : State :=
  if !(s.crewsOf g.launch g.cord).isEmpty then s
  else
    let s := s.updLaunch g.launch fun l => { l with retiredCords := l.retiredCords + 1 }
    if (s.launch? g.launch).any fun l => l.retiredCords = l.cords then closeLaunch s g.launch 0 [] else s

/-- What follows the end of a group: with the crew's last group the crew is freed. -/
def crewDone (s : State) (g : Group) : State :=
  if !(s.groupsOf g.crew).isEmpty then s else cordDone (freeCrew s g.crew) g

/-- The group is gone from its core. -/
def groupGone (s : State) (gh : Nat) (cr : Crew) : State := freeGroup (s.setCore cr.core { s.core cr.core with latches := [] }) gh

/-- With nothing to write back and no member at a latch. -/
theorem retireGroup_eq {s : State} {gh : Nat} {g : Group} {cr : Crew} (hg : s.group? gh = some g) (hcr : s.crew? g.crew = some cr)
    (quiet : noSinv s cr.core) (alone : (s.core cr.core).latches = []) :
    retireGroup s gh = crewDone (barriersMet (groupGone s gh cr) g) g := by
  obtain ⟨t, ht⟩ : ∃ t, t = barriersMet (groupGone s gh cr) g := ⟨_, rfl⟩
  unfold retireGroup
  simp only [hg, hcr, sinvWriteBack_noSinv quiet, alone, List.filter_nil, List.any_nil, List.map_nil, raiseGang, List.foldl_nil,
    Bool.false_eq_true, if_false]
  rw [← ht]
  dsimp only [barriersMet, groupGone] at ht
  rw [← ht]
  unfold crewDone cordDone
  dsimp only
  split
  · rfl
  · split
    · rfl
    · split
      · rename_i e
        simp only [e, Option.any_some, decide_eq_true_eq]
      · rename_i e
        simp only [e, Option.any_none, Bool.false_eq_true, if_false]

/-! The tables without the group. -/

theorem Tbl.isSome_iff_listed {α : Type} {l : List (Nat × α)} {n : Nat} : (Tbl.find? l n).isSome = true ↔ n ∈ l.map (·.1) := by
  constructor
  · intro h
    obtain ⟨x, hx⟩ := Option.isSome_iff_exists.mp h
    exact List.mem_map_of_mem (f := (·.1)) (Tbl.mem_of_find? hx)
  · induction l with
    | nil => exact fun h => absurd h List.not_mem_nil
    | cons p t ih =>
      intro h
      unfold Tbl.find?
      split
      · rfl
      · rename_i ne
        exact ih ((List.mem_cons.mp h).resolve_left (Ne.symm ne))

theorem Tbl.mem_del {α : Type} {l : List (Nat × α)} (once : (l.map (·.1)).Nodup) {n : Nat} {e : Nat × α} :
    e ∈ Tbl.del l n ↔ e ∈ l ∧ e.1 ≠ n := by
  constructor
  · intro h
    refine ⟨(Tbl.del_sublist l n).mem h, fun eq => ?_⟩
    have found := Tbl.find?_of_mem (Tbl.del_nodup once n) h
    rw [eq, Tbl.find?_del_same once] at found
    cases found
  · rintro ⟨h, ne⟩
    exact Tbl.mem_of_find? ((Tbl.find?_del_other l ne).trans (Tbl.find?_of_mem once h))

/-- What holds of every row, by what a view shows of it. -/
theorem Tbl.forall_view {α β : Type} {l l' : List (Nat × α)} {view : α → β}
    (h : l'.map (fun e => (e.1, view e.2)) = l.map fun e => (e.1, view e.2)) (P : Nat → β → Prop) :
    (∀ e ∈ l', P e.1 (view e.2)) ↔ ∀ e ∈ l, P e.1 (view e.2) := by
  have rows (l : List (Nat × α)) : (∀ p ∈ l.map (fun e => (e.1, view e.2)), P p.1 p.2) ↔ ∀ e ∈ l, P e.1 (view e.2) := List.forall_mem_map
  rw [← rows l', h, rows l]

theorem groupsOf_eq_nil {s : State} {ch : Nat} : s.groupsOf ch = [] ↔ ∀ e ∈ s.groups, e.2.crew ≠ ch := by
  unfold State.groupsOf
  simp only [List.filter_eq_nil_iff, decide_eq_true_eq, Ne]

theorem crewsOf_eq_nil {s : State} {lid cord : Nat} : s.crewsOf lid cord = [] ↔ ∀ e ∈ s.crews, ¬(e.2.launch = lid ∧ e.2.cord = cord) := by
  unfold State.crewsOf
  simp only [List.filter_eq_nil_iff, Bool.and_eq_true, decide_eq_true_eq]

theorem SameBodies.groupsOf {lid : Nat} {s t : State} (h : SameBodies lid s t) (ch : Nat) : t.groupsOf ch = [] ↔ s.groupsOf ch = [] := by
  rw [groupsOf_eq_nil, groupsOf_eq_nil]
  exact Tbl.forall_view (view := Group.crew) h.groups fun _ c => c ≠ ch

theorem SameBodies.trans {lid : Nat} {s t u : State} (h : SameBodies lid s t) (h' : SameBodies lid t u) : SameBodies lid s u :=
  ⟨h'.groups.trans h.groups, h'.crews.trans h.crews, h'.dev.trans h.dev, h'.outbound.trans h.outbound, h'.course.trans h.course⟩

/-- The state without a row of the groups' table. -/
def State.without (s : State) (gh : Nat) : State := { s with groups := Tbl.del s.groups gh }

theorem groupGone_same {s : State} {gh : Nat} {g : Group} (hg : s.group? gh = some g) (cr : Crew) (lid : Nat) :
    SameBodies lid (s.without gh) (groupGone s gh cr) := by
  obtain ⟨groups, crews, dev, outbound⟩ := freeGroup_kept (s := s.setCore cr.core { s.core cr.core with latches := [] }) hg
  exact ⟨congrArg _ groups, congrArg _ crews, dev, outbound, course_of_launches (freeGroup_launches ..)⟩

/-- The group is gone, and the barriers have been evaluated without it. -/
def groupRetired (s : State) (gh : Nat) (g : Group) (cr : Crew) : State := barriersMet (groupGone s gh cr) g

section
variable {s : State} {gh : Nat} {g : Group} (hg : s.group? gh = some g) (tidy : s.tidy) (cr : Crew)
include hg tidy

theorem groupRetired_same : SameBodies g.launch (s.without gh) (groupRetired s gh g cr) := by
  obtain ⟨groups, crews, -⟩ := tidy
  have gone := groupGone_same hg cr g.launch
  have groupKeys := Tbl.view_keys (view := Group.crew) gone.groups
  have crewKeys := Tbl.view_keys (view := fun c : Crew => (c.launch, c.cord)) gone.crews
  refine gone.trans (barriersMet_same ?_ ?_ g)
  · rw [groupKeys]
    exact groups.sublist ((Tbl.del_sublist s.groups gh).map _)
  · rw [crewKeys]
    exact crews

theorem groupRetired_group? : (groupRetired s gh g cr).group? gh = none := by
  have keys := Tbl.view_keys (view := Group.crew) (groupRetired_same hg tidy cr).groups
  obtain ⟨groups, -⟩ := tidy
  refine Tbl.find?_unlisted fun listed => ?_
  rw [keys] at listed
  have some := Tbl.isSome_iff_listed.mpr listed
  rw [show Tbl.find? (s.without gh).groups gh = none from Tbl.find?_del_same (nodup_of_rising groups) gh] at some
  cases some

theorem groupRetired_crew? {c : Crew} (hc : s.crew? g.crew = some c) : ((groupRetired s gh g cr).crew? g.crew).isSome = true := by
  have keys := Tbl.view_keys (view := fun c : Crew => (c.launch, c.cord)) (groupRetired_same hg tidy cr).crews
  refine Tbl.isSome_iff_listed.mpr ?_
  rw [keys]
  exact Tbl.isSome_iff_listed.mp (Option.isSome_of_eq_some hc)

theorem groupRetired_groupsOf : (groupRetired s gh g cr).groupsOf g.crew = [] ↔ ∀ e ∈ s.groups, e.1 ≠ gh → e.2.crew ≠ g.crew := by
  rw [(groupRetired_same hg tidy cr).groupsOf, groupsOf_eq_nil]
  obtain ⟨groups, -⟩ := tidy
  simp only [State.without, Tbl.mem_del (nodup_of_rising groups), and_imp]

end

/-! With the crew's last group (R198). -/

section
variable {s : State} {g : Group}

theorem crewDone_more (more : s.groupsOf g.crew ≠ []) : crewDone s g = s := if_pos (by simpa using more)

theorem crewDone_last (none : s.groupsOf g.crew = []) : crewDone s g = cordDone (freeCrew s g.crew) g := if_neg (by simp [none])

end

/-- The crew is gone with its last group. -/
structure CrewGone (s t : State) (g : Group) : Prop where
  groups : t.groups = s.groups
  crews : t.crews = Tbl.del s.crews g.crew
  dev : t.dev = s.dev
  outbound : ∀ o ∈ t.outbound, o ∈ s.outbound
  course : t.course g.launch = s.course g.launch

theorem freeCrew_gone {s : State} {g : Group} {c : Crew} (hc : s.crew? g.crew = some c) (none : s.groupsOf g.crew = []) :
    CrewGone s (freeCrew s g.crew) g := by
  obtain ⟨groups, crews, dev, outbound⟩ := freeCrew_kept hc none
  exact ⟨groups, crews, dev, outbound, course_of_launches (freeCrew_launches ..)⟩

end Sys2Proof.Machine
end

section
/-! The retirement of a cord and of its launch (O46), which leave the tables of groups and crews as they stand. -/

namespace Sys2Proof.Machine

/-- No group of a handle, and the same crews. -/
def Vacant (gh : Nat) (crews : List (Nat × Crew)) (s : State) : Prop := s.group? gh = none ∧ s.crews = crews

section
variable {gh : Nat} {crews : List (Nat × Crew)} {s : State} (h : Vacant gh crews s)
include h

theorem Vacant.of_eq {t : State} (groups : t.groups = s.groups) (same : t.crews = s.crews) : Vacant gh crews t :=
  ⟨(congrArg (Tbl.find? · gh) groups).trans h.1, same.trans h.2⟩

theorem Vacant.updLaunch (lid : Nat) (f : Launch → Launch) : Vacant gh crews (s.updLaunch lid f) := h

theorem Vacant.updSplit (r : SplitRef) (f : Split → Split) : Vacant gh crews (s.updSplit r f) := by
  obtain ⟨absent, same⟩ := h
  refine ⟨?_, same⟩
  by_cases e : gh = r.group
  · subst e
    exact (State.updGroup_group? ..).trans (by rw [absent]; rfl)
  · exact (State.updGroup_group?_other _ _ e).trans absent

theorem Vacant.childToken (r : SplitRef) (reg : Nat) (v : W64) : Vacant gh crews (childToken s r reg v) := by
  unfold Machine.childToken
  dsimp only
  split
  · exact (h.updSplit ..).updSplit ..
  · exact h.updSplit ..

theorem Vacant.addWord (lid : Nat) (w : W64) : Vacant gh crews (addWord s lid w) := by
  have told := addWord_docket (lid := lid) s w
  exact h.of_eq (congrArg (fun d => d.2.1) told) (congrArg (fun d => d.2.2) told)

theorem Vacant.endLaunch (lid code : Nat) : Vacant gh crews (endLaunch s lid code) := by
  unfold Machine.endLaunch
  split
  · exact h
  · dsimp only
    split
    case h_4 =>
      split
      · exact Vacant.childToken (h.updLaunch ..) ..
      · exact Vacant.addWord (h.updLaunch ..) ..
    all_goals exact h

theorem Vacant.tryClose (lid : Nat) : Vacant gh crews (tryClose s lid) := by
  unfold Machine.tryClose
  split
  · exact h
  · split
    · exact h
    · rename_i x _ _ code cores _
      have written : (Res.forEach s (fun s core => sinvWriteBack s x.part core) cores).leaves s.aside :=
        Res.forEach_leaves rfl (fun _ _ h => sinvWriteBack_leaves h ..) _
      have still {t : State} (e : t.aside = s.aside) : Vacant gh crews t := h.of_eq (congrArg Aside.groups e) (congrArg Aside.crews e)
      split
      · rename_i e; rw [e] at written
        exact still written
      · rename_i e; rw [e] at written
        split
        · exact still written
        · exact Vacant.endLaunch ((still written).updLaunch ..) ..

theorem Vacant.closeLaunch (lid code : Nat) (cores : List Nat) : Vacant gh crews (closeLaunch s lid code cores) :=
  Vacant.tryClose (h.updLaunch ..) lid

end

/-! The end of a cord (R198). -/

/-- One more cord of the launch has retired. -/
def cordCounted (s : State) (lid : Nat) : State := s.updLaunch lid fun l => { l with retiredCords := l.retiredCords + 1 }

section
variable {s : State} {g : Group}

theorem cordDone_more (more : s.crewsOf g.launch g.cord ≠ []) : cordDone s g = s := if_pos (by simpa using more)

theorem cordDone_last {l : Launch} (none : s.crewsOf g.launch g.cord = []) (hl : s.launch? g.launch = some l) :
    cordDone s g = if l.retiredCords + 1 = l.cords then closeLaunch (cordCounted s g.launch) g.launch 0 [] else cordCounted s g.launch := by
  unfold cordDone
  rw [if_neg (by simp [none])]
  dsimp only
  rw [updLaunch_launch? hl, Option.any_some]
  exact ite_congr (propext decide_eq_true_iff) (fun _ => rfl) fun _ => rfl

theorem Vacant.cordDone {gh : Nat} {crews : List (Nat × Crew)} {l : Launch} (h : Vacant gh crews s) (hl : s.launch? g.launch = some l) :
    Vacant gh crews (cordDone s g) := by
  by_cases none : s.crewsOf g.launch g.cord = []
  · have counted : Vacant gh crews (cordCounted s g.launch) := h.updLaunch ..
    rw [cordDone_last none hl]
    split
    · exact counted.closeLaunch ..
    · exact counted
  · rw [cordDone_more none]
    exact h

variable {x : Launch} (hx : s.launch? g.launch = some x) (none : s.crewsOf g.launch g.cord = [])
include hx none

/-- The cord counts as retired. -/
theorem cordDone_retired : (cordDone s g).retired? g.launch = some (x.retiredCords + 1) := by
  have counted : (cordCounted s g.launch).retired? g.launch = some (x.retiredCords + 1) := by
    rw [State.retired?, cordCounted, course_of_launch (updLaunch_launch? hx _)]
    rfl
  rw [cordDone_last none hx]
  split
  · exact (closeLaunch_retired ..).trans counted
  · exact counted

/-- The launch is done with its last cord, and otherwise goes on. -/
theorem cordDone_state (live : x.state.live = true) (opened : x.closing = .none) (made : s.unreleased g.launch x = false) :
    ((cordDone s g).launch? g.launch).map (·.state) = some (if x.retiredCords + 1 = x.cords then .done else x.state) := by
  have counted : (cordCounted s g.launch).launch? g.launch = some { x with retiredCords := x.retiredCords + 1 } := updLaunch_launch? hx _
  rw [cordDone_last none hx]
  split
  · exact state_of_course (closeLaunch_ends counted live opened made 0)
  · rw [counted]
    rfl

end

/-! GROUP_RETIRE, put together (R198). -/

theorem unreleased_congr (s : State) (lid : Nat) {x y : Launch} (h : y.course = x.course) : s.unreleased lid y = s.unreleased lid x := by
  unfold State.unreleased
  rw [show y.part = x.part from congrArg Course.part h, show y.tenant = x.tenant from congrArg Course.tenant h]

theorem canRetire_of {s : State} {gh : Nat} {g : Group} {cr : Crew} (hg : s.group? gh = some g) (hcr : s.crew? g.crew = some cr)
    (exited : g.alive = 0) (here : cr.saved = false) (idle : s.busyGroup gh = false)
    (unchecked : ∀ p ∈ s.dev.pairs, ∀ e ∈ p.2.gate, e.split.group ≠ gh) : s.canRetire gh = true := by
  have gates : (s.dev.pairs.all fun p => p.2.gate.all fun e => e.split.group != gh) = true :=
    List.all_eq_true.mpr fun p hp => List.all_eq_true.mpr fun e he => bne_iff_ne.mpr (unchecked p hp e he)
  simp [State.canRetire, hg, hcr, exited, here, idle, gates]

theorem exec_groupRetire {s : State} {gh : Nat} {g : Group} {cr : Crew} (hg : s.group? gh = some g) (hcr : s.crew? g.crew = some cr)
    (can : s.canRetire gh = true) (quiet : noSinv s cr.core) (alone : (s.core cr.core).latches = []) :
    exec (.groupRetire gh) s = .next (crewDone (groupRetired s gh g cr) g) :=
  congrArg Host.Outcome.next ((if_pos can).trans (retireGroup_eq hg hcr quiet alone))

section
variable {s : State} {gh : Nat} {g : Group} {cr : Crew} (hg : s.group? gh = some g) (hcr : s.crew? g.crew = some cr) (tidy : s.tidy)
include hg hcr tidy

/-- With the crew's last group the crew is freed; its cord and its launch are still as they were. -/
theorem crewFreed (last : ∀ e ∈ s.groups, e.1 ≠ gh → e.2.crew ≠ g.crew) :
    ∃ v, crewDone (groupRetired s gh g cr) g = cordDone v g ∧ v.group? gh = none ∧ v.crew? g.crew = none
      ∧ v.course g.launch = s.course g.launch
      ∧ ((∀ e ∈ s.crews, e.1 ≠ g.crew → ¬(e.2.launch = g.launch ∧ e.2.cord = g.cord)) → v.crewsOf g.launch g.cord = [])
      ∧ ∀ x, s.unreleased g.launch x = false → v.unreleased g.launch x = false := by
  have same := groupRetired_same hg tidy cr
  have none := (groupRetired_groupsOf hg tidy cr).mpr last
  have crewKeys := Tbl.view_keys (view := fun c : Crew => (c.launch, c.cord)) same.crews
  have once : ((groupRetired s gh g cr).crews.map (·.1)).Nodup := by
    rw [crewKeys]
    exact nodup_of_rising tidy.2.1
  obtain ⟨c, hc⟩ := Option.isSome_iff_exists.mp (groupRetired_crew? hg tidy cr hcr)
  have gone := freeCrew_gone hc none
  refine ⟨_, crewDone_last none, ?_, ?_, gone.course.trans same.course, fun others => ?_, fun x made => ?_⟩
  · exact (congrArg (Tbl.find? · gh) gone.groups).trans (groupRetired_group? hg tidy cr)
  · exact (congrArg (Tbl.find? · g.crew) gone.crews).trans (Tbl.find?_del_same once _)
  · rw [crewsOf_eq_nil, gone.crews]
    intro e he
    obtain ⟨mem, ne⟩ := (Tbl.mem_del once).mp he
    exact (Tbl.forall_view (view := fun c : Crew => (c.launch, c.cord)) same.crews
      fun k c => k ≠ g.crew → ¬(c.1 = g.launch ∧ c.2 = g.cord)).mpr others e mem ne
  · refine unreleased_mono (fun p hp => ⟨p, ?_, fun _ he => he⟩) (fun o ho => ?_) made
    · rw [gone.dev, same.dev] at hp
      exact hp
    · have kept := gone.outbound o ho
      rw [same.outbound] at kept
      exact kept

end

end Sys2Proof.Machine
end


section
/-! What the distributor does (O46), put together. -/

namespace Sys2Proof.Machine

/-- CANDIDATE_BLOCKING of a launch that is a candidate (R384). -/
theorem exec_candidateBlocking {lid : Nat} {s : State} {l : Launch} (hl : s.launch? lid = some l) (waits : isCandidate s l = true) :
    exec (.candidateBlocking lid) s = .next (s.updLaunch lid fun l => { l with blocking := true }) := by
  have blocks : execCandidateBlocking lid s = .next (s.updLaunch lid fun l => { l with blocking := true }) := by
    unfold execCandidateBlocking
    rw [hl]
    dsimp only
    rw [if_pos waits]
  exact blocks

/-- Settles O46: a cord that fits is placed crew by crew and group by group (`crewsPlaced_laid`), a launch whose dependence is broken fails at
once (`abortLaunch_failed`), and a group that is done leaves the tables (`groupRetired_same`) with its crew (`crewFreed`), its cord and its
launch (`cordDone_retired`, `cordDone_state`). -/
theorem placementAndRetirement : Obligations.PlacementAndRetirement := by
  unfold Obligations.PlacementAndRetirement
  refine ⟨?fits, ?broken, fun _ _ _ hl waits => exec_candidateBlocking hl waits, ?retires⟩
  case fits =>
    intro p lid s l rest im cores up test whole first hl img level slots place part _ some wide reach next
    have room := cordPlace_length place
    have fills : Fills l im l.placedCords := ⟨some, wide, reach⟩
    obtain ⟨adds, laid⟩ := crewsPlaced_laid fills room s lid
    refine ⟨_, (exec_cordPlace_fits up test whole first img level slots place part).trans (congrArg _ (commitCord_eq fills room next)),
      ⟨_, updLaunch_launch? ((congrArg (Tbl.find? · lid) adds.launches).trans hl) _, rfl⟩, room, fun i c hc => ?_,
      fun h old => ⟨adds.crew h old, adds.group h old⟩⟩
    obtain ⟨h, -, found, begun⟩ := laid (c, i) (List.mk_mem_zipIdx_iff_getElem?.mpr hc)
    refine ⟨h, _, found, rfl, rfl, rfl, rfl, rfl, rfl, rfl, rfl, rfl, rfl, fun n hn => ?_⟩
    obtain ⟨gh, g, -, found, started⟩ := begun n hn
    exact ⟨gh, g, found, started⟩
  case broken =>
    intro p lid s l up test first hl opened absent made
    have mine := List.find?_some first
    simp only [Bool.and_eq_true, Bool.not_eq_true'] at mine
    obtain ⟨⟨⟨⟨-, going⟩, -⟩, -⟩, -⟩ := mine
    exact ⟨_, exec_cordPlace_broken up test first, abortLaunch_failed hl (live_of_not_ended going) opened absent made⟩
  case retires =>
    intro gh s g cr l hg hcr hl exited here idle unchecked tidy alone quiet _ _
    have run := exec_groupRetire hg hcr (canRetire_of hg hcr exited here idle unchecked) quiet alone
    by_cases last : ∀ e ∈ s.groups, e.1 ≠ gh → e.2.crew ≠ g.crew
    · obtain ⟨v, same, absent, crewAbsent, course, lastCrew, released⟩ := crewFreed hg hcr tidy last
      obtain ⟨x, hx, xl⟩ := launch_of_course (course.trans (course_of_launch hl))
      obtain ⟨absent, crews⟩ := Vacant.cordDone ⟨absent, rfl⟩ hx
      rw [same] at run
      refine ⟨_, run, absent, fun ⟨e, he, ne, crew⟩ => absurd crew (last e he ne), fun _ =>
        ⟨(congrArg (Tbl.find? · g.crew) crews).trans crewAbsent, fun others => ?_⟩⟩
      have none := lastCrew others
      obtain ⟨y, hy, retired⟩ := launch_of_retired (cordDone_retired hx none)
      have retiredCords : x.retiredCords = l.retiredCords := congrArg Course.retiredCords xl
      have cords : x.cords = l.cords := congrArg Course.cords xl
      have state : x.state = l.state := congrArg Course.state xl
      have closing : x.closing = l.closing := congrArg Course.closing xl
      refine ⟨y, hy, retired.trans (by rw [retiredCords]), fun live opened made => ?_⟩
      have ends := cordDone_state hx none (state ▸ live) (closing.trans opened)
        ((unreleased_congr v g.launch xl).trans (released l made))
      rw [hy, retiredCords, cords, state] at ends
      exact Option.some.inj ends
    · have more : (groupRetired s gh g cr).groupsOf g.crew ≠ [] := fun none => last ((groupRetired_groupsOf hg tidy cr).mp none)
      rw [crewDone_more more] at run
      refine ⟨_, run, groupRetired_group? hg tidy cr, fun _ => ⟨groupRetired_crew? hg tidy cr hcr, ?_⟩, fun h => absurd h last⟩
      exact state_of_course ((groupRetired_same hg tidy cr).course.trans (course_of_launch hl))

end Sys2Proof.Machine
end


section
/-! The values of magnitude codes, and the code that rounding starts from (R228, R235). -/

namespace Sys2Proof.Machine

/-- A fraction of naturals scaled by a power of two (R235). -/
theorem scaleRat_value (n : Nat) {d : Nat} (hd : 0 < d) (e : Int) :
    0 < (scaleRat n d e).2 ∧ ((scaleRat n d e).1 : Rat) / (scaleRat n d e).2 = n / d * 2 ^ e := by
  unfold scaleRat
  split
  · next h =>
    obtain ⟨k, rfl⟩ := Int.eq_ofNat_of_zero_le h
    refine ⟨hd, ?_⟩
    push_cast [Int.toNat_natCast, zpow_natCast]
    ring
  · next h =>
    obtain ⟨k, hk⟩ := Int.eq_ofNat_of_zero_le (show 0 ≤ -e by omega)
    obtain rfl : e = -k := by omega
    refine ⟨by positivity, ?_⟩
    push_cast [neg_neg, Int.toNat_natCast, zpow_neg, zpow_natCast]
    field_simp

/-- The test of `ratLog2`: a power of two is at most a fraction. -/
theorem pow_le_ratio_iff (n : Nat) {d : Nat} (hd : 0 < d) (k : Int) :
    (if 0 ≤ k then decide (d * 2 ^ k.toNat ≤ n) else decide (d ≤ n * 2 ^ (-k).toNat)) = true ↔ (2 : Rat) ^ k ≤ n / d := by
  rw [le_div_iff₀ (by exact_mod_cast hd)]
  split
  · next h =>
    obtain ⟨j, rfl⟩ := Int.eq_ofNat_of_zero_le h
    rw [decide_eq_true_iff, Int.toNat_natCast, zpow_natCast, mul_comm]
    exact_mod_cast Iff.rfl
  · next h =>
    obtain ⟨j, hj⟩ := Int.eq_ofNat_of_zero_le (show 0 ≤ -k by omega)
    obtain rfl : k = -j := by omega
    rw [decide_eq_true_iff, neg_neg, Int.toNat_natCast, zpow_neg, zpow_natCast, inv_mul_le_iff₀ (by positivity), mul_comm]
    exact_mod_cast Iff.rfl

/-- A number between its power of two and the next. -/
theorem log2_bounds {n : Nat} (hn : 0 < n) : (2 : Rat) ^ (Nat.log2 n : Int) ≤ n ∧ (n : Rat) < 2 ^ ((Nat.log2 n : Int) + 1) :=
  ⟨by exact_mod_cast Nat.log2_self_le hn.ne', by exact_mod_cast Nat.lt_log2_self⟩

/-- `ratLog2` is the floor of the logarithm. -/
theorem ratLog2_bounds {n d : Nat} (hn : 0 < n) (hd : 0 < d) :
    (2 : Rat) ^ ratLog2 n d ≤ n / d ∧ (n : Rat) / d < 2 ^ (ratLog2 n d + 1) := by
  have hd' : (0 : Rat) < d := by exact_mod_cast hd
  obtain ⟨n_lo, n_hi⟩ := log2_bounds hn
  obtain ⟨d_lo, d_hi⟩ := log2_bounds hd
  unfold ratLog2
  generalize hk : (Nat.log2 n : Int) - Nat.log2 d = k
  have above : (n : Rat) / d < 2 ^ (k + 1) := by
    rw [div_lt_iff₀ hd']
    calc (n : Rat) < 2 ^ ((Nat.log2 n : Int) + 1) := n_hi
      _ = 2 ^ (k + 1) * 2 ^ (Nat.log2 d : Int) := by rw [← zpow_add₀ (by norm_num)]; congr 1; omega
      _ ≤ 2 ^ (k + 1) * d := by gcongr
  have below : (2 : Rat) ^ (k - 1) ≤ n / d := by
    rw [le_div_iff₀ hd']
    calc (2 : Rat) ^ (k - 1) * d ≤ 2 ^ (k - 1) * 2 ^ ((Nat.log2 d : Int) + 1) := by gcongr
      _ = 2 ^ (Nat.log2 n : Int) := by rw [← zpow_add₀ (by norm_num)]; congr 1; omega
      _ ≤ n := n_lo
  by_cases ge : (2 : Rat) ^ k ≤ n / d
  · simp only [(pow_le_ratio_iff n hd k).mpr ge, if_true]
    exact ⟨ge, above⟩
  · simp only [mt (pow_le_ratio_iff n hd k).mp ge, if_false, Bool.false_eq_true, sub_add_cancel]
    exact ⟨below, lt_of_not_ge ge⟩

/-! Magnitude codes: binade after binade of equally spaced values. -/

/-- A code's significand and exponent. -/
theorem mag_fin (f : FFmt) (c : Nat) : ∃ m e, (∀ neg, f.mag neg c = .fin neg m e) ∧ f.codeValue c = m * (2 : Rat) ^ e := by
  unfold FFmt.codeValue FFmt.mag
  by_cases h : c / 2 ^ (f.prec - 1) = 0
  · exact ⟨_, _, fun _ => if_pos h, by simp only [h, if_true]⟩
  · exact ⟨_, _, fun _ => if_neg h, by simp only [h, if_false]⟩

/-- Below the first normal code the significand is the code (R228). -/
theorem codeValue_subnormal (f : FFmt) {c : Nat} (hc : c < 2 ^ (f.prec - 1)) : f.codeValue c = c * (2 : Rat) ^ (f.emin - (f.prec - 1)) := by
  simp only [FFmt.codeValue, FFmt.mag, Nat.div_eq_of_lt hc, Nat.mod_eq_of_lt hc, if_true]

/-- Each block of `2 ^ (prec - 1)` codes after the first is a binade, with a leading one (R228). -/
theorem codeValue_normal (f : FFmt) (t : Nat) {m : Nat} (hm : m < 2 ^ (f.prec - 1)) :
    f.codeValue ((t + 1) * 2 ^ (f.prec - 1) + m) = (2 ^ (f.prec - 1) + m) * (2 : Rat) ^ (f.emin + t - (f.prec - 1)) := by
  have quo : ((t + 1) * 2 ^ (f.prec - 1) + m) / 2 ^ (f.prec - 1) = t + 1 := by
    rw [Nat.mul_comm, Nat.mul_add_div (by positivity), Nat.div_eq_of_lt hm, Nat.add_zero]
  have rem : ((t + 1) * 2 ^ (f.prec - 1) + m) % 2 ^ (f.prec - 1) = m := by
    rw [Nat.mul_comm, Nat.mul_add_mod, Nat.mod_eq_of_lt hm]
  simp only [FFmt.codeValue, FFmt.mag, quo, rem, Nat.add_eq_zero_iff, one_ne_zero, and_false, if_false]
  push_cast
  rw [add_sub_cancel_right]

/-- A code by its binade `t` (0 for the subnormal values too) and its significand; the significand may be the first of the next binade. -/
theorem codeValue_binade (f : FFmt) {t m : Nat} (hm : m ≤ 2 * 2 ^ (f.prec - 1)) (ht : t = 0 ∨ 2 ^ (f.prec - 1) ≤ m) :
    f.codeValue (t * 2 ^ (f.prec - 1) + m) = m * (2 : Rat) ^ (f.emin + t - (f.prec - 1)) := by
  rcases lt_or_ge m (2 ^ (f.prec - 1)) with low | high
  · obtain rfl : t = 0 := by omega
    simpa using codeValue_subnormal f low
  · obtain ⟨k, rfl⟩ := Nat.exists_eq_add_of_le high
    rcases lt_or_eq_of_le (show k ≤ 2 ^ (f.prec - 1) by omega) with inside | rfl
    · have value := codeValue_normal f t inside
      rw [add_one_mul, add_assoc] at value
      exact_mod_cast value
    · have value := codeValue_normal f (t + 1) (m := 0) (by positivity)
      rw [show (t + 1 + 1) * 2 ^ (f.prec - 1) + 0 = t * 2 ^ (f.prec - 1) + (2 ^ (f.prec - 1) + 2 ^ (f.prec - 1)) by ring] at value
      rw [value, show f.emin + ((t + 1 : Nat) : Int) - (f.prec - 1) = f.emin + t - (f.prec - 1) + 1 by push_cast; ring, zpow_add_one₀ (by norm_num)]
      push_cast
      ring

/-- Each code has a binade and a significand in it. -/
theorem code_binade (f : FFmt) (c : Nat) :
    ∃ t m, c = t * 2 ^ (f.prec - 1) + m ∧ m < 2 * 2 ^ (f.prec - 1) ∧ (t = 0 ∨ 2 ^ (f.prec - 1) ≤ m) := by
  have half_pos : 0 < 2 ^ (f.prec - 1) := by positivity
  have split := Nat.div_add_mod' c (2 ^ (f.prec - 1))
  have small := Nat.mod_lt c half_pos
  cases e : c / 2 ^ (f.prec - 1) with
  | zero => exact ⟨0, c, by simp, by rw [e] at split; omega, .inl rfl⟩
  | succ t => exact ⟨t, 2 ^ (f.prec - 1) + c % 2 ^ (f.prec - 1), by rw [e] at split; linarith, by omega, .inr (by omega)⟩

theorem codeValue_strictMono (f : FFmt) : StrictMono f.codeValue := by
  refine strictMono_nat_of_lt_succ fun c => ?_
  obtain ⟨t, m, rfl, hm, ht⟩ := code_binade f c
  rw [add_assoc, codeValue_binade f hm.le ht, codeValue_binade f hm (ht.imp_right Nat.le_succ_of_le)]
  gcongr
  exact m.lt_succ_self

/-! The floor of a value among the codes (R235 step 1). -/

/-- A fraction is a whole number and a rest below one, and comparisons of the remainder are comparisons of the rest. -/
theorem div_rest (a : Nat) {b : Nat} (hb : 0 < b) :
    (a : Rat) / b = (a / b : Nat) + (a % b : Nat) / b ∧ 0 ≤ ((a % b : Nat) : Rat) / b ∧ ((a % b : Nat) : Rat) / b < 1
      ∧ ((a % b != 0) = true ↔ 0 < ((a % b : Nat) : Rat) / b)
      ∧ (compare (2 * (a % b)) b = .lt ↔ 2 * (((a % b : Nat) : Rat) / b) < 1)
      ∧ (compare (2 * (a % b)) b = .eq ↔ 2 * (((a % b : Nat) : Rat) / b) = 1) := by
  have hb' : (0 : Rat) < b := by exact_mod_cast hb
  refine ⟨?parts, by positivity, ?small, ?some, ?below, ?middle⟩
  case parts =>
    rw [div_eq_iff hb'.ne', add_mul, div_mul_cancel₀ _ hb'.ne']
    exact_mod_cast (Nat.div_add_mod' a b).symm
  case small =>
    rw [div_lt_one hb']
    exact_mod_cast Nat.mod_lt a hb
  case some => rw [bne_iff_ne, ← Nat.pos_iff_ne_zero, div_pos_iff_of_pos_right hb', Nat.cast_pos]
  case below =>
    rw [Nat.compare_eq_lt, ← mul_div_assoc, div_lt_one hb']
    exact_mod_cast Iff.rfl
  case middle =>
    rw [Nat.compare_eq_eq, ← mul_div_assoc, div_eq_one_iff_eq hb'.ne']
    exact_mod_cast Iff.rfl

section
variable {f : FFmt} (hp : 1 ≤ f.prec) {n d : Nat} (hn : 0 < n) (hd : 0 < d) (e : Int)
include hp hn hd

/-- The whole part of a value in units of `2 ^ q`: it has at most `prec` bits if `q` leaves room for its leading bit, and at least
`prec` if `q` is no higher than that. -/
theorem scaleRat_quotient (q : Int) :
    (ratLog2 n d + e ≤ q + (f.prec - 1) → (scaleRat n d (e - q)).1 / (scaleRat n d (e - q)).2 < 2 * 2 ^ (f.prec - 1))
      ∧ (q + (f.prec - 1) ≤ ratLog2 n d + e → 2 ^ (f.prec - 1) ≤ (scaleRat n d (e - q)).1 / (scaleRat n d (e - q)).2) := by
  obtain ⟨log_lo, log_hi⟩ := ratLog2_bounds hn hd
  obtain ⟨b_pos, value⟩ := scaleRat_value n hd (e - q)
  generalize scaleRat n d (e - q) = r at *
  have b_pos' : (0 : Rat) < r.2 := by exact_mod_cast b_pos
  refine ⟨fun room => ?_, fun reach => ?_⟩
  · have : (r.1 : Rat) / r.2 < 2 * 2 ^ (f.prec - 1) := by
      calc (r.1 : Rat) / r.2 = n / d * 2 ^ (e - q) := value
        _ < 2 ^ (ratLog2 n d + 1) * 2 ^ (e - q) := by gcongr
        _ = 2 ^ (ratLog2 n d + 1 + (e - q)) := (zpow_add₀ (by norm_num) _ _).symm
        _ ≤ 2 ^ (((f.prec - 1 : Nat) : Int) + 1) := zpow_le_zpow_right₀ (by norm_num) (by omega)
        _ = 2 * 2 ^ (f.prec - 1) := by rw [zpow_add_one₀ (by norm_num), zpow_natCast, mul_comm]
    rw [div_lt_iff₀ b_pos'] at this
    rw [Nat.div_lt_iff_lt_mul b_pos]
    exact_mod_cast this
  · have : (2 : Rat) ^ (f.prec - 1) ≤ r.1 / r.2 := by
      calc (2 : Rat) ^ (f.prec - 1) = 2 ^ ((f.prec - 1 : Nat) : Int) := (zpow_natCast _ _).symm
        _ ≤ 2 ^ (ratLog2 n d + (e - q)) := zpow_le_zpow_right₀ (by norm_num) (by omega)
        _ = 2 ^ ratLog2 n d * 2 ^ (e - q) := zpow_add₀ (by norm_num) _ _
        _ ≤ n / d * 2 ^ (e - q) := by gcongr
        _ = r.1 / r.2 := value.symm
    rw [le_div_iff₀ b_pos'] at this
    rw [Nat.le_div_iff_mul_le b_pos]
    exact_mod_cast this

/-- `floorCode` finds the binade `t` of a value, which it holds as `a / b` units of that binade. -/
theorem floorCode_eq :
    ∃ t a b : Nat, 0 < b ∧ f.floorCode n d e = (t * 2 ^ (f.prec - 1) + a / b, a % b != 0, compare (2 * (a % b)) b)
      ∧ (n : Rat) / d * 2 ^ e = a / b * 2 ^ (f.emin + t - (f.prec - 1))
      ∧ a / b < 2 * 2 ^ (f.prec - 1) ∧ (t = 0 ∨ 2 ^ (f.prec - 1) ≤ a / b) := by
  obtain ⟨t, ht⟩ := Int.eq_ofNat_of_zero_le (show 0 ≤ max (ratLog2 n d + e) f.emin - f.emin by omega)
  obtain ⟨q, hq⟩ : ∃ q, q = f.emin + t - (f.prec - 1) := ⟨_, rfl⟩
  have exponent : max (ratLog2 n d + e) f.emin - (f.prec - 1) = q := by omega
  obtain ⟨b_pos, value⟩ := scaleRat_value n hd (e - q)
  obtain ⟨below, above⟩ := scaleRat_quotient hp hn hd e q
  refine ⟨t, (scaleRat n d (e - q)).1, (scaleRat n d (e - q)).2, b_pos, ?_, ?_, below (by omega),
    or_iff_not_imp_left.mpr fun up => above (by omega)⟩
  · simp only [FFmt.floorCode, exponent, ht, Int.toNat_natCast]
  · rw [value, mul_assoc, ← hq, ← zpow_add₀ (by norm_num), sub_add_cancel]

/-- A value lies at or above the code that rounding starts from and below the next; what the rest says of the lower code and of the midpoint
is exact (R235 step 1). -/
theorem floorCode_exact :
    let x : Rat := (n : Rat) / d * (2 : Rat) ^ e
    let r := f.floorCode n d e
    f.codeValue r.1 ≤ x ∧ x < f.codeValue (r.1 + 1) ∧ (r.2.1 = true ↔ f.codeValue r.1 < x)
      ∧ (r.2.2 = .lt ↔ 2 * x < f.codeValue r.1 + f.codeValue (r.1 + 1)) ∧ (r.2.2 = .eq ↔ 2 * x = f.codeValue r.1 + f.codeValue (r.1 + 1)) := by
  obtain ⟨t, a, b, b_pos, code, value, hi, lo⟩ := floorCode_eq hp hn hd e
  have unit_pos : (0 : Rat) < 2 ^ (f.emin + t - (f.prec - 1)) := by positivity
  obtain ⟨parts, rest_nonneg, rest_lt, inexact, below, middle⟩ := div_rest a b_pos
  intro x r
  have hx : x = ((a / b : Nat) + (a % b : Nat) / b) * (2 : Rat) ^ (f.emin + t - (f.prec - 1)) := parts ▸ value
  have lower : f.codeValue r.1 = (a / b : Nat) * (2 : Rat) ^ (f.emin + t - (f.prec - 1)) := by
    rw [show r.1 = t * 2 ^ (f.prec - 1) + a / b from congrArg Prod.fst code, codeValue_binade f hi.le lo]
  have upper : f.codeValue (r.1 + 1) = ((a / b : Nat) + 1) * (2 : Rat) ^ (f.emin + t - (f.prec - 1)) := by
    rw [show r.1 = t * 2 ^ (f.prec - 1) + a / b from congrArg Prod.fst code, add_assoc, codeValue_binade f hi (lo.imp_right Nat.le_succ_of_le)]
    push_cast
    rfl
  rw [show r.2.1 = (a % b != 0) from congrArg (·.2.1) code, show r.2.2 = compare (2 * (a % b)) b from congrArg (·.2.2) code, inexact, below,
    middle, lower, upper, hx, ← mul_assoc, ← add_mul]
  rw [mul_le_mul_iff_left₀ unit_pos, mul_lt_mul_iff_left₀ unit_pos, mul_lt_mul_iff_left₀ unit_pos, mul_lt_mul_iff_left₀ unit_pos,
    mul_left_inj' unit_pos.ne']
  generalize ((a % b : Nat) : Rat) / b = rest at *
  generalize ((a / b : Nat) : Rat) = whole at *
  exact ⟨by linarith, by linarith, (lt_add_iff_pos_right _).symm, ⟨fun h => by linarith, fun h => by linarith⟩,
    ⟨fun h => by linarith, fun h => by linarith⟩⟩

end

/-! Values that a format holds (R228, R232). -/

/-- An IEEE format: signed, with infinities, and with every code below them finite (Table 9.1). -/
structure FFmt.Ieee (f : FFmt) : Prop where
  ieee : f.b8 = false
  signed : f.signed = true
  hasInf : f.hasInf = true
  prec : 2 ≤ f.prec
  width : f.prec < f.width
  maxCode : f.maxCode + 1 = 2 ^ (f.width - 1) - 2 ^ (f.prec - 1)

theorem ieee_of_mem {f : FFmt} (hf : f ∈ floatFormats) : f.Ieee := by
  simp only [floatFormats, List.mem_cons, List.not_mem_nil, or_false] at hf
  rcases hf with rfl | rfl | rfl | rfl <;> exact ⟨by decide, by decide, by decide, by decide, by decide, by decide⟩

/-- The value of a finite code rounds to that code, in every mode, with no mark (R235). -/
theorem roundRat_codeValue {f : FFmt} (hf : f.Ieee) {c m : Nat} {e : Int} (value : f.codeValue c = m * (2 : Rat) ^ e) (hc : c ≤ f.maxCode)
    (neg : Bool) (rnd : Nat) (sat anyNan anyInf : Bool) : f.roundRat neg m 1 e rnd sat anyNan anyInf = { val := f.code neg c } := by
  rcases Nat.eq_zero_or_pos m with rfl | pos
  · have zero : f.codeValue 0 = 0 := by simpa using codeValue_subnormal f (c := 0) (by positivity)
    obtain rfl : c = 0 := (codeValue_strictMono f).injective (by simp [value, zero])
    simp [FFmt.roundRat]
  · obtain ⟨lower, upper, inexact, -⟩ := floorCode_exact (f := f) (by have := hf.prec; omega) pos one_pos e
    rw [Nat.cast_one, div_one, ← value] at lower upper inexact
    have same : (f.floorCode m 1 e).1 = c :=
      le_antisymm ((codeValue_strictMono f).le_iff_le.mp lower) (Nat.lt_succ_iff.mp ((codeValue_strictMono f).lt_iff_lt.mp upper))
    have noRest : (f.floorCode m 1 e).2.1 = false := by rw [← Bool.not_eq_true, inexact, same]; exact lt_irrefl _
    simp [FFmt.roundRat, pos.ne', hf.ieee, same, noRest, roundsUp, hc.not_gt]

/-- Sign and magnitude of a bit pattern (R228). -/
theorem sign_add_magnitude {w x : Nat} (hw : 1 ≤ w) (hx : x < 2 ^ w) :
    (if x / 2 ^ (w - 1) % 2 = 1 then 2 ^ (w - 1) else 0) + x % 2 ^ (w - 1) = x := by
  have two : 2 ^ w = 2 * 2 ^ (w - 1) := by rw [← pow_succ']; congr 1; omega
  have quo : x / 2 ^ (w - 1) < 2 := by rw [Nat.div_lt_iff_lt_mul (by positivity)]; omega
  have split := Nat.div_add_mod' x (2 ^ (w - 1))
  generalize x / 2 ^ (w - 1) = sign at *
  obtain rfl | rfl : sign = 0 ∨ sign = 1 := by omega
  · simpa using split
  · simpa using split

/-- A pattern that is no NaN is that of a finite magnitude or of an infinity (R228). -/
theorem decode_cases {f : FFmt} (hf : f.Ieee) {x : Nat} (hx : x < 2 ^ f.width) (h : (f.decode x).isNan = false) :
    ∃ neg : Bool, (f.decode x = .inf neg ∧ f.inf neg = x)
      ∨ ∃ c, c ≤ f.maxCode ∧ f.decode x = f.mag neg c ∧ f.code neg c = x := by
  have pattern := sign_add_magnitude (by have := hf.width; omega) hx
  have top : f.maxCode + 1 = 2 ^ (f.width - 1) - 2 ^ (f.prec - 1) := hf.maxCode
  refine ⟨x / 2 ^ (f.width - 1) % 2 == 1, ?_⟩
  simp only [FFmt.decode, hf.ieee, Bool.false_eq_true, if_false, FFmt.inf, FFmt.code, hf.signed, Bool.false_and, Bool.and_true, beq_iff_eq] at h ⊢
  split at h
  · next finite => exact .inr ⟨_, by omega, if_pos finite, pattern⟩
  · next infinite =>
    split at h
    · next ones => exact .inl ⟨by rw [if_neg infinite, if_pos ones], by omega⟩
    · simp [FVal.isNan] at h

theorem inf_ne_nan {f : FFmt} (hf : f.Ieee) (neg : Bool) : f.inf neg ≠ f.nan := by
  have quarter : 2 ^ (f.prec - 1) = 2 * 2 ^ (f.prec - 2) := by rw [← pow_succ']; congr 1; have := hf.prec; omega
  have top : 2 ^ (f.prec - 1) ≤ 2 ^ (f.width - 1) := Nat.pow_le_pow_right two_pos (by have := hf.width; omega)
  have pos : 0 < 2 ^ (f.prec - 2) := by positivity
  cases neg <;> simp only [FFmt.inf, FFmt.nan, hf.ieee, Bool.false_eq_true, if_false, if_true] <;> omega

/-- An infinite value is delivered as it is, and is no event where an input was infinite (R236, R242). -/
theorem round_inf {f : FFmt} (hf : f.Ieee) (neg : Bool) (rnd : Nat) (sat anyNan : Bool) :
    f.round (.inf neg) rnd sat anyNan true = { val := f.inf neg } := by
  have delivered : f.over neg rnd sat false = (f.inf neg, false) := by simp [FFmt.over, hf.hasInf]
  have seen : f.seen (f.inf neg) anyNan true = [] := by simp [FFmt.seen, inf_ne_nan hf]
  simp [FFmt.round, hf.ieee, delivered, seen]

/-- Settles O8: a value lies in one binade of codes (`floorCode_eq`), where codes are equally spaced (`codeValue_binade`), so the rest of the
division decides it (`floorCode_exact`); and a code's own value has no rest (`roundRat_codeValue`). -/
theorem roundingIsExact : Obligations.RoundingIsExact := by
  unfold Obligations.RoundingIsExact
  refine ⟨fun f hf n d e hn hd => floorCode_exact (by have := (ieee_of_mem hf).prec; omega) hn hd e, fun f hf x rnd sat hx h => ?_⟩
  have ieee := ieee_of_mem hf
  obtain ⟨neg, ⟨infinite, pattern⟩ | ⟨c, hc, finite, pattern⟩⟩ := decode_cases ieee hx h
  · rw [infinite, ← pattern]
    exact round_inf ieee neg rnd sat false
  · obtain ⟨m, e, mag, value⟩ := mag_fin f c
    rw [finite, mag, ← pattern]
    exact roundRat_codeValue ieee value hc neg rnd sat _ _

end Sys2Proof.Machine
end


section
/-! Conversions, packing, compare and class (O10). -/

namespace Sys2Proof.Machine

theorem kindSpan_cases (k : Nat) : kindSpan k = 1 ∨ kindSpan k = 2 := by
  unfold kindSpan; split <;> simp

/-- A conversion that the shadow units pass completes in the active lanes (R247). -/
theorem convOp_gives {s : State} {c : Ctx} (hc : s.ctx? = some c) {q : Guard} (h : c.any q = true) (u : unshadowed s c = true) {i : Instr}
    {dst : BitVec 8} {n : Nat} (hn : n = 1 ∨ n = 2) {t : Option FFmt} {val : Nat → Elem} {lo : Nat}
    (e : exec i s = .next (convOp s c q t dst n val lo)) : LanesGive s c q (c.active q) i dst n val :=
  laneOpOn_gives hc h hn (e.trans (congrArg _ (convOp_unshadowed h u t dst n val lo)))

/-- The half of a word that a byte pack keeps, with the pair in the other (R249). -/
theorem packHalf (old pair hi : Nat) (ho : old < 2 ^ 32) (hh : hi < 2) :
    old - bits old (16 * hi) 16 * 2 ^ (16 * hi) + pair * 2 ^ (16 * hi)
      = if hi = 0 then old / 2 ^ 16 * 2 ^ 16 + pair else old % 2 ^ 16 + pair * 2 ^ 16 := by
  unfold bits
  obtain rfl | rfl : hi = 0 ∨ hi = 1 := by omega
  · simp; omega
  · simp; omega

/-! Consecutive registers, written one after another (R250). -/

/-- A group once elements `0` to `n - 1` of each lane have gone to the registers from `dst` on. -/
def Group.writeElems (g : Group) (ls : List Nat) (dst n : Nat) (val : Nat → Nat → Nat) : Group :=
  (List.range n).foldl (fun g i => g.writeLanes ls (dst + i) 1 (val i)) g

section
variable (g : Group) (ls : List Nat) (dst : Nat) (val : Nat → Nat → Nat)

theorem writeElems_succ (n : Nat) :
    g.writeElems ls dst (n + 1) val = (g.writeElems ls dst n val).writeLanes ls (dst + n) 1 (val n) := by
  simp only [Group.writeElems, List.range_succ, List.foldl_append, List.foldl_cons, List.foldl_nil]

theorem writeElems_only (n : Nat) : VectorsOnly g (g.writeElems ls dst n val) := by
  induction n with
  | zero => exact .rfl' g
  | succ n ih => exact writeElems_succ g ls dst val n ▸ ih.trans (writeLanes_only _ _ _ _ _)

variable {ls} (hls : ∀ x ∈ ls, x < 64)
include hls

theorem writeElems_v_other (n : Nat) {k l : Nat} (hl : l < 64) (h : ¬(l ∈ ls ∧ dst ≤ k ∧ k < dst + n)) :
    (g.writeElems ls dst n val).v k l = g.v k l := by
  induction n with
  | zero => rfl
  | succ n ih =>
    rw [writeElems_succ, writeLanes_v _ _ hls hl (fun e => h ⟨e.1, by simp at e; omega⟩)]
    exact ih fun e => h ⟨e.1, by omega⟩

theorem writeElems_v (n : Nat) {i l : Nat} (hi : i < n) (hl : l ∈ ls) :
    ((g.writeElems ls dst n val).v (dst + i) l).toNat = val i l % 2 ^ 32 := by
  induction n with
  | zero => omega
  | succ n ih =>
    rw [writeElems_succ]
    by_cases e : i = n
    · subst e
      exact writeLanes_num (n := 1) (g.writeElems ls dst i val) (val i) hls hl
    · rw [writeLanes_v _ _ hls (hls l hl) (by simp; omega)]
      exact ih (by omega)

end

/-- What unpk leaves, in every lane (R250). -/
theorem exec_unpk {s : State} {c : Ctx} (hc : s.ctx? = some c) {f : RF} (h : c.any f.g = true) (u : unshadowed s c = true) :
    exec (.unpk f) s = .next (regStep s c (fun g =>
      let k := kindOf (f.m 4 4) f.sc.toNat
      g.writeElems (lanesOf (c.active f.g)) f.dst.toNat (32 / k.width) fun i l => unpkElem k (bits (c.va f 1 l) (k.width * i) k.width)) {} 1) := by
  refine (withCtx_of hc _).trans (congrArg _ ?_)
  simp only [h, Bool.not_true, Bool.false_eq_true, if_false]
  cases kindOf (f.m 4 4) f.sc.toNat with
  | int w sg => rfl
  | float t => exact withShadow_unshadowed u ..

/-- Registers from `dst` on, written in the lanes of a mask without marks, and nothing else. -/
theorem elems_written {s : State} {c : Ctx} (hc : s.ctx? = some c) (m : LaneMask) (dst n : Nat) (val : Nat → Nat → Nat) :
    let t := regStep s c (fun g => g.writeElems (lanesOf m) dst n val) {} 1
    FlagsKept s t c ∧ RegFrame s t c ∧ ScalarsKept s t c ∧ PredsKept s t c
      ∧ (∀ i l, i < n → l < 64 → m.getLsbD l = true → (t.vregAt c.r.group (dst + i) l).toNat = val i l % 2 ^ 32)
      ∧ ∀ k l, l < 64 → (m.getLsbD l = false ∨ k < dst ∨ dst + n ≤ k) → t.vregAt c.r.group k l = s.vregAt c.r.group k l := by
  have lanes : ∀ x ∈ lanesOf m, x < 64 := fun x hx => (mem_lanesOf.mp hx).1
  have only := writeElems_only c.g (lanesOf m) dst val n
  have upd := vectors_update hc (G := fun g => g.writeElems (lanesOf m) dst n val) only
  refine ⟨⟨?_, fun i => regStep_counter hc _ _ _ i⟩, regStep_frame hc upd _ _, fun k => ?_, fun p => ?_, fun i l hi hl hm => ?_,
    fun k l hl hk => ?_⟩
  · rw [regStep_sticky hc, ctx?_sticky hc, only.sticky]
    simp
  · rw [regStep_sreg hc upd, ctx?_sreg hc]
  · rw [regStep_pred hc, ctx?_pred hc]
    exact only.pred p
  · rw [regStep_vreg hc]
    exact writeElems_v c.g dst val lanes n hi (mem_lanesOf.mpr ⟨hl, hm⟩)
  · rw [regStep_vreg hc, ctx?_vreg hc]
    refine writeElems_v_other c.g dst val lanes n hl fun ⟨mem, lo, hi⟩ => ?_
    rcases hk with hk | hk
    · exact Bool.false_ne_true (hk.symm.trans (mem_lanesOf.mp mem).2)
    · omega

/-- Settles O10: with the shadow units passed, a conversion is a per-lane operation on the active lanes (`convOp_gives`); pack keeps one half of the
destination by subtracting the other (`packHalf`), and unpk writes one register after another (`elems_written`). -/
theorem conversionResults : Obligations.ConversionResults := by
  unfold Obligations.ConversionResults
  intro f s c hc h u n t rm sat dk sk
  have half (l : Nat) (pair : Nat) := packHalf (c.g.v f.dst.toNat l).toNat pair (f.m 12 1) (c.g.v f.dst.toNat l).isLt (Nat.mod_lt _ (by decide))
  refine ⟨?fcmp, ?fclass, ?cvt, ?fscl, ?fround, ?pack, ?unpk⟩
  case fcmp =>
    obtain ⟨written, flags⟩ := predOp_written hc h f.dst fun l => fCmpBit t (f.m 0 4) (c.va f n l) (c.vb f n l)
    exact ⟨_, withCtx_of hc _, flags, written⟩
  case fclass => exact laneOp_gives hc h (.inl rfl) (withCtx_of hc _)
  case cvt => exact convOp_gives hc h u (kindSpan_cases _) (withCtx_of hc _)
  case fscl => exact convOp_gives hc h u (floatSpan_cases _) (withCtx_of hc _)
  case fround => exact convOp_gives hc h u (floatSpan_cases _) (withCtx_of hc _)
  case pack => 
    let d := kindOf (f.m 0 4) f.sc.toNat
    refine convOp_gives hc h u (t := d.fmt?) (lo := if d.width = 16 then 0 else 16 * f.m 12 1) (.inl rfl)
      ((withCtx_of hc _).trans (congrArg _ ?_))
    refine congrArg (convOp s c f.g d.fmt? f.dst 1 · _) (funext fun l => ?_)
    simp only [half]
    rfl
  case unpk => exact ⟨_, exec_unpk hc h u, elems_written hc _ _ _ _⟩

end Sys2Proof.Machine
end


section
/-! A disturbed result of fact in f64, of which the destination holds the low half (O11). -/

namespace Sys2Proof.Machine

/-- fact under TY 3: its format is f64, and a lane's result goes to one register. -/
def factF64 : RF := rf 3 9 4 0 0 0

/-- A device that runs a launch of level 1, whose split is about to issue. A disturbance has changed bit 50, in the fraction of an f64, of the shadow
result of its next float instruction. -/
def disturbedFact : State :=
  { loadWord State.reset 0 0 with
    launches := [(1, { loadLaunch 0 0 with il := 1 })], cur := some { group := 1, split := 0 }
    shadowErr := [({ group := 1, split := 0 }, 2 ^ 50)] }

theorem disturbedFact_issues : disturbedFact.ctx?.isSome = true := by decide +kernel

/-- What stands around the split that issues. -/
def disturbedFactCtx : Ctx := disturbedFact.ctx?.get disturbedFact_issues

/-- The disturbance used up. -/
def undisturbedFact : State := { disturbedFact with shadowErr := [] }

/-- No bank is loaded, so the main result is the NaN of f64; its low half, which the destination takes, is 0. -/
theorem exec_undisturbedFact : ∃ t, exec (.fact factF64) undisturbedFact = .next t ∧ t.vnumAt 1 9 0 1 = 0 :=
  ⟨_, rfl, by decide +kernel⟩

/-- The disturbed shadow result is a NaN as well: the two agree, and the core is not charged. -/
theorem exec_disturbedFact : ∃ t, exec (.fact factF64) disturbedFact = .next t ∧ Tbl.getD t.dev.score 0 0 = 0 :=
  ⟨_, rfl, by decide +kernel⟩

/-- Refutes O11: its clause on fact takes the format of TY, reads the main result back from the one register of the destination, and does not ask
that TY is 0, 1 or 2 (R286). Under TY 3 that register holds only the low half of the main result: in `disturbedFact` two NaNs agree, where the
statement compares 0 with 2^50 and asks for a charge of 8. -/
theorem not_shadowDivergenceTraps : ¬ Obligations.ShadowDivergenceTraps := by
  unfold Obligations.ShadowDivergenceTraps
  rintro ⟨checks, -⟩
  obtain ⟨t, ht, low⟩ := exec_undisturbedFact
  obtain ⟨u, hu, uncharged⟩ := exec_disturbedFact
  obtain ⟨-, -, fact, -⟩ := checks factF64 disturbedFact t disturbedFactCtx 0 (2 ^ 50) (Option.some_get disturbedFact_issues).symm
    (by decide +kernel) (by decide +kernel) (by decide +kernel)
  have asked := Host.Outcome.next.inj (hu.symm.trans (fact (by decide +kernel) ht))
  have main : t.vnumAt disturbedFactCtx.r.group factF64.dst.toNat 0 1 = 0 := low
  have diverges : shadowAgrees (tyFmt factF64.ty) 0 (0 ^^^ (2 ^ 50 % 2 ^ (tyFmt factF64.ty).width)) = false := by decide +kernel
  simp only [main, Nat.zero_div, Nat.zero_mod, diverges, Bool.false_eq_true, if_false] at asked
  rw [asked] at uncharged
  exact absurd uncharged (by decide +kernel)

end Sys2Proof.Machine
end


section
/-! Float arithmetic in every lane (O7). -/

namespace Sys2Proof.Machine

/-- Settles O7: an instruction that applies one operation to the elements of its lanes gives that operation's values and marks once the shadow units
pass it (`vectorFloat_gives`). fdot2 writes one register whatever its type, so it is the same fact about `floatOp` (`floatOp_unshadowed`). -/
theorem floatArithmeticResults : Obligations.FloatArithmeticResults := by
  unfold Obligations.FloatArithmeticResults
  intro f s c hc h u n t r gives num rounds
  have elements {i : Instr} (op : FFmt → Nat → Nat → Nat → Nat → Elem) (e : exec i s = vectorFloat f op s) : gives i (op t r) :=
    vectorFloat_gives hc h u e
  refine ⟨?fadd, ?fsub, ?fmul, ?ffma, ?fdiv, ?frcp, ?fsqrt, ?fmin, ?fmax, ?fabs, ?fneg, ?frsq, ?fexp2, ?flog2, ?fsin, ?fcos, ?ftanh, ?fdot2⟩
  case fadd => exact elements (fun t r a b _ => fAddElem t r a b) rfl
  case fsub => exact elements (fun t r a b _ => fSubElem t r a b) rfl
  case fmul => exact elements (fun t r a b _ => fMulElem t r a b) rfl
  case ffma => exact elements (fun t r a b c => fFmaElem t r a b c) rfl
  case fdiv => exact elements (fun t r a b _ => fDivElem t r a b) rfl
  case frcp => exact elements (fun t r a _ _ => fRcpElem t r a) rfl
  case fsqrt => exact elements (fun t r a _ _ => fSqrtElem t r a) rfl
  case fmin => exact elements (fun t _ a b _ => fMinMaxElem t false a b) rfl
  case fmax => exact elements (fun t _ a b _ => fMinMaxElem t true a b) rfl
  case fabs => exact elements (fun t _ a _ _ => fAbsElem t a) rfl
  case fneg => exact elements (fun t _ a _ _ => fNegElem t a) rfl
  case frsq => exact elements (fun t _ a _ _ => fRsqElem t a) rfl
  case fexp2 => exact elements (fun t _ a _ _ => fExp2Elem t a) rfl
  case flog2 => exact elements (fun t _ a _ _ => fLog2Elem t a) rfl
  case fsin => exact elements (fun t _ a _ _ => fSinElem t a) rfl
  case fcos => exact elements (fun t _ a _ _ => fCosElem t a) rfl
  case ftanh => exact elements (fun t _ a _ _ => fTanhElem t a) rfl
  case fdot2 => exact laneOp_gives hc h (.inl rfl) ((withCtx_of hc _).trans (congrArg _ (floatOp_unshadowed h u _ _ _ _)))

end Sys2Proof.Machine
end


section
/-! SUPPORT. The integer operations of Table 10.1 on elements of `w` bits: each is an exact result on the numbers that its operands stand for, wrapped
(R255); compares, and bit operations (R259, R261, R262). -/

namespace Sys2Proof.Machine

/-! Exact results. -/

theorem wrapTo_natCast (w x : Nat) : wrapTo w (x : Int) = x % 2 ^ w := by
  unfold wrapTo
  exact_mod_cast Int.toNat_natCast (x % 2 ^ w)

theorem wrapTo_asInt {w x : Nat} (sg : Bool) (h : x < 2 ^ w) : wrapTo w (asInt w sg x) = x :=
  (wrapTo_congr (asInt_mod w sg x)).trans (wrapTo_of_lt h)

theorem tyW_dvd (ty : BitVec 3) : (tyW ty : Int) ∣ 2 ^ tyW ty := by
  revert ty; decide

/-- A shift amount is the same whether its operand is signed or not: a width is a power of two. -/
theorem shift_amount {w : Nat} (h : (w : Int) ∣ 2 ^ w) (sg : Bool) (b : Nat) : (asInt w sg b % w).toNat = b % w := by
  rw [(asInt_mod w sg b).of_dvd h, ← Int.natCast_emod, Int.toNat_natCast]

/-- An operation on two elements of `w` bits gives the exact result of `g`, wrapped. -/
def Computes (w : Nat) (sg : Bool) (op : Nat → Nat → Elem) (g : Int → Int → Int) : Prop :=
  ∀ a b, a < 2 ^ w → b < 2 ^ w → op a b = exact w (g (asInt w sg a) (asInt w sg b))

section
variable (w : Nat) (sg : Bool)

theorem opAdd_computes : Computes w sg (opAdd w sg) (· + ·) := fun a b _ _ =>
  congrArg (Elem.mk · {}) (wrapTo_congr ((asInt_mod w sg a).add (asInt_mod w sg b)).symm)

theorem opSub_computes : Computes w sg (opSub w sg) (· - ·) := fun a b _ _ =>
  congrArg (Elem.mk · {}) (wrapTo_congr ((asInt_mod w sg a).sub (asInt_mod w sg b)).symm)

theorem opMul_computes : Computes w sg (opMul w sg) (· * ·) := fun a b _ _ =>
  congrArg (Elem.mk · {}) (wrapTo_congr ((asInt_mod w sg a).mul (asInt_mod w sg b)).symm)

theorem opMulh_computes : Computes w sg (opMulh w sg) (fun a b => a * b / 2 ^ w) := fun _ _ _ _ => rfl

theorem opMin_computes : Computes w sg (opMin w sg) min := fun a b ha hb => by
  refine congrArg (Elem.mk · {}) ?_
  split
  · next less => rw [min_eq_right less.le, wrapTo_asInt sg hb]
  · next less => rw [min_eq_left (le_of_not_gt less), wrapTo_asInt sg ha]

theorem opMax_computes : Computes w sg (opMax w sg) max := fun a b ha hb => by
  refine congrArg (Elem.mk · {}) ?_
  split
  · next less => rw [max_eq_right less.le, wrapTo_asInt sg hb]
  · next less => rw [max_eq_left (le_of_not_gt less), wrapTo_asInt sg ha]

/-- A shifted index added to a base (R263). -/
theorem scaledSum_computes (k : Nat) : Computes w sg (fun a b => exact w (a + b * 2 ^ k)) (fun a b => a + b * 2 ^ k) := fun a b _ _ =>
  congrArg (Elem.mk · {}) (wrapTo_congr ((asInt_mod w sg a).add ((asInt_mod w sg b).mul_right _)).symm)

variable {w} (h : (w : Int) ∣ 2 ^ w)
include h

theorem opShl_computes : Computes w sg (opShl w sg) (fun a b => a * 2 ^ (b % w).toNat) := fun a b _ _ => by
  refine congrArg (Elem.mk · {}) ?_
  beta_reduce
  rw [shift_amount h, ← wrapTo_natCast]
  push_cast
  exact wrapTo_congr ((asInt_mod w sg a).mul_right _).symm

theorem opShr_computes : Computes w sg (opShr w sg) (fun a b => a / 2 ^ (b % w).toNat) := fun a b _ _ => by
  beta_reduce
  rw [shift_amount h]
  rfl

end

/-! Conditions. -/

theorem intCond_eq_intHolds (cond w : Nat) (sg : Bool) (a b : Nat) : intCond cond w sg a b = intHolds cond (asInt w sg a) (asInt w sg b) := by
  unfold intCond intHolds
  split <;> simp [bne, beq_eq_decide, decide_not]

/-! Bits of an element. -/

theorem bits_one (a i : Nat) : (bits a i 1 == 1) = a.testBit i := by
  rw [bits, Nat.testBit_eq_decide_div_mod_eq, pow_one, beq_eq_decide]

theorem onesOf_eq (w a : Nat) : onesOf w a = (List.range w).filter fun i => a.testBit i :=
  congrArg (List.filter · _) (funext (bits_one a))

theorem mem_onesOf {w a i : Nat} : i ∈ onesOf w a ↔ i < w ∧ a.testBit i = true := by
  rw [onesOf_eq, List.mem_filter, List.mem_range]

theorem onesOf_rising (w a : Nat) : (onesOf w a).Pairwise (· < ·) :=
  onesOf_eq w a ▸ List.pairwise_lt_range.filter _

/-- Trailing zeros: below the first set bit there is none (R261). -/
theorem trailingZeros_result (w x : Nat) : BitResult 2 w x ((onesOf w x).headD w) := by
  have rising := onesOf_rising w x
  have mem (i : Nat) := @mem_onesOf w x i
  cases ones : onesOf w x with
  | nil =>
    refine ⟨le_rfl, fun i (hi : i < w) => ?_, fun hi => absurd hi (lt_irrefl w)⟩
    simpa [ones, hi] using mem i
  | cons k ks =>
    rw [ones, List.pairwise_cons] at rising
    obtain ⟨hk, set⟩ := (mem k).mp (by simp [ones])
    refine ⟨hk.le, fun i hi => Bool.eq_false_iff.mpr fun bit => ?_, fun _ => set⟩
    have listed := (mem i).mpr ⟨hi.trans hk, bit⟩
    rw [ones, List.mem_cons] at listed
    rcases listed with rfl | later
    · exact lt_irrefl _ hi
    · exact lt_asymm hi (rising.1 i later)

/-- Leading zeros: above the last set bit there is none (R261). -/
theorem leadingZeros_result (w x : Nat) : BitResult 1 w x (bitOp 1 w x) := by
  have rising := onesOf_rising w x
  have mem (i : Nat) := @mem_onesOf w x i
  unfold bitOp
  rcases List.eq_nil_or_concat' (onesOf w x) with ones | ⟨ks, k, ones⟩
  · simp only [ones, List.getLast?_nil]
    refine ⟨le_rfl, fun i hi _ => ?_, fun hi => absurd hi (lt_irrefl w)⟩
    simpa [ones, hi] using mem i
  · rw [ones, List.pairwise_append] at rising
    obtain ⟨-, -, below⟩ := rising
    obtain ⟨hk, set⟩ := (mem k).mp (by simp [ones])
    simp only [ones, List.getLast?_append, List.getLast?_singleton, Option.some_or]
    refine ⟨by omega, fun i hi high => Bool.eq_false_iff.mpr fun bit => ?_, fun _ => by rwa [show w - 1 - (w - 1 - k) = k by omega]⟩
    have listed := (mem i).mpr ⟨hi, bit⟩
    rw [ones, List.mem_append, List.mem_singleton] at listed
    rcases listed with earlier | rfl
    · have := below i earlier k (List.mem_singleton_self k)
      omega
    · omega

/-- The sum that reverses the lowest `n` bits of a number of `w` bits (R261). -/
def reversedSum (w x n : Nat) : Nat := (onesOf n x).foldl (fun acc i => acc + 2 ^ (w - 1 - i)) 0

/-- Each bit goes to its mirror place: the sum so far has only higher bits, so adding a power of two sets a bit. -/
theorem testBit_reversedSum (w x : Nat) {n : Nat} (hn : n ≤ w) :
    2 ^ (w - n) ∣ reversedSum w x n
      ∧ ∀ j, (reversedSum w x n).testBit j = (decide (w - n ≤ j ∧ j < w) && x.testBit (w - 1 - j)) := by
  induction n with
  | zero => simp [reversedSum, onesOf]
  | succ n ih =>
    obtain ⟨⟨q, hq⟩, bits⟩ := ih (by omega)
    have next : reversedSum w x (n + 1) = reversedSum w x n + if x.testBit n then 2 ^ (w - (n + 1)) else 0 := by
      simp only [reversedSum, onesOf_eq, List.range_succ, List.filter_append, List.foldl_append, List.filter_cons, List.filter_nil]
      split <;> simp [Nat.sub_sub, Nat.add_comm]
    have half : 2 ^ (w - n) = 2 ^ (w - (n + 1)) * 2 := by rw [← pow_succ]; congr 1; omega
    have small : (if x.testBit n then 2 ^ (w - (n + 1)) else 0) < 2 ^ (w - n) := by
      have := Nat.two_pow_pos (w - (n + 1))
      split <;> omega
    refine ⟨?_, fun j => ?_⟩
    · rw [next, hq, half]
      exact dvd_add (by rw [mul_assoc]; exact dvd_mul_right _ _) (by split <;> simp)
    · rw [next, hq, Nat.two_pow_add_eq_or_of_lt small, Nat.testBit_or, ← hq, bits]
      by_cases mirror : j = w - (n + 1)
      · subst mirror
        rw [show w - 1 - (w - (n + 1)) = n by omega]
        have below : ¬(w - n ≤ w - (n + 1)) := by omega
        have inside : w - (n + 1) < w := by omega
        cases x.testBit n <;> simp [below, inside]
      · have other : (if x.testBit n then 2 ^ (w - (n + 1)) else 0).testBit j = false := by
          split
          · exact Nat.testBit_two_pow_of_ne (Ne.symm mirror)
          · exact Nat.zero_testBit j
        rw [other, Bool.or_false]
        exact congrArg (· && _) (decide_eq_decide.mpr (by omega))

theorem bitOp_result {op : Nat} (h : op < 4) (w x : Nat) : BitResult op w x (bitOp op w x) := by
  obtain rfl | rfl | rfl | rfl : op = 0 ∨ op = 1 ∨ op = 2 ∨ op = 3 := by omega
  · exact congrArg List.length (onesOf_eq w x)
  · exact leadingZeros_result w x
  · exact trailingZeros_result w x
  · obtain ⟨-, bits⟩ := testBit_reversedSum w x le_rfl
    refine ⟨Nat.lt_pow_two_of_testBit _ fun i hi => ?_, fun i hi => ?_⟩
    · exact (bits i).trans (by simp [hi.not_gt])
    · exact (bits i).trans (by simp [hi])

theorem bitResult_lt {op w x v : Nat} (h : BitResult op w x v) : v < 2 ^ w := by
  have hw : w < 2 ^ w := Nat.lt_two_pow_self
  match op, h with
  | 0, h =>
    have : v = ((List.range w).filter fun i => x.testBit i).length := h
    have := List.length_filter_le (fun i => x.testBit i) (List.range w)
    rw [List.length_range] at this
    omega
  | 1, h => exact h.1.trans_lt hw
  | 2, h => exact h.1.trans_lt hw
  | _ + 3, h => exact h.1

/-- A bit field as the number that it stands for, wrapped (R262). -/
theorem bitField_eq_wrapTo {w x pos len : Nat} (inside : pos + len ≤ w) (sx : Bool) :
    bitField w x pos len sx = wrapTo w (asInt len sx (x / 2 ^ pos % 2 ^ len)) := by
  have small : x / 2 ^ pos % 2 ^ len < 2 ^ w :=
    (Nat.mod_lt _ (by positivity)).trans_le (Nat.pow_le_pow_right two_pos (by omega))
  cases sx
  · exact (wrapTo_of_lt small).symm
  · rfl

theorem bits_mod {w x pos len : Nat} (inside : pos + len ≤ w) : x % 2 ^ w / 2 ^ pos % 2 ^ len = x / 2 ^ pos % 2 ^ len := by
  obtain ⟨k, rfl⟩ := Nat.exists_eq_add_of_le (show pos ≤ w by omega)
  rw [Nat.pow_add, Nat.mod_mul_right_div_self, Nat.mod_mod_of_dvd _ (Nat.pow_dvd_pow 2 (by omega))]

end Sys2Proof.Machine
end


section
/-! Scalar arithmetic, moves, bit operations, compares and votes (O1). -/

namespace Sys2Proof.Machine

theorem extendS_narrowS {ty : BitVec 3} (h : scalarTy ty = true) (x : W64) : extendS ty (narrowS ty x) = scalarOut ty (scalarIn ty x) := by
  rw [← extendS_wrapTo h, ← asInt_narrowS h, wrapTo_asInt _ (narrowS_lt ty x)]

/-- One truth value in every lane. -/
theorem getLsbD_everyLane (b : Bool) {l : Nat} (h : l < 64) : (if b then BitVec.allOnes 64 else 0 : LaneMask).getLsbD l = b := by
  cases b
  · exact BitVec.getLsbD_zero
  · exact BitVec.getLsbD_allOnes.trans (decide_eq_true h)

theorem PredWritten.congr {s t : State} {c : Ctx} {m : LaneMask} {dst : BitVec 8} {p q : Nat → Bool} (h : PredWritten s t c m dst p)
    (e : ∀ l, l < 64 → p l = q l) : PredWritten s t c m dst q :=
  ⟨fun n l hl => (h.result n l hl).trans (by rw [e l hl]), h.frame, h.scalars, h.vectors⟩

section
variable {s : State} {c : Ctx} (hc : s.ctx? = some c)
include hc

/-- A scalar instruction that leaves no marks writes its value and nothing else. -/
theorem scalarOp_gives {q : Guard} (h : c.any q = true) {i : Instr} {dst : BitVec 8} {v : Nat} {ext : Nat → W64} {x : W64}
    (e : exec i s = .next (scalarOp s c q dst { val := v } ext)) (value : ext v = x) :
    ∃ t, exec i s = .next t ∧ ScalarWritten s t c dst x ∧ FlagsKept s t c :=
  ⟨_, e, scalarOp_plain hc h dst value⟩

variable {f : RF} (hg : c.any f.g = true) (ht : scalarTy f.ty = true)
include hg ht

/-- Arithmetic on scalars computes on the numbers that they stand for under TY (R253). -/
theorem scalarInt_computes {op : Nat → Bool → Nat → Nat → Elem} {g : Int → Int → Int}
    (h : Computes (tyW f.ty) (tySigned f.ty) (op (tyW f.ty) (tySigned f.ty)) g) :
    ∃ t, scalarInt f op s = .next t ∧ ScalarWritten s t c f.dst (scalarOut f.ty (g (scalarIn f.ty (c.sp.s f.sa.toNat)) (scalarIn f.ty (c.sB f))))
      ∧ FlagsKept s t c :=
  scalarInt_plain hc hg ht (by rw [h _ _ (narrowS_lt ..) (narrowS_lt ..), asInt_narrowS ht, asInt_narrowS ht]; rfl)

/-- A bitwise operation on scalars: it commutes with narrowing to the width. -/
theorem scalarInt_bitwise {op : Nat → Bool → Nat → Nat → Elem} {x : W64}
    (h : op (tyW f.ty) (tySigned f.ty) (narrowS f.ty (c.sp.s f.sa.toNat)) (narrowS f.ty (c.sB f)) = { val := narrowS f.ty x }) :
    ∃ t, scalarInt f op s = .next t ∧ ScalarWritten s t c f.dst (scalarOut f.ty x.toNat) ∧ FlagsKept s t c :=
  scalarInt_plain hc hg ht (by rw [h, wrapTo_natCast]; rfl)

/-- Table 10.1 on scalars, and slea (R253, R255, R263). -/
theorem scalarArithmetic :
    let a := scalarIn f.ty (c.sp.s f.sa.toNat)
    let b := scalarIn f.ty (c.sB f)
    let gives (i : Instr) (x : Int) : Prop :=
      ∃ t, exec i s = .next t ∧ ScalarWritten s t c f.dst (scalarOut f.ty x) ∧ FlagsKept s t c
    gives (.sadd f) (a + b) ∧ gives (.ssub f) (a - b) ∧ gives (.smul f) (a * b)
      ∧ gives (.smulh f) (a * b / 2 ^ tyW f.ty) ∧ gives (.smin f) (min a b) ∧ gives (.smax f) (max a b)
      ∧ gives (.sand f) (c.sp.s f.sa.toNat &&& c.sB f).toNat ∧ gives (.sor f) (c.sp.s f.sa.toNat ||| c.sB f).toNat
      ∧ gives (.sxor f) (c.sp.s f.sa.toNat ^^^ c.sB f).toNat
      ∧ gives (.sshl f) (a * 2 ^ (b % tyW f.ty).toNat) ∧ gives (.sshr f) (a / 2 ^ (b % tyW f.ty).toNat)
      ∧ gives (.slea f) (a + b * 2 ^ (f.sc.toNat % 8)) := by
  intro a b gives
  refine ⟨?sadd, ?ssub, ?smul, ?smulh, ?smin, ?smax, ?sand, ?sor, ?sxor, ?sshl, ?sshr, ?slea⟩
  case sadd => exact (scalarInt_computes hc hg ht (opAdd_computes _ _) :)
  case ssub => exact (scalarInt_computes hc hg ht (opSub_computes _ _) :)
  case smul => exact (scalarInt_computes hc hg ht (opMul_computes _ _) :)
  case smulh => exact (scalarInt_computes hc hg ht (opMulh_computes _ _) :)
  case smin => exact (scalarInt_computes hc hg ht (opMin_computes _ _) :)
  case smax => exact (scalarInt_computes hc hg ht (opMax_computes _ _) :)
  case sand => exact scalarInt_bitwise hc hg ht (congrArg (Elem.mk · {}) (Nat.and_mod_two_pow.symm))
  case sor => exact scalarInt_bitwise hc hg ht (congrArg (Elem.mk · {}) (Nat.or_mod_two_pow.symm))
  case sxor => exact scalarInt_bitwise hc hg ht (congrArg (Elem.mk · {}) (Nat.xor_mod_two_pow.symm))
  case sshl => exact (scalarInt_computes hc hg ht (opShl_computes _ (tyW_dvd _)) :)
  case sshr => exact (scalarInt_computes hc hg ht (opShr_computes _ (tyW_dvd _)) :)
  case slea =>
    exact (scalarInt_computes (op := fun w _ a b => exact w (a + b * 2 ^ (f.sc.toNat % 8))) hc hg ht (scaledSum_computes _ _ _) :)

/-- A scalar compare writes one truth value to every lane of the mask (R259). -/
theorem scalarCompare (cond : f.sc.toNat ≤ 5) :
    ∃ t, exec (.scmp f) s = .next t ∧ FlagsKept s t c ∧ PredWritten s t c c.sp.mask f.dst
      fun _ => intHolds f.sc.toNat (scalarIn f.ty (c.sp.s f.sa.toNat)) (scalarIn f.ty (c.sB f)) := by
  obtain ⟨written, flags⟩ := pred_written hc c.sp.mask f.dst (if intCond (f.sc.toNat % 16) (tyW f.ty) (tySigned f.ty)
    (narrowS f.ty (c.sp.s f.sa.toNat)) (narrowS f.ty (c.sB f)) then BitVec.allOnes 64 else 0)
  refine ⟨_, (withCtx_of hc _).trans (congrArg _ (if_pos hg)), flags, written.congr fun l hl => ?_⟩
  rw [getLsbD_everyLane _ hl, Nat.mod_eq_of_lt (by omega), intCond_eq_intHolds, asInt_narrowS ht, asInt_narrowS ht]

end

/-- Settles O1: arithmetic is exact on the numbers that the operands stand for (`Computes`), a bit operation or field has no more bits than TY
(`bitOp_result`, `bitField_eq_wrapTo`), and what is written is a scalar or the lanes of a predicate (`scalarOp_plain`, `pred_written`). -/
theorem scalarResults : Obligations.ScalarResults := by
  unfold Obligations.ScalarResults
  refine ⟨fun f s c hc hg ht => scalarArithmetic hc hg ht, ?moves, ?votes⟩
  case moves =>
    intro f m s c l hc hg hm ht htm hl a gives
    refine ⟨?smov, ?smovi, ?smovhi, ?ssel, ?sbit, ?sbfx⟩
    case smov => exact scalarOp_gives hc hg (withCtx_of hc _) (extendS_narrowS ht _)
    case smovi =>
      refine scalarOp_gives hc hm (withCtx_of hc _) ?_
      rcases scalarTy_cases htm with e | e | e | e <;> simp [e, tySigned]
    case smovhi =>
      refine scalarOp_gives hc hm (withCtx_of hc _) (congrArg (m.imm ++ ·) ?_)
      rw [BitVec.setWidth_eq_extractLsb' (by decide)]
    case ssel =>
      refine scalarOp_gives hc hg (withCtx_of hc _) ((extendS_narrowS ht _).trans ?_)
      simp only [hl, Option.any_some]
      split <;> rfl
    case sbit =>
      have result := bitOp_result (op := f.m 0 2) (Nat.mod_lt _ (by decide)) (tyW f.ty) (narrowS f.ty a)
      exact ⟨_, result, scalarOp_gives hc hg (withCtx_of hc _) (extendS_of_lt ht (bitResult_lt result))⟩
    case sbfx =>
      intro _ inside
      refine scalarOp_gives hc hg (withCtx_of hc _) ?_
      rw [bitField_eq_wrapTo inside, extendS_wrapTo ht, narrowS, bits_mod inside, beq_eq_decide]
  case votes =>
    intro f s c hc hg act hold votes
    have scalar (k : Nat) (v : W64) (hv : f.m 0 2 = k → _ = v) : votes k v := fun e => scalarOp_gives hc hg (withCtx_of hc _) (hv e)
    refine ⟨fun ht cond => ?scmp, scalar _ _ ?any, scalar _ _ ?all, scalar _ _ ?ballot, scalar _ _ ?count⟩
    case scmp => exact scalarCompare hc hg ht cond
    case any => exact fun e => by rw [e]; rfl
    case all => exact fun e => by rw [e]; rfl
    case ballot => exact fun e => by rw [e]; rfl
    case count => exact fun e => by rw [e]; rfl

end Sys2Proof.Machine
end


section
/-! SUPPORT. What an integer instruction writes in each lane, element by element (R254), and the marks that its lanes leave (R257). -/

namespace Sys2Proof.Machine

/-! Elements of a lane's operand. -/

theorem bits_lt (x lo len : Nat) : bits x lo len < 2 ^ len := Nat.mod_lt _ (by positivity)

theorem testBit_bits (x lo len j : Nat) : (bits x lo len).testBit j = (decide (j < len) && x.testBit (lo + j)) := by
  rw [bits, Nat.testBit_mod_two_pow, Nat.testBit_div_two_pow, Nat.add_comm]

/-- The elements of an operand fill its registers (R254). -/
theorem elements_fill (ty : BitVec 3) : tyW ty * tyCount ty = 32 * intSpan ty := by
  revert ty; decide

/-- A scalar type has one element, as wide as its registers. -/
theorem scalarTy_width {ty : BitVec 3} (h : scalarTy ty = true) : tyCount ty = 1 ∧ tyW ty = 32 * intSpan ty := by
  revert ty; decide

theorem width_pos (ty : BitVec 3) : 1 ≤ tyW ty := by
  revert ty; decide

theorem bits_register (ty : BitVec 3) (x : Nat) {k : Nat} (hk : k < tyCount ty) :
    bits (x % 2 ^ (32 * intSpan ty)) (tyW ty * k) (tyW ty) = bits x (tyW ty * k) (tyW ty) :=
  bits_mod (by rw [← elements_fill, ← Nat.mul_succ]; exact Nat.mul_le_mul_left _ hk)

theorem natCast_wrapTo (w : Nat) (x : Int) : (wrapTo w x : Int) = x % 2 ^ w :=
  Int.toNat_of_nonneg (Int.emod_nonneg x (by positivity))

theorem bits_wrapTo (w : Nat) (x : Int) : bits (wrapTo w x) 0 w = wrapTo w x := by
  rw [bits, pow_zero, Nat.div_one, Nat.mod_eq_of_lt (wrapTo_lt w x)]

theorem Group.num_lt (g : Group) (r l : Nat) {n : Nat} (hn : n = 1 ∨ n = 2) : g.num r l n < 2 ^ (32 * n) := by
  rcases hn with rfl | rfl
  · exact (g.v r l).isLt
  · exact (g.v64 r l).isLt

theorem Split.num_lt (sp : Split) (r : Nat) {n : Nat} (hn : n = 1 ∨ n = 2) : sp.num r n < 2 ^ (32 * n) := by
  rcases hn with rfl | rfl
  · exact Nat.mod_lt _ (by decide)
  · exact (sp.s r).isLt

section
variable (c : Ctx) (f : RF) (l : Nat) {n : Nat} (hn : n = 1 ∨ n = 2)
include hn

theorem Ctx.va_lt : c.va f n l < 2 ^ (32 * n) := c.g.num_lt _ _ hn

theorem Ctx.vb_lt : c.vb f n l < 2 ^ (32 * n) := by
  unfold Ctx.vb
  split
  · exact c.sp.num_lt _ hn
  · exact c.g.num_lt _ _ hn

theorem Ctx.vc_lt : c.vc f n l < 2 ^ (32 * n) := by
  unfold Ctx.vc
  split
  · exact c.sp.num_lt _ hn
  · exact c.g.num_lt _ _ hn

end

/-! Marks of elements and of lanes. -/

theorem Marks.join_assoc (a b c : Marks) : (a.join b).join c = a.join (b.join c) := by
  simp [Marks.join, BitVec.or_assoc]

theorem Marks.nil_join (m : Marks) : Marks.join {} m = m := by
  simp [Marks.join]

theorem marksOf_foldl (ls : List Nat) (val : Nat → Elem) (m : Marks) :
    ls.foldl (fun m l => m.join (val l).marks) m = m.join (marksOf ls val) := by
  induction ls generalizing m with
  | nil => simp [marksOf, Marks.join]
  | cons l ls ih =>
    have first : marksOf (l :: ls) val = ls.foldl (fun m l => m.join (val l).marks) (Marks.join {} (val l).marks) := rfl
    rw [first, List.foldl_cons, ih, ih, Marks.nil_join, Marks.join_assoc]

theorem marksOf_cons (l : Nat) (ls : List Nat) (val : Nat → Elem) : marksOf (l :: ls) val = (val l).marks.join (marksOf ls val) := by
  rw [marksOf, List.foldl_cons, marksOf_foldl, Marks.nil_join]

theorem marksOf_congr (ls : List Nat) {val val' : Nat → Elem} (h : ∀ l, (val l).marks = (val' l).marks) : marksOf ls val = marksOf ls val' := by
  simp only [marksOf, h]

/-- The marks of a lane are those of its elements, in order. -/
theorem mapElems_marks (w n : Nat) (op : Nat → Nat → Nat → Elem) (a b c : Nat) :
    (mapElems w n op a b c).marks = marksOf (List.range n) fun k => op (bits a (w * k) w) (bits b (w * k) w) (bits c (w * k) w) := by
  induction n with
  | zero => rfl
  | succ n ih =>
    unfold mapElems marksOf at *
    rw [List.range_succ, List.foldl_append, List.foldl_append, List.foldl_cons, List.foldl_nil, List.foldl_cons, List.foldl_nil, ← ih]

/-- An operand of one element. -/
theorem mapElems_one {w : Nat} (op : Nat → Nat → Nat → Elem) {a b c : Nat} (ha : a < 2 ^ w) (hb : b < 2 ^ w) (hc : c < 2 ^ w) :
    mapElems w 1 op a b c = { val := (op a b c).val % 2 ^ w, marks := (op a b c).marks } := by
  have whole {x : Nat} (hx : x < 2 ^ w) : bits x (w * 0) w = x := by
    rw [bits, Nat.mul_zero, pow_zero, Nat.div_one, Nat.mod_eq_of_lt hx]
  simp only [mapElems, List.range_one, List.foldl_cons, List.foldl_nil, whole ha, whole hb, whole hc, Marks.nil_join]
  rw [Nat.mul_zero, pow_zero, Nat.mul_one, Nat.zero_add]

/-- The mark of a clamp, or none (R257). -/
def satMark (b : Bool) : Marks := { sticky := if b then stickySat else 0 }

theorem marksOf_satMark {ls : List Nat} {val : Nat → Elem} {p : Nat → Bool} (h : ∀ l ∈ ls, (val l).marks = satMark (p l)) :
    marksOf ls val = satMark (ls.any p) := by
  induction ls with
  | nil => rfl
  | cons l ls ih =>
    rw [marksOf_cons, h l (List.mem_cons_self ..), ih fun k hk => h k (List.mem_cons_of_mem _ hk), List.any_cons]
    cases p l <;> cases ls.any p <;> rfl

/-! Lanes that are written. -/

section
variable {s : State} {c : Ctx} (hc : s.ctx? = some c) {q : Guard} (h : c.any q = true)
include hc h

/-- A per-lane instruction that leaves no marks and whose values fit their registers. -/
theorem laneOp_values {i : Instr} {dst : BitVec 8} {n : Nat} (hn : n = 1 ∨ n = 2) {val : Nat → Nat} (small : ∀ l, val l < 2 ^ (32 * n))
    (e : exec i s = .next (laneOp s c q dst n fun l => { val := val l })) :
    ∃ t, exec i s = .next t ∧ FlagsKept s t c ∧ LanesWritten s t c (c.vactive q) dst n fun l v => v = val l :=
  ⟨_, e, laneOp_noFlags hc h dst n fun _ => rfl,
    (laneOp_written hc h dst hn _).imp fun l _ _ _ hv => hv.trans (Nat.mod_eq_of_lt (small l))⟩

end

section
variable {s : State} {c : Ctx} (hc : s.ctx? = some c) {f : RF} (h : c.any f.g = true) {op : Nat → Bool → Nat → Nat → Nat → Elem}
include hc h

/-- An integer instruction writes each element of each lane, and leaves the marks of its active lanes. -/
theorem vectorInt_written :
    ∃ t, vectorInt f op s = .next t
      ∧ (LanesWritten s t c (c.vactive f.g) f.dst (intSpan f.ty) fun l v => ∀ k, k < tyCount f.ty →
          bits v (tyW f.ty * k) (tyW f.ty) = (op (tyW f.ty) (tySigned f.ty) (bits (c.va f (intSpan f.ty) l) (tyW f.ty * k) (tyW f.ty))
            (bits (c.vb f (intSpan f.ty) l) (tyW f.ty * k) (tyW f.ty)) (bits (c.vc f (intSpan f.ty) l) (tyW f.ty * k) (tyW f.ty))).val % 2 ^ tyW f.ty)
      ∧ Marked s t c (marksOf (lanesOf (c.active f.g)) fun l => mapElems (tyW f.ty) (tyCount f.ty) (op (tyW f.ty) (tySigned f.ty))
          (c.va f (intSpan f.ty) l) (c.vb f (intSpan f.ty) l) (c.vc f (intSpan f.ty) l)) := by
  refine ⟨_, withCtx_of hc _, (laneOp_written hc h f.dst (intSpan_cases _) _).imp fun l v _ _ hv k hk => ?_, laneOpOn_marked hc h _ _ _ _⟩
  rw [hv, bits_register _ _ hk, bits_mapElems _ _ _ _ _ _ _ hk]

/-- Under a scalar type a lane's value is that of its one element. -/
theorem vectorInt_lane (ht : scalarTy f.ty = true) :
    ∃ t, vectorInt f op s = .next t
      ∧ (LanesWritten s t c (c.vactive f.g) f.dst (intSpan f.ty) fun l v => v = (op (tyW f.ty) (tySigned f.ty)
          (c.va f (intSpan f.ty) l) (c.vb f (intSpan f.ty) l) (c.vc f (intSpan f.ty) l)).val % 2 ^ tyW f.ty)
      ∧ Marked s t c (marksOf (lanesOf (c.active f.g)) fun l => op (tyW f.ty) (tySigned f.ty)
          (c.va f (intSpan f.ty) l) (c.vb f (intSpan f.ty) l) (c.vc f (intSpan f.ty) l)) := by
  obtain ⟨one, width⟩ := scalarTy_width ht
  have span := intSpan_cases f.ty
  have lane (l : Nat) := mapElems_one (w := tyW f.ty) (op (tyW f.ty) (tySigned f.ty)) (width ▸ c.va_lt f l span) (width ▸ c.vb_lt f l span)
    (width ▸ c.vc_lt f l span)
  refine ⟨_, withCtx_of hc _, (laneOp_written hc h f.dst span _).imp fun l v _ _ hv => ?_, ?_⟩
  · rw [hv, one, lane, ← width, Nat.mod_mod]
  · have marked := laneOpOn_marked hc h (c.vactive f.g) f.dst (intSpan f.ty) fun l => mapElems (tyW f.ty) (tyCount f.ty)
      (op (tyW f.ty) (tySigned f.ty)) (c.va f (intSpan f.ty) l) (c.vb f (intSpan f.ty) l) (c.vc f (intSpan f.ty) l)
    rwa [marksOf_congr _ fun l => by rw [one, lane]] at marked

end

theorem Marked.noFlags {s t : State} {c : Ctx} (h : Marked s t c {}) : FlagsKept s t c :=
  ⟨h.sticky.trans (by simp), h.counters⟩

end Sys2Proof.Machine
end


section
/-! Vector integer instructions (O6). -/

namespace Sys2Proof.Machine

/-! Exact results of elements. -/

/-- An operation on three elements of `w` bits gives the exact result of `g`, wrapped. -/
def Computes3 (w : Nat) (sg : Bool) (op : Nat → Nat → Nat → Elem) (g : Int → Int → Int → Int) : Prop :=
  ∀ a b d, a < 2 ^ w → b < 2 ^ w → d < 2 ^ w → op a b d = exact w (g (asInt w sg a) (asInt w sg b) (asInt w sg d))

theorem Computes.ternary {w : Nat} {sg : Bool} {op : Nat → Nat → Elem} {g : Int → Int → Int} (h : Computes w sg op g) :
    Computes3 w sg (fun a b _ => op a b) (fun a b _ => g a b) := fun a b _ ha hb _ => h a b ha hb

/-- An operation clamps the exact result of `g` to the range of `ty`, and marks a clamp (R257). -/
def Clamps (ty : BitVec 3) (op : Nat → Nat → Nat → Elem) (g : Int → Int → Int → Int) : Prop :=
  ∀ a b d, let x := g (asInt (tyW ty) (tySigned ty) a) (asInt (tyW ty) (tySigned ty) b) (asInt (tyW ty) (tySigned ty) d)
    op a b d = { val := wrapTo (tyW ty) (clamped ty x), marks := satMark (clips ty x) }

theorem intMin_le_intMax (w : Nat) (sg : Bool) : intMin w sg ≤ intMax w sg := by
  have h1 : (0 : Int) < 2 ^ (w - 1) := by positivity
  have h2 : (0 : Int) < 2 ^ w := by positivity
  cases sg <;> simp only [intMin, intMax, Bool.false_eq_true, if_false, if_true] <;> omega

theorem satTo_clamped (ty : BitVec 3) (x : Int) :
    satTo (tyW ty) (tySigned ty) x = { val := wrapTo (tyW ty) (clamped ty x), marks := satMark (clips ty x) } := by
  have range := intMin_le_intMax (tyW ty) (tySigned ty)
  unfold satTo clips clamped
  generalize intMin (tyW ty) (tySigned ty) = lo at *
  generalize intMax (tyW ty) (tySigned ty) = hi at *
  by_cases low : x < lo
  · have : max lo (min x hi) = lo := by omega
    simp [low, this, satMark, low.ne']
  · by_cases high : hi < x
    · have : max lo (min x hi) = hi := by omega
      simp [low, high, this, satMark, high.ne]
    · have : max lo (min x hi) = x := by omega
      simp [low, high, this, satMark]

theorem clamps_satTo (ty : BitVec 3) (g : Int → Int → Int → Int) {op : Nat → Nat → Nat → Elem}
    (h : ∀ a b d, op a b d = wrapOrSat true (tyW ty) (tySigned ty)
      (g (asInt (tyW ty) (tySigned ty) a) (asInt (tyW ty) (tySigned ty) b) (asInt (tyW ty) (tySigned ty) d))) : Clamps ty op g :=
  fun a b d => (h a b d).trans (satTo_clamped ty _)

section
variable {s : State} {c : Ctx} (hc : s.ctx? = some c) {f : RF} (h : c.any f.g = true) {op : Nat → Bool → Nat → Nat → Nat → Elem}
  {g : Int → Int → Int → Int}
include hc h

/-- Each element takes the exact result of the numbers that its operands stand for, wrapped (R254, R255). -/
theorem vectorInt_computes (computes : Computes3 (tyW f.ty) (tySigned f.ty) (op (tyW f.ty) (tySigned f.ty)) g) :
    ∃ t, vectorInt f op s = .next t ∧ FlagsKept s t c ∧ LanesWritten s t c (c.vactive f.g) f.dst (intSpan f.ty) fun l v =>
      ∀ k, k < tyCount f.ty → ElemIs f.ty v k (g (elemIn f.ty (c.va f (intSpan f.ty) l) k) (elemIn f.ty (c.vb f (intSpan f.ty) l) k)
        (elemIn f.ty (c.vc f (intSpan f.ty) l) k)) := by
  have element (x y z k : Nat) := computes (bits x (tyW f.ty * k) (tyW f.ty)) (bits y (tyW f.ty * k) (tyW f.ty))
    (bits z (tyW f.ty * k) (tyW f.ty)) (bits_lt ..) (bits_lt ..) (bits_lt ..)
  obtain ⟨t, e, written, marked⟩ := vectorInt_written hc h (op := op)
  refine ⟨t, e, ?_, written.imp fun l v _ _ hv k hk => ?_⟩
  · rw [marksOf_none fun l _ => (mapElems_marks ..).trans (marksOf_none fun k _ => by rw [element]; rfl)] at marked
    exact marked.noFlags
  · rw [ElemIs, hv k hk, element]
    exact (congrArg _ (Nat.mod_eq_of_lt (wrapTo_lt ..))).trans (natCast_wrapTo ..)

/-- Each element takes the exact result clamped, and STICKY.SAT records a clamp in an active lane (R257). -/
theorem vectorInt_clamps (clamps : Clamps f.ty (op (tyW f.ty) (tySigned f.ty)) g) :
    let x (l k : Nat) : Int := g (elemIn f.ty (c.va f (intSpan f.ty) l) k) (elemIn f.ty (c.vb f (intSpan f.ty) l) k)
      (elemIn f.ty (c.vc f (intSpan f.ty) l) k)
    ∃ t, vectorInt f op s = .next t
      ∧ (LanesWritten s t c (c.vactive f.g) f.dst (intSpan f.ty) fun l v => ∀ k, k < tyCount f.ty → ElemIs f.ty v k (clamped f.ty (x l k)))
      ∧ ((∃ l k, l < 64 ∧ (c.active f.g).getLsbD l = true ∧ k < tyCount f.ty ∧ clips f.ty (x l k) = true) →
          t.stickyAt c.r.group = s.stickyAt c.r.group ||| 4#64)
      ∧ ((∀ l k, l < 64 → (c.active f.g).getLsbD l = true → k < tyCount f.ty → clips f.ty (x l k) = false) →
          t.stickyAt c.r.group = s.stickyAt c.r.group)
      ∧ ∀ i, t.counterAt c.g.launch i = s.counterAt c.g.launch i := by
  intro x
  have element (a b d k : Nat) := clamps (bits a (tyW f.ty * k) (tyW f.ty)) (bits b (tyW f.ty * k) (tyW f.ty)) (bits d (tyW f.ty * k) (tyW f.ty))
  obtain ⟨t, e, written, marked⟩ := vectorInt_written hc h (op := op)
  rw [marksOf_satMark (p := fun l => (List.range (tyCount f.ty)).any fun k => clips f.ty (x l k))
    fun l _ => (mapElems_marks ..).trans (marksOf_satMark fun k _ => by rw [element]; rfl)] at marked
  refine ⟨t, e, written.imp fun l v _ _ hv k hk => ?values, fun ⟨l, k, hl, active, hk, clip⟩ => ?clamped, fun none => ?unclamped,
    marked.counters⟩
  case values =>
    rw [ElemIs, hv k hk, element]
    exact (congrArg _ (Nat.mod_eq_of_lt (wrapTo_lt ..))).trans (natCast_wrapTo ..)
  case clamped =>
    have some : ((lanesOf (c.active f.g)).any fun l => (List.range (tyCount f.ty)).any fun k => clips f.ty (x l k)) = true :=
      List.any_eq_true.mpr ⟨l, mem_lanesOf.mpr ⟨hl, active⟩, List.any_eq_true.mpr ⟨k, List.mem_range.mpr hk, clip⟩⟩
    rw [marked.sticky, some]
    rfl
  case unclamped =>
    have never : ((lanesOf (c.active f.g)).any fun l => (List.range (tyCount f.ty)).any fun k => clips f.ty (x l k)) = false :=
      List.any_eq_false.mpr fun l hl => Bool.not_eq_true _ ▸ List.any_eq_false.mpr fun k hk => by
        simp [none l k (mem_lanesOf.mp hl).1 (mem_lanesOf.mp hl).2 (List.mem_range.mp hk)]
    rw [marked.sticky, never]
    exact BitVec.or_zero

end

/-! Bitwise operations. -/

section
variable {s : State} {c : Ctx} (hc : s.ctx? = some c) {f : RF} (h : c.any f.g = true) {op : Nat → Bool → Nat → Nat → Nat → Elem}
include hc h

/-- An operation given bit by bit of its elements is given bit by bit of the lane. -/
theorem vectorInt_bitwise {bit : Nat → Nat → Nat → Bool}
    (element : ∀ a b d, a < 2 ^ tyW f.ty → b < 2 ^ tyW f.ty → (op (tyW f.ty) (tySigned f.ty) a b d).marks = {}
      ∧ ∀ j, j < tyW f.ty → (op (tyW f.ty) (tySigned f.ty) a b d).val.testBit j = bit a b j) :
    ∃ t, vectorInt f op s = .next t ∧ FlagsKept s t c ∧ LanesWritten s t c (c.vactive f.g) f.dst (intSpan f.ty) fun l v =>
      ∀ k j, k < tyCount f.ty → j < tyW f.ty → v.testBit (tyW f.ty * k + j)
        = bit (bits (c.va f (intSpan f.ty) l) (tyW f.ty * k) (tyW f.ty)) (bits (c.vb f (intSpan f.ty) l) (tyW f.ty * k) (tyW f.ty)) j := by
  obtain ⟨t, e, written, marked⟩ := vectorInt_written hc h (op := op)
  refine ⟨t, e, ?_, written.imp fun l v _ _ hv k j hk hj => ?_⟩
  · rw [marksOf_none fun l _ => (mapElems_marks ..).trans (marksOf_none fun k _ => (element _ _ _ (bits_lt ..) (bits_lt ..)).1)] at marked
    exact marked.noFlags
  · have same : v.testBit (tyW f.ty * k + j) = (bits v (tyW f.ty * k) (tyW f.ty)).testBit j := by
      rw [testBit_bits, decide_eq_true hj, Bool.true_and]
    rw [same, hv k hk, Nat.testBit_mod_two_pow, decide_eq_true hj, Bool.true_and, (element _ _ _ (bits_lt ..) (bits_lt ..)).2 j hj]

end

/-- A rotation: the bits that leave at the top come back at the bottom (R255). -/
theorem testBit_opRot {w a : Nat} (b : Nat) {j : Nat} (ha : a < 2 ^ w) (hj : j < w) :
    (opRot w a b).val.testBit j = a.testBit ((j + w - b % w) % w) := by
  have hr : b % w < w := Nat.mod_lt _ (by omega)
  show ((a * 2 ^ (b % w) + a / 2 ^ (w - b % w)) % 2 ^ w).testBit j = _
  generalize b % w = r at hr ⊢
  have low : a / 2 ^ (w - r) < 2 ^ r := by
    rw [Nat.div_lt_iff_lt_mul (by positivity), ← Nat.pow_add]
    rwa [show r + (w - r) = w by omega]
  rw [Nat.mul_comm, Nat.two_pow_add_eq_or_of_lt low, Nat.testBit_mod_two_pow, decide_eq_true hj, Bool.true_and, Nat.testBit_or,
    Nat.mul_comm, Nat.testBit_mul_two_pow, Nat.testBit_div_two_pow]
  by_cases inside : r ≤ j
  · have high : a.testBit (j + (w - r)) = false := Nat.testBit_lt_two_pow (ha.trans_le (Nat.pow_le_pow_right two_pos (by omega)))
    rw [high, decide_eq_true inside, show j + w - r = j - r + w by omega, Nat.add_mod_right, Nat.mod_eq_of_lt (by omega)]
    simp
  · rw [decide_eq_false inside, show j + w - r = j + (w - r) by omega, Nat.mod_eq_of_lt (by omega)]
    simp

theorem testBit_opNot {w : Nat} (a : Nat) {j : Nat} (hj : j < w) : (opNot w a).val.testBit j = !a.testBit j := by
  show (2 ^ w - 1 - a % 2 ^ w).testBit j = _
  rw [Nat.sub_sub, Nat.add_comm, Nat.testBit_two_pow_sub_succ (Nat.mod_lt _ (by positivity)), Nat.testBit_mod_two_pow, decide_eq_true hj,
    Bool.true_and, Bool.true_and]

/-! Operands of one element. -/

theorem elemIn_zero {ty : BitVec 3} {x : Nat} (h : x < 2 ^ tyW ty) : elemIn ty x 0 = asInt (tyW ty) (tySigned ty) x := by
  rw [elemIn, bits, Nat.mul_zero, pow_zero, Nat.div_one, Nat.mod_eq_of_lt h]

theorem elemIs_wrapTo (ty : BitVec 3) (x : Int) : ElemIs ty (wrapTo (tyW ty) x) 0 x := by
  rw [ElemIs, Nat.mul_zero, bits_wrapTo, natCast_wrapTo]

/-- A 32-bit index as the number it stands for (R263). -/
theorem asInt_word (sg : Bool) (x : W32) : asInt 32 sg x.toNat = if sg then x.toInt else x.toNat := by
  have := x.isLt
  cases sg <;> simp [asInt, BitVec.toInt_eq_toNat_cond]
  split <;> split <;> omega

section
variable {s : State} {c : Ctx} (hc : s.ctx? = some c) {f : RF} (h : c.any f.g = true)
include hc h

/-- Table 10.1 without SAT (R254, R255, R263). -/
theorem vectorArithmetic (wraps : f.m 0 1 = 0) :
    let n := intSpan f.ty
    let gives (i : Instr) (op : Int → Int → Int → Int) : Prop :=
      ∃ t, exec i s = .next t ∧ FlagsKept s t c ∧ LanesWritten s t c (c.vactive f.g) f.dst n fun l v =>
        ∀ k, k < tyCount f.ty → ElemIs f.ty v k (op (elemIn f.ty (c.va f n l) k) (elemIn f.ty (c.vb f n l) k) (elemIn f.ty (c.vc f n l) k))
    let w := tyW f.ty
    gives (.vadd f) (fun a b _ => a + b) ∧ gives (.vsub f) (fun a b _ => a - b) ∧ gives (.vmul f) (fun a b _ => a * b)
      ∧ gives (.vmulh f) (fun a b _ => a * b / 2 ^ w) ∧ gives (.vmad f) (fun a b c => a * b + c)
      ∧ gives (.vmin f) (fun a b _ => min a b) ∧ gives (.vmax f) (fun a b _ => max a b) ∧ gives (.vabs f) (fun a _ _ => a.natAbs)
      ∧ gives (.vneg f) (fun a _ _ => -a) ∧ gives (.vshl f) (fun a b _ => a * 2 ^ (b % w).toNat)
      ∧ gives (.vshr f) (fun a b _ => a / 2 ^ (b % w).toNat) := by
  intro n gives w
  have computes {i : Instr} {g : Int → Int → Int → Int} (op : Nat → Bool → Nat → Nat → Nat → Elem) (e : exec i s = vectorInt f op s)
      (eq : Computes3 w (tySigned f.ty) (op w (tySigned f.ty)) g) : gives i g := by
    obtain ⟨t, run, rest⟩ := vectorInt_computes hc h eq
    exact ⟨t, e.trans run, rest⟩
  have exactly {i : Instr} (g : Int → Int → Int → Int) (e : exec i s = vectorInt f (fun w sg a b d => wrapOrSat (f.m 0 1 == 1) w sg
      (g (asInt w sg a) (asInt w sg b) (asInt w sg d))) s) : gives i g := computes _ e fun a b d _ _ _ => by rw [wraps]; rfl
  refine ⟨?vadd, ?vsub, ?vmul, ?vmulh, ?vmad, ?vmin, ?vmax, ?vabs, ?vneg, ?vshl, ?vshr⟩
  case vadd => exact exactly (fun a b _ => a + b) rfl
  case vsub => exact exactly (fun a b _ => a - b) rfl
  case vmul => exact computes (fun w sg a b _ => opMul w sg a b) rfl (opMul_computes w (tySigned f.ty)).ternary
  case vmulh => exact computes (fun w sg a b _ => opMulh w sg a b) rfl (opMulh_computes w (tySigned f.ty)).ternary
  case vmad => exact exactly (fun a b d => a * b + d) rfl
  case vmin => exact computes (fun w sg a b _ => opMin w sg a b) rfl (opMin_computes w (tySigned f.ty)).ternary
  case vmax => exact computes (fun w sg a b _ => opMax w sg a b) rfl (opMax_computes w (tySigned f.ty)).ternary
  case vabs => exact exactly (fun a _ _ => a.natAbs) rfl
  case vneg => exact exactly (fun a _ _ => -a) rfl
  case vshl => exact computes (fun w sg a b _ => opShl w sg a b) rfl (opShl_computes (tySigned f.ty) (tyW_dvd f.ty)).ternary
  case vshr => exact computes (fun w sg a b _ => opShr w sg a b) rfl (opShr_computes (tySigned f.ty) (tyW_dvd f.ty)).ternary

/-- The bitwise rows of Table 10.1 (R255). -/
theorem vectorBitwise :
    let n := intSpan f.ty
    let w := tyW f.ty
    let bit (x k i : Nat) : Bool := x.testBit (w * k + i)
    let gives (i : Instr) (op : Nat → Nat → Nat → Nat → Bool) : Prop :=
      ∃ t, exec i s = .next t ∧ FlagsKept s t c ∧ LanesWritten s t c (c.vactive f.g) f.dst n fun l v =>
        ∀ k j, k < tyCount f.ty → j < w → bit v k j = op (c.va f n l) (c.vb f n l) k j
    gives (.vand f) (fun a b k j => bit a k j && bit b k j) ∧ gives (.vor f) (fun a b k j => bit a k j || bit b k j)
      ∧ gives (.vxor f) (fun a b k j => bit a k j != bit b k j) ∧ gives (.vnot f) (fun a _ k j => !bit a k j)
      ∧ gives (.vrot f) (fun a b k j => bit a k ((j + w - bits b (w * k) w % w) % w)) := by
  intro n w bit gives
  have bitwise (i : Instr) (op : Nat → Bool → Nat → Nat → Nat → Elem) {g' : Nat → Nat → Nat → Nat → Bool}
      (e : exec i s = vectorInt f op s) (g : Nat → Nat → Nat → Bool) (eq : ∀ a b d, a < 2 ^ w → b < 2 ^ w → (op w (tySigned f.ty) a b d).marks = {}
        ∧ ∀ j, j < w → (op w (tySigned f.ty) a b d).val.testBit j = g a b j)
      (lane : ∀ a b k j, j < w → g (bits a (w * k) w) (bits b (w * k) w) j = g' a b k j) : gives i g' := by
    obtain ⟨t, run, flags, written⟩ := vectorInt_bitwise hc h eq
    exact ⟨t, e.trans run, flags, written.imp fun l v _ _ hv k j hk hj => (hv k j hk hj).trans (lane _ _ _ _ hj)⟩
  have element (x k : Nat) {j : Nat} (hj : j < w) : (bits x (w * k) w).testBit j = bit x k j := by
    rw [testBit_bits, decide_eq_true hj, Bool.true_and]
  refine ⟨?vand, ?vor, ?vxor, ?vnot, ?vrot⟩
  case vand =>
    exact bitwise (.vand f) (fun w sg a b _ => opAnd w sg a b) rfl (fun a b j => a.testBit j && b.testBit j)
      (fun a b _ _ _ => ⟨rfl, fun j _ => Nat.testBit_and a b j⟩)
      fun a b k j hj => by rw [element a k hj, element b k hj]
  case vor =>
    exact bitwise (.vor f) (fun w sg a b _ => opOr w sg a b) rfl (fun a b j => a.testBit j || b.testBit j)
      (fun a b _ _ _ => ⟨rfl, fun j _ => Nat.testBit_or a b j⟩)
      fun a b k j hj => by rw [element a k hj, element b k hj]
  case vxor =>
    exact bitwise (.vxor f) (fun w sg a b _ => opXor w sg a b) rfl (fun a b j => a.testBit j != b.testBit j)
      (fun a b _ _ _ => ⟨rfl, fun j _ => Nat.testBit_xor a b j⟩)
      fun a b k j hj => by rw [element a k hj, element b k hj]
  case vnot =>
    exact bitwise (.vnot f) (fun w _ a _ _ => opNot w a) rfl (fun a _ j => !a.testBit j)
      (fun a _ _ _ _ => ⟨rfl, fun j hj => testBit_opNot a hj⟩)
      fun a b k j hj => by rw [element a k hj]
  case vrot =>
    exact bitwise (.vrot f) (fun w _ a b _ => opRot w a b) rfl (fun a b j => a.testBit ((j + w - b % w) % w))
      (fun a b _ ha _ => ⟨rfl, fun j hj => testBit_opRot b ha hj⟩)
      fun a b k j hj => element a k (Nat.mod_lt _ (by omega))

/-- Table 10.1 with SAT (R257). -/
theorem vectorSaturating (sat : f.m 0 1 = 1) :
    let n := intSpan f.ty
    let gives (i : Instr) (op : Int → Int → Int → Int) : Prop :=
      let x (l k : Nat) : Int := op (elemIn f.ty (c.va f n l) k) (elemIn f.ty (c.vb f n l) k) (elemIn f.ty (c.vc f n l) k)
      ∃ t, exec i s = .next t
        ∧ LanesWritten s t c (c.vactive f.g) f.dst n (fun l v => ∀ k, k < tyCount f.ty → ElemIs f.ty v k (clamped f.ty (x l k)))
        ∧ ((∃ l k, l < 64 ∧ (c.active f.g).getLsbD l = true ∧ k < tyCount f.ty ∧ clips f.ty (x l k) = true) →
            t.stickyAt c.r.group = s.stickyAt c.r.group ||| 4#64)
        ∧ ((∀ l k, l < 64 → (c.active f.g).getLsbD l = true → k < tyCount f.ty → clips f.ty (x l k) = false) →
            t.stickyAt c.r.group = s.stickyAt c.r.group)
        ∧ ∀ i, t.counterAt c.g.launch i = s.counterAt c.g.launch i
    gives (.vadd f) (fun a b _ => a + b) ∧ gives (.vsub f) (fun a b _ => a - b) ∧ gives (.vmad f) (fun a b c => a * b + c)
      ∧ gives (.vabs f) (fun a _ _ => a.natAbs) ∧ gives (.vneg f) (fun a _ _ => -a) := by
  intro n gives
  have clamps {i : Instr} (g : Int → Int → Int → Int) (e : exec i s = vectorInt f (fun w sg a b d => wrapOrSat (f.m 0 1 == 1) w sg
      (g (asInt w sg a) (asInt w sg b) (asInt w sg d))) s) : gives i g := by
    obtain ⟨t, run, rest⟩ := vectorInt_clamps hc h (op := fun w sg a b d => wrapOrSat (f.m 0 1 == 1) w sg
      (g (asInt w sg a) (asInt w sg b) (asInt w sg d))) (clamps_satTo f.ty g fun a b d => by rw [sat]; rfl)
    exact ⟨t, e.trans run, rest⟩
  refine ⟨?vadd, ?vsub, ?vmad, ?vabs, ?vneg⟩
  case vadd => exact clamps (fun a b _ => a + b) rfl
  case vsub => exact clamps (fun a b _ => a - b) rfl
  case vmad => exact clamps (fun a b d => a * b + d) rfl
  case vabs => exact clamps (fun a _ _ => a.natAbs) rfl
  case vneg => exact clamps (fun a _ _ => -a) rfl

/-- An operation on a lane's one element that leaves no mark. -/
theorem vectorInt_value (ht : scalarTy f.ty = true) {op : Nat → Bool → Nat → Nat → Nat → Elem} {val : Nat → Nat}
    (value : ∀ l, op (tyW f.ty) (tySigned f.ty) (c.va f (intSpan f.ty) l) (c.vb f (intSpan f.ty) l) (c.vc f (intSpan f.ty) l) = { val := val l })
    (small : ∀ l, val l < 2 ^ tyW f.ty) :
    ∃ t, vectorInt f op s = .next t ∧ FlagsKept s t c ∧ LanesWritten s t c (c.vactive f.g) f.dst (intSpan f.ty) fun l v => v = val l := by
  obtain ⟨t, run, written, marked⟩ := vectorInt_lane hc h ht (op := op)
  rw [marksOf_none fun l _ => by rw [value]] at marked
  exact ⟨t, run, marked.noFlags, written.imp fun l v _ _ hv => by rw [hv, value, Nat.mod_eq_of_lt (small l)]⟩

end

/-- Settles O6: exact results are wrapped or clamped element by element (`vectorInt_computes`, `vectorInt_clamps`), bitwise operations go bit by bit
(`vectorInt_bitwise`), and the other instructions write values that fit the lane's registers (`laneOp_values`, `vectorInt_value`). -/
theorem vectorIntegerResults : Obligations.VectorIntegerResults := by
  unfold Obligations.VectorIntegerResults
  refine ⟨fun f s c hc h => vectorArithmetic hc h, fun f s c hc h => vectorBitwise hc h, fun f s c hc h => vectorSaturating hc h, ?lanes⟩
  intro f m s c hc h hm ht n w gives
  have span := intSpan_cases f.ty
  have width : w = 32 * n := (scalarTy_width ht).2
  have small (l : Nat) : c.va f n l < 2 ^ w := width ▸ c.va_lt f l span
  have other (l : Nat) : c.vb f n l < 2 ^ w := width ▸ c.vb_lt f l span
  refine ⟨fun _ => ?vcmp, ?vsel, ?vbit, fun _ inside => ?vbfx, ?vmov, ?vmovi, ?vlea⟩
  case vcmp =>
    obtain ⟨written, flags⟩ := predOp_written hc h f.dst fun l => intCond (f.m 0 4) w (tySigned f.ty) (c.va f n l) (c.vb f n l)
    refine ⟨_, withCtx_of hc _, flags, written.congr fun l _ => ?_⟩
    rw [intCond_eq_intHolds, elemIn_zero (small l), elemIn_zero (other l)]
  case vsel =>
    refine laneOp_values hc h span (fun l => ?_) (withCtx_of hc _)
    split
    · exact c.va_lt f l span
    · exact c.vb_lt f l span
  case vbit =>
    have result (l : Nat) := bitOp_result (op := f.m 0 2) (Nat.mod_lt _ (by decide)) w (c.va f n l)
    obtain ⟨t, run, flags, written⟩ := vectorInt_value hc h ht (op := fun w _ a _ _ => { val := bitOp (f.m 0 2) w a }) (fun _ => rfl)
      fun l => bitResult_lt (result l)
    exact ⟨t, run, flags, written.imp fun l v _ _ hv => hv ▸ result l⟩
  case vbfx =>
    obtain ⟨t, run, flags, written⟩ := vectorInt_value hc h ht
      (op := fun w _ a _ _ => { val := bitField w a f.sb.toNat f.sc.toNat (f.m 0 1 == 1) })
      (fun l => congrArg (Elem.mk · {}) (bitField_eq_wrapTo inside _)) fun l => wrapTo_lt ..
    exact ⟨t, run, flags, written.imp fun l v _ _ hv => hv ▸ elemIs_wrapTo ..⟩
  case vmov =>
    refine laneOp_values hc h span (fun l => ?_) (withCtx_of hc _)
    split
    · exact c.sp.num_lt _ span
    · exact c.va_lt f l span
  case vmovi => exact laneOp_values hc hm (.inl rfl) (fun _ => m.imm.isLt) (withCtx_of hc _)
  case vlea =>
    have fits (x : Int) : wrapTo w x < 2 ^ (32 * n) := width ▸ wrapTo_lt w x
    obtain ⟨t, run, flags, written⟩ := laneOp_values (i := .vlea f) hc h span (fun l => fits _) (withCtx_of hc _)
    refine ⟨t, run, flags, written.imp fun l v _ _ hv => ?_⟩
    have index : (asInt 32 (n == 2) (c.g.v f.sb.toNat l).toNat) = if n = 2 then (c.g.v f.sb.toNat l).toInt else (c.g.v f.sb.toNat l).toNat := by
      rw [asInt_word]
      simp only [beq_iff_eq]
    rw [hv, natCast_wrapTo, mul_comm, ← index]
    rfl

end Sys2Proof.Machine
end


section
/-! Division and remainder (O2). -/

namespace Sys2Proof.Machine

/-- The marks of a division whose STICKY bits are `m`: it counts once if there is one (R256, R258). -/
def divMarks (m : W64) : Marks := { sticky := m.setWidth 3, events := if m = 0 then [] else [divCounter] }

/-! The operation on one element. -/

theorem asInt_eq_zero {w b : Nat} (sg : Bool) (h : b < 2 ^ w) : asInt w sg b = 0 ↔ b = 0 := by
  refine ⟨fun zero => ?_, fun zero => by simp [zero, asInt]⟩
  have own := wrapTo_asInt sg h
  rw [zero] at own
  exact own.symm.trans (by simp [wrapTo])

/-- All ones is -1 wrapped. -/
theorem wrapTo_neg_one (w : Nat) : wrapTo w (-1) = 2 ^ w - 1 := by
  have pos : 0 < 2 ^ w := by positivity
  rw [wrapTo_congr (y := ((2 ^ w - 1 : Nat) : Int)), wrapTo_of_lt (by omega)]
  exact Int.modEq_iff_dvd.mpr ⟨1, by push_cast [Nat.one_le_two_pow]; ring⟩

/-- The most negative value and its negation are the same word. -/
theorem wrapTo_neg_most_negative {w : Nat} (hw : 1 ≤ w) : wrapTo w (2 ^ (w - 1)) = wrapTo w (-2 ^ (w - 1)) := by
  have two : (2 : Int) ^ w = 2 * 2 ^ (w - 1) := by rw [← pow_succ']; congr 1; omega
  exact wrapTo_congr (Int.modEq_iff_dvd.mpr ⟨-1, by rw [two]; ring⟩)

/-- Division on elements of `ty`: quotient or remainder of the numbers that they stand for, wrapped, and its mark (R256). -/
theorem opDivRem_eq (rem : Bool) (ty : BitVec 3) {a b : Nat} (ha : a < 2 ^ tyW ty) (hb : b < 2 ^ tyW ty) :
    let x := asInt (tyW ty) (tySigned ty) a
    let y := asInt (tyW ty) (tySigned ty) b
    opDivRem rem (tyW ty) (tySigned ty) a b
      = { val := wrapTo (tyW ty) (if rem then remainder x y else quotient x y), marks := divMarks (divSticky ty x y) } := by
  have zero := asInt_eq_zero (tySigned ty) hb
  have own := wrapTo_asInt (tySigned ty) ha
  unfold opDivRem divSticky quotient remainder
  generalize asInt (tyW ty) (tySigned ty) a = x at *
  generalize asInt (tyW ty) (tySigned ty) b = y at *
  have test : (tySigned ty && decide (x = intMin (tyW ty) (tySigned ty)) && decide (y = -1)) = true
      ↔ tySigned ty = true ∧ x = -2 ^ (tyW ty - 1) ∧ y = -1 := by
    cases tySigned ty <;> simp [intMin]
  simp only [test, ← zero]
  by_cases divisor : y = 0
  · simp only [divisor, if_true]
    cases rem <;> simp [wrapTo_neg_one, own, divMarks, stickyDivz]
  · simp only [divisor, if_false]
    by_cases overflow : tySigned ty = true ∧ x = -2 ^ (tyW ty - 1) ∧ y = -1
    · simp only [if_pos overflow]
      obtain ⟨-, most, minus⟩ := overflow
      have value : wrapTo (tyW ty) (x.tdiv y) = a := by
        rw [minus, Int.tdiv_neg, Int.tdiv_one, most, neg_neg, wrapTo_neg_most_negative (width_pos ty), ← most, own]
      have rest : wrapTo (tyW ty) (x.tmod y) = 0 := by rw [minus, Int.tmod_neg, Int.tmod_one]; simp [wrapTo]
      cases rem <;> simp [value, rest, divMarks, stickyDivovf]
    · simp only [if_neg overflow]
      cases rem <;> rfl

/-! Flags. -/

theorem divSticky_cases (ty : BitVec 3) (a b : Int) : divSticky ty a b = 0 ∨ divSticky ty a b = 1 ∨ divSticky ty a b = 2 := by
  unfold divSticky
  split
  · exact .inr (.inl rfl)
  · split
    · exact .inr (.inr rfl)
    · exact .inl rfl

theorem divMarks_sticky (ty : BitVec 3) (a b : Int) : (divMarks (divSticky ty a b)).sticky.setWidth 64 = divSticky ty a b := by
  rcases divSticky_cases ty a b with e | e | e <;> rw [e] <;> rfl

/-- The division counter rises once for the marks of a division, if there are any. -/
theorem divMarks_count (m : W64) (n : Nat) :
    ((divMarks m).events.filter fun e => e = divCounter).foldl (fun n _ => sat32 n) n = if m = 0 then n else sat32 n := by
  unfold divMarks
  split <;> simp

theorem divMarks_others (m : W64) {i : Nat} (hi : i ≠ divCounter) : ((divMarks m).events.filter fun e => e = i) = [] := by
  unfold divMarks
  split <;> simp [hi.symm]

/-- STICKY after the marks of lanes, one after another. -/
theorem marksOf_sticky {val : Nat → Elem} {mark : Nat → W64} (h : ∀ l, (val l).marks.sticky.setWidth 64 = mark l) (ls : List Nat) (x : W64) :
    x ||| (marksOf ls val).sticky.setWidth 64 = ls.foldl (fun m l => m ||| mark l) x := by
  induction ls generalizing x with
  | nil => simp [marksOf]
  | cons l ls ih => rw [marksOf_cons, List.foldl_cons, ← ih, Marks.join, BitVec.setWidth_or, BitVec.or_assoc, h]

section
variable {ls : List Nat} {val : Nat → Elem} {mark : Nat → W64} (h : ∀ l, (val l).marks = divMarks (mark l))
include h

/-- The division counter after the divisions of lanes: once for each lane that has marks. -/
theorem marksOf_div_count (n : Nat) :
    ((marksOf ls val).events.filter fun e => e = divCounter).foldl (fun n _ => sat32 n) n
      = (ls.filter fun l => mark l != 0).foldl (fun n _ => sat32 n) n := by
  induction ls generalizing n with
  | nil => rfl
  | cons l ls ih =>
    rw [marksOf_cons, Marks.join, List.filter_append, List.foldl_append, ih, h, divMarks_count, List.filter_cons]
    by_cases none : mark l = 0
    · rw [if_pos none, if_neg (by simp [none])]
    · rw [if_neg none, if_pos (by simpa using none), List.foldl_cons]

theorem marksOf_div_others {i : Nat} (hi : i ≠ divCounter) : ((marksOf ls val).events.filter fun e => e = i) = [] := by
  induction ls with
  | nil => rfl
  | cons l ls ih => rw [marksOf_cons, Marks.join, List.filter_append, ih, h, divMarks_others _ hi, List.append_nil]

end

/-! The instructions. -/

section
variable {s : State} {c : Ctx} (hc : s.ctx? = some c) {f : RF} (h : c.any f.g = true) (ht : scalarTy f.ty = true) (rem : Bool)
include hc h ht

theorem scalarDivision :
    let a := scalarIn f.ty (c.sp.s f.sa.toNat)
    let b := scalarIn f.ty (c.sB f)
    ∃ t, scalarInt f (opDivRem rem) s = .next t
      ∧ ScalarWritten s t c f.dst (scalarOut f.ty (if rem then remainder a b else quotient a b))
      ∧ t.stickyAt c.r.group = s.stickyAt c.r.group ||| divSticky f.ty a b
      ∧ t.counterAt c.g.launch divCounter =
          (if divSticky f.ty a b = 0 then s.counterAt c.g.launch divCounter else sat32 (s.counterAt c.g.launch divCounter))
      ∧ ∀ i, i ≠ divCounter → t.counterAt c.g.launch i = s.counterAt c.g.launch i := by
  intro a b
  have element := opDivRem_eq rem f.ty (narrowS_lt f.ty (c.sp.s f.sa.toNat)) (narrowS_lt f.ty (c.sB f))
  rw [asInt_narrowS ht, asInt_narrowS ht] at element
  have written := scalarOp_written hc h f.dst
    { val := wrapTo (tyW f.ty) (if rem then remainder a b else quotient a b), marks := divMarks (divSticky f.ty a b) } (extendS f.ty)
  obtain ⟨sticky, counters⟩ := scalarOp_flags hc h f.dst
    { val := wrapTo (tyW f.ty) (if rem then remainder a b else quotient a b), marks := divMarks (divSticky f.ty a b) } (extendS f.ty)
  refine ⟨_, (withCtx_of hc _).trans (by rw [element]), ?_, ?_, ?_, fun i hi => ?_⟩
  · exact extendS_wrapTo ht _ ▸ written
  · exact sticky.trans (by rw [divMarks_sticky])
  · exact (counters _).trans (divMarks_count _ _)
  · exact (counters i).trans (by rw [divMarks_others _ hi]; rfl)

theorem vectorDivision :
    let n := intSpan f.ty
    let a (l : Nat) : Int := elemIn f.ty (c.va f n l) 0
    let b (l : Nat) : Int := elemIn f.ty (c.vb f n l) 0
    let mark (l : Nat) : W64 := divSticky f.ty (a l) (b l)
    let act := lanesOf (c.active f.g)
    ∃ t, vectorInt f (fun w sg a b _ => opDivRem rem w sg a b) s = .next t
      ∧ LanesWritten s t c (c.vactive f.g) f.dst n
          (fun l v => ElemIs f.ty v 0 (if rem then remainder (a l) (b l) else quotient (a l) (b l)))
      ∧ t.stickyAt c.r.group = act.foldl (fun m l => m ||| mark l) (s.stickyAt c.r.group)
      ∧ t.counterAt c.g.launch divCounter = (act.filter fun l => mark l != 0).foldl (fun n _ => sat32 n) (s.counterAt c.g.launch divCounter)
      ∧ ∀ i, i ≠ divCounter → t.counterAt c.g.launch i = s.counterAt c.g.launch i := by
  intro n a b mark act
  have width := (scalarTy_width ht).2
  have va (l : Nat) : c.va f n l < 2 ^ tyW f.ty := width ▸ c.va_lt f l (intSpan_cases _)
  have vb (l : Nat) : c.vb f n l < 2 ^ tyW f.ty := width ▸ c.vb_lt f l (intSpan_cases _)
  have element (l : Nat) : opDivRem rem (tyW f.ty) (tySigned f.ty) (c.va f n l) (c.vb f n l)
      = { val := wrapTo (tyW f.ty) (if rem then remainder (a l) (b l) else quotient (a l) (b l)), marks := divMarks (mark l) } := by
    rw [opDivRem_eq rem f.ty (va l) (vb l), ← elemIn_zero (va l), ← elemIn_zero (vb l)]
  obtain ⟨t, run, written, marked⟩ := vectorInt_lane hc h ht (op := fun w sg a b _ => opDivRem rem w sg a b)
  have marks (l : Nat) := congrArg Elem.marks (element l)
  refine ⟨t, run, written.imp fun l v _ _ hv => ?_, ?_, ?_, fun i hi => ?_⟩
  · rw [hv, element, Nat.mod_eq_of_lt (wrapTo_lt ..)]
    exact elemIs_wrapTo ..
  · exact marked.sticky.trans (marksOf_sticky (fun l => by rw [element]; exact divMarks_sticky ..) _ _)
  · exact (marked.counters _).trans (marksOf_div_count marks _)
  · exact (marked.counters i).trans (by rw [marksOf_div_others marks hi]; rfl)

end

/-- Settles O2: division of one element is the wrapped quotient or remainder with its mark (`opDivRem_eq`), and marks add up lane by lane
(`marksOf_sticky`, `marksOf_div_count`). -/
theorem integerDivisionResults : Obligations.IntegerDivisionResults := by
  unfold Obligations.IntegerDivisionResults
  exact ⟨fun f s c hc h ht => ⟨scalarDivision hc h ht false, scalarDivision hc h ht true⟩,
    fun f s c hc h ht => ⟨vectorDivision hc h ht false, vectorDivision hc h ht true⟩⟩

end Sys2Proof.Machine
end


section
/-! Cross-lane instructions, scans and reductions (O12). -/

namespace Sys2Proof.Machine

/-! Source lanes. -/

theorem Ctx.source_lt (c : Ctx) (f : RF) (usable : LaneMask) {n : Nat} (hn : n = 1 ∨ n = 2) (l : Nat) : c.source f usable n l < 2 ^ (32 * n) := by
  unfold Ctx.source
  split
  · exact c.va_lt f l hn
  · positivity

/-- A cross-lane instruction that writes the active lanes, with values that fit their registers. -/
theorem activeOp_values {s : State} {c : Ctx} (hc : s.ctx? = some c) {q : Guard} (h : c.any q = true) {i : Instr} {dst : BitVec 8} {n : Nat}
    (hn : n = 1 ∨ n = 2) {val : Nat → Nat} (small : ∀ l, val l < 2 ^ (32 * n)) (e : exec i s = .next (activeOp s c q dst n val)) :
    ∃ t, exec i s = .next t ∧ FlagsKept s t c ∧ LanesWritten s t c (c.active q) dst n fun l v => v = val l := by
  obtain ⟨written, flags⟩ := activeOp_written hc h dst hn val
  exact ⟨_, e, flags, written.imp fun l _ _ _ hv => hv.trans (Nat.mod_eq_of_lt (small l))⟩

/-- The lanes of a mask below a lane. -/
theorem lanesOf_below (m : LaneMask) {l : Nat} (hl : l < 64) : (lanesOf m).filter (fun k => k < l) = (List.range l).filter fun k => m.getLsbD k := by
  have below : (List.range 64).filter (fun k => decide (k < l)) = List.range l := by
    rw [show 64 = l + (64 - l) by omega, List.range_add, List.filter_append, List.filter_eq_self.mpr, List.filter_eq_nil_iff.mpr, List.append_nil]
    · intro k hk
      obtain ⟨j, -, rfl⟩ := List.mem_map.mp hk
      simp
    · intro k hk
      simpa using hk
  rw [lanesOf, List.filter_comm, below]

/-! Scans: a fold over the active lanes in ascending order (R291). -/

/-- One step of a scan, from the element so far. -/
def scanStep (op w : Nat) (sg : Bool) (rnd : Nat) (src : Nat → Nat) (a : Elem) (l : Nat) : Elem :=
  let e := scanCombine op w sg rnd a.val (src l)
  { e with marks := a.marks.join e.marks }

section
variable (op w : Nat) (sg : Bool) (rnd : Nat) (src : Nat → Nat)

/-- At the end a scan holds the fold of all its lanes. -/
theorem scanRun_end (ls : List Nat) (a : Elem) :
    (scanRun op w sg rnd src ls a.val a.marks).2 = ((ls.foldl (scanStep op w sg rnd src) a).val, (ls.foldl (scanStep op w sg rnd src) a).marks) := by
  induction ls generalizing a with
  | nil => rfl
  | cons l ls ih => exact ih (scanStep op w sg rnd src a l)

/-- Before and after each lane it holds the fold of the lanes below, and of those with the lane itself. -/
theorem scanRun_lanes {ls : List Nat} (rising : ls.Pairwise (· < ·)) (a : Elem) :
    (scanRun op w sg rnd src ls a.val a.marks).1 = ls.map fun l => (l, ((ls.filter fun k => k < l).foldl (scanStep op w sg rnd src) a).val,
      ((ls.filter fun k => k ≤ l).foldl (scanStep op w sg rnd src) a).val) := by
  induction ls generalizing a with
  | nil => rfl
  | cons l ls ih =>
    obtain ⟨first, rest⟩ := List.pairwise_cons.mp rising
    have noneBelow : ls.filter (fun k => decide (k < l)) = [] := List.filter_eq_nil_iff.mpr fun k hk => by simpa using (first k hk).le
    have noneThrough : ls.filter (fun k => decide (k ≤ l)) = [] := List.filter_eq_nil_iff.mpr fun k hk => by simpa using first k hk
    rw [scanRun, List.map_cons]
    refine congrArg₂ List.cons ?_ ((ih rest (scanStep op w sg rnd src a l)).trans (List.map_congr_left fun k hk => ?_))
    · simp [noneBelow, noneThrough, scanStep]
    · have later := first k hk
      simp [later, later.le]

end

theorem lanesOf_rising (m : LaneMask) : (lanesOf m).Pairwise (· < ·) := List.pairwise_lt_range.filter _

/-- A scan of an instruction's lanes: their operands combined in the order of a list, from the identity of Table 10.11. -/
def Ctx.scanned (c : Ctx) (f : RF) (ls : List Nat) : Elem :=
  ls.foldl (scanStep (f.m 0 4) (tyW f.ty) (tySigned f.ty) c.sp.rnd fun l => c.va f (intSpan f.ty) l)
    { val := scanIdentity (f.m 0 4) (tyW f.ty) (tySigned f.ty) }

/-- A scan whose float combinations the shadow units pass. -/
theorem scanOp_unshadowed {s : State} {c : Ctx} {f : RF} (h : c.any f.g = true) (u : unshadowed s c = true)
    (finish : State → List (Nat × Nat × Nat) → Nat → State) :
    let act := lanesOf (c.active f.g)
    scanOp s c f finish = ((finish s (act.map fun l => (l, (c.scanned f (act.filter fun k => k < l)).val,
      (c.scanned f (act.filter fun k => k ≤ l)).val)) (c.scanned f act).val).note c.r.group c.g.launch (c.scanned f act).marks).retire c.r := by
  intro act
  have ended := scanRun_end (f.m 0 4) (tyW f.ty) (tySigned f.ty) c.sp.rnd (fun l => c.va f (intSpan f.ty) l) act
    { val := scanIdentity (f.m 0 4) (tyW f.ty) (tySigned f.ty) }
  have lanes := scanRun_lanes (f.m 0 4) (tyW f.ty) (tySigned f.ty) c.sp.rnd (fun l => c.va f (intSpan f.ty) l) (lanesOf_rising (c.active f.g))
    { val := scanIdentity (f.m 0 4) (tyW f.ty) (tySigned f.ty) }
  simp only [scanOp, h, Bool.not_true, Bool.false_eq_true, if_false, withShadow_unshadowed u, ite_self]
  rw [lanes, ended]
  rfl

section
variable {s : State} {c : Ctx} (hc : s.ctx? = some c)
include hc

/-- Lanes that are written leave the marks that go with them. -/
theorem lanes_marked (ls : List Nat) (dst n : Nat) (val : Nat → Nat) (m : Marks) (k : Nat) :
    Marked s (regStep s c (fun g => g.writeLanes ls dst n val) m k) c m := by
  refine ⟨?_, fun i => regStep_counter hc _ _ _ i⟩
  rw [regStep_sticky hc, (writeLanes_only ..).sticky, ctx?_sticky hc]

variable {f : RF} (h : c.any f.g = true) (u : unshadowed s c = true)
include h u

theorem exec_lscan :
    let act := lanesOf (c.active f.g)
    exec (.lscan f) s = .next (regStep s c (fun g => g.writeLanes act f.dst.toNat (intSpan f.ty) fun l =>
      if f.m 4 1 = 1 then (c.scanned f (act.filter fun k => k < l)).val else (c.scanned f (act.filter fun k => k ≤ l)).val)
      (c.scanned f act).marks 1) := by
  refine (withCtx_of hc _).trans (congrArg _ ((scanOp_unshadowed h u _).trans ?_))
  simp only [List.foldl_map]
  rfl

/-- A reduction gives every active lane the whole fold. -/
theorem exec_lred_lanes (lanes : f.m 5 1 = 0) :
    let act := lanesOf (c.active f.g)
    exec (.lred f) s = .next (regStep s c (fun g => g.writeLanes act f.dst.toNat (intSpan f.ty) fun _ => (c.scanned f act).val)
      (c.scanned f act).marks 1) := by
  refine (withCtx_of hc _).trans (congrArg _ ((scanOp_unshadowed h u _).trans ?_))
  simp only [lanes, zero_ne_one, if_false, List.foldl_map]
  rfl

/-- lred.tos is a scalar instruction with the fold as its result. -/
theorem exec_lred_scalar (scalar : f.m 5 1 = 1) :
    exec (.lred f) s = .next (scalarOp s c f.g f.dst (c.scanned f (lanesOf (c.active f.g)))
      fun v => if 6 ≤ f.m 0 4 then w64 v else extendS f.ty v) := by
  refine (withCtx_of hc _).trans (congrArg _ ((scanOp_unshadowed h u _).trans ?_))
  simp only [scalar, if_true, scalarOp, once, h]

/-- Scans and reductions (R291). -/
theorem scansAndReductions :
    let n := intSpan f.ty
    let act := lanesOf (c.active f.g)
    (∃ t, exec (.lscan f) s = .next t ∧ Marked s t c (c.scanned f act).marks ∧ LanesWritten s t c (c.active f.g) f.dst n fun l v =>
        v = (if f.m 4 1 = 1 then (c.scanned f (act.filter fun k => k < l)).val else (c.scanned f (act.filter fun k => k ≤ l)).val) % 2 ^ (32 * n))
      ∧ (f.m 5 1 = 0 → ∃ t, exec (.lred f) s = .next t ∧ Marked s t c (c.scanned f act).marks
          ∧ LanesWritten s t c (c.active f.g) f.dst n fun _ v => v = (c.scanned f act).val % 2 ^ (32 * n))
      ∧ (f.m 5 1 = 1 → ∃ t, exec (.lred f) s = .next t ∧ Marked s t c (c.scanned f act).marks
          ∧ ScalarWritten s t c f.dst (if 6 ≤ f.m 0 4 then w64 (c.scanned f act).val else extendS f.ty (c.scanned f act).val)) := by
  intro n act
  have span := intSpan_cases f.ty
  refine ⟨⟨_, exec_lscan hc h u, ?_, ?_⟩, fun lanes => ⟨_, exec_lred_lanes hc h u lanes, ?_, ?_⟩,
    fun scalar => ⟨_, exec_lred_scalar hc h u scalar, ?_, scalarOp_written hc h ..⟩⟩
  · exact lanes_marked hc ..
  · exact lanes_written hc _ _ span _ _ _
  · exact lanes_marked hc ..
  · exact lanes_written hc _ _ span _ _ _
  · obtain ⟨sticky, counters⟩ := scalarOp_flags hc h f.dst (c.scanned f act) fun v => if 6 ≤ f.m 0 4 then w64 v else extendS f.ty v
    exact ⟨sticky, counters⟩

end

/-- Settles O12: what a lane receives fits its registers (`laneOp_values`, `activeOp_values`), and a scan holds, before and after each lane, the fold of
the lanes below it and with it (`scanRun_lanes`). -/
theorem crossLaneResults : Obligations.CrossLaneResults := by
  unfold Obligations.CrossLaneResults
  refine ⟨?sources, fun f s c hc h _ u => scansAndReductions hc h u⟩
  intro f s c hc h n act quad src gives
  have span := intSpan_cases f.ty
  have fits (usable : LaneMask) (l : Nat) := c.source_lt f usable span l
  refine ⟨?qswz, ?qbcast, ?lxchg, ?lshfl, ?lrot, ?qhelp, ?lidx⟩
  case qswz =>
    simp only [Nat.mul_comm 4]
    exact laneOp_values hc h span (fun l => fits ..) (withCtx_of hc _)
  case qbcast =>
    simp only [Nat.mul_comm 4]
    exact laneOp_values hc h span (fun l => fits ..) (withCtx_of hc _)
  case lxchg => exact activeOp_values hc h span (fun l => fits ..) (withCtx_of hc _)
  case lshfl => exact activeOp_values hc h span (fun l => fits ..) (withCtx_of hc _)
  case lrot => exact activeOp_values hc h span (fun l => fits ..) (withCtx_of hc _)
  case qhelp =>
    refine laneOp_values hc h span (fun l => ?_) ((withCtx_of hc _).trans (congrArg _ (congrArg (laneOp s c f.g f.dst n) (funext fun l => ?_))))
    · split
      · exact c.va_lt f l span
      · cases (List.range 4).find? fun i => act.getLsbD (4 * (l / 4) + i) with
        | none => exact Nat.two_pow_pos _
        | some i => exact c.va_lt f _ span
    · simp only [Nat.mul_comm 4]
      split
      · rfl
      · cases (List.range 4).find? fun i => act.getLsbD (l / 4 * 4 + i) <;> rfl
  case lidx =>
    have small (m : LaneMask) (l : Nat) : ((lanesOf m).filter fun k => k < l).length < 2 ^ (32 * 1) := by
      have all := (List.length_filter_le (fun k => decide (k < l)) (lanesOf m)).trans (List.length_filter_le _ (List.range 64))
      rw [List.length_range] at all
      omega
    obtain ⟨t, run, flags, written⟩ := activeOp_values (i := .lidx f) hc h (.inl rfl) (fun l => small _ l) (withCtx_of hc _)
    refine ⟨t, run, flags, written.imp fun l v hl _ hv => ?_⟩
    rw [hv, lanesOf_below _ hl]
    by_cases every : f.m 0 1 = 1 <;> simp [every, act, beq_eq_decide]

end Sys2Proof.Machine
end


section
/-! Activation tables: fact, vexpr and atload (O13). -/

namespace Sys2Proof.Machine

/-! vexpr. -/

/-- Only the token of the activation table reads the bank (Table 10.9). -/
theorem vexprTok_bank {tok : Nat} (h : tok ≠ 13) (rnd : Nat) (bank bank' : Option Bank) (ins : Nat → Nat) (st : List Nat × Marks) :
    vexprTok rnd bank ins st tok = vexprTok rnd bank' ins st tok :=
  match tok, h with
  | 13, h => absurd rfl h
  | 0, _ | 1, _ | 2, _ | 3, _ | 4, _ | 5, _ | 6, _ | 7, _ | 8, _ | 9, _ | 10, _ | 11, _ | 12, _ | 14, _ | _ + 15, _ => rfl

theorem vexprRun_bank {prog : List Nat} (h : ¬prog.contains 13 = true) (rnd : Nat) (bank bank' : Option Bank) (ins : Nat → Nat)
    (st : List Nat × Marks) : prog.foldl (vexprTok rnd bank ins) st = prog.foldl (vexprTok rnd bank' ins) st :=
  List.foldl_ext _ _ _ fun st _ mem => vexprTok_bank (fun e => h (List.contains_iff_mem.mpr (e ▸ mem))) rnd bank bank' ins st

/-- A lane's result of a program. -/
def Ctx.vexprVal (c : Ctx) (f : RF) (prog : List Nat) (bank : Option Bank) (l : Nat) : Elem :=
  let ins (n : Nat) : Nat := if n = 0 then c.va f 1 l else if n = 1 then c.vb f 1 l else if n = 2 then c.vc f 1 l else (c.g.v (f.m 0 8) l).toNat
  let r := prog.foldl (vexprTok c.sp.rnd bank ins) ([], {})
  { val := r.1.headD 0, marks := r.2 }

section
variable {s : State} {c : Ctx} (hc : s.ctx? = some c) {f : RF} (h : c.any f.g = true) (u : unshadowed s c = true)
include hc h u

/-- A program that needs no loading bank writes each lane's result, and is over after its two words (R288, R289). -/
theorem exec_vexpr {toks : W64} (ready : (vexprProgram toks).contains 13 = true → (s.core c.crew.core).bankLoading c.sp.atb = false) :
    let val := c.vexprVal f (vexprProgram toks) ((s.core c.crew.core).bankFor c.sp.atb c.launch.tenant)
    exec (.vexpr f toks) s = .next (regStep s c (fun g => g.writeLanes (lanesOf (c.vactive f.g)) f.dst.toNat 1 fun l => (val l).val)
      (marksOf (lanesOf (c.active f.g)) val) 2) := by
  intro val
  refine (withCtx_of hc _).trans (congrArg _ ?_)
  simp only [h, Bool.not_true, Bool.false_eq_true, if_false, withShadow_unshadowed u, ite_self]
  by_cases table : (vexprProgram toks).contains 13 = true
  · rw [if_pos table, withBank, ready table]
    rfl
  · rw [if_neg table]
    simp only [vexprRun_bank table _ none ((s.core c.crew.core).bankFor c.sp.atb c.launch.tenant)]
    rfl

/-- fact with no loading bank (R286). -/
theorem exec_fact (ready : (s.core c.crew.core).bankLoading c.sp.atb = false) :
    exec (.fact f) s = .next (laneOp s c f.g f.dst 1 fun l => mapElems (tyFmt f.ty).width (tyFCount f.ty)
      (fun a _ _ => factElem (tyFmt f.ty) ((s.core c.crew.core).bankFor c.sp.atb c.launch.tenant) c.sp.rnd a) (c.va f 1 l) 0 0) := by
  refine (withCtx_of hc _).trans (congrArg _ ?_)
  simp only [h, Bool.not_true, Bool.false_eq_true, if_false, withBank, ready, floatOp_unshadowed h u]

end

theorem exec_fact_waits {s : State} {c : Ctx} (hc : s.ctx? = some c) {f : RF} (h : c.any f.g = true)
    (loading : (s.core c.crew.core).bankLoading c.sp.atb = true) : exec (.fact f) s = .next (s.waitFor c.r (.bank c.sp.atb)) := by
  refine (withCtx_of hc _).trans (congrArg _ ?_)
  simp only [h, Bool.not_true, Bool.false_eq_true, if_false, withBank, loading, if_true]

/-! A read of bytes whose lines the L1 holds (R284). -/

/-- Neither a bank nor anything else of a core's own bears on a hit. -/
theorem InL1.setCore {s : State} {c : Ctx} {acc : Access} {va : W64} {x : Xlated} {l : L1Line} (h : InL1 s c acc va x l) (k : Nat) (y : Core) :
    InL1 (s.setCore k y) c acc va x l :=
  ⟨h.page, h.near, h.free, h.sound, h.cls, h.line, h.perm, h.whole⟩

/-- The bytes of the pieces of a range, from the lines that hold them. -/
def pieceBytes (y : Nat → Xlated) (l : Nat → L1Line) (pieces : List (Nat × Nat × Nat)) : List Byte :=
  pieces.flatMap fun p => toBytes p.2.2 (lineField (l p.1).data ((y p.1).pa % 128) p.2.2)

section
variable {s : State} {c : Ctx} {y : Nat → Xlated} {l : Nat → L1Line} (hk : c.checked = false)
include hk

/-- Piece by piece a read collects the bytes, and touches no more than pseudo-LRU bits. -/
theorem readPieces_hit {pieces : List (Nat × Nat × Nat)} (h : ∀ p ∈ pieces, InL1 s c .read (w64 p.1) (y p.1) (l p.1)) {t : State}
    (ht : OnlyL1s s t) (hl : t.caches.l1 = s.caches.l1) (bs : List Byte) :
    ∃ u, OnlyL1s s u ∧ u.caches.l1 = s.caches.l1
      ∧ (pieces.map fun p => (p, (.ok (y p.1) : XRes))).foldl (fun (r : Res (List Byte)) e =>
          r.bind fun s bs =>
            match e.2 with
            | .ok x => (readLane c e.1.2.2 s 0 x).bind fun s v => .ok s (bs ++ toBytes e.1.2.2 v)
            | _ => .ok s bs) (.ok t bs) = .ok u (bs ++ pieceBytes y l pieces) := by
  induction pieces generalizing t bs with
  | nil => exact ⟨t, ht, hl, by simp [pieceBytes]⟩
  | cons p pieces ih =>
    have read := readLane_hit (x := fun _ => y p.1) (l1 := fun _ => l p.1) (lane := 0) hk (h p (List.mem_cons_self ..)) ht hl p.2.2
    obtain ⟨u, only, same, rest⟩ := ih (fun q hq => h q (List.mem_cons_of_mem _ hq)) (ht.trans (touchL1_onlyL1s ..)) hl
      (bs ++ toBytes p.2.2 (lineField (l p.1).data ((y p.1).pa % 128) p.2.2))
    refine ⟨u, only, same, ?_⟩
    rw [List.map_cons, List.foldl_cons, pieceBytes, List.flatMap_cons, ← List.append_assoc]
    refine Eq.trans (congrArg (List.foldl _ · _) ?_) rest
    simp only [Res.bind, read]
    rfl

variable {n va : Nat} (ha : c.sp.aborted = none) (h : ∀ p ∈ linePieces va (n + 1) n, InL1 s c .read (w64 p.1) (y p.1) (l p.1))
include ha h

theorem withBytes_hit (mask : LaneMask) (k : State → List Byte → State) :
    ∃ t, OnlyL1s s t ∧ t.caches.l1 = s.caches.l1 ∧ withBytes s c mask va n k = k t (pieceBytes y l (linePieces va (n + 1) n)) := by
  obtain ⟨t, only, same, run⟩ := readPieces_hit hk h (.rfl' s) rfl []
  refine ⟨t, only, same, ?_⟩
  have pages : (linePieces va (n + 1) n).map (fun p => (p, xlate s c.crew.core c.launch.tenant (w64 p.1) .read c.sp.faults))
      = (linePieces va (n + 1) n).map fun p => (p, (.ok (y p.1) : XRes)) := List.map_congr_left fun p hp => by rw [(h p hp).page]
  have tlb : (linePieces va (n + 1) n).foldl (fun s p => fillTlb s c.crew.core c.launch.tenant (w64 p.1) .read) s = s :=
    List.foldlRecOn (motive := fun t => t = s) _ _ rfl fun t ht p hp => by rw [ht, fillTlb_near (h p hp).near]
  unfold withBytes withBytesOf
  simp only [pages, List.filterMap_map, Function.comp_def, ha, tlb]
  rw [List.filterMap_eq_nil_iff.mpr fun _ _ => rfl, List.filterMap_eq_nil_iff.mpr fun _ _ => rfl]
  exact congrArg (fun r : Res (List Byte) => match r with
    | .ok s bs => k s bs
    | .stop s w => if w.fatal then raiseStop s c mask .read w else waitStop s c.r c.part c.launch.tenant false w) run

end

/-! atload. -/

theorem Tbl.find?_range {α : Type} (g : Nat → α) {m n : Nat} (h : n < m) : Tbl.find? ((List.range m).map fun n => (n, g n)) n = some (g n) := by
  have once : (((List.range m).map fun n => (n, g n)).map (·.1)).Nodup := by
    rw [List.map_map]
    exact (List.map_id _).symm ▸ List.nodup_range
  exact Tbl.find?_of_mem once (List.mem_map.mpr ⟨n, List.mem_range.mpr h, rfl⟩)

/-- Where a bank's image places its parts (R284). -/
theorem parseBank_some {img : List Byte} {tenant : Nat} {k : Bank} (h : parseBank img tenant = some k) :
    k.valid = true ∧ k.tenant = tenant ∧ k.lo = BitVec.ofNat 32 (leBytes ((img.drop 4).take 4))
      ∧ k.scale = BitVec.ofNat 32 (leBytes ((img.drop 8).take 4)) ∧ k.loading = none
      ∧ ∀ n, n < 1024 → Tbl.find? k.coef n = some (BitVec.ofNat 32 (leBytes ((img.drop (64 + 4 * n)).take 4))) := by
  unfold parseBank at h
  dsimp only at h
  split at h
  · obtain rfl := Option.some.inj h
    refine ⟨rfl, rfl, rfl, rfl, rfl, fun n hn => ?_⟩
    dsimp only
    rw [Tbl.find?_range _ hn]
  · cases h

/-- A split may take a bank that it loads itself, or that none loads and no other split has bound (R284, R285). -/
theorem bankTaken_iff (s : State) (c : Ctx) (b : Nat) :
    bankTaken s c b = false ↔ (∃ k, Tbl.find? (s.core c.crew.core).banks b = some k ∧ k.loading = some c.r)
      ∨ bindCount s c.crew.core b = (if c.sp.atb = b then 1 else 0)
        ∧ ∀ k, Tbl.find? (s.core c.crew.core).banks b = some k → k.loading = none := by
  dsimp only [bankTaken]
  cases bank : Tbl.find? (s.core c.crew.core).banks b with
  | none => simp
  | some k => cases loading : k.loading <;> simp [loading]

/-- The bank of a core that a split loads, once its image has been read. -/
def storeBank (s : State) (core b : Nat) (k : Bank) : State := s.setCore core { s.core core with banks := Tbl.put (s.core core).banks b k }

theorem SplitKept.wait {sp sp' : Split} (h : SplitKept sp sp') : sp'.wait = sp.wait := by
  rw [h]
  rfl

/-- The read over, the bank holds the image and is no longer loading. -/
theorem endLoading_stored {t : State} {r : SplitRef} {sp : Split} {core b : Nat} {k : Bank} (found : t.split? r = some sp) (ready : sp.wait = .none)
    (bank : Tbl.find? (t.core core).banks b = some k) (idle : k.loading = none) :
    ∃ x : Core, endLoading t r core b = t.setCore core x ∧ Tbl.find? x.banks b = some k := by
  refine ⟨{ t.core core with banks := Tbl.put (t.core core).banks b { Tbl.getD (t.core core).banks b Bank.reset with loading := none } }, ?_, ?_⟩
  · simp [endLoading, found, ready, setLoading]
  · rw [Tbl.find?_put_same, Tbl.getD, bank, Option.getD_some, ← idle]

/-- An instruction that has retired and written no register, flag or byte (R205). -/
structure OnlyRetired (s t : State) (c : Ctx) : Prop where
  split : ∃ sp, t.split? c.r = some sp ∧ SplitKept c.sp sp
  scalars : ScalarsKept s t c
  vectors : VectorsKept s t c
  preds : PredsKept s t c
  flags : FlagsKept s t c
  others : OthersKept s t c.r
  memory : ∀ p, t.byteAt p = s.byteAt p

theorem retire_eq_regStep (s : State) (c : Ctx) : s.retire c.r = regStep s c id {} 1 := by
  refine congrArg (fun groups => { s with groups := groups }) (Eq.symm ?_)
  exact Tbl.upd_upd s.groups c.r.group id _

theorem onlyRetired_retire {s : State} {c : Ctx} (hc : s.ctx? = some c) : OnlyRetired s (s.retire c.r) c := by
  have u : RegUpdate c id c.sp := ⟨rfl, ctx?_splits hc, rfl, fun _ _ => rfl⟩
  rw [retire_eq_regStep]
  have frame := regStep_frame hc u {} 1
  refine ⟨frame.split, fun n => ?_, fun n l => ?_, fun p => ?_, ⟨?_, fun i => regStep_counter hc _ _ _ i⟩, frame.others, frame.outside.memory⟩
  · rw [regStep_sreg hc u, ctx?_sreg hc]
  · rw [regStep_vreg hc, ctx?_vreg hc, id]
  · rw [regStep_pred hc, ctx?_pred hc, id]
  · rw [regStep_sticky hc, ctx?_sticky hc, id]
    exact BitVec.or_zero

/-- Nothing but cores and caches differs. -/
def OnlyCores (s t : State) : Prop := ∃ cores caches, t = { s with cores := cores, caches := caches }

theorem OnlyL1s.onlyCores {s t : State} (h : OnlyL1s s t) : OnlyCores s t := ⟨_, _, h.rest⟩

theorem OnlyCores.setCore {s t : State} (h : OnlyCores s t) (k : Nat) (x : Core) : OnlyCores s (t.setCore k x) := by
  obtain ⟨cores, caches, rfl⟩ := h
  exact ⟨_, _, rfl⟩

theorem OnlyCores.of_setCore {s t : State} {k : Nat} {x : Core} (h : OnlyCores (s.setCore k x) t) : OnlyCores s t := by
  obtain ⟨cores, caches, rfl⟩ := h
  exact ⟨_, _, rfl⟩

theorem OnlyCores.onlyRetired {s t : State} {c : Ctx} (hc : s.ctx? = some c) (h : OnlyCores s t) : OnlyRetired s (t.retire c.r) c := by
  obtain ⟨cores, caches, rfl⟩ := h
  have r := onlyRetired_retire hc
  exact ⟨r.split, r.scalars, r.vectors, r.preds, r.flags, ⟨r.others.groups, r.others.splits⟩, r.memory⟩

section
variable {s : State} {c : Ctx} (hc : s.ctx? = some c) {f : RF} (h : c.any f.g = true)
include hc h

theorem exec_atload :
    exec (.atload f) s = .next
      (let b := f.m 0 1
       let a := c.sp.s f.sa.toNat
       let core := c.crew.core
       if a.toNat % 64 != 0 then raise s c causeAlign c.sp.mask (sector a)
       else if bankTaken s c b then s.waitFor c.r (.bankFree b)
       else
         endLoading
           (withBytes (setLoading s core b (some c.r)) c c.sp.mask a.toNat 4160 fun s bs =>
             match parseBank bs c.launch.tenant with
             | none => raise s c causeIllegal c.sp.mask (sector a)
             | some k => (storeBank s core b k).retire c.r)
           c.r core b) :=
  (withCtx_of hc _).trans (congrArg _ (if_pos h))

/-- An image that the L1 holds whole and that is well formed becomes the bank (R284 steps 4 to 6). -/
theorem exec_atload_hit {y : Nat → Xlated} {l : Nat → L1Line} {k : Bank}
    (aligned : (c.sp.s f.sa.toNat).toNat % 64 = 0) (free : bankTaken s c (f.m 0 1) = false) (hk : c.checked = false) (ha : c.sp.aborted = none)
    (lines : ∀ p ∈ linePieces (c.sp.s f.sa.toNat).toNat 4161 4160, InL1 s c .read (w64 p.1) (y p.1) (l p.1)) (ready : c.sp.wait = .none)
    (image : parseBank (pieceBytes y l (linePieces (c.sp.s f.sa.toNat).toNat 4161 4160)) c.launch.tenant = some k) :
    ∃ t, exec (.atload f) s = .next t ∧ OnlyRetired s t c ∧ Tbl.find? (t.core c.crew.core).banks (f.m 0 1) = some k := by
  obtain ⟨-, -, -, -, idle, -⟩ := parseBank_some image
  obtain ⟨t, only, same, read⟩ := withBytes_hit (s := setLoading s c.crew.core (f.m 0 1) (some c.r)) hk ha
    (fun p hp => (lines p hp).setCore _ _) c.sp.mask fun s bs =>
      match parseBank bs c.launch.tenant with
      | none => raise s c causeIllegal c.sp.mask (sector (c.sp.s f.sa.toNat))
      | some k => (storeBank s c.crew.core (f.m 0 1) k).retire c.r
  simp only [image] at read
  have stored := (only.onlyCores.of_setCore).setCore c.crew.core
    { t.core c.crew.core with banks := Tbl.put (t.core c.crew.core).banks (f.m 0 1) k }
  obtain ⟨sp, found, kept⟩ := (stored.onlyRetired hc).split
  have bank : Tbl.find? (((storeBank t c.crew.core (f.m 0 1) k).retire c.r).core c.crew.core).banks (f.m 0 1) = some k := by
    show Tbl.find? ((t.setCore c.crew.core _).core c.crew.core).banks _ = _
    rw [State.setCore_core, Tbl.find?_put_same]
  obtain ⟨x, done, holds⟩ := endLoading_stored found (kept.wait.trans ready) bank idle
  refine ⟨_, (exec_atload hc h).trans (congrArg _ ?_), (stored.setCore c.crew.core x).onlyRetired hc, ?_⟩
  · simp only [aligned, bne_self_eq_false, Bool.false_eq_true, if_false, free]
    exact (congrArg (endLoading · c.r c.crew.core (f.m 0 1)) read).trans done
  · show Tbl.find? (((storeBank t c.crew.core (f.m 0 1) k).setCore c.crew.core x).core c.crew.core).banks _ = _
    rw [State.setCore_core, holds]

end

/-- Settles O13: fact and vexpr are per-lane operations once the bank is not loading and the shadow units pass them (`exec_fact`, `exec_vexpr`); atload
reads its image piece by piece in hits (`withBytes_hit`), of which only the bank and pseudo-LRU bits keep a trace (`exec_atload_hit`). -/
theorem activationResults : Obligations.ActivationResults := by
  unfold Obligations.ActivationResults
  intro f toks s c hc h u core bank t ins prog run
  refine ⟨fun ready => ?fact, fun loading => exec_fact_waits hc h loading, fun ready => ?vexpr, ?atload⟩
  case fact => exact laneOp_gives hc h (.inl rfl) (exec_fact hc h u ready)
  case vexpr => exact ⟨_, exec_vexpr hc h u ready, lanes_written hc _ _ (.inl rfl) _ _ _, lanes_marked hc ..⟩
  case atload =>
    intro b a mine unbound free
    have taken : bankTaken s c b = false ↔ free := bankTaken_iff s c b
    refine ⟨fun misaligned => ?misaligned, fun aligned busy => ?busy, ?hit⟩
    case misaligned => exact (exec_atload hc h).trans (congrArg _ (if_pos (bne_iff_ne.mpr misaligned)))
    case busy =>
      rw [← taken, Bool.not_eq_false] at busy
      refine (exec_atload hc h).trans (congrArg _ ((if_neg ?_).trans (if_pos busy)))
      rw [bne_iff_ne]
      exact not_not_intro aligned
    case hit =>
      intro y l k aligned mayTake hk ha pieces image lines ready parsed
      obtain ⟨t, run, kept, holds⟩ := exec_atload_hit hc h aligned (taken.mpr mayTake) hk ha lines ready parsed
      obtain ⟨valid, tenant, lo, scale, -, coef⟩ := parseBank_some parsed
      exact ⟨t, run, holds, valid, tenant, lo, scale, coef, kept.split, kept.scalars, kept.vectors, kept.preds, kept.flags, kept.others, kept.memory⟩

end Sys2Proof.Machine
end


section
/-! Compares, classes and special values of the float instructions (O9). -/

namespace Sys2Proof.Machine

/-! The order of two numbers. -/

theorem cmp_isNone (x y : FVal) : (x.cmp y).isNone = (x.isNan || y.isNan) := by
  cases x <;> cases y <;> rfl

theorem cmp_swap (x y : FVal) : y.cmp x = (x.cmp y).map Ordering.swap := by
  cases x with
  | nan => cases y <;> rfl
  | inf a =>
    cases y with
    | nan => rfl
    | inf b => cases a <;> cases b <;> rfl
    | fin b n d => cases a <;> rfl
  | fin a m e =>
    cases y with
    | nan => rfl
    | inf b => cases b <;> rfl
    | fin b n d => simp only [FVal.cmp, Option.map_some, min_comm d e, Int.compare_swap]

/-- A finite value as a rational. -/
def finValue (neg : Bool) (m : Nat) (e : Int) : Rat := (if neg then -(m : Rat) else m) * (2 : Rat) ^ e

/-- A finite value over a power of two at or below its exponent is a whole number. -/
theorem toScale_value (neg : Bool) (m : Nat) {e lo : Int} (h : lo ≤ e) : (toScale neg m e lo : Rat) * 2 ^ lo = finValue neg m e := by
  obtain ⟨k, rfl⟩ := Int.le.dest h
  have pow : ((2 ^ k : Nat) : Rat) * 2 ^ lo = 2 ^ (lo + k) := by
    rw [zpow_add₀ (by norm_num), zpow_natCast, mul_comm]
    push_cast
    rfl
  have magnitude : ((m * 2 ^ (lo + (k : Int) - lo).toNat : Nat) : Rat) * 2 ^ lo = m * 2 ^ (lo + (k : Int)) := by
    rw [show (lo + (k : Int) - lo).toNat = k by omega, Nat.cast_mul, mul_assoc, pow]
  unfold toScale finValue
  cases neg
  · exact_mod_cast magnitude
  · rw [if_pos rfl, if_pos rfl, neg_mul, ← magnitude]
    push_cast
    ring

/-- Finite values compare as the rationals they stand for (Table 10.7). -/
theorem cmp_fin (a b : Bool) (m n : Nat) (e d : Int) :
    ((FVal.fin a m e).cmp (.fin b n d) = some .eq ↔ finValue a m e = finValue b n d)
      ∧ ((FVal.fin a m e).cmp (.fin b n d) = some .lt ↔ finValue a m e < finValue b n d) := by
  have unit : (0 : Rat) < 2 ^ min e d := by positivity
  rw [← toScale_value a m (min_le_left e d), ← toScale_value b n (min_le_right e d)]
  constructor
  · rw [mul_left_inj' unit.ne', FVal.cmp, Option.some.injEq, Int.compare_eq_eq]
    exact_mod_cast Iff.rfl
  · rw [mul_lt_mul_iff_left₀ unit, FVal.cmp, Option.some.injEq, Int.compare_eq_lt]
    exact_mod_cast Iff.rfl

/-- An infinity lies beyond every other number (Table 10.7). -/
theorem cmp_inf {y : FVal} (neg : Bool) (number : y.isNan = false) (other : y ≠ .inf neg) :
    (FVal.inf neg).cmp y = some (if neg then .lt else .gt) := by
  cases y with
  | nan => simp [FVal.isNan] at number
  | inf b => cases neg <;> cases b <;> simp_all [FVal.cmp]
  | fin b n d => rfl

/-! fmin and fmax (R278). -/

section
variable (f : FFmt) (mx : Bool) (a b : Nat)

theorem fMinMax_nan (h : ((f.decode a).isNan || (f.decode b).isNan) = true) :
    fMinMaxElem f mx a b = { val := if (f.decode a).isNan then (if (f.decode b).isNan then f.nan else b) else a } := by
  rw [← cmp_isNone, Option.isNone_iff_eq_none] at h
  simp only [fMinMaxElem, h]

variable {a b}

theorem fMinMax_bothNan (ha : (f.decode a).isNan = true) (hb : (f.decode b).isNan = true) : fMinMaxElem f mx a b = { val := f.nan } := by
  rw [fMinMax_nan f mx a b (by rw [ha]; rfl), if_pos ha, if_pos hb]

theorem fMinMax_firstNan (ha : (f.decode a).isNan = true) (hb : (f.decode b).isNan = false) : fMinMaxElem f mx a b = { val := b } := by
  rw [fMinMax_nan f mx a b (by rw [ha]; rfl), if_pos ha, if_neg (by rw [hb]; exact Bool.false_ne_true)]

theorem fMinMax_secondNan (ha : (f.decode a).isNan = false) (hb : (f.decode b).isNan = true) : fMinMaxElem f mx a b = { val := a } := by
  rw [fMinMax_nan f mx a b (by rw [hb, Bool.or_true]), if_neg (by rw [ha]; exact Bool.false_ne_true)]

variable (a b)

/-- Of two numbers the lesser is chosen, and -0 is less than +0. -/
theorem fMinMax_ordered {o : Ordering} (h : (f.decode a).cmp (f.decode b) = some o) :
    fMinMaxElem f mx a b
      = { val := if (o == .lt || (o == .eq && (f.decode a).isNeg && !(f.decode b).isNeg)) != mx then a else b } := by
  simp only [fMinMaxElem, h]

end

/-! Bit patterns of zeros, infinities and NaN (R228 to R230). -/

section
variable {f : FFmt} (hf : f.Ieee)
include hf

theorem decode_pattern (neg : Bool) {m : Nat} (hm : m < 2 ^ (f.width - 1)) :
    f.decode ((if neg then 2 ^ (f.width - 1) else 0) + m)
      = if m < 2 ^ (f.width - 1) - 2 ^ (f.prec - 1) then f.mag neg m
        else if m = 2 ^ (f.width - 1) - 2 ^ (f.prec - 1) then .inf neg else .nan := by
  have pos : 0 < 2 ^ (f.width - 1) := by positivity
  have sign : ((if neg then 2 ^ (f.width - 1) else 0) + m) / 2 ^ (f.width - 1) % 2 = if neg then 1 else 0 := by
    cases neg
    · simp [Nat.div_eq_of_lt hm]
    · simp [Nat.add_div_left _ pos, Nat.div_eq_of_lt hm]
  have magnitude : ((if neg then 2 ^ (f.width - 1) else 0) + m) % 2 ^ (f.width - 1) = m := by
    cases neg <;> simp [Nat.mod_eq_of_lt hm]
  simp only [FFmt.decode, hf.ieee, Bool.false_eq_true, if_false, sign, magnitude]
  cases neg <;> rfl

/-- The exponent field's ones lie above every finite magnitude and below the NaNs. -/
theorem ones_bounds : 0 < 2 ^ (f.width - 1) - 2 ^ (f.prec - 1) ∧ 2 ^ (f.prec - 1) = 2 * 2 ^ (f.prec - 2)
    ∧ 2 ^ (f.prec - 1) < 2 ^ (f.width - 1) := by
  have two := hf.prec
  have wide := hf.width
  have below : 2 ^ (f.prec - 1) < 2 ^ (f.width - 1) := Nat.pow_lt_pow_right (by decide) (by omega)
  exact ⟨by omega, by rw [← pow_succ']; congr 1; omega, below⟩

theorem decode_zero (neg : Bool) : f.decode (if neg then 2 ^ (f.width - 1) else 0) = .fin neg 0 (f.emin - (f.prec - 1)) := by
  obtain ⟨pos, -, -⟩ := ones_bounds hf
  have zero := decode_pattern hf neg (m := 0) (by positivity)
  rw [Nat.add_zero, if_pos pos] at zero
  simpa [FFmt.mag] using zero

theorem decode_inf (neg : Bool) : f.decode (f.inf neg) = .inf neg := by
  obtain ⟨-, -, below⟩ := ones_bounds hf
  have pos : 0 < 2 ^ (f.prec - 1) := by positivity
  have pattern : f.inf neg = (if neg then 2 ^ (f.width - 1) else 0) + (2 ^ (f.width - 1) - 2 ^ (f.prec - 1)) := by
    simp only [FFmt.inf, hf.ieee, Bool.false_eq_true, if_false]
    omega
  rw [pattern, decode_pattern hf neg (by omega), if_neg (lt_irrefl _), if_pos rfl]

theorem decode_nan : f.decode f.nan = .nan := by
  obtain ⟨-, twice, below⟩ := ones_bounds hf
  have pos : 0 < 2 ^ (f.prec - 2) := by positivity
  have pattern : f.nan = (if false then 2 ^ (f.width - 1) else 0) + (2 ^ (f.width - 1) - 2 ^ (f.prec - 2)) := by
    simp [FFmt.nan, hf.ieee]
  rw [pattern, decode_pattern hf false (by omega), if_neg (by omega), if_neg (by omega)]

theorem code_zero (neg : Bool) : f.code neg 0 = if neg then 2 ^ (f.width - 1) else 0 := by
  simp [FFmt.code, hf.ieee, hf.signed]

/-- Zeros of unlike sign are equal, and -0 is the lesser of them. -/
theorem cmp_zeros : (f.decode 0).cmp (f.decode (2 ^ (f.width - 1))) = some .eq ∧ (f.decode 0).isNeg = false
    ∧ (f.decode (2 ^ (f.width - 1))).isNeg = true := by
  have plus := decode_zero hf false
  have minus := decode_zero hf true
  simp only [Bool.false_eq_true, if_false, if_true] at plus minus
  rw [plus, minus]
  exact ⟨by simp [FVal.cmp, toScale], rfl, rfl⟩

end

theorem fClassOf_oneBit (f : FFmt) (a : Nat) : ∃ k, k < 10 ∧ fClassOf f a = 2 ^ k := by
  unfold fClassOf
  dsimp only
  split_ifs
  exacts [⟨0, by decide, rfl⟩, ⟨1, by decide, rfl⟩, ⟨2, by decide, rfl⟩, ⟨9, by decide, rfl⟩, ⟨5, by decide, rfl⟩,
    ⟨6, by decide, rfl⟩, ⟨4, by decide, rfl⟩, ⟨7, by decide, rfl⟩, ⟨3, by decide, rfl⟩, ⟨8, by decide, rfl⟩]

/-! Conditions of fcmp (Table 10.7). -/

section
variable (f : FFmt) (a b : Nat)

theorem fCmpBit_lt : fCmpBit f 2 a b = true ↔ (f.decode a).cmp (f.decode b) = some .lt := beq_iff_eq
theorem fCmpBit_eq : fCmpBit f 0 a b = true ↔ (f.decode a).cmp (f.decode b) = some .eq := beq_iff_eq
theorem fCmpBit_gt : fCmpBit f 4 a b = true ↔ (f.decode a).cmp (f.decode b) = some .gt := beq_iff_eq

/-- .ne, .le, .ge, .ord and .uno follow from .eq, .lt and .gt, and .gt is .lt of the operands exchanged. -/
theorem fCmpBit_conditions :
    fCmpBit f 7 a b = ((f.decode a).isNan || (f.decode b).isNan) ∧ fCmpBit f 6 a b = !((f.decode a).isNan || (f.decode b).isNan)
      ∧ fCmpBit f 1 a b = !fCmpBit f 0 a b ∧ fCmpBit f 3 a b = (fCmpBit f 2 a b || fCmpBit f 0 a b)
      ∧ fCmpBit f 5 a b = (fCmpBit f 4 a b || fCmpBit f 0 a b) ∧ fCmpBit f 4 a b = fCmpBit f 2 b a := by
  unfold fCmpBit
  rw [← cmp_isNone, cmp_swap (f.decode a) (f.decode b)]
  rcases (f.decode a).cmp (f.decode b) with - | - | - | - <;> exact ⟨rfl, rfl, rfl, rfl, rfl, rfl⟩

/-- The lesser operand is the minimum, and the other one the maximum. -/
theorem fMinMax_lt (h : fCmpBit f 2 a b = true) : fMinMaxElem f false a b = { val := a } ∧ fMinMaxElem f true a b = { val := b } := by
  rw [fCmpBit_lt] at h
  exact ⟨fMinMax_ordered f false a b h, fMinMax_ordered f true a b h⟩

theorem fMinMax_gt (h : fCmpBit f 2 b a = true) : fMinMaxElem f false a b = { val := b } ∧ fMinMaxElem f true a b = { val := a } := by
  obtain ⟨-, -, -, -, -, swap⟩ := fCmpBit_conditions f a b
  rw [← swap, fCmpBit_gt] at h
  exact ⟨fMinMax_ordered f false a b h, fMinMax_ordered f true a b h⟩

/-- Of two numbers one is the minimum and the other the maximum. -/
theorem fMinMax_numbers (ha : (f.decode a).isNan = false) (hb : (f.decode b).isNan = false) :
    (fMinMaxElem f false a b = { val := a } ∧ fMinMaxElem f true a b = { val := b })
      ∨ (fMinMaxElem f false a b = { val := b } ∧ fMinMaxElem f true a b = { val := a }) := by
  have ordered := cmp_isNone (f.decode a) (f.decode b)
  rw [ha, hb, Bool.or_self, Option.isNone_eq_false_iff, Option.isSome_iff_exists] at ordered
  obtain ⟨o, order⟩ := ordered
  rw [fMinMax_ordered f false a b order, fMinMax_ordered f true a b order]
  cases o == .lt || (o == .eq && (f.decode a).isNeg && !(f.decode b).isNeg)
  · exact .inr ⟨rfl, rfl⟩
  · exact .inl ⟨rfl, rfl⟩

end

/-! Special values of the functions (Table 10.6). -/

/-- What a function gives for the two zeros, the two infinities and NaN, as a row of Table 10.6. -/
def SpecialRow (f : FFmt) (op : Nat → Elem) (plusZero minusZero plusInf minusInf : Nat) : Prop :=
  (op 0).val = plusZero ∧ (op (2 ^ (f.width - 1))).val = minusZero ∧ (op (f.inf false)).val = plusInf ∧ (op (f.inf true)).val = minusInf
    ∧ (op f.nan).val = f.nan

theorem round_nan_val (f : FFmt) (rnd : Nat) (sat anyNan anyInf : Bool) : (f.round .nan rnd sat anyNan anyInf).val = f.nan := rfl

/-- The flags of the inputs bear on events alone. -/
theorem roundRat_val (f : FFmt) (neg : Bool) (n d : Nat) (e : Int) (rnd : Nat) (sat anyNan anyInf : Bool) :
    (f.roundRat neg n d e rnd sat anyNan anyInf).val = (f.roundRat neg n d e rnd sat false false).val := by
  unfold FFmt.roundRat
  dsimp only
  split_ifs <;> rfl

section
variable {f : FFmt} (hf : f.Ieee)
include hf

theorem round_inf_val (neg : Bool) (rnd : Nat) (anyNan anyInf : Bool) : (f.round (.inf neg) rnd false anyNan anyInf).val = f.inf neg := by
  simp [FFmt.round, FFmt.over, hf.ieee, hf.hasInf]

theorem round_zero_val (neg : Bool) (e : Int) (rnd : Nat) (sat anyNan anyInf : Bool) :
    (f.round (.fin neg 0 e) rnd sat anyNan anyInf).val = if neg then 2 ^ (f.width - 1) else 0 := by
  simp [FFmt.round, FFmt.roundRat, code_zero hf]

/-- A row holds if it holds of the values that the patterns stand for. -/
theorem specialRow_of {op : Nat → Elem} {zero inf : Bool → Nat}
    (zeros : ∀ neg x, f.decode x = .fin neg 0 (f.emin - (f.prec - 1)) → (op x).val = zero neg)
    (infs : ∀ neg x, f.decode x = .inf neg → (op x).val = inf neg) (nan : ∀ x, f.decode x = .nan → (op x).val = f.nan) :
    SpecialRow f op (zero false) (zero true) (inf false) (inf true) :=
  ⟨zeros _ _ (decode_zero hf false), zeros _ _ (decode_zero hf true), infs _ _ (decode_inf hf false), infs _ _ (decode_inf hf true),
    nan _ (decode_nan hf)⟩

theorem fSqrt_special (rnd : Nat) : SpecialRow f (fSqrtElem f rnd) 0 (2 ^ (f.width - 1)) (f.inf false) f.nan :=
  specialRow_of hf (zero := fun neg => if neg then 2 ^ (f.width - 1) else 0) (inf := fun neg => if neg then f.nan else f.inf false)
    (fun neg x h => by simp [fSqrtElem, h, code_zero hf])
    (fun neg x h => by cases neg <;> simp [fSqrtElem, h, round_inf_val hf, round_nan_val])
    (fun x h => by simp [fSqrtElem, h, round_nan_val])

theorem fRcp_special (rnd : Nat) : SpecialRow f (fRcpElem f rnd) (f.inf false) (f.inf true) 0 (2 ^ (f.width - 1)) :=
  specialRow_of hf (zero := f.inf) (inf := fun neg => if neg then 2 ^ (f.width - 1) else 0)
    (fun neg x h => by simp [fRcpElem, fDivVal, h, round_inf_val hf])
    (fun neg x h => by simp [fRcpElem, fDivVal, h, round_zero_val hf])
    (fun x h => by simp [fRcpElem, fDivVal, h, round_nan_val])

theorem fRsq_special : SpecialRow f (fRsqElem f) (f.inf false) (f.inf true) 0 f.nan :=
  specialRow_of hf (zero := f.inf) (inf := fun neg => if neg then f.nan else 0)
    (fun neg x h => by simp [fRsqElem, exactly, h, round_inf_val hf])
    (fun neg x h => by cases neg <;> simp [fRsqElem, exactly, h, round_zero_val hf, round_nan_val])
    (fun x h => by simp [fRsqElem, exactly, h, round_nan_val])

theorem fExp2_special :
    let one := (f.round (.fin false 1 0) 0 false false false).val
    SpecialRow f (fExp2Elem f) one one (f.inf false) 0 :=
  specialRow_of hf (zero := fun _ => (f.round (.fin false 1 0) 0 false false false).val) (inf := fun neg => if neg then 0 else f.inf false)
    (fun neg x h => by simp [fExp2Elem, exactly, h])
    (fun neg x h => by cases neg <;> simp [fExp2Elem, exactly, h, round_inf_val hf, round_zero_val hf])
    (fun x h => by simp [fExp2Elem, exactly, h, round_nan_val])

theorem fLog2_special : SpecialRow f (fLog2Elem f) (f.inf true) (f.inf true) (f.inf false) f.nan :=
  specialRow_of hf (zero := fun _ => f.inf true) (inf := fun neg => if neg then f.nan else f.inf false)
    (fun neg x h => by simp [fLog2Elem, exactly, h, round_inf_val hf])
    (fun neg x h => by cases neg <;> simp [fLog2Elem, exactly, h, round_inf_val hf, round_nan_val])
    (fun x h => by simp [fLog2Elem, exactly, h, round_nan_val])

theorem fSin_special : SpecialRow f (fSinElem f) 0 (2 ^ (f.width - 1)) f.nan f.nan :=
  specialRow_of hf (zero := fun neg => if neg then 2 ^ (f.width - 1) else 0) (inf := fun _ => f.nan)
    (fun neg x h => by simp [fSinElem, h, modTwo, code_zero hf])
    (fun neg x h => by simp [fSinElem, exactly, h, round_nan_val])
    (fun x h => by simp [fSinElem, exactly, h, round_nan_val])

/-- cos 0 is the sine a quarter turn on. -/
theorem fCos_special :
    let one := (f.round (.fin false 1 0) 0 false false false).val
    SpecialRow f (fCosElem f) one one f.nan f.nan :=
  have quarter : (0 + fixOne / 2) % (2 * fixOne) = fixOne / 2 ∧ fixOne / 2 % fixOne ≠ 0 := by norm_num [fixOne]
  specialRow_of hf (zero := fun _ => (f.round (.fin false 1 0) 0 false false false).val) (inf := fun _ => f.nan)
    (fun neg x h => by
      have zero (e : Int) : modTwo 0 e = 0 := by simp [modTwo]
      simp only [fCosElem, h, zero, quarter.1, quarter.2, if_false, if_true, exactly])
    (fun neg x h => by simp [fCosElem, exactly, h, round_nan_val])
    (fun x h => by simp [fCosElem, exactly, h, round_nan_val])

theorem fTanh_special :
    SpecialRow f (fTanhElem f) 0 (2 ^ (f.width - 1)) (f.round (.fin false 1 0) 0 false false false).val
      (f.round (.fin true 1 0) 0 false false false).val :=
  specialRow_of hf (zero := fun neg => if neg then 2 ^ (f.width - 1) else 0) (inf := fun neg => (f.round (.fin neg 1 0) 0 false false false).val)
    (fun neg x h => by simp [fTanhElem, h, code_zero hf])
    (fun neg x h => by simp only [fTanhElem, h]; exact roundRat_val ..)
    (fun x h => by simp [fTanhElem, exactly, h, round_nan_val])

end

/-- Settles O9: compares and fmin, fmax rest on one order of numbers (`cmp_fin`, `cmp_inf`, `cmp_swap`), and each function's row is read off the values
that the patterns of zeros, infinities and NaN stand for (`specialRow_of`). -/
theorem floatSpecialCases : Obligations.FloatSpecialCases := by
  unfold Obligations.FloatSpecialCases
  refine ⟨fun f mem a b => ?_, fun f mem rnd => ?_⟩
  · have hf := ieee_of_mem mem
    obtain ⟨zeros, plus, minus⟩ := cmp_zeros hf
    obtain ⟨uno, ord, ne, le, ge, gt⟩ := fCmpBit_conditions f a b
    intro x y mn mx
    refine ⟨fun hx hy => ⟨fMinMax_bothNan f false hx hy, fMinMax_bothNan f true hx hy⟩,
      fun hx hy => ⟨fMinMax_firstNan f false hx hy, fMinMax_firstNan f true hx hy⟩,
      fun hx hy => ⟨fMinMax_secondNan f false hx hy, fMinMax_secondNan f true hx hy⟩,
      fMinMax_numbers f a b, ?minZero, ?maxZero, uno, ord, ne, le, ge, gt,
      (fCmpBit_eq ..).mpr zeros, fClassOf_oneBit f a, fMinMax_lt f a b, fMinMax_gt f a b,
      fun n m e n' m' e' hx hy => ?finite,
      fun number other => ⟨fun hx => ?below, fun hx => ?above⟩⟩
    case minZero => simp [fMinMax_ordered f false _ _ zeros, plus]
    case maxZero => simp [fMinMax_ordered f true _ _ zeros, plus]
    case finite =>
      intro v w
      rw [fCmpBit_eq, fCmpBit_lt, show f.decode a = _ from hx, show f.decode b = _ from hy]
      exact cmp_fin n n' m m' e e'
    case below =>
      rw [fCmpBit_lt, show f.decode a = _ from hx]
      exact cmp_inf true number (hx ▸ other)
    case above =>
      rw [fCmpBit_gt, show f.decode a = _ from hx]
      exact cmp_inf false number (hx ▸ other)
  · have hf := ieee_of_mem mem
    exact ⟨fSqrt_special hf rnd, fRcp_special hf rnd, fRsq_special hf, fExp2_special hf, fLog2_special hf, fSin_special hf, fCos_special hf,
      fTanh_special hf⟩

end Sys2Proof.Machine
end
